-- ==== Sys2Proof/Word.lean ====
section
/-! DEFINITION. The word types of the part: bytes, register words and package addresses (R7, Table 1.6). -/

namespace Sys2Proof

/-- One byte of memory. -/
abbrev Byte := BitVec 8

/-- A register as the register index holds it: 64 bits, of which a 32-bit register uses the lower 32. -/
abbrev Word := BitVec 64

/-- A package address: 48 bits wide (Table 1.6), held as the number it is. -/
abbrev Addr := Nat

/-- Device Time: a count of nanoseconds below 2^64 (R8). -/
abbrev Time := Nat

end Sys2Proof
end

