-- ==== Sys2Proof/Config.lean ====
section
/-! DEFINITION. What the spec leaves open and no command sets: uninterpreted functions without a body, of which
nothing can be proved. -/

namespace Sys2Proof.Config

/-- A byte whose contents the spec leaves undefined: by the number of the draw and the place. -/
opaque hazyByte (n off : Nat) : Byte

/-- Which of two zeros of unlike sign min, max and the order of a reduction give: by operation, format and operand bits. -/
opaque zeroPick (op fmt a b : Nat) : Bool

/-- Sign and payload of the NaN that a unit writes: the spec says NaN and no more. `n` is the draw of the command, `i` the element
within it, `fmt` the format code. -/
opaque nanCode (n i fmt : Nat) : Nat

/-- Which of the results within the error bound of Table 3.10 a special function gives: by function, format and operand bits. -/
opaque ulpPick (op fmt a b : Nat) : Nat

/-- The fixed latency of a CSI-2 port's receiver, in ns (R271). -/
opaque csiLatency (port : Nat) : BitVec 16

/-- The disagreement that a frame shows when no edge was produced for it to pair with: by the draw, as i32 (R275). -/
opaque noEdge (n : Nat) : Nat

/-- The rate correction that the Device Time servo chooses at a Sync: by the draw. -/
opaque servo (n : Nat) : Nat

/-- A number the trust block's random generator draws (R208, R413): by the draw. -/
opaque trng (n : Nat) : Nat

/-- SHA3-512 and SHA3-256 of bytes (R389, R398), as little-endian numbers. -/
opaque sha3_512 (bs : List Byte) : Nat
opaque sha3_256 (bs : List Byte) : Nat

/-- Ed25519 and ML-DSA-65 verification (R391): public key, signature, message. -/
opaque edVerify (pub sig msg : List Byte) : Bool
opaque mlVerify (pub sig msg : List Byte) : Bool

/-- AES-256-KW unwrapping (R401): the key held in OTP, the wrapped bytes; none where its integrity check fails. -/
opaque keyUnwrap (wrapKey : Nat) (bs : List Byte) : Option Nat

/-- The part's unique secret, as the PUF gives it with its helper data (R410). -/
opaque uds (helper : List Byte) : Nat

/-- SHA3-512 of the boot ROM (R410). -/
opaque romDigest : Nat

/-- KMAC256 with an output of 32 bytes (R410): key, data, customisation string. -/
opaque kmac (key : Nat) (data : List Byte) (name : String) : Nat

/-- Signatures of the alias keys derived from a seed (R410, Table 14.12): message. -/
opaque edSign (seed : Nat) (msg : List Byte) : List Byte
opaque mlSign (seed : Nat) (msg : List Byte) : List Byte

/-- Alias certificate of an algorithm (0 Ed25519, 1 ML-DSA-65): seeds of the DeviceID and the alias keys, measurement M. -/
opaque aliasCert (alg idSeed alSeed m : Nat) : List Byte

/-- DeviceID certificate of an algorithm in the certificate store. -/
opaque deviceCert (alg : Nat) (certs : List Byte) : List Byte

/-- Default VLAN ID of an Ethernet port for untagged frames (Table 13.3): no register holds it. -/
opaque defaultVid (port : Nat) : Nat

/-- Beats for which a task that was aborted has run on its engine, and its unit-port stall beats: no command says them (R95, R100, log entry 93). -/
opaque ranBeats (n : Nat) : Nat
opaque ranStalls (n : Nat) : Nat

/-- Word 1 of a MGMT message, by its kind and die, and of a TIME message, by the Device Time it carries: the spec places nothing in them
(R343, log entry 101). -/
opaque mgmtWord (kind die : Nat) : BitVec 64
opaque timeWord (time : Nat) : BitVec 64

end Sys2Proof.Config
end

