-- ==== Sys2Proof/Syntax.lean ====
section
/-! DEFINITION. The commands of the part: one constructor for each row of the table of operations and events, with the
operands its rules need. What the part only observes (pin levels, received frames, readings of its sensors, the results
of its error checkers) is an operand of the command that observes it. -/

namespace Sys2Proof

/-- One sentinel sample: its ring completions in the sample window (R42), the slack (0–32) and whether the ceiling gate held a
beat back (R46). -/
structure PaceObs where
  count : Nat
  slack : Nat
  held : Bool
deriving DecidableEq, Repr

/-- What the part's own checkers observe while a unit executes one entry: words of the local store corrected and whether one was
uncorrectable (R97); whether the unit's two copies disagree (R87, R114, R126, R324, R425); the local-store blocks whose
check-value generators disagree (R420); what each access to memory met, in order (0 nothing, 1 a corrected bit, 2 a failed read whose
repeat succeeded, 3 a failure; R200, R211); and faults of the array, as row, logical output column (128 the checksum column) and a mask of flipped bits of its result. -/
structure UnitObs where
  eccFix : Nat := 0
  eccBad : Bool := false
  copies : Bool := false
  /-- the reducer's copies disagree (R130) -/
  redCopies : Bool := false
  gen : List Nat := []
  mem : List Nat := []
  flips : List (Nat × Nat × Nat) := []
  /-- bank stall beats of the entry's accesses to the local store -/
  stall : Nat := 0
  /-- beats for which the task has run, where the entry ends it -/
  beats : Nat := 0
  /-- the index, key, query or cell at which the copies disagree -/
  item : Nat := 0
deriving DecidableEq, Repr

/-- What the partner's read response brings (R358, R420): the data, and whether the generators of its check value disagree. -/
structure RespObs where
  data : List Byte := []
  gen : Bool := false
deriving DecidableEq, Repr

/-- How the retrain of a ring link ends (R352): its success, the receive lanes newly replaced in its east module and in the west module at its other
end, and the result of the latency echo. -/
structure RingObs where
  ok : Bool := false
  east : Nat := 0
  west : Nat := 0
  lat : Nat := 0
deriving DecidableEq, Repr

/-- What goes wrong in a reload from UFS (R409): the references that fail, and the blocks whose check-value generators disagree. -/
structure ReloadObs where
  failed : List Nat := []
  gen : List Nat := []
deriving DecidableEq, Repr

/-- A picture as a decode core hands it over (R296): luma and chroma samples, row by row; no chroma where monochrome. -/
structure Picture where
  w : Nat
  h : Nat
  depth : Nat
  y : List Nat
  cb : List Nat := []
  cr : List Nat := []
deriving DecidableEq, Repr

/-- Where a mechanism failed its start-up injection (Table 16.8, R557). -/
inductive InjPlace where
  /-- a mechanism of the hub or the islands, with no place of its own -/
  | hub
  /-- engine or pace domain `e` of a die -/
  | engine (t e : Nat)
  | die (t : Nat)
  /-- a memory channel; die 8 is the bulk tier -/
  | channel (die c : Nat)
  | linkModule (m : Nat)
  | csiPort (p : Nat)
  | etherPort (p : Nat)
  /-- generators and copies of units that are one per die -/
  | warp (t : Nat)
  | walker (t : Nat)
  | preproc
  | setWriter
  | tracker
  | storage
  | partner
  | core (k : Nat)
deriving DecidableEq, Repr

/-- What happens next in the boot sequence (Tables 14.9 and 17.3), with what the part reads or observes there. -/
inductive BootStep where
  /-- step 1: reset release -/
  | release
  /-- Table 17.3 orders 5–9: clocks, domains, release token waves; modules begin training -/
  | clocks
  /-- step 3: a memory channel has trained, or failed -/
  | memory (die c : Nat) (ok : Bool)
  /-- R461–R463: Phobos has injected mechanism `m`; where it failed -/
  | inject (m : Nat) (fails : List InjPlace)
  /-- step 3: image A, or B after A failed, as the boot flash gives it; is the PUF reconstructed? `gen`: blocks of the image area whose check-value
  generators disagree (R420) -/
  | check (flash : List Byte) (puf : Bool) (gen : List Nat)
  /-- step 4 -/
  | configure
  /-- step 5: the entry lists of each plan section, in directory order, as (graph, task, bytes); the bytes that UFS returns for each weight
  reference, and the READs of it that failed; `gen`: addresses of the blocks whose check-value generators disagree (R420) -/
  | load (lists : List (List (Nat × Nat × List Byte))) (data : List (List Byte)) (failed gen : List Nat)
  /-- step 6 -/
  | commit
  /-- R404 item 7: the next burn is made -/
  | burn
deriving DecidableEq, Repr

/-- The commands, in the order of the table of operations and events. -/
inductive Instr where
  /-- R406: A write to a register that has no row of its own is applied by the access code of each field it reaches. -/
  | registerWrite (src agent addr v : Nat)
  /-- R35: Writing 1 to the valid bit of an error capture register clears it, and a capture pending in the same cycle is taken in after the clear. -/
  | captureClear (src agent addr : Nat)
  /-- R25: A requester issues a load or store that is decoded against the package address map and routed by topology. -/
  | packageAccess (src agent addr len : Nat) (data : Option (List Byte)) (exec : Option Nat) (comb : Option (Nat × Nat)) (chk ecc : Nat)
  /-- R218: A block held at its port by pacing issues when its pacing time is reached, its wait being added to BWR_CNT_HOLD. -/
  | heldBlockIssue (inst : Nat)
  /-- R221: A near-memory or bulk-tier channel serves the next waiting request in the static and latency-target order. -/
  | channelServe (die c ecc : Nat) (miss : Bool)
  /-- R201: A shared-store slice serves one 64-byte access, applying atomic combines and incremental check-value updates. -/
  | sliceServe (t sl ecc : Nat)
  /-- R221: A per-bank refresh or refresh management falls due and is served ahead of all other requests. -/
  | refresh (die c : Nat)
  /-- R213: The scrubber reads the next data block against its check value and raises 0x0204 on a mismatch without writing. -/
  | patrolScrub (die c ecc : Nat)
  /-- R209: At the end of each 1 s window a channel whose row-miss ratio exceeds miss_warn raises 0x0205 at most once per hour. -/
  | rowMissWindow (die c : Nat)
  /-- R202: Every 100 ms the WCK2DQ oscillator is checked and delays are adjusted inside refresh windows. -/
  | wck2dqCheck (die c : Nat) (steps : Int) (ok : Bool)
  /-- R202: Every 16 ms the refresh rate is read from MR4 and applied. -/
  | mr4Poll (die c mult : Nat)
  /-- R202: Once per hour the read and write eye margins of a channel are measured within the system share. -/
  | eyeMeasurement (die c rd wr : Nat)
  /-- R43: Every 1 µs each domain's sentinel sample updates filtered pace and the pace registers. -/
  | paceSample (t : Nat) (obs : List PaceObs)
  /-- R51: After 100 ms with every ON domain at or above 1,720 Mbeat/s the die returns to NORMAL and raises 0x0042. -/
  | paceAlarmClear (t : Nat)
  /-- R47: Each 1 ms update the slow layer raises or lowers the VDD_TZ rail by AVSBus, or makes a status read while avs_fault is set. -/
  | slowLayerUpdate (t : Nat)
  /-- R50: An AVSBus transaction completes and is accepted, retried with 0x1044, or after three retries sets avs_fault with 0x1048. -/
  | avsTransactionDone (t : Nat) (ok : Bool) (readback : Nat)
  /-- R48: The regulator reports the raised rail and the fast layer takes the new LDO limit at its next sample. -/
  | railRaiseDone (t : Nat)
  /-- R63: A staged write to ENG_LMAP holds a new logical map and starts the wake of a newly named spare engine. -/
  | engLmapWrite (t half : Nat) (upper : Bool) (v : Nat)
  /-- R99: A staged write to ENG_COL_FAIL marks physical columns failed, ignoring any attempt to clear a bit in force. -/
  | engColFailWrite (t e word v : Nat)
  /-- R159: At each plan-period boundary the part applies switches, staged fields, mode changes, submitted graphs and starts the new frozen schedule. -/
  | planPeriodBoundary (copies : Bool)
  /-- R161: A write to PLN_MODE_REQ from control cores, OHP or SMP stages a mode request, same-cycle writes applied in fixed order. -/
  | modeReqWrite (core ohp smp : Option Nat)
  /-- R145: A graph instance reaches its release time after the period boundary. -/
  | instanceRelease (g j : Nat)
  /-- R246: A walk ends within its bound and its decision digest is compared across walkers. -/
  | walkDone (g j : Nat) (copies : List Nat) (digest : Bool)
  /-- R41: A schedule table entry reaches its release time and the sequencer issues the start token if dependences are complete. -/
  | taskRelease (g j inst : Nat)
  /-- R181: A task held by a dependence or busy executor starts once both are free, counted late with 0x01C4. -/
  | taskLateStart (g j inst : Nat)
  /-- R41: A task's end token is time-stamped and its overrun, early end, gating and dependents are handled. -/
  | taskEnd (g j inst beats stalls : Nat)
  /-- R433: A graph instance retires once every task has ended and every audited tile has a verdict or is skipped. -/
  | instanceRetire (g j : Nat) (ecc : List Nat) (copies : Bool)
  /-- R187: A job-step barrier task not released within barrier_us is aborted with its step and raises 0x21C7. -/
  | barrierTimeout (g j inst : Nat)
  /-- R68: An ARRAY pass with acc_mode 0 writes its result to the accumulator tile. -/
  | passStart (t e : Nat) (o : UnitObs)
  /-- R77: An ARRAY pass with acc_mode 1 adds its result into the accumulator tile. -/
  | passAdd (t e : Nat) (o : UnitObs)
  /-- R78: An ARRAY pass with acc_mode 2 narrows its result to the output tile. -/
  | passSingle (t e : Nat) (o : UnitObs)
  /-- R78: An ARRAY pass with acc_mode 3 accumulates and then narrows to the output tile. -/
  | passAddNarrow (t e : Nat) (o : UnitObs)
  /-- R89: Vector operation 0x01 computes d = a + b. -/
  | vecAdd (t e : Nat) (o : UnitObs)
  /-- R89: Vector operation 0x02 computes d = a − b. -/
  | vecSub (t e : Nat) (o : UnitObs)
  /-- R89: Vector operation 0x03 computes d = a × b. -/
  | vecMul (t e : Nat) (o : UnitObs)
  /-- R89: Vector operation 0x04 computes d = a × b + c. -/
  | vecFma (t e : Nat) (o : UnitObs)
  /-- R89: Vector operation 0x05 computes d = min(a, b). -/
  | vecMin (t e : Nat) (o : UnitObs)
  /-- R89: Vector operation 0x06 computes d = max(a, b). -/
  | vecMax (t e : Nat) (o : UnitObs)
  /-- R89: Vector operation 0x07 computes d = |a|. -/
  | vecAbs (t e : Nat) (o : UnitObs)
  /-- R89: Vector operation 0x08 computes d = −a. -/
  | vecNeg (t e : Nat) (o : UnitObs)
  /-- R89: Vector operation 0x09 sets d to 1.0 where a < b and 0.0 otherwise. -/
  | vecLess (t e : Nat) (o : UnitObs)
  /-- R89: Vector operation 0x0A selects a where c is nonzero and b otherwise. -/
  | vecSelect (t e : Nat) (o : UnitObs)
  /-- R91: Vector operation 0x10 computes exp2(a) within the stated accuracy. -/
  | vecExp2 (t e : Nat) (o : UnitObs)
  /-- R91: Vector operation 0x11 computes log2(a) within the stated accuracy. -/
  | vecLog2 (t e : Nat) (o : UnitObs)
  /-- R91: Vector operation 0x12 computes 1/a. -/
  | vecRecip (t e : Nat) (o : UnitObs)
  /-- R91: Vector operation 0x13 computes 1/√a. -/
  | vecRsqrt (t e : Nat) (o : UnitObs)
  /-- R89: Vector operation 0x20 converts a to the destination format, computing MX scales by R81. -/
  | cvt (t e : Nat) (o : UnitObs)
  /-- R89: Vector operation 0x40 adds INT32 elements modulo 2^32. -/
  | vecIadd (t e : Nat) (o : UnitObs)
  /-- R89: Vector operation 0x41 keeps the low 32 bits of a × b. -/
  | vecImul (t e : Nat) (o : UnitObs)
  /-- R89: Vector operation 0x42 shifts a left by b[4:0]. -/
  | vecShl (t e : Nat) (o : UnitObs)
  /-- R89: Vector operation 0x43 shifts a right arithmetically by b[4:0]. -/
  | vecShr (t e : Nat) (o : UnitObs)
  /-- R89: Vector operation 0x44 computes a & b. -/
  | vecAnd (t e : Nat) (o : UnitObs)
  /-- R89: Vector operation 0x45 computes a | b. -/
  | vecOr (t e : Nat) (o : UnitObs)
  /-- R89: Vector operation 0x46 computes a ^ b. -/
  | vecXor (t e : Nat) (o : UnitObs)
  /-- R108: An index entry copies table rows named by the index list to destination rows. -/
  | gather (t e : Nat) (o : UnitObs)
  /-- R108: An index entry stores source rows to the destination rows named by the index list. -/
  | scatterStore (t e : Nat) (o : UnitObs)
  /-- R108: An index entry adds source rows into indexed destination rows. -/
  | scatterAdd (t e : Nat) (o : UnitObs)
  /-- R108: An index entry combines source rows into indexed destination rows by maximum. -/
  | scatterMax (t e : Nat) (o : UnitObs)
  /-- R108: An index entry combines source rows into indexed destination rows by minimum. -/
  | scatterMin (t e : Nat) (o : UnitObs)
  /-- R110: A segmented reduction sums the rows of each segment. -/
  | segredSum (t e : Nat) (o : UnitObs)
  /-- R110: A segmented reduction takes the maximum over each segment. -/
  | segredMax (t e : Nat) (o : UnitObs)
  /-- R110: A segmented reduction takes the minimum over each segment. -/
  | segredMin (t e : Nat) (o : UnitObs)
  /-- R110: A segmented reduction takes the mean of each segment. -/
  | segredMean (t e : Nat) (o : UnitObs)
  /-- R110: A segmented reduction writes the normalised exponential of each row of each segment. -/
  | segredNormExp (t e : Nat) (o : UnitObs)
  /-- R112: An index entry counts indices into bins, clearing local bins or adding into shared-store bins. -/
  | hist (t e : Nat) (o : UnitObs)
  /-- R112: An index entry writes the distinct index values, their count and the inverse map. -/
  | dedup (t e : Nat) (o : UnitObs)
  /-- R116: A sort entry writes all n keys in stable order. -/
  | sort (t e : Nat) (o : UnitObs)
  /-- R116: A sort entry writes the ordered union of two runs. -/
  | merge (t e : Nat) (o : UnitObs)
  /-- R116: A sort entry writes the first k keys that SORT would write. -/
  | topk (t e : Nat) (o : UnitObs)
  /-- R121: A SEEK entry builds the voxel index header, cell table and perm over a point set. -/
  | bin (t e : Nat) (o : UnitObs)
  /-- R123: A SEEK entry returns the first k qualifying points per query in scan order. -/
  | radius (t e : Nat) (o : UnitObs)
  /-- R123: A SEEK entry returns the k nearest qualifying points per query. -/
  | knn (t e : Nat) (o : UnitObs)
  /-- R154: A MOVE entry with dir 0 fills local-store blocks from a package address, verifying check values. -/
  | moveFill (t e : Nat) (o : UnitObs)
  /-- R154: A MOVE entry with dir 1 drains local-store blocks to a package address with their check values. -/
  | moveDrain (t e : Nat) (o : UnitObs)
  /-- R320: A warp entry accumulates feature pixels along depth bins into covered grid cells. -/
  | splat (t : Nat) (o : UnitObs)
  /-- R321: A warp entry samples feature maps at projected heights into covered grid cells. -/
  | sample (t : Nat) (o : UnitObs)
  /-- R146: A TEST task runs a signed golden set on all units of an engine. -/
  | testRun (t e : Nat) (passed : Bool)
  /-- R558: The copy of entry lists into a newly mapped or woken engine's local store completes. -/
  | listCopyDone (t e : Nat)
  /-- R172: An engine's beacon slot begins, aborting any task still on its ports and starting the golden program. -/
  | beaconSlotStart (t slot : Nat)
  /-- R428: The beacon program ends and its output check values are compared with the golden set. -/
  | beaconDone (t e : Nat) (passed : Bool)
  /-- R429: A beacon still running at slot end is abandoned with 0x05C7, the second in a row counting as failure. -/
  | beaconSlotEnd (t slot : Nat)
  /-- R432: The audit engine's recomputed tile CRC is compared, a difference raising 0x25C6 and withholding the instance. -/
  | auditVerdict (t crc : Nat)
  /-- R433: A tile without a verdict 100 µs after its task ends counts as skipped. -/
  | auditTimeout (t k : Nat)
  /-- R437: The quarantine test ends, marking a failed column, starting clean runs or retiring the engine. -/
  | quarantineTestDone (t e cols : Nat) (other : Bool)
  /-- R438: An engine passing 1,000 consecutive beacons becomes SPARE with 0x05C8, or is retired on a failure. -/
  | cleanRunsDone (t e n : Nat) (passed : Bool)
  /-- R190: An OHP GRAPH_SUBMIT validates a host graph and queues it for admission. -/
  | graphSubmit (ecc : List Nat) (lists : List (Nat × List Byte)) (copies : Bool)
  /-- R167: Admission of a graph completes with an accept carrying its bound or a reject with a reason code. -/
  | admissionVerdict (copies : Bool)
  /-- R186: ADM_PREEMPT op 1 requests withdrawal of a serving or job-step graph at its next step boundary. -/
  | preemptRequest (g : Nat)
  /-- R189: ADM_PREEMPT op 2 requests that a pre-empted graph resume at the next plan-period boundary. -/
  | resumeRequest (g : Nat)
  /-- R253: A write to req_tail or comp_head of KVW_RING_P is taken, or ignored and counted when it would overrun. -/
  | kvRingIndexWrite (p : Nat) (tail head : Option Nat)
  /-- R310: At each instant boundary the instant number advances, staged ING, PRE, FUS and TRK fields take effect and a calibration switch is made. -/
  | instantBoundary
  /-- R312: Writing 1 to FUS_CAL_CTRL.swap requests a bank switch at the next instant boundary. -/
  | calSwapRequest
  /-- R313: A write to the next calibration bank is applied or held while a WARP task on that bank runs. -/
  | calNextWrite (n w v : Nat)
  /-- R313: A held calibration write is applied once the last WARP task using the bank ends. -/
  | calNextWriteApply
  /-- R278: At the pick time ingest takes each sensor's newest complete frame, marking stale and excluded entries. -/
  | pick (copies : Bool) (gen : List Nat)
  /-- R331: At trk_at_us the Track Keeper runs the late path, assignment, filtering, life cycle, publication and region sets. -/
  | trackUpdate (copies : Bool)
  /-- R257: A gPTP Sync is received and the servo updates the phase error and rate correction. -/
  | gptpSync (port domain gm : Nat) (offset : Int) (delay interval : Nat)
  /-- R257: No valid Sync for three intervals, or loss of asCapable, puts Device Time in HOLDOVER with 0x02C2. -/
  | syncTimeout (lostCapable : Bool)
  /-- R261: As grandmaster the part transmits a two-step Sync at its sync interval. -/
  | gmSyncTransmit
  /-- R262: A time beacon reaches a compute die and its Device Time copy is corrected or held. -/
  | time (t : Nat) (d : Int)
  /-- R263: 10 µs without a beacon at a running die raises 0x32C6. -/
  | timeBeaconLoss (t : Nat)
  /-- R264: A trigger output produces its active edge at its scheduled Device Time, or skips it with 0x02CF. -/
  | triggerEdge (n : Nat)
  /-- R264: A trigger output returns inactive after width_us. -/
  | triggerWidthEnd (n : Nat)
  /-- R271: A frame's start is received and stamped, drift evaluated, ROI set latched and an output buffer taken. -/
  | frameStart (port vc hdr : Nat) (dev : Int) (emb : List Byte)
  /-- R269: A CSI-2 long packet is checked and its payload given check values, or its frame dropped as corrupt. -/
  | csi2LongPacket (port vc dt hdr fill : Nat) (crcBad gen : Bool) (payload : List Byte)
  /-- R457: A frame ends and is judged for frozen or repeated content. -/
  | frameEnd (port vc hdr : Nat)
  /-- R276: No capture for three frame periods puts the sensor ABSENT with 0x22CD. -/
  | sensorAbsent (n : Nat)
  /-- R293: The pipeline completes a picture's tensors and writes its output descriptor, or withholds it on a fault. -/
  | pictureDone (decoded : Bool) (id slot view : Nat) (o : UnitObs)
  /-- R296: A decode core starts a view part once its fetch is done. -/
  | decodePartStart (core q slot view : Nat)
  /-- R298: At a slice boundary a part past its decode budget is abandoned with 0x2342. -/
  | sliceBoundary (core : Nat)
  /-- R298: A part reaching twice ceil_us is stopped within 10 µs. -/
  | decodeHardStop (core : Nat)
  /-- R298: A view part ends, its target picture goes to the pipeline and the running mean is updated. -/
  | decodePartEnd (core : Nat) (err : Option Nat) (pic : Picture) (npics hold : Nat) (gen : Bool)
  /-- R302: A sample stream forms the next batch from forward and reserve cursors, replacing bad samples. -/
  | batchForm (q : Nat)
  /-- R307: A write to done or batch_done of SMPL_FETCH is taken, or ignored when it would pass issued or batch_ready. -/
  | smplFetchWrite (q : Nat) (done batchDone : Option Nat)
  /-- R344: A PFP flit is CRC-checked and its slots taken, or discarded with a replay request and 0x1441. -/
  | flitReceive (m : Nat) (flit : List Byte) (aligned : Bool)
  /-- R345: A retrain ends, returning the module to ACTIVE with 0x1442 or fencing it. -/
  | retrainDone (m : Nat) (ok : Bool) (lanes lat : Nat)
  /-- R349: 256 ns without a CRC-good flit fences the module. -/
  | linkSilence (m : Nat)
  /-- R343: A PFP READ request reaches its target. -/
  | read (id ecc : Nat)
  /-- R343: A PFP whole-block WRITE with its check value reaches its target. -/
  | write (id ecc : Nat)
  /-- R343: A PFP partial write within one block reaches its target. -/
  | writePart (id ecc : Nat)
  /-- R343: A read response returns data to the requester. -/
  | rdResp (id : Nat) (resp : RespObs)
  /-- R343: A write response completes a write at the requester. -/
  | wrResp (id : Nat)
  /-- R343: An error response ends an access with its kind. -/
  | errResp (id kind : Nat)
  /-- R350: A MGMT fence notice makes a ring neighbour fence its module facing the die. -/
  | fenceNotice (t die : Nat)
  /-- R353: A MGMT unfence notice returns direct ring routing to a rejoined die. -/
  | unfenceNotice (t die : Nat)
  /-- R353: A MGMT latency echo measures a link's one-way latency. -/
  | latencyEcho (m lat : Nat)
  /-- R346: A request unanswered for 2,000 ns ends with ERR_RESP kind 4, raises 0x2447 and aborts its task. -/
  | requestTimeout (id : Nat)
  /-- R348: Every 1 ms lane samplers are recentred and a low eye margin raises 0x0444 and starts a lane swap. -/
  | eyeSweep (m : Nat) (centres : List Int) (margin : Nat)
  /-- R348: A lane copy of 1,024 flits matches and replaces the worst lane with 0x1443. -/
  | laneSwapDone (m : Nat) (same : Bool)
  /-- R352: A fenced ring link is retrained every 1 s and returns at the next boundary on success. -/
  | ringRetrain (t : Nat) (o : RingObs)
  /-- R353: Training of a die's spoke and ring modules or the partner link completes. -/
  | linkTrainingDone (m : Nat) (ok : Bool) (tx rx : Nat)
  /-- R356: A partner's parameter offer is checked and answered with a PARAM_GRANT. -/
  | paramOffer (word : Nat)
  /-- R355: A partner admission step exceeding 10 ms leaves the partner DOWN with 0x044C. -/
  | partnerStepTimeout
  /-- R357: With auto_retry, partner admission is repeated every 100 ms. -/
  | partnerRetry
  /-- R359: A partner request is rewritten and checked against the firewall windows, or refused with 0x0449. -/
  | partnerRequest (tag addr len : Nat) (data : Option (List Byte)) (gen : Bool)
  /-- R361: The regulator issues a held partner request into the package at its spacing. -/
  | partnerIssue
  /-- R358: A partner response missing for 1,500 ns ends the request with ERR_RESP kind 4 and 0x244B. -/
  | partnerResponseTimeout (id : Nat)
  /-- R367: A received Ethernet frame passes the ingress classification steps in order. -/
  | ethFrameReceive (port : Nat) (frame : List Byte) (stamp : Nat) (fcsBad : Bool) (sec : Nat) (full qci dup gen : Bool)
  /-- R386: A port's link state changes, raising 0x0481. -/
  | ethLinkChange (port : Nat) (up : Bool) (rate : Nat)
  /-- R370: A staged gate control list takes over at its admin base time, or is refused with 0x0485. -/
  | gclSwitch (port : Nat)
  /-- R369: A gate control list interval expires and the next entry's gate states apply. -/
  | gateIntervalEnd (port : Nat)
  /-- R374: The endpoint answers with the role epoch of each named unit. -/
  | roleQuery (copies : Bool)
  /-- R373: The endpoint reads 32-bit words from the CSR windows. -/
  | csrRead (copies : Bool)
  /-- R373: The endpoint writes 32-bit words to CSRs as a host write, refusing protected blocks. -/
  | csrWrite (copies : Bool)
  /-- R373: The endpoint reads blocks of the bulk tier, verifying check values at egress. -/
  | memRead (ecc : List Nat) (copies : Bool)
  /-- R373: The endpoint writes blocks to the bulk tier with check values made at entry. -/
  | memWrite (ecc : List Nat) (gen copies : Bool)
  /-- R373: An OHP MODE_REQ writes PLN_MODE_REQ as the host. -/
  | modeReq (copies : Bool)
  /-- R373: An OHP PREEMPT writes ADM_PREEMPT as the host. -/
  | preempt (copies : Bool)
  /-- R373: An OHP KV_RING writes the KV ring indices of a partition. -/
  | kvRing (copies : Bool)
  /-- R373: An OHP SAMPLE_RING writes done and batch_done of a sample stream. -/
  | sampleRing (copies : Bool)
  /-- R549: The endpoint sends logged records of min_class or above in EVENT messages, inserting gap records. -/
  | eventStream (copies : Bool)
  /-- R381: Every 1 µs the SMP opens a new shadow generation written by the islands. -/
  | shadowRefresh (writers : List Nat)
  /-- R381: An island writing no shadow word for 10 µs clears its fresh bit, Phobos's raising 0x0505. -/
  | shadowStale (isl : Nat)
  /-- R380: An SMP transaction reads shadow words from the latched generation. -/
  | statusRead (addr words : Nat)
  /-- R380: An SMP transaction reads bytes of the frozen log. -/
  | logRead (addr n : Nat)
  /-- R383: An SMP ACTION_ARM with a recent generation value arms an action. -/
  | actionArm (addr data : Nat)
  /-- R383: An arm not confirmed within 1 ms is cancelled. -/
  | actionArmExpiry
  /-- R382: A confirmed SMP SAFE_STATE brings the device safe state with 0x4503. -/
  | safeState (arg data : Nat)
  /-- R382: A confirmed SMP APP_RESET requests an application reset when reset_en is 1. -/
  | appReset (arg data : Nat)
  /-- R552: A confirmed SMP LOG_FREEZE copies the islands' logs into the SMP log. -/
  | logFreeze (arg data : Nat)
  /-- R382: A confirmed SMP MODE_REQ writes PLN_MODE_REQ as the SMP when mode_en is 1. -/
  | smpModeReq (arg data : Nat)
  /-- R385: SAFE_REQ_N held low for 1 µs brings the device safe state with 0x4504. -/
  | safeReq (lowNs : Nat)
  /-- R384: FAULT_N is released 10 ms after the latest C3 event outside safe state. -/
  | faultNRelease
  /-- R402: After reset release the part checks the image, configures, loads weights, admits plans and commits. -/
  | bootSequence (step : BootStep)
  /-- R412: Writing 1 to BOOT_ATT_CTRL.go starts attestation, or sets error. -/
  | attestationStart (dest : Nat)
  /-- R412: The signed evidence is written at dest and done is set. -/
  | attestationDone
  /-- R413: SEC_DBG_CTRL.new_chal draws a fresh debug challenge nonce. -/
  | debugNewChallenge (level : Nat)
  /-- R413: SEC_DBG_CTRL.submit starts verification of the debug response. -/
  | debugSubmit
  /-- R413: Verification ends, granting the level with 0x0584 or refusing with 0x0585. -/
  | debugVerdict
  /-- R413: One second after a refusal new challenges are allowed again. -/
  | debugBlockEnd
  /-- R401: SEC_SAK_CTRL.go unwraps a MACsec key into its port, or refuses with 0x0586. -/
  | sakInstall
  /-- R416: SEC_OTP_PROG.go starts programming an OTP field, or refuses with 0x0586. -/
  | otpProgram (field index : Nat) (core : Bool)
  /-- R416: OTP programming completes and sets done. -/
  | otpProgramDone
  /-- R440: An island comparator finds its copies differ, raising 0x45CD and driving safe-state pins. -/
  | lockstepMismatch (isl : Nat)
  /-- R441: An asynchronous island input passes the agreement exchange, or raises 0x45CE after three attempts. -/
  | asyncInput (isl input : Nat) (agree : List Bool)
  /-- R442: A debugger halt of an island drives both safe-state pins low and raises 0x45CF. -/
  | debugHalt (isl : Nat)
  /-- R448: An island channel STATUS frame carries the sender's loop count, class and pin state. -/
  | islandStatus (src loops err : Nat)
  /-- R450: Every 1,000 µs Deimos sends Phobos a CHALLENGE frame. -/
  | challenge (n err : Nat)
  /-- R450: Deimos judges Phobos's answer for value and timing, raising 0x0607 or 0x4601. -/
  | answer (v err : Nat)
  /-- R450: No answer by 750 µs after a challenge counts as a failed answer. -/
  | answerTimeout
  /-- R446: An EVENT frame forwards a Deimos event to Phobos's log. -/
  | islandEvent (err : Nat)
  /-- R447: A SAFE frame makes the receiving island's channel hardware drive its pin low. -/
  | safeFrame (src err : Nat)
  /-- R446: An INJECT frame orders or reports a start-up injection on the Kysta die. -/
  | inject (src mech : Nat) (ok : Bool) (err : Nat)
  /-- R451: 100 µs without an advancing Deimos STATUS raises 0x4602. -/
  | heartbeatLoss
  /-- R449: 10 µs without a valid frame or three CRC failures in a row raise 0x4603. -/
  | channelSilence (isl : Nat)
  /-- R469: Phobos enters a raised event in its log ring and the reaction unit acts on its class. -/
  | eventLogEntry (sel : List Nat)
  /-- R470: A firmware handler ends and the next pending or suspended handler runs. -/
  | handlerEnd
  /-- R471: A handler exceeding 100 µs raises 0x4604 and drives SAFE_PHOBOS_N low. -/
  | handlerGuardExpiry
  /-- R453: A task not ended by its close time is late, aborted with 0x2641 or losing its partition with 0x3642. -/
  | watchClose (g j inst : Nat)
  /-- R455: A write to WDG_KICK kicks hub window 2–63, a kick outside its window or a second kick being a fault. -/
  | wdgKick (v : Nat)
  /-- R455: A hub window closing without its kick raises 0x2645 or 0x4646. -/
  | hubWindowClose (w : Nat)
  /-- R459: Each 10 µs window Deimos judges every clock, raising 0x3609 or 0x460A when out of limits. -/
  | clockMonitorWindow (khz : List Nat)
  /-- R459: A rail outside its monitor limits raises 0x3609 with die fence or 0x460A. -/
  | railExcursion (rail mv : Nat)
  /-- R476: VDD_AO rising through 0.70 V resets everything and starts the start-up order. -/
  | powerOnReset (also : Nat)
  /-- R476: VDD_KY falling below 0.70 V resets the Kysta die alone. -/
  | kystaPowerReset
  /-- R476: SAFETY_RESET_N low for 10 µs restarts the islands and causes an application reset. -/
  | safetyReset (lowNs also : Nat)
  /-- R476: RESET_N low for 1 µs causes an application reset. -/
  | resetPin (lowNs also : Nat)
  /-- R476: VDD_DH or VDDIO low for 2 µs causes an application reset held while the rail is low. -/
  | brownOut (lowNs also : Nat)
  /-- R476: A brown-out reset is released after the rail has been back within limits for 1 ms. -/
  | brownOutRelease (goodNs : Nat)
  /-- R476: RST_REQ op 1 with key 0xA5 requests an application reset. -/
  | applicationResetRequest (src v : Nat)
  /-- R486: RST_REQ op 2 with key 0xA5 fences, declares lost and resets one die. -/
  | dieResetRequest (src v : Nat)
  /-- R477: Writing 0x5A to RST_SYSWD_KICK restarts the system watchdog. -/
  | syswdKick (v : Nat)
  /-- R477: The system watchdog expires and causes an application reset. -/
  | syswdExpiry (also : Nat)
  /-- R476: A control core trapping in its trap handler causes an application reset. -/
  | lockup (also : Nat)
  /-- R485: Four missing reference edges put the synthesiser in holdover with 0x06C1. -/
  | referenceLost
  /-- R485: A reference returning within 100 µs ends holdover with 0x06C2. -/
  | referenceRestored
  /-- R485: A reference lost or synthesiser unlocked for 100 µs causes an application reset. -/
  | clockFailure (also : Nat)
  /-- R485: Loss of synthesiser lock with the reference present raises 0x06C3. -/
  | synthUnlock
  /-- R485: A die PLL losing lock raises 0x06C3 and fences the die. -/
  | diePllUnlock (t : Nat)
  /-- R487: After hold_us with monitor bits good the die's reset is released and its rejoin begins. -/
  | dieHoldEnd (t : Nat)
  /-- R409: A rejoining die's plan content reload completes, or fails with 0x3547. -/
  | dieReloadDone (t chans : Nat) (data : List (List Byte)) (o : ReloadObs)
  /-- R464: The die's mechanisms pass injection and the die is set running with 0x0683. -/
  | dieInjectionDone (t : Nat) (failed : List Nat)
  /-- R489: Rejoin conditions unmet 100 ms after the hold fail the attempt. -/
  | rejoinAttemptTimeout (t : Nat)
  /-- R489: retry_ms after a failed attempt the die reset is asserted again, or the rejoin is given up with 0x0684. -/
  | rejoinRetry (t : Nat)
  /-- R493: A RET engine begins its wake 12 µs before its next release or beacon slot. -/
  | domainWakeStart (t e : Nat)
  /-- R492: A domain reaches ON after its wake. -/
  | domainWakeDone (t d : Nat)
  /-- R495: A domain not ON within twice its limit raises 0x2703, 0x3704 or 0x4705. -/
  | domainWakeFailed (t d : Nat)
  /-- R497: Writing 1 to PWR_STBY.enter requests standby at the next plan-period boundary. -/
  | standbyRequest (v : Nat)
  /-- R507: Every 1 s HLT recomputes the health score and may stage a proactive swap or raise an advisory. -/
  | healthUpdate
  /-- R506: Once per hour the steward measures SRAM minimum-voltage drift on the canary. -/
  | canaryMeasure (t held : Nat)
  /-- R503: A retirement or in-service column failure is burned into the repair field. -/
  | repairBurn
  /-- R517: The master records a member's barrier arrival and sends RELEASE when all have arrived. -/
  | arrive (copies : Bool)
  /-- R516: A RELEASE message ends the matching job-step barrier task. -/
  | release
  /-- R517: A barrier open barrier_us after its first arrival is dropped with 0x0785. -/
  | barrierDrop (step g inst : Nat)
  /-- R518: A paced CKPT_DATA or TWIN_DATA message of region blocks is sent. -/
  | regionSendBlock (ecc : List Nat) (copies : Bool)
  /-- R520: A checkpoint acknowledgement for the latest step sent sets acked. -/
  | ckptAck
  /-- R521: A twin answers a join request by sending regions, holding it, or refusing it with status 3. -/
  | twinReq (copies : Bool)
  /-- R521: A joiner writes received twin blocks and sends JOIN_READY when all have arrived. -/
  | twinData (ecc : List Nat) (gen copies : Bool)
  /-- R521: A joiner receiving a status-3 answer to TWIN_REQ raises 0x0782. -/
  | twinRefusal
  /-- R521: A twin transfer with no TWIN_DATA for 100 ms is abandoned with 0x0786. -/
  | twinTimeout
  /-- R522: The master admits a joiner when its lowest unreleased step is j, or refuses it. -/
  | joinReady (copies : Bool)
  /-- R522: The joiner becomes a member with 0x0781 on status 0, or raises 0x0782 on status 3. -/
  | joinReadyResponse
  /-- R511: The master removes a withdrawing part from its member set for unreleased barriers. -/
  | withdraw
  /-- R471: A trap taken while a Phobos handler runs is a fault of Phobos's own handling; it raises 0x4604 and the reaction unit drives SAFE_PHOBOS_N low. -/
  | handlerTrap
  /-- R471: An ECC error in the island SRAM is corrected with 0x160D or, if uncorrectable, is a fault of Phobos's handling raising 0x4604. -/
  | islandSramEccError (corrected : Bool)
  /-- R473: An ECC error in a steward core's SRAM is corrected with 0x160D or, if uncorrectable, raises 0x360E and fences the die. -/
  | stewardSramEccError (t : Nat) (corrected : Bool)
  /-- R476: VDD_KY rising back through 0.70 V releases the Kysta die from its own reset so that Deimos and its monitors restart. -/
  | kystaPowerReturn
  /-- R384: VDD_AO or VDDIO going absent stops the part, puts the outputs in high impedance and may interrupt OTP burning. -/
  | powerLoss (burnt : Nat)
  /-- R261: At its interval the gPTP port sends a peer-delay request so that the peer-to-peer delay mechanism keeps the mean link delay and asCapable current. -/
  | peerDelayRequest
deriving DecidableEq, Repr

end Sys2Proof
end

