-- ==== Sys2Proof/Decode.lean ====
section
/-! DEFINITION. Commands as words: the table of operations and events gives no row any bits, so no word spells a command. -/

namespace Sys2Proof

/-- The command that `nbits` bits `w` spell by the table's bits: none, since no row of it gives bits. -/
def decodeTableWord (_nbits _w : Nat) : Option Instr := none

end Sys2Proof
end

