-- ==== Sys2Proof/Machine/Bits.lean ====
section
/-! DEFINITION. Bit fields, sign conversion and byte order: the plain arithmetic every other file of the machine
uses. Bit ranges are written [hi:lo], bit 0 least significant; multi-byte values are little-endian (R7). -/

namespace Sys2Proof.Machine

/-- Bits [hi:lo] of a number. -/
def bits (n hi lo : Nat) : Nat := n / 2 ^ lo % 2 ^ (hi + 1 - lo)

/-- `n` with bits [hi:lo] replaced by the low bits of `v`. -/
def putBits (n hi lo v : Nat) : Nat :=
  n - bits n hi lo * 2 ^ lo + v % 2 ^ (hi + 1 - lo) * 2 ^ lo

/-- One bit of a number. -/
def bit (n i : Nat) : Bool := n / 2 ^ i % 2 == 1

/-- A truth value as a bit. -/
def b2n (b : Bool) : Nat := if b then 1 else 0

/-- The two's-complement value of the low `w` bits of `n`. -/
def sx (w n : Nat) : Int :=
  let v := n % 2 ^ w
  if v < 2 ^ (w - 1) then (v : Int) else (v : Int) - (2 ^ w : Nat)

/-- The low `w` bits of an integer, two's complement. -/
def unsx (w : Nat) (i : Int) : Nat := (i % ((2 ^ w : Nat) : Int)).toNat

/-- The number clamped into lo … hi. -/
def clampN (lo hi n : Nat) : Nat := max lo (min hi n)

/-- The integer clamped into lo … hi. -/
def clampI (lo hi n : Int) : Int := max lo (min hi n)

/-- Integer division rounded up. -/
def ceilDiv (a b : Nat) : Nat := (a + b - 1) / b

/-- The number rounded up to a multiple. -/
def roundUp (a m : Nat) : Nat := ceilDiv a m * m

/-- The value of bytes in little-endian order (R7). -/
def leNat : List Byte → Nat
  | [] => 0
  | b :: bs => b.toNat + 256 * leNat bs

/-- `n` bytes of a number in little-endian order (R7). -/
def leBytes : Nat → Nat → List Byte
  | 0, _ => []
  | n + 1, v => BitVec.ofNat 8 v :: leBytes n (v / 256)

/-- `n` bytes of a number, most significant first (network order). -/
def beBytes (n v : Nat) : List Byte := (leBytes n v).reverse

/-- The value of bytes most significant first (network order). -/
def beNat (bs : List Byte) : Nat := leNat bs.reverse

/-- `n` bytes of a list from offset `o`; bytes beyond the list read 0. -/
def sliceB (bs : List Byte) (o n : Nat) : List Byte :=
  let r := (bs.drop o).take n
  r ++ List.replicate (n - r.length) 0

/-- The little-endian number of `n` bytes at offset `o`. -/
def u (bs : List Byte) (o n : Nat) : Nat := leNat (sliceB bs o n)

/-- The number of set bits among the low `w` bits. -/
def popcount : Nat → Nat → Nat
  | 0, _ => 0
  | w + 1, n => n % 2 + popcount w (n / 2)

/-- The indices of the set bits among the low `w` bits, ascending. -/
def setBits (w n : Nat) : List Nat := (List.range w).filter fun i => bit n i

/-- `a` with bit `i` set or cleared. -/
def setBit (n i : Nat) (b : Bool) : Nat := putBits n i i (b2n b)

/-- The element at a position, or a given value where the list is shorter. -/
def nth {α : Type} (d : α) (xs : List α) (i : Nat) : α := (xs[i]?).getD d

/-- The list with the element at a position replaced (unchanged when the position lies beyond it). -/
def setNth {α : Type} (xs : List α) (i : Nat) (a : α) : List α := xs.set i a

/-- Bits [hi:lo] of a register word. -/
def wbits (w : Word) (hi lo : Nat) : Nat := bits w.toNat hi lo

/-- A register word with bits [hi:lo] replaced. -/
def wput (w : Word) (hi lo v : Nat) : Word := BitVec.ofNat 64 (putBits w.toNat hi lo v)

/-- The 64-bit mixing function of R79. -/
def mix (z : Nat) : Nat :=
  let z1 := ((z ^^^ (z / 2 ^ 30)) * 0xBF58476D1CE4E5B9) % 2 ^ 64
  let z2 := ((z1 ^^^ (z1 / 2 ^ 27)) * 0x94D049BB133111EB) % 2 ^ 64
  z2 ^^^ (z2 / 2 ^ 31)

/-- The keyed hash of R208. -/
def kh (key x : Nat) : Nat := mix (key ^^^ (x * 0x9E3779B97F4A7C15 % 2 ^ 64))

/-- `n` steps of a reflected CRC with polynomial `p`. -/
def crcRefl (p : Nat) : Nat → Nat → Nat
  | 0, c => c
  | n + 1, c => crcRefl p n (if c % 2 == 1 then (c / 2) ^^^ p else c / 2)

/-- CRC-32C over bytes (R417): reflected 0x1EDC6F41, initial value and final XOR all ones. -/
def crc32c (bs : List Byte) : Nat :=
  (bs.foldl (fun c b => crcRefl 0x82F63B78 8 (c ^^^ b.toNat)) 0xFFFFFFFF) ^^^ 0xFFFFFFFF

/-- `n` steps of a CRC of width `w` with polynomial `p`, most significant bit first. -/
def crcMsb (w p : Nat) : Nat → Nat → Nat
  | 0, c => c
  | n + 1, c => crcMsb w p n (if c / 2 ^ (w - 1) % 2 == 1 then (c * 2 % 2 ^ w) ^^^ p else c * 2 % 2 ^ w)

/-- CRC-64/ECMA-182 over bytes with initial value all ones and final inversion (R342). -/
def crc64 (bs : List Byte) : Nat :=
  (bs.foldl (fun c b => crcMsb 64 0x42F0E1EBA9EA3693 8 (c ^^^ (b.toNat * 2 ^ 56))) (2 ^ 64 - 1)) ^^^ (2 ^ 64 - 1)

/-- CRC-16 of polynomial 0x1021 and initial value 0xFFFF over six bytes, most significant bit first (R448). -/
def crc16 (v : Nat) : Nat :=
  (beBytes 6 v).foldl (fun c b => crcMsb 16 0x1021 8 (c ^^^ (b.toNat * 2 ^ 8))) 0xFFFF

/-- The list without any element equal to `a`. -/
def without {α : Type} [DecidableEq α] (a : α) (xs : List α) : List α := xs.filter fun x => x ≠ a

/-- The list with `a` appended unless it is there. -/
def withOnce {α : Type} [DecidableEq α] (a : α) (xs : List α) : List α := if a ∈ xs then xs else xs ++ [a]

/-- The list with position `i` removed. -/
def dropAt {α : Type} (xs : List α) (i : Nat) : List α := xs.eraseIdx i

end Sys2Proof.Machine
end

