-- ==== Sys2Proof/Machine/RegTable.lean ====
section
/-! DEFINITION. The register index of the part: for every block of Table 20.1 the registers it holds,
with offset, array shape, width, reset value and the bits of each access code (R9, Table 0.6; R543, R544).
Each row is one register of the tables named in its block's comment; bits of no mask are RO or RSV. -/

namespace Sys2Proof.Machine

/-- The CSR windows of Table 1.6: hub, compute die t, Kysta. -/
inductive Win where
  | hub
  | die (t : Nat)
  | kysta
deriving DecidableEq, Repr

/-- One register (or register array) of a block's map. `dims` lists (count, stride) from the outermost array
dimension inward; `stg`, `lck`, `rw`, `w1c` are the bits with that access code (R9). A wide register has 64 bits. -/
structure RegDef where
  name : String
  off : Nat
  dims : List (Nat × Nat) := []
  wide : Bool := false
  rst : Nat := 0
  stg : Nat := 0
  lck : Nat := 0
  rw : Nat := 0
  w1c : Nat := 0
deriving DecidableEq, Repr

/-- Base address of a hub block (R544). -/
abbrev hubBlk (src : Nat) : Nat := 0x00F000000000 + src * 0x10000
/-- Base address of a block of compute die t (R544). -/
abbrev dieBlk (t src : Nat) : Nat := 0x00F100000000 + t * 0x1000000 + src * 0x10000
/-- Base address of a Kysta block (R544). -/
abbrev kyBlk (src : Nat) : Nat := 0x00F200000000 + src * 0x1000

/-- Base address of a block in a window (R544). -/
abbrev Win.blk : Win → Nat → Nat
  | .hub, src => hubBlk src
  | .die t, src => dieBlk t src
  | .kysta, src => kyBlk src

/-- Block PKG, hub window: Tables 1.8, 1.9, 1.10, 1.11 (01_package_architecture.md). -/
def hubRegsPKG : List RegDef := [
  { name := "PKG_ID", off := 0x0, rst := 0x4F560000 },
  { name := "PKG_DIE_STATE", off := 0x8, rst := 0x5555 },
  { name := "PKG_DECODE_ERR", off := 0x10, wide := true, w1c := 0x8000000000000000 },
  { name := "PKG_DECODE_CNT", off := 0x18 },
  { name := "PKG_MEM_SIZE", off := 0x20 }]

/-- Block PACE, hub window: Tables 2.7, 2.13 (02_self_timed_fabric_and_pace.md). -/
def hubRegsPACE : List RegDef := [
  { name := "PACE_CTRL", off := 0x8, rst := 0x1, lck := 0x1 },
  { name := "PACE_ALARM_SUM", off := 0x0 }]

/-- Block PLN, hub window: Tables 5.12, 5.13, 5.14, 5.15, 5.16 (05_plans_and_task_graphs.md). -/
def hubRegsPLN : List RegDef := [
  { name := "PLN_STATUS", off := 0x0, wide := true },
  { name := "PLN_MODE_REQ", off := 0x8, stg := 0x1F },
  { name := "PLN_PERIOD", off := 0x10 },
  { name := "PLN_PERIOD_CNT", off := 0x18, wide := true },
  { name := "PLN_ERR", off := 0x20, wide := true, w1c := 0x8000000000000000 },
  { name := "PLN_CNT_MODE", off := 0x28 },
  { name := "PLN_CNT_MODE_DISC", off := 0x2C },
  { name := "PLN_CNT_ABORT", off := 0x30 },
  { name := "PLN_CNT_REJECT", off := 0x34 }]

/-- Block ADM, hub window: Tables 6.11, 6.12, 6.13, 6.14, 6.15, 6.16 (06_admission_and_time_triggered_execution.md). -/
def hubRegsADM : List RegDef := [
  { name := "ADM_CTRL", off := 0x0, rst := 0x22, lck := 0xFFFF00F3 },
  { name := "ADM_STATUS", off := 0x8, wide := true },
  { name := "ADM_LAST", off := 0x10, wide := true, w1c := 0x8000000000000000 },
  { name := "ADM_PREEMPT", off := 0x18, rw := 0x3FF },
  { name := "ADM_FB_CTRL", off := 0x20, rw := 0x1 },
  { name := "ADM_WAIT", off := 0x24, rst := 0x3E8, lck := 0xFFFFF },
  { name := "ADM_CNT_ACCEPT", off := 0x30 },
  { name := "ADM_CNT_REJECT", off := 0x34 },
  { name := "ADM_CNT_STEP_ABORT", off := 0x38 },
  { name := "ADM_CNT_FB", off := 0x3C },
  { name := "ADM_CNT_WITHHELD", off := 0x40 }]

/-- Block MEM, hub window: Tables 7.9, 7.10, 7.11, 7.12 (07_memory_and_bandwidth_regulation.md). -/
def hubRegsMEM : List RegDef := [
  { name := "MEM_CTRL", off := 0x0, rst := 0x1F41801, lck := 0x3FFFF01 },
  { name := "MEM_STATUS", off := 0x8 },
  { name := "MEM_ERR", off := 0x10, wide := true, w1c := 0x8000000000000000 },
  { name := "MEM_CH_CNT_RD", off := 0x100, dims := [(4, 0x40)], wide := true },
  { name := "MEM_CH_CNT_WR", off := 0x108, dims := [(4, 0x40)], wide := true },
  { name := "MEM_CH_CNT_MISS", off := 0x110, dims := [(4, 0x40)] },
  { name := "MEM_CH_CNT_LECC", off := 0x114, dims := [(4, 0x40)] },
  { name := "MEM_CH_EYE", off := 0x118, dims := [(4, 0x40)] }]

/-- Block BWR, hub window: Table 7.17 (07_memory_and_bandwidth_regulation.md). -/
def hubRegsBWR : List RegDef := [
  { name := "BWR_HUB_BUD", off := 0x0, wide := true, rst := 0x100C10180804, lck := 0xFFFFFFFFFFFF }]

/-- Block KVW, hub window: Tables 8.16, 8.17 (08_sequence_serving_and_kv_cache.md). -/
def hubRegsKVW : List RegDef := [
  { name := "KVW_RING", off := 0x100, dims := [(64, 0x8)], wide := true, rw := 0xFFFF00000000FFFF },
  { name := "KVW_CNT_REFUSE", off := 0x0 }]

/-- Block ING, hub window: Tables 9.9, 9.10, 9.11, 9.12, 9.13, 9.14, 9.15, 9.16, 9.17 (09_sensor_ingest_and_time.md). -/
def hubRegsING : List RegDef := [
  { name := "ING_DT_NOW", off := 0x0, wide := true },
  { name := "ING_DT_CTRL", off := 0x8, rst := 0x3F8000B, lck := 0xFFFFF7F },
  { name := "ING_DT_STATUS", off := 0x10, wide := true },
  { name := "ING_DT_OFFSET", off := 0x18, wide := true },
  { name := "ING_DT_ERR", off := 0x20, wide := true },
  { name := "ING_GM_ID", off := 0x28, wide := true },
  { name := "ING_PTP_LAT", off := 0x30, lck := 0xFFFFFFFF },
  { name := "ING_CTRL", off := 0x38, stg := 0xFFFF },
  { name := "ING_SET_BASE", off := 0x40, wide := true, lck := 0xFFFFFFFFFFFF },
  { name := "ING_CNT_TIME_CORR", off := 0x48 },
  { name := "ING_CNT_TRIG_SKIP", off := 0x4C },
  { name := "ING_ERR", off := 0x50, wide := true, w1c := 0x8000000000000000 },
  { name := "ING_TRIG0", off := 0x100, dims := [(16, 0x10)], wide := true, stg := 0xFFFFFFFFFFFFFFFF },
  { name := "ING_TRIG8", off := 0x108, dims := [(16, 0x10)], wide := true, rst := 0x64, stg := 0x3FFFF },
  { name := "ING_SENSOR00", off := 0x1000, dims := [(64, 0x20)], wide := true, rst := 0x3C000000, stg := 0xFFFFFFFFFF07FFFF },
  { name := "ING_SENSOR08", off := 0x1008, dims := [(64, 0x20)], wide := true, rst := 0x2C, stg := 0xFFFFFFFFFFFF3F },
  { name := "ING_SENSOR10", off := 0x1010, dims := [(64, 0x20)], wide := true, rst := 0x3E8, stg := 0xFFFF0FFFFFFFFFFF },
  { name := "ING_SENSOR18", off := 0x1018, dims := [(64, 0x20)], wide := true, stg := 0x7FFFFFFFF },
  { name := "ING_STAT0", off := 0x2000, dims := [(64, 0x10)], wide := true },
  { name := "ING_STAT8", off := 0x2008, dims := [(64, 0x10)], wide := true },
  { name := "ING_CNT_FRAMES", off := 0x3000, dims := [(64, 0x20)] },
  { name := "ING_CNT_STALE", off := 0x3004, dims := [(64, 0x20)] },
  { name := "ING_CNT_CORRUPT", off := 0x3008, dims := [(64, 0x20)] },
  { name := "ING_CNT_GAP", off := 0x300C, dims := [(64, 0x20)] },
  { name := "ING_CNT_DESYNC", off := 0x3010, dims := [(64, 0x20)] },
  { name := "ING_CNT_EXCL", off := 0x3014, dims := [(64, 0x20)] },
  { name := "ING_CNT_ECC", off := 0x3018, dims := [(64, 0x20)] }]

/-- Block PRE, hub window: Table 10.7 (10_preprocessing_decode_and_samples.md). -/
def hubRegsPRE : List RegDef := [
  { name := "PRE_LOAD", off := 0x0 },
  { name := "PRE_ERR", off := 0x8, wide := true, w1c := 0x8000000000000000 },
  { name := "PRE_CNT_LIVE", off := 0x10, wide := true },
  { name := "PRE_CNT_DEC", off := 0x18, wide := true },
  { name := "PRE_CNT_SAT", off := 0x20 },
  { name := "PRE_CNT_WITHHELD", off := 0x24 },
  { name := "PRE_SENSOR0", off := 0x1000, dims := [(64, 0x10)], wide := true, stg := 0xFFFFFFFF00000F1F },
  { name := "PRE_SENSOR8", off := 0x1008, dims := [(64, 0x10)], wide := true, stg := 0xFFFFFFFFFFFF },
  { name := "PRE_CNT_DROP", off := 0x2000, dims := [(64, 0x4)] },
  { name := "PRE_PROFILE", off := 0x4000, dims := [(32, 0x100), (32, 0x8)], wide := true, stg := 0xFFFFFFFFFFFFFFFF },
  { name := "PRE_LUT", off := 0x8000, dims := [(4, 0x1800), (3, 0x800), (256, 0x8)], wide := true, stg := 0xFFFFFFFFFFFFFFFF }]

/-- Block DEC, hub window: Table 10.8 (10_preprocessing_decode_and_samples.md). -/
def hubRegsDEC : List RegDef := [
  { name := "DEC_CTRL", off := 0x0, rst := 0xFFFF, lck := 0xFFFF },
  { name := "DEC_WORK", off := 0x8, wide := true, lck := 0xFFFFFFFFFFFFFFF },
  { name := "DEC_CNT_PICS", off := 0x10, wide := true },
  { name := "DEC_CNT_CORRUPT", off := 0x18 },
  { name := "DEC_CNT_ABANDON", off := 0x1C },
  { name := "DEC_CNT_HOLD_US", off := 0x20 },
  { name := "DEC_ERR", off := 0x28, wide := true, w1c := 0x8000000000000000 },
  { name := "DEC_CORE", off := 0x100, dims := [(16, 0x8)], wide := true }]

/-- Block SMPL, hub window: Table 10.9 (10_preprocessing_decode_and_samples.md). -/
def hubRegsSMPL : List RegDef := [
  { name := "SMPL_ERR", off := 0x0, wide := true, w1c := 0x8000000000000000 },
  { name := "SMPL_CFG", off := 0x1000, dims := [(16, 0x100)], wide := true, stg := 0xFFFFFFFFFFFFFF3F },
  { name := "SMPL_N", off := 0x1008, dims := [(16, 0x100)], wide := true, stg := 0x1FFFFFFFFFF },
  { name := "SMPL_SEED", off := 0x1010, dims := [(16, 0x100)], wide := true, stg := 0xFFFFFFFFFFFFFFFF },
  { name := "SMPL_FETCH_BASE", off := 0x1018, dims := [(16, 0x100)], wide := true, stg := 0xFFFFFFFFFFFFF },
  { name := "SMPL_STAGE", off := 0x1020, dims := [(16, 0x100)], wide := true, stg := 0xFFFFFFFFFFFFFFFF },
  { name := "SMPL_BATCH_BASE", off := 0x1028, dims := [(16, 0x100)], wide := true, stg := 0xFFFFFFFFFFFF },
  { name := "SMPL_STRIDE", off := 0x1030, dims := [(16, 0x100)], wide := true, stg := 0xFFFFFFFFFFFFFFFF },
  { name := "SMPL_VIEW", off := 0x1040, dims := [(16, 0x100), (8, 0x8)], wide := true, stg := 0xFFFFFFFF0000003F },
  { name := "SMPL_POS", off := 0x1080, dims := [(16, 0x100)], wide := true },
  { name := "SMPL_RSV", off := 0x1088, dims := [(16, 0x100)], wide := true },
  { name := "SMPL_STATE", off := 0x1090, dims := [(16, 0x100)], wide := true },
  { name := "SMPL_FETCH", off := 0x1098, dims := [(16, 0x100)], wide := true, rw := 0xFFFF0000FFFF0000 },
  { name := "SMPL_CNT_CORRUPT", off := 0x10A0, dims := [(16, 0x100)] },
  { name := "SMPL_CNT_OVER", off := 0x10A4, dims := [(16, 0x100)] },
  { name := "SMPL_CNT_REPLACED", off := 0x10A8, dims := [(16, 0x100)] },
  { name := "SMPL_CNT_EMPTY", off := 0x10AC, dims := [(16, 0x100)] },
  { name := "SMPL_CNT_WAIT_US", off := 0x10B0, dims := [(16, 0x100)] },
  { name := "SMPL_MEAN", off := 0x10C0, dims := [(16, 0x100), (8, 0x4)] }]

/-- Block FUS, hub window: Table 11.10 (11_grid_fusion_and_tracks.md). -/
def hubRegsFUS : List RegDef := [
  { name := "FUS_CTRL", off := 0x0, rst := 0xC350, lck := 0x3FFFF },
  { name := "FUS_INSTANT", off := 0x8, wide := true },
  { name := "FUS_CAL_CTRL", off := 0x10, rw := 0x1 },
  { name := "FUS_CAL_STATUS", off := 0x14 },
  { name := "FUS_ERR", off := 0x18, wide := true, w1c := 0x8000000000000000 },
  { name := "FUS_CNT_SWITCH", off := 0x20 },
  { name := "FUS_CNT_REFUSED", off := 0x24 },
  { name := "FUS_CAL_NEXT", off := 0x1000, dims := [(64, 0x80), (16, 0x8)], wide := true, rw := 0xFFFFFFFFFFFFFFFF },
  { name := "FUS_CAL_ACT", off := 0x3000, dims := [(64, 0x80), (16, 0x8)], wide := true }]

/-- Block TRK, hub window: Table 11.12 (11_grid_fusion_and_tracks.md). -/
def hubRegsTRK : List RegDef := [
  { name := "TRK_CTRL", off := 0x0, wide := true, rst := 0x753000005532, stg := 0x3FFFF0000FFF3 },
  { name := "TRK_GATE", off := 0x8, wide := true, rst := 0x42C8000041135C29, stg := 0xFFFFFFFFFFFFFFFF },
  { name := "TRK_SRC_EN", off := 0x10, stg := 0xFFFF },
  { name := "TRK_STATUS", off := 0x18, wide := true },
  { name := "TRK_ERR", off := 0x20, wide := true, w1c := 0x8000000000000000 },
  { name := "TRK_CNT_BIRTH", off := 0x28 },
  { name := "TRK_CNT_DELETE", off := 0x2C },
  { name := "TRK_CNT_LATE_USED", off := 0x30 },
  { name := "TRK_CNT_LATE_DROP", off := 0x34 },
  { name := "TRK_CNT_DET_DROP", off := 0x38 },
  { name := "TRK_CNT_CAP", off := 0x3C },
  { name := "TRK_CNT_FULL", off := 0x40 },
  { name := "TRK_CNT_INVALID", off := 0x44 },
  { name := "TRK_CLASS0", off := 0x1000, dims := [(64, 0x20)], wide := true, stg := 0xFFFFFFFFFFFF003F },
  { name := "TRK_CLASS8", off := 0x1008, dims := [(64, 0x20)], wide := true, stg := 0xFFFFFFFFFFFFFFFF },
  { name := "TRK_CLASS10", off := 0x1010, dims := [(64, 0x20)], wide := true, stg := 0xFFFFFFFF },
  { name := "TRK_ROI_RECT", off := 0x2008, dims := [(64, 0x100), (2, 0x80), (8, 0x8)], wide := true },
  { name := "TRK_ROI", off := 0x2000, dims := [(64, 0x100), (2, 0x80)], wide := true }]

/-- Block LNK, hub window: Tables 12.9, 12.10, 12.11, 12.12 (12_die_links_and_partner_dies.md). -/
def hubRegsLNK : List RegDef := [
  { name := "LNK_CTRL", off := 0x0, rst := 0x20030C, lck := 0xFF033F },
  { name := "LNK_MOD", off := 0x100, dims := [(9, 0x20)], wide := true },
  { name := "LNK_CNT_CRC", off := 0x108, dims := [(9, 0x20)] },
  { name := "LNK_CNT_RETRAIN", off := 0x10C, dims := [(9, 0x20)] },
  { name := "LNK_CNT_TIMEOUT", off := 0x110, dims := [(9, 0x20)] },
  { name := "LNK_CNT_LATE_RESP", off := 0x114, dims := [(9, 0x20)] },
  { name := "LNK_CNT_LANE", off := 0x118, dims := [(9, 0x20)] },
  { name := "LNK_FENCE", off := 0x10 },
  { name := "LNK_PARTNER_STATUS", off := 0x20, wide := true },
  { name := "LNK_PARTNER_ERR", off := 0x28, wide := true, w1c := 0x8000000000000000 },
  { name := "LNK_CNT_FW_REFUSE", off := 0x30 },
  { name := "LNK_CNT_P_BLK", off := 0x38, wide := true },
  { name := "LNK_FW", off := 0x400, dims := [(8, 0x10)], wide := true, lck := 0x7FFFFFFFFFFFF },
  { name := "LNK_FW_SIZE", off := 0x408, dims := [(8, 0x10)], lck := 0x1FFFF }]

/-- Block ETH, hub window: Tables 13.14, 13.15 (13_ethernet_host_and_sideband.md). -/
def hubRegsETH : List RegDef := [
  { name := "ETH_PORT_CTRL", off := 0x100, dims := [(6, 0x100)], rst := 0x240021, lck := 0x3FFF3F },
  { name := "ETH_PORT_STATUS", off := 0x108, dims := [(6, 0x100)] },
  { name := "ETH_CNT_RX", off := 0x110, dims := [(6, 0x100)], wide := true },
  { name := "ETH_CNT_TX", off := 0x118, dims := [(6, 0x100)], wide := true },
  { name := "ETH_CNT_FCS", off := 0x120, dims := [(6, 0x100)] },
  { name := "ETH_CNT_RX_DROP", off := 0x124, dims := [(6, 0x100)] },
  { name := "ETH_CNT_MACSEC", off := 0x128, dims := [(6, 0x100)] },
  { name := "ETH_CNT_EGRESS_CHK", off := 0x12C, dims := [(6, 0x100)] },
  { name := "ETH_CNT_QCI", off := 0x130, dims := [(6, 0x100)] },
  { name := "ETH_CNT_FRER", off := 0x134, dims := [(6, 0x100)] },
  { name := "ETH_GCL_TIME", off := 0x3800, dims := [(6, 0x10)], wide := true, stg := 0xFFFFFFFF },
  { name := "ETH_GCL_BASE", off := 0x3808, dims := [(6, 0x10)], wide := true, stg := 0xFFFFFFFFFFFFFFFF },
  { name := "ETH_GCL", off := 0x4000, dims := [(6, 0x800), (256, 0x8)], wide := true, stg := 0xFFFFFFFFFF },
  { name := "ETH_PCP", off := 0x8000, dims := [(6, 0x400), (8, 0x8)], wide := true, stg := 0x7 },
  { name := "ETH_VID", off := 0x8040, dims := [(6, 0x400), (64, 0x8)], wide := true, stg := 0x1FFF },
  { name := "ETH_QCI", off := 0xA000, dims := [(6, 0x1000), (64, 0x18), (3, 0x8)], wide := true, stg := 0xFFFFFFFFFFFFFFFF }]

/-- Block OHP, hub window: Table 13.16 (13_ethernet_host_and_sideband.md). -/
def hubRegsOHP : List RegDef := [
  { name := "OHP_CTRL", off := 0x0, rst := 0x88B50001, lck := 0xFFFF000F },
  { name := "OHP_UDP", off := 0x8, wide := true, lck := 0xFFFFFFFF0000FFFF },
  { name := "OHP_MAC", off := 0x10, wide := true, lck := 0x7FFFFFFFFFFFFFFF },
  { name := "OHP_EVT_DEST", off := 0x18, wide := true, lck := 0x7FFFFFFFFFFFF },
  { name := "OHP_ROLE_PART", off := 0x20, rst := 0x1 },
  { name := "OHP_CNT_RX", off := 0x28, wide := true },
  { name := "OHP_CNT_STALE", off := 0x30 },
  { name := "OHP_CNT_DROP", off := 0x34 },
  { name := "OHP_CNT_BAD", off := 0x38 },
  { name := "OHP_CNT_DUP", off := 0x3C },
  { name := "OHP_CNT_REFUSED", off := 0x40 },
  { name := "OHP_ROLE_P", off := 0x100, dims := [(64, 0x4)], rst := 0x1 },
  { name := "OHP_ROLE_Q", off := 0x200, dims := [(16, 0x4)], rst := 0x1 },
  { name := "OHP_ROLE_R", off := 0x240, dims := [(16, 0x4)], rst := 0x1 },
  { name := "OHP_RES0", off := 0x1000, dims := [(16, 0x20)], wide := true, stg := 0x1FF1FFF },
  { name := "OHP_RES8", off := 0x1008, dims := [(16, 0x20)], wide := true, stg := 0xFFFFFFFFFFFF },
  { name := "OHP_RES10", off := 0x1010, dims := [(16, 0x20)], wide := true, stg := 0x7FFFFFFFFFFFFFFF }]

/-- Block SMP, hub window: Table 13.17 (13_ethernet_host_and_sideband.md). -/
def hubRegsSMP : List RegDef := [
  { name := "SMP_CTRL", off := 0x0, lck := 0x3 },
  { name := "SMP_CNT_ACTION", off := 0x8 },
  { name := "SMP_CNT_REJECT", off := 0xC }]

/-- Block BOOT, hub window: Table 14.14 (14_boot_configuration_and_security.md). -/
def hubRegsBOOT : List RegDef := [
  { name := "BOOT_STATUS", off := 0x0, wide := true },
  { name := "BOOT_INFO", off := 0x8 },
  { name := "BOOT_TIME", off := 0x10, wide := true },
  { name := "BOOT_IMG_BASE", off := 0x18, wide := true },
  { name := "BOOT_LCK_ERR", off := 0x20, wide := true, w1c := 0x8000000000000000 },
  { name := "BOOT_CNT_LCK", off := 0x28 },
  { name := "BOOT_CNT_UFS_RETRY", off := 0x2C },
  { name := "BOOT_ATT_CTRL", off := 0x30, wide := true, rw := 0x1FFFFFFFFFFFF },
  { name := "BOOT_ATT_NONCE", off := 0x40, dims := [(4, 0x8)], wide := true, rw := 0xFFFFFFFFFFFFFFFF }]

/-- Block SEC, hub window: Table 14.15 (14_boot_configuration_and_security.md). -/
def hubRegsSEC : List RegDef := [
  { name := "SEC_STATUS", off := 0x0 },
  { name := "SEC_ARB", off := 0x100, dims := [(64, 0x4)] },
  { name := "SEC_ID_ED", off := 0x200, dims := [(4, 0x8)], wide := true },
  { name := "SEC_DBG_CHAL", off := 0x300, dims := [(4, 0x8)], wide := true },
  { name := "SEC_DBG_CTRL", off := 0x320, rw := 0xF },
  { name := "SEC_SAK_LOAD", off := 0x400, dims := [(10, 0x8)], wide := true, rw := 0xFFFFFFFFFFFFFFFF },
  { name := "SEC_SAK_CTRL", off := 0x450, rw := 0x1 },
  { name := "SEC_OTP_PROG", off := 0x500, rw := 0x1FFFF },
  { name := "SEC_OTP_DATA", off := 0x540, dims := [(8, 0x8)], wide := true, rw := 0xFFFFFFFFFFFFFFFF },
  { name := "SEC_CNT_DBG_REFUSE", off := 0x600 },
  { name := "SEC_DBG_RESP", off := 0x2000, dims := [(672, 0x8)], wide := true, rw := 0xFFFFFFFFFFFFFFFF }]

/-- Block CHK, hub window: Table 15.9 (15_integrity_and_redundant_execution.md). -/
def hubRegsCHK : List RegDef := [
  { name := "CHK_CTRL", off := 0x0, rst := 0x1, lck := 0x1 },
  { name := "CHK_ISL", off := 0x10 },
  { name := "CHK_CNT_AGREE_RETRY", off := 0x14 },
  { name := "CHK_ENG", off := 0x1000, dims := [(8, 0x200), (18, 0x10)], wide := true },
  { name := "CHK_ENG_TIME", off := 0x1008, dims := [(8, 0x200), (18, 0x10)], wide := true }]

/-- Block SAF, hub window: Table 16.10 (16_safety_islands_and_fault_handling.md). -/
def hubRegsSAF : List RegDef := [
  { name := "SAF_STATUS", off := 0x0, wide := true, rst := 0xF00 },
  { name := "SAF_LOG_HEAD", off := 0x8 },
  { name := "SAF_CNT_LOST", off := 0xC },
  { name := "SAF_INJ", off := 0x10, wide := true },
  { name := "SAF_INJ_DONE", off := 0x18, wide := true },
  { name := "SAF_CNT_CR", off := 0x20 },
  { name := "SAF_CNT_CHAN", off := 0x24 },
  { name := "SAF_FF_CTRL", off := 0x28, rst := 0x5, lck := 0xF },
  { name := "SAF_FF_EN", off := 0x30, wide := true, rst := 0xFFFFFFFFFFFFFFFF, lck := 0xFFFFFFFFFFFFFFFF },
  { name := "SAF_LOG", off := 0x1000, dims := [(64, 0x10), (2, 0x8)], wide := true },
  { name := "SAF_CNT_FF", off := 0x2000, dims := [(64, 0x4)] }]

/-- Block WDG, hub window: Table 16.12 (16_safety_islands_and_fault_handling.md). -/
def hubRegsWDG : List RegDef := [
  { name := "WDG_KICK", off := 0x0, rw := 0x3F },
  { name := "WDG_HUB_ERR", off := 0x8, wide := true, w1c := 0x8000000000000000 },
  { name := "WDG_HUB_CNT", off := 0x10 },
  { name := "WDG_HUB", off := 0x1000, dims := [(64, 0x8)], wide := true, stg := 0xFFFFFFFFFF0003 }]

/-- Block RST, hub window: Table 17.9 (17_reset_clocks_and_power.md). -/
def hubRegsRST : List RegDef := [
  { name := "RST_CAUSE", off := 0x0, rst := 0x1 },
  { name := "RST_REQ", off := 0x8, rw := 0x1FFF },
  { name := "RST_DIE_CTRL", off := 0x10, wide := true, rst := 0x3E803E80031, lck := 0xFFFFFFFF00F1 },
  { name := "RST_DIE", off := 0x20, dims := [(8, 0x8)] },
  { name := "RST_SYSWD", off := 0x60, rst := 0x10064, lck := 0x1FFFF },
  { name := "RST_SYSWD_KICK", off := 0x64, rw := 0xFF },
  { name := "RST_BACKUP", off := 0x100, dims := [(64, 0x4)], rw := 0xFFFFFFFF }]

/-- Block CLK, hub window: Table 17.10 (17_reset_clocks_and_power.md). -/
def hubRegsCLK : List RegDef := [
  { name := "CLK_STATUS", off := 0x0 },
  { name := "CLK_CNT_REF_LOSS", off := 0x8 },
  { name := "CLK_CNT_UNLOCK", off := 0xC }]

/-- Block PWR, hub window: Table 17.11 (17_reset_clocks_and_power.md). -/
def hubRegsPWR : List RegDef := [
  { name := "PWR_STBY", off := 0x0, rw := 0x1 },
  { name := "PWR_HUB_DOM", off := 0x8, wide := true }]

/-- Block HLT, hub window: Table 18.9 (18_spares_health_and_joined_systems.md). -/
def hubRegsHLT : List RegDef := [
  { name := "HLT_CTRL", off := 0x0, rst := 0x32143C01, lck := 0xFFFFFF01 },
  { name := "HLT_SCORE", off := 0x8 },
  { name := "HLT_COMP", off := 0x10, wide := true },
  { name := "HLT_WITHDRAW", off := 0x18 },
  { name := "HLT_SPARES", off := 0x20, wide := true },
  { name := "HLT_CNT_SWAP", off := 0x28 },
  { name := "HLT_CNT_ADV_SUPP", off := 0x2C },
  { name := "HLT_CNT_UNAVAIL_US", off := 0x30, wide := true },
  { name := "HLT_VMIN", off := 0x100, dims := [(8, 0x4)] }]

/-- Block JSY, hub window: Table 18.10 (18_spares_health_and_joined_systems.md). -/
def hubRegsJSY : List RegDef := [
  { name := "JSY_ROLE", off := 0x0, stg := 0x33FFF },
  { name := "JSY_GROUP", off := 0x8, wide := true, stg := 0xFFFFFFFFFFFF3FFF },
  { name := "JSY_MEMBERS", off := 0x10, wide := true, stg := 0xFFFFFFFFFFFF },
  { name := "JSY_STEP", off := 0x18, wide := true },
  { name := "JSY_CKPT", off := 0x20, stg := 0x7FFFF },
  { name := "JSY_CKPT_DEST", off := 0x28, wide := true, stg := 0xFFFFFFFFFFFFFFF },
  { name := "JSY_CKPT_STATUS", off := 0x30, wide := true },
  { name := "JSY_TWIN", off := 0x38, wide := true, stg := 0xFFFFFFFFFFFF3FFF },
  { name := "JSY_JOIN", off := 0x40, wide := true, stg := 0xFFFFFFFFFFFFFFFF },
  { name := "JSY_REGION", off := 0x100, dims := [(16, 0x8)], wide := true, stg := 0x7FFFFFFFFFFFFFFF },
  { name := "JSY_CNT_IGNORED", off := 0x200 },
  { name := "JSY_CNT_SKIP", off := 0x204 },
  { name := "JSY_CNT_REFUSED", off := 0x208 }]

/-- Block PACE, compute-die window: Tables 2.8, 2.9, 2.10, 2.11, 2.12 (02_self_timed_fabric_and_pace.md). -/
def dieRegsPACE : List RegDef := [
  { name := "PACE_TARGET", off := 0x4, rst := 0x7D0, stg := 0xFFF },
  { name := "PACE_STATUS", off := 0x8 },
  { name := "PACE_RAIL", off := 0x10, rst := 0x352 },
  { name := "PACE_MIN", off := 0xC },
  { name := "PACE_CNT_ALARM", off := 0x14 },
  { name := "PACE_CNT_AVS_RETRY", off := 0x18 },
  { name := "PACE_CNT_LIMIT", off := 0x1C },
  { name := "PACE_DOM", off := 0x100, dims := [(22, 0x8)], wide := true }]

/-- Block ENG, compute-die window: Tables 3.14, 3.15, 3.16, 3.17, 3.18, 3.19 (03_engine_arrays_and_arithmetic.md). -/
def dieRegsENG : List RegDef := [
  { name := "ENG_LMAP_0", off := 0x0, wide := true, rst := 0x706050403020100, stg := 0x1F1F1F1F1F1F1F1F },
  { name := "ENG_LMAP_1", off := 0x8, wide := true, rst := 0xF0E0D0C0B0A0908, stg := 0x1F1F1F1F1F1F1F1F },
  { name := "ENG_CHK_TOL", off := 0x10, rst := 0x140A, lck := 0x7F1F },
  { name := "ENG_STATUS", off := 0x1000, dims := [(18, 0x100)] },
  { name := "ENG_COL_FAIL", off := 0x1008, dims := [(18, 0x100)], wide := true, stg := 0xFFFFFFFFFFFFFFFF },
  { name := "ENG_COL_FAIL_HI", off := 0x1010, dims := [(18, 0x100)], stg := 0xF },
  { name := "ENG_ERR", off := 0x1018, dims := [(18, 0x100)], wide := true, w1c := 0x8000000000000000 },
  { name := "ENG_CNT_BUSY", off := 0x1020, dims := [(18, 0x100)], wide := true },
  { name := "ENG_CNT_STALL", off := 0x1028, dims := [(18, 0x100)] },
  { name := "ENG_CNT_CHK", off := 0x102C, dims := [(18, 0x100)] },
  { name := "ENG_CNT_ECC", off := 0x1030, dims := [(18, 0x100)] },
  { name := "ENG_CNT_NONFINITE", off := 0x1034, dims := [(18, 0x100)] },
  { name := "ENG_CNT_SAT", off := 0x1038, dims := [(18, 0x100)] }]

/-- Block IDX, compute-die window: Tables 4.7, 4.8 (04_irregular_operations.md). -/
def dieRegsIDX : List RegDef := [
  { name := "IDX_ERR", off := 0x1000, dims := [(18, 0x100)], wide := true, w1c := 0x8000000000000000 },
  { name := "IDX_CNT_STALL", off := 0x1008, dims := [(18, 0x100)] },
  { name := "IDX_CNT_OOB", off := 0x100C, dims := [(18, 0x100)] },
  { name := "IDX_CNT_EMPTY", off := 0x1010, dims := [(18, 0x100)] },
  { name := "IDX_CNT_ROWS", off := 0x1018, dims := [(18, 0x100)], wide := true }]

/-- Block SRT, compute-die window: Tables 4.7, 4.8 (04_irregular_operations.md). -/
def dieRegsSRT : List RegDef := [
  { name := "SRT_ERR", off := 0x1000, dims := [(18, 0x100)], wide := true, w1c := 0x8000000000000000 },
  { name := "SRT_CNT_KEYS", off := 0x1008, dims := [(18, 0x100)], wide := true },
  { name := "SRT_CNT_CHK", off := 0x1010, dims := [(18, 0x100)] }]

/-- Block SEK, compute-die window: Tables 4.7, 4.8 (04_irregular_operations.md). -/
def dieRegsSEK : List RegDef := [
  { name := "SEK_ERR", off := 0x1000, dims := [(18, 0x100)], wide := true, w1c := 0x8000000000000000 },
  { name := "SEK_CNT_CAP", off := 0x1008, dims := [(18, 0x100)] },
  { name := "SEK_CNT_OUTSIDE", off := 0x100C, dims := [(18, 0x100)] },
  { name := "SEK_CNT_TRUNC", off := 0x1010, dims := [(18, 0x100)] },
  { name := "SEK_CNT_QUERY", off := 0x1018, dims := [(18, 0x100)], wide := true }]

/-- Block PLN, compute-die window: Tables 5.17, 5.18 (05_plans_and_task_graphs.md). -/
def dieRegsPLN : List RegDef := [
  { name := "PLN_INFLIGHT", off := 0x0 },
  { name := "PLN_PART", off := 0x100, dims := [(8, 0x8)], wide := true, rst := 0xFF00000000000000 }]

/-- Block ADM, compute-die window: Table 6.17 (06_admission_and_time_triggered_execution.md). -/
def dieRegsADM : List RegDef := [
  { name := "ADM_TBL", off := 0x0 },
  { name := "ADM_CNT_LATE", off := 0x8 },
  { name := "ADM_CNT_OVERRUN", off := 0xC },
  { name := "ADM_CNT_BEACON_ABORT", off := 0x10 }]

/-- Block MEM, compute-die window: Tables 7.9, 7.10, 7.11, 7.12 (07_memory_and_bandwidth_regulation.md). -/
def dieRegsMEM : List RegDef := [
  { name := "MEM_CTRL", off := 0x0, rst := 0x1F41801, lck := 0x3FFFF01 },
  { name := "MEM_STATUS", off := 0x8 },
  { name := "MEM_ERR", off := 0x10, wide := true, w1c := 0x8000000000000000 },
  { name := "MEM_CH_CNT_RD", off := 0x100, dims := [(8, 0x40)], wide := true },
  { name := "MEM_CH_CNT_WR", off := 0x108, dims := [(8, 0x40)], wide := true },
  { name := "MEM_CH_CNT_MISS", off := 0x110, dims := [(8, 0x40)] },
  { name := "MEM_CH_CNT_LECC", off := 0x114, dims := [(8, 0x40)] },
  { name := "MEM_CH_EYE", off := 0x118, dims := [(8, 0x40)] },
  { name := "MEM_SS_CNT_ECC", off := 0x20 }]

/-- Block BWR, compute-die window: Tables 7.13, 7.14, 7.15, 7.16 (07_memory_and_bandwidth_regulation.md). -/
def dieRegsBWR : List RegDef := [
  { name := "BWR_BUD", off := 0x0, dims := [(8, 0x8)], wide := true },
  { name := "BWR_SYS", off := 0x40, rst := 0x8080342, lck := 0xFFFF0FFF },
  { name := "BWR_ERR", off := 0x48, wide := true, w1c := 0x8000000000000000 },
  { name := "BWR_CNT_BLK", off := 0x100, dims := [(8, 0x40), (4, 0x10)], wide := true },
  { name := "BWR_CNT_HOLD", off := 0x108, dims := [(8, 0x40), (4, 0x10)] },
  { name := "BWR_CNT_EXCESS", off := 0x10C, dims := [(8, 0x40), (4, 0x10)] }]

/-- Block KVW, compute-die window: Tables 8.13, 8.14, 8.15 (08_sequence_serving_and_kv_cache.md). -/
def dieRegsKVW : List RegDef := [
  { name := "KVW_STATUS", off := 0x0 },
  { name := "KVW_ERR", off := 0x8, wide := true, w1c := 0x8000000000000000 },
  { name := "KVW_EPOCH", off := 0x100, dims := [(8, 0x40)], wide := true },
  { name := "KVW_FLOOR", off := 0x108, dims := [(8, 0x40)], wide := true },
  { name := "KVW_NEAR", off := 0x110, dims := [(8, 0x40)], wide := true },
  { name := "KVW_BULK", off := 0x118, dims := [(8, 0x40)], wide := true },
  { name := "KVW_SEQ", off := 0x120, dims := [(8, 0x40)] },
  { name := "KVW_CNT_DEFER", off := 0x124, dims := [(8, 0x40)] },
  { name := "KVW_CNT_COW", off := 0x128, dims := [(8, 0x40)] },
  { name := "KVW_CNT_SPILL", off := 0x12C, dims := [(8, 0x40)] },
  { name := "KVW_CNT_PREFETCH", off := 0x130, dims := [(8, 0x40)] },
  { name := "KVW_CNT_TB_MISS", off := 0x134, dims := [(8, 0x40)] }]

/-- Block FUS, compute-die window: Table 11.11 (11_grid_fusion_and_tracks.md). -/
def dieRegsFUS : List RegDef := [
  { name := "FUS_WARP_ERR", off := 0x0, wide := true, w1c := 0x8000000000000000 },
  { name := "FUS_CNT_DROP", off := 0x8 },
  { name := "FUS_CNT_ENTRIES", off := 0x10, wide := true }]

/-- Block LNK, compute-die window: Tables 12.10, 12.11 (12_die_links_and_partner_dies.md). -/
def dieRegsLNK : List RegDef := [
  { name := "LNK_MOD", off := 0x100, dims := [(3, 0x20)], wide := true },
  { name := "LNK_CNT_CRC", off := 0x108, dims := [(3, 0x20)] },
  { name := "LNK_CNT_RETRAIN", off := 0x10C, dims := [(3, 0x20)] },
  { name := "LNK_CNT_TIMEOUT", off := 0x110, dims := [(3, 0x20)] },
  { name := "LNK_CNT_LATE_RESP", off := 0x114, dims := [(3, 0x20)] },
  { name := "LNK_CNT_LANE", off := 0x118, dims := [(3, 0x20)] }]

/-- Block CHK, compute-die window: Table 15.8 (15_integrity_and_redundant_execution.md). -/
def dieRegsCHK : List RegDef := [
  { name := "CHK_STATUS", off := 0x0 },
  { name := "CHK_ERR", off := 0x8, wide := true, w1c := 0x8000000000000000 },
  { name := "CHK_CNT_BEACON", off := 0x20 },
  { name := "CHK_CNT_BEACON_FAIL", off := 0x24 },
  { name := "CHK_CNT_BEACON_LATE", off := 0x28 },
  { name := "CHK_CNT_AUDIT", off := 0x2C },
  { name := "CHK_CNT_AUD_SKIP", off := 0x30 },
  { name := "CHK_CNT_AUD_FAIL", off := 0x34 },
  { name := "CHK_CNT_CV_FAIL", off := 0x38 },
  { name := "CHK_CNT_QUAR", off := 0x3C },
  { name := "CHK_CNT_RETIRE", off := 0x40 }]

/-- Block WDG, compute-die window: Table 16.12 (16_safety_islands_and_fault_handling.md). -/
def dieRegsWDG : List RegDef := [
  { name := "WDG_STATUS", off := 0x0 },
  { name := "WDG_ERR", off := 0x8, wide := true, w1c := 0x8000000000000000 },
  { name := "WDG_CNT_LATE", off := 0x10 },
  { name := "WDG_CNT_EARLY", off := 0x14 },
  { name := "WDG_WIN", off := 0x1000, dims := [(256, 0x8)], wide := true, rst := 0x1, stg := 0xFFFF7F03 }]

/-- Block PWR, compute-die window: Table 17.11 (17_reset_clocks_and_power.md). -/
def dieRegsPWR : List RegDef := [
  { name := "PWR_DOM", off := 0x0, wide := true },
  { name := "PWR_CNT_WAKE", off := 0x8 },
  { name := "PWR_CNT_LATE", off := 0xC },
  { name := "PWR_CNT_RET_US", off := 0x10, wide := true }]

/-- Block CHK, Kysta window: Table 15.9 (15_integrity_and_redundant_execution.md). -/
def kyRegsCHK : List RegDef := [
  { name := "CHK_ISL", off := 0x10 },
  { name := "CHK_CNT_AGREE_RETRY", off := 0x14 }]

/-- Block SAF, Kysta window: Table 16.11 (16_safety_islands_and_fault_handling.md). -/
def kyRegsSAF : List RegDef := [
  { name := "SAF_MON", off := 0x0 },
  { name := "SAF_MON_ERR", off := 0x8, wide := true, w1c := 0x8000000000000000 },
  { name := "SAF_CR", off := 0x10 },
  { name := "SAF_DLOG", off := 0x1000, dims := [(16, 0x10), (2, 0x8)], wide := true }]

/-- Block RST, Kysta window: Table 17.9 (17_reset_clocks_and_power.md). -/
def kyRegsRST : List RegDef := [
  { name := "RST_KBACKUP", off := 0x100, dims := [(16, 0x4)], rw := 0xFFFFFFFF }]

/-- The registers of hub block `src` (Table 20.1). -/
def hubRegs : Nat → List RegDef
  | 0x0 => hubRegsPKG
  | 0x1 => hubRegsPACE
  | 0x6 => hubRegsPLN
  | 0x7 => hubRegsADM
  | 0x8 => hubRegsMEM
  | 0x9 => hubRegsBWR
  | 0xA => hubRegsKVW
  | 0xB => hubRegsING
  | 0xC => hubRegsPRE
  | 0xD => hubRegsDEC
  | 0xE => hubRegsSMPL
  | 0xF => hubRegsFUS
  | 0x10 => hubRegsTRK
  | 0x11 => hubRegsLNK
  | 0x12 => hubRegsETH
  | 0x13 => hubRegsOHP
  | 0x14 => hubRegsSMP
  | 0x15 => hubRegsBOOT
  | 0x16 => hubRegsSEC
  | 0x17 => hubRegsCHK
  | 0x18 => hubRegsSAF
  | 0x19 => hubRegsWDG
  | 0x1A => hubRegsRST
  | 0x1B => hubRegsCLK
  | 0x1C => hubRegsPWR
  | 0x1D => hubRegsHLT
  | 0x1E => hubRegsJSY
  | _ => []

/-- The registers of compute-die block `src` (Table 20.1). -/
def dieRegs : Nat → List RegDef
  | 0x1 => dieRegsPACE
  | 0x2 => dieRegsENG
  | 0x3 => dieRegsIDX
  | 0x4 => dieRegsSRT
  | 0x5 => dieRegsSEK
  | 0x6 => dieRegsPLN
  | 0x7 => dieRegsADM
  | 0x8 => dieRegsMEM
  | 0x9 => dieRegsBWR
  | 0xA => dieRegsKVW
  | 0xF => dieRegsFUS
  | 0x11 => dieRegsLNK
  | 0x17 => dieRegsCHK
  | 0x19 => dieRegsWDG
  | 0x1C => dieRegsPWR
  | _ => []

/-- The registers of Kysta block `src` (Table 20.1). -/
def kyRegs : Nat → List RegDef
  | 0x17 => kyRegsCHK
  | 0x18 => kyRegsSAF
  | 0x1A => kyRegsRST
  | _ => []

/-- The registers of block `src` in window `w`. -/
def winRegs : Win → Nat → List RegDef
  | .hub, src => hubRegs src
  | .die _, src => dieRegs src
  | .kysta, src => kyRegs src

end Sys2Proof.Machine
end

