-- ==== Sys2Proof/Machine/Reg.lean ====
section
/-! DEFINITION. Names for the registers and register fields of the part: for each register of the index its
package address (R544), and for each named field the register and the bits that hold it. A register of a
compute die takes the die index first; a register that the hub and the dies (or Kysta) share takes the window
first; then come its array indices. -/

namespace Sys2Proof.Machine

/-- A field: bits `hi` down to `lo` of the register at `addr`. -/
structure Fld where
  addr : Nat
  hi : Nat
  lo : Nat
deriving DecidableEq, Repr

end Sys2Proof.Machine

namespace Sys2Proof.Machine.Reg

/-- PKG_ID (Table 1.8, 01_package_architecture.md). -/
abbrev PKG_ID : Nat := hubBlk 0x0 + 0x0
abbrev PKG_ID_tz_count : Fld := ⟨PKG_ID, 3, 0⟩
abbrev PKG_ID_partner_fitted : Fld := ⟨PKG_ID, 4, 4⟩
abbrev PKG_ID_stepping_minor : Fld := ⟨PKG_ID, 11, 8⟩
abbrev PKG_ID_stepping_major : Fld := ⟨PKG_ID, 15, 12⟩
abbrev PKG_ID_family : Fld := ⟨PKG_ID, 31, 16⟩
/-- PKG_DIE_STATE (Table 1.9, 01_package_architecture.md). -/
abbrev PKG_DIE_STATE : Nat := hubBlk 0x0 + 0x8
abbrev PKG_DIE_STATE_die (n : Nat) : Fld := ⟨PKG_DIE_STATE, n * 2 + 1, n * 2⟩
/-- PKG_DECODE_ERR (Table 1.10, 01_package_architecture.md). -/
abbrev PKG_DECODE_ERR : Nat := hubBlk 0x0 + 0x10
abbrev PKG_DECODE_ERR_addr : Fld := ⟨PKG_DECODE_ERR, 47, 0⟩
abbrev PKG_DECODE_ERR_agent_hi : Fld := ⟨PKG_DECODE_ERR, 51, 48⟩
abbrev PKG_DECODE_ERR_agent_lo : Fld := ⟨PKG_DECODE_ERR, 55, 52⟩
abbrev PKG_DECODE_ERR_source : Fld := ⟨PKG_DECODE_ERR, 59, 56⟩
abbrev PKG_DECODE_ERR_kind : Fld := ⟨PKG_DECODE_ERR, 62, 60⟩
abbrev PKG_DECODE_ERR_valid : Fld := ⟨PKG_DECODE_ERR, 63, 63⟩
/-- PKG_DECODE_CNT (Table 1.11, 01_package_architecture.md). -/
abbrev PKG_DECODE_CNT : Nat := hubBlk 0x0 + 0x18
abbrev PKG_DECODE_CNT_count : Fld := ⟨PKG_DECODE_CNT, 31, 0⟩
/-- PKG_MEM_SIZE (Table 1.11, 01_package_architecture.md). -/
abbrev PKG_MEM_SIZE : Nat := hubBlk 0x0 + 0x20
abbrev PKG_MEM_SIZE_near_32g : Fld := ⟨PKG_MEM_SIZE, 7, 0⟩
abbrev PKG_MEM_SIZE_bulk_gib : Fld := ⟨PKG_MEM_SIZE, 22, 16⟩
/-- PACE_CTRL (Table 2.7, 02_self_timed_fabric_and_pace.md). -/
abbrev PACE_CTRL : Nat := hubBlk 0x1 + 0x8
abbrev PACE_CTRL_alarm_fallback : Fld := ⟨PACE_CTRL, 0, 0⟩
/-- PACE_TARGET (Table 2.8, 02_self_timed_fabric_and_pace.md). -/
abbrev PACE_TARGET (t : Nat) : Nat := dieBlk t 0x1 + 0x4
abbrev PACE_TARGET_target (t : Nat) : Fld := ⟨(PACE_TARGET t), 11, 0⟩
/-- PACE_STATUS (Table 2.9, 02_self_timed_fabric_and_pace.md). -/
abbrev PACE_STATUS (t : Nat) : Nat := dieBlk t 0x1 + 0x8
abbrev PACE_STATUS_die_pace (t : Nat) : Fld := ⟨(PACE_STATUS t), 11, 0⟩
abbrev PACE_STATUS_alarm (t : Nat) : Fld := ⟨(PACE_STATUS t), 16, 16⟩
abbrev PACE_STATUS_below_floor (t : Nat) : Fld := ⟨(PACE_STATUS t), 17, 17⟩
abbrev PACE_STATUS_ceiling_active (t : Nat) : Fld := ⟨(PACE_STATUS t), 18, 18⟩
abbrev PACE_STATUS_headroom_exhausted (t : Nat) : Fld := ⟨(PACE_STATUS t), 19, 19⟩
abbrev PACE_STATUS_slowest_domain (t : Nat) : Fld := ⟨(PACE_STATUS t), 24, 20⟩
/-- PACE_RAIL (Table 2.10, 02_self_timed_fabric_and_pace.md). -/
abbrev PACE_RAIL (t : Nat) : Nat := dieBlk t 0x1 + 0x10
abbrev PACE_RAIL_rail_cmd (t : Nat) : Fld := ⟨(PACE_RAIL t), 9, 0⟩
abbrev PACE_RAIL_rail_read (t : Nat) : Fld := ⟨(PACE_RAIL t), 25, 16⟩
abbrev PACE_RAIL_avs_fault (t : Nat) : Fld := ⟨(PACE_RAIL t), 28, 28⟩
/-- PACE_MIN (Table 2.11, 02_self_timed_fabric_and_pace.md). -/
abbrev PACE_MIN (t : Nat) : Nat := dieBlk t 0x1 + 0xC
abbrev PACE_MIN_min_pace (t : Nat) : Fld := ⟨(PACE_MIN t), 11, 0⟩
/-- PACE_CNT_ALARM (Table 2.11, 02_self_timed_fabric_and_pace.md). -/
abbrev PACE_CNT_ALARM (t : Nat) : Nat := dieBlk t 0x1 + 0x14
abbrev PACE_CNT_ALARM_count (t : Nat) : Fld := ⟨(PACE_CNT_ALARM t), 31, 0⟩
/-- PACE_CNT_AVS_RETRY (Table 2.11, 02_self_timed_fabric_and_pace.md). -/
abbrev PACE_CNT_AVS_RETRY (t : Nat) : Nat := dieBlk t 0x1 + 0x18
abbrev PACE_CNT_AVS_RETRY_count (t : Nat) : Fld := ⟨(PACE_CNT_AVS_RETRY t), 31, 0⟩
/-- PACE_CNT_LIMIT (Table 2.11, 02_self_timed_fabric_and_pace.md). -/
abbrev PACE_CNT_LIMIT (t : Nat) : Nat := dieBlk t 0x1 + 0x1C
abbrev PACE_CNT_LIMIT_count (t : Nat) : Fld := ⟨(PACE_CNT_LIMIT t), 31, 0⟩
/-- PACE_DOM (Table 2.12, 02_self_timed_fabric_and_pace.md). -/
abbrev PACE_DOM (t : Nat) (i : Nat) : Nat := dieBlk t 0x1 + 0x100 + i * 0x8
abbrev PACE_DOM_pace (t : Nat) (i : Nat) : Fld := ⟨(PACE_DOM t i), 11, 0⟩
abbrev PACE_DOM_ldo (t : Nat) (i : Nat) : Fld := ⟨(PACE_DOM t i), 21, 12⟩
abbrev PACE_DOM_slack (t : Nat) (i : Nat) : Fld := ⟨(PACE_DOM t i), 27, 22⟩
abbrev PACE_DOM_on (t : Nat) (i : Nat) : Fld := ⟨(PACE_DOM t i), 28, 28⟩
abbrev PACE_DOM_sentinel_fault (t : Nat) (i : Nat) : Fld := ⟨(PACE_DOM t i), 29, 29⟩
abbrev PACE_DOM_limiter (t : Nat) (i : Nat) : Fld := ⟨(PACE_DOM t i), 30, 30⟩
abbrev PACE_DOM_min_pace (t : Nat) (i : Nat) : Fld := ⟨(PACE_DOM t i), 43, 32⟩
/-- PACE_ALARM_SUM (Table 2.13, 02_self_timed_fabric_and_pace.md). -/
abbrev PACE_ALARM_SUM : Nat := hubBlk 0x1 + 0x0
abbrev PACE_ALARM_SUM_alarm_die : Fld := ⟨PACE_ALARM_SUM, 7, 0⟩
abbrev PACE_ALARM_SUM_alarm : Fld := ⟨PACE_ALARM_SUM, 8, 8⟩
abbrev PACE_ALARM_SUM_below_floor_die : Fld := ⟨PACE_ALARM_SUM, 23, 16⟩
/-- ENG_LMAP_0 (Table 3.14, 03_engine_arrays_and_arithmetic.md). -/
abbrev ENG_LMAP_0 (t : Nat) : Nat := dieBlk t 0x2 + 0x0
abbrev ENG_LMAP_0_phys (t : Nat) (n : Nat) : Fld := ⟨(ENG_LMAP_0 t), n * 8 + 4, n * 8⟩
/-- ENG_LMAP_1 (Table 3.14, 03_engine_arrays_and_arithmetic.md). -/
abbrev ENG_LMAP_1 (t : Nat) : Nat := dieBlk t 0x2 + 0x8
abbrev ENG_LMAP_1_phys (t : Nat) (n : Nat) : Fld := ⟨(ENG_LMAP_1 t), n * 8 + 4, n * 8⟩
/-- ENG_CHK_TOL (Table 3.15, 03_engine_arrays_and_arithmetic.md). -/
abbrev ENG_CHK_TOL (t : Nat) : Nat := dieBlk t 0x2 + 0x10
abbrev ENG_CHK_TOL_eps_exp (t : Nat) : Fld := ⟨(ENG_CHK_TOL t), 4, 0⟩
abbrev ENG_CHK_TOL_tau_exp (t : Nat) : Fld := ⟨(ENG_CHK_TOL t), 14, 8⟩
/-- ENG_STATUS (Table 3.16, 03_engine_arrays_and_arithmetic.md). -/
abbrev ENG_STATUS (t : Nat) (i : Nat) : Nat := dieBlk t 0x2 + 0x1000 + i * 0x100
abbrev ENG_STATUS_state (t : Nat) (i : Nat) : Fld := ⟨(ENG_STATUS t i), 2, 0⟩
abbrev ENG_STATUS_logical (t : Nat) (i : Nat) : Fld := ⟨(ENG_STATUS t i), 7, 4⟩
abbrev ENG_STATUS_mapped (t : Nat) (i : Nat) : Fld := ⟨(ENG_STATUS t i), 8, 8⟩
abbrev ENG_STATUS_spare_cols (t : Nat) (i : Nat) : Fld := ⟨(ENG_STATUS t i), 10, 9⟩
/-- ENG_COL_FAIL (Table 3.17, 03_engine_arrays_and_arithmetic.md). -/
abbrev ENG_COL_FAIL (t : Nat) (i : Nat) : Nat := dieBlk t 0x2 + 0x1008 + i * 0x100
abbrev ENG_COL_FAIL_fail_lo (t : Nat) (i : Nat) : Fld := ⟨(ENG_COL_FAIL t i), 63, 0⟩
/-- ENG_COL_FAIL_HI (Table 3.17, 03_engine_arrays_and_arithmetic.md). -/
abbrev ENG_COL_FAIL_HI (t : Nat) (i : Nat) : Nat := dieBlk t 0x2 + 0x1010 + i * 0x100
abbrev ENG_COL_FAIL_HI_fail_hi (t : Nat) (i : Nat) : Fld := ⟨(ENG_COL_FAIL_HI t i), 3, 0⟩
/-- ENG_ERR (Table 3.18, 03_engine_arrays_and_arithmetic.md). -/
abbrev ENG_ERR (t : Nat) (i : Nat) : Nat := dieBlk t 0x2 + 0x1018 + i * 0x100
abbrev ENG_ERR_code (t : Nat) (i : Nat) : Fld := ⟨(ENG_ERR t i), 5, 0⟩
abbrev ENG_ERR_pass (t : Nat) (i : Nat) : Fld := ⟨(ENG_ERR t i), 23, 8⟩
abbrev ENG_ERR_row (t : Nat) (i : Nat) : Fld := ⟨(ENG_ERR t i), 47, 32⟩
abbrev ENG_ERR_valid (t : Nat) (i : Nat) : Fld := ⟨(ENG_ERR t i), 63, 63⟩
/-- ENG_CNT_BUSY (Table 3.19, 03_engine_arrays_and_arithmetic.md). -/
abbrev ENG_CNT_BUSY (t : Nat) (i : Nat) : Nat := dieBlk t 0x2 + 0x1020 + i * 0x100
abbrev ENG_CNT_BUSY_beats (t : Nat) (i : Nat) : Fld := ⟨(ENG_CNT_BUSY t i), 63, 0⟩
/-- ENG_CNT_STALL (Table 3.19, 03_engine_arrays_and_arithmetic.md). -/
abbrev ENG_CNT_STALL (t : Nat) (i : Nat) : Nat := dieBlk t 0x2 + 0x1028 + i * 0x100
abbrev ENG_CNT_STALL_beats (t : Nat) (i : Nat) : Fld := ⟨(ENG_CNT_STALL t i), 31, 0⟩
/-- ENG_CNT_CHK (Table 3.19, 03_engine_arrays_and_arithmetic.md). -/
abbrev ENG_CNT_CHK (t : Nat) (i : Nat) : Nat := dieBlk t 0x2 + 0x102C + i * 0x100
abbrev ENG_CNT_CHK_count (t : Nat) (i : Nat) : Fld := ⟨(ENG_CNT_CHK t i), 31, 0⟩
/-- ENG_CNT_ECC (Table 3.19, 03_engine_arrays_and_arithmetic.md). -/
abbrev ENG_CNT_ECC (t : Nat) (i : Nat) : Nat := dieBlk t 0x2 + 0x1030 + i * 0x100
abbrev ENG_CNT_ECC_count (t : Nat) (i : Nat) : Fld := ⟨(ENG_CNT_ECC t i), 31, 0⟩
/-- ENG_CNT_NONFINITE (Table 3.19, 03_engine_arrays_and_arithmetic.md). -/
abbrev ENG_CNT_NONFINITE (t : Nat) (i : Nat) : Nat := dieBlk t 0x2 + 0x1034 + i * 0x100
abbrev ENG_CNT_NONFINITE_count (t : Nat) (i : Nat) : Fld := ⟨(ENG_CNT_NONFINITE t i), 31, 0⟩
/-- ENG_CNT_SAT (Table 3.19, 03_engine_arrays_and_arithmetic.md). -/
abbrev ENG_CNT_SAT (t : Nat) (i : Nat) : Nat := dieBlk t 0x2 + 0x1038 + i * 0x100
abbrev ENG_CNT_SAT_count (t : Nat) (i : Nat) : Fld := ⟨(ENG_CNT_SAT t i), 31, 0⟩
/-- IDX_ERR (Table 4.7, 04_irregular_operations.md). -/
abbrev IDX_ERR (t : Nat) (i : Nat) : Nat := dieBlk t 0x3 + 0x1000 + i * 0x100
abbrev IDX_ERR_code (t : Nat) (i : Nat) : Fld := ⟨(IDX_ERR t i), 5, 0⟩
abbrev IDX_ERR_item (t : Nat) (i : Nat) : Fld := ⟨(IDX_ERR t i), 52, 32⟩
abbrev IDX_ERR_valid (t : Nat) (i : Nat) : Fld := ⟨(IDX_ERR t i), 63, 63⟩
/-- SRT_ERR (Table 4.7, 04_irregular_operations.md). -/
abbrev SRT_ERR (t : Nat) (i : Nat) : Nat := dieBlk t 0x4 + 0x1000 + i * 0x100
abbrev SRT_ERR_code (t : Nat) (i : Nat) : Fld := ⟨(SRT_ERR t i), 5, 0⟩
abbrev SRT_ERR_item (t : Nat) (i : Nat) : Fld := ⟨(SRT_ERR t i), 52, 32⟩
abbrev SRT_ERR_valid (t : Nat) (i : Nat) : Fld := ⟨(SRT_ERR t i), 63, 63⟩
/-- SEK_ERR (Table 4.7, 04_irregular_operations.md). -/
abbrev SEK_ERR (t : Nat) (i : Nat) : Nat := dieBlk t 0x5 + 0x1000 + i * 0x100
abbrev SEK_ERR_code (t : Nat) (i : Nat) : Fld := ⟨(SEK_ERR t i), 5, 0⟩
abbrev SEK_ERR_item (t : Nat) (i : Nat) : Fld := ⟨(SEK_ERR t i), 52, 32⟩
abbrev SEK_ERR_valid (t : Nat) (i : Nat) : Fld := ⟨(SEK_ERR t i), 63, 63⟩
/-- IDX_CNT_STALL (Table 4.8, 04_irregular_operations.md). -/
abbrev IDX_CNT_STALL (t : Nat) (i : Nat) : Nat := dieBlk t 0x3 + 0x1008 + i * 0x100
abbrev IDX_CNT_STALL_beats (t : Nat) (i : Nat) : Fld := ⟨(IDX_CNT_STALL t i), 31, 0⟩
/-- IDX_CNT_OOB (Table 4.8, 04_irregular_operations.md). -/
abbrev IDX_CNT_OOB (t : Nat) (i : Nat) : Nat := dieBlk t 0x3 + 0x100C + i * 0x100
abbrev IDX_CNT_OOB_count (t : Nat) (i : Nat) : Fld := ⟨(IDX_CNT_OOB t i), 31, 0⟩
/-- IDX_CNT_EMPTY (Table 4.8, 04_irregular_operations.md). -/
abbrev IDX_CNT_EMPTY (t : Nat) (i : Nat) : Nat := dieBlk t 0x3 + 0x1010 + i * 0x100
abbrev IDX_CNT_EMPTY_count (t : Nat) (i : Nat) : Fld := ⟨(IDX_CNT_EMPTY t i), 31, 0⟩
/-- IDX_CNT_ROWS (Table 4.8, 04_irregular_operations.md). -/
abbrev IDX_CNT_ROWS (t : Nat) (i : Nat) : Nat := dieBlk t 0x3 + 0x1018 + i * 0x100
abbrev IDX_CNT_ROWS_rows (t : Nat) (i : Nat) : Fld := ⟨(IDX_CNT_ROWS t i), 63, 0⟩
/-- SRT_CNT_KEYS (Table 4.8, 04_irregular_operations.md). -/
abbrev SRT_CNT_KEYS (t : Nat) (i : Nat) : Nat := dieBlk t 0x4 + 0x1008 + i * 0x100
abbrev SRT_CNT_KEYS_keys (t : Nat) (i : Nat) : Fld := ⟨(SRT_CNT_KEYS t i), 63, 0⟩
/-- SRT_CNT_CHK (Table 4.8, 04_irregular_operations.md). -/
abbrev SRT_CNT_CHK (t : Nat) (i : Nat) : Nat := dieBlk t 0x4 + 0x1010 + i * 0x100
abbrev SRT_CNT_CHK_count (t : Nat) (i : Nat) : Fld := ⟨(SRT_CNT_CHK t i), 31, 0⟩
/-- SEK_CNT_CAP (Table 4.8, 04_irregular_operations.md). -/
abbrev SEK_CNT_CAP (t : Nat) (i : Nat) : Nat := dieBlk t 0x5 + 0x1008 + i * 0x100
abbrev SEK_CNT_CAP_count (t : Nat) (i : Nat) : Fld := ⟨(SEK_CNT_CAP t i), 31, 0⟩
/-- SEK_CNT_OUTSIDE (Table 4.8, 04_irregular_operations.md). -/
abbrev SEK_CNT_OUTSIDE (t : Nat) (i : Nat) : Nat := dieBlk t 0x5 + 0x100C + i * 0x100
abbrev SEK_CNT_OUTSIDE_count (t : Nat) (i : Nat) : Fld := ⟨(SEK_CNT_OUTSIDE t i), 31, 0⟩
/-- SEK_CNT_TRUNC (Table 4.8, 04_irregular_operations.md). -/
abbrev SEK_CNT_TRUNC (t : Nat) (i : Nat) : Nat := dieBlk t 0x5 + 0x1010 + i * 0x100
abbrev SEK_CNT_TRUNC_count (t : Nat) (i : Nat) : Fld := ⟨(SEK_CNT_TRUNC t i), 31, 0⟩
/-- SEK_CNT_QUERY (Table 4.8, 04_irregular_operations.md). -/
abbrev SEK_CNT_QUERY (t : Nat) (i : Nat) : Nat := dieBlk t 0x5 + 0x1018 + i * 0x100
abbrev SEK_CNT_QUERY_count (t : Nat) (i : Nat) : Fld := ⟨(SEK_CNT_QUERY t i), 63, 0⟩
/-- PLN_STATUS (Table 5.12, 05_plans_and_task_graphs.md). -/
abbrev PLN_STATUS : Nat := hubBlk 0x6 + 0x0
abbrev PLN_STATUS_plan_id : Fld := ⟨PLN_STATUS, 31, 0⟩
abbrev PLN_STATUS_kind : Fld := ⟨PLN_STATUS, 33, 32⟩
abbrev PLN_STATUS_lost_die : Fld := ⟨PLN_STATUS, 36, 34⟩
abbrev PLN_STATUS_running : Fld := ⟨PLN_STATUS, 37, 37⟩
abbrev PLN_STATUS_mode : Fld := ⟨PLN_STATUS, 42, 38⟩
abbrev PLN_STATUS_mode_pending : Fld := ⟨PLN_STATUS, 48, 48⟩
/-- PLN_MODE_REQ (Table 5.13, 05_plans_and_task_graphs.md). -/
abbrev PLN_MODE_REQ : Nat := hubBlk 0x6 + 0x8
abbrev PLN_MODE_REQ_mode : Fld := ⟨PLN_MODE_REQ, 4, 0⟩
/-- PLN_PERIOD (Table 5.14, 05_plans_and_task_graphs.md). -/
abbrev PLN_PERIOD : Nat := hubBlk 0x6 + 0x10
abbrev PLN_PERIOD_period_us : Fld := ⟨PLN_PERIOD, 19, 0⟩
/-- PLN_PERIOD_CNT (Table 5.14, 05_plans_and_task_graphs.md). -/
abbrev PLN_PERIOD_CNT : Nat := hubBlk 0x6 + 0x18
abbrev PLN_PERIOD_CNT_count : Fld := ⟨PLN_PERIOD_CNT, 63, 0⟩
/-- PLN_ERR (Table 5.15, 05_plans_and_task_graphs.md). -/
abbrev PLN_ERR : Nat := hubBlk 0x6 + 0x20
abbrev PLN_ERR_code : Fld := ⟨PLN_ERR, 7, 0⟩
abbrev PLN_ERR_graph : Fld := ⟨PLN_ERR, 15, 8⟩
abbrev PLN_ERR_task : Fld := ⟨PLN_ERR, 27, 16⟩
abbrev PLN_ERR_part : Fld := ⟨PLN_ERR, 37, 32⟩
abbrev PLN_ERR_kind : Fld := ⟨PLN_ERR, 39, 38⟩
abbrev PLN_ERR_lost_die : Fld := ⟨PLN_ERR, 42, 40⟩
abbrev PLN_ERR_valid : Fld := ⟨PLN_ERR, 63, 63⟩
/-- PLN_CNT_MODE (Table 5.16, 05_plans_and_task_graphs.md). -/
abbrev PLN_CNT_MODE : Nat := hubBlk 0x6 + 0x28
abbrev PLN_CNT_MODE_count : Fld := ⟨PLN_CNT_MODE, 31, 0⟩
/-- PLN_CNT_MODE_DISC (Table 5.16, 05_plans_and_task_graphs.md). -/
abbrev PLN_CNT_MODE_DISC : Nat := hubBlk 0x6 + 0x2C
abbrev PLN_CNT_MODE_DISC_count : Fld := ⟨PLN_CNT_MODE_DISC, 31, 0⟩
/-- PLN_CNT_ABORT (Table 5.16, 05_plans_and_task_graphs.md). -/
abbrev PLN_CNT_ABORT : Nat := hubBlk 0x6 + 0x30
abbrev PLN_CNT_ABORT_count : Fld := ⟨PLN_CNT_ABORT, 31, 0⟩
/-- PLN_CNT_REJECT (Table 5.16, 05_plans_and_task_graphs.md). -/
abbrev PLN_CNT_REJECT : Nat := hubBlk 0x6 + 0x34
abbrev PLN_CNT_REJECT_count : Fld := ⟨PLN_CNT_REJECT, 31, 0⟩
/-- PLN_INFLIGHT (Table 5.17, 05_plans_and_task_graphs.md). -/
abbrev PLN_INFLIGHT (t : Nat) : Nat := dieBlk t 0x6 + 0x0
abbrev PLN_INFLIGHT_now (t : Nat) : Fld := ⟨(PLN_INFLIGHT t), 13, 0⟩
abbrev PLN_INFLIGHT_peak (t : Nat) : Fld := ⟨(PLN_INFLIGHT t), 29, 16⟩
/-- PLN_PART (Table 5.18, 05_plans_and_task_graphs.md). -/
abbrev PLN_PART (t : Nat) (i : Nat) : Nat := dieBlk t 0x6 + 0x100 + i * 0x8
abbrev PLN_PART_part (t : Nat) (i : Nat) : Fld := ⟨(PLN_PART t i), 5, 0⟩
abbrev PLN_PART_state (t : Nat) (i : Nat) : Fld := ⟨(PLN_PART t i), 7, 6⟩
abbrev PLN_PART_eng_mask (t : Nat) (i : Nat) : Fld := ⟨(PLN_PART t i), 23, 8⟩
abbrev PLN_PART_chan_mask (t : Nat) (i : Nat) : Fld := ⟨(PLN_PART t i), 31, 24⟩
abbrev PLN_PART_way_mask (t : Nat) (i : Nat) : Fld := ⟨(PLN_PART t i), 47, 32⟩
abbrev PLN_PART_wdg_base (t : Nat) (i : Nat) : Fld := ⟨(PLN_PART t i), 55, 48⟩
abbrev PLN_PART_model (t : Nat) (i : Nat) : Fld := ⟨(PLN_PART t i), 63, 56⟩
/-- ADM_CTRL (Table 6.11, 06_admission_and_time_triggered_execution.md). -/
abbrev ADM_CTRL : Nat := hubBlk 0x7 + 0x0
abbrev ADM_CTRL_submit_en : Fld := ⟨ADM_CTRL, 0, 0⟩
abbrev ADM_CTRL_auto_return : Fld := ⟨ADM_CTRL, 1, 1⟩
abbrev ADM_CTRL_return_periods : Fld := ⟨ADM_CTRL, 7, 4⟩
abbrev ADM_CTRL_beacon_off_us : Fld := ⟨ADM_CTRL, 31, 16⟩
/-- ADM_STATUS (Table 6.12, 06_admission_and_time_triggered_execution.md). -/
abbrev ADM_STATUS : Nat := hubBlk 0x7 + 0x8
abbrev ADM_STATUS_busy : Fld := ⟨ADM_STATUS, 0, 0⟩
abbrev ADM_STATUS_dieloss_due : Fld := ⟨ADM_STATUS, 1, 1⟩
abbrev ADM_STATUS_due_die : Fld := ⟨ADM_STATUS, 4, 2⟩
abbrev ADM_STATUS_alarm_due : Fld := ⟨ADM_STATUS, 5, 5⟩
abbrev ADM_STATUS_in_fallback : Fld := ⟨ADM_STATUS, 6, 6⟩
abbrev ADM_STATUS_return_due : Fld := ⟨ADM_STATUS, 7, 7⟩
abbrev ADM_STATUS_queued : Fld := ⟨ADM_STATUS, 15, 8⟩
/-- ADM_LAST (Table 6.13, 06_admission_and_time_triggered_execution.md). -/
abbrev ADM_LAST : Nat := hubBlk 0x7 + 0x10
abbrev ADM_LAST_graph : Fld := ⟨ADM_LAST, 7, 0⟩
abbrev ADM_LAST_code : Fld := ⟨ADM_LAST, 15, 8⟩
abbrev ADM_LAST_task : Fld := ⟨ADM_LAST, 27, 16⟩
abbrev ADM_LAST_plan_level : Fld := ⟨ADM_LAST, 28, 28⟩
abbrev ADM_LAST_bound_ns : Fld := ⟨ADM_LAST, 61, 32⟩
abbrev ADM_LAST_valid : Fld := ⟨ADM_LAST, 63, 63⟩
/-- ADM_PREEMPT (Table 6.14, 06_admission_and_time_triggered_execution.md). -/
abbrev ADM_PREEMPT : Nat := hubBlk 0x7 + 0x18
abbrev ADM_PREEMPT_graph : Fld := ⟨ADM_PREEMPT, 7, 0⟩
abbrev ADM_PREEMPT_op : Fld := ⟨ADM_PREEMPT, 9, 8⟩
abbrev ADM_PREEMPT_pending : Fld := ⟨ADM_PREEMPT, 16, 16⟩
abbrev ADM_PREEMPT_preempted : Fld := ⟨ADM_PREEMPT, 17, 17⟩
/-- ADM_FB_CTRL (Table 6.15, 06_admission_and_time_triggered_execution.md). -/
abbrev ADM_FB_CTRL : Nat := hubBlk 0x7 + 0x20
abbrev ADM_FB_CTRL_return_req : Fld := ⟨ADM_FB_CTRL, 0, 0⟩
/-- ADM_WAIT (Table 6.15, 06_admission_and_time_triggered_execution.md). -/
abbrev ADM_WAIT : Nat := hubBlk 0x7 + 0x24
abbrev ADM_WAIT_barrier_us : Fld := ⟨ADM_WAIT, 19, 0⟩
/-- ADM_CNT_ACCEPT (Table 6.16, 06_admission_and_time_triggered_execution.md). -/
abbrev ADM_CNT_ACCEPT : Nat := hubBlk 0x7 + 0x30
abbrev ADM_CNT_ACCEPT_count : Fld := ⟨ADM_CNT_ACCEPT, 31, 0⟩
/-- ADM_CNT_REJECT (Table 6.16, 06_admission_and_time_triggered_execution.md). -/
abbrev ADM_CNT_REJECT : Nat := hubBlk 0x7 + 0x34
abbrev ADM_CNT_REJECT_count : Fld := ⟨ADM_CNT_REJECT, 31, 0⟩
/-- ADM_CNT_STEP_ABORT (Table 6.16, 06_admission_and_time_triggered_execution.md). -/
abbrev ADM_CNT_STEP_ABORT : Nat := hubBlk 0x7 + 0x38
abbrev ADM_CNT_STEP_ABORT_count : Fld := ⟨ADM_CNT_STEP_ABORT, 31, 0⟩
/-- ADM_CNT_FB (Table 6.16, 06_admission_and_time_triggered_execution.md). -/
abbrev ADM_CNT_FB : Nat := hubBlk 0x7 + 0x3C
abbrev ADM_CNT_FB_count : Fld := ⟨ADM_CNT_FB, 31, 0⟩
/-- ADM_CNT_WITHHELD (Table 6.16, 06_admission_and_time_triggered_execution.md). -/
abbrev ADM_CNT_WITHHELD : Nat := hubBlk 0x7 + 0x40
abbrev ADM_CNT_WITHHELD_count : Fld := ⟨ADM_CNT_WITHHELD, 31, 0⟩
/-- ADM_TBL (Table 6.17, 06_admission_and_time_triggered_execution.md). -/
abbrev ADM_TBL (t : Nat) : Nat := dieBlk t 0x7 + 0x0
abbrev ADM_TBL_used (t : Nat) : Fld := ⟨(ADM_TBL t), 17, 0⟩
/-- ADM_CNT_LATE (Table 6.17, 06_admission_and_time_triggered_execution.md). -/
abbrev ADM_CNT_LATE (t : Nat) : Nat := dieBlk t 0x7 + 0x8
abbrev ADM_CNT_LATE_count (t : Nat) : Fld := ⟨(ADM_CNT_LATE t), 31, 0⟩
/-- ADM_CNT_OVERRUN (Table 6.17, 06_admission_and_time_triggered_execution.md). -/
abbrev ADM_CNT_OVERRUN (t : Nat) : Nat := dieBlk t 0x7 + 0xC
abbrev ADM_CNT_OVERRUN_count (t : Nat) : Fld := ⟨(ADM_CNT_OVERRUN t), 31, 0⟩
/-- ADM_CNT_BEACON_ABORT (Table 6.17, 06_admission_and_time_triggered_execution.md). -/
abbrev ADM_CNT_BEACON_ABORT (t : Nat) : Nat := dieBlk t 0x7 + 0x10
abbrev ADM_CNT_BEACON_ABORT_count (t : Nat) : Fld := ⟨(ADM_CNT_BEACON_ABORT t), 31, 0⟩
/-- MEM_CTRL (Table 7.9, 07_memory_and_bandwidth_regulation.md). -/
abbrev MEM_CTRL (w : Win) : Nat := w.blk 0x8 + 0x0
abbrev MEM_CTRL_scrub_en (w : Win) : Fld := ⟨(MEM_CTRL w), 0, 0⟩
abbrev MEM_CTRL_scrub_hours (w : Win) : Fld := ⟨(MEM_CTRL w), 15, 8⟩
abbrev MEM_CTRL_miss_warn (w : Win) : Fld := ⟨(MEM_CTRL w), 25, 16⟩
/-- MEM_STATUS (Table 7.10, 07_memory_and_bandwidth_regulation.md). -/
abbrev MEM_STATUS (w : Win) : Nat := w.blk 0x8 + 0x8
abbrev MEM_STATUS_ch_trained (w : Win) : Fld := ⟨(MEM_STATUS w), 7, 0⟩
abbrev MEM_STATUS_ch_failed (w : Win) : Fld := ⟨(MEM_STATUS w), 15, 8⟩
abbrev MEM_STATUS_key_epoch (w : Win) : Fld := ⟨(MEM_STATUS w), 31, 16⟩
/-- MEM_ERR (Table 7.11, 07_memory_and_bandwidth_regulation.md). -/
abbrev MEM_ERR (w : Win) : Nat := w.blk 0x8 + 0x10
abbrev MEM_ERR_addr (w : Win) : Fld := ⟨(MEM_ERR w), 47, 0⟩
abbrev MEM_ERR_chan (w : Win) : Fld := ⟨(MEM_ERR w), 50, 48⟩
abbrev MEM_ERR_kind (w : Win) : Fld := ⟨(MEM_ERR w), 53, 51⟩
abbrev MEM_ERR_valid (w : Win) : Fld := ⟨(MEM_ERR w), 63, 63⟩
/-- MEM_CH_CNT_RD (Table 7.12, 07_memory_and_bandwidth_regulation.md). -/
abbrev MEM_CH_CNT_RD (w : Win) (i : Nat) : Nat := w.blk 0x8 + 0x100 + i * 0x40
abbrev MEM_CH_CNT_RD_blocks (w : Win) (i : Nat) : Fld := ⟨(MEM_CH_CNT_RD w i), 63, 0⟩
/-- MEM_CH_CNT_WR (Table 7.12, 07_memory_and_bandwidth_regulation.md). -/
abbrev MEM_CH_CNT_WR (w : Win) (i : Nat) : Nat := w.blk 0x8 + 0x108 + i * 0x40
abbrev MEM_CH_CNT_WR_blocks (w : Win) (i : Nat) : Fld := ⟨(MEM_CH_CNT_WR w i), 63, 0⟩
/-- MEM_CH_CNT_MISS (Table 7.12, 07_memory_and_bandwidth_regulation.md). -/
abbrev MEM_CH_CNT_MISS (w : Win) (i : Nat) : Nat := w.blk 0x8 + 0x110 + i * 0x40
abbrev MEM_CH_CNT_MISS_count (w : Win) (i : Nat) : Fld := ⟨(MEM_CH_CNT_MISS w i), 31, 0⟩
/-- MEM_CH_CNT_LECC (Table 7.12, 07_memory_and_bandwidth_regulation.md). -/
abbrev MEM_CH_CNT_LECC (w : Win) (i : Nat) : Nat := w.blk 0x8 + 0x114 + i * 0x40
abbrev MEM_CH_CNT_LECC_count (w : Win) (i : Nat) : Fld := ⟨(MEM_CH_CNT_LECC w i), 31, 0⟩
/-- MEM_CH_EYE (Table 7.12, 07_memory_and_bandwidth_regulation.md). -/
abbrev MEM_CH_EYE (w : Win) (i : Nat) : Nat := w.blk 0x8 + 0x118 + i * 0x40
abbrev MEM_CH_EYE_rd_margin (w : Win) (i : Nat) : Fld := ⟨(MEM_CH_EYE w i), 7, 0⟩
abbrev MEM_CH_EYE_wr_margin (w : Win) (i : Nat) : Fld := ⟨(MEM_CH_EYE w i), 15, 8⟩
abbrev MEM_CH_EYE_refresh_mult (w : Win) (i : Nat) : Fld := ⟨(MEM_CH_EYE w i), 19, 16⟩
/-- MEM_SS_CNT_ECC (Table 7.12, 07_memory_and_bandwidth_regulation.md). -/
abbrev MEM_SS_CNT_ECC (t : Nat) : Nat := dieBlk t 0x8 + 0x20
abbrev MEM_SS_CNT_ECC_count (t : Nat) : Fld := ⟨(MEM_SS_CNT_ECC t), 31, 0⟩
/-- BWR_BUD (Table 7.13, 07_memory_and_bandwidth_regulation.md). -/
abbrev BWR_BUD (t : Nat) (i : Nat) : Nat := dieBlk t 0x9 + 0x0 + i * 0x8
abbrev BWR_BUD_near (t : Nat) (i : Nat) : Fld := ⟨(BWR_BUD t i), 15, 0⟩
abbrev BWR_BUD_shared (t : Nat) (i : Nat) : Fld := ⟨(BWR_BUD t i), 31, 16⟩
abbrev BWR_BUD_remote (t : Nat) (i : Nat) : Fld := ⟨(BWR_BUD t i), 47, 32⟩
abbrev BWR_BUD_bulk (t : Nat) (i : Nat) : Fld := ⟨(BWR_BUD t i), 63, 48⟩
/-- BWR_SYS (Table 7.14, 07_memory_and_bandwidth_regulation.md). -/
abbrev BWR_SYS (t : Nat) : Nat := dieBlk t 0x9 + 0x40
abbrev BWR_SYS_steward_near (t : Nat) : Fld := ⟨(BWR_SYS t), 3, 0⟩
abbrev BWR_SYS_walker_near (t : Nat) : Fld := ⟨(BWR_SYS t), 7, 4⟩
abbrev BWR_SYS_hub_near (t : Nat) : Fld := ⟨(BWR_SYS t), 11, 8⟩
abbrev BWR_SYS_steward_ss (t : Nat) : Fld := ⟨(BWR_SYS t), 23, 16⟩
abbrev BWR_SYS_walker_ss (t : Nat) : Fld := ⟨(BWR_SYS t), 31, 24⟩
/-- BWR_ERR (Table 7.15, 07_memory_and_bandwidth_regulation.md). -/
abbrev BWR_ERR (t : Nat) : Nat := dieBlk t 0x9 + 0x48
abbrev BWR_ERR_addr (t : Nat) : Fld := ⟨(BWR_ERR t), 47, 0⟩
abbrev BWR_ERR_slot (t : Nat) : Fld := ⟨(BWR_ERR t), 50, 48⟩
abbrev BWR_ERR_port (t : Nat) : Fld := ⟨(BWR_ERR t), 55, 51⟩
abbrev BWR_ERR_warp (t : Nat) : Fld := ⟨(BWR_ERR t), 56, 56⟩
abbrev BWR_ERR_why (t : Nat) : Fld := ⟨(BWR_ERR t), 58, 57⟩
abbrev BWR_ERR_valid (t : Nat) : Fld := ⟨(BWR_ERR t), 63, 63⟩
/-- BWR_CNT_BLK (Table 7.16, 07_memory_and_bandwidth_regulation.md). -/
abbrev BWR_CNT_BLK (t : Nat) (i j : Nat) : Nat := dieBlk t 0x9 + 0x100 + i * 0x40 + j * 0x10
abbrev BWR_CNT_BLK_blocks (t : Nat) (i j : Nat) : Fld := ⟨(BWR_CNT_BLK t i j), 63, 0⟩
/-- BWR_CNT_HOLD (Table 7.16, 07_memory_and_bandwidth_regulation.md). -/
abbrev BWR_CNT_HOLD (t : Nat) (i j : Nat) : Nat := dieBlk t 0x9 + 0x108 + i * 0x40 + j * 0x10
abbrev BWR_CNT_HOLD_us (t : Nat) (i j : Nat) : Fld := ⟨(BWR_CNT_HOLD t i j), 31, 0⟩
/-- BWR_CNT_EXCESS (Table 7.16, 07_memory_and_bandwidth_regulation.md). -/
abbrev BWR_CNT_EXCESS (t : Nat) (i j : Nat) : Nat := dieBlk t 0x9 + 0x10C + i * 0x40 + j * 0x10
abbrev BWR_CNT_EXCESS_blocks (t : Nat) (i j : Nat) : Fld := ⟨(BWR_CNT_EXCESS t i j), 31, 0⟩
/-- BWR_HUB_BUD (Table 7.17, 07_memory_and_bandwidth_regulation.md). -/
abbrev BWR_HUB_BUD : Nat := hubBlk 0x9 + 0x0
abbrev BWR_HUB_BUD_control : Fld := ⟨BWR_HUB_BUD, 7, 0⟩
abbrev BWR_HUB_BUD_storage : Fld := ⟨BWR_HUB_BUD, 15, 8⟩
abbrev BWR_HUB_BUD_preproc : Fld := ⟨BWR_HUB_BUD, 23, 16⟩
abbrev BWR_HUB_BUD_decode : Fld := ⟨BWR_HUB_BUD, 31, 24⟩
abbrev BWR_HUB_BUD_ethernet : Fld := ⟨BWR_HUB_BUD, 39, 32⟩
abbrev BWR_HUB_BUD_partner : Fld := ⟨BWR_HUB_BUD, 47, 40⟩
/-- KVW_STATUS (Table 8.13, 08_sequence_serving_and_kv_cache.md). -/
abbrev KVW_STATUS (t : Nat) : Nat := dieBlk t 0xA + 0x0
abbrev KVW_STATUS_steward (t : Nat) : Fld := ⟨(KVW_STATUS t), 0, 0⟩
abbrev KVW_STATUS_walker_failed (t : Nat) : Fld := ⟨(KVW_STATUS t), 1, 1⟩
abbrev KVW_STATUS_serving (t : Nat) : Fld := ⟨(KVW_STATUS t), 15, 8⟩
/-- KVW_ERR (Table 8.14, 08_sequence_serving_and_kv_cache.md). -/
abbrev KVW_ERR (t : Nat) : Nat := dieBlk t 0xA + 0x8
abbrev KVW_ERR_code (t : Nat) : Fld := ⟨(KVW_ERR t), 5, 0⟩
abbrev KVW_ERR_slot (t : Nat) : Fld := ⟨(KVW_ERR t), 10, 8⟩
abbrev KVW_ERR_seq (t : Nat) : Fld := ⟨(KVW_ERR t), 27, 16⟩
abbrev KVW_ERR_epoch (t : Nat) : Fld := ⟨(KVW_ERR t), 62, 32⟩
abbrev KVW_ERR_valid (t : Nat) : Fld := ⟨(KVW_ERR t), 63, 63⟩
/-- KVW_EPOCH (Table 8.15, 08_sequence_serving_and_kv_cache.md). -/
abbrev KVW_EPOCH (t : Nat) (i : Nat) : Nat := dieBlk t 0xA + 0x100 + i * 0x40
abbrev KVW_EPOCH_next (t : Nat) (i : Nat) : Fld := ⟨(KVW_EPOCH t i), 63, 0⟩
/-- KVW_FLOOR (Table 8.15, 08_sequence_serving_and_kv_cache.md). -/
abbrev KVW_FLOOR (t : Nat) (i : Nat) : Nat := dieBlk t 0xA + 0x108 + i * 0x40
abbrev KVW_FLOOR_floor (t : Nat) (i : Nat) : Fld := ⟨(KVW_FLOOR t i), 63, 0⟩
/-- KVW_NEAR (Table 8.15, 08_sequence_serving_and_kv_cache.md). -/
abbrev KVW_NEAR (t : Nat) (i : Nat) : Nat := dieBlk t 0xA + 0x110 + i * 0x40
abbrev KVW_NEAR_in_use (t : Nat) (i : Nat) : Fld := ⟨(KVW_NEAR t i), 31, 0⟩
abbrev KVW_NEAR_frames (t : Nat) (i : Nat) : Fld := ⟨(KVW_NEAR t i), 63, 32⟩
/-- KVW_BULK (Table 8.15, 08_sequence_serving_and_kv_cache.md). -/
abbrev KVW_BULK (t : Nat) (i : Nat) : Nat := dieBlk t 0xA + 0x118 + i * 0x40
abbrev KVW_BULK_in_use (t : Nat) (i : Nat) : Fld := ⟨(KVW_BULK t i), 31, 0⟩
abbrev KVW_BULK_frames (t : Nat) (i : Nat) : Fld := ⟨(KVW_BULK t i), 63, 32⟩
/-- KVW_SEQ (Table 8.15, 08_sequence_serving_and_kv_cache.md). -/
abbrev KVW_SEQ (t : Nat) (i : Nat) : Nat := dieBlk t 0xA + 0x120 + i * 0x40
abbrev KVW_SEQ_active (t : Nat) (i : Nat) : Fld := ⟨(KVW_SEQ t i), 12, 0⟩
abbrev KVW_SEQ_in_flight (t : Nat) (i : Nat) : Fld := ⟨(KVW_SEQ t i), 18, 16⟩
/-- KVW_CNT_DEFER (Table 8.15, 08_sequence_serving_and_kv_cache.md). -/
abbrev KVW_CNT_DEFER (t : Nat) (i : Nat) : Nat := dieBlk t 0xA + 0x124 + i * 0x40
abbrev KVW_CNT_DEFER_count (t : Nat) (i : Nat) : Fld := ⟨(KVW_CNT_DEFER t i), 31, 0⟩
/-- KVW_CNT_COW (Table 8.15, 08_sequence_serving_and_kv_cache.md). -/
abbrev KVW_CNT_COW (t : Nat) (i : Nat) : Nat := dieBlk t 0xA + 0x128 + i * 0x40
abbrev KVW_CNT_COW_count (t : Nat) (i : Nat) : Fld := ⟨(KVW_CNT_COW t i), 31, 0⟩
/-- KVW_CNT_SPILL (Table 8.15, 08_sequence_serving_and_kv_cache.md). -/
abbrev KVW_CNT_SPILL (t : Nat) (i : Nat) : Nat := dieBlk t 0xA + 0x12C + i * 0x40
abbrev KVW_CNT_SPILL_pages (t : Nat) (i : Nat) : Fld := ⟨(KVW_CNT_SPILL t i), 31, 0⟩
/-- KVW_CNT_PREFETCH (Table 8.15, 08_sequence_serving_and_kv_cache.md). -/
abbrev KVW_CNT_PREFETCH (t : Nat) (i : Nat) : Nat := dieBlk t 0xA + 0x130 + i * 0x40
abbrev KVW_CNT_PREFETCH_pages (t : Nat) (i : Nat) : Fld := ⟨(KVW_CNT_PREFETCH t i), 31, 0⟩
/-- KVW_CNT_TB_MISS (Table 8.15, 08_sequence_serving_and_kv_cache.md). -/
abbrev KVW_CNT_TB_MISS (t : Nat) (i : Nat) : Nat := dieBlk t 0xA + 0x134 + i * 0x40
abbrev KVW_CNT_TB_MISS_count (t : Nat) (i : Nat) : Fld := ⟨(KVW_CNT_TB_MISS t i), 31, 0⟩
/-- KVW_RING (Table 8.16, 08_sequence_serving_and_kv_cache.md). -/
abbrev KVW_RING (i : Nat) : Nat := hubBlk 0xA + 0x100 + i * 0x8
abbrev KVW_RING_req_tail (i : Nat) : Fld := ⟨(KVW_RING i), 15, 0⟩
abbrev KVW_RING_req_head (i : Nat) : Fld := ⟨(KVW_RING i), 31, 16⟩
abbrev KVW_RING_comp_tail (i : Nat) : Fld := ⟨(KVW_RING i), 47, 32⟩
abbrev KVW_RING_comp_head (i : Nat) : Fld := ⟨(KVW_RING i), 63, 48⟩
/-- KVW_CNT_REFUSE (Table 8.17, 08_sequence_serving_and_kv_cache.md). -/
abbrev KVW_CNT_REFUSE : Nat := hubBlk 0xA + 0x0
abbrev KVW_CNT_REFUSE_count : Fld := ⟨KVW_CNT_REFUSE, 31, 0⟩
/-- ING_DT_NOW (Table 9.9, 09_sensor_ingest_and_time.md). -/
abbrev ING_DT_NOW : Nat := hubBlk 0xB + 0x0
abbrev ING_DT_NOW_now : Fld := ⟨ING_DT_NOW, 63, 0⟩
/-- ING_DT_CTRL (Table 9.10, 09_sensor_ingest_and_time.md). -/
abbrev ING_DT_CTRL : Nat := hubBlk 0xB + 0x8
abbrev ING_DT_CTRL_ptp_en : Fld := ⟨ING_DT_CTRL, 0, 0⟩
abbrev ING_DT_CTRL_step_en : Fld := ⟨ING_DT_CTRL, 1, 1⟩
abbrev ING_DT_CTRL_gm_capable : Fld := ⟨ING_DT_CTRL, 2, 2⟩
abbrev ING_DT_CTRL_ext_port : Fld := ⟨ING_DT_CTRL, 3, 3⟩
abbrev ING_DT_CTRL_port : Fld := ⟨ING_DT_CTRL, 6, 4⟩
abbrev ING_DT_CTRL_domain : Fld := ⟨ING_DT_CTRL, 15, 8⟩
abbrev ING_DT_CTRL_priority1 : Fld := ⟨ING_DT_CTRL, 23, 16⟩
abbrev ING_DT_CTRL_sync_lg : Fld := ⟨ING_DT_CTRL, 27, 24⟩
/-- ING_DT_STATUS (Table 9.11, 09_sensor_ingest_and_time.md). -/
abbrev ING_DT_STATUS : Nat := hubBlk 0xB + 0x10
abbrev ING_DT_STATUS_state : Fld := ⟨ING_DT_STATUS, 1, 0⟩
abbrev ING_DT_STATUS_stepped : Fld := ⟨ING_DT_STATUS, 2, 2⟩
abbrev ING_DT_STATUS_rate_limit : Fld := ⟨ING_DT_STATUS, 3, 3⟩
abbrev ING_DT_STATUS_is_gm : Fld := ⟨ING_DT_STATUS, 4, 4⟩
abbrev ING_DT_STATUS_gm_changes : Fld := ⟨ING_DT_STATUS, 15, 8⟩
abbrev ING_DT_STATUS_rate_ppb : Fld := ⟨ING_DT_STATUS, 63, 32⟩
/-- ING_DT_OFFSET (Table 9.12, 09_sensor_ingest_and_time.md). -/
abbrev ING_DT_OFFSET : Nat := hubBlk 0xB + 0x18
abbrev ING_DT_OFFSET_target : Fld := ⟨ING_DT_OFFSET, 63, 0⟩
/-- ING_DT_ERR (Table 9.12, 09_sensor_ingest_and_time.md). -/
abbrev ING_DT_ERR : Nat := hubBlk 0xB + 0x20
abbrev ING_DT_ERR_phase_err : Fld := ⟨ING_DT_ERR, 31, 0⟩
abbrev ING_DT_ERR_path_delay : Fld := ⟨ING_DT_ERR, 63, 32⟩
/-- ING_GM_ID (Table 9.12, 09_sensor_ingest_and_time.md). -/
abbrev ING_GM_ID : Nat := hubBlk 0xB + 0x28
abbrev ING_GM_ID_clock_id : Fld := ⟨ING_GM_ID, 63, 0⟩
/-- ING_PTP_LAT (Table 9.12, 09_sensor_ingest_and_time.md). -/
abbrev ING_PTP_LAT : Nat := hubBlk 0xB + 0x30
abbrev ING_PTP_LAT_rx_lat : Fld := ⟨ING_PTP_LAT, 15, 0⟩
abbrev ING_PTP_LAT_tx_lat : Fld := ⟨ING_PTP_LAT, 31, 16⟩
/-- ING_CTRL (Table 9.12, 09_sensor_ingest_and_time.md). -/
abbrev ING_CTRL : Nat := hubBlk 0xB + 0x38
abbrev ING_CTRL_pick_lag_us : Fld := ⟨ING_CTRL, 15, 0⟩
/-- ING_SET_BASE (Table 9.12, 09_sensor_ingest_and_time.md). -/
abbrev ING_SET_BASE : Nat := hubBlk 0xB + 0x40
abbrev ING_SET_BASE_base : Fld := ⟨ING_SET_BASE, 47, 0⟩
/-- ING_CNT_TIME_CORR (Table 9.12, 09_sensor_ingest_and_time.md). -/
abbrev ING_CNT_TIME_CORR : Nat := hubBlk 0xB + 0x48
abbrev ING_CNT_TIME_CORR_count : Fld := ⟨ING_CNT_TIME_CORR, 31, 0⟩
/-- ING_CNT_TRIG_SKIP (Table 9.12, 09_sensor_ingest_and_time.md). -/
abbrev ING_CNT_TRIG_SKIP : Nat := hubBlk 0xB + 0x4C
abbrev ING_CNT_TRIG_SKIP_count : Fld := ⟨ING_CNT_TRIG_SKIP, 31, 0⟩
/-- ING_ERR (Table 9.13, 09_sensor_ingest_and_time.md). -/
abbrev ING_ERR : Nat := hubBlk 0xB + 0x50
abbrev ING_ERR_sensor : Fld := ⟨ING_ERR, 5, 0⟩
abbrev ING_ERR_trig : Fld := ⟨ING_ERR, 6, 6⟩
abbrev ING_ERR_set_base : Fld := ⟨ING_ERR, 7, 7⟩
abbrev ING_ERR_valid : Fld := ⟨ING_ERR, 63, 63⟩
/-- ING_TRIG0 (Table 9.14, 09_sensor_ingest_and_time.md). -/
abbrev ING_TRIG0 (i : Nat) : Nat := hubBlk 0xB + 0x100 + i * 0x10
abbrev ING_TRIG0_period_ns (i : Nat) : Fld := ⟨(ING_TRIG0 i), 31, 0⟩
abbrev ING_TRIG0_phase_ns (i : Nat) : Fld := ⟨(ING_TRIG0 i), 63, 32⟩
/-- ING_TRIG8 (Table 9.14, 09_sensor_ingest_and_time.md). -/
abbrev ING_TRIG8 (i : Nat) : Nat := hubBlk 0xB + 0x108 + i * 0x10
abbrev ING_TRIG8_width_us (i : Nat) : Fld := ⟨(ING_TRIG8 i), 15, 0⟩
abbrev ING_TRIG8_en (i : Nat) : Fld := ⟨(ING_TRIG8 i), 16, 16⟩
abbrev ING_TRIG8_active_low (i : Nat) : Fld := ⟨(ING_TRIG8 i), 17, 17⟩
abbrev ING_TRIG8_count (i : Nat) : Fld := ⟨(ING_TRIG8 i), 63, 32⟩
/-- ING_SENSOR00 (Table 9.15, 09_sensor_ingest_and_time.md). -/
abbrev ING_SENSOR00 (i : Nat) : Nat := hubBlk 0xB + 0x1000 + i * 0x20
abbrev ING_SENSOR00_en (i : Nat) : Fld := ⟨(ING_SENSOR00 i), 0, 0⟩
abbrev ING_SENSOR00_src (i : Nat) : Fld := ⟨(ING_SENSOR00 i), 1, 1⟩
abbrev ING_SENSOR00_port (i : Nat) : Fld := ⟨(ING_SENSOR00 i), 5, 2⟩
abbrev ING_SENSOR00_vc (i : Nat) : Fld := ⟨(ING_SENSOR00 i), 9, 6⟩
abbrev ING_SENSOR00_policy (i : Nat) : Fld := ⟨(ING_SENSOR00 i), 11, 10⟩
abbrev ING_SENSOR00_sync_mode (i : Nat) : Fld := ⟨(ING_SENSOR00 i), 13, 12⟩
abbrev ING_SENSOR00_trig (i : Nat) : Fld := ⟨(ING_SENSOR00 i), 17, 14⟩
abbrev ING_SENSOR00_emb_en (i : Nat) : Fld := ⟨(ING_SENSOR00 i), 18, 18⟩
abbrev ING_SENSOR00_age_ms (i : Nat) : Fld := ⟨(ING_SENSOR00 i), 31, 24⟩
abbrev ING_SENSOR00_period_ns (i : Nat) : Fld := ⟨(ING_SENSOR00 i), 63, 32⟩
/-- ING_SENSOR08 (Table 9.15, 09_sensor_ingest_and_time.md). -/
abbrev ING_SENSOR08 (i : Nat) : Nat := hubBlk 0xB + 0x1008 + i * 0x20
abbrev ING_SENSOR08_dt (i : Nat) : Fld := ⟨(ING_SENSOR08 i), 5, 0⟩
abbrev ING_SENSOR08_lat_us (i : Nat) : Fld := ⟨(ING_SENSOR08 i), 23, 8⟩
abbrev ING_SENSOR08_emb_time_off (i : Nat) : Fld := ⟨(ING_SENSOR08 i), 39, 24⟩
abbrev ING_SENSOR08_emb_cnt_off (i : Nat) : Fld := ⟨(ING_SENSOR08 i), 55, 40⟩
/-- ING_SENSOR10 (Table 9.15, 09_sensor_ingest_and_time.md). -/
abbrev ING_SENSOR10 (i : Nat) : Nat := hubBlk 0xB + 0x1010 + i * 0x20
abbrev ING_SENSOR10_tick_ps (i : Nat) : Fld := ⟨(ING_SENSOR10 i), 31, 0⟩
abbrev ING_SENSOR10_vlan (i : Nat) : Fld := ⟨(ING_SENSOR10 i), 43, 32⟩
abbrev ING_SENSOR10_udp_port (i : Nat) : Fld := ⟨(ING_SENSOR10 i), 63, 48⟩
/-- ING_SENSOR18 (Table 9.15, 09_sensor_ingest_and_time.md). -/
abbrev ING_SENSOR18 (i : Nat) : Nat := hubBlk 0xB + 0x1018 + i * 0x20
abbrev ING_SENSOR18_ethertype (i : Nat) : Fld := ⟨(ING_SENSOR18 i), 15, 0⟩
abbrev ING_SENSOR18_sof_off (i : Nat) : Fld := ⟨(ING_SENSOR18 i), 31, 16⟩
abbrev ING_SENSOR18_sof_bit (i : Nat) : Fld := ⟨(ING_SENSOR18 i), 34, 32⟩
/-- ING_STAT0 (Table 9.16, 09_sensor_ingest_and_time.md). -/
abbrev ING_STAT0 (i : Nat) : Nat := hubBlk 0xB + 0x2000 + i * 0x10
abbrev ING_STAT0_state (i : Nat) : Fld := ⟨(ING_STAT0 i), 2, 0⟩
abbrev ING_STAT0_agree (i : Nat) : Fld := ⟨(ING_STAT0 i), 8, 3⟩
abbrev ING_STAT0_counter (i : Nat) : Fld := ⟨(ING_STAT0 i), 31, 16⟩
abbrev ING_STAT0_d_ns (i : Nat) : Fld := ⟨(ING_STAT0 i), 63, 32⟩
/-- ING_STAT8 (Table 9.16, 09_sensor_ingest_and_time.md). -/
abbrev ING_STAT8 (i : Nat) : Nat := hubBlk 0xB + 0x2008 + i * 0x10
abbrev ING_STAT8_capture (i : Nat) : Fld := ⟨(ING_STAT8 i), 63, 0⟩
/-- ING_CNT_FRAMES (Table 9.17, 09_sensor_ingest_and_time.md). -/
abbrev ING_CNT_FRAMES (i : Nat) : Nat := hubBlk 0xB + 0x3000 + i * 0x20
abbrev ING_CNT_FRAMES_count (i : Nat) : Fld := ⟨(ING_CNT_FRAMES i), 31, 0⟩
/-- ING_CNT_STALE (Table 9.17, 09_sensor_ingest_and_time.md). -/
abbrev ING_CNT_STALE (i : Nat) : Nat := hubBlk 0xB + 0x3004 + i * 0x20
abbrev ING_CNT_STALE_count (i : Nat) : Fld := ⟨(ING_CNT_STALE i), 31, 0⟩
/-- ING_CNT_CORRUPT (Table 9.17, 09_sensor_ingest_and_time.md). -/
abbrev ING_CNT_CORRUPT (i : Nat) : Nat := hubBlk 0xB + 0x3008 + i * 0x20
abbrev ING_CNT_CORRUPT_count (i : Nat) : Fld := ⟨(ING_CNT_CORRUPT i), 31, 0⟩
/-- ING_CNT_GAP (Table 9.17, 09_sensor_ingest_and_time.md). -/
abbrev ING_CNT_GAP (i : Nat) : Nat := hubBlk 0xB + 0x300C + i * 0x20
abbrev ING_CNT_GAP_count (i : Nat) : Fld := ⟨(ING_CNT_GAP i), 31, 0⟩
/-- ING_CNT_DESYNC (Table 9.17, 09_sensor_ingest_and_time.md). -/
abbrev ING_CNT_DESYNC (i : Nat) : Nat := hubBlk 0xB + 0x3010 + i * 0x20
abbrev ING_CNT_DESYNC_count (i : Nat) : Fld := ⟨(ING_CNT_DESYNC i), 31, 0⟩
/-- ING_CNT_EXCL (Table 9.17, 09_sensor_ingest_and_time.md). -/
abbrev ING_CNT_EXCL (i : Nat) : Nat := hubBlk 0xB + 0x3014 + i * 0x20
abbrev ING_CNT_EXCL_count (i : Nat) : Fld := ⟨(ING_CNT_EXCL i), 31, 0⟩
/-- ING_CNT_ECC (Table 9.17, 09_sensor_ingest_and_time.md). -/
abbrev ING_CNT_ECC (i : Nat) : Nat := hubBlk 0xB + 0x3018 + i * 0x20
abbrev ING_CNT_ECC_count (i : Nat) : Fld := ⟨(ING_CNT_ECC i), 31, 0⟩
/-- PRE_LOAD (Table 10.7, 10_preprocessing_decode_and_samples.md). -/
abbrev PRE_LOAD : Nat := hubBlk 0xC + 0x0
abbrev PRE_LOAD_live_mpix : Fld := ⟨PRE_LOAD, 15, 0⟩
abbrev PRE_LOAD_over : Fld := ⟨PRE_LOAD, 16, 16⟩
/-- PRE_ERR (Table 10.7, 10_preprocessing_decode_and_samples.md). -/
abbrev PRE_ERR : Nat := hubBlk 0xC + 0x8
abbrev PRE_ERR_code : Fld := ⟨PRE_ERR, 5, 0⟩
abbrev PRE_ERR_decoded : Fld := ⟨PRE_ERR, 6, 6⟩
abbrev PRE_ERR_id : Fld := ⟨PRE_ERR, 12, 7⟩
abbrev PRE_ERR_view : Fld := ⟨PRE_ERR, 15, 13⟩
abbrev PRE_ERR_valid : Fld := ⟨PRE_ERR, 63, 63⟩
/-- PRE_CNT_LIVE (Table 10.7, 10_preprocessing_decode_and_samples.md). -/
abbrev PRE_CNT_LIVE : Nat := hubBlk 0xC + 0x10
abbrev PRE_CNT_LIVE_count : Fld := ⟨PRE_CNT_LIVE, 63, 0⟩
/-- PRE_CNT_DEC (Table 10.7, 10_preprocessing_decode_and_samples.md). -/
abbrev PRE_CNT_DEC : Nat := hubBlk 0xC + 0x18
abbrev PRE_CNT_DEC_count : Fld := ⟨PRE_CNT_DEC, 63, 0⟩
/-- PRE_CNT_SAT (Table 10.7, 10_preprocessing_decode_and_samples.md). -/
abbrev PRE_CNT_SAT : Nat := hubBlk 0xC + 0x20
abbrev PRE_CNT_SAT_count : Fld := ⟨PRE_CNT_SAT, 31, 0⟩
/-- PRE_CNT_WITHHELD (Table 10.7, 10_preprocessing_decode_and_samples.md). -/
abbrev PRE_CNT_WITHHELD : Nat := hubBlk 0xC + 0x24
abbrev PRE_CNT_WITHHELD_count : Fld := ⟨PRE_CNT_WITHHELD, 31, 0⟩
/-- PRE_SENSOR0 (Table 10.7, 10_preprocessing_decode_and_samples.md). -/
abbrev PRE_SENSOR0 (i : Nat) : Nat := hubBlk 0xC + 0x1000 + i * 0x10
abbrev PRE_SENSOR0_profile (i : Nat) : Fld := ⟨(PRE_SENSOR0 i), 4, 0⟩
abbrev PRE_SENSOR0_nbuf (i : Nat) : Fld := ⟨(PRE_SENSOR0 i), 11, 8⟩
abbrev PRE_SENSOR0_buf_stride (i : Nat) : Fld := ⟨(PRE_SENSOR0 i), 63, 32⟩
/-- PRE_SENSOR8 (Table 10.7, 10_preprocessing_decode_and_samples.md). -/
abbrev PRE_SENSOR8 (i : Nat) : Nat := hubBlk 0xC + 0x1008 + i * 0x10
abbrev PRE_SENSOR8_out_base (i : Nat) : Fld := ⟨(PRE_SENSOR8 i), 47, 0⟩
/-- PRE_CNT_DROP (Table 10.7, 10_preprocessing_decode_and_samples.md). -/
abbrev PRE_CNT_DROP (i : Nat) : Nat := hubBlk 0xC + 0x2000 + i * 0x4
abbrev PRE_CNT_DROP_count (i : Nat) : Fld := ⟨(PRE_CNT_DROP i), 31, 0⟩
/-- PRE_PROFILE (Table 10.7, 10_preprocessing_decode_and_samples.md). -/
abbrev PRE_PROFILE (i j : Nat) : Nat := hubBlk 0xC + 0x4000 + i * 0x100 + j * 0x8
/-- PRE_LUT (Table 10.7, 10_preprocessing_decode_and_samples.md). -/
abbrev PRE_LUT (i j k : Nat) : Nat := hubBlk 0xC + 0x8000 + i * 0x1800 + j * 0x800 + k * 0x8
/-- DEC_CTRL (Table 10.8, 10_preprocessing_decode_and_samples.md). -/
abbrev DEC_CTRL : Nat := hubBlk 0xD + 0x0
abbrev DEC_CTRL_core_en : Fld := ⟨DEC_CTRL, 15, 0⟩
/-- DEC_WORK (Table 10.8, 10_preprocessing_decode_and_samples.md). -/
abbrev DEC_WORK : Nat := hubBlk 0xD + 0x8
abbrev DEC_WORK_base : Fld := ⟨DEC_WORK, 47, 0⟩
abbrev DEC_WORK_mib : Fld := ⟨DEC_WORK, 59, 48⟩
/-- DEC_CNT_PICS (Table 10.8, 10_preprocessing_decode_and_samples.md). -/
abbrev DEC_CNT_PICS : Nat := hubBlk 0xD + 0x10
abbrev DEC_CNT_PICS_count : Fld := ⟨DEC_CNT_PICS, 63, 0⟩
/-- DEC_CNT_CORRUPT (Table 10.8, 10_preprocessing_decode_and_samples.md). -/
abbrev DEC_CNT_CORRUPT : Nat := hubBlk 0xD + 0x18
abbrev DEC_CNT_CORRUPT_count : Fld := ⟨DEC_CNT_CORRUPT, 31, 0⟩
/-- DEC_CNT_ABANDON (Table 10.8, 10_preprocessing_decode_and_samples.md). -/
abbrev DEC_CNT_ABANDON : Nat := hubBlk 0xD + 0x1C
abbrev DEC_CNT_ABANDON_count : Fld := ⟨DEC_CNT_ABANDON, 31, 0⟩
/-- DEC_CNT_HOLD_US (Table 10.8, 10_preprocessing_decode_and_samples.md). -/
abbrev DEC_CNT_HOLD_US : Nat := hubBlk 0xD + 0x20
abbrev DEC_CNT_HOLD_US_us : Fld := ⟨DEC_CNT_HOLD_US, 31, 0⟩
/-- DEC_ERR (Table 10.8, 10_preprocessing_decode_and_samples.md). -/
abbrev DEC_ERR : Nat := hubBlk 0xD + 0x28
abbrev DEC_ERR_code : Fld := ⟨DEC_ERR, 5, 0⟩
abbrev DEC_ERR_stream : Fld := ⟨DEC_ERR, 9, 6⟩
abbrev DEC_ERR_view : Fld := ⟨DEC_ERR, 12, 10⟩
abbrev DEC_ERR_core : Fld := ⟨DEC_ERR, 19, 16⟩
abbrev DEC_ERR_reason : Fld := ⟨DEC_ERR, 23, 20⟩
abbrev DEC_ERR_valid : Fld := ⟨DEC_ERR, 63, 63⟩
/-- DEC_CORE (Table 10.8, 10_preprocessing_decode_and_samples.md). -/
abbrev DEC_CORE (i : Nat) : Nat := hubBlk 0xD + 0x100 + i * 0x8
abbrev DEC_CORE_state (i : Nat) : Fld := ⟨(DEC_CORE i), 1, 0⟩
abbrev DEC_CORE_stream (i : Nat) : Fld := ⟨(DEC_CORE i), 5, 2⟩
abbrev DEC_CORE_view (i : Nat) : Fld := ⟨(DEC_CORE i), 8, 6⟩
abbrev DEC_CORE_position (i : Nat) : Fld := ⟨(DEC_CORE i), 55, 16⟩
/-- SMPL_ERR (Table 10.9, 10_preprocessing_decode_and_samples.md). -/
abbrev SMPL_ERR : Nat := hubBlk 0xE + 0x0
abbrev SMPL_ERR_code : Fld := ⟨SMPL_ERR, 5, 0⟩
abbrev SMPL_ERR_stream : Fld := ⟨SMPL_ERR, 9, 6⟩
abbrev SMPL_ERR_position : Fld := ⟨SMPL_ERR, 49, 10⟩
abbrev SMPL_ERR_valid : Fld := ⟨SMPL_ERR, 63, 63⟩
/-- SMPL_CFG (Table 10.9, 10_preprocessing_decode_and_samples.md). -/
abbrev SMPL_CFG (i : Nat) : Nat := hubBlk 0xE + 0x1000 + i * 0x100
abbrev SMPL_CFG_en (i : Nat) : Fld := ⟨(SMPL_CFG i), 0, 0⟩
abbrev SMPL_CFG_part_last (i : Nat) : Fld := ⟨(SMPL_CFG i), 1, 1⟩
abbrev SMPL_CFG_auto_epoch (i : Nat) : Fld := ⟨(SMPL_CFG i), 2, 2⟩
abbrev SMPL_CFG_views_m1 (i : Nat) : Fld := ⟨(SMPL_CFG i), 5, 3⟩
abbrev SMPL_CFG_b_m1 (i : Nat) : Fld := ⟨(SMPL_CFG i), 19, 8⟩
abbrev SMPL_CFG_nbatch_m1 (i : Nat) : Fld := ⟨(SMPL_CFG i), 23, 20⟩
abbrev SMPL_CFG_nslots (i : Nat) : Fld := ⟨(SMPL_CFG i), 31, 24⟩
abbrev SMPL_CFG_start_epoch (i : Nat) : Fld := ⟨(SMPL_CFG i), 63, 32⟩
/-- SMPL_N (Table 10.9, 10_preprocessing_decode_and_samples.md). -/
abbrev SMPL_N (i : Nat) : Nat := hubBlk 0xE + 0x1008 + i * 0x100
abbrev SMPL_N_n (i : Nat) : Fld := ⟨(SMPL_N i), 40, 0⟩
/-- SMPL_SEED (Table 10.9, 10_preprocessing_decode_and_samples.md). -/
abbrev SMPL_SEED (i : Nat) : Nat := hubBlk 0xE + 0x1010 + i * 0x100
abbrev SMPL_SEED_seed (i : Nat) : Fld := ⟨(SMPL_SEED i), 63, 0⟩
/-- SMPL_FETCH_BASE (Table 10.9, 10_preprocessing_decode_and_samples.md). -/
abbrev SMPL_FETCH_BASE (i : Nat) : Nat := hubBlk 0xE + 0x1018 + i * 0x100
abbrev SMPL_FETCH_BASE_base (i : Nat) : Fld := ⟨(SMPL_FETCH_BASE i), 47, 0⟩
abbrev SMPL_FETCH_BASE_lg (i : Nat) : Fld := ⟨(SMPL_FETCH_BASE i), 51, 48⟩
/-- SMPL_STAGE (Table 10.9, 10_preprocessing_decode_and_samples.md). -/
abbrev SMPL_STAGE (i : Nat) : Nat := hubBlk 0xE + 0x1020 + i * 0x100
abbrev SMPL_STAGE_base (i : Nat) : Fld := ⟨(SMPL_STAGE i), 47, 0⟩
abbrev SMPL_STAGE_slot_kib (i : Nat) : Fld := ⟨(SMPL_STAGE i), 63, 48⟩
/-- SMPL_BATCH_BASE (Table 10.9, 10_preprocessing_decode_and_samples.md). -/
abbrev SMPL_BATCH_BASE (i : Nat) : Nat := hubBlk 0xE + 0x1028 + i * 0x100
abbrev SMPL_BATCH_BASE_base (i : Nat) : Fld := ⟨(SMPL_BATCH_BASE i), 47, 0⟩
/-- SMPL_STRIDE (Table 10.9, 10_preprocessing_decode_and_samples.md). -/
abbrev SMPL_STRIDE (i : Nat) : Nat := hubBlk 0xE + 0x1030 + i * 0x100
abbrev SMPL_STRIDE_batch_stride (i : Nat) : Fld := ⟨(SMPL_STRIDE i), 31, 0⟩
abbrev SMPL_STRIDE_view_stride (i : Nat) : Fld := ⟨(SMPL_STRIDE i), 63, 32⟩
/-- SMPL_VIEW (Table 10.9, 10_preprocessing_decode_and_samples.md). -/
abbrev SMPL_VIEW (i j : Nat) : Nat := hubBlk 0xE + 0x1040 + i * 0x100 + j * 0x8
abbrev SMPL_VIEW_profile (i j : Nat) : Fld := ⟨(SMPL_VIEW i j), 4, 0⟩
abbrev SMPL_VIEW_codec (i j : Nat) : Fld := ⟨(SMPL_VIEW i j), 5, 5⟩
abbrev SMPL_VIEW_ceil_us (i j : Nat) : Fld := ⟨(SMPL_VIEW i j), 63, 32⟩
/-- SMPL_POS (Table 10.9, 10_preprocessing_decode_and_samples.md). -/
abbrev SMPL_POS (i : Nat) : Nat := hubBlk 0xE + 0x1080 + i * 0x100
abbrev SMPL_POS_f (i : Nat) : Fld := ⟨(SMPL_POS i), 40, 0⟩
/-- SMPL_RSV (Table 10.9, 10_preprocessing_decode_and_samples.md). -/
abbrev SMPL_RSV (i : Nat) : Nat := hubBlk 0xE + 0x1088 + i * 0x100
abbrev SMPL_RSV_r_next (i : Nat) : Fld := ⟨(SMPL_RSV i), 40, 0⟩
/-- SMPL_STATE (Table 10.9, 10_preprocessing_decode_and_samples.md). -/
abbrev SMPL_STATE (i : Nat) : Nat := hubBlk 0xE + 0x1090 + i * 0x100
abbrev SMPL_STATE_epoch (i : Nat) : Fld := ⟨(SMPL_STATE i), 31, 0⟩
abbrev SMPL_STATE_batch (i : Nat) : Fld := ⟨(SMPL_STATE i), 63, 32⟩
/-- SMPL_FETCH (Table 10.9, 10_preprocessing_decode_and_samples.md). -/
abbrev SMPL_FETCH (i : Nat) : Nat := hubBlk 0xE + 0x1098 + i * 0x100
abbrev SMPL_FETCH_issued (i : Nat) : Fld := ⟨(SMPL_FETCH i), 15, 0⟩
abbrev SMPL_FETCH_done (i : Nat) : Fld := ⟨(SMPL_FETCH i), 31, 16⟩
abbrev SMPL_FETCH_batch_ready (i : Nat) : Fld := ⟨(SMPL_FETCH i), 47, 32⟩
abbrev SMPL_FETCH_batch_done (i : Nat) : Fld := ⟨(SMPL_FETCH i), 63, 48⟩
/-- SMPL_CNT_CORRUPT (Table 10.9, 10_preprocessing_decode_and_samples.md). -/
abbrev SMPL_CNT_CORRUPT (i : Nat) : Nat := hubBlk 0xE + 0x10A0 + i * 0x100
abbrev SMPL_CNT_CORRUPT_count (i : Nat) : Fld := ⟨(SMPL_CNT_CORRUPT i), 31, 0⟩
/-- SMPL_CNT_OVER (Table 10.9, 10_preprocessing_decode_and_samples.md). -/
abbrev SMPL_CNT_OVER (i : Nat) : Nat := hubBlk 0xE + 0x10A4 + i * 0x100
abbrev SMPL_CNT_OVER_count (i : Nat) : Fld := ⟨(SMPL_CNT_OVER i), 31, 0⟩
/-- SMPL_CNT_REPLACED (Table 10.9, 10_preprocessing_decode_and_samples.md). -/
abbrev SMPL_CNT_REPLACED (i : Nat) : Nat := hubBlk 0xE + 0x10A8 + i * 0x100
abbrev SMPL_CNT_REPLACED_count (i : Nat) : Fld := ⟨(SMPL_CNT_REPLACED i), 31, 0⟩
/-- SMPL_CNT_EMPTY (Table 10.9, 10_preprocessing_decode_and_samples.md). -/
abbrev SMPL_CNT_EMPTY (i : Nat) : Nat := hubBlk 0xE + 0x10AC + i * 0x100
abbrev SMPL_CNT_EMPTY_count (i : Nat) : Fld := ⟨(SMPL_CNT_EMPTY i), 31, 0⟩
/-- SMPL_CNT_WAIT_US (Table 10.9, 10_preprocessing_decode_and_samples.md). -/
abbrev SMPL_CNT_WAIT_US (i : Nat) : Nat := hubBlk 0xE + 0x10B0 + i * 0x100
abbrev SMPL_CNT_WAIT_US_us (i : Nat) : Fld := ⟨(SMPL_CNT_WAIT_US i), 31, 0⟩
/-- SMPL_MEAN (Table 10.9, 10_preprocessing_decode_and_samples.md). -/
abbrev SMPL_MEAN (i j : Nat) : Nat := hubBlk 0xE + 0x10C0 + i * 0x100 + j * 0x4
abbrev SMPL_MEAN_mean_us (i j : Nat) : Fld := ⟨(SMPL_MEAN i j), 26, 0⟩
abbrev SMPL_MEAN_n_done (i j : Nat) : Fld := ⟨(SMPL_MEAN i j), 31, 27⟩
/-- FUS_CTRL (Table 11.10, 11_grid_fusion_and_tracks.md). -/
abbrev FUS_CTRL : Nat := hubBlk 0xF + 0x0
abbrev FUS_CTRL_instant_us : Fld := ⟨FUS_CTRL, 17, 0⟩
/-- FUS_INSTANT (Table 11.10, 11_grid_fusion_and_tracks.md). -/
abbrev FUS_INSTANT : Nat := hubBlk 0xF + 0x8
abbrev FUS_INSTANT_instant : Fld := ⟨FUS_INSTANT, 63, 0⟩
/-- FUS_CAL_CTRL (Table 11.10, 11_grid_fusion_and_tracks.md). -/
abbrev FUS_CAL_CTRL : Nat := hubBlk 0xF + 0x10
abbrev FUS_CAL_CTRL_swap : Fld := ⟨FUS_CAL_CTRL, 0, 0⟩
/-- FUS_CAL_STATUS (Table 11.10, 11_grid_fusion_and_tracks.md). -/
abbrev FUS_CAL_STATUS : Nat := hubBlk 0xF + 0x14
abbrev FUS_CAL_STATUS_bank : Fld := ⟨FUS_CAL_STATUS, 0, 0⟩
abbrev FUS_CAL_STATUS_held : Fld := ⟨FUS_CAL_STATUS, 1, 1⟩
abbrev FUS_CAL_STATUS_swap_pending : Fld := ⟨FUS_CAL_STATUS, 2, 2⟩
/-- FUS_ERR (Table 11.10, 11_grid_fusion_and_tracks.md). -/
abbrev FUS_ERR : Nat := hubBlk 0xF + 0x18
abbrev FUS_ERR_code : Fld := ⟨FUS_ERR, 5, 0⟩
abbrev FUS_ERR_sensor : Fld := ⟨FUS_ERR, 11, 6⟩
abbrev FUS_ERR_valid : Fld := ⟨FUS_ERR, 63, 63⟩
/-- FUS_CNT_SWITCH (Table 11.10, 11_grid_fusion_and_tracks.md). -/
abbrev FUS_CNT_SWITCH : Nat := hubBlk 0xF + 0x20
abbrev FUS_CNT_SWITCH_count : Fld := ⟨FUS_CNT_SWITCH, 31, 0⟩
/-- FUS_CNT_REFUSED (Table 11.10, 11_grid_fusion_and_tracks.md). -/
abbrev FUS_CNT_REFUSED : Nat := hubBlk 0xF + 0x24
abbrev FUS_CNT_REFUSED_count : Fld := ⟨FUS_CNT_REFUSED, 31, 0⟩
/-- FUS_CAL_NEXT (Table 11.10, 11_grid_fusion_and_tracks.md). -/
abbrev FUS_CAL_NEXT (i j : Nat) : Nat := hubBlk 0xF + 0x1000 + i * 0x80 + j * 0x8
/-- FUS_CAL_ACT (Table 11.10, 11_grid_fusion_and_tracks.md). -/
abbrev FUS_CAL_ACT (i j : Nat) : Nat := hubBlk 0xF + 0x3000 + i * 0x80 + j * 0x8
/-- FUS_WARP_ERR (Table 11.11, 11_grid_fusion_and_tracks.md). -/
abbrev FUS_WARP_ERR (t : Nat) : Nat := dieBlk t 0xF + 0x0
abbrev FUS_WARP_ERR_code (t : Nat) : Fld := ⟨(FUS_WARP_ERR t), 5, 0⟩
abbrev FUS_WARP_ERR_valid (t : Nat) : Fld := ⟨(FUS_WARP_ERR t), 63, 63⟩
/-- FUS_CNT_DROP (Table 11.11, 11_grid_fusion_and_tracks.md). -/
abbrev FUS_CNT_DROP (t : Nat) : Nat := dieBlk t 0xF + 0x8
abbrev FUS_CNT_DROP_count (t : Nat) : Fld := ⟨(FUS_CNT_DROP t), 31, 0⟩
/-- FUS_CNT_ENTRIES (Table 11.11, 11_grid_fusion_and_tracks.md). -/
abbrev FUS_CNT_ENTRIES (t : Nat) : Nat := dieBlk t 0xF + 0x10
abbrev FUS_CNT_ENTRIES_count (t : Nat) : Fld := ⟨(FUS_CNT_ENTRIES t), 63, 0⟩
/-- TRK_CTRL (Table 11.12, 11_grid_fusion_and_tracks.md). -/
abbrev TRK_CTRL : Nat := hubBlk 0x10 + 0x0
abbrev TRK_CTRL_oos_window : Fld := ⟨TRK_CTRL, 1, 0⟩
abbrev TRK_CTRL_m_birth : Fld := ⟨TRK_CTRL, 7, 4⟩
abbrev TRK_CTRL_n_birth : Fld := ⟨TRK_CTRL, 11, 8⟩
abbrev TRK_CTRL_k_miss : Fld := ⟨TRK_CTRL, 15, 12⟩
abbrev TRK_CTRL_trk_at_us : Fld := ⟨TRK_CTRL, 49, 32⟩
/-- TRK_GATE (Table 11.12, 11_grid_fusion_and_tracks.md). -/
abbrev TRK_GATE : Nat := hubBlk 0x10 + 0x8
abbrev TRK_GATE_gate_chi2 : Fld := ⟨TRK_GATE, 31, 0⟩
abbrev TRK_GATE_p_max : Fld := ⟨TRK_GATE, 63, 32⟩
/-- TRK_SRC_EN (Table 11.12, 11_grid_fusion_and_tracks.md). -/
abbrev TRK_SRC_EN : Nat := hubBlk 0x10 + 0x10
abbrev TRK_SRC_EN_en : Fld := ⟨TRK_SRC_EN, 15, 0⟩
/-- TRK_STATUS (Table 11.12, 11_grid_fusion_and_tracks.md). -/
abbrev TRK_STATUS : Nat := hubBlk 0x10 + 0x18
abbrev TRK_STATUS_live : Fld := ⟨TRK_STATUS, 12, 0⟩
abbrev TRK_STATUS_confirmed : Fld := ⟨TRK_STATUS, 28, 16⟩
abbrev TRK_STATUS_published : Fld := ⟨TRK_STATUS, 63, 32⟩
/-- TRK_ERR (Table 11.12, 11_grid_fusion_and_tracks.md). -/
abbrev TRK_ERR : Nat := hubBlk 0x10 + 0x20
abbrev TRK_ERR_code : Fld := ⟨TRK_ERR, 5, 0⟩
abbrev TRK_ERR_source : Fld := ⟨TRK_ERR, 9, 6⟩
abbrev TRK_ERR_valid : Fld := ⟨TRK_ERR, 63, 63⟩
/-- TRK_CNT_BIRTH (Table 11.12, 11_grid_fusion_and_tracks.md). -/
abbrev TRK_CNT_BIRTH : Nat := hubBlk 0x10 + 0x28
abbrev TRK_CNT_BIRTH_count : Fld := ⟨TRK_CNT_BIRTH, 31, 0⟩
/-- TRK_CNT_DELETE (Table 11.12, 11_grid_fusion_and_tracks.md). -/
abbrev TRK_CNT_DELETE : Nat := hubBlk 0x10 + 0x2C
abbrev TRK_CNT_DELETE_count : Fld := ⟨TRK_CNT_DELETE, 31, 0⟩
/-- TRK_CNT_LATE_USED (Table 11.12, 11_grid_fusion_and_tracks.md). -/
abbrev TRK_CNT_LATE_USED : Nat := hubBlk 0x10 + 0x30
abbrev TRK_CNT_LATE_USED_count : Fld := ⟨TRK_CNT_LATE_USED, 31, 0⟩
/-- TRK_CNT_LATE_DROP (Table 11.12, 11_grid_fusion_and_tracks.md). -/
abbrev TRK_CNT_LATE_DROP : Nat := hubBlk 0x10 + 0x34
abbrev TRK_CNT_LATE_DROP_count : Fld := ⟨TRK_CNT_LATE_DROP, 31, 0⟩
/-- TRK_CNT_DET_DROP (Table 11.12, 11_grid_fusion_and_tracks.md). -/
abbrev TRK_CNT_DET_DROP : Nat := hubBlk 0x10 + 0x38
abbrev TRK_CNT_DET_DROP_count : Fld := ⟨TRK_CNT_DET_DROP, 31, 0⟩
/-- TRK_CNT_CAP (Table 11.12, 11_grid_fusion_and_tracks.md). -/
abbrev TRK_CNT_CAP : Nat := hubBlk 0x10 + 0x3C
abbrev TRK_CNT_CAP_count : Fld := ⟨TRK_CNT_CAP, 31, 0⟩
/-- TRK_CNT_FULL (Table 11.12, 11_grid_fusion_and_tracks.md). -/
abbrev TRK_CNT_FULL : Nat := hubBlk 0x10 + 0x40
abbrev TRK_CNT_FULL_count : Fld := ⟨TRK_CNT_FULL, 31, 0⟩
/-- TRK_CNT_INVALID (Table 11.12, 11_grid_fusion_and_tracks.md). -/
abbrev TRK_CNT_INVALID : Nat := hubBlk 0x10 + 0x44
abbrev TRK_CNT_INVALID_count : Fld := ⟨TRK_CNT_INVALID, 31, 0⟩
/-- TRK_CLASS0 (Table 11.12, 11_grid_fusion_and_tracks.md). -/
abbrev TRK_CLASS0 (i : Nat) : Nat := hubBlk 0x10 + 0x1000 + i * 0x20
abbrev TRK_CLASS0_model (i : Nat) : Fld := ⟨(TRK_CLASS0 i), 1, 0⟩
abbrev TRK_CLASS0_group (i : Nat) : Fld := ⟨(TRK_CLASS0 i), 4, 2⟩
abbrev TRK_CLASS0_roi (i : Nat) : Fld := ⟨(TRK_CLASS0 i), 5, 5⟩
abbrev TRK_CLASS0_length_cm (i : Nat) : Fld := ⟨(TRK_CLASS0 i), 31, 16⟩
abbrev TRK_CLASS0_width_cm (i : Nat) : Fld := ⟨(TRK_CLASS0 i), 47, 32⟩
abbrev TRK_CLASS0_height_cm (i : Nat) : Fld := ⟨(TRK_CLASS0 i), 63, 48⟩
/-- TRK_CLASS8 (Table 11.12, 11_grid_fusion_and_tracks.md). -/
abbrev TRK_CLASS8 (i : Nat) : Nat := hubBlk 0x10 + 0x1008 + i * 0x20
abbrev TRK_CLASS8_sigma_a (i : Nat) : Fld := ⟨(TRK_CLASS8 i), 31, 0⟩
abbrev TRK_CLASS8_sigma_b (i : Nat) : Fld := ⟨(TRK_CLASS8 i), 63, 32⟩
/-- TRK_CLASS10 (Table 11.12, 11_grid_fusion_and_tracks.md). -/
abbrev TRK_CLASS10 (i : Nat) : Nat := hubBlk 0x10 + 0x1010 + i * 0x20
abbrev TRK_CLASS10_sigma_v0 (i : Nat) : Fld := ⟨(TRK_CLASS10 i), 31, 0⟩
/-- TRK_ROI_RECT (Table 11.12, 11_grid_fusion_and_tracks.md). -/
abbrev TRK_ROI_RECT (i j k : Nat) : Nat := hubBlk 0x10 + 0x2008 + i * 0x100 + j * 0x80 + k * 0x8
abbrev TRK_ROI_RECT_x (i j k : Nat) : Fld := ⟨(TRK_ROI_RECT i j k), 15, 0⟩
abbrev TRK_ROI_RECT_y (i j k : Nat) : Fld := ⟨(TRK_ROI_RECT i j k), 31, 16⟩
abbrev TRK_ROI_RECT_w (i j k : Nat) : Fld := ⟨(TRK_ROI_RECT i j k), 47, 32⟩
abbrev TRK_ROI_RECT_h (i j k : Nat) : Fld := ⟨(TRK_ROI_RECT i j k), 63, 48⟩
/-- TRK_ROI (Table 11.12, 11_grid_fusion_and_tracks.md). -/
abbrev TRK_ROI (i j : Nat) : Nat := hubBlk 0x10 + 0x2000 + i * 0x100 + j * 0x80
abbrev TRK_ROI_instant (i j : Nat) : Fld := ⟨(TRK_ROI i j), 31, 0⟩
abbrev TRK_ROI_count (i j : Nat) : Fld := ⟨(TRK_ROI i j), 39, 32⟩
abbrev TRK_ROI_complete (i j : Nat) : Fld := ⟨(TRK_ROI i j), 47, 40⟩
/-- LNK_CTRL (Table 12.9, 12_die_links_and_partner_dies.md). -/
abbrev LNK_CTRL : Nat := hubBlk 0x11 + 0x0
abbrev LNK_CTRL_eye_warn : Fld := ⟨LNK_CTRL, 5, 0⟩
abbrev LNK_CTRL_auto_retry : Fld := ⟨LNK_CTRL, 8, 8⟩
abbrev LNK_CTRL_partner_en : Fld := ⟨LNK_CTRL, 9, 9⟩
abbrev LNK_CTRL_partner_credits : Fld := ⟨LNK_CTRL, 23, 16⟩
/-- LNK_MOD (Table 12.10, 12_die_links_and_partner_dies.md). -/
abbrev LNK_MOD (w : Win) (i : Nat) : Nat := w.blk 0x11 + 0x100 + i * 0x20
abbrev LNK_MOD_state (w : Win) (i : Nat) : Fld := ⟨(LNK_MOD w i), 2, 0⟩
abbrev LNK_MOD_tx_repaired (w : Win) (i : Nat) : Fld := ⟨(LNK_MOD w i), 5, 3⟩
abbrev LNK_MOD_rx_repaired (w : Win) (i : Nat) : Fld := ⟨(LNK_MOD w i), 8, 6⟩
abbrev LNK_MOD_eye_min (w : Win) (i : Nat) : Fld := ⟨(LNK_MOD w i), 21, 16⟩
abbrev LNK_MOD_latency_ns (w : Win) (i : Nat) : Fld := ⟨(LNK_MOD w i), 47, 32⟩
/-- LNK_CNT_CRC (Table 12.11, 12_die_links_and_partner_dies.md). -/
abbrev LNK_CNT_CRC (w : Win) (i : Nat) : Nat := w.blk 0x11 + 0x108 + i * 0x20
abbrev LNK_CNT_CRC_count (w : Win) (i : Nat) : Fld := ⟨(LNK_CNT_CRC w i), 31, 0⟩
/-- LNK_CNT_RETRAIN (Table 12.11, 12_die_links_and_partner_dies.md). -/
abbrev LNK_CNT_RETRAIN (w : Win) (i : Nat) : Nat := w.blk 0x11 + 0x10C + i * 0x20
abbrev LNK_CNT_RETRAIN_count (w : Win) (i : Nat) : Fld := ⟨(LNK_CNT_RETRAIN w i), 31, 0⟩
/-- LNK_CNT_TIMEOUT (Table 12.11, 12_die_links_and_partner_dies.md). -/
abbrev LNK_CNT_TIMEOUT (w : Win) (i : Nat) : Nat := w.blk 0x11 + 0x110 + i * 0x20
abbrev LNK_CNT_TIMEOUT_count (w : Win) (i : Nat) : Fld := ⟨(LNK_CNT_TIMEOUT w i), 31, 0⟩
/-- LNK_CNT_LATE_RESP (Table 12.11, 12_die_links_and_partner_dies.md). -/
abbrev LNK_CNT_LATE_RESP (w : Win) (i : Nat) : Nat := w.blk 0x11 + 0x114 + i * 0x20
abbrev LNK_CNT_LATE_RESP_count (w : Win) (i : Nat) : Fld := ⟨(LNK_CNT_LATE_RESP w i), 31, 0⟩
/-- LNK_CNT_LANE (Table 12.11, 12_die_links_and_partner_dies.md). -/
abbrev LNK_CNT_LANE (w : Win) (i : Nat) : Nat := w.blk 0x11 + 0x118 + i * 0x20
abbrev LNK_CNT_LANE_count (w : Win) (i : Nat) : Fld := ⟨(LNK_CNT_LANE w i), 31, 0⟩
/-- LNK_FENCE (Table 12.12, 12_die_links_and_partner_dies.md). -/
abbrev LNK_FENCE : Nat := hubBlk 0x11 + 0x10
abbrev LNK_FENCE_die : Fld := ⟨LNK_FENCE, 7, 0⟩
abbrev LNK_FENCE_ring : Fld := ⟨LNK_FENCE, 15, 8⟩
/-- LNK_PARTNER_STATUS (Table 12.12, 12_die_links_and_partner_dies.md). -/
abbrev LNK_PARTNER_STATUS : Nat := hubBlk 0x11 + 0x20
abbrev LNK_PARTNER_STATUS_state : Fld := ⟨LNK_PARTNER_STATUS, 2, 0⟩
abbrev LNK_PARTNER_STATUS_max_out : Fld := ⟨LNK_PARTNER_STATUS, 15, 8⟩
abbrev LNK_PARTNER_STATUS_win_mib : Fld := ⟨LNK_PARTNER_STATUS, 31, 16⟩
abbrev LNK_PARTNER_STATUS_credits : Fld := ⟨LNK_PARTNER_STATUS, 39, 32⟩
abbrev LNK_PARTNER_STATUS_lat_ns : Fld := ⟨LNK_PARTNER_STATUS, 51, 40⟩
/-- LNK_PARTNER_ERR (Table 12.12, 12_die_links_and_partner_dies.md). -/
abbrev LNK_PARTNER_ERR : Nat := hubBlk 0x11 + 0x28
abbrev LNK_PARTNER_ERR_addr : Fld := ⟨LNK_PARTNER_ERR, 47, 0⟩
abbrev LNK_PARTNER_ERR_code : Fld := ⟨LNK_PARTNER_ERR, 53, 48⟩
abbrev LNK_PARTNER_ERR_valid : Fld := ⟨LNK_PARTNER_ERR, 63, 63⟩
/-- LNK_CNT_FW_REFUSE (Table 12.12, 12_die_links_and_partner_dies.md). -/
abbrev LNK_CNT_FW_REFUSE : Nat := hubBlk 0x11 + 0x30
abbrev LNK_CNT_FW_REFUSE_count : Fld := ⟨LNK_CNT_FW_REFUSE, 31, 0⟩
/-- LNK_CNT_P_BLK (Table 12.12, 12_die_links_and_partner_dies.md). -/
abbrev LNK_CNT_P_BLK : Nat := hubBlk 0x11 + 0x38
abbrev LNK_CNT_P_BLK_blocks : Fld := ⟨LNK_CNT_P_BLK, 63, 0⟩
/-- LNK_FW (Table 12.12, 12_die_links_and_partner_dies.md). -/
abbrev LNK_FW (i : Nat) : Nat := hubBlk 0x11 + 0x400 + i * 0x10
abbrev LNK_FW_base (i : Nat) : Fld := ⟨(LNK_FW i), 47, 0⟩
abbrev LNK_FW_rd (i : Nat) : Fld := ⟨(LNK_FW i), 48, 48⟩
abbrev LNK_FW_wr (i : Nat) : Fld := ⟨(LNK_FW i), 49, 49⟩
abbrev LNK_FW_en (i : Nat) : Fld := ⟨(LNK_FW i), 50, 50⟩
/-- LNK_FW_SIZE (Table 12.12, 12_die_links_and_partner_dies.md). -/
abbrev LNK_FW_SIZE (i : Nat) : Nat := hubBlk 0x11 + 0x408 + i * 0x10
abbrev LNK_FW_SIZE_size_mib (i : Nat) : Fld := ⟨(LNK_FW_SIZE i), 16, 0⟩
/-- ETH_PORT_CTRL (Table 13.14, 13_ethernet_host_and_sideband.md). -/
abbrev ETH_PORT_CTRL (i : Nat) : Nat := hubBlk 0x12 + 0x100 + i * 0x100
abbrev ETH_PORT_CTRL_en (i : Nat) : Fld := ⟨(ETH_PORT_CTRL i), 0, 0⟩
abbrev ETH_PORT_CTRL_speed (i : Nat) : Fld := ⟨(ETH_PORT_CTRL i), 3, 1⟩
abbrev ETH_PORT_CTRL_fec (i : Nat) : Fld := ⟨(ETH_PORT_CTRL i), 5, 4⟩
abbrev ETH_PORT_CTRL_mtu (i : Nat) : Fld := ⟨(ETH_PORT_CTRL i), 21, 8⟩
/-- ETH_PORT_STATUS (Table 13.14, 13_ethernet_host_and_sideband.md). -/
abbrev ETH_PORT_STATUS (i : Nat) : Nat := hubBlk 0x12 + 0x108 + i * 0x100
abbrev ETH_PORT_STATUS_link_up (i : Nat) : Fld := ⟨(ETH_PORT_STATUS i), 0, 0⟩
abbrev ETH_PORT_STATUS_rate (i : Nat) : Fld := ⟨(ETH_PORT_STATUS i), 2, 1⟩
abbrev ETH_PORT_STATUS_macsec_on (i : Nat) : Fld := ⟨(ETH_PORT_STATUS i), 3, 3⟩
/-- ETH_CNT_RX (Table 13.14, 13_ethernet_host_and_sideband.md). -/
abbrev ETH_CNT_RX (i : Nat) : Nat := hubBlk 0x12 + 0x110 + i * 0x100
abbrev ETH_CNT_RX_frames (i : Nat) : Fld := ⟨(ETH_CNT_RX i), 63, 0⟩
/-- ETH_CNT_TX (Table 13.14, 13_ethernet_host_and_sideband.md). -/
abbrev ETH_CNT_TX (i : Nat) : Nat := hubBlk 0x12 + 0x118 + i * 0x100
abbrev ETH_CNT_TX_frames (i : Nat) : Fld := ⟨(ETH_CNT_TX i), 63, 0⟩
/-- ETH_CNT_FCS (Table 13.14, 13_ethernet_host_and_sideband.md). -/
abbrev ETH_CNT_FCS (i : Nat) : Nat := hubBlk 0x12 + 0x120 + i * 0x100
abbrev ETH_CNT_FCS_count (i : Nat) : Fld := ⟨(ETH_CNT_FCS i), 31, 0⟩
/-- ETH_CNT_RX_DROP (Table 13.14, 13_ethernet_host_and_sideband.md). -/
abbrev ETH_CNT_RX_DROP (i : Nat) : Nat := hubBlk 0x12 + 0x124 + i * 0x100
abbrev ETH_CNT_RX_DROP_count (i : Nat) : Fld := ⟨(ETH_CNT_RX_DROP i), 31, 0⟩
/-- ETH_CNT_MACSEC (Table 13.14, 13_ethernet_host_and_sideband.md). -/
abbrev ETH_CNT_MACSEC (i : Nat) : Nat := hubBlk 0x12 + 0x128 + i * 0x100
abbrev ETH_CNT_MACSEC_count (i : Nat) : Fld := ⟨(ETH_CNT_MACSEC i), 31, 0⟩
/-- ETH_CNT_EGRESS_CHK (Table 13.14, 13_ethernet_host_and_sideband.md). -/
abbrev ETH_CNT_EGRESS_CHK (i : Nat) : Nat := hubBlk 0x12 + 0x12C + i * 0x100
abbrev ETH_CNT_EGRESS_CHK_count (i : Nat) : Fld := ⟨(ETH_CNT_EGRESS_CHK i), 31, 0⟩
/-- ETH_CNT_QCI (Table 13.14, 13_ethernet_host_and_sideband.md). -/
abbrev ETH_CNT_QCI (i : Nat) : Nat := hubBlk 0x12 + 0x130 + i * 0x100
abbrev ETH_CNT_QCI_count (i : Nat) : Fld := ⟨(ETH_CNT_QCI i), 31, 0⟩
/-- ETH_CNT_FRER (Table 13.14, 13_ethernet_host_and_sideband.md). -/
abbrev ETH_CNT_FRER (i : Nat) : Nat := hubBlk 0x12 + 0x134 + i * 0x100
abbrev ETH_CNT_FRER_count (i : Nat) : Fld := ⟨(ETH_CNT_FRER i), 31, 0⟩
/-- ETH_GCL_TIME (Table 13.15, 13_ethernet_host_and_sideband.md). -/
abbrev ETH_GCL_TIME (i : Nat) : Nat := hubBlk 0x12 + 0x3800 + i * 0x10
abbrev ETH_GCL_TIME_cycle_ns (i : Nat) : Fld := ⟨(ETH_GCL_TIME i), 31, 0⟩
/-- ETH_GCL_BASE (Table 13.15, 13_ethernet_host_and_sideband.md). -/
abbrev ETH_GCL_BASE (i : Nat) : Nat := hubBlk 0x12 + 0x3808 + i * 0x10
abbrev ETH_GCL_BASE_base (i : Nat) : Fld := ⟨(ETH_GCL_BASE i), 63, 0⟩
/-- ETH_GCL (Table 13.15, 13_ethernet_host_and_sideband.md). -/
abbrev ETH_GCL (i j : Nat) : Nat := hubBlk 0x12 + 0x4000 + i * 0x800 + j * 0x8
abbrev ETH_GCL_gates (i j : Nat) : Fld := ⟨(ETH_GCL i j), 7, 0⟩
abbrev ETH_GCL_interval (i j : Nat) : Fld := ⟨(ETH_GCL i j), 39, 8⟩
/-- ETH_PCP (Table 13.15, 13_ethernet_host_and_sideband.md). -/
abbrev ETH_PCP (i j : Nat) : Nat := hubBlk 0x12 + 0x8000 + i * 0x400 + j * 0x8
abbrev ETH_PCP_class (i j : Nat) : Fld := ⟨(ETH_PCP i j), 2, 0⟩
/-- ETH_VID (Table 13.15, 13_ethernet_host_and_sideband.md). -/
abbrev ETH_VID (i j : Nat) : Nat := hubBlk 0x12 + 0x8040 + i * 0x400 + j * 0x8
abbrev ETH_VID_vid (i j : Nat) : Fld := ⟨(ETH_VID i j), 11, 0⟩
abbrev ETH_VID_valid (i j : Nat) : Fld := ⟨(ETH_VID i j), 12, 12⟩
/-- ETH_QCI (Table 13.15, 13_ethernet_host_and_sideband.md). -/
abbrev ETH_QCI (i j k : Nat) : Nat := hubBlk 0x12 + 0xA000 + i * 0x1000 + j * 0x18 + k * 0x8
abbrev ETH_QCI_obj (i j k : Nat) : Fld := ⟨(ETH_QCI i j k), 63, 0⟩
/-- OHP_CTRL (Table 13.16, 13_ethernet_host_and_sideband.md). -/
abbrev OHP_CTRL : Nat := hubBlk 0x13 + 0x0
abbrev OHP_CTRL_en : Fld := ⟨OHP_CTRL, 0, 0⟩
abbrev OHP_CTRL_udp : Fld := ⟨OHP_CTRL, 1, 1⟩
abbrev OHP_CTRL_secure_only : Fld := ⟨OHP_CTRL, 2, 2⟩
abbrev OHP_CTRL_events : Fld := ⟨OHP_CTRL, 3, 3⟩
abbrev OHP_CTRL_ethertype : Fld := ⟨OHP_CTRL, 31, 16⟩
/-- OHP_UDP (Table 13.16, 13_ethernet_host_and_sideband.md). -/
abbrev OHP_UDP : Nat := hubBlk 0x13 + 0x8
abbrev OHP_UDP_port : Fld := ⟨OHP_UDP, 15, 0⟩
abbrev OHP_UDP_ipv4 : Fld := ⟨OHP_UDP, 63, 32⟩
/-- OHP_MAC (Table 13.16, 13_ethernet_host_and_sideband.md). -/
abbrev OHP_MAC : Nat := hubBlk 0x13 + 0x10
abbrev OHP_MAC_mac : Fld := ⟨OHP_MAC, 47, 0⟩
abbrev OHP_MAC_vlan : Fld := ⟨OHP_MAC, 59, 48⟩
abbrev OHP_MAC_pcp : Fld := ⟨OHP_MAC, 62, 60⟩
/-- OHP_EVT_DEST (Table 13.16, 13_ethernet_host_and_sideband.md). -/
abbrev OHP_EVT_DEST : Nat := hubBlk 0x13 + 0x18
abbrev OHP_EVT_DEST_mac : Fld := ⟨OHP_EVT_DEST, 47, 0⟩
abbrev OHP_EVT_DEST_min_class : Fld := ⟨OHP_EVT_DEST, 50, 48⟩
/-- OHP_ROLE_PART (Table 13.16, 13_ethernet_host_and_sideband.md). -/
abbrev OHP_ROLE_PART : Nat := hubBlk 0x13 + 0x20
abbrev OHP_ROLE_PART_epoch : Fld := ⟨OHP_ROLE_PART, 31, 0⟩
/-- OHP_CNT_RX (Table 13.16, 13_ethernet_host_and_sideband.md). -/
abbrev OHP_CNT_RX : Nat := hubBlk 0x13 + 0x28
abbrev OHP_CNT_RX_count : Fld := ⟨OHP_CNT_RX, 63, 0⟩
/-- OHP_CNT_STALE (Table 13.16, 13_ethernet_host_and_sideband.md). -/
abbrev OHP_CNT_STALE : Nat := hubBlk 0x13 + 0x30
abbrev OHP_CNT_STALE_count : Fld := ⟨OHP_CNT_STALE, 31, 0⟩
/-- OHP_CNT_DROP (Table 13.16, 13_ethernet_host_and_sideband.md). -/
abbrev OHP_CNT_DROP : Nat := hubBlk 0x13 + 0x34
abbrev OHP_CNT_DROP_count : Fld := ⟨OHP_CNT_DROP, 31, 0⟩
/-- OHP_CNT_BAD (Table 13.16, 13_ethernet_host_and_sideband.md). -/
abbrev OHP_CNT_BAD : Nat := hubBlk 0x13 + 0x38
abbrev OHP_CNT_BAD_count : Fld := ⟨OHP_CNT_BAD, 31, 0⟩
/-- OHP_CNT_DUP (Table 13.16, 13_ethernet_host_and_sideband.md). -/
abbrev OHP_CNT_DUP : Nat := hubBlk 0x13 + 0x3C
abbrev OHP_CNT_DUP_count : Fld := ⟨OHP_CNT_DUP, 31, 0⟩
/-- OHP_CNT_REFUSED (Table 13.16, 13_ethernet_host_and_sideband.md). -/
abbrev OHP_CNT_REFUSED : Nat := hubBlk 0x13 + 0x40
abbrev OHP_CNT_REFUSED_count : Fld := ⟨OHP_CNT_REFUSED, 31, 0⟩
/-- OHP_ROLE_P (Table 13.16, 13_ethernet_host_and_sideband.md). -/
abbrev OHP_ROLE_P (i : Nat) : Nat := hubBlk 0x13 + 0x100 + i * 0x4
abbrev OHP_ROLE_P_epoch (i : Nat) : Fld := ⟨(OHP_ROLE_P i), 31, 0⟩
/-- OHP_ROLE_Q (Table 13.16, 13_ethernet_host_and_sideband.md). -/
abbrev OHP_ROLE_Q (i : Nat) : Nat := hubBlk 0x13 + 0x200 + i * 0x4
abbrev OHP_ROLE_Q_epoch (i : Nat) : Fld := ⟨(OHP_ROLE_Q i), 31, 0⟩
/-- OHP_ROLE_R (Table 13.16, 13_ethernet_host_and_sideband.md). -/
abbrev OHP_ROLE_R (i : Nat) : Nat := hubBlk 0x13 + 0x240 + i * 0x4
abbrev OHP_ROLE_R_epoch (i : Nat) : Fld := ⟨(OHP_ROLE_R i), 31, 0⟩
/-- OHP_RES0 (Table 13.16, 13_ethernet_host_and_sideband.md). -/
abbrev OHP_RES0 (i : Nat) : Nat := hubBlk 0x13 + 0x1000 + i * 0x20
abbrev OHP_RES0_graph (i : Nat) : Fld := ⟨(OHP_RES0 i), 7, 0⟩
abbrev OHP_RES0_en (i : Nat) : Fld := ⟨(OHP_RES0 i), 8, 8⟩
abbrev OHP_RES0_port (i : Nat) : Fld := ⟨(OHP_RES0 i), 11, 9⟩
abbrev OHP_RES0_frer (i : Nat) : Fld := ⟨(OHP_RES0 i), 12, 12⟩
abbrev OHP_RES0_entry_blocks (i : Nat) : Fld := ⟨(OHP_RES0 i), 24, 16⟩
/-- OHP_RES8 (Table 13.16, 13_ethernet_host_and_sideband.md). -/
abbrev OHP_RES8 (i : Nat) : Nat := hubBlk 0x13 + 0x1008 + i * 0x20
abbrev OHP_RES8_base (i : Nat) : Fld := ⟨(OHP_RES8 i), 47, 0⟩
/-- OHP_RES10 (Table 13.16, 13_ethernet_host_and_sideband.md). -/
abbrev OHP_RES10 (i : Nat) : Nat := hubBlk 0x13 + 0x1010 + i * 0x20
abbrev OHP_RES10_mac (i : Nat) : Fld := ⟨(OHP_RES10 i), 47, 0⟩
abbrev OHP_RES10_vlan (i : Nat) : Fld := ⟨(OHP_RES10 i), 59, 48⟩
abbrev OHP_RES10_pcp (i : Nat) : Fld := ⟨(OHP_RES10 i), 62, 60⟩
/-- SMP_CTRL (Table 13.17, 13_ethernet_host_and_sideband.md). -/
abbrev SMP_CTRL : Nat := hubBlk 0x14 + 0x0
abbrev SMP_CTRL_reset_en : Fld := ⟨SMP_CTRL, 0, 0⟩
abbrev SMP_CTRL_mode_en : Fld := ⟨SMP_CTRL, 1, 1⟩
/-- SMP_CNT_ACTION (Table 13.17, 13_ethernet_host_and_sideband.md). -/
abbrev SMP_CNT_ACTION : Nat := hubBlk 0x14 + 0x8
abbrev SMP_CNT_ACTION_count : Fld := ⟨SMP_CNT_ACTION, 31, 0⟩
/-- SMP_CNT_REJECT (Table 13.17, 13_ethernet_host_and_sideband.md). -/
abbrev SMP_CNT_REJECT : Nat := hubBlk 0x14 + 0xC
abbrev SMP_CNT_REJECT_count : Fld := ⟨SMP_CNT_REJECT, 31, 0⟩
/-- BOOT_STATUS (Table 14.14, 14_boot_configuration_and_security.md). -/
abbrev BOOT_STATUS : Nat := hubBlk 0x15 + 0x0
abbrev BOOT_STATUS_stage : Fld := ⟨BOOT_STATUS, 3, 0⟩
abbrev BOOT_STATUS_image_b : Fld := ⟨BOOT_STATUS, 4, 4⟩
abbrev BOOT_STATUS_fail_code : Fld := ⟨BOOT_STATUS, 15, 8⟩
abbrev BOOT_STATUS_fail_a : Fld := ⟨BOOT_STATUS, 23, 16⟩
abbrev BOOT_STATUS_fail_sect : Fld := ⟨BOOT_STATUS, 31, 24⟩
abbrev BOOT_STATUS_image_id : Fld := ⟨BOOT_STATUS, 63, 32⟩
/-- BOOT_INFO (Table 14.14, 14_boot_configuration_and_security.md). -/
abbrev BOOT_INFO : Nat := hubBlk 0x15 + 0x8
abbrev BOOT_INFO_security_version : Fld := ⟨BOOT_INFO, 7, 0⟩
abbrev BOOT_INFO_arb_index : Fld := ⟨BOOT_INFO, 13, 8⟩
abbrev BOOT_INFO_split : Fld := ⟨BOOT_INFO, 14, 14⟩
/-- BOOT_TIME (Table 14.14, 14_boot_configuration_and_security.md). -/
abbrev BOOT_TIME : Nat := hubBlk 0x15 + 0x10
abbrev BOOT_TIME_commit_us : Fld := ⟨BOOT_TIME, 31, 0⟩
abbrev BOOT_TIME_verify_us : Fld := ⟨BOOT_TIME, 63, 32⟩
/-- BOOT_IMG_BASE (Table 14.14, 14_boot_configuration_and_security.md). -/
abbrev BOOT_IMG_BASE : Nat := hubBlk 0x15 + 0x18
abbrev BOOT_IMG_BASE_base : Fld := ⟨BOOT_IMG_BASE, 47, 0⟩
/-- BOOT_LCK_ERR (Table 14.14, 14_boot_configuration_and_security.md). -/
abbrev BOOT_LCK_ERR : Nat := hubBlk 0x15 + 0x20
abbrev BOOT_LCK_ERR_addr : Fld := ⟨BOOT_LCK_ERR, 47, 0⟩
abbrev BOOT_LCK_ERR_source : Fld := ⟨BOOT_LCK_ERR, 51, 48⟩
abbrev BOOT_LCK_ERR_valid : Fld := ⟨BOOT_LCK_ERR, 63, 63⟩
/-- BOOT_CNT_LCK (Table 14.14, 14_boot_configuration_and_security.md). -/
abbrev BOOT_CNT_LCK : Nat := hubBlk 0x15 + 0x28
abbrev BOOT_CNT_LCK_count : Fld := ⟨BOOT_CNT_LCK, 31, 0⟩
/-- BOOT_CNT_UFS_RETRY (Table 14.14, 14_boot_configuration_and_security.md). -/
abbrev BOOT_CNT_UFS_RETRY : Nat := hubBlk 0x15 + 0x2C
abbrev BOOT_CNT_UFS_RETRY_count : Fld := ⟨BOOT_CNT_UFS_RETRY, 31, 0⟩
/-- BOOT_ATT_CTRL (Table 14.14, 14_boot_configuration_and_security.md). -/
abbrev BOOT_ATT_CTRL : Nat := hubBlk 0x15 + 0x30
abbrev BOOT_ATT_CTRL_dest : Fld := ⟨BOOT_ATT_CTRL, 47, 0⟩
abbrev BOOT_ATT_CTRL_go : Fld := ⟨BOOT_ATT_CTRL, 48, 48⟩
abbrev BOOT_ATT_CTRL_done : Fld := ⟨BOOT_ATT_CTRL, 49, 49⟩
abbrev BOOT_ATT_CTRL_error : Fld := ⟨BOOT_ATT_CTRL, 50, 50⟩
/-- BOOT_ATT_NONCE (Table 14.14, 14_boot_configuration_and_security.md). -/
abbrev BOOT_ATT_NONCE (i : Nat) : Nat := hubBlk 0x15 + 0x40 + i * 0x8
abbrev BOOT_ATT_NONCE_nonce (i : Nat) : Fld := ⟨(BOOT_ATT_NONCE i), 63, 0⟩
/-- SEC_STATUS (Table 14.15, 14_boot_configuration_and_security.md). -/
abbrev SEC_STATUS : Nat := hubBlk 0x16 + 0x0
abbrev SEC_STATUS_puf_ok : Fld := ⟨SEC_STATUS, 0, 0⟩
abbrev SEC_STATUS_id_ready : Fld := ⟨SEC_STATUS, 1, 1⟩
abbrev SEC_STATUS_debug_level : Fld := ⟨SEC_STATUS, 3, 2⟩
abbrev SEC_STATUS_debug_ever : Fld := ⟨SEC_STATUS, 4, 4⟩
abbrev SEC_STATUS_ed_revoked : Fld := ⟨SEC_STATUS, 11, 8⟩
abbrev SEC_STATUS_ml_revoked : Fld := ⟨SEC_STATUS, 15, 12⟩
abbrev SEC_STATUS_ed_slot : Fld := ⟨SEC_STATUS, 17, 16⟩
abbrev SEC_STATUS_ml_slot : Fld := ⟨SEC_STATUS, 19, 18⟩
abbrev SEC_STATUS_dbg_max : Fld := ⟨SEC_STATUS, 21, 20⟩
abbrev SEC_STATUS_k_wrap_set : Fld := ⟨SEC_STATUS, 22, 22⟩
/-- SEC_ARB (Table 14.15, 14_boot_configuration_and_security.md). -/
abbrev SEC_ARB (i : Nat) : Nat := hubBlk 0x16 + 0x100 + i * 0x4
abbrev SEC_ARB_value (i : Nat) : Fld := ⟨(SEC_ARB i), 7, 0⟩
/-- SEC_ID_ED (Table 14.15, 14_boot_configuration_and_security.md). -/
abbrev SEC_ID_ED (i : Nat) : Nat := hubBlk 0x16 + 0x200 + i * 0x8
/-- SEC_DBG_CHAL (Table 14.15, 14_boot_configuration_and_security.md). -/
abbrev SEC_DBG_CHAL (i : Nat) : Nat := hubBlk 0x16 + 0x300 + i * 0x8
/-- SEC_DBG_CTRL (Table 14.15, 14_boot_configuration_and_security.md). -/
abbrev SEC_DBG_CTRL : Nat := hubBlk 0x16 + 0x320
abbrev SEC_DBG_CTRL_level : Fld := ⟨SEC_DBG_CTRL, 1, 0⟩
abbrev SEC_DBG_CTRL_new_chal : Fld := ⟨SEC_DBG_CTRL, 2, 2⟩
abbrev SEC_DBG_CTRL_submit : Fld := ⟨SEC_DBG_CTRL, 3, 3⟩
abbrev SEC_DBG_CTRL_busy : Fld := ⟨SEC_DBG_CTRL, 4, 4⟩
abbrev SEC_DBG_CTRL_refused : Fld := ⟨SEC_DBG_CTRL, 5, 5⟩
/-- SEC_SAK_LOAD (Table 14.15, 14_boot_configuration_and_security.md). -/
abbrev SEC_SAK_LOAD (i : Nat) : Nat := hubBlk 0x16 + 0x400 + i * 0x8
/-- SEC_SAK_CTRL (Table 14.15, 14_boot_configuration_and_security.md). -/
abbrev SEC_SAK_CTRL : Nat := hubBlk 0x16 + 0x450
abbrev SEC_SAK_CTRL_go : Fld := ⟨SEC_SAK_CTRL, 0, 0⟩
abbrev SEC_SAK_CTRL_done : Fld := ⟨SEC_SAK_CTRL, 1, 1⟩
abbrev SEC_SAK_CTRL_refused : Fld := ⟨SEC_SAK_CTRL, 2, 2⟩
/-- SEC_OTP_PROG (Table 14.15, 14_boot_configuration_and_security.md). -/
abbrev SEC_OTP_PROG : Nat := hubBlk 0x16 + 0x500
abbrev SEC_OTP_PROG_field : Fld := ⟨SEC_OTP_PROG, 7, 0⟩
abbrev SEC_OTP_PROG_index : Fld := ⟨SEC_OTP_PROG, 15, 8⟩
abbrev SEC_OTP_PROG_go : Fld := ⟨SEC_OTP_PROG, 16, 16⟩
abbrev SEC_OTP_PROG_done : Fld := ⟨SEC_OTP_PROG, 17, 17⟩
abbrev SEC_OTP_PROG_refused : Fld := ⟨SEC_OTP_PROG, 18, 18⟩
/-- SEC_OTP_DATA (Table 14.15, 14_boot_configuration_and_security.md). -/
abbrev SEC_OTP_DATA (i : Nat) : Nat := hubBlk 0x16 + 0x540 + i * 0x8
/-- SEC_CNT_DBG_REFUSE (Table 14.15, 14_boot_configuration_and_security.md). -/
abbrev SEC_CNT_DBG_REFUSE : Nat := hubBlk 0x16 + 0x600
abbrev SEC_CNT_DBG_REFUSE_count : Fld := ⟨SEC_CNT_DBG_REFUSE, 31, 0⟩
/-- SEC_DBG_RESP (Table 14.15, 14_boot_configuration_and_security.md). -/
abbrev SEC_DBG_RESP (i : Nat) : Nat := hubBlk 0x16 + 0x2000 + i * 0x8
/-- CHK_STATUS (Table 15.8, 15_integrity_and_redundant_execution.md). -/
abbrev CHK_STATUS (t : Nat) : Nat := dieBlk t 0x17 + 0x0
abbrev CHK_STATUS_audit_eng (t : Nat) : Fld := ⟨(CHK_STATUS t), 4, 0⟩
abbrev CHK_STATUS_audit_on (t : Nat) : Fld := ⟨(CHK_STATUS t), 5, 5⟩
abbrev CHK_STATUS_quar (t : Nat) : Fld := ⟨(CHK_STATUS t), 25, 8⟩
/-- CHK_ERR (Table 15.8, 15_integrity_and_redundant_execution.md). -/
abbrev CHK_ERR (t : Nat) : Nat := dieBlk t 0x17 + 0x8
abbrev CHK_ERR_code (t : Nat) : Fld := ⟨(CHK_ERR t), 5, 0⟩
abbrev CHK_ERR_eng (t : Nat) : Fld := ⟨(CHK_ERR t), 10, 6⟩
abbrev CHK_ERR_graph (t : Nat) : Fld := ⟨(CHK_ERR t), 23, 16⟩
abbrev CHK_ERR_inst (t : Nat) : Fld := ⟨(CHK_ERR t), 29, 24⟩
abbrev CHK_ERR_task (t : Nat) : Fld := ⟨(CHK_ERR t), 43, 32⟩
abbrev CHK_ERR_valid (t : Nat) : Fld := ⟨(CHK_ERR t), 63, 63⟩
/-- CHK_CNT_BEACON (Table 15.8, 15_integrity_and_redundant_execution.md). -/
abbrev CHK_CNT_BEACON (t : Nat) : Nat := dieBlk t 0x17 + 0x20
abbrev CHK_CNT_BEACON_count (t : Nat) : Fld := ⟨(CHK_CNT_BEACON t), 31, 0⟩
/-- CHK_CNT_BEACON_FAIL (Table 15.8, 15_integrity_and_redundant_execution.md). -/
abbrev CHK_CNT_BEACON_FAIL (t : Nat) : Nat := dieBlk t 0x17 + 0x24
abbrev CHK_CNT_BEACON_FAIL_count (t : Nat) : Fld := ⟨(CHK_CNT_BEACON_FAIL t), 31, 0⟩
/-- CHK_CNT_BEACON_LATE (Table 15.8, 15_integrity_and_redundant_execution.md). -/
abbrev CHK_CNT_BEACON_LATE (t : Nat) : Nat := dieBlk t 0x17 + 0x28
abbrev CHK_CNT_BEACON_LATE_count (t : Nat) : Fld := ⟨(CHK_CNT_BEACON_LATE t), 31, 0⟩
/-- CHK_CNT_AUDIT (Table 15.8, 15_integrity_and_redundant_execution.md). -/
abbrev CHK_CNT_AUDIT (t : Nat) : Nat := dieBlk t 0x17 + 0x2C
abbrev CHK_CNT_AUDIT_count (t : Nat) : Fld := ⟨(CHK_CNT_AUDIT t), 31, 0⟩
/-- CHK_CNT_AUD_SKIP (Table 15.8, 15_integrity_and_redundant_execution.md). -/
abbrev CHK_CNT_AUD_SKIP (t : Nat) : Nat := dieBlk t 0x17 + 0x30
abbrev CHK_CNT_AUD_SKIP_count (t : Nat) : Fld := ⟨(CHK_CNT_AUD_SKIP t), 31, 0⟩
/-- CHK_CNT_AUD_FAIL (Table 15.8, 15_integrity_and_redundant_execution.md). -/
abbrev CHK_CNT_AUD_FAIL (t : Nat) : Nat := dieBlk t 0x17 + 0x34
abbrev CHK_CNT_AUD_FAIL_count (t : Nat) : Fld := ⟨(CHK_CNT_AUD_FAIL t), 31, 0⟩
/-- CHK_CNT_CV_FAIL (Table 15.8, 15_integrity_and_redundant_execution.md). -/
abbrev CHK_CNT_CV_FAIL (t : Nat) : Nat := dieBlk t 0x17 + 0x38
abbrev CHK_CNT_CV_FAIL_count (t : Nat) : Fld := ⟨(CHK_CNT_CV_FAIL t), 31, 0⟩
/-- CHK_CNT_QUAR (Table 15.8, 15_integrity_and_redundant_execution.md). -/
abbrev CHK_CNT_QUAR (t : Nat) : Nat := dieBlk t 0x17 + 0x3C
abbrev CHK_CNT_QUAR_count (t : Nat) : Fld := ⟨(CHK_CNT_QUAR t), 31, 0⟩
/-- CHK_CNT_RETIRE (Table 15.8, 15_integrity_and_redundant_execution.md). -/
abbrev CHK_CNT_RETIRE (t : Nat) : Nat := dieBlk t 0x17 + 0x40
abbrev CHK_CNT_RETIRE_count (t : Nat) : Fld := ⟨(CHK_CNT_RETIRE t), 31, 0⟩
/-- CHK_CTRL (Table 15.9, 15_integrity_and_redundant_execution.md). -/
abbrev CHK_CTRL : Nat := hubBlk 0x17 + 0x0
abbrev CHK_CTRL_audit_en : Fld := ⟨CHK_CTRL, 0, 0⟩
/-- CHK_ISL (Table 15.9, 15_integrity_and_redundant_execution.md). -/
abbrev CHK_ISL (w : Win) : Nat := w.blk 0x17 + 0x10
abbrev CHK_ISL_split (w : Win) : Fld := ⟨(CHK_ISL w), 0, 0⟩
abbrev CHK_ISL_fault (w : Win) : Fld := ⟨(CHK_ISL w), 1, 1⟩
abbrev CHK_ISL_input (w : Win) : Fld := ⟨(CHK_ISL w), 15, 8⟩
/-- CHK_CNT_AGREE_RETRY (Table 15.9, 15_integrity_and_redundant_execution.md). -/
abbrev CHK_CNT_AGREE_RETRY (w : Win) : Nat := w.blk 0x17 + 0x14
abbrev CHK_CNT_AGREE_RETRY_count (w : Win) : Fld := ⟨(CHK_CNT_AGREE_RETRY w), 31, 0⟩
/-- CHK_ENG (Table 15.9, 15_integrity_and_redundant_execution.md). -/
abbrev CHK_ENG (i j : Nat) : Nat := hubBlk 0x17 + 0x1000 + i * 0x200 + j * 0x10
abbrev CHK_ENG_qstate (i j : Nat) : Fld := ⟨(CHK_ENG i j), 2, 0⟩
abbrev CHK_ENG_clean_runs (i j : Nat) : Fld := ⟨(CHK_ENG i j), 13, 4⟩
abbrev CHK_ENG_last_set (i j : Nat) : Fld := ⟨(CHK_ENG i j), 19, 16⟩
abbrev CHK_ENG_last_pass (i j : Nat) : Fld := ⟨(CHK_ENG i j), 20, 20⟩
abbrev CHK_ENG_strikes (i j : Nat) : Fld := ⟨(CHK_ENG i j), 63, 32⟩
/-- CHK_ENG_TIME (Table 15.9, 15_integrity_and_redundant_execution.md). -/
abbrev CHK_ENG_TIME (i j : Nat) : Nat := hubBlk 0x17 + 0x1008 + i * 0x200 + j * 0x10
abbrev CHK_ENG_TIME_strike_time (i j : Nat) : Fld := ⟨(CHK_ENG_TIME i j), 63, 0⟩
/-- SAF_STATUS (Table 16.10, 16_safety_islands_and_fault_handling.md). -/
abbrev SAF_STATUS : Nat := hubBlk 0x18 + 0x0
abbrev SAF_STATUS_safe : Fld := ⟨SAF_STATUS, 0, 0⟩
abbrev SAF_STATUS_start_done : Fld := ⟨SAF_STATUS, 1, 1⟩
abbrev SAF_STATUS_chan_ok : Fld := ⟨SAF_STATUS, 2, 2⟩
abbrev SAF_STATUS_deimos_ok : Fld := ⟨SAF_STATUS, 3, 3⟩
abbrev SAF_STATUS_handling : Fld := ⟨SAF_STATUS, 11, 8⟩
abbrev SAF_STATUS_pending : Fld := ⟨SAF_STATUS, 18, 12⟩
abbrev SAF_STATUS_highest : Fld := ⟨SAF_STATUS, 26, 24⟩
abbrev SAF_STATUS_total : Fld := ⟨SAF_STATUS, 63, 32⟩
/-- SAF_LOG_HEAD (Table 16.10, 16_safety_islands_and_fault_handling.md). -/
abbrev SAF_LOG_HEAD : Nat := hubBlk 0x18 + 0x8
abbrev SAF_LOG_HEAD_head : Fld := ⟨SAF_LOG_HEAD, 5, 0⟩
/-- SAF_CNT_LOST (Table 16.10, 16_safety_islands_and_fault_handling.md). -/
abbrev SAF_CNT_LOST : Nat := hubBlk 0x18 + 0xC
abbrev SAF_CNT_LOST_count : Fld := ⟨SAF_CNT_LOST, 31, 0⟩
/-- SAF_INJ (Table 16.10, 16_safety_islands_and_fault_handling.md). -/
abbrev SAF_INJ : Nat := hubBlk 0x18 + 0x10
abbrev SAF_INJ_failed : Fld := ⟨SAF_INJ, 37, 0⟩
/-- SAF_INJ_DONE (Table 16.10, 16_safety_islands_and_fault_handling.md). -/
abbrev SAF_INJ_DONE : Nat := hubBlk 0x18 + 0x18
abbrev SAF_INJ_DONE_done : Fld := ⟨SAF_INJ_DONE, 37, 0⟩
/-- SAF_CNT_CR (Table 16.10, 16_safety_islands_and_fault_handling.md). -/
abbrev SAF_CNT_CR : Nat := hubBlk 0x18 + 0x20
abbrev SAF_CNT_CR_count : Fld := ⟨SAF_CNT_CR, 31, 0⟩
/-- SAF_CNT_CHAN (Table 16.10, 16_safety_islands_and_fault_handling.md). -/
abbrev SAF_CNT_CHAN : Nat := hubBlk 0x18 + 0x24
abbrev SAF_CNT_CHAN_count : Fld := ⟨SAF_CNT_CHAN, 31, 0⟩
/-- SAF_FF_CTRL (Table 16.10, 16_safety_islands_and_fault_handling.md). -/
abbrev SAF_FF_CTRL : Nat := hubBlk 0x18 + 0x28
abbrev SAF_FF_CTRL_ff_en : Fld := ⟨SAF_FF_CTRL, 0, 0⟩
abbrev SAF_FF_CTRL_depth : Fld := ⟨SAF_FF_CTRL, 3, 1⟩
/-- SAF_FF_EN (Table 16.10, 16_safety_islands_and_fault_handling.md). -/
abbrev SAF_FF_EN : Nat := hubBlk 0x18 + 0x30
abbrev SAF_FF_EN_en : Fld := ⟨SAF_FF_EN, 63, 0⟩
/-- SAF_LOG (Table 16.10, 16_safety_islands_and_fault_handling.md). -/
abbrev SAF_LOG (i j : Nat) : Nat := hubBlk 0x18 + 0x1000 + i * 0x10 + j * 0x8
/-- SAF_CNT_FF (Table 16.10, 16_safety_islands_and_fault_handling.md). -/
abbrev SAF_CNT_FF (i : Nat) : Nat := hubBlk 0x18 + 0x2000 + i * 0x4
abbrev SAF_CNT_FF_count (i : Nat) : Fld := ⟨(SAF_CNT_FF i), 31, 0⟩
/-- SAF_MON (Table 16.11, 16_safety_islands_and_fault_handling.md). -/
abbrev SAF_MON : Nat := kyBlk 0x18 + 0x0
abbrev SAF_MON_rail_ok : Fld := ⟨SAF_MON, 15, 0⟩
abbrev SAF_MON_clk_ok : Fld := ⟨SAF_MON, 31, 16⟩
/-- SAF_MON_ERR (Table 16.11, 16_safety_islands_and_fault_handling.md). -/
abbrev SAF_MON_ERR : Nat := kyBlk 0x18 + 0x8
abbrev SAF_MON_ERR_index : Fld := ⟨SAF_MON_ERR, 3, 0⟩
abbrev SAF_MON_ERR_clock : Fld := ⟨SAF_MON_ERR, 4, 4⟩
abbrev SAF_MON_ERR_high : Fld := ⟨SAF_MON_ERR, 5, 5⟩
abbrev SAF_MON_ERR_value : Fld := ⟨SAF_MON_ERR, 47, 16⟩
abbrev SAF_MON_ERR_valid : Fld := ⟨SAF_MON_ERR, 63, 63⟩
/-- SAF_CR (Table 16.11, 16_safety_islands_and_fault_handling.md). -/
abbrev SAF_CR : Nat := kyBlk 0x18 + 0x10
abbrev SAF_CR_sent : Fld := ⟨SAF_CR, 15, 0⟩
abbrev SAF_CR_fails : Fld := ⟨SAF_CR, 17, 16⟩
/-- SAF_DLOG (Table 16.11, 16_safety_islands_and_fault_handling.md). -/
abbrev SAF_DLOG (i j : Nat) : Nat := kyBlk 0x18 + 0x1000 + i * 0x10 + j * 0x8
/-- WDG_STATUS (Table 16.12, 16_safety_islands_and_fault_handling.md). -/
abbrev WDG_STATUS (t : Nat) : Nat := dieBlk t 0x19 + 0x0
abbrev WDG_STATUS_armed (t : Nat) : Fld := ⟨(WDG_STATUS t), 13, 0⟩
/-- WDG_ERR (Table 16.12, 16_safety_islands_and_fault_handling.md). -/
abbrev WDG_ERR (t : Nat) : Nat := dieBlk t 0x19 + 0x8
abbrev WDG_ERR_window (t : Nat) : Fld := ⟨(WDG_ERR t), 7, 0⟩
abbrev WDG_ERR_graph (t : Nat) : Fld := ⟨(WDG_ERR t), 15, 8⟩
abbrev WDG_ERR_inst (t : Nat) : Fld := ⟨(WDG_ERR t), 21, 16⟩
abbrev WDG_ERR_task (t : Nat) : Fld := ⟨(WDG_ERR t), 35, 24⟩
abbrev WDG_ERR_early (t : Nat) : Fld := ⟨(WDG_ERR t), 36, 36⟩
abbrev WDG_ERR_valid (t : Nat) : Fld := ⟨(WDG_ERR t), 63, 63⟩
/-- WDG_CNT_LATE (Table 16.12, 16_safety_islands_and_fault_handling.md). -/
abbrev WDG_CNT_LATE (t : Nat) : Nat := dieBlk t 0x19 + 0x10
abbrev WDG_CNT_LATE_count (t : Nat) : Fld := ⟨(WDG_CNT_LATE t), 31, 0⟩
/-- WDG_CNT_EARLY (Table 16.12, 16_safety_islands_and_fault_handling.md). -/
abbrev WDG_CNT_EARLY (t : Nat) : Nat := dieBlk t 0x19 + 0x14
abbrev WDG_CNT_EARLY_count (t : Nat) : Fld := ⟨(WDG_CNT_EARLY t), 31, 0⟩
/-- WDG_WIN (Table 16.12, 16_safety_islands_and_fault_handling.md). -/
abbrev WDG_WIN (t : Nat) (i : Nat) : Nat := dieBlk t 0x19 + 0x1000 + i * 0x8
abbrev WDG_WIN_en (t : Nat) (i : Nat) : Fld := ⟨(WDG_WIN t i), 0, 0⟩
abbrev WDG_WIN_react (t : Nat) (i : Nat) : Fld := ⟨(WDG_WIN t i), 1, 1⟩
abbrev WDG_WIN_early_pct (t : Nat) (i : Nat) : Fld := ⟨(WDG_WIN t i), 14, 8⟩
abbrev WDG_WIN_grace_us (t : Nat) (i : Nat) : Fld := ⟨(WDG_WIN t i), 31, 16⟩
/-- WDG_KICK (Table 16.12, 16_safety_islands_and_fault_handling.md). -/
abbrev WDG_KICK : Nat := hubBlk 0x19 + 0x0
abbrev WDG_KICK_window : Fld := ⟨WDG_KICK, 5, 0⟩
/-- WDG_HUB_ERR (Table 16.12, 16_safety_islands_and_fault_handling.md). -/
abbrev WDG_HUB_ERR : Nat := hubBlk 0x19 + 0x8
abbrev WDG_HUB_ERR_window : Fld := ⟨WDG_HUB_ERR, 5, 0⟩
abbrev WDG_HUB_ERR_why : Fld := ⟨WDG_HUB_ERR, 7, 6⟩
abbrev WDG_HUB_ERR_valid : Fld := ⟨WDG_HUB_ERR, 63, 63⟩
/-- WDG_HUB_CNT (Table 16.12, 16_safety_islands_and_fault_handling.md). -/
abbrev WDG_HUB_CNT : Nat := hubBlk 0x19 + 0x10
abbrev WDG_HUB_CNT_count : Fld := ⟨WDG_HUB_CNT, 31, 0⟩
/-- WDG_HUB (Table 16.12, 16_safety_islands_and_fault_handling.md). -/
abbrev WDG_HUB (i : Nat) : Nat := hubBlk 0x19 + 0x1000 + i * 0x8
abbrev WDG_HUB_en (i : Nat) : Fld := ⟨(WDG_HUB i), 0, 0⟩
abbrev WDG_HUB_react (i : Nat) : Fld := ⟨(WDG_HUB i), 1, 1⟩
abbrev WDG_HUB_open_us (i : Nat) : Fld := ⟨(WDG_HUB i), 35, 16⟩
abbrev WDG_HUB_close_us (i : Nat) : Fld := ⟨(WDG_HUB i), 55, 36⟩
/-- RST_CAUSE (Table 17.9, 17_reset_clocks_and_power.md). -/
abbrev RST_CAUSE : Nat := hubBlk 0x1A + 0x0
abbrev RST_CAUSE_por : Fld := ⟨RST_CAUSE, 0, 0⟩
abbrev RST_CAUSE_safety_pin : Fld := ⟨RST_CAUSE, 1, 1⟩
abbrev RST_CAUSE_brownout : Fld := ⟨RST_CAUSE, 2, 2⟩
abbrev RST_CAUSE_reset_pin : Fld := ⟨RST_CAUSE, 3, 3⟩
abbrev RST_CAUSE_watchdog : Fld := ⟨RST_CAUSE, 4, 4⟩
abbrev RST_CAUSE_sw_request : Fld := ⟨RST_CAUSE, 5, 5⟩
abbrev RST_CAUSE_debug : Fld := ⟨RST_CAUSE, 6, 6⟩
abbrev RST_CAUSE_clock_fail : Fld := ⟨RST_CAUSE, 7, 7⟩
abbrev RST_CAUSE_lockup : Fld := ⟨RST_CAUSE, 8, 8⟩
abbrev RST_CAUSE_from_standby : Fld := ⟨RST_CAUSE, 9, 9⟩
abbrev RST_CAUSE_sw_src : Fld := ⟨RST_CAUSE, 13, 12⟩
abbrev RST_CAUSE_app_count : Fld := ⟨RST_CAUSE, 31, 16⟩
/-- RST_REQ (Table 17.9, 17_reset_clocks_and_power.md). -/
abbrev RST_REQ : Nat := hubBlk 0x1A + 0x8
abbrev RST_REQ_op : Fld := ⟨RST_REQ, 9, 8⟩
abbrev RST_REQ_die : Fld := ⟨RST_REQ, 12, 10⟩
/-- RST_DIE_CTRL (Table 17.9, 17_reset_clocks_and_power.md). -/
abbrev RST_DIE_CTRL : Nat := hubBlk 0x1A + 0x10
abbrev RST_DIE_CTRL_auto_rejoin : Fld := ⟨RST_DIE_CTRL, 0, 0⟩
abbrev RST_DIE_CTRL_rejoin_max : Fld := ⟨RST_DIE_CTRL, 7, 4⟩
abbrev RST_DIE_CTRL_hold_us : Fld := ⟨RST_DIE_CTRL, 31, 16⟩
abbrev RST_DIE_CTRL_retry_ms : Fld := ⟨RST_DIE_CTRL, 47, 32⟩
/-- RST_DIE (Table 17.9, 17_reset_clocks_and_power.md). -/
abbrev RST_DIE (i : Nat) : Nat := hubBlk 0x1A + 0x20 + i * 0x8
abbrev RST_DIE_state (i : Nat) : Fld := ⟨(RST_DIE i), 2, 0⟩
abbrev RST_DIE_attempts (i : Nat) : Fld := ⟨(RST_DIE i), 7, 4⟩
abbrev RST_DIE_rejoins (i : Nat) : Fld := ⟨(RST_DIE i), 31, 16⟩
/-- RST_SYSWD (Table 17.9, 17_reset_clocks_and_power.md). -/
abbrev RST_SYSWD : Nat := hubBlk 0x1A + 0x60
abbrev RST_SYSWD_timeout_ms : Fld := ⟨RST_SYSWD, 15, 0⟩
abbrev RST_SYSWD_en : Fld := ⟨RST_SYSWD, 16, 16⟩
/-- RST_SYSWD_KICK (Table 17.9, 17_reset_clocks_and_power.md). -/
abbrev RST_SYSWD_KICK : Nat := hubBlk 0x1A + 0x64
abbrev RST_SYSWD_KICK_kick : Fld := ⟨RST_SYSWD_KICK, 7, 0⟩
/-- RST_BACKUP (Table 17.9, 17_reset_clocks_and_power.md). -/
abbrev RST_BACKUP (i : Nat) : Nat := hubBlk 0x1A + 0x100 + i * 0x4
abbrev RST_BACKUP_value (i : Nat) : Fld := ⟨(RST_BACKUP i), 31, 0⟩
/-- RST_KBACKUP (Table 17.9, 17_reset_clocks_and_power.md). -/
abbrev RST_KBACKUP (i : Nat) : Nat := kyBlk 0x1A + 0x100 + i * 0x4
abbrev RST_KBACKUP_value (i : Nat) : Fld := ⟨(RST_KBACKUP i), 31, 0⟩
/-- CLK_STATUS (Table 17.10, 17_reset_clocks_and_power.md). -/
abbrev CLK_STATUS : Nat := hubBlk 0x1B + 0x0
abbrev CLK_STATUS_ref_ok : Fld := ⟨CLK_STATUS, 0, 0⟩
abbrev CLK_STATUS_locked : Fld := ⟨CLK_STATUS, 1, 1⟩
abbrev CLK_STATUS_holdover : Fld := ⟨CLK_STATUS, 2, 2⟩
abbrev CLK_STATUS_die_locked : Fld := ⟨CLK_STATUS, 15, 8⟩
/-- CLK_CNT_REF_LOSS (Table 17.10, 17_reset_clocks_and_power.md). -/
abbrev CLK_CNT_REF_LOSS : Nat := hubBlk 0x1B + 0x8
abbrev CLK_CNT_REF_LOSS_count : Fld := ⟨CLK_CNT_REF_LOSS, 31, 0⟩
/-- CLK_CNT_UNLOCK (Table 17.10, 17_reset_clocks_and_power.md). -/
abbrev CLK_CNT_UNLOCK : Nat := hubBlk 0x1B + 0xC
abbrev CLK_CNT_UNLOCK_count : Fld := ⟨CLK_CNT_UNLOCK, 31, 0⟩
/-- PWR_STBY (Table 17.11, 17_reset_clocks_and_power.md). -/
abbrev PWR_STBY : Nat := hubBlk 0x1C + 0x0
abbrev PWR_STBY_enter : Fld := ⟨PWR_STBY, 0, 0⟩
abbrev PWR_STBY_in_standby : Fld := ⟨PWR_STBY, 1, 1⟩
/-- PWR_HUB_DOM (Table 17.11, 17_reset_clocks_and_power.md). -/
abbrev PWR_HUB_DOM : Nat := hubBlk 0x1C + 0x8
abbrev PWR_HUB_DOM_dom (n : Nat) : Fld := ⟨PWR_HUB_DOM, n * 2 + 1, n * 2⟩
/-- PWR_DOM (Table 17.11, 17_reset_clocks_and_power.md). -/
abbrev PWR_DOM (t : Nat) : Nat := dieBlk t 0x1C + 0x0
abbrev PWR_DOM_dom (t : Nat) (n : Nat) : Fld := ⟨(PWR_DOM t), n * 2 + 1, n * 2⟩
/-- PWR_CNT_WAKE (Table 17.11, 17_reset_clocks_and_power.md). -/
abbrev PWR_CNT_WAKE (t : Nat) : Nat := dieBlk t 0x1C + 0x8
abbrev PWR_CNT_WAKE_count (t : Nat) : Fld := ⟨(PWR_CNT_WAKE t), 31, 0⟩
/-- PWR_CNT_LATE (Table 17.11, 17_reset_clocks_and_power.md). -/
abbrev PWR_CNT_LATE (t : Nat) : Nat := dieBlk t 0x1C + 0xC
abbrev PWR_CNT_LATE_count (t : Nat) : Fld := ⟨(PWR_CNT_LATE t), 31, 0⟩
/-- PWR_CNT_RET_US (Table 17.11, 17_reset_clocks_and_power.md). -/
abbrev PWR_CNT_RET_US (t : Nat) : Nat := dieBlk t 0x1C + 0x10
abbrev PWR_CNT_RET_US_us (t : Nat) : Fld := ⟨(PWR_CNT_RET_US t), 63, 0⟩
/-- HLT_CTRL (Table 18.9, 18_spares_health_and_joined_systems.md). -/
abbrev HLT_CTRL : Nat := hubBlk 0x1D + 0x0
abbrev HLT_CTRL_burn_en : Fld := ⟨HLT_CTRL, 0, 0⟩
abbrev HLT_CTRL_adv_score : Fld := ⟨HLT_CTRL, 15, 8⟩
abbrev HLT_CTRL_lp_ref_ps : Fld := ⟨HLT_CTRL, 23, 16⟩
abbrev HLT_CTRL_vmin_lim_mv : Fld := ⟨HLT_CTRL, 31, 24⟩
/-- HLT_SCORE (Table 18.9, 18_spares_health_and_joined_systems.md). -/
abbrev HLT_SCORE : Nat := hubBlk 0x1D + 0x8
abbrev HLT_SCORE_score : Fld := ⟨HLT_SCORE, 7, 0⟩
abbrev HLT_SCORE_worst : Fld := ⟨HLT_SCORE, 10, 8⟩
abbrev HLT_SCORE_adv_cause : Fld := ⟨HLT_SCORE, 13, 11⟩
abbrev HLT_SCORE_advisory : Fld := ⟨HLT_SCORE, 16, 16⟩
abbrev HLT_SCORE_withdraw : Fld := ⟨HLT_SCORE, 17, 17⟩
/-- HLT_COMP (Table 18.9, 18_spares_health_and_joined_systems.md). -/
abbrev HLT_COMP : Nat := hubBlk 0x1D + 0x10
abbrev HLT_COMP_comp (n : Nat) : Fld := ⟨HLT_COMP, n * 8 + 7, n * 8⟩
/-- HLT_WITHDRAW (Table 18.9, 18_spares_health_and_joined_systems.md). -/
abbrev HLT_WITHDRAW : Nat := hubBlk 0x1D + 0x18
abbrev HLT_WITHDRAW_cause : Fld := ⟨HLT_WITHDRAW, 2, 0⟩
abbrev HLT_WITHDRAW_event : Fld := ⟨HLT_WITHDRAW, 31, 16⟩
/-- HLT_SPARES (Table 18.9, 18_spares_health_and_joined_systems.md). -/
abbrev HLT_SPARES : Nat := hubBlk 0x1D + 0x20
abbrev HLT_SPARES_spare (n : Nat) : Fld := ⟨HLT_SPARES, n * 4 + 1, n * 4⟩
abbrev HLT_SPARES_fuses_used : Fld := ⟨HLT_SPARES, 38, 32⟩
/-- HLT_CNT_SWAP (Table 18.9, 18_spares_health_and_joined_systems.md). -/
abbrev HLT_CNT_SWAP : Nat := hubBlk 0x1D + 0x28
abbrev HLT_CNT_SWAP_count : Fld := ⟨HLT_CNT_SWAP, 31, 0⟩
/-- HLT_CNT_ADV_SUPP (Table 18.9, 18_spares_health_and_joined_systems.md). -/
abbrev HLT_CNT_ADV_SUPP : Nat := hubBlk 0x1D + 0x2C
abbrev HLT_CNT_ADV_SUPP_count : Fld := ⟨HLT_CNT_ADV_SUPP, 31, 0⟩
/-- HLT_CNT_UNAVAIL_US (Table 18.9, 18_spares_health_and_joined_systems.md). -/
abbrev HLT_CNT_UNAVAIL_US : Nat := hubBlk 0x1D + 0x30
abbrev HLT_CNT_UNAVAIL_US_us : Fld := ⟨HLT_CNT_UNAVAIL_US, 63, 0⟩
/-- HLT_VMIN (Table 18.9, 18_spares_health_and_joined_systems.md). -/
abbrev HLT_VMIN (i : Nat) : Nat := hubBlk 0x1D + 0x100 + i * 0x4
abbrev HLT_VMIN_drift_mv (i : Nat) : Fld := ⟨(HLT_VMIN i), 7, 0⟩
/-- JSY_ROLE (Table 18.10, 18_spares_health_and_joined_systems.md). -/
abbrev JSY_ROLE : Nat := hubBlk 0x1E + 0x0
abbrev JSY_ROLE_part_index : Fld := ⟨JSY_ROLE, 13, 0⟩
abbrev JSY_ROLE_role : Fld := ⟨JSY_ROLE, 17, 16⟩
/-- JSY_GROUP (Table 18.10, 18_spares_health_and_joined_systems.md). -/
abbrev JSY_GROUP : Nat := hubBlk 0x1E + 0x8
abbrev JSY_GROUP_master : Fld := ⟨JSY_GROUP, 13, 0⟩
abbrev JSY_GROUP_master_mac : Fld := ⟨JSY_GROUP, 63, 16⟩
/-- JSY_MEMBERS (Table 18.10, 18_spares_health_and_joined_systems.md). -/
abbrev JSY_MEMBERS : Nat := hubBlk 0x1E + 0x10
abbrev JSY_MEMBERS_base : Fld := ⟨JSY_MEMBERS, 47, 0⟩
/-- JSY_STEP (Table 18.10, 18_spares_health_and_joined_systems.md). -/
abbrev JSY_STEP : Nat := hubBlk 0x1E + 0x18
abbrev JSY_STEP_step : Fld := ⟨JSY_STEP, 63, 0⟩
/-- JSY_CKPT (Table 18.10, 18_spares_health_and_joined_systems.md). -/
abbrev JSY_CKPT : Nat := hubBlk 0x1E + 0x20
abbrev JSY_CKPT_every : Fld := ⟨JSY_CKPT, 15, 0⟩
abbrev JSY_CKPT_port : Fld := ⟨JSY_CKPT, 18, 16⟩
/-- JSY_CKPT_DEST (Table 18.10, 18_spares_health_and_joined_systems.md). -/
abbrev JSY_CKPT_DEST : Nat := hubBlk 0x1E + 0x28
abbrev JSY_CKPT_DEST_mac : Fld := ⟨JSY_CKPT_DEST, 47, 0⟩
abbrev JSY_CKPT_DEST_vlan : Fld := ⟨JSY_CKPT_DEST, 59, 48⟩
/-- JSY_CKPT_STATUS (Table 18.10, 18_spares_health_and_joined_systems.md). -/
abbrev JSY_CKPT_STATUS : Nat := hubBlk 0x1E + 0x30
abbrev JSY_CKPT_STATUS_sent : Fld := ⟨JSY_CKPT_STATUS, 31, 0⟩
abbrev JSY_CKPT_STATUS_acked : Fld := ⟨JSY_CKPT_STATUS, 62, 32⟩
abbrev JSY_CKPT_STATUS_sending : Fld := ⟨JSY_CKPT_STATUS, 63, 63⟩
/-- JSY_TWIN (Table 18.10, 18_spares_health_and_joined_systems.md). -/
abbrev JSY_TWIN : Nat := hubBlk 0x1E + 0x38
abbrev JSY_TWIN_twin : Fld := ⟨JSY_TWIN, 13, 0⟩
abbrev JSY_TWIN_twin_mac : Fld := ⟨JSY_TWIN, 63, 16⟩
/-- JSY_JOIN (Table 18.10, 18_spares_health_and_joined_systems.md). -/
abbrev JSY_JOIN : Nat := hubBlk 0x1E + 0x40
abbrev JSY_JOIN_step : Fld := ⟨JSY_JOIN, 63, 0⟩
/-- JSY_REGION (Table 18.10, 18_spares_health_and_joined_systems.md). -/
abbrev JSY_REGION (i : Nat) : Nat := hubBlk 0x1E + 0x100 + i * 0x8
abbrev JSY_REGION_base (i : Nat) : Fld := ⟨(JSY_REGION i), 47, 0⟩
abbrev JSY_REGION_size_64k (i : Nat) : Fld := ⟨(JSY_REGION i), 62, 48⟩
/-- JSY_CNT_IGNORED (Table 18.10, 18_spares_health_and_joined_systems.md). -/
abbrev JSY_CNT_IGNORED : Nat := hubBlk 0x1E + 0x200
abbrev JSY_CNT_IGNORED_count : Fld := ⟨JSY_CNT_IGNORED, 31, 0⟩
/-- JSY_CNT_SKIP (Table 18.10, 18_spares_health_and_joined_systems.md). -/
abbrev JSY_CNT_SKIP : Nat := hubBlk 0x1E + 0x204
abbrev JSY_CNT_SKIP_count : Fld := ⟨JSY_CNT_SKIP, 31, 0⟩
/-- JSY_CNT_REFUSED (Table 18.10, 18_spares_health_and_joined_systems.md). -/
abbrev JSY_CNT_REFUSED : Nat := hubBlk 0x1E + 0x208
abbrev JSY_CNT_REFUSED_count : Fld := ⟨JSY_CNT_REFUSED, 31, 0⟩

end Sys2Proof.Machine.Reg
end

