-- ==== Sys2Proof/Machine/SMap.lean ====
section
/-! DEFINITION. Sparse maps in one canonical form: a list of (key, value) pairs, keys strictly rising, no entry
equal to what an unlisted key reads as. Registers, memories and every numbered collection of the part are held in
this form, so that equal contents are equal data. -/

namespace Sys2Proof.Machine

/-- Key and value pairs in the canonical form. -/
abbrev SMap (α : Type) := List (Nat × α)

/-- What key `k` holds: `d` where nothing is listed for it. -/
def smGet {α : Type} (d : α) : SMap α → Nat → α
  | [], _ => d
  | (k', v) :: m, k => if k = k' then v else smGet d m k

/-- The map with the pair (k, v) listed, before the first greater key. -/
def smIns {α : Type} : SMap α → Nat → α → SMap α
  | [], k, v => [(k, v)]
  | (k', v') :: m, k, v =>
    if k < k' then (k, v) :: (k', v') :: m
    else if k = k' then (k, v) :: m
    else (k', v') :: smIns m k v

/-- The map with `v` at key `k`, where `d` is what `k` reads as when unlisted. -/
def smPut {α : Type} [DecidableEq α] (d : α) (m : SMap α) (k : Nat) (v : α) : SMap α :=
  if v = d then m.filter fun e => decide (e.1 ≠ k) else smIns m k v

/-- A key lies above the last key before it. -/
def smAfter : Option Nat → Nat → Bool
  | none, _ => true
  | some l, k => decide (l < k)

/-- The keys rise strictly from above `lo` and no value equals the unlisted value of its key. -/
def smWfFrom {α : Type} [DecidableEq α] (d : Nat → α) : Option Nat → SMap α → Bool
  | _, [] => true
  | lo, (k, v) :: m =>
    smAfter lo k && decide (v ≠ d k) && smWfFrom d (some k) m

/-- The canonical form, for the unlisted values `d`. -/
def smWf {α : Type} [DecidableEq α] (d : Nat → α) (m : SMap α) : Bool := smWfFrom d none m

/-- A run of bytes stored at consecutive keys from `k`. -/
def smPutBytes (m : SMap Byte) : Nat → List Byte → SMap Byte
  | _, [] => m
  | k, b :: bs => smPutBytes (smPut 0 m k b) (k + 1) bs

/-- `n` bytes at consecutive keys from `k`. -/
def smGetBytes (m : SMap Byte) (k : Nat) : Nat → List Byte
  | 0 => []
  | n + 1 => smGet 0 m k :: smGetBytes m (k + 1) n

/-- Entries whose key fails the test are dropped (they read as unlisted). -/
def smKeep {α : Type} (p : Nat → Bool) (m : SMap α) : SMap α := m.filter fun e => p e.1

end Sys2Proof.Machine
end

