-- ==== Sys2Proof/Machine/State.lean ====
section
/-! DEFINITION. The state of the part: everything the spec gives it, as plain data, and the state right after power-on
reset. Structures follow the blocks of Table 20.1. -/

namespace Sys2Proof.Machine

/-- What is fixed per part at manufacture and by the board (R3, R14, R26, R27, R551 and the registers whose reset the
spec gives as "per part"). No command changes it; statements hold for every value of it. -/
structure PartCfg where
  /-- compute dies, 2, 4 or 8 (R14) -/
  tzCount : Nat
  /-- P suffix: a partner die is fitted -/
  partner : Bool
  stepMajor : Nat
  stepMinor : Nat
  /-- bit t: die t has 32 GiB attached (PKG_MEM_SIZE) -/
  near32 : Nat
  bulkGib : Nat
  /-- station address of the OHP endpoint (OHP_MAC reset) -/
  mac : Nat
  /-- DeviceID Ed25519 public key, 4 words (SEC_ID_ED) -/
  idEd : List Word
  /-- logical map of production test, per die: physical engine of logical 0–15 (ENG_LMAP resets) -/
  lmap : List (List Nat)
  /-- engines failed at production test, per die, bit per physical engine -/
  engFail : List Nat
  /-- columns failed at production test: key t × 32 + e, 68-bit mask (production fuses) -/
  colFail : SMap Nat
  /-- SRAM minimum voltage of each die at production test, mV (R506) -/
  vmin0 : List Nat
  /-- the ratio fused for each sentinel, by t × 32 + d, in thousandths of a Mbeat/s per ring completion in a sample window (R42) -/
  paceRatio : SMap Nat := []
deriving DecidableEq, Repr

/-- One raised event (R546, Table 20.3). -/
structure Event where
  time : Nat
  code : Nat
  origin : Nat
  unit : Nat
  detail : Nat
  /-- the die that a Kysta event is about, where its record does not name one (R460) -/
  about : Nat := 0xFF
deriving DecidableEq, Repr

/-- The staged value of a register: the bits written since the block's last boundary, and their values (R11, R407). -/
structure Staged where
  mask : Nat := 0
  val : Nat := 0
deriving DecidableEq, Repr

/-- An OHP message the part sends (Table 13.4), with its port, destination address and VLAN. -/
structure OhpMsg where
  port : Nat := 0
  mac : Nat := 0
  vlan : Nat := 0
  /-- priority of the frame that carries it -/
  pcp : Nat := 0
  /-- IPv4 address and UDP port of the destination where OHP runs over UDP -/
  ip : Nat := 0
  udp : Nat := 0
  typ : Nat
  flags : Nat := 0
  seq : Nat := 0
  dstPart : Nat := 0
  srcPart : Nat := 0
  unit : Nat := 0
  status : Nat := 0
  role : Nat := 0
  txTime : Nat := 0
  payload : List Byte := []
deriving DecidableEq, Repr

/-- What the part sends or hands over: OHP messages, other Ethernet frames, PFP messages on a link module, data of an
SMP read, and the completion of a package access at its requester. -/
inductive Msg where
  | ohp (m : OhpMsg)
  /-- an OHP message that carries device data and whose frame was ended with its FCS inverted (R368) -/
  | ohpBad (m : OhpMsg)
  /-- a gPTP peer-delay request: port and its origin time -/
  | pdelay (port time : Nat)
  /-- a two-step gPTP Sync: port and its origin time -/
  | sync (port time : Nat)
  /-- an Ethernet frame that carries no OHP message -/
  | frame (port : Nat) (bytes : List Byte)
  /-- a PFP message: module (0–7 hub spokes, 8 partner, 16 + 4 t + m module m of die t), its op and its bytes -/
  | pfp (module op : Nat) (bytes : List Byte)
  /-- the flit that a link module sends in a flit-clock cycle -/
  | flit (module : Nat) (bytes : List Byte)
  /-- a sideband message to the partner: PARAM_GRANT -/
  | grant (word : Nat)
  | smp (bytes : List Byte)
  /-- completion of an access: source and agent, address, data, the difference of the check value read from the correct
  one, and the error: 0 none, 1 + kind of PKG_DECODE_ERR for an undecodable access, 5 timeout, 6 refused or failed -/
  | done (src agent addr : Nat) (data : List Byte) (chk err : Nat)
deriving DecidableEq, Repr

/-- An OHP message the endpoint has queued (R372, R376): the way back to its sender, its header fields and its payload. -/
structure OhpIn where
  port : Nat
  mac : Nat
  vlan : Nat
  ip : Nat := 0
  udp : Nat := 0
  typ : Nat
  flags : Nat
  seq : Nat
  dstPart : Nat
  srcPart : Nat
  unit : Nat
  status : Nat
  role : Nat
  txTime : Nat
  payload : List Byte
deriving DecidableEq, Repr

/-- One pace domain's filter and fault state (R43–R45). -/
structure PaceDom where
  /-- the last samples, newest first, at most 16 (R43) -/
  hist : List Nat := []
  /-- consecutive samples that met each condition of R44, in its order -/
  bad : List Nat := [0, 0, 0]
  /-- headroom_exhausted of R45 -/
  exhausted : Bool := false
deriving DecidableEq, Repr

/-- An AVSBus transaction in progress: a voltage write of a value in mV, or a Status read (R50). -/
structure AvsTrans where
  volt : Option Nat
  retries : Nat := 0
deriving DecidableEq, Repr

/-- The voltage loop of one compute die (R45–R51). -/
structure PaceDie where
  /-- rail in force, mV -/
  rail : Nat := 850
  /-- last acknowledged rail command, mV -/
  acked : Nat := 850
  /-- a rail raise is in progress (R48) -/
  raising : Bool := false
  /-- since when every setpoint has been below rail − 80 mV (R47) -/
  lowSince : Option Time := none
  avs : Option AvsTrans := none
  /-- latest raising of 0x1044 and of 0x1048 while avs_fault is set (R50) -/
  lastRetry : Option Time := none
  lastFail : Option Time := none
  /-- since when every ON domain has been at or above the clear threshold (Table 2.5) -/
  okSince : Option Time := none
deriving DecidableEq, Repr

/-- A fusion section (Table 11.3). Coordinates are FP32 bits. -/
structure FusSec where
  planId : Nat
  nx : Nat
  ny : Nat
  c : Nat
  fmt : Nat
  cell : Nat
  gx0 : Nat
  gy0 : Nat
  zmin : Nat
  zmax : Nat
  owner : List Nat
  slab : List Nat
  /-- the magic is right and no reserved field is set -/
  headOk : Bool := true
deriving DecidableEq, Repr

/-- Instants and calibration beyond the FUS registers (R308–R313). -/
structure FusState where
  /-- Device Time of the boundary that opened the running instant -/
  start : Time := 0
  /-- the first instant has begun -/
  started : Bool := false
  /-- writes to the next bank held by R313, oldest first: sensor, 32-bit word, value -/
  held : List (Nat × Nat × Nat) := []
deriving DecidableEq, Repr

/-- A valid detection in the odometry frame (R325): values as FP32 bits, its measurement time (R314). -/
structure Detection where
  x : Nat
  y : Nat
  rxx : Nat
  rxy : Nat
  ryy : Nat
  cls : Nat
  score : Nat
  attr : List Byte
  t : Time
deriving DecidableEq, Repr

/-- A filter's state: the elements of Table 11.6 and P row by row, as FP32 bits, and the time they hold for. -/
structure Kalman where
  x : List Nat
  p : List Nat
  t : Time
deriving DecidableEq, Repr

/-- A live track (R332, Table 11.7). -/
structure Track where
  slot : Nat
  id : Nat
  cls : Nat
  model : Nat
  confirmed : Bool
  hist : Nat
  misses : Nat
  age : Nat
  kf : Kalman
  tUpd : Time
  score : Nat
  attr : List Byte
deriving DecidableEq, Repr

/-- What the Track Keeper retains of one track in one instant (R335). -/
structure TrackPast where
  slot : Nat
  kf : Kalman
  det : Option Detection
deriving DecidableEq, Repr

/-- What it retains of one instant. -/
structure InstantPast where
  inst : Nat
  tref : Time
  tracks : List TrackPast
deriving DecidableEq, Repr

/-- The Track Keeper beyond the TRK registers and TRK memory (chapter 11). -/
structure TrkState where
  /-- live tracks in ascending slot -/
  tracks : List Track := []
  /-- retained instants, newest first -/
  past : List InstantPast := []
  nextId : Nat := 0
  /-- instant of the last list consumed from buffer k × 4 + m, plus one -/
  consumed : SMap Nat := []
  /-- instant of the latest update, plus one -/
  done : Nat := 0
  /-- consecutive instants in which the copies differed, and the latest of them plus one (R338) -/
  differ : Nat := 0
  differAt : Nat := 0
  /-- slots deleted at the boundary of the running instant, free at its end (R332) -/
  freed : List Nat := []
  /-- px, py and pyaw of the last on-time list processed, FP32 bits -/
  pose : List Nat := [0, 0, 0]
deriving DecidableEq, Repr

/-- A bucket record (Table 8.2). Block fields count 256-byte units. -/
structure KvBucket where
  bound : Nat
  cap : Nat
  bulkMax : Nat
  batchBlk : Nat
  fillBlk : Nat
  drainBlk : Nat
  ringBlk : Nat
  ringPages : Nat
  drainLoc : Nat
  resv : Bool := false
deriving DecidableEq, Repr

/-- A serving die record (Table 8.3). -/
structure KvDie where
  die : Nat
  metaBase : Nat
  poolBase : Nat
  poolFrames : Nat
  bulkFrames : Nat
  bulkBase : Nat
  hkBlk : Nat
  stageBlk : Nat
  resv : Bool := false
deriving DecidableEq, Repr

/-- A serving record (Table 8.1) with its buckets and its die records in ascending die. -/
structure KvRec where
  part : Nat
  layout : Nat
  walkSafe : Bool
  highPct : Nat
  prefetch : Nat
  maxSeqs : Nat
  pageBlocks : Nat
  stepTokens : Nat
  hkPages : Nat
  reqMax : Nat
  reqBlk : Nat
  reqLg : Nat
  compBlk : Nat
  compLg : Nat
  buckets : List KvBucket
  dies : List KvDie
  resv : Bool := false
deriving DecidableEq, Repr

/-- A target frame of a drained page of a slot (R241): die, page-table entry, near frame, and whether it was RESERVED for it. -/
structure KvTarget where
  die : Nat
  entry : Nat
  frame : Nat
  fresh : Bool
deriving DecidableEq, Repr

/-- A sequence of a step's batch (R239): bucket, sequence, length and tokens taken, with its drain targets. -/
structure KvSlot where
  bucket : Nat
  seq : Nat
  len : Nat
  a : Nat
  targets : List KvTarget
deriving DecidableEq, Repr

/-- A housekeeping move of a step (R244): a spill (near to bulk) or a prefetch. -/
structure KvMove where
  die : Nat
  spill : Bool
  src : Nat
  dst : Nat
deriving DecidableEq, Repr

/-- A serving step released and not yet retired (R227–R230). -/
structure KvStep where
  graph : Nat
  inst : Nat
  part : Nat
  epoch : Nat
  slots : List KvSlot
  moves : List KvMove
  /-- the walk has ended (R246) -/
  walked : Bool := false
  /-- dies whose walker read a metadata block that fails its check value, or whose tables differ (R248) -/
  bad : List Nat := []
deriving DecidableEq, Repr

/-- A completion with status 4 that its ring had no room for (R250). -/
structure KvOwed where
  kv : KvRec
  seq : Nat
  len : Nat
  tag : Nat
  epoch : Nat
deriving DecidableEq, Repr

/-- Serving beyond the KVW registers and the metadata in memory (chapter 8). -/
structure KvState where
  /-- steps in flight, oldest first -/
  steps : List KvStep := []
  /-- translation buffers by die × 32 + engine: blocks of page tables as (partition, sequence, block), latest used first -/
  tb : SMap (List (Nat × Nat × Nat)) := []
  /-- dies whose walker is to be replaced by the steward core from the next step (R247) -/
  takeover : List Nat := []
  /-- completions of discarded state that wait for room in their ring, oldest first (R250) -/
  owed : List KvOwed := []
deriving DecidableEq, Repr

/-- A die record of a partition (Table 5.2). `resv`: some reserved field is not zero. -/
structure DieRec where
  die : Nat
  slot : Nat
  engMask : Nat
  chanMask : Nat
  wayMask : Nat
  wdgBase : Nat
  nearBase : Nat
  nearSize : Nat
  wdgCount : Nat
  budNear : Nat
  budShared : Nat
  budRemote : Nat
  budBulk : Nat
  resv : Bool := false
deriving DecidableEq, Repr

/-- A partition record (R139, Table 5.2): head, mode table of 32 entries, die records in ascending die. -/
structure PartRec where
  part : Nat
  dieMask : Nat
  models : List Nat
  dies : List DieRec
  resv : Bool := false
deriving DecidableEq, Repr

/-- A model record: index, first weight reference, number of weight references. -/
structure ModelRec where
  idx : Nat
  first : Nat
  count : Nat
  resv : Bool := false
deriving DecidableEq, Repr

/-- A dependence entry (R151). -/
structure Dep where
  task : Nat
  graph : Nat
  ext : Bool
  inst : Nat
  resv : Bool := false
deriving DecidableEq, Repr

/-- A task descriptor (R147, Table 5.5). -/
structure TaskDesc where
  kind : Nat
  chained : Bool := false
  pin : Bool := false
  pinEngine : Nat := 0
  syncKind : Nat := 0
  listBlk : Nat := 0
  listLen : Nat := 0
  cost : Nat := 0
  deadline : Nat := 0
  seed : Nat := 0
  earliest : Nat := 0
  depFirst : Nat := 0
  depCount : Nat := 0
  stage : Nat := 0
  rdNear : Nat := 0
  wrNear : Nat := 0
  rdShared : Nat := 0
  wrShared : Nat := 0
  rdRemote : Nat := 0
  wrRemote : Nat := 0
  rdBulk : Nat := 0
  wrBulk : Nat := 0
  resv : Bool := false
deriving DecidableEq, Repr

/-- A graph record (R144, Table 5.3) with its task descriptors and its dependence array. `nTasks` and `nDeps` are the
record's counts; `inside`: both arrays lie inside the section. -/
structure GraphRec where
  id : Nat
  model : Nat
  gkind : Nat
  part : Nat
  reps : Nat
  offset : Nat
  interval : Nat
  nTasks : Nat
  nDeps : Nat
  tasks : List TaskDesc
  deps : List Dep
  resv : Bool := false
  inside : Bool := true
deriving DecidableEq, Repr

/-- A plan section (R134, Table 5.1) with the records it points to. `headOk`: magic, version and size are right and no
reserved field of the header is set; `inside`: every record lies inside size. -/
structure Plan where
  headOk : Bool
  inside : Bool
  kind : Nat
  lostDie : Nat
  planId : Nat
  periodUs : Nat
  nModes : Nat
  initMode : Nat
  nPart : Nat
  nModels : Nat
  nGraphs : Nat
  margin : Nat
  trans : List Nat
  parts : List PartRec
  models : List ModelRec
  graphs : List GraphRec
deriving DecidableEq, Repr

/-- Where placement puts a task (R175): a die and an executor as in Table 6.5 (0–15 unit port, 16–31 MOVE port,
32 warp unit, 63 none). -/
structure Placed where
  graph : Nat
  task : Nat
  die : Nat
  exec : Nat
deriving DecidableEq, Repr

/-- A schedule table entry (Table 6.5) of one die and one mode. -/
structure SchedEntry where
  mode : Nat
  die : Nat
  release : Nat
  bound : Nat
  graph : Nat
  inst : Nat
  task : Nat
  exec : Nat
  window : Nat
  slot : Nat
  gateAfter : Bool := false
deriving DecidableEq, Repr

/-- The entry list of one task as the image or the host gives it (R150): the list's bytes. -/
structure ListCopy where
  graph : Nat
  task : Nat
  bytes : List Byte
deriving DecidableEq, Repr

/-- A plan that admission has accepted: its placement, its frozen tables for every mode, its entry lists. -/
structure PlanRec where
  plan : Plan
  placed : List Placed
  table : List SchedEntry
  lists : List ListCopy
  fusion : Option FusSec := none
  serving : List KvRec := []
deriving DecidableEq, Repr

/-- A graph submitted by the host (R190): the graph, the request it came with, and once admitted its placement, entries and bound. -/
structure Submitted where
  graph : GraphRec
  lists : List ListCopy := []
  req : OhpIn
  placed : List Placed := []
  table : List SchedEntry := []
  bound : Nat := 0
deriving DecidableEq, Repr

/-- Plans, schedule tables and what is due at the next boundary (chapters 5 and 6). The plan in force, its mode and
its period are also shown in PLN_STATUS and PLN_PERIOD. -/
structure PlanState where
  plans : List PlanRec := []
  /-- index of the plan in force -/
  cur : Option Nat := none
  /-- Device Time of the boundary that opened the period, and of the first boundary placed by boot commit -/
  start : Time := 0
  /-- submitted graphs awaiting a verdict, accepted and awaiting a boundary, and entered (R190) -/
  queued : List Submitted := []
  accepted : List Submitted := []
  entered : List Submitted := []
  /-- graphs pre-empted, with a pre-emption pending, with a resume pending (R186, R189) -/
  preempted : List Nat := []
  preemptPend : List Nat := []
  resumePend : List Nat := []
  /-- dies declared lost since the last boundary, in order (Table 6.8) -/
  lossDue : List Nat := []
  /-- when the latest of them was declared; of dies declared lost at one time the lower comes first -/
  lossAt : Time := 0
  /-- how many of them were declared before that time -/
  lossTied : Nat := 0
  /-- whole periods the package has been out of pace alarm, and whether an alarm was seen in the running period -/
  quiet : Nat := 0
  alarmSeen : Bool := false
  /-- partitions lost (R142) -/
  lost : List Nat := []
  /-- dies declared lost and not yet back (Table 6.9) -/
  lostDies : List Nat := []
deriving DecidableEq, Repr

/-- How far a task instance has come (R152, R160). -/
inductive RunSt where
  | waiting
  | running
  | ended
  | aborted
deriving DecidableEq, Repr

/-- A task instance of the period (R41, R181–R184, R453). Times in `release` and `bound` count from the boundary. -/
structure TaskRun where
  graph : Nat
  inst : Nat
  task : Nat
  die : Nat
  exec : Nat
  slot : Nat
  window : Nat
  release : Nat
  bound : Nat
  /-- start of the period from which release and bound count, where it is not the running one (log entry 52) -/
  origin : Option Time := none
  gateAfter : Bool := false
  st : RunSt := .waiting
  /-- the release time has been reached (the entry was issued, or is held by R181) -/
  due : Bool := false
  withheld : Bool := false
  /-- Device Time of its release, its start and its end -/
  relAt : Time := 0
  started : Time := 0
  ended : Time := 0
  /-- physical engine the task runs on -/
  phys : Nat := 0
  /-- armed watch: its close time and the minimum run time (R453) -/
  close : Option Time := none
  minRun : Nat := 0
  /-- position of the next entry of the task's list -/
  pos : Nat := 0
  /-- codes raised at most once per task -/
  once : List Nat := []
  /-- a strike was taken from this task (R435) -/
  struck : Bool := false
  /-- blocks issued per class NEAR, SHARED, REMOTE, BULK (R149, R219) -/
  blocks : List Nat := [0, 0, 0, 0]
  /-- when the last block it has issued leaves its port by the pacing of R218 -/
  until_ : Time := 0
  /-- calibration bank in force at the start token (R313) -/
  bank : Nat := 0
deriving DecidableEq, Repr

/-- A graph instance of the period. -/
structure InstRun where
  released : Bool := false
  retired : Bool := false
  withheld : Bool := false
  /-- codes raised at most once per graph instance -/
  once : List Nat := []
  /-- its release: Device Time and PLN_PERIOD_CNT (R378), and its job-step number (R514) -/
  at_ : Time := 0
  period : Nat := 0
  step : Nat := 0
deriving DecidableEq, Repr

/-- A package access on its way (chapter 7, Table 12.4): the requester, the bytes, whether it writes, and its ordering
keys. -/
structure MemReq where
  src : Nat
  agent : Nat
  addr : Nat
  len : Nat
  write : Bool := false
  data : List Byte := []
  /-- 0–3 NEAR, SHARED, REMOTE, BULK of a partition's port; 4 a system port -/
  cls : Nat := 4
  /-- place of a system port in the static order of Table 7.5 -/
  sys : Nat := 0
  /-- the task that issued it -/
  run : Option Nat := none
  /-- Device Time from which it was ready, and the time it issues at the port (R218, R221) -/
  ready : Time := 0
  issue : Time := 0
  /-- die of the resource it waits at, 8 the bulk tier, and since when (R201, R214) -/
  home : Nat := 8
  arr : Time := 0
  /-- beats of 64 bytes served of it, and the worst its error checker found so far (R200) -/
  beat : Nat := 0
  ecc : Nat := 0
  /-- tag of a partner's request -/
  tag : Nat := 0
  /-- an atomic combine: operation and format (R109) -/
  comb : Option (Nat × Nat) := none
  /-- check-value difference that a whole-block write carries -/
  chk : Nat := 0
  /-- the link request it belongs to, when it crosses a link -/
  link : Option Nat := none
deriving DecidableEq, Repr

/-- Memory and regulation state beyond the MEM and BWR registers (chapter 7). -/
structure MemState where
  /-- Device Time of the access captured in PKG_DECODE_ERR (R31) -/
  decodeAt : Option Time := none
  /-- interleave keys: t K_near of die t, 8 + t K_ss of die t, 16 K_bulk (R208) -/
  keys : SMap Nat := []
  /-- blocks held at their port by pacing, and requests waiting at their resource, in order of arrival (R218, R221) -/
  held : List MemReq := []
  waiting : List MemReq := []
  /-- nanoseconds not yet counted in BWR_CNT_HOLD, by die × 32 + slot × 4 + class (R550) -/
  holdRem : SMap Nat := []
  /-- the run of blocks that a system port is issuing: when its first one issued, and how many have, by resource × 8 + port: near memory die × 8 +
  channel, 64 the bulk tier, 65 + t the shared store of die t (R223) -/
  sysFrom : SMap Time := []
  sysCnt : SMap Nat := []
  /-- patrol scrub: next data block of each channel, by die × 8 + channel, die 8 the bulk tier (R213) -/
  scrub : SMap Nat := []
  /-- when the running pass of the scrubber over a channel began -/
  scrubFrom : SMap (Option Time) := []
  /-- accesses and row misses of a channel at the start of its 1 s window (R209) -/
  winAcc : SMap Nat := []
  winMiss : SMap Nat := []
  /-- Device Time of the latest 0x0205 of a channel (R209) -/
  missAt : SMap Nat := []
  /-- start of its running 1 s window -/
  winFrom : SMap Time := []
  /-- last refresh, last WCK2DQ check, last MR4 poll and last eye measurement of a channel, and its WCK2DQ delay in steps (R202) -/
  refreshAt : SMap Time := []
  wckAt : SMap Time := []
  wckDelay : SMap Int := []
  mr4At : SMap Time := []
  eyeAt : SMap (Option Time) := []
  /-- retrainings of a channel that have failed in succession (R215) -/
  retrainFail : SMap Nat := []
deriving DecidableEq, Repr

/-- The Device Time base beyond the ING registers (R255–R263). -/
structure TimeState where
  /-- consecutive Syncs with the phase error within ±1 µs -/
  near : Nat := 0
  /-- Device Time of the last valid Sync, and its interval in ns -/
  syncAt : Time := 0
  syncNs : Nat := 0
  /-- LOCKED has been entered; the offset target awaits the first Sync of a new grandmaster -/
  everLocked : Bool := false
  /-- a plan-period boundary has passed since power-on -/
  everBoundary : Bool := false
  /-- the phase error is beyond ±100 µs -/
  far : Bool := false
  /-- size of the phase error at which the rate correction reached its limit (R260) -/
  limPhase : Nat := 0
  /-- clockIdentity of the grandmaster that the servo follows: 0 none yet, 2^64 the part itself (R259) -/
  gm : Nat := 0
  /-- last Sync transmitted as grandmaster -/
  sentAt : Option Time := none
  /-- last time beacon of each die; the value at which a copy found ahead is held; dies whose next beacon carries the boot
  step, and that step in ns (R262, R263) -/
  beaconAt : SMap Time := []
  held : SMap Time := []
  stepDue : List Nat := []
  stepBy : Nat := 0
deriving DecidableEq, Repr

/-- A trigger output (R264, R265). -/
structure TrigState where
  /-- edges produced, by their nominal times, newest first, as many as a frame can pair with -/
  edges : List Time := []
  /-- the latest nominal edge produced or skipped -/
  seen : Option Time := none
  off : Option Time := none
  /-- its fields changed since the last edge -/
  changed : Bool := false
deriving DecidableEq, Repr

/-- A frame in reception, or received and awaiting the pipeline. Rectangles are x, y, w, h. -/
structure Frame where
  stamp : Time
  counter : Nat := 0
  d : Int := 0
  corrupt : Bool := false
  dropped : Bool := false
  /-- a payload block carries a wrong check value -/
  poisoned : Bool := false
  roiSrc : Nat := 0xF
  crops : List (Nat × Nat × Nat × Nat) := []
  /-- output buffer taken -/
  buf : Nat := 0
  /-- profile in force at the Frame Start, 32 words -/
  prof : List Nat := []
  data : List Byte := []
deriving DecidableEq, Repr

/-- A complete frame: its output is written (R278). -/
structure DoneFrame where
  stamp : Time
  counter : Nat
  d : Int
  roiSrc : Nat
  buf : Nat
  done : Time
deriving DecidableEq, Repr

/-- A sensor beyond its registers (R271–R281, R294, R456). -/
structure Sensor where
  cur : Option Frame := none
  /-- ended frames awaiting the pipeline, oldest first -/
  queue : List Frame := []
  /-- complete frames, newest first -/
  done : List DoneFrame := []
  /-- buffers named in the two most recent instant sets -/
  named : List (List Nat) := []
  nextBuf : Nat := 0
  prev : Option (Time × Nat) := none
  /-- frame counter of the previous frame, for repetition (R457) -/
  prevCnt : Option Nat := none
  /-- frame counter of the latest frame evaluated since OFF, for gaps (R276) -/
  gapCnt : Option Nat := none
  pairing : Option Nat := none
  /-- latest capture, or entry into LOCKING (R276) -/
  since : Time := 0
  /-- signatures of previous frames, newest first -/
  sigs : List Nat := []
  /-- instants of the region sets that were there when the sensor entered LOCKING, by buffer, plus one -/
  roiOld : List Nat := [0, 0]
deriving DecidableEq, Repr

/-- Ingest beyond the ING registers. -/
structure IngState where
  trigs : SMap TrigState := []
  sensors : SMap Sensor := []
  /-- instant of the latest pick, plus one -/
  picked : Nat := 0
  /-- sensors with 0x2608 raised in the running instant (R458) -/
  frozen : List Nat := []
  /-- ING_SET_BASE is outside the bulk tier (R280) -/
  noSet : Bool := false
  /-- bytes in the line buffer of each CSI-2 port (R269, R286) -/
  fill : SMap Nat := []
deriving DecidableEq, Repr

/-- One view of a sample being decoded: still to do, on a core, decoded and in the pipeline, its output written. -/
inductive ViewSt where
  | todo
  | busy
  | decoded
  | done
deriving DecidableEq, Repr

/-- The output of a decoded picture that awaits the other views of its sample: its address, bytes and blocks whose generators disagree (R304). -/
structure PicOut where
  base : Addr
  bytes : List Byte
  gen : List Nat
deriving DecidableEq, Repr

/-- A slot of a batch in formation (R302): its position, or empty; the count of its fetch entry; its staging slot. -/
structure SmplSlot where
  pos : Nat
  replaced : Bool := false
  empty : Bool := false
  bad : Bool := false
  /-- number of its fetch entry, and its staging slot while it holds one -/
  issued : Option Nat := none
  stage : Option Nat := none
  /-- the staging header has been read and is valid -/
  views : List ViewSt := []
  /-- outputs of its views, until the whole sample is known to be good -/
  outs : List PicOut := []
deriving DecidableEq, Repr

/-- A batch in formation. -/
structure SmplBatch where
  partialB : Bool
  slots : List SmplSlot
deriving DecidableEq, Repr

/-- A fetch entry on its way: its number and its staging slot. -/
structure Fetch where
  n : Nat
  stage : Nat
deriving DecidableEq, Repr

/-- A sample stream beyond its registers. -/
structure Stream where
  /-- configuration with which it was started last, and whether that is invalid (R305) -/
  cfg : List Nat := []
  off : Bool := false
  /-- stopped at an epoch's end -/
  ended : Bool := false
  batch : Option SmplBatch := none
  /-- fetch entries written and not done, oldest first -/
  fetches : List Fetch := []
  /-- since when a fetch has been outstanding, and nanoseconds not yet counted -/
  waitFrom : Option Time := none
  waitRem : Nat := 0
deriving DecidableEq, Repr

/-- A view part on a decode core: stream, slot of the batch, view, start; the profile in force at its decode start. -/
structure CoreRun where
  q : Nat
  slot : Nat
  view : Nat
  start : Time
  prof : List Nat
  /-- to be stopped at its next slice boundary (R299) -/
  stop : Bool := false
  /-- its batch was discarded (R305): its end changes nothing of the stream -/
  dropped : Bool := false
deriving DecidableEq, Repr

/-- A decoded target picture awaiting the pipeline; `poisoned`: a block of it carries a wrong check value. -/
structure PicWait where
  run : CoreRun
  pic : Picture
  poisoned : Bool := false
deriving DecidableEq, Repr

/-- Decode and sample streams beyond their registers (chapter 10). -/
structure SmplState where
  streams : SMap Stream := []
  cores : SMap (Option CoreRun) := []
  pics : List PicWait := []
  holdRem : Nat := 0
deriving DecidableEq, Repr

/-- A request in a die's or the hub's link block, awaiting its response (R346, R351, R358). -/
structure LinkReq where
  id : Nat
  /-- die whose link block times it, 8 the hub -/
  die : Nat
  /-- die it goes to, 8 the hub side, 9 the partner -/
  dest : Nat
  req : MemReq
  start : Time := 0
  /-- departure from the hub's partner module (R358) -/
  sent : Option Time := none
  /-- it has reached its target -/
  reached : Bool := false
  /-- its response is on the way: data, check-value difference, error -/
  resp : Option (List Byte × Nat × Nat) := none
  /-- it ended by timeout: a response is late (R346) -/
  late : Bool := false
  /-- its requester is fenced: a response is discarded (R351) -/
  gone : Bool := false
  /-- its target is fenced: no response returns (R351) -/
  mute : Bool := false
deriving DecidableEq, Repr

/-- A flit of slots that a module has sent (R344). -/
structure TxFlit where
  seq : Nat
  first : Nat
  slots : List Byte
deriving DecidableEq, Repr

/-- One link module (R342–R348). Modules: 0–7 hub spokes, 8 the partner module, 16 + 4 t + m module m of die t. -/
structure LinkMod where
  /-- next sequence number awaited, and the number of times that flit has failed -/
  next : Nat := 0
  fails : Nat := 0
  /-- flits are discarded up to the replay marker, and how many with slots have been -/
  discard : Bool := false
  lost : Nat := 0
  /-- replays of the last 10,000 flit-clock cycles: when, and how many flits -/
  replays : List (Time × Nat) := []
  /-- last CRC-good flit -/
  goodAt : Time := 0
  /-- ack and nak as its own flits carry them -/
  ack : Option Nat := none
  nak : Bool := false
  /-- latest ack from the far end -/
  peerAck : Option Nat := none
  /-- slots of the flit taken last, the messages that ended in it, and the message in progress with the slots it still needs -/
  slots : List Byte := []
  msgs : List (List Byte) := []
  part : List Byte := []
  left : Nat := 0
  /-- slots that wait to be sent, each with whether it begins a message, the next sequence number, and the flits of slots sent last, 64 at most -/
  txQueue : List (List Byte × Bool) := []
  txNext : Nat := 0
  sent : List TxFlit := []
  /-- a replay: its marker is still to be sent, then these flits; when the nak that it answers began it -/
  marker : Bool := false
  redo : List TxFlit := []
  redoAt : Option Time := none
  /-- last sweep, latest 0x0444, a lane copy running (R348), and the data sampler of each lane in 1/64 UI -/
  sweepAt : Time := 0
  eyeAt : Option Time := none
  copying : Bool := false
  samplers : List Int := []
deriving DecidableEq, Repr

/-- Partner admission and traffic (R355–R362). -/
structure PartnerState where
  /-- step of Table 12.6 in progress (0 none, 1 sideband initialisation, 2 the offer awaited, 4 training), and since when -/
  step : Nat := 0
  since : Time := 0
  offer : Nat := 0
  /-- next attempt (R357) -/
  retryAt : Option Time := none
  /-- requests allowed by the firewall and not yet issued, oldest first -/
  queue : List MemReq := []
  /-- earliest next issue (R361) -/
  next : Time := 0
deriving DecidableEq, Repr

/-- Link state beyond the LNK registers (chapter 12). -/
structure LnkState where
  reqs : List LinkReq := []
  nextId : Nat := 0
  mods : SMap LinkMod := []
  /-- ring links, named by the die of their east module, retrained and returning at the next boundary (R352) -/
  ringBack : List Nat := []
  /-- last retrain attempt of a fenced ring link -/
  ringTry : SMap Time := []
  /-- ring modules that have trained with a rejoining die and are not routed over until its unfence notice (R353) -/
  barred : List Nat := []
  partner : PartnerState := {}
deriving DecidableEq, Repr

/-- A MACsec security association (Table 14.8, R401). -/
structure MacSa where
  sci : Nat
  ssci : Nat
  salt : Nat
  key : Nat
deriving DecidableEq, Repr

/-- A gate control list (R369, R370): its entries as gate states and interval, its cycle time, its admin base time. -/
structure GateList where
  entries : List (Nat × Nat)
  cycle : Nat
  base : Nat
  /-- Device Time plus ING_DT_OFFSET at the boundary that took it -/
  taken : Int := 0
deriving DecidableEq, Repr

/-- Gate operation of one egress port: the list in force, the entry that runs and its end in gPTP time, the gates open, the list
that waits for its admin base time. -/
structure GatePort where
  list : Option GateList := none
  idx : Nat := 0
  until_ : Int := 0
  gates : Nat := 0xFF
  next : Option GateList := none
deriving DecidableEq, Repr

/-- Ethernet beyond the ETH registers (chapter 13). -/
structure EthState where
  /-- frames that wait for the gate of their class, with their port, oldest first (R369) -/
  waiting : List (Nat × Msg) := []
  /-- MACsec associations by port × 64 + direction × 32 + SC × 8 + association number -/
  sas : SMap (Option MacSa) := []
  gate : SMap GatePort := []
  /-- latest 0x0482 and 0x0484 of a port -/
  macsecAt : SMap (Option Time) := []
  fullAt : SMap (Option Time) := []
deriving DecidableEq, Repr

/-- What the endpoint keeps of a sender (R377): the last request executed and the response it got. -/
structure OhpSender where
  mac : Nat
  part : Nat
  seq : Nat
  resp : Option Msg := none
deriving DecidableEq, Repr

/-- The OHP endpoint beyond the OHP registers. -/
structure OhpState where
  queue : List OhpIn := []
  /-- senders, heard from most recently first, 16 at most -/
  senders : List OhpSender := []
  /-- seq of the next message the part sends of its own -/
  seq : Nat := 0
  /-- latest 0x04C1, 0x04C2 and 0x04C3 -/
  badAt : Option Time := none
  staleAt : Option Time := none
  fullAt : Option Time := none
  /-- number of the log entry that event streaming sends next (R549) -/
  evtPos : Nat := 0
  /-- result streams held off (R387) -/
  held : List Nat := []
deriving DecidableEq, Repr

/-- An armed SMP action (R383): its address and data, and when. -/
structure SmpArm where
  addr : Nat
  data : Nat
  at_ : Time
deriving DecidableEq, Repr

/-- The side-band management port (R379–R383). No reset but power-on clears it. -/
structure SmpState where
  /-- number of the newest complete generation, and when it was opened -/
  gen : Nat := 0
  genAt : Time := 0
  /-- shadow words that are not zero, by word -/
  words : SMap Nat := []
  /-- latest write by Phobos and by Deimos; islands whose fresh bit reads 0 -/
  wroteAt : List Time := [0, 0]
  stale : List Nat := [0, 1]
  arm : Option SmpArm := none
  action : Nat := 0
  result : Nat := 0
  /-- the frozen log (R552): flags, Device Time, total, head, records of the islands, 16 bytes each -/
  frozen : Option (Nat × Nat × Nat × Nat) := none
  phobosLog : List (List Byte) := []
  deimosLog : List (List Byte) := []
deriving DecidableEq, Repr

/-- The trust block's one-time-programmable fields (Table 14.5, R503). Digests and keys are numbers; a field whose value is
zero is unprogrammed. No reset changes them. -/
structure Otp where
  edDigest : List Nat := [0, 0, 0, 0]
  mlDigest : List Nat := [0, 0, 0, 0]
  edRole : List Nat := [0, 0, 0, 0]
  mlRole : List Nat := [0, 0, 0, 0]
  edRevoked : Nat := 0
  mlRevoked : Nat := 0
  arb : SMap Nat := []
  kWrap : Nat := 0
  bOffset : Nat := 0
  splitAllowed : Nat := 0
  dbgMax : Nat := 0
  /-- PUF helper data and certificate store -/
  pufHelper : List Byte := []
  certStore : List Byte := []
  /-- repair entries in the order of their programming, 64 at most (R503) -/
  repair : List Nat := []
deriving DecidableEq, Repr

/-- An unused debug challenge (R413): the level asked for and when it was drawn. -/
structure DbgChal where
  level : Nat
  at_ : Time
deriving DecidableEq, Repr

/-- The trust block beyond the SEC and BOOT registers (R401, R410–R416). -/
structure TrustState where
  /-- M of the image booted, and its flags byte -/
  m : Nat := 0
  flags : Nat := 0
  /-- attestation runs for this destination -/
  attest : Option Nat := none
  chal : Option DbgChal := none
  /-- a response is being verified: does it pass, and the level it grants -/
  verify : Option (Bool × Nat) := none
  /-- since when new challenges are blocked -/
  blocked : Option Time := none
  /-- a field being programmed: field, slot, value (R416) -/
  prog : Option (Nat × Nat × Nat) := none
deriving DecidableEq, Repr

/-- A tile forwarded to the audit engine (R431): what it belongs to and the forwarded CRC. -/
structure Tile where
  graph : Nat
  inst : Nat
  task : Nat
  pass : Nat
  j : Nat
  eng : Nat
  crc : Nat
deriving DecidableEq, Repr

/-- Beacon, audit and quarantine state beyond the CHK registers (chapter 15). Engines are keyed t × 32 + e. -/
structure ChkState where
  /-- engines whose beacon program is running, and since when -/
  beacon : List Nat := []
  /-- engines whose beacon was abandoned in the preceding period (R429) -/
  lateLast : List Nat := []
  /-- engines whose beacon is abandoned in the running period -/
  lateNow : List Nat := []
  /-- the tile whose audit difference the audit engine of a die is now proving itself for (R432) -/
  charge : SMap (Option Tile) := []
  /-- forwarded tiles awaiting a verdict, per die, oldest first -/
  queue : SMap (List Tile) := []
  /-- dies whose audit engine has not yet passed its own beacon this period (R433) -/
  selfPend : List Nat := []
  /-- dies on which 0x05CA was raised this period for a skip; dies on which it was raised for a stop -/
  skipSeen : List Nat := []
  stopSeen : List Nat := []
  /-- engines whose quarantine test restarts at the next boundary (R437) -/
  restart : List Nat := []
  /-- engines retired (kept in the always-on domain), and columns failed in service (R479) -/
  retired : List Nat := []
  cols : SMap Nat := []
  /-- columns that a plan-period boundary has found failed, 0x1088 raised for each (R88) -/
  colsSeen : SMap Nat := []
  /-- engines retired or columns failed whose repair entry is not yet burned (R503) -/
  burnPend : List (Nat × Nat) := []
  /-- Device Time at which an ENG_LMAP of a die was last staged (R63) -/
  lmapAt : SMap Nat := []
deriving DecidableEq, Repr

/-- A range of a local store whose contents the spec leaves undefined: a beacon region after a beacon (R173), the scratch of an entry
(R112, R115). `draw` numbers the free values it holds. -/
structure Hazy where
  eng : Nat
  off : Nat
  len : Nat
  draw : Nat
deriving DecidableEq, Repr

/-- A pending log entry (R469, R470): its slot, its order of entry, its class, and whether a handler has started. -/
structure LogPend where
  slot : Nat
  seq : Nat
  cls : Nat
  started : Bool := false
deriving DecidableEq, Repr

/-- An unanswered challenge (R450): its value and when Deimos sent it. -/
structure Challenge where
  n : Nat
  at_ : Time
deriving DecidableEq, Repr

/-- The islands beyond the SAF registers (chapter 16). -/
structure SafState where
  /-- pending entries, oldest first -/
  pend : List LogPend := []
  /-- handlers: the running one first, then the suspended ones, latest first; slots -/
  stack : List Nat := []
  /-- slots of Phobos's log in the order of their entry, oldest first, each with its number of entry (R469, R549) -/
  ring : List (Nat × Nat) := []
  /-- entries written in Deimos's own log since power-on (R446) -/
  dlogTotal : Nat := 0
  /-- Deimos's events on their way to Phobos's log, oldest first (R446) -/
  dfwd : List Event := []
  /-- latest event code logged, and events of class C2 or above logged since application reset (Table 13.10) -/
  lastCode : Nat := 0
  c2Count : Nat := 0
  chal : Option Challenge := none
  /-- last main-loop count received from Deimos and when it last advanced (R451) -/
  loopCnt : Nat := 0
  loopAt : Time := 0
  /-- the heartbeat is lost and 0x4602 has been raised for it -/
  hbTold : Bool := false
  /-- last valid frame received by Phobos and by Deimos, and their runs of CRC failures (R449) -/
  rxAt : List Time := [0, 0]
  crcRun : List Nat := [0, 0]
  /-- main-loop counts of Phobos and Deimos as their STATUS frames carry them, and frame sequence numbers -/
  loops : List Nat := [0, 0]
  seqs : List Nat := [0, 0]
  /-- SAFE and EVENT payloads sent on the island channel and not yet received, oldest first: sender, type, payload -/
  frames : List (Nat × Nat × Nat) := []
  /-- islands that have found the channel failed (R449) -/
  chanFail : List Nat := []
  /-- a C3 event's latest entry, for FAULT_N (R384) -/
  c3At : Option Time := none
  /-- the island is halted by a debugger: 0 Phobos, 1 Deimos -/
  halted : List Nat := []
  /-- functions made unusable by a failed injection (Table 16.8, R557), as masks per die, port or core -/
  auditOff : Nat := 0
  warpOff : Nat := 0
  preOff : Bool := false
  csiOff : Nat := 0
  sensorsOff : Bool := false
  trkOff : Bool := false
  setOff : Bool := false
  ethOff : Nat := 0
  ohpOff : Bool := false
  partnerOff : Bool := false
  decOff : Nat := 0
  walkOff : Nat := 0
  /-- a mechanism of Table 16.8 with "start-up not ended" failed (R463) -/
  startFail : Bool := false
  /-- hub windows kicked in the running period (2–63), and windows 0 and 1 in the running instant -/
  kicked : List Nat := []
  /-- hub windows already closed in the running period or instant -/
  closed : List Nat := []
  /-- times since each monitor bit read out of limits has been judged: bits already reported (rails 0–15, clocks 16–31) -/
  monOut : Nat := 0
  /-- where SAFE_REQ_N has been low since (R385) -/
  safeReqSeen : Bool := false
deriving DecidableEq, Repr

/-- The output pins of the part towards the board (R32, R264, R384): true where the pin is driven low (safe-state
pins), active (triggers), or in high impedance. -/
structure Pins where
  phobosLow : Bool := true
  deimosLow : Bool := true
  faultLow : Bool := false
  /-- trigger outputs at their active level, bit n -/
  trig : Nat := 0
  highZ : Bool := false
deriving DecidableEq, Repr

/-- Where the part stands between a reset and boot commit (Tables 14.9 and 17.3). -/
inductive Phase where
  | inReset
  | booting
  | running
  | standby
  | stopped
deriving DecidableEq, Repr

/-- One die's reset and rejoin timers (R486–R489). -/
structure DieTimer where
  /-- earliest end of the hold -/
  holdEnd : Time := 0
  /-- when the next attempt begins -/
  retryAt : Option Time := none
  /-- modules 0–2 of the die that have finished training (R353) -/
  trained : Nat := 0
deriving DecidableEq, Repr

/-- A domain on its way to ON: when its wake began and whether it was OFF (Table 17.6). -/
structure Wake where
  since : Time := 0
  fromOff : Bool := false
  running : Bool := false
deriving DecidableEq, Repr

/-- A burn of OTP that boot commit has begun (R395). -/
inductive OtpBurn where
  | arb (i v : Nat)
  | revokeEd (i : Nat)
  | revokeMl (i : Nat)
deriving DecidableEq, Repr

/-- Reset, clock and power state beyond the RST, CLK and PWR registers (chapter 17). Die domains are keyed
t × 32 + d, hub domains 256 + d. -/
structure PowState where
  phase : Phase := .inReset
  /-- boot commit has been made: LCK fields are locked (R404, R408) -/
  committed : Bool := false
  /-- the synthesiser has locked since power-on (R255) -/
  synthUp : Bool := false
  /-- VDD_KY is below its reset level; the Kysta die is in reset -/
  kyDown : Bool := false
  /-- brown-out: the rail is low, or not yet back for 1 ms -/
  brownHeld : Bool := false
  /-- release of the latest reset that runs the boot sequence (BOOT_TIME) -/
  relAt : Time := 0
  /-- the repair field was full at power-on, and 0x0744 is still to be raised (R503) -/
  fuseFull : Bool := false
  dieTimers : SMap DieTimer := []
  /-- the rejoining die whose reload has the UFS host (R490) -/
  ufsDie : Option Nat := none
  wakes : SMap Wake := []
  /-- engines in RET: since when their time is counted (PWR_CNT_RET_US), and nanoseconds carried over per die -/
  retFrom : SMap Nat := []
  retRem : SMap Nat := []
  /-- last kick of the system watchdog while it runs (R477) -/
  wdKick : Option Time := none
  /-- when the reference, or the synthesiser lock, was lost (R485) -/
  refLost : Option Time := none
  lockLost : Option Time := none
  /-- domains whose wake was already reported late -/
  lateSeen : List Nat := []
  /-- anti-rollback counters and revocations that boot commit has begun to burn (R395) -/
  burns : List OtpBurn := []
  /-- engines whose entry lists are being copied (R558) -/
  copying : List Nat := []
deriving DecidableEq, Repr

/-- Health state beyond the HLT registers (chapter 18). -/
structure HltState where
  /-- latest raised advisory of each cause, by cause (R509) -/
  advAt : SMap Time := []
  advSeen : List Nat := []
  /-- dies on which 0x35CC has been raised (Table 18.4 cause 3) -/
  noSpare : List Nat := []
  /-- worst values of the last 60 minutes, a bin per minute, newest first: per component its value and the domain t × 32 + d it
  came from (R505) -/
  bins : List (List (Nat × Nat)) := []
  binFrom : Time := 0
  /-- latest update of the score, and latest canary measurement of a die -/
  scoreAt : Time := 0
  canaryAt : SMap (Option Time) := []
  /-- latest proactive swap of a die (R508) -/
  swapAt : SMap Time := []
  /-- ENG_LMAP stagings pending: of CHK, as t × 16 + logical index; of HLT by die, as 1 + logical index (R508) -/
  chkStaged : List Nat := []
  swapPend : SMap Nat := []
  /-- nanoseconds of unavailable time not yet counted (R512, R550), and since when they run -/
  unavailRem : Nat := 0
  unavailFrom : Option Time := none
deriving DecidableEq, Repr

/-- A barrier the master holds open (R517). -/
structure Barrier where
  step : Nat
  graph : Nat
  task : Nat
  /-- parts that have arrived; first arrival in Device Time, latest arrival in gPTP time, time allowed in ns -/
  here : List Nat
  first : Time
  latest : Nat
  allowed : Nat
deriving DecidableEq, Repr

/-- A region send in progress (R518, R521): to storage or to a twin; the step; the region and block next to be sent. -/
structure RegionSend where
  twin : Option OhpIn := none
  step : Nat
  region : Nat := 0
  block : Nat := 0
  /-- last message sent, and the earliest next one -/
  at_ : Time := 0
  next : Time := 0
deriving DecidableEq, Repr

/-- Joined-system state beyond the JSY registers (chapter 18). -/
structure JsyState where
  barriers : List Barrier := []
  /-- barriers released, or dropped (true), as step, graph, task -/
  closed : List (Nat × Nat × Nat × Bool) := []
  withdrawn : List Nat := []
  /-- JOIN_READYs the master holds -/
  joins : List OhpIn := []
  /-- latest checkpoint step, all 64 bits -/
  ckpt : Option Nat := none
  send : Option RegionSend := none
  /-- twin request that waits for a checkpoint or a send -/
  twinWait : Option OhpIn := none
  /-- joining: TWIN_REQ sent at, blocks received as region × 2^24 + block, JOIN_READY sent -/
  joinAt : Option Time := none
  got : List Nat := []
  ready : Bool := false
  /-- regions held disabled (R524) -/
  off : List Nat := []
deriving DecidableEq, Repr

/-- The machine. Registers live in `regs` under their package addresses (R544); what the registers show is held there
and nowhere else. -/
structure State where
  part : PartCfg
  /-- commands waiting, first in, first out -/
  pending : List Instr := []
  /-- register contents that differ from their reset values, by package address -/
  regs : SMap Word := []
  /-- staged register values awaiting their block's boundary (R11) -/
  staged : SMap Staged := []
  /-- TRK memory and the retained SRAMs (Table 20.2), by package address -/
  csr : SMap Byte := []
  /-- near memory and bulk tier at their physical places (R205–R207, R210), and the difference of each block's
  stored check value from the correct one (R417–R419) -/
  dram : SMap Byte := []
  dramErr : SMap Nat := []
  /-- shared stores at their physical places (R199) and their check-value differences (R200) -/
  shared : SMap Byte := []
  sharedErr : SMap Nat := []
  /-- check-value differences of the blocks of TRK memory, by block address (R418) -/
  csrErr : SMap Nat := []
  /-- local stores, key (t × 32 + e) × 2^23 + offset, and their check-value differences (R97) -/
  store : SMap Byte := []
  storeErr : SMap Nat := []
  /-- ranges of local stores whose contents are undefined, latest first, and the bytes written in them since, keyed as
  `store` -/
  hazy : List Hazy := []
  region : SMap (Option Byte) := []
  /-- events raised and not yet entered in Phobos's log (R469) -/
  raised : List Event := []
  /-- messages sent and accesses completed, oldest first -/
  out : List Msg := []
  /-- draws made from the free values of Config -/
  free : Nat := 0
  pace : SMap PaceDie := []
  paceDom : SMap PaceDom := []
  plan : PlanState := {}
  /-- task instances of the period, by graph × 2^19 + instance × 2^12 + task; instances from 64 on were carried over from the period before -/
  runs : SMap (Option TaskRun) := []
  /-- graph instances of the period, by graph × 128 + instance -/
  insts : SMap InstRun := []
  chk : ChkState := {}
  saf : SafState := {}
  pow : PowState := {}
  pins : Pins := {}
  mem : MemState := {}
  hlt : HltState := {}
  kv : KvState := {}
  tim : TimeState := {}
  ing : IngState := {}
  smpl : SmplState := {}
  fus : FusState := {}
  trk : TrkState := {}
  lnk : LnkState := {}
  otp : Otp := {}
  trust : TrustState := {}
  eth : EthState := {}
  ohp : OhpState := {}
  smp : SmpState := {}
  jsy : JsyState := {}
deriving DecidableEq, Repr

/-- Why the machine stops. No command of this model stops with a fault: every stop of the spec is an effect. -/
inductive Fault where
  /-- Raised by no command; kept so that the type of faults is not empty. Safe. -/
  | none_
deriving DecidableEq, Repr

/-- Why a command is refused. -/
inductive Refusal where
  /-- Raised by the arm of a command that has no meaning yet. Safe: nothing follows from it. -/
  | notModelled (mnemonic : String)
deriving DecidableEq, Repr

/-- The part State.reset describes: an OVN-2 of stepping B0 without a partner, 16 GiB on each die, a 16 GiB bulk tier,
no engine and no column failed at production test. DESIGN CHOICE (log entry 1): the spec gives these per part. -/
def partReset : PartCfg where
  tzCount := 2
  partner := false
  stepMajor := 1
  stepMinor := 0
  near32 := 0
  bulkGib := 16
  mac := 0
  idEd := [0, 0, 0, 0]
  lmap := []
  engFail := []
  colFail := []
  vmin0 := []

/-- The machine right after power-on reset: every register at the value its table gives, nothing staged, no event
raised, memories with nothing listed, the safe-state pins low (R384, Table 17.2, Table 17.3 order 2). -/
def State.reset : State where
  part := partReset

end Sys2Proof.Machine
end

