-- ==== Sys2Proof/Machine/Regs.lean ====
section
/-! DEFINITION. Registers by address: which register an address names (R544), what it reads, what a write by each
access code does (R9, R11, R406–R408), counters (R550), captures (R31, R35) and the raising of events (R546, R547). -/

namespace Sys2Proof.Machine

/-- The array index that offset `rem` falls on, dimension by dimension: the offset left over, if every index is in
range. -/
def dimRem : List (Nat × Nat) → Nat → Option Nat
  | [], rem => some rem
  | (n, st) :: ds, rem => if rem / st < n then dimRem ds (rem % st) else none

/-- Does the offset fall on the register, and in which 32-bit half? -/
def RegDef.half? (d : RegDef) (off : Nat) : Option Bool :=
  if off < d.off then none
  else match dimRem d.dims (off - d.off) with
    | some 0 => some false
    | some 4 => if d.wide then some true else none
    | _ => none

/-- The window, block and offset of a CSR address (R544, Table 1.6). A Kysta SAF offset runs over 8 KiB. -/
def csrPlace (a : Addr) : Option (Win × Nat × Nat) :=
  if 0x00F000000000 ≤ a ∧ a < 0x00F0001F0000 then
    some (.hub, (a - 0x00F000000000) / 0x10000, (a - 0x00F000000000) % 0x10000)
  else if 0x00F100000000 ≤ a ∧ a < 0x00F108000000 then
    let r := a - 0x00F100000000
    some (.die (r / 0x1000000), r % 0x1000000 / 0x10000, r % 0x10000)
  else if 0x00F200018000 ≤ a ∧ a < 0x00F20001A000 then some (.kysta, 0x18, a - 0x00F200018000)
  else if 0x00F200000000 ≤ a ∧ a < 0x00F20001F000 then
    some (.kysta, (a - 0x00F200000000) / 0x1000, (a - 0x00F200000000) % 0x1000)
  else none

/-- The register a 4-byte aligned address names: its definition, the address it is kept under, and whether the address
is its upper half. -/
def regAt (a : Addr) : Option (RegDef × Addr × Bool) :=
  match csrPlace a with
  | none => none
  | some (w, src, off) =>
    (winRegs w src).findSome? fun d =>
      match d.half? off with
      | some false => some (d, a, false)
      | some true => some (d, a - 4, true)
      | none => none

/-- The physical engine that logical engine `i` of die `t` has at production test (ENG_LMAP reset). -/
def PartCfg.physOf (p : PartCfg) (t i : Nat) : Nat := nth i (nth [] p.lmap t) i

/-- ENG_LMAP_0 or ENG_LMAP_1 of die `t` as production test leaves it. -/
def PartCfg.lmapWord (p : PartCfg) (t half : Nat) : Nat :=
  (List.range 8).foldl (fun w i => w + p.physOf t (half * 8 + i) * 2 ^ (8 * i)) 0

/-- The logical index production test gives a physical engine. -/
def PartCfg.logicalOf (p : PartCfg) (t e : Nat) : Option Nat := (List.range 16).find? fun i => p.physOf t i == e

/-- ENG_STATUS at reset: retired when the engine failed production test, else OFF, or SPARE when unmapped; its logical index and spare columns
(Table 3.16). -/
def PartCfg.engStatus (p : PartCfg) (t e : Nat) : Nat :=
  let failed := popcount 68 (smGet 0 p.colFail (t * 32 + e))
  let spare := (3 - failed) * 2 ^ 9
  let bad := bit (nth 0 p.engFail t) e
  match p.logicalOf t e with
  | some i => (if bad then 5 else 0) + i * 2 ^ 4 + 2 ^ 8 + spare
  | none => (if bad then 5 else 6) + spare

/-- Addressable end of the bulk tier (R26), and the image area: the top 64 MiB below it (R393). -/
def PartCfg.bulkEnd (p : PartCfg) : Addr := 0x004000000000 + p.bulkGib * 2 ^ 24 * 63
def imageArea : Nat := 2 ^ 26
def PartCfg.imgBase (p : PartCfg) : Addr := p.bulkEnd - imageArea

/-- Registers whose reset value is given per part or per array index. -/
def partReg (p : PartCfg) (w : Win) (src off : Nat) : Option Nat :=
  match w, src with
  | .hub, 0x00 =>
    if off = 0x0 then
      some (0x4F560000 + p.stepMajor * 2 ^ 12 + p.stepMinor * 2 ^ 8 + b2n p.partner * 16 + p.tzCount)
    else if off = 0x8 then some ((4 ^ p.tzCount - 1) / 3)
    else if off = 0x20 then some (p.bulkGib * 2 ^ 16 + p.near32)
    else none
  | .hub, 0x12 => if 0x200 < off ∧ off % 0x100 = 0 then some 0x00240001 else none
  | .hub, 0x13 => if off = 0x10 then some (p.mac + 7 * 2 ^ 60) else none
  | .hub, 0x15 => if off = 0x18 then some p.imgBase else none
  | .hub, 0x16 =>
    if 0x200 ≤ off ∧ off < 0x220 then some (nth 0 p.idEd ((off - 0x200) / 8)).toNat else none
  | .hub, 0x19 => if 0x1010 ≤ off then some 0 else none
  | .die t, 0x02 =>
    if off = 0x0 then some (p.lmapWord t 0)
    else if off = 0x8 then some (p.lmapWord t 1)
    else if 0x1000 ≤ off ∧ off < 0x2200 then
      let e := (off - 0x1000) / 0x100
      let r := off % 0x100
      if r = 0 then some (p.engStatus t e)
      else if r = 8 then some (smGet 0 p.colFail (t * 32 + e) % 2 ^ 64)
      else if r = 0x10 then some (smGet 0 p.colFail (t * 32 + e) / 2 ^ 64)
      else none
    else none
  | _, _ => none

/-- What a register reads right after power-on reset (the reset column of its table). -/
def regReset (p : PartCfg) (a : Addr) : Word :=
  match csrPlace a, regAt a with
  | some (w, src, off), some (d, _, _) => BitVec.ofNat 64 ((partReg p w src off).getD d.rst)
  | _, _ => 0

/-- The register kept at an address. -/
def State.rd (s : State) (a : Addr) : Word := smGet (regReset s.part a) s.regs a

/-- The state with a register holding a word. -/
def State.wr (s : State) (a : Addr) (w : Word) : State :=
  { s with regs := smPut (regReset s.part a) s.regs a w }

/-- A field's value. -/
def State.fget (s : State) (f : Fld) : Nat := wbits (s.rd f.addr) f.hi f.lo

/-- A one-bit field as a truth value. -/
def State.flag (s : State) (f : Fld) : Bool := s.fget f == 1

/-- The state with a field set by the hardware. -/
def State.fset (s : State) (f : Fld) (v : Nat) : State := s.wr f.addr (wput (s.rd f.addr) f.hi f.lo v)

/-- Device Time now: ING_DT_NOW is its home (R255). -/
def State.now (s : State) : Time := (s.rd Reg.ING_DT_NOW).toNat

/-- A counter counts `n` occurrences and saturates at its largest value (R550). -/
def State.count (s : State) (f : Fld) (n : Nat) : State :=
  s.fset f (min (s.fget f + n) (2 ^ (f.hi + 1 - f.lo) - 1))

/-- A wrapping counter counts `n` occurrences (R550, Table 20.5). -/
def State.countWrap (s : State) (f : Fld) (n : Nat) : State :=
  s.fset f ((s.fget f + n) % 2 ^ (f.hi + 1 - f.lo))

/-- A capture register takes a first capture: while valid, bit 63, is set nothing is captured (R31, R35). -/
def State.capture (s : State) (a : Addr) (v : Nat) : State :=
  if bit (s.rd a).toNat 63 then s else s.wr a (BitVec.ofNat 64 (v % 2 ^ 63 + 2 ^ 63))

/-- The class of an event code (Table 0.8). -/
def codeClass (code : Nat) : Nat := bits code 15 12

/-- The source block of an event code (Table 0.8). -/
def codeSrc (code : Nat) : Nat := bits code 11 6

/-- An event is raised: it waits to be entered in Phobos's log (R469). `origin` is 0–7 for a compute die, 8 hub,
9 Kysta; `unit` and `detail` are those of Tables 20.3 and 20.4. -/
def State.raise (s : State) (code origin unit detail : Nat) : State :=
  { s with raised := s.raised ++ [{ time := s.now, code := code, origin := origin, unit := unit, detail := detail }] }

/-- Origin code of the hub. -/
abbrev oHub : Nat := 8
/-- Origin code of the Kysta die. -/
abbrev oKysta : Nat := 9
/-- Unit code of an event with no single unit. -/
abbrev uNone : Nat := 0xFF

/-- Detail word of an event about a task instance (Table 20.4). -/
def detTask (graph inst task slot : Nat) : Nat :=
  bits graph 7 0 + bits inst 5 0 * 2 ^ 8 + bits task 11 0 * 2 ^ 14 + bits slot 2 0 * 2 ^ 26

/-- Detail word of an event about a sensor, or about a trigger output. -/
def detSensor (n : Nat) : Nat := bits n 5 0
def detTrig (n : Nat) : Nat := bits n 5 0 + 2 ^ 6

/-- Detail word of an event about a sample stream. -/
def detStream (q v : Nat) : Nat := bits q 3 0 + bits v 2 0 * 2 ^ 4

/-- Detail word of an event about a link module: module m and the die it faces (0x8 the hub, 0xF the partner). -/
def detLink (m faces : Nat) : Nat := bits m 3 0 + bits faces 3 0 * 2 ^ 4

/-- Detail word of an event about a memory channel; the bulk tier sets bit 3. -/
def detChan (c : Nat) (bulk : Bool) : Nat := bits c 2 0 + b2n bulk * 8

/-- A write of a 32-bit word to a register by software: RW bits take the value, W1C bits written 1 clear, STG bits are
staged until the block's next boundary (R9, R11, R406); LCK bits take the value before boot commit only (R9, R406). RO and RSV bits ignore
the write. -/
def State.writeReg (s : State) (d : RegDef) (key : Addr) (upper : Bool) (v : Nat) : State :=
  let sh := if upper then 32 else 0
  let m := 0xFFFFFFFF * 2 ^ sh
  let vv := v % 2 ^ 32 * 2 ^ sh
  let open_ := if s.pow.committed then d.rw else d.rw ||| d.lck
  let cur := (s.rd key).toNat
  let set := open_ &&& m
  let clr := d.w1c &&& m &&& vv
  let new := ((cur &&& (2 ^ 64 - 1 - set)) ||| (vv &&& set)) &&& (2 ^ 64 - 1 - clr)
  let s1 := s.wr key (BitVec.ofNat 64 new)
  let sm := d.stg &&& m
  if sm ≠ 0 then
    let old := smGet {} s1.staged key
    let nw : Staged := { mask := old.mask ||| sm, val := (old.val &&& (2 ^ 64 - 1 - sm)) ||| (vv &&& sm) }
    { s1 with staged := smPut {} s1.staged key nw }
  else s1

/-- Does a word write at this half reach an LCK field? -/
def RegDef.hitsLck (d : RegDef) (upper : Bool) : Bool :=
  d.lck &&& (if upper then 0xFFFFFFFF00000000 else 0xFFFFFFFF) != 0

/-- An ignored LCK write is flagged: 0x0545, BOOT_CNT_LCK, and the first captured with the address and the source of
the write, coded as in PKG_DECODE_ERR (R408). -/
def State.flagLck (s : State) (a : Addr) (source : Nat) : State :=
  let s1 := (s.raise 0x0545 oHub uNone 0).count Reg.BOOT_CNT_LCK_count 1
  s1.capture Reg.BOOT_LCK_ERR (bits a 47 0 + bits source 3 0 * 2 ^ 48)

/-- A word write to a plain register by the access codes of the fields it reaches (R9, R406, R408). A write to an
address that names no register changes nothing here (its decode error is the access's). -/
def State.swWrite (s : State) (a : Addr) (v source : Nat) : State :=
  match regAt a with
  | none => s
  | some (d, key, upper) =>
    let s1 := s.writeReg d key upper v
    if s.pow.committed && d.hitsLck upper then s1.flagLck a source else s1

/-- The loop target in effect for a value of PACE_TARGET (Table 2.8). -/
def targetInEffect (v : Nat) : Nat := clampN 1760 2300 v

/-- Is an address PACE_TARGET of a die? -/
def isPaceTarget (a : Addr) : Bool := match csrPlace a with | some (.die _, 1, off) => off == 4 | _ => false

/-- The engine whose ENG_COL_FAIL (false) or ENG_COL_FAIL_HI (true) an address is. -/
def colOf (a : Addr) : Option (Nat × Nat × Bool) :=
  match csrPlace a with
  | some (.die t, 2, off) =>
    let e := (off - 0x1000) / 0x100
    if 0x1000 ≤ off ∧ e < 18 then (if off % 0x100 == 8 then some (t, e, false) else if off % 0x100 == 0x10 then some (t, e, true) else none)
    else none
  | _ => none

/-- A word read by software. PACE_TARGET reads the value in effect (Table 2.8). Each half of a 64-bit register is read as it is at its own
read: the spec names no latch between two reads of 32 bits (log entry 55). -/
def State.swRead (s : State) (a : Addr) : Nat :=
  match regAt a with
  | none => 0
  | some (_, key, upper) =>
    let v := if upper then bits (s.rd key).toNat 63 32 else bits (s.rd key).toNat 31 0
    if isPaceTarget a then targetInEffect (bits v 11 0) else v

/-- The value a register will show at its boundary: the staged bits over the current ones. -/
def State.stagedValue (s : State) (a : Addr) : Nat :=
  let st := smGet {} s.staged a
  ((s.rd a).toNat &&& (2 ^ 64 - 1 - st.mask)) ||| (st.val &&& st.mask)

/-- The hardware stages bits [hi:lo] of a register (R436, R508). -/
def State.stageField (s : State) (f : Fld) (v : Nat) : State :=
  let m := (2 ^ (f.hi + 1 - f.lo) - 1) * 2 ^ f.lo
  let old := smGet {} s.staged f.addr
  let nw : Staged := { mask := old.mask ||| m, val := putBits old.val f.hi f.lo v }
  { s with staged := smPut {} s.staged f.addr nw }

/-- Whatever is staged for a register is dropped. -/
def State.unstage (s : State) (a : Addr) : State := { s with staged := smPut {} s.staged a {} }

/-- One register takes its staged value (R407). -/
def State.applyStaged (s : State) (a : Addr) : State :=
  (s.wr a (BitVec.ofNat 64 (s.stagedValue a))).unstage a

/-- The blocks whose boundary is the instant boundary: ING, PRE, FUS, TRK (Table 14.10). -/
def instantBlock (src : Nat) : Bool := src == 0x0B || src == 0x0C || src == 0x0F || src == 0x10

/-- The block an address lies in. -/
def addrBlock (a : Addr) : Nat := match csrPlace a with | some (_, src, _) => src | none => 0x3F

/-- All staged registers of the blocks that pass the test take their values in one cycle (R407). -/
def State.applyBlocks (s : State) (p : Nat → Bool) : State :=
  (s.staged.map Prod.fst).foldl (fun s a => if p (addrBlock a) then s.applyStaged a else s) s

/-- The engine that a logical engine of a die is mapped to (ENG_LMAP in force). -/
def State.physOf (s : State) (t i : Nat) : Nat :=
  s.fget (if i < 8 then Reg.ENG_LMAP_0_phys t i else Reg.ENG_LMAP_1_phys t (i - 8))

/-- The logical index of a physical engine in the map in force. -/
def State.logicalOf (s : State) (t e : Nat) : Option Nat := (List.range 16).find? fun i => s.physOf t i == e

/-- A compute die that the member holds. -/
def State.hasDie (s : State) (t : Nat) : Bool := t < s.part.tzCount

/-- PKG_DIE_STATE of a die: 0 absent, 1 running, 2 fenced, 3 rejoining. -/
def State.dieState (s : State) (t : Nat) : Nat := s.fget (Reg.PKG_DIE_STATE_die t)

/-- A compute die that is running. -/
def State.dieUp (s : State) (t : Nat) : Bool := s.hasDie t && s.dieState t == 1

/-- Device Time as the copy in a die's release sequencer holds it (R41, R262, R263): it lags by the boot step until the beacon that carries it, and one
found ahead is held until the hub's time reaches it. -/
def State.dieNow (s : State) (t : Nat) : Time :=
  if s.tim.stepDue.contains t then s.now - s.tim.stepBy else max s.now (smGet 0 s.tim.held t)

/-- With ptp_en 0 the Device Time base is FREE: no rate correction, no offset target (R257). -/
def State.freeTime (s : State) : State :=
  if s.flag Reg.ING_DT_CTRL_ptp_en then s
  else
    let s1 := (((s.fset Reg.ING_DT_STATUS_state 0).fset Reg.ING_DT_STATUS_rate_ppb 0).fset Reg.ING_DT_STATUS_rate_limit 0).fset
      Reg.ING_DT_STATUS_is_gm 0
    { s1.wr Reg.ING_DT_OFFSET 0 with tim := { s1.tim with near := 0, gm := 0, far := false } }

/-- The compute dies of the member. -/
def State.dies (s : State) : List Nat := List.range s.part.tzCount

/-- The device safe state is in force (R467). -/
def State.safe (s : State) : Bool := s.flag Reg.SAF_STATUS_safe

/-- Traffic class of a frame of the part: that of its PCP on the port for a result stream, 7 for gPTP and every other frame (R369, R370,
log entry 102). -/
def State.classOf (s : State) (port : Nat) (m : Msg) : Nat :=
  let of_ (x : OhpMsg) : Nat := if x.typ == 0x10 then s.fget (Reg.ETH_PCP_class port x.pcp) else 7
  match m with
  | .ohp x => of_ x
  | .ohpBad x => of_ x
  | _ => 7

/-- Is the gate of a frame's traffic class open on its port (R369)? -/
def State.gateOpen (s : State) (port : Nat) (m : Msg) : Bool := bit (smGet {} s.eth.gate port).gates (s.classOf port m)

/-- A message leaves on its port at Device Time now (R372) and is counted as a frame sent; while the gate of its class is closed it waits (R369). -/
def State.emit (s : State) (port : Nat) (m : Msg) : State :=
  if s.gateOpen port m then { s with out := s.out ++ [m] }.count (Reg.ETH_CNT_TX_frames port) 1
  else { s with eth := { s.eth with waiting := s.eth.waiting ++ [(port, m)] } }

/-- An OHP message of the part's own leaves: its seq, sender and time are filled in (Table 13.4). -/
def State.sendOhp (s : State) (m : OhpMsg) : State :=
  let m1 := { m with seq := s.ohp.seq, srcPart := s.fget Reg.JSY_ROLE_part_index, txTime := s.now, pcp := s.fget Reg.OHP_MAC_pcp }
  { s with ohp := { s.ohp with seq := (s.ohp.seq + 1) % 65536 } }.emit m.port (.ohp m1)

/-- One draw from a free value: the draw's number, and the state after it. -/
def State.draw (s : State) : Nat × State := (s.free, { s with free := s.free + 1 })

end Sys2Proof.Machine
end

