-- ==== Sys2Proof/Machine/Flit.lean ====
section
/-! DEFINITION. PFP flits and messages (R341–R345): a link module, the messages it has to send as slots, the flits it builds and keeps, and the
messages it puts together from the slots of the flits it takes. A module is numbered 0–7 for the hub's spokes, 8 for the partner module,
16 + 4 t + m for module m of die t (0 spoke, 1 east, 2 west). -/

namespace Sys2Proof.Machine

/-- The window and module number of a module's registers. -/
def modReg (m : Nat) : Win × Nat := if m < 16 then (.hub, m) else (.die ((m - 16) / 4), m % 4)

def State.lmod (s : State) (m : Nat) : LinkMod := smGet {} s.lnk.mods m
def State.setLmod (s : State) (m : Nat) (x : LinkMod) : State :=
  { s with lnk := { s.lnk with mods := smPut {} s.lnk.mods m x } }

/-- LNK_MOD_m.state: 0 DOWN, 1 TRAINING, 2 ACTIVE, 3 REPLAY, 4 RETRAIN, 5 FENCED. -/
def State.modState (s : State) (m : Nat) : Nat := s.fget (Reg.LNK_MOD_state (modReg m).1 (modReg m).2)
def State.setMod (s : State) (m v : Nat) : State := s.fset (Reg.LNK_MOD_state (modReg m).1 (modReg m).2) v

/-! ### Messages (R343, Tables 12.3 and 12.4) -/

/-- Word 0 of a header without its length or kind. -/
def headWord (op src agent tag : Nat) : Nat := op % 16 + src % 16 * 2 ^ 4 + agent % 256 * 2 ^ 8 + tag % 2 ^ 16 * 2 ^ 16

/-- Header of a response. -/
def respHeadOf (op src agent tag kind : Nat) : List Byte := leBytes 8 (headWord op src agent tag + kind % 8 * 2 ^ 32) ++ leBytes 8 0

/-- Header of a response to the partner. -/
def respHead (op tag kind : Nat) : List Byte := respHeadOf op 0xA 0 tag kind

/-- Data slots of a message: a whole block is followed by its check value, `chk` being its difference from the correct one. -/
def dataSlots (data : List Byte) (chk : Nat) : List Byte :=
  if data.length == 256 then data ++ leBytes 4 (crc32c data ^^^ chk) ++ leBytes 12 0 else sliceB data 0 (roundUp data.length 16)

/-- A request: its header, of READ, WRITE or WRITE_PART, and a write's data slots. -/
def MemReq.message (q : MemReq) (tag : Nat) : List Byte :=
  let op := if !q.write then 1 else if q.len == 256 && q.comb.isNone then 2 else 3
  let prio := if q.cls == 4 then 2 else if q.cls == 3 then 1 else 0
  leBytes 8 (headWord op q.src q.agent tag + q.len * 2 ^ 32) ++ leBytes 8 q.addr ++ leBytes 8 q.issue
    ++ leBytes 8 (prio + (if q.cls == 4 then q.sys % 16 * 4 else 0)) ++ (if q.write then dataSlots q.data q.chk else [])

/-- A response: RD_RESP with its data, WR_RESP, or ERR_RESP with its kind. -/
def MemReq.answer (q : MemReq) (tag : Nat) (data : List Byte) (chk err : Nat) : List Byte :=
  if err != 0 then respHeadOf 6 q.src q.agent tag (if err ≤ 5 then err - 1 else 5)
  else if q.write then respHeadOf 5 q.src q.agent tag 0
  else respHeadOf 4 q.src q.agent tag 0 ++ dataSlots data chk

/-- A MGMT message about a die: 0 fence notice, 1 unfence notice. The spec places nothing beside its op (log entry 101). -/
def mgmtSlot (kind t : Nat) : List Byte := leBytes 8 8 ++ leBytes 8 (Config.mgmtWord kind t).toNat

/-- A TIME message (log entry 101). -/
def timeSlot (time : Nat) : List Byte := leBytes 8 7 ++ leBytes 8 (Config.timeWord time).toNat

/-! ### Sending (R341, R342, R344) -/

/-- A message waits at a module as slots of 16 bytes, the first marked. -/
def State.queueMsg (s : State) (m : Nat) (bytes : List Byte) : State :=
  let x := s.lmod m
  s.setLmod m { x with txQueue := x.txQueue ++ (List.range (bytes.length / 16)).map fun i => (sliceB bytes (16 * i) 16, i == 0) }

/-- The bytes of a flit (Table 12.2). -/
def flitBytes (x : LinkMod) (seq kind first : Nat) (slots : List Byte) : List Byte :=
  let body := leBytes 8 (seq % 4096 + x.ack.getD 0 % 4096 * 2 ^ 12 + b2n x.ack.isSome * 2 ^ 24 + b2n x.nak * 2 ^ 25 + kind * 2 ^ 26 + first * 2 ^ 28)
    ++ sliceB slots 0 240
  body ++ leBytes 8 (crc64 body)

/-- Index of the first of a flit's slots that begins a message; 15 where none does. -/
def firstOf (slots : List (List Byte × Bool)) : Nat := (slots.findIdx? (·.2)).getD 15

/-- A module that carries traffic sends the flit of one flit-clock cycle: the replay marker and the flits of a replay, else new slots, else an idle
flit. It keeps its last 64 flits of slots. -/
def State.transmit (s : State) (m : Nat) : State :=
  let x := s.lmod m
  let send (y : LinkMod) (seq kind first : Nat) (slots : List Byte) : State :=
    { s.setLmod m y with out := s.out ++ [.flit m (flitBytes x seq kind first slots)] }
  if s.modState m != 2 && s.modState m != 3 then s
  else if x.marker then send { x with marker := false } (match x.redo with | f :: _ => f.seq | [] => x.txNext) 2 15 []
  else match x.redo with
    | f :: rest => send { x with redo := rest } f.seq 1 f.first f.slots
    | [] =>
      if x.txQueue.isEmpty then send x x.txNext 0 15 []
      else
        let new := x.txQueue.take 15
        let f : TxFlit := { seq := x.txNext, first := firstOf new, slots := new.flatMap (·.1) }
        let kept := x.sent ++ [f]
        send { x with txQueue := x.txQueue.drop 15, txNext := (x.txNext + 1) % 4096, sent := kept.drop (kept.length - 64) } f.seq 1 f.first f.slots

/-- Flits kept that follow the one that the far end received last. -/
def LinkMod.after (x : LinkMod) (ack : Option Nat) : List TxFlit :=
  match ack.bind fun a => x.sent.findIdx? fun f => f.seq == a with
  | some i => x.sent.drop (i + 1)
  | none => x.sent

/-- A module takes the ack and the nak of a flit received intact at `now`: a nak starts a replay from ack + 1, and one still set 80 ns later, the
round trip of a replay, starts it again. -/
def LinkMod.heard (x : LinkMod) (w : Nat) (now : Time) : LinkMod :=
  let y := { x with goodAt := now, peerAck := if bit w 24 then some (bits w 23 12) else x.peerAck }
  let due := match x.redoAt with | some t => decide (t + 80 ≤ now) | none => true
  if !bit w 25 then { y with redoAt := none }
  else if due then { y with marker := true, redo := y.after y.peerAck, redoAt := some now }
  else y

/-! ### Taking slots -/

/-- Slots of a message by its header: 0 of a slot that begins none. The data slots of a read response follow from the request it answers. -/
def State.msgSlots (s : State) (head : List Byte) : Nat :=
  let w := u head 0 8
  let data (n : Nat) : Nat := if n == 256 then 17 else ceilDiv n 16
  match bits w 3 0 with
  | 1 => 2
  | 2 => 19
  | 3 => 2 + data (bits w 40 32)
  | 4 => 1 + (match s.lnk.reqs.find? fun r => r.id % 2 ^ 16 == bits w 31 16 && r.req.src % 16 == bits w 7 4 && r.req.agent % 256 == bits w 15 8 with
    | some r => data r.req.len
    | none => 0)
  | 5 => 1
  | 6 => 1
  | 7 => 1
  | 8 => 1
  | _ => 0

/-- What the slots of a flit gave so far: the message in progress and the slots it still needs, the first slot that began a message, and the
messages that ended. -/
structure SlotAcc where
  part : List Byte
  left : Nat
  first : Nat := 15
  msgs : List (List Byte) := []

/-- The 15 slots of a flit taken in order. -/
def State.takeSlots (s : State) (x : LinkMod) (slots : List Byte) : SlotAcc :=
  (List.range 15).foldl (fun a i =>
    let b := sliceB slots (16 * i) 16
    if a.left != 0 then
      if a.left == 1 then { a with part := [], left := 0, msgs := a.msgs ++ [a.part ++ b] } else { a with part := a.part ++ b, left := a.left - 1 }
    else
      let f := if a.first == 15 then i else a.first
      match s.msgSlots b with
      | 0 => a
      | 1 => { a with first := f, msgs := a.msgs ++ [b] }
      | n => { a with first := f, part := b, left := n - 1 }) { part := x.part, left := x.left }

end Sys2Proof.Machine
end

