-- ==== Sys2Proof/Machine/Store.lean ====
section
/-! DEFINITION. The local stores of the engines (R94, R97): bytes at offsets of one engine's store, the check-value difference of
each 256-byte block, and the beacon region, whose contents a beacon leaves undefined (R173). -/

namespace Sys2Proof.Machine

/-- Key of engine `e`, or domain `d`, of die `t`. -/
def engKey (t e : Nat) : Nat := t * 32 + e

/-- Key of an offset of the local store of engine `e` of die `t`. -/
def stKey (t e off : Nat) : Nat := (t * 32 + e) * 2 ^ 23 + off

/-- Bytes of the local store. -/
abbrev storeSize : Nat := 0x800000

/-- First offset of the beacon region (R173). -/
abbrev beaconBase : Nat := 0x7F0000

/-- The undefined range that holds an offset, the latest made first. -/
def State.hazyAt (s : State) (t e off : Nat) : Option Hazy :=
  s.hazy.find? fun h => h.eng == engKey t e && h.off ≤ off && off < h.off + h.len

/-- One byte of a local store. -/
def State.stByte (s : State) (t e off : Nat) : Byte :=
  match s.hazyAt t e off with
  | some h =>
    match smGet none s.region (stKey t e off) with
    | some b => b
    | none => Config.hazyByte h.draw off
  | none => smGet 0 s.store (stKey t e off)

/-- `n` bytes of a local store from an offset. -/
def State.stGet (s : State) (t e off : Nat) : Nat → List Byte
  | 0 => []
  | n + 1 => s.stByte t e off :: s.stGet t e (off + 1) n

/-- One byte written. -/
def State.stPut1 (s : State) (t e off : Nat) (b : Byte) : State :=
  if (s.hazyAt t e off).isSome then { s with region := smPut none s.region (stKey t e off) (some b) }
  else { s with store := smPut 0 s.store (stKey t e off) b }

/-- The contents of a range become undefined: one draw of free values. -/
def State.makeHazy (s : State) (t e off len : Nat) : State :=
  let (n, s1) := s.draw
  let inside (h : Hazy) : Bool := h.eng == engKey t e && off ≤ h.off && h.off + h.len ≤ off + len
  { s1 with
    region := smKeep (fun k => !(k / 2 ^ 23 == t * 32 + e && off ≤ k % 2 ^ 23 && k % 2 ^ 23 < off + len)) s1.region
    hazy := { eng := engKey t e, off := off, len := len, draw := n } :: s1.hazy.filter fun h => !inside h }

/-- Bytes written from an offset. -/
def State.stPut (s : State) (t e off : Nat) : List Byte → State
  | [] => s
  | b :: bs => (s.stPut1 t e off b).stPut t e (off + 1) bs

/-- Difference of the check value held beside a block from the correct one (R418). -/
def State.stErr (s : State) (t e blk : Nat) : Nat := smGet 0 s.storeErr ((t * 32 + e) * 2 ^ 15 + blk)

def State.setStErr (s : State) (t e blk v : Nat) : State :=
  { s with storeErr := smPut 0 s.storeErr ((t * 32 + e) * 2 ^ 15 + blk) v }

/-- The contents of a local store are lost: its engine's domain is OFF (R97, R492). -/
def State.stLose (s : State) (t e : Nat) : State :=
  { s with
    store := smKeep (fun k => k / 2 ^ 23 != t * 32 + e) s.store
    region := smKeep (fun k => k / 2 ^ 23 != t * 32 + e) s.region
    storeErr := smKeep (fun k => k / 2 ^ 15 != t * 32 + e) s.storeErr
    hazy := s.hazy.filter fun h => h.eng != engKey t e }

/-- A beacon program starts on an engine (R427): it overwrites the beacon region, whose contents it leaves undefined (R173); its
generators give every block it writes a check value. -/
def State.startBeacon (s : State) (t e : Nat) : State :=
  let s1 := s.makeHazy t e beaconBase 0x10000
  { s1 with
    storeErr := smKeep (fun k => k / 2 ^ 15 != t * 32 + e || k % 2 ^ 15 < beaconBase / 256) s1.storeErr
    chk := { s1.chk with beacon := withOnce (engKey t e) s1.chk.beacon } }

end Sys2Proof.Machine
end

