-- ==== Sys2Proof/Machine/Tasks.lean ====
section
/-! DEFINITION. Operations on task instances, engines and partitions that many commands share: finding the task on a
port, withholding and aborting (R160, R184, R434, R556), engine states (Table 3.16), strikes, quarantine and retirement
(R435–R439), loss of a partition (R142), and the waking of a domain (R492–R494). -/

namespace Sys2Proof.Machine

/-- Key of a task instance. An instance j that its period's end found unretired goes on as instance 64 + j (log entry 52). -/
def taskKey (g j i : Nat) : Nat := g * 2 ^ 19 + j * 2 ^ 12 + i

/-- Key of a graph instance. -/
def instKey (g j : Nat) : Nat := g * 128 + j

def TaskRun.key (r : TaskRun) : Nat := taskKey r.graph r.inst r.task

/-- The period start from which an instance's release and bound count. -/
def State.baseOf (s : State) (r : TaskRun) : Time := r.origin.getD s.plan.start

/-- Still in flight: neither ended nor aborted (Table 5.8). -/
def TaskRun.live (r : TaskRun) : Bool := r.st == .waiting || r.st == .running

/-- Ended or aborted: what a dependent waits for (R152, R184). -/
def TaskRun.done (r : TaskRun) : Bool := !r.live

def State.run? (s : State) (k : Nat) : Option TaskRun := smGet none s.runs k
def State.setRun (s : State) (r : TaskRun) : State := { s with runs := smPut none s.runs r.key (some r) }
def State.allRuns (s : State) : List TaskRun := s.runs.filterMap Prod.snd
def State.inst (s : State) (g j : Nat) : InstRun := smGet {} s.insts (instKey g j)
def State.setInst (s : State) (g j : Nat) (x : InstRun) : State :=
  { s with insts := smPut {} s.insts (instKey g j) x }

/-- The plan in force. -/
def State.planRec (s : State) : Option PlanRec := s.plan.cur.bind fun i => s.plan.plans[i]?

/-- The package is in pace alarm (R52). -/
def State.inAlarm (s : State) : Bool := s.flag Reg.PACE_ALARM_SUM_alarm

/-- Whole periods that the package will have been out of pace alarm, were the running one to end now. -/
def State.quietNow (s : State) : Nat := if s.plan.alarmSeen || s.inAlarm then 0 else s.plan.quiet + 1

/-- The row of Table 6.8 whose condition holds now, from 1; 0 where none does. -/
def State.switchRow (s : State) : Nat :=
  match s.planRec with
  | none => 1
  | some r =>
    let alarmed := s.inAlarm && s.flag Reg.PACE_CTRL_alarm_fallback
    if !s.plan.lossDue.isEmpty then (if r.plan.kind == 1 then 3 else 2)
    else if r.plan.kind == 1 && s.dieState r.plan.lostDie == 1
        && (s.flag Reg.ADM_CTRL_auto_return || s.flag Reg.ADM_FB_CTRL_return_req) then 4
    else if r.plan.kind == 0 && alarmed then 5
    else if r.plan.kind == 2 && decide (max 1 (s.fget Reg.ADM_CTRL_return_periods) ≤ s.quietNow) then 6
    else 0

/-- ADM_STATUS shows the switches and returns that are due (Table 6.12). -/
def State.showDue (s : State) : State :=
  let row := s.switchRow
  let put (s : State) (f : Fld) (b : Bool) : State := s.fset f (b2n (b && s.plan.cur.isSome))
  let s1 := put s Reg.ADM_STATUS_dieloss_due (row == 2)
  let s2 := s1.fset Reg.ADM_STATUS_due_die (if row == 2 then nth 0 s.plan.lossDue 0 else 0)
  let s3 := put (put s2 Reg.ADM_STATUS_alarm_due (row == 5)) Reg.ADM_STATUS_return_due (row == 4 || row == 6)
  s3.fset Reg.ADM_STATUS_in_fallback (match s.planRec with | some r => b2n (r.plan.kind != 0) | none => 0)

/-- A graph of the plan in force, or a submitted graph that has entered (R190). -/
def State.graph? (s : State) (g : Nat) : Option GraphRec :=
  match s.planRec.bind fun p => p.plan.graphs.find? fun x => x.id == g with
  | some x => some x
  | none => (s.plan.entered.find? fun x => x.graph.id == g).map (·.graph)

/-- A partition record of the plan in force. -/
def State.part? (s : State) (p : Nat) : Option PartRec :=
  s.planRec.bind fun r => r.plan.parts.find? fun x => x.part == p

/-- A task's descriptor. -/
def State.desc? (s : State) (g i : Nat) : Option TaskDesc := (s.graph? g).bind fun x => x.tasks[i]?

/-- The partition that owns a graph. -/
def State.partOf (s : State) (g : Nat) : Option PartRec := (s.graph? g).bind fun x => s.part? x.part

/-- The partition's die record for a die. -/
def PartRec.on (p : PartRec) (t : Nat) : Option DieRec := p.dies.find? fun d => d.die == t

/-- The partition in slot `p` of die `t`. -/
def State.slotPart (s : State) (t p : Nat) : Option PartRec :=
  s.planRec.bind fun r => r.plan.parts.find? fun x => x.dies.any fun d => d.die == t && d.slot == p

/-- The task running on a port of a die (Table 6.5 exec). -/
def State.running? (s : State) (t exec : Nat) : Option TaskRun :=
  s.allRuns.find? fun r => r.die == t && r.exec == exec && r.st == .running

/-- The task running on the unit port of physical engine `e`. -/
def State.unitRun? (s : State) (t e : Nat) : Option TaskRun :=
  s.allRuns.find? fun r => r.die == t && r.exec < 16 && r.phys == e && r.st == .running

/-- The task running on the MOVE port of physical engine `e`. -/
def State.moveRun? (s : State) (t e : Nat) : Option TaskRun :=
  s.allRuns.find? fun r => r.die == t && 16 ≤ r.exec && r.exec < 32 && r.phys == e && r.st == .running

/-- The task running on the warp unit of a die. -/
def State.warpRun? (s : State) (t : Nat) : Option TaskRun := s.running? t 32

/-- Unit code of an event a task raises: its physical engine, the warp unit, or none (Table 20.3). -/
def TaskRun.unit (r : TaskRun) : Nat := if r.exec < 32 then r.phys else if r.exec == 32 then 0x22 else uNone

def TaskRun.detail (r : TaskRun) : Nat := detTask r.graph r.inst r.task r.slot

/-- An event about a task instance is raised. -/
def State.raiseTask (s : State) (code : Nat) (r : TaskRun) : State := s.raise code r.die r.unit r.detail

/-- An event raised at most once per task (R548). -/
def State.raiseOncePerTask (s : State) (code k : Nat) : State :=
  match s.run? k with
  | none => s
  | some r => if r.once.contains code then s else (s.setRun { r with once := code :: r.once }).raiseTask code r

/-- An event raised at most once per graph instance (R548). -/
def State.raiseOncePerInst (s : State) (code : Nat) (r : TaskRun) : State :=
  let x := s.inst r.graph r.inst
  if x.once.contains code then s
  else (s.setInst r.graph r.inst { x with once := code :: x.once }).raiseTask code r

/-- The outputs of a task instance are withheld from now on (R556). -/
def State.withhold (s : State) (k : Nat) : State :=
  match s.run? k with
  | none => s
  | some r => s.setRun { r with withheld := true }

/-- A graph instance is withheld: every task of it counts as having had its outputs withheld; an instance already
retired never is (R434). -/
def State.withholdInst (s : State) (g j : Nat) : State :=
  let x := s.inst g j
  if x.retired then s
  else
    let s1 := s.setInst g j { x with withheld := true }
    (s1.allRuns.filter fun r => r.graph == g && r.inst == j).foldl (fun s r => s.withhold r.key) s1

/-- ENG_STATUS.state of an engine: 0 OFF, 1 IDLE, 2 BUSY, 3 GATED, 4 QUARANTINED, 5 RETIRED, 6 SPARE. -/
def State.engState (s : State) (t e : Nat) : Nat := s.fget (Reg.ENG_STATUS_state t e)

def State.setEng (s : State) (t e v : Nat) : State := s.fset (Reg.ENG_STATUS_state t e) v

/-- PWR_DOM of a die domain: 0 OFF, 1 RET, 2 ON, 3 waking. -/
def State.dom (s : State) (t d : Nat) : Nat := s.fget (Reg.PWR_DOM_dom t d)

/-- Time an engine domain has spent in RET so far is added to PWR_CNT_RET_US in whole microseconds, the remainder
carried (Table 20.5). -/
def State.settleRet (s : State) (t d : Nat) : State :=
  match s.pow.retFrom.find? fun e => e.1 == engKey t d with
  | none => s
  | some (_, from_) =>
    let ns := s.now - from_ + smGet 0 s.pow.retRem t
    let s1 := s.count (Reg.PWR_CNT_RET_US_us t) (ns / 1000)
    { s1 with pow := { s1.pow with retFrom := s1.pow.retFrom.filter (fun e => e.1 != engKey t d),
                                   retRem := smPut 0 s1.pow.retRem t (ns % 1000) } }

/-- A die domain changes state: PWR_DOM and the on bit of PACE_DOM follow; a domain that is not ON has no pace and keeps
its LDO setpoint (R36, R49); time in RET is counted. An engine's ENG_STATUS follows unless it is quarantined or
retired. -/
def State.setDom (s : State) (t d v : Nat) : State :=
  let s0 := s.settleRet t d
  let s1 := if v == 0 && d < 18 then s0.stLose t d else s0
  let s2 := (s1.fset (Reg.PWR_DOM_dom t d) v).fset (Reg.PACE_DOM_on t d) (b2n (v == 2))
  let s3 := if v == 2 then s2 else s2.fset (Reg.PACE_DOM_pace t d) 0
  let s4 := if v == 1 && d < 18 then
      { s3 with pow := { s3.pow with retFrom := s3.pow.retFrom ++ [(engKey t d, s3.now)] } } else s3
  let s5 := if v == 2 then s4 else { s4 with paceDom := smPut {} s4.paceDom (engKey t d) {} }
  if d < 18 && s5.engState t d != 4 && s5.engState t d != 5 then
    s5.setEng t d (if (s5.logicalOf t d).isNone then 6 else if v == 2 then 1 else if v == 1 then 3 else 0)
  else s5

/-- A domain that is not ON begins its wake (R492, R493): PWR_CNT_WAKE counts it. -/
def State.startWake (s : State) (t d : Nat) : State :=
  let v := s.dom t d
  if v == 2 || v == 3 then s
  else
    let s1 := (s.settleRet t d).fset (Reg.PWR_DOM_dom t d) 3
    let s2 := s1.count (Reg.PWR_CNT_WAKE_count t) 1
    { s2 with pow := { s2.pow with
        wakes := smPut {} s2.pow.wakes (engKey t d) { since := s2.now, fromOff := v == 0, running := true },
        lateSeen := s2.pow.lateSeen.filter (· != engKey t d) } }

/-- A logical map as it will be at the boundary: the physical engine of logical `i`. -/
def State.stagedPhys (s : State) (t i : Nat) : Nat :=
  let v := s.stagedValue (if i < 8 then Reg.ENG_LMAP_0 t else Reg.ENG_LMAP_1 t)
  bits v (8 * (i % 8) + 4) (8 * (i % 8))

/-- A SPARE engine: not mapped, neither quarantined nor retired. -/
def State.isSpare (s : State) (t e : Nat) : Bool :=
  e < 18 && (s.logicalOf t e).isNone && s.engState t e != 4 && s.engState t e != 5

/-- Named by the map in force or by a staged one. -/
def State.named (s : State) (t e : Nat) : Bool := (List.range 16).any fun i => s.stagedPhys t i == e

/-- The die's SPARE engines, ascending. -/
def State.spares (s : State) (t : Nat) : List Nat := (List.range 18).filter fun e => s.isSpare t e

/-- HLT_SPARES shows the SPARE engines of a die (Table 18.9). -/
def State.showSpares (s : State) (t : Nat) : State := s.fset (Reg.HLT_SPARES_spare t) (min 3 (s.spares t).length)

/-- The hardware stages logical `i` of die `t` onto physical engine `e`, which begins its wake (R436, R494, R508). -/
def State.stageMap (s : State) (t i e : Nat) : State :=
  let s1 := s.stageField (if i < 8 then Reg.ENG_LMAP_0_phys t i else Reg.ENG_LMAP_1_phys t (i - 8)) e
  ({ s1 with chk := { s1.chk with lmapAt := smPut 0 s1.chk.lmapAt t s1.now } }).startWake t e

/-- The die's highest-numbered SPARE engine that no staged map names. -/
def State.bestSpare (s : State) (t : Nat) : Option Nat := (s.spares t).reverse.find? fun e => !s.named t e

/-- CHK_ERR captures the die's first CHK event of class C2 or C3 (R445). -/
def State.captureChk (s : State) (t code e g j i : Nat) : State :=
  s.capture (Reg.CHK_ERR t) (bits code 5 0 + e * 2 ^ 6 + g * 2 ^ 16 + j % 64 * 2 ^ 24 + i * 2 ^ 32)

/-- A CHK event about a task on engine `e`. -/
def State.raiseChk (s : State) (code e : Nat) (r : TaskRun) : State :=
  (s.raiseTask code r).captureChk r.die code e r.graph r.inst r.task

/-- The engine's logical index, when mapped, is staged onto the best SPARE (R436). With none, the loss is decided at the
boundary (R63, R436). -/
def State.remap (s : State) (t e : Nat) : State :=
  match s.logicalOf t e, s.bestSpare t with
  | some i, some e' =>
    let s1 := s.stageMap t i e'
    { s1 with hlt := { s1.hlt with chkStaged := withOnce (t * 16 + i) s1.hlt.chkStaged, swapPend := smPut 0 s1.hlt.swapPend t 0 } }
  | _, _ => s

/-- An engine is retired (R439): ENG_STATUS 5, domain OFF (Table 17.7), 0x15C9, counted, kept in the always-on domain and
queued for a repair entry (R503). -/
def State.retire (s : State) (t e : Nat) : State :=
  if s.engState t e == 5 then s
  else
    let s1 := s.setDom t e 0
    let s2 := (s1.setEng t e 5).fset (Reg.CHK_ENG_qstate t e) 3
    let s3 := s2.fset ⟨Reg.CHK_STATUS t, 8 + e, 8 + e⟩ 0
    let s4 := (s3.raise 0x15C9 t e 0).count (Reg.CHK_CNT_RETIRE_count t) 1
    let s5 := { s4 with chk := { s4.chk with retired := s4.chk.retired ++ [engKey t e],
                                             burnPend := s4.chk.burnPend ++ [(engKey t e, 0xFF)],
                                             restart := s4.chk.restart.filter (· != engKey t e) } }
    s5.showSpares t

/-- An engine is quarantined (R436): ENG_STATUS 4, held ON, its instances of the period withheld, its logical index
staged onto a SPARE, its test begun (R437). -/
def State.quarantine (s : State) (t e : Nat) : State :=
  if s.engState t e == 4 || s.engState t e == 5 then s
  else
    let s1 := (s.startWake t e).setEng t e 4
    let s2 := (s1.fset ⟨Reg.CHK_STATUS t, 8 + e, 8 + e⟩ 1).count (Reg.CHK_CNT_QUAR_count t) 1
    let s3 := (s2.fset (Reg.CHK_ENG_qstate t e) 1).fset (Reg.CHK_ENG_clean_runs t e) 0
    let used := s3.allRuns.filter fun r =>
      r.die == t && r.exec < 32 && r.phys == e && (r.st == .running || r.st == .ended || 0 < r.started)
    let s4 := used.foldl (fun s r => s.withholdInst r.graph r.inst) s3
    (s4.remap t e).showSpares t

/-- An advisory of a cause (R509, Table 18.3): raised at most once in 3,600 s, else counted as suppressed. -/
def State.advise (s : State) (cause : Nat) : State :=
  let recent := s.hlt.advSeen.contains cause && decide (s.now < smGet 0 s.hlt.advAt cause + 3600 * 10 ^ 9)
  if recent then s.count Reg.HLT_CNT_ADV_SUPP_count 1
  else
    let s1 := { s with hlt := { s.hlt with
      advSeen := withOnce cause s.hlt.advSeen, advAt := smPut 0 s.hlt.advAt cause s.now } }
    ((s1.raise 0x0742 oHub uNone 0).fset Reg.HLT_SCORE_adv_cause cause).fset Reg.HLT_SCORE_advisory 1

/-- A strike against an engine (R435, R439): counted, timed, quarantined; retired when its last strike lies less than
86,400 s back. -/
def State.strike (s : State) (t e : Nat) : State :=
  if s.engState t e == 4 || s.engState t e == 5 then s
  else
    let last := (s.rd (Reg.CHK_ENG_TIME t e)).toNat
    let s1 := (s.count (Reg.CHK_ENG_strikes t e) 1).wr (Reg.CHK_ENG_TIME t e) (BitVec.ofNat 64 s.now)
    let s2 := (s1.advise 5).quarantine t e
    if last ≠ 0 ∧ s.now < last + 86400 * 10 ^ 9 then s2.retire t e else s2

/-- A strike that arises from a task: one per task (R435). -/
def State.strikeTask (s : State) (k : Nat) : State :=
  match s.run? k with
  | none => s
  | some r => if r.struck then s else (s.setRun { r with struck := true }).strike r.die r.phys

/-- ADM_PREEMPT shows the request and the graph it names (Table 6.14). -/
def State.showPreempt (s : State) : State :=
  let g := s.fget Reg.ADM_PREEMPT_graph
  let s1 := s.fset Reg.ADM_PREEMPT_pending (b2n (s.plan.preemptPend.contains g || s.plan.resumePend.contains g))
  s1.fset Reg.ADM_PREEMPT_preempted (b2n (s.plan.preempted.contains g))

/-- Pre-emption of a graph takes effect: no later instance is released, and 0x01CC is raised (R186, R188). -/
def State.takePreempt (s : State) (g : Nat) : State :=
  let s1 := { s with plan := { s.plan with
    preemptPend := s.plan.preemptPend.filter (· != g),
    preempted := if s.plan.preempted.contains g then s.plan.preempted else s.plan.preempted ++ [g] } }
  (s1.raise 0x01CC oHub 0x10 0).showPreempt

/-- A step boundary (R186): every task of the instance has ended or been aborted. A pre-emption that waits for one of the graph takes effect. -/
def State.stepBoundary (s : State) (g j : Nat) : State :=
  if s.plan.preemptPend.contains g && s.allRuns.all (fun r => r.graph != g || r.inst != j || r.done) then s.takePreempt g else s

/-- A task instance leaves flight: ended or aborted now. Its watch is disarmed, the die's count falls, and its engine
becomes IDLE when nothing else runs on it (Tables 5.17, 16.12, 3.16). The last task of an instance makes a step boundary (R186, R188). -/
def State.finish (s : State) (r : TaskRun) (st : RunSt) (withheld : Bool) : State :=
  let s1 := s.setRun { r with st := st, ended := s.dieNow r.die, close := none, withheld := r.withheld || withheld }
  let s2 := s1.fset (Reg.PLN_INFLIGHT_now r.die) (s1.fget (Reg.PLN_INFLIGHT_now r.die) - 1)
  let s3 := if r.close.isSome then
      s2.fset (Reg.WDG_STATUS_armed r.die) (s2.fget (Reg.WDG_STATUS_armed r.die) - 1) else s2
  let s4 := if r.exec < 32 && r.st == .running && s3.engState r.die r.phys == 2
      && (s3.unitRun? r.die r.phys).isNone && (s3.moveRun? r.die r.phys).isNone then
    s3.setEng r.die r.phys 1
  else s3
  s4.stepBoundary r.graph r.inst

/-- The beats for which an aborted task ran on its engine's unit port, and those it stalled, are counted (R95, R100). Their numbers are free values. -/
def State.countAborted (s : State) (r : TaskRun) : State :=
  if r.exec < 16 && r.st == .running then
    let (n, s1) := s.draw
    (s1.count (Reg.ENG_CNT_BUSY_beats r.die r.phys) (Config.ranBeats n)).count (Reg.ENG_CNT_STALL_beats r.die r.phys) (Config.ranStalls n)
  else s

/-- A task instance is aborted: it retires at once and its outputs are withheld. -/
def State.abort (s : State) (r : TaskRun) : State := if r.live then (s.countAborted r).finish r .aborted true else s

/-- A role epoch advances by one, the value 0 skipped (R374). -/
def State.advanceRole (s : State) (f : Fld) : State :=
  let e := (s.fget f + 1) % 2 ^ 32
  s.fset f (if e == 0 then 1 else e)

/-- A partition is lost on every die it spans (R142): its PLN_PART state reads 3, its tasks in flight are aborted, its
instances not yet retired are withheld, its role epoch advances. -/
def State.losePart (s : State) (p : Nat) : State :=
  match s.part? p with
  | none => s
  | some pr =>
    if s.plan.lost.contains p then s
    else
      let s1 := { s with plan := { s.plan with lost := s.plan.lost ++ [p] } }
      let s2 := pr.dies.foldl (fun s d => s.fset (Reg.PLN_PART_state d.die d.slot) 3) s1
      let mine := s2.allRuns.filter fun r => ((s2.graph? r.graph).map (·.part)) == some p
      let s3 := mine.foldl (fun s r => s.abort r) s2
      let s4 := mine.foldl (fun s r => s.withholdInst r.graph r.inst) s3
      s4.advanceRole (Reg.OHP_ROLE_P_epoch p)

/-- Every partition of the plan in force that spans a die is lost. -/
def State.losePartsOn (s : State) (t : Nat) : State :=
  match s.planRec with
  | none => s
  | some r => (r.plan.parts.filter fun p => (p.on t).isSome).foldl (fun s p => s.losePart p.part) s

/-- The engine raises an event that withholds its task's outputs and is a strike (R435). -/
def State.strikeEvent (s : State) (code : Nat) (r : TaskRun) : State :=
  ((s.raiseTask code r).withhold r.key).strikeTask r.key

/-- A task ends with its outputs withheld by an event of class C2 that names it. -/
def State.withholdEvent (s : State) (code : Nat) (r : TaskRun) : State := (s.raiseTask code r).withhold r.key

end Sys2Proof.Machine
end

