-- ==== Sys2Proof/Machine/Plan.lean ====
section
/-! DEFINITION. Plan sections: their records read from bytes (Tables 5.1–5.5), and validation (R157, Table 5.9). -/

namespace Sys2Proof.Machine

/-- A plan header of zeros: what a section too short for its header reads as. -/
def plan0 : Plan where
  headOk := false
  inside := false
  kind := 0
  lostDie := 0
  planId := 0
  periodUs := 0
  nModes := 0
  initMode := 0
  nPart := 0
  nModels := 0
  nGraphs := 0
  margin := 0
  trans := []
  parts := []
  models := []
  graphs := []

/-- One die record, 32 bytes at an offset (Table 5.2). -/
def readDieRec (b : List Byte) (o : Nat) : DieRec :=
  let w0 := u b o 8
  let w1 := u b (o + 8) 8
  let w2 := u b (o + 16) 8
  let w3 := u b (o + 24) 8
  { die := bits w0 3 0, slot := bits w0 6 4, engMask := bits w0 23 8, chanMask := bits w0 31 24,
    wayMask := bits w0 47 32, wdgBase := bits w0 55 48, nearBase := bits w1 15 0, nearSize := bits w1 31 16,
    wdgCount := bits w1 40 32, budNear := bits w2 15 0, budShared := bits w2 31 16, budRemote := bits w2 47 32,
    budBulk := bits w2 63 48,
    resv := bits w0 7 7 != 0 || bits w0 63 56 != 0 || bits w1 63 41 != 0 || w3 != 0 }

/-- Consecutive die records. -/
def readDieRecs (b : List Byte) (o : Nat) : Nat → List DieRec
  | 0 => []
  | n + 1 => readDieRec b o :: readDieRecs b (o + 32) n

/-- Bytes a partition record takes: head, mode table and a die record per die of its mask (R139). -/
def partSize (b : List Byte) (o : Nat) : Nat := 40 + 32 * popcount 8 (bits (u b o 8) 15 8)

/-- One partition record (Table 5.2). -/
def readPart (b : List Byte) (o : Nat) : PartRec :=
  let h := u b o 8
  { part := bits h 5 0, dieMask := bits h 15 8,
    models := (List.range 32).map fun m => u b (o + 8 + m) 1,
    dies := readDieRecs b (o + 40) (popcount 8 (bits h 15 8)),
    resv := bits h 7 6 != 0 || bits h 63 16 != 0 }

/-- Consecutive partition records, and the offset after them. -/
def readParts (b : List Byte) (o : Nat) : Nat → List PartRec × Nat
  | 0 => ([], o)
  | n + 1 =>
    let (ps, e) := readParts b (o + partSize b o) n
    (readPart b o :: ps, e)

def readModel (b : List Byte) (o : Nat) : ModelRec :=
  let w := u b o 8
  { idx := bits w 7 0, first := bits w 31 16, count := bits w 47 32, resv := bits w 15 8 != 0 || bits w 63 48 != 0 }

def readDep (b : List Byte) (o : Nat) : Dep :=
  let w := u b o 4
  { task := bits w 11 0, graph := bits w 19 12, ext := bit w 20, inst := bits w 26 21, resv := bits w 31 27 != 0 }

/-- One task descriptor, 64 bytes (Table 5.5). -/
def readTask (b : List Byte) (o : Nat) : TaskDesc :=
  let w (i : Nat) : Nat := u b (o + 8 * i) 8
  { kind := bits (w 0) 3 0, chained := bit (w 0) 4, pin := bit (w 0) 5, pinEngine := bits (w 0) 9 6,
    syncKind := bits (w 0) 11 10, listBlk := bits (w 0) 34 16, listLen := bits (w 0) 63 48,
    cost := bits (w 1) 31 0, deadline := bits (w 1) 63 32, seed := w 2, earliest := bits (w 3) 31 0,
    depFirst := bits (w 3) 45 32, depCount := bits (w 3) 52 46, stage := bits (w 3) 60 53,
    rdNear := bits (w 4) 31 0, wrNear := bits (w 4) 63 32, rdShared := bits (w 5) 31 0, wrShared := bits (w 5) 63 32,
    rdRemote := bits (w 6) 31 0, wrRemote := bits (w 6) 63 32, rdBulk := bits (w 7) 31 0, wrBulk := bits (w 7) 63 32,
    resv := bits (w 0) 15 12 != 0 || bits (w 0) 47 35 != 0 || bits (w 3) 63 61 != 0 }

/-- One graph record at offset `o`; the offsets of its arrays count from `base` (Table 5.3, R190). -/
def readGraph (b : List Byte) (base o : Nat) : GraphRec :=
  let w (i : Nat) : Nat := u b (o + 8 * i) 8
  let n := bits (w 0) 44 32
  let nd := bits (w 3) 15 0
  let tasksAt := base + bits (w 2) 31 0
  let dof := base + bits (w 2) 63 32
  let inside := decide (tasksAt + 64 * n ≤ b.length ∧ dof + 4 * nd ≤ b.length)
  { id := bits (w 0) 7 0, model := bits (w 0) 13 8, gkind := bits (w 0) 15 14, part := bits (w 0) 21 16,
    reps := bits (w 0) 29 24 + 1, offset := bits (w 1) 31 0, interval := bits (w 1) 63 32, nTasks := n, nDeps := nd,
    tasks := if inside && n ≤ 4096 then (List.range n).map fun i => readTask b (tasksAt + 64 * i) else [],
    deps := if inside && nd ≤ 16384 then (List.range nd).map fun i => readDep b (dof + 4 * i) else [],
    resv := bits (w 0) 23 22 != 0 || bits (w 0) 31 30 != 0 || bits (w 0) 63 45 != 0 || bits (w 3) 63 16 != 0,
    inside := inside }

/-- A plan section read from its bytes (R134, Table 5.1). -/
def readPlan (b : List Byte) : Plan :=
  if b.length < 64 then plan0
  else
    let nModes := u b 0x10 1
    let nPart := u b 0x12 1
    let nModels := u b 0x13 1
    let nGraphs := u b 0x14 2
    let ot := u b 0x18 4
    let op := u b 0x1C 4
    let om := u b 0x20 4
    let og := u b 0x24 4
    let (parts, pe) := readParts b op (min nPart 64)
    let graphs := (List.range (min nGraphs 256)).map fun i => readGraph b 0 (og + 32 * i)
    { headOk := u b 0 4 == 0x4E4C504F && u b 4 2 == 1 && u b 0x28 4 == b.length && u b 0x17 1 == 0
        && (sliceB b 0x2C 20).all (· == 0),
      inside := decide (ot + 4 * nModes ≤ b.length ∧ pe ≤ b.length ∧ om + 8 * nModels ≤ b.length
        ∧ og + 32 * nGraphs ≤ b.length) && ot % 8 == 0 && op % 8 == 0 && om % 8 == 0 && og % 8 == 0
        && graphs.all (·.inside),
      kind := u b 6 1, lostDie := u b 7 1, planId := u b 8 4, periodUs := u b 0xC 4, nModes := nModes,
      initMode := u b 0x11 1, nPart := nPart, nModels := nModels, nGraphs := nGraphs, margin := u b 0x16 1,
      trans := (List.range (min nModes 32)).map fun i => u b (ot + 4 * i) 4,
      parts := parts, models := (List.range (min nModels 64)).map fun i => readModel b (om + 8 * i),
      graphs := graphs }

/-- A validation failure as PLN_ERR records it (Table 5.15). -/
structure VFail where
  code : Nat
  graph : Nat := 0
  task : Nat := 0
  part : Nat := 0
deriving DecidableEq, Repr

/-- The first failing check of a list of (holds?, failure). -/
def firstFail (xs : List (Bool × VFail)) : Option VFail := (xs.find? fun x => !x.1).map Prod.snd

/-- Addressable size of die t's near memory, bytes (R26, Table 1.7). -/
def PartCfg.nearTop (p : PartCfg) (t : Nat) : Nat := if bit p.near32 t then 0x0007E0000000 else 0x0003F0000000

/-- The header checks of Table 5.9: `same` holds the period and the mode count of the other plans of the image. -/
def checkHead (c : PartCfg) (same : List (Nat × Nat)) (p : Plan) : Option VFail :=
  firstFail [
    (p.headOk && p.inside && decide (p.kind ≤ 2) && (p.kind == 1 || p.lostDie == 0), { code := 0x01 }),
    (decide (1 ≤ p.nModes ∧ p.nModes ≤ 32 ∧ p.initMode < p.nModes ∧ 1 ≤ p.nPart ∧ p.nPart ≤ 64 ∧ 1 ≤ p.nModels
      ∧ p.nModels ≤ 64 ∧ 1 ≤ p.nGraphs ∧ p.nGraphs ≤ 256 ∧ p.margin ≤ 50), { code := 0x02 }),
    (decide (10000 ≤ p.periodUs ∧ p.periodUs ≤ 1000000) && same.all (fun x => x == (p.periodUs, p.nModes)),
      { code := 0x03 }),
    (p.kind != 1 || decide (p.lostDie < c.tzCount), { code := 0x05 })]

/-- The transition table names no mode at or above n_modes. -/
def checkTrans (p : Plan) : Option VFail :=
  firstFail (p.trans.map fun w => (decide (w < 2 ^ p.nModes), { code := 0x0C }))

/-- Die records of two partitions on one die do not overlap (R140). -/
def recApart (a b : DieRec) : Bool :=
  a.die != b.die || (a.slot != b.slot && (a.engMask &&& b.engMask) == 0 && (a.chanMask &&& b.chanMask) == 0
    && (a.wayMask &&& b.wayMask) == 0
    && decide (a.nearBase + a.nearSize ≤ b.nearBase ∨ b.nearBase + b.nearSize ≤ a.nearBase ∨ a.nearSize = 0 ∨ b.nearSize = 0)
    && decide (a.wdgBase + a.wdgCount ≤ b.wdgBase ∨ b.wdgBase + b.wdgCount ≤ a.wdgBase))

/-- A near-memory region spreads evenly over its channels and fits what each can address, 2,016 or 4,032 MiB (R203). -/
def regionFits (c : PartCfg) (d : DieRec) : Bool :=
  let k := popcount 8 d.chanMask
  if k == 0 then d.nearSize == 0
  else d.nearSize % k == 0 && decide (d.nearSize / k ≤ (if bit c.near32 d.die then 4032 else 2016))

/-- A die record is well formed by itself (R140, R203). -/
def recOk (c : PartCfg) (d : DieRec) : Bool :=
  !d.resv && d.engMask != 0 && decide (1 ≤ d.wdgCount ∧ d.wdgBase + d.wdgCount ≤ 256)
    && decide ((d.nearBase + d.nearSize) * 2 ^ 20 ≤ c.nearTop d.die) && regionFits c d

/-- One partition record against those before it (codes 0x04, 0x05, 0x06). -/
def checkPart (c : PartCfg) (p : Plan) (before : List PartRec) (x : PartRec) : Option VFail :=
  firstFail [
    (!x.resv && x.dies.map (·.die) == setBits 8 x.dieMask && x.dies.all (recOk c)
      && before.all (fun y => y.part < x.part && y.dies.all fun d => x.dies.all fun e => recApart d e),
      { code := 0x04, part := x.part }),
    (x.dies.all (fun d => decide (d.die < c.tzCount) && !(p.kind == 1 && d.die == p.lostDie)),
      { code := 0x05, part := x.part }),
    ((x.models.take p.nModes).all (fun m => m == 0xFF || p.models.any fun r => r.idx == m),
      { code := 0x06, part := x.part })]

/-- Partition records in turn. -/
def checkParts (c : PartCfg) (p : Plan) (before : List PartRec) : List PartRec → Option VFail
  | [] => none
  | x :: xs =>
    match checkPart c p before x with
    | some f => some f
    | none => checkParts c p (before ++ [x]) xs

def checkModels (p : Plan) : Option VFail :=
  if p.models.all (fun m => !m.resv && decide (m.idx ≤ 63)) && (p.models.map (·.idx)).Nodup then none
  else some { code := 0x02 }

/-- Bytes of one list entry of a task kind (Tables 3.3, 3.8, 4.1, 4.3, 4.4, 5.7, 11.4). -/
def entrySize (kind : Nat) : Nat :=
  if kind == 3 || kind == 4 || kind == 5 then 32 else if kind == 6 then 64 else 16

/-- Bytes of a task's entry list, its chain header included (R127). -/
def listBytes (t : TaskDesc) : Nat := t.listLen * entrySize t.kind + (if t.chained then 32 else 0)

/-- A task executed by an engine's units. -/
def TaskDesc.isEngine (t : TaskDesc) : Bool := decide (1 ≤ t.kind ∧ t.kind ≤ 5) || t.kind == 9

/-- The dependences of task `i`. -/
def GraphRec.depsOf (g : GraphRec) (i : Nat) : List Dep :=
  match g.tasks[i]? with
  | none => []
  | some t => (g.deps.drop t.depFirst).take t.depCount

/-- The lowest-indexed engine task of the same graph that depends on task `i`. -/
def GraphRec.engSucc (g : GraphRec) (i : Nat) : Option Nat :=
  (List.range g.tasks.length).find? fun k =>
    (match g.tasks[k]? with | some t => t.isEngine | none => false)
      && (g.depsOf k).any fun d => !d.ext && d.task == i

/-- A dependence names what R151 allows. `others`: the graphs of the plan. -/
def depOk (others : List GraphRec) (g : GraphRec) (i : Nat) (d : Dep) : Bool :=
  !d.resv &&
  if d.ext then
    d.graph != g.id &&
    match others.find? fun x => x.id == d.graph with
    | none => false
    | some x => decide (d.task < x.nTasks) &&
        (if x.reps == g.reps then d.inst == 0 else g.reps == 1 && decide (d.inst < x.reps))
  else d.graph == g.id && d.inst == 0 && decide (d.task < i)

/-- One task of a graph (codes 0x09–0x0F). -/
def checkTask (p : Plan) (others : List GraphRec) (g : GraphRec) (i : Nat) (t : TaskDesc) : Option VFail :=
  let pr := p.parts.find? fun x => x.part == g.part
  let dies := match pr with | some x => x.dies | none => []
  let wdg := dies.foldl (fun m d => max m d.wdgCount) 0
  let f (c : Nat) : VFail := { code := c, graph := g.id, task := i }
  let sync := t.kind == 8
  let blks := if t.kind == 6 || t.kind == 7 then 0x80000 else 0x8000
  firstFail [
    (!t.resv && decide (1 ≤ t.kind ∧ t.kind ≤ 9) && (t.kind == 1 || !t.chained) && (!sync || !t.pin)
      && decide (t.syncKind < 2) && (sync || t.syncKind == 0) && (if sync then t.listLen == 0 else t.listLen != 0)
      && (if sync then t.cost == 0 else t.cost != 0) && decide (t.stage < wdg), f 0x09),
    (decide (t.depCount ≤ 64 ∧ t.depFirst + t.depCount ≤ g.nDeps) && (g.depsOf i).all (depOk others g i), f 0x0A),
    (decide (g.offset + (g.reps - 1) * g.interval + t.deadline ≤ p.periodUs * 1000)
      && (t.earliest == 0 || decide (t.earliest < t.deadline)), f 0x0B),
    (t.kind != 7 || t.pin || (g.engSucc i).isSome, f 0x0D),
    (sync || decide (t.listBlk * 256 + listBytes t ≤ blks * 256), f 0x0E),
    ((t.rdNear + t.wrNear == 0 || dies.any fun d => d.chanMask != 0)
      && (t.rdShared + t.wrShared == 0 || dies.any fun d => d.wayMask != 0), f 0x0F)]

/-- Tasks of a graph in ascending index. -/
def checkTasks (p : Plan) (others : List GraphRec) (g : GraphRec) : Nat → List TaskDesc → Option VFail
  | _, [] => none
  | i, t :: ts =>
    match checkTask p others g i t with
    | some f => some f
    | none => checkTasks p others g (i + 1) ts

/-- One graph: its record, then its tasks. `idOk` says whether its id is acceptable (image: unique; R190). -/
def checkGraph (p : Plan) (others : List GraphRec) (idOk : Bool) (g : GraphRec) : Option VFail :=
  let f (c : Nat) : VFail := { code := c, graph := g.id }
  match firstFail [
    (idOk && !g.resv && decide (g.gkind < 3) && p.models.any (fun m => m.idx == g.model)
      && p.parts.any (fun x => x.part == g.part) && (g.reps != 1 || g.interval == 0)
      && decide (g.offset + (g.reps - 1) * g.interval ≤ p.periodUs * 1000), f 0x07),
    (decide (1 ≤ g.nTasks ∧ g.nTasks ≤ 4096), f 0x08),
    (g.inside, f 0x01),
    (decide (g.nDeps ≤ 16384), f 0x0A)] with
  | some x => some x
  | none => checkTasks p others g 0 g.tasks

/-- The task instances of a set of graphs. -/
def nodesOf (gs : List GraphRec) : List (Nat × Nat × Nat) :=
  gs.flatMap fun g => (List.range g.reps).flatMap fun j => (List.range g.tasks.length).map fun i => (g.id, j, i)

/-- The task instances that instance j of task i waits for (R151); a graph not among `gs` does not run and holds
nothing. -/
def predsOf (gs : List GraphRec) (g : GraphRec) (j i : Nat) : List (Nat × Nat × Nat) :=
  (g.depsOf i).filterMap fun d =>
    if d.ext then
      match gs.find? fun x => x.id == d.graph with
      | none => none
      | some x => some (d.graph, if x.reps == g.reps then j else d.inst, d.task)
    else some (g.id, j, d.task)

/-- Predecessors of a node. -/
def nodePreds (gs : List GraphRec) (n : Nat × Nat × Nat) : List (Nat × Nat × Nat) :=
  match gs.find? fun x => x.id == n.1 with
  | none => []
  | some g => predsOf gs g n.2.1 n.2.2

/-- The nodes in an order that puts predecessors first, as far as one exists; what remains lies on a cycle. -/
def topo (gs : List GraphRec) : Nat → List (Nat × Nat × Nat) → List (Nat × Nat × Nat) → List (Nat × Nat × Nat)
    × List (Nat × Nat × Nat)
  | 0, done, rest => (done, rest)
  | fuel + 1, done, rest =>
    let ready := rest.filter fun n => (nodePreds gs n).all fun q => done.contains q || !rest.contains q
    if ready.isEmpty then (done, rest)
    else topo gs fuel (done ++ ready) (rest.filter fun n => !ready.contains n)

/-- The dependences form no cycle (R153): the first graph and task on one. -/
def checkCycle (gs : List GraphRec) : Option VFail :=
  let ns := nodesOf gs
  match (topo gs ns.length [] ns).2 with
  | [] => none
  | n :: _ => some { code := 0x0A, graph := n.1, task := n.2.2 }

/-- Graphs in ascending id. -/
def sortGraphs (gs : List GraphRec) : List GraphRec :=
  gs.foldl (fun acc g => (acc.filter fun x => x.id ≤ g.id) ++ [g] ++ acc.filter fun x => g.id < x.id) []

def checkGraphs (p : Plan) (others : List GraphRec) : List GraphRec → Option VFail
  | [] => none
  | g :: gs =>
    let idOk := (others.filter fun x => x.id == g.id).length == 1
    match checkGraph p others idOk g with
    | some f => some f
    | none => checkGraphs p others gs

/-- The first of several checks that fails. -/
def orElseFail (a : Option VFail) (b : Option VFail) : Option VFail := match a with | some f => some f | none => b

/-- Validation of a plan section (R157): header, transition table, partition records, model records, graphs in ascending
id with their tasks; the first failure. -/
def validatePlan (c : PartCfg) (same : List (Nat × Nat)) (p : Plan) : Option VFail :=
  orElseFail (checkHead c same p) <| orElseFail (checkTrans p) <| orElseFail (checkParts c p [] p.parts) <|
    orElseFail (checkModels p) <| orElseFail (checkGraphs p p.graphs (sortGraphs p.graphs)) (checkCycle p.graphs)

/-- Validation of a submitted graph against the plan in force; its id is not judged (R190). -/
def validateGraph (p : Plan) (g : GraphRec) : Option VFail :=
  let others := g :: p.graphs.filter fun x => x.id != g.id
  orElseFail (checkGraph p others true g) (checkCycle others)

/-- PLN_ERR captures a first validation failure (R163). -/
def State.capturePln (s : State) (f : VFail) (kind lostDie : Nat) : State :=
  s.capture Reg.PLN_ERR (f.code % 2 ^ 8 + f.graph % 2 ^ 8 * 2 ^ 8 + f.task % 2 ^ 12 * 2 ^ 16 + f.part % 2 ^ 6 * 2 ^ 32 + kind % 4 * 2 ^ 38 + lostDie % 8 * 2 ^ 40)

end Sys2Proof.Machine
end

