-- ==== Sys2Proof/Machine/Admission.lean ====
section
/-! DEFINITION. Admission (chapter 6): the capacity check (R168), durations (R170), placement (R175), list scheduling
(R176, R177), limits (R178) and verdicts (R167). -/

namespace Sys2Proof.Machine

/-- A verdict of the Admission Unit (R167, Table 6.13). -/
structure Verdict where
  code : Nat
  graph : Nat := 0
  task : Nat := 0
  planLevel : Bool := false
  bound : Nat := 0
deriving DecidableEq, Repr

/-- Settings admission reads: barrier_us and beacon_off_us, and the dies of the member (R170, R172). -/
structure AdmCfg where
  barrierUs : Nat
  beaconOff : Nat
  tzCount : Nat
deriving DecidableEq, Repr

/-- The settings in force. -/
def State.admCfg (s : State) : AdmCfg where
  barrierUs := max 1 (s.fget Reg.ADM_WAIT_barrier_us)
  beaconOff := s.fget Reg.ADM_CTRL_beacon_off_us
  tzCount := s.part.tzCount

/-- Sum of a measure over a list. -/
def sumBy {α : Type} (f : α → Nat) (xs : List α) : Nat := xs.foldl (fun n x => n + f x) 0

/-- All die records of a plan with their partitions. -/
def Plan.recs (p : Plan) : List (PartRec × DieRec) := p.parts.flatMap fun x => x.dies.map fun d => (x, d)

/-- The capacity inequalities of Table 6.2, with their codes, and the plan-level checks 0x17 and 0x1B. -/
def capacity (c : AdmCfg) (p : Plan) : Option Verdict :=
  let ts := List.range c.tzCount
  let rem (x : PartRec) (t : Nat) : Nat := sumBy (·.budRemote) (x.dies.filter fun d => d.die != t)
  let near := p.recs.all fun (x, d) =>
    d.chanMask == 0 || decide (d.budNear + rem x d.die ≤ 100 * popcount 8 d.chanMask)
  let shared := ts.all fun t =>
    let here := p.recs.filter fun (_, d) => d.die == t
    decide (sumBy (fun (_, d) => d.budShared) here
      + sumBy (fun (x, d) => if d.wayMask == 0 then 0 else rem x t) here ≤ 1536)
  let spoke := ts.all fun t =>
    decide (sumBy (fun (_, d) => d.budRemote) p.recs
      + sumBy (fun (_, d) => if d.die == t then d.budBulk else 0) p.recs ≤ 3125)
  let bulk := decide (sumBy (fun (_, d) => d.budBulk) p.recs ≤ 320)
  let one := p.recs.all fun (x, d) => x.dies.length != 1 || d.budRemote == 0
  let beacon := decide (c.beaconOff + 32 * 16 ≤ p.periodUs)
  ([(near, 0x13), (shared, 0x14), (spoke, 0x15), (bulk, 0x16), (one, 0x17), (beacon, 0x1B)].find? fun x => !x.1).map
    fun x => { code := x.2, planLevel := true }

/-- Master ports of a partition on a die (R169). -/
def nPorts (d : DieRec) : Nat := 2 * popcount 16 d.engMask + 1

/-- e of a task (R170). -/
def taskE (c : AdmCfg) (t : TaskDesc) : Nat :=
  if t.kind == 8 then (if t.syncKind == 1 then c.barrierUs * 1000 else 0) else ceilDiv (t.cost * 5) 8 + 10

/-- The traffic term of one class: bandwidth and latency (R170, Table 6.3). -/
def classTerm (bytes ports bud lat : Nat) : Nat := if bytes == 0 then 0 else ceilDiv (bytes * ports * 125) (8 * bud) + lat

/-- d of a task placed on a die (R170). -/
def taskD (c : AdmCfg) (d : DieRec) (t : TaskDesc) : Nat :=
  if t.kind == 8 then taskE c t
  else
    let n := nPorts d
    taskE c t + 40 + classTerm (t.rdNear + t.wrNear) n d.budNear 400
      + classTerm (t.rdShared + t.wrShared) n d.budShared 120
      + classTerm (t.rdRemote + t.wrRemote) n d.budRemote 2500 + classTerm (t.rdBulk + t.wrBulk) n d.budBulk 3000

/-- Does a partition's mode table name the graph's model in a mode (R141)? -/
def runsIn (p : Plan) (g : GraphRec) (m : Nat) : Bool :=
  match p.parts.find? fun x => x.part == g.part with
  | some x => nth 0xFF x.models m == g.model
  | none => false

/-- The graphs that run in a mode. -/
def modeGraphs (p : Plan) (gs : List GraphRec) (m : Nat) : List GraphRec := gs.filter fun g => runsIn p g m

/-- Device-Time offset of an instance's release (R145). -/
def instRelease (g : GraphRec) (j : Nat) : Nat := g.offset + j * g.interval

/-- lst of every node: the least of its deadline and its successors' lst, less e; successors before predecessors. -/
def lstMap (c : AdmCfg) (gs : List GraphRec) : SMap Int :=
  let ns := nodesOf gs
  let order := (topo gs ns.length [] ns).1.reverse
  let edges := ns.map fun n => (n, nodePreds gs n)
  order.foldl (fun m n =>
    match gs.find? fun x => x.id == n.1 with
    | none => m
    | some g =>
      match g.tasks[n.2.2]? with
      | none => m
      | some t =>
        let dl : Int := instRelease g n.2.1 + t.deadline
        let least := edges.foldl (fun (v : Int) e =>
          if e.2.contains n then min v (smGet 0 m (taskKey e.1.1 e.1.2.1 e.1.2.2)) else v) dl
        smPut 0 m (taskKey n.1 n.2.1 n.2.2) (least - taskE c t)) []

/-- lst of task i of instance 0 in the lowest mode in which the graph runs (R175). -/
def placeLst (c : AdmCfg) (p : Plan) (gs : List GraphRec) (g : GraphRec) (i : Nat) : Int :=
  match (List.range p.nModes).find? fun m => runsIn p g m with
  | none => 0
  | some m => smGet 0 (lstMap c (modeGraphs p gs m)) (taskKey g.id 0 i)

/-- Order by lst, then graph id, then task index (R175). -/
def lstBefore (a b : Int × Nat × Nat) : Bool :=
  decide (a.1 < b.1) || (a.1 == b.1 && (decide (a.2.1 < b.2.1) || (a.2.1 == b.2.1 && decide (a.2.2 < b.2.2))))

/-- Stable insertion into a list ordered by a test. -/
def insertBy {α : Type} (lt : α → α → Bool) (x : α) : List α → List α
  | [] => [x]
  | y :: ys => if lt x y then x :: y :: ys else y :: insertBy lt x ys

/-- Insertion sort: stable. -/
def sortBy {α : Type} (lt : α → α → Bool) (xs : List α) : List α := xs.foldl (fun acc x => insertBy lt x acc) []

/-- The engines a partition owns, by die then logical engine. -/
def ownedEngines (x : PartRec) : List (Nat × Nat) :=
  x.dies.flatMap fun d => (setBits 16 d.engMask).map fun i => (d.die, i)

/-- Sum of e over the tasks already placed on a logical engine's unit port. -/
def engLoad (c : AdmCfg) (gs : List GraphRec) (pl : List Placed) (t i : Nat) : Nat :=
  sumBy (fun q => if q.die == t && q.exec == i then
    match (gs.find? fun g => g.id == q.graph).bind fun g => g.tasks[q.task]? with
    | some d => taskE c d | none => 0 else 0) pl

/-- The placement of one task, given those of the engine tasks (R175 items 2–6). -/
def placeOne (c : AdmCfg) (p : Plan) (all : List GraphRec) (pl : List Placed) (g : GraphRec) (i : Nat) (t : TaskDesc) :
    Option Placed :=
  match p.parts.find? fun x => x.part == g.part with
  | none => none
  | some x =>
    let owned := ownedEngines x
    let low := (x.dies.map (·.die)).foldl min 8
    let pinned := owned.find? fun o => o.2 == t.pinEngine
    let at_ (k : Nat) : Option Placed := pl.find? fun q => q.graph == g.id && q.task == k
    if t.isEngine then
      if t.pin then pinned.map fun o => { graph := g.id, task := i, die := o.1, exec := o.2 }
      else
        let best := owned.foldl (fun (b : Option ((Nat × Nat) × Nat)) o =>
          let l := engLoad c all pl o.1 o.2
          match b with
          | none => some (o, l)
          | some (o', l') => if l < l' then some (o, l) else some (o', l')) none
        best.map fun (o, _) => { graph := g.id, task := i, die := o.1, exec := o.2 }
    else if t.kind == 7 then
      if t.pin then pinned.map fun o => { graph := g.id, task := i, die := o.1, exec := 16 + o.2 }
      else ((g.engSucc i).bind at_).map fun q => { graph := g.id, task := i, die := q.die, exec := 16 + q.exec }
    else if t.kind == 6 then
      let d := match (g.engSucc i).bind at_ with | some q => q.die | none => low
      some { graph := g.id, task := i, die := d, exec := 32 }
    else some { graph := g.id, task := i, die := low, exec := 63 }

/-- Placement of all tasks of the graphs `gs` (R175), given what is already placed; `all` are all graphs, placed ones
included. -/
def placeAll (c : AdmCfg) (p : Plan) (all gs : List GraphRec) (pl0 : List Placed) : List Placed :=
  let tasks := gs.flatMap fun g => (List.range g.tasks.length).filterMap fun i =>
    (g.tasks[i]?).map fun t => (g, i, t)
  let eng := sortBy (fun a b => lstBefore a.1 b.1)
    ((tasks.filter fun x => x.2.2.isEngine).map fun x => ((placeLst c p all x.1 x.2.1, x.1.id, x.2.1), x))
  let step (pl : List Placed) (x : GraphRec × Nat × TaskDesc) : List Placed :=
    match placeOne c p all pl x.1 x.2.1 x.2.2 with
    | some q => pl ++ [q]
    | none => pl
  let pl1 := (eng.map Prod.snd).foldl step pl0
  (tasks.filter fun x => !x.2.2.isEngine).foldl step pl1

/-- Where a task is placed. -/
def placedAt (pl : List Placed) (g i : Nat) : Option Placed := pl.find? fun q => q.graph == g && q.task == i

/-- Graph-level checks before scheduling: 0x18, 0x19, 0x1A, 0x20 (Table 6.1). -/
def graphChecks (p : Plan) (pl : List Placed) (g : GraphRec) : Option Verdict :=
  let x := p.parts.find? fun x => x.part == g.part
  let owned := match x with | some x => ownedEngines x | none => []
  let idx := List.range g.tasks.length
  let rec_ (i : Nat) : Option DieRec := (placedAt pl g.id i).bind fun q => x.bind fun x => x.on q.die
  let bad (f : Nat → TaskDesc → Bool) : Option Nat := idx.find? fun i =>
    match g.tasks[i]? with | some t => f i t | none => false
  let v (code : Nat) (i : Nat) : Verdict := { code := code, graph := g.id, task := if code == 0x20 then i else 0 }
  match bad fun _ t => t.pin && !owned.any (fun o => o.2 == t.pinEngine) with
  | some i => some (v 0x18 i)
  | none =>
  match bad fun i t =>
      match rec_ i with
      | none => false
      | some d => (t.rdNear + t.wrNear != 0 && d.budNear == 0) || (t.rdShared + t.wrShared != 0 && d.budShared == 0)
        || (t.rdRemote + t.wrRemote != 0 && d.budRemote == 0) || (t.rdBulk + t.wrBulk != 0 && d.budBulk == 0) with
  | some i => some (v 0x19 i)
  | none =>
  match bad fun _ t => t.isEngine && decide (0x7F0000 < t.listBlk * 256 + listBytes t) with
  | some i => some (v 0x1A i)
  | none =>
  match bad fun i t => match rec_ i with | none => false | some d => decide (d.wdgCount ≤ t.stage) with
  | some i => some (v 0x20 i)
  | none => none

/-- A busy or reserved interval [from, to) of an executor of a die. -/
structure Busy where
  die : Nat
  exec : Nat
  from_ : Nat
  to_ : Nat
deriving DecidableEq, Repr

/-- The beacon slots of every logical engine of every die, on both its ports (R172). -/
def beaconSlots (c : AdmCfg) : List Busy :=
  (List.range c.tzCount).flatMap fun t => (List.range 16).flatMap fun i =>
    let a := (c.beaconOff + 32 * i) * 1000
    [{ die := t, exec := i, from_ := a, to_ := a + 32000 }, { die := t, exec := 16 + i, from_ := a, to_ := a + 32000 }]

/-- Does [t, t + d) overlap no busy interval of the executor? -/
def freeAt (busy : List Busy) (die exec t d : Nat) : Bool :=
  busy.all fun b => b.die != die || b.exec != exec || decide (t + d ≤ b.from_ ∨ b.to_ ≤ t)

/-- The least t at or after `est` with a free gap of `d`: `est` itself or the end of a busy interval. -/
def leastFree (busy : List Busy) (die exec est d : Nat) : Nat :=
  let cands := est :: ((busy.filter fun b => b.die == die && b.exec == exec && decide (est < b.to_)).map (·.to_))
  let ok := cands.filter fun t => freeAt busy die exec t d
  ok.foldl min (cands.foldl max est)

/-- The state of the list scheduling. -/
structure Sched where
  busy : List Busy
  /-- bounds of the scheduled instances, by task key -/
  bounds : SMap Nat
  entries : List SchedEntry
deriving Repr

/-- One scheduled instance, or the rejection it meets (R176, R177). -/
def schedNode (c : AdmCfg) (p : Plan) (m : Nat) (gs : List GraphRec) (pl : List Placed) (sc : Sched)
    (n : Nat × Nat × Nat) : Except Verdict Sched :=
  match gs.find? fun x => x.id == n.1 with
  | none => .ok sc
  | some g =>
    match g.tasks[n.2.2]?, placedAt pl g.id n.2.2 with
    | some t, some q =>
      match (p.parts.find? fun x => x.part == g.part).bind fun x => x.on q.die with
      | none => .ok sc
      | some d =>
        let est0 := instRelease g n.2.1 + t.earliest
        let est := (predsOf gs g n.2.1 n.2.2).foldl (fun e k => max e (smGet 0 sc.bounds (taskKey k.1 k.2.1 k.2.2))) est0
        let dur := taskD c d t
        let rel := if t.kind == 8 then est else leastFree sc.busy q.die q.exec est dur
        let bound := rel + dur
        let dl := instRelease g n.2.1 + t.deadline
        let margin := if p.margin == 0 then 10 else p.margin
        if dl - ceilDiv (margin * (dl - rel)) 100 < bound then .error { code := 0x1C, graph := g.id, task := n.2.2 }
        else .ok
          { busy := if t.kind == 8 then sc.busy else { die := q.die, exec := q.exec, from_ := rel, to_ := bound } :: sc.busy,
            bounds := smPut 0 sc.bounds (taskKey n.1 n.2.1 n.2.2) bound,
            entries := sc.entries ++ [{
              mode := m, die := q.die, release := rel, bound := bound, graph := g.id,
              inst := n.2.1, task := n.2.2, exec := q.exec, window := d.wdgBase + t.stage, slot := d.slot }] }
    | _, _ => .ok sc

/-- The list scheduling loop: the ready instance of least lst first (R176). -/
def schedLoop (c : AdmCfg) (p : Plan) (m : Nat) (gs : List GraphRec) (pl : List Placed) (lst : SMap Int) :
    Nat → List (Nat × Nat × Nat) → Sched → Except Verdict Sched
  | 0, _, sc => .ok sc
  | fuel + 1, rest, sc =>
    let ready := rest.filter fun n => (nodePreds gs n).all fun q => !rest.contains q
    let key (n : Nat × Nat × Nat) : Int := smGet 0 lst (taskKey n.1 n.2.1 n.2.2)
    let before (a b : Nat × Nat × Nat) : Bool :=
      decide (key a < key b) || (key a == key b && decide (taskKey a.1 a.2.1 a.2.2 < taskKey b.1 b.2.1 b.2.2))
    let best := ready.foldl (fun (b : Option (Nat × Nat × Nat)) n => match b with
      | none => some n | some x => if before n x then some n else some x) none
    match best with
    | none => .ok sc
    | some n =>
      match schedNode c p m gs pl sc n with
      | .error v => .error v
      | .ok sc' => schedLoop c p m gs pl lst fuel (rest.filter (· != n)) sc'

/-- Does an engine's both ports stay free for more than 20 µs after a bound (Table 6.5 gate_after)? The engine's first use
of the following period counts after its last of this one. -/
def gateAfter (c : AdmCfg) (periodNs : Nat) (es : List SchedEntry) (x : SchedEntry) : Bool :=
  if 32 ≤ x.exec then false
  else
    let i := x.exec % 16
    let slot := (c.beaconOff + 32 * i) * 1000
    let uses := (es.filter fun y => y.die == x.die && y.exec < 32 && y.exec % 16 == i).map (fun y => (y.release, y.bound))
      ++ [(slot, slot + 32000)]
    let later := uses.filter fun y => y != (x.release, x.bound) && decide (x.bound < y.2)
    let next := (later.map Prod.fst) ++ (uses.map fun y => y.1 + periodNs)
    let n := next.foldl min (2 * periodNs)
    decide (x.bound + 20000 < n)

/-- Entries in table order: by release, then exec (R179). -/
def tableOrder (es : List SchedEntry) : List SchedEntry :=
  sortBy (fun a b => decide (a.release < b.release) || (a.release == b.release && decide (a.exec < b.exec))) es

/-- The table of one mode for graphs `new`, beside entries `old` already in it (R176, R190). -/
def scheduleMode (c : AdmCfg) (p : Plan) (m : Nat) (all new : List GraphRec) (pl : List Placed) (old : List SchedEntry) :
    Except Verdict (List SchedEntry) :=
  let run := modeGraphs p all m
  let mine := modeGraphs p new m
  let ns := nodesOf mine
  let here := old.filter fun e => e.mode == m
  let busy := beaconSlots c ++ (here.filter fun e => e.exec < 63).map fun e =>
    { die := e.die, exec := e.exec, from_ := e.release, to_ := e.bound }
  let bounds := here.foldl (fun b e => smPut 0 b (taskKey e.graph e.inst e.task) e.bound) []
  match schedLoop c p m run pl (lstMap c run) ns.length ns { busy := busy, bounds := bounds, entries := [] } with
  | .error v => .error v
  | .ok sc =>
    let es := here ++ sc.entries
    .ok (tableOrder (sc.entries.map fun x => { x with gateAfter := gateAfter c (p.periodUs * 1000) es x }))

/-- Task instances in flight on a die in a mode. -/
def inflight (es : List SchedEntry) (m t : Nat) : Nat := (es.filter fun e => e.mode == m && e.die == t).length

/-- The limits of R178 on mode `m` of a plan: per die, per part, and table memory, given the entries that each die's tables hold with those of the
pairs admitted before, and the entries `new` of this pair. -/
def limitCheck (c : AdmCfg) (m : Nat) (es : List SchedEntry) (used : Nat → Nat) (new : List SchedEntry) : Option Nat :=
  let ts := List.range c.tzCount
  if ts.any fun t => decide (8192 < inflight es m t) then some 0x1D
  else if decide (8192 * c.tzCount < sumBy (inflight es m) ts) then some 0x1E
  else if ts.any fun t => decide (131072 < used t + (new.filter fun e => e.die == t).length) then some 0x1F
  else none

/-- Tables of all modes in ascending order, each judged by R178 when it is scheduled; the first rejection (R165). `lim` is the verdict of a limit. -/
def scheduleModes (c : AdmCfg) (p : Plan) (all new : List GraphRec) (pl : List Placed) (old : List SchedEntry) (lim : Nat → Verdict) :
    (Nat → Nat) → List Nat → Except Verdict (List SchedEntry)
  | _, [] => .ok []
  | used, m :: ms =>
    match scheduleMode c p m all new pl old with
    | .error v => .error v
    | .ok es => match limitCheck c m (old ++ es) used es with
      | some code => .error (lim code)
      | none => match scheduleModes c p all new pl old lim (fun t => used t + (es.filter fun e => e.die == t).length) ms with
        | .error v => .error v
        | .ok r => .ok (es ++ r)

/-- The completion bound of a graph: the largest bound less its instance's release (R167). -/
def graphBound (g : GraphRec) (es : List SchedEntry) : Nat :=
  es.foldl (fun b e => if e.graph == g.id then max b (e.bound - instRelease g e.inst) else b) 0

/-- The first graph-level rejection. -/
def firstVerdict (f : GraphRec → Option Verdict) : List GraphRec → Option Verdict
  | [] => none
  | g :: gs => match f g with | some v => some v | none => firstVerdict f gs

/-- Admission of one plan of the image (R165, R167): the admitted plan with its tables, or the first rejection. -/
def admitPlan (c : AdmCfg) (used : Nat → Nat) (p : Plan) (lists : List ListCopy) : Except Verdict PlanRec :=
  match capacity c p with
  | some v => .error v
  | none =>
    let gs := sortGraphs p.graphs
    let pl := placeAll c p gs gs []
    match firstVerdict (graphChecks p pl) gs with
    | some v => .error v
    | none =>
      match scheduleModes c p gs gs pl [] (fun code => { code := code, planLevel := true }) used (List.range p.nModes) with
      | .error v => .error v
      | .ok es => .ok { plan := p, placed := pl, table := es, lists := lists }

/-- Admission of a submitted graph against the plan in force (R190). `others`: the submitted graphs accepted earlier, less
one that this submission replaces. -/
def admitGraph (c : AdmCfg) (used : Nat → Nat) (r : PlanRec) (others : List Submitted) (x : Submitted) :
    Except Verdict Submitted :=
  let p := r.plan
  let all := p.graphs ++ others.map (·.graph) ++ [x.graph]
  let pl := placeAll c p all [x.graph] (r.placed ++ others.flatMap (·.placed))
  match graphChecks p pl x.graph with
  | some v => .error v
  | none =>
    let old := r.table ++ others.flatMap (·.table)
    match scheduleModes c p all [x.graph] pl old (fun code => { code := code, graph := x.graph.id }) used (List.range p.nModes) with
    | .error v => .error v
    | .ok es => .ok { x with
        placed := pl.filter (fun q => q.graph == x.graph.id), table := es,
        bound := graphBound x.graph es }

/-- ADM_LAST takes a verdict, whatever its valid bit (R196). -/
def State.setLast (s : State) (v : Verdict) : State :=
  s.wr Reg.ADM_LAST (BitVec.ofNat 64 (v.graph % 256 + v.code * 2 ^ 8 + v.task % 4096 * 2 ^ 16 + b2n v.planLevel * 2 ^ 28
    + v.bound % 2 ^ 30 * 2 ^ 32 + 2 ^ 63))

/-- Entries of a die's tables over every admitted plan and every submitted graph accepted or entered (ADM_TBL). -/
def State.tblUsed (s : State) (t : Nat) : Nat :=
  let n (es : List SchedEntry) : Nat := (es.filter fun e => e.die == t).length
  sumBy (fun r => n r.table) s.plan.plans + sumBy (fun x => n x.table) s.plan.entered
    + sumBy (fun x => n x.table) s.plan.accepted

/-- ADM_TBL and ADM_STATUS follow the admission state (Tables 6.12, 6.17). -/
def State.showAdm (s : State) : State :=
  let s1 := s.dies.foldl (fun s t => s.fset (Reg.ADM_TBL_used t) (s.tblUsed t)) s
  let s2 := s1.fset Reg.ADM_STATUS_queued (min 255 s.plan.queued.length)
  let s3 := s2.fset Reg.ADM_STATUS_busy (b2n (!s.plan.queued.isEmpty))
  s3.showDue

end Sys2Proof.Machine
end

