-- ==== Sys2Proof/Machine/Pace.lean ====
section
/-! DEFINITION. The pace sentinels, the voltage loop and the pace alarm (chapter 2). -/

namespace Sys2Proof.Machine

def State.paceDie (s : State) (t : Nat) : PaceDie := smGet {} s.pace t
def State.setPaceDie (s : State) (t : Nat) (p : PaceDie) : State := { s with pace := smPut {} s.pace t p }
def State.paceDomAt (s : State) (t d : Nat) : PaceDom := smGet {} s.paceDom (engKey t d)
def State.setPaceDom (s : State) (t d : Nat) (p : PaceDom) : State :=
  { s with paceDom := smPut {} s.paceDom (engKey t d) p }

/-- Mean of the samples held, rounded down (R43). -/
def meanPace (h : List Nat) : Nat := h.foldl (· + ·) 0 / max 1 h.length

/-- The pace that a sentinel's count converts to by the ratio fused for its domain (R42), Mbeat/s. -/
def State.paceOf (s : State) (t d : Nat) (o : PaceObs) : Nat := o.count * smGet 1000 s.part.paceRatio (engKey t d) / 1000

/-- Does a sample of pace `p` meet each condition of R44: its count is zero, exceeds twice the ceiling pace, its slack reads 32 below floor?
"Its pace" is read as the sample's own, not the filtered pace (DEDUCED, log entry 65). -/
def paceConds (o : PaceObs) (p : Nat) : List Bool := [o.count == 0, decide (4600 < p), o.slack == 32 && decide (p < 1600)]

/-- The loop target in effect (Table 2.8). -/
def State.paceTarget (s : State) (t : Nat) : Nat := targetInEffect (s.fget (Reg.PACE_TARGET_target t))

/-- The fast layer's next setpoint of a domain, and whether the headroom is exhausted (R45, R48); a faulty sentinel
holds its domain at rail − 40 mV (Table 2.6). -/
def fastLayer (target f rail ldo : Nat) (fault : Bool) : Nat × Bool :=
  if fault then (rail - 40, false)
  else if f + 20 < target then
    let up := min (5 * ((target - f + 19) / 20)) 50
    let l := min (ldo + up) (rail - 40)
    (l, l == rail - 40)
  else if target + 20 < f then (max (ldo - 5) 500, false)
  else (ldo, false)

/-- One ON domain's sample (R43–R46, R55, R59): the filter, the sentinel fault, the LDO, the registers. `live` is false
while the die is fenced: setpoints are kept (R60). -/
def State.paceDomSample (s : State) (t d : Nat) (o : PaceObs) (live : Bool) : State :=
  let pd := s.paceDomAt t d
  let p := s.paceOf t d o
  let hist := (p :: pd.hist).take 16
  let f := meanPace hist
  let bad := List.zipWith (fun (c : Bool) n => if c then n + 1 else 0) (paceConds o p) pd.bad
  let was := s.flag (Reg.PACE_DOM_sentinel_fault t d)
  let fault := was || bad.any fun n => decide (4 ≤ n)
  let newFault := fault && !was
  let rail := (s.paceDie t).rail
  let (ldo, ex) := fastLayer (s.paceTarget t) f rail (s.fget (Reg.PACE_DOM_ldo t d)) fault
  let exh := if !live then pd.exhausted else if ex then true else (pd.exhausted && ldo == rail - 40)
  let s1 := s.setPaceDom t d { hist := hist, bad := bad, exhausted := exh }
  let s2 := (s1.fset (Reg.PACE_DOM_pace t d) (min f 4095)).fset (Reg.PACE_DOM_slack t d) o.slack
  let s3 := if live then s2.fset (Reg.PACE_DOM_ldo t d) ldo else s2
  let s4 := (s3.fset (Reg.PACE_DOM_limiter t d) (b2n o.held)).fset (Reg.PACE_DOM_sentinel_fault t d) (b2n fault)
  let mp := s4.fget (Reg.PACE_DOM_min_pace t d)
  let s5 := if f ≠ 0 ∧ (mp = 0 ∨ f < mp) then s4.fset (Reg.PACE_DOM_min_pace t d) (min f 4095) else s4
  let s6 := if f < 1600 && (pd.hist.isEmpty || 1600 ≤ meanPace pd.hist) then s5.raise 0x0045 t uNone d else s5
  let s7 := if exh && !pd.exhausted then s6.raise 0x0049 t uNone d else s6
  if newFault then
    if d < 18 then
      let s8 := s7.raise 0x2046 t d d
      let s9 := match s8.unitRun? t d with | some r => s8.withhold r.key | none => s8
      let s10 := match s9.moveRun? t d with | some r => s9.withhold r.key | none => s9
      (s10.quarantine t d).retire t d
    else s7.raise 0x3047 t uNone d
  else s7

/-- The ON domains of a die. -/
def State.onDoms (s : State) (t : Nat) : List Nat := (List.range 22).filter fun d => s.dom t d == 2

/-- A die's ALARM bit, the package's, and the below-floor mirror (R52, Table 2.13): a fenced or absent die does not
contribute. -/
def State.showAlarm (s : State) : State :=
  let a := s.dies.foldl (fun m t => setBit m t (s.flag (Reg.PACE_STATUS_alarm t) && s.dieState t == 1)) 0
  let b := s.dies.foldl (fun m t => setBit m t (s.flag (Reg.PACE_STATUS_below_floor t))) 0
  let s1 := s.fset Reg.PACE_ALARM_SUM_alarm_die a
  let s2 := s1.fset Reg.PACE_ALARM_SUM_alarm (b2n (a != 0))
  let s3 := s2.fset Reg.PACE_ALARM_SUM_below_floor_die b
  (if a != 0 then { s3 with plan := { s3.plan with alarmSeen := true } } else s3).showDue

/-- The die's status after its domains: die pace and slowest domain (R36), below floor, limiters, headroom, the alarm
(R51, R59) and the timer of its clearing. Of several domains that share the least pace the lowest is named, and domain 0 where none is ON:
the spec names none (DESIGN CHOICE, log entry 65). -/
def State.paceDieStatus (s : State) (t : Nat) : State :=
  let on := s.onDoms t
  let p (d : Nat) : Nat := s.fget (Reg.PACE_DOM_pace t d)
  let slow := on.foldl (fun (m : Option Nat) d => match m with
    | none => some d | some e => if p d < p e then some d else some e) none
  let dp := match slow with | some d => p d | none => 0
  let judged := on.filter fun d => !s.flag (Reg.PACE_DOM_sentinel_fault t d)
  let lim := on.any fun d => s.flag (Reg.PACE_DOM_limiter t d)
  let rail := (s.paceDie t).rail
  let exh := on.any fun d => s.fget (Reg.PACE_DOM_ldo t d) == rail - 40
  let s1 := (s.fset (Reg.PACE_STATUS_die_pace t) dp).fset (Reg.PACE_STATUS_slowest_domain t) (slow.getD 0)
  let s2 := s1.fset (Reg.PACE_STATUS_below_floor t) (b2n (on.any fun d => p d < 1600))
  let s3 := (s2.fset (Reg.PACE_STATUS_ceiling_active t) (b2n lim)).fset (Reg.PACE_STATUS_headroom_exhausted t) (b2n exh)
  let s4 := if lim then s3.count (Reg.PACE_CNT_LIMIT_count t) 1 else s3
  let m := s4.fget (Reg.PACE_MIN_min_pace t)
  let s5 := if dp ≠ 0 ∧ (m = 0 ∨ dp < m) then s4.fset (Reg.PACE_MIN_min_pace t) dp else s4
  let alarm := s5.flag (Reg.PACE_STATUS_alarm t)
  let s6 := if !alarm && judged.any (fun d => p d ≤ 1680) then
      ((s5.raise 0x0041 t uNone 0).fset (Reg.PACE_STATUS_alarm t) 1).count (Reg.PACE_CNT_ALARM_count t) 1
    else s5
  let pd := s6.paceDie t
  let ok := judged.all fun d => 1720 ≤ p d
  let low := !on.isEmpty && (List.range 22).all fun d => s6.fget (Reg.PACE_DOM_ldo t d) < rail - 80
  let s7 := s6.setPaceDie t { pd with
    okSince := if ok then some (pd.okSince.getD s6.now) else none,
    lowSince := if low then some (pd.lowSince.getD s6.now) else none }
  s7.showAlarm

/-- Does the loop of a die run: the part is supplied and out of reset, and so is the die (R60)? -/
def State.loopRuns (s : State) (t : Nat) : Bool :=
  s.hasDie t && (s.pow.phase == .booting || s.pow.phase == .running) && s.fget (Reg.RST_DIE_state t) != 2

/-- PACE_SAMPLE (R42–R46, R51, R55, R59–R61): one sample of every domain of die `t`, given for domains 0–21. -/
def execPaceSample (t : Nat) (obs : List PaceObs) (s : State) : Host.Outcome State Fault Refusal :=
  if s.loopRuns t then
    let live := s.dieState t != 2
    let s1 := (s.onDoms t).foldl (fun s d => match obs[d]? with
      | some o => s.paceDomSample t d o live | none => s) s
    .next (s1.paceDieStatus t)
  else .next s

/-- PACE_ALARM_CLEAR (R51, Table 2.5): a die in ALARM whose ON domains have all been at or above 1,720 Mbeat/s for
100 ms returns to NORMAL. -/
def execPaceAlarmClear (t : Nat) (s : State) : Host.Outcome State Fault Refusal :=
  match (s.paceDie t).okSince with
  | some since =>
    if s.hasDie t && s.flag (Reg.PACE_STATUS_alarm t) && decide (since + 100000000 ≤ s.now) then
      .next ((s.raise 0x0042 t uNone 0).fset (Reg.PACE_STATUS_alarm t) 0).showAlarm
    else .next s
  | none => .next s

/-- The rail command that R47 makes due: a raise first, else a lowering. -/
def State.railDue (s : State) (t : Nat) : Option Nat :=
  let pd := s.paceDie t
  let top := (List.range 22).foldl (fun m d => max m (s.fget (Reg.PACE_DOM_ldo t d))) 0
  let up := min 850 (roundUp (top + 50) 5)
  if pd.rail < top + 50 ∧ pd.rail < up then some up
  else match pd.lowSince with
    | some since => if since + 10000000 ≤ s.now ∧ 555 ≤ pd.rail then some (pd.rail - 5) else none
    | none => none

/-- SLOW_LAYER_UPDATE (R47, R50): the rail command due is sent; while avs_fault is set and none is due, a Status read.
No command is sent while a transaction or a raise is in progress. -/
def execSlowLayerUpdate (t : Nat) (s : State) : Host.Outcome State Fault Refusal :=
  let pd := s.paceDie t
  if !s.loopRuns t || pd.avs.isSome || pd.raising then .next s
  else match s.railDue t with
    | some v =>
      let s1 := s.fset (Reg.PACE_RAIL_rail_cmd t) v
      .next (s1.setPaceDie t { pd with avs := some { volt := some v }, raising := decide (pd.rail < v) })
    | none =>
      if s.flag (Reg.PACE_RAIL_avs_fault t) then .next (s.setPaceDie t { pd with avs := some { volt := none } })
      else .next s

/-- While avs_fault is set an event of the loop is raised at most once per second (R50, R548). -/
def limitSecond (fault : Bool) (last : Option Time) (now : Time) : Bool :=
  match last with
  | some l => !fault || decide (l + 1000000000 ≤ now)
  | none => true

/-- AVS_TRANSACTION_DONE (R50): the transaction in progress returns. `ok` is false on a CRC error or no acknowledge;
`readback` is the voltage read after a write, mV. A failure is retried up to three times; a lowering that failed stays due (R47). -/
def execAvsTransactionDone (t : Nat) (ok : Bool) (readback : Nat) (s : State) : Host.Outcome State Fault Refusal :=
  let pd := s.paceDie t
  let fault := s.flag (Reg.PACE_RAIL_avs_fault t)
  match pd.avs with
  | none => .next s
  | some tr =>
    let good := ok && (match tr.volt with | some v => decide (v ≤ readback + 25) && decide (readback ≤ v + 25) | none => true)
    let s0 := if ok && tr.volt.isSome then s.fset (Reg.PACE_RAIL_rail_read t) readback else s
    if good then
      let s1 := s0.fset (Reg.PACE_RAIL_avs_fault t) 0
      match tr.volt with
      | none => .next (s1.setPaceDie t { pd with avs := none })
      | some v =>
        if pd.raising then .next (s1.setPaceDie t { pd with avs := none, acked := v })
        else .next (s1.setPaceDie t { pd with avs := none, acked := v, rail := v, lowSince := none })
    else if tr.retries < 3 then
      let s1 := s0.count (Reg.PACE_CNT_AVS_RETRY_count t) 1
      let say := limitSecond fault pd.lastRetry s.now
      let s2 := if say then s1.raise 0x1044 t uNone 0 else s1
      .next (s2.setPaceDie t { pd with
        avs := some { tr with retries := tr.retries + 1 },
        lastRetry := if say then some s.now else pd.lastRetry })
    else
      let say := limitSecond fault pd.lastFail s.now
      let s1 := if say then s0.raise 0x1048 t uNone 0 else s0
      let s2 := (s1.fset (Reg.PACE_RAIL_avs_fault t) 1).fset (Reg.PACE_RAIL_rail_cmd t) pd.acked
      .next (s2.setPaceDie t { pd with
        avs := none, raising := false,
        lastFail := if say then some s.now else pd.lastFail })

/-- RAIL_RAISE_DONE (R48): the regulator reports the raised rail; the fast layer takes the new limit from its next
sample. -/
def execRailRaiseDone (t : Nat) (s : State) : Host.Outcome State Fault Refusal :=
  let pd := s.paceDie t
  if s.hasDie t && pd.raising && pd.avs.isNone then
    .next (s.setPaceDie t { pd with raising := false, rail := pd.acked })
  else .next s

end Sys2Proof.Machine
end

