-- ==== Sys2Proof/Machine/Exec.lean ====
section
/-! DEFINITION. Time-triggered execution (chapter 6) with its stage watchdogs (chapter 16): the release, the late start and
the end of a task, the close of its watch, pre-emption and resume requests, and the load of a period's schedule. -/

namespace Sys2Proof.Machine

/-- The mode in force. -/
def State.mode (s : State) : Nat := s.fget Reg.PLN_STATUS_mode

/-- Plan period in force, ns. -/
def State.periodNs (s : State) : Nat := s.fget Reg.PLN_PERIOD_period_us * 1000

/-- Every graph the part knows: of the plan in force and submitted and entered. -/
def State.graphs (s : State) : List GraphRec :=
  (match s.planRec with | some r => r.plan.graphs | none => []) ++ s.plan.entered.map (·.graph)

/-- Does a graph run in the mode in force (R141)? -/
def State.runsNow (s : State) (g : GraphRec) : Bool :=
  match s.planRec with | some r => runsIn r.plan g s.mode | none => false

/-- What a dependence amounts to now: does it hold the task, and does it withhold its outputs (R151, R152, R184)? -/
def State.depNow (s : State) (k : Nat × Nat × Nat) : Bool × Bool :=
  match s.run? (taskKey k.1 k.2.1 k.2.2) with
  | some r => (r.live, r.done && (r.withheld || r.st == .aborted))
  | none =>
    match s.graph? k.1 with
    | none => (false, false)
    | some g => if s.runsNow g then (!s.plan.lost.contains g.part, s.plan.lost.contains g.part) else (false, false)

/-- The dependences of a task instance that count in the mode in force; those of an instance carried over from the period before name instances
carried over with it. -/
def State.runDeps (s : State) (r : TaskRun) : List (Nat × Nat × Nat) :=
  match s.graph? r.graph with
  | none => []
  | some g =>
    if r.inst < 64 then predsOf s.graphs g r.inst r.task
    else ((predsOf s.graphs g (r.inst - 64) r.task).map fun k => (k.1, k.2.1 + 64, k.2.2)).filter
      fun k => (s.run? (taskKey k.1 k.2.1 k.2.2)).isSome

/-- The physical engine of a task's port. -/
def State.physOfRun (s : State) (r : TaskRun) : Nat := if r.exec < 32 then s.physOf r.die (r.exec % 16) else 0

/-- The schedule entries of the plan in force with those of the submitted graphs that have entered; those of the mode in force. -/
def State.tables (s : State) : List SchedEntry :=
  (match s.planRec with | some r => r.table | none => []) ++ s.plan.entered.flatMap (·.table)
def State.modeTable (s : State) : List SchedEntry := s.tables.filter fun e => e.mode == s.mode

/-- Start of the beacon slot of logical engine `i` in the running period (R172). -/
def State.slotAt (s : State) (i : Nat) : Time :=
  s.plan.start + (s.fget Reg.ADM_CTRL_beacon_off_us + 32 * i) * 1000

/-- Is logical engine `i` of a die in its beacon slot, or its beacon still running (R183)? No task starts there. -/
def State.inSlot (s : State) (t i : Nat) : Bool :=
  (s.slotAt i ≤ s.now && decide (s.now < s.slotAt i + 32000)) || s.chk.beacon.contains (engKey t (s.physOf t i))

/-- Is the executor of a task free (R152)? The port of the engine it would run on must be free too, which a task may still hold that began there
under another logical index (R64), and a beacon slot is never taken (R183). -/
def State.execFree (s : State) (r : TaskRun) : Bool :=
  r.exec == 63 || ((s.running? r.die r.exec).isNone && (32 ≤ r.exec || !s.inSlot r.die (r.exec % 16))
    && (if r.exec < 16 then (s.unitRun? r.die (s.physOfRun r)).isNone
        else if r.exec < 32 then (s.moveRun? r.die (s.physOfRun r)).isNone else true))

/-- The engine is usable: mapped, neither quarantined nor retired. -/
def State.engUsable (s : State) (r : TaskRun) : Bool :=
  32 ≤ r.exec || (let e := s.physOfRun r; decide (e < 18) && s.engState r.die e != 4 && s.engState r.die e != 5)

/-- The engine's domain is ON and its entry lists are in its local store (R495, R558). -/
def State.engReady (s : State) (r : TaskRun) : Bool :=
  32 ≤ r.exec || (let e := s.physOfRun r; s.dom r.die e == 2 && !s.pow.copying.contains (engKey r.die e))

/-- A hub-side condition on any release: the part runs and is not in the device safe state (R467, R497). -/
def State.releases (s : State) : Bool := s.pow.phase == .running && !s.safe

/-- The watch of a task instance is armed (R453): close time, minimum run time. A window with en 0 arms nothing. -/
def State.armWatch (s : State) (r : TaskRun) : State × TaskRun :=
  if r.close.isSome || !s.flag (Reg.WDG_WIN_en r.die r.window) then (s, r)
  else
    let grace := s.fget (Reg.WDG_WIN_grace_us r.die r.window)
    let pct := min 100 (s.fget (Reg.WDG_WIN_early_pct r.die r.window))
    let cost := match s.desc? r.graph r.task with | some d => d.cost | none => 0
    let close := min (s.baseOf r + r.bound + grace * 1000) (s.plan.start + s.periodNs)
    (s.fset (Reg.WDG_STATUS_armed r.die) (s.fget (Reg.WDG_STATUS_armed r.die) + 1),
     { r with close := some close, minRun := (cost - 23) * pct / 230 })

/-- The serving record of a partition in the plan in force. -/
def State.kvRec (s : State) (p : Nat) : Option KvRec := s.planRec.bind fun x => x.serving.find? fun r => r.part == p

/-- A task starts now: its engine is BUSY, and a dependence whose outputs were withheld withholds its own (R184). -/
def State.startRun (s : State) (r : TaskRun) : State :=
  let wh := (s.runDeps r).any fun k => (s.depNow k).2
  let r1 := { r with st := .running, started := s.dieNow r.die, phys := s.physOfRun r, withheld := r.withheld || wh, due := true,
                       bank := s.fget Reg.FUS_CAL_STATUS_bank }
  let s1 := s.setRun r1
  let s2 := if r.exec < 32 then s1.setEng r.die r1.phys 2 else s1
  if wh then (s2.count Reg.ADM_CNT_WITHHELD_count 1).raiseOncePerInst 0x21CA r1 else s2

/-- WDG_ERR captures the die's first window fault (R475). -/
def State.captureWdg (s : State) (r : TaskRun) (early : Bool) : State :=
  s.capture (Reg.WDG_ERR r.die)
    (r.window + r.graph * 2 ^ 8 + r.inst % 64 * 2 ^ 16 + r.task * 2 ^ 24 + b2n early * 2 ^ 36)

/-- Events of a window carry the task (Table 20.4). -/
def State.wdgReact (s : State) (r : TaskRun) : Bool := s.flag (Reg.WDG_WIN_react r.die r.window)

/-- A task that ended before its minimum run time is early (R453, R454). -/
def State.judgeEarly (s : State) (r : TaskRun) : State :=
  if r.close.isSome && decide (s.dieNow r.die < r.started + r.minRun) then
    let s1 := (s.count (Reg.WDG_CNT_EARLY_count r.die) 1).captureWdg r true
    if s1.wdgReact r then s1.raiseTask 0x3644 r else (s1.raiseTask 0x2643 r).withhold r.key
  else s

/-- The engine's domain goes to RET after a task with gate_after, when both its ports are free and Table 17.7 holds it in
no other state (R185, R493). -/
def State.gate (s : State) (r : TaskRun) : State :=
  if r.gateAfter && r.exec < 32 && s.dom r.die r.phys == 2 && s.engState r.die r.phys == 1
      && !s.chk.beacon.contains (engKey r.die r.phys) && (s.unitRun? r.die r.phys).isNone
      && (s.moveRun? r.die r.phys).isNone && (s.logicalOf r.die r.phys).isSome then
    s.setDom r.die r.phys 1
  else s

/-- A barrier task of a job step (kind SYNC, sync_kind 1). -/
def State.isBarrier (s : State) (r : TaskRun) : Bool :=
  match s.desc? r.graph r.task with | some d => d.kind == 8 && d.syncKind == 1 | none => false

/-- A task's end, time-stamped by its die's sequencer: overrun (R182), early end (R454), the counters of its engine, gating (R185). -/
def State.endRun (s : State) (r : TaskRun) (beats stalls : Nat) : State :=
  let s1 := s.finish r .ended false
  let s2 := if s.baseOf r + r.bound < s.dieNow r.die then
      (s1.count (Reg.ADM_CNT_OVERRUN_count r.die) 1).raiseOncePerInst 0x01C5 r else s1
  let s3 := if r.exec < 16 then
      (s2.count (Reg.ENG_CNT_BUSY_beats r.die r.phys) beats).count (Reg.ENG_CNT_STALL_beats r.die r.phys) stalls
    else s2
  (s3.judgeEarly r).gate r

/-- TASK_END (R41, R182, R184, R185, R454): the end token of a running task is time-stamped. `beats` are those in which it
ran on its engine and `stalls` its unit-port stall beats. A task whose blocks pacing still holds has not ended (R218). A barrier task ends by its RELEASE (R516), not by this. -/
def execTaskEnd (g j i beats stalls : Nat) (s : State) : Host.Outcome State Fault Refusal :=
  match s.run? (taskKey g j i) with
  | some r => if r.st == .running && !s.isBarrier r && decide (r.until_ ≤ s.now) then .next (s.endRun r beats stalls) else .next s
  | none => .next s

/-- WATCH_CLOSE (R453, R454): the close time of an armed watch is reached and the task has not ended: it is late. With
react 0 it is aborted and 0x2641 raised; with react 1, 0x3642 (its partition is lost by the reaction unit). -/
def execWatchClose (g j i : Nat) (s : State) : Host.Outcome State Fault Refusal :=
  match s.run? (taskKey g j i) with
  | none => .next s
  | some r =>
    match r.close with
    | none => .next s
    | some c =>
      if r.live && decide (c ≤ s.now) then
        let s1 := (s.count (Reg.WDG_CNT_LATE_count r.die) 1).captureWdg r false
        if s1.wdgReact r then
          let s2 := s1.fset (Reg.WDG_STATUS_armed r.die) (s1.fget (Reg.WDG_STATUS_armed r.die) - 1)
          .next ((s2.setRun { r with close := none }).raiseTask 0x3642 r)
        else .next ((s1.raiseTask 0x2641 r).abort r)
      else .next s

/-- The graph names a serving step or a job step of the plan (R186). -/
def State.stepGraph (s : State) (g : Nat) : Bool :=
  match s.graph? g with | some x => x.gkind == 1 || x.gkind == 2 | none => false

/-- The wait bound of a job-step barrier, ns; 0 µs is taken as 1 (Table 6.15). -/
def State.barrierNs (s : State) : Nat := max 1 (s.fget Reg.ADM_WAIT_barrier_us) * 1000

/-- A timeout of a REMOTE access or of a barrier aborts its task, unless it has left flight (R187): in a step instance every task not ended with it, 0x21C7. -/
def State.stepAbort (s : State) (r : TaskRun) : State :=
  if !r.live then s
  else if s.stepGraph r.graph then
    let s1 := s.allRuns.foldl (fun (s : State) (x : TaskRun) => if x.graph == r.graph && x.inst == r.inst then s.abort x else s) s
    (s1.raiseTask 0x21C7 r).count Reg.ADM_CNT_STEP_ABORT_count 1
  else s.abort r

/-- Pre-emption takes effect at once when no instance of the graph is in progress; else at its next step boundary (R186,
R188). -/
def State.stepInProgress (s : State) (g : Nat) : Bool :=
  s.allRuns.any fun r => r.graph == g && (s.inst g r.inst).released && r.live

/-- A pre-emption request: ignored with 0x01CD for a periodic graph or one not in the plan (R186). -/
def State.preemptReq (s : State) (g : Nat) : State :=
  let s1 := (s.fset Reg.ADM_PREEMPT_graph g).fset Reg.ADM_PREEMPT_op 0
  if !s1.stepGraph g then (s1.raise 0x01CD oHub 0x10 0).showPreempt
  else if s1.plan.preempted.contains g then s1.showPreempt
  else if s1.stepInProgress g then
    { s1 with plan := { s1.plan with preemptPend := s1.plan.preemptPend.filter (· != g) ++ [g] } }.showPreempt
  else s1.takePreempt g

/-- A resume request: ignored with 0x01CD when the graph is not pre-empted, periodic or not in the plan (R189). -/
def State.resumeReq (s : State) (g : Nat) : State :=
  let s1 := (s.fset Reg.ADM_PREEMPT_graph g).fset Reg.ADM_PREEMPT_op 0
  if s1.stepGraph g && s1.plan.preempted.contains g then
    { s1 with plan := { s1.plan with resumePend := s1.plan.resumePend.filter (· != g) ++ [g] } }.showPreempt
  else (s1.raise 0x01CD oHub 0x10 0).showPreempt

/-- A write of ADM_PREEMPT: op 1 pre-empts, op 2 resumes, 0 and 3 are taken as none (Table 6.14). -/
def State.preemptWrite (s : State) (v : Nat) : State :=
  let g := bits v 7 0
  match bits v 9 8 with
  | 1 => s.preemptReq g
  | 2 => s.resumeReq g
  | _ => (s.fset Reg.ADM_PREEMPT_graph g).showPreempt

/-- PREEMPT_REQUEST (R186, R188): control-core firmware writes op 1 to ADM_PREEMPT. -/
def execPreemptRequest (g : Nat) (s : State) : Host.Outcome State Fault Refusal := .next (s.preemptWrite (g % 256 + 2 ^ 8))

/-- RESUME_REQUEST (R189): control-core firmware writes op 2 to ADM_PREEMPT. -/
def execResumeRequest (g : Nat) (s : State) : Host.Outcome State Fault Refusal :=
  .next (s.preemptWrite (g % 256 + 2 * 2 ^ 8))

/-- PLN_STATUS.mode_pending: a staged mode request that differs from the mode in force. -/
def State.showPending (s : State) : State :=
  s.fset Reg.PLN_STATUS_mode_pending (b2n (bits (s.stagedValue Reg.PLN_MODE_REQ) 4 0 != s.mode))

/-- A mode request is staged (R161): the last value staged before the boundary is the one judged (R11). -/
def State.modeReq (s : State) (m : Nat) : State := (s.stageField Reg.PLN_MODE_REQ_mode m).showPending

/-- MODE_REQ_WRITE (R161): the writes that reach PLN_MODE_REQ in one cycle, applied in the order control cores, OHP, SMP. -/
def execModeReqWrite (core ohp smp : Option Nat) (s : State) : Host.Outcome State Fault Refusal :=
  let put (s : State) (o : Option Nat) : State := match o with | some m => s.modeReq m | none => s
  .next (put (put (put s core) ohp) smp)

/-- The period's task and graph instances that are carried into the next one under instances 64 + j, when one of them has not retired; instances
carried over already are aborted (log entry 52). -/
def State.carryOver (s : State) : State :=
  let s1 := s.allRuns.foldl (fun (s : State) (r : TaskRun) => if 64 ≤ r.inst then s.abort r else s) s
  let young := s1.insts.filter fun e => e.1 % 128 < 64
  if young.all fun e => !e.2.released || e.2.retired then { s1 with runs := [], insts := [] }
  else
    let move (k : Nat) : Nat := if k / 2 ^ 12 % 128 < 64 then k + 2 ^ 18 else k
    let runs := s1.runs.filterMap fun e => match e.2 with
      | some r => if r.inst < 64 then
          some (e.1 + 2 ^ 18, some { r with inst := r.inst + 64, origin := some (s1.baseOf r) }) else none
      | none => none
    let req (q : MemReq) : MemReq := { q with run := q.run.map move }
    let tile (x : Tile) : Tile := if x.inst < 64 then { x with inst := x.inst + 64 } else x
    { s1 with
      runs := runs
      insts := young.map fun e => (e.1 + 64, e.2)
      mem := { s1.mem with held := s1.mem.held.map req, waiting := s1.mem.waiting.map req }
      lnk := { s1.lnk with reqs := s1.lnk.reqs.map fun (q : LinkReq) => { q with req := req q.req } }
      chk := { s1.chk with queue := s1.chk.queue.map fun e => (e.1, e.2.map tile), charge := s1.chk.charge.map fun e => (e.1, e.2.map tile) }
      kv := { s1.kv with steps := s1.kv.steps.map fun (x : KvStep) => if x.inst < 64 then { x with inst := x.inst + 64 } else x } }

/-- The schedule of the period now opening (R159 step 5, R180): one waiting instance per entry of the mode in force, for
graphs that are neither pre-empted nor of a lost partition, beside the instances carried over. gate_after is that of the table with what has entered
it (Table 6.5, R180); in-flight counts follow (Table 5.17). -/
def State.loadPeriod (s : State) : State :=
  let es := s.modeTable
  let live := es.filter fun e => !s.plan.preempted.contains e.graph
    && match s.graph? e.graph with | some g => !s.plan.lost.contains g.part | none => false
  let runs := live.foldl (fun m e =>
    let r : TaskRun := { graph := e.graph, inst := e.inst, task := e.task, die := e.die, exec := e.exec, slot := e.slot,
                         window := e.window, release := e.release, bound := e.bound,
                         gateAfter := gateAfter s.admCfg s.periodNs es e }
    smPut none m r.key (some r)) s.runs
  let s1 := { s with runs := runs }
  s1.dies.foldl (fun s t =>
    let n := (s.allRuns.filter fun r => r.die == t && r.live).length
    (s.fset (Reg.PLN_INFLIGHT_now t) n).fset (Reg.PLN_INFLIGHT_peak t) (max n (s.fget (Reg.PLN_INFLIGHT_peak t)))) s1

/-- PLN_PART of every slot of every die shows the plan and the mode in force (Table 5.18, R164). -/
def State.showParts (s : State) : State :=
  s.dies.foldl (fun s t => (List.range 8).foldl (fun s p =>
    match s.slotPart t p with
    | none => s.wr (Reg.PLN_PART t p) 0xFF00000000000000
    | some x =>
      match x.on t with
      | none => s
      | some d =>
        let m := nth 0xFF x.models s.mode
        let st := if s.plan.lost.contains x.part then 3 else if m == 0xFF then 2 else 1
        s.wr (Reg.PLN_PART t p) (BitVec.ofNat 64 (x.part + st * 2 ^ 6 + d.engMask * 2 ^ 8 + d.chanMask * 2 ^ 24
          + d.wayMask * 2 ^ 32 + d.wdgBase * 2 ^ 48 + m * 2 ^ 56))) s) s

end Sys2Proof.Machine
end

