-- ==== Sys2Proof/Machine/Check.lean ====
section
/-! DEFINITION. Engines checked in service (chapter 15): beacon slots, tile audit, quarantine test, clean runs, TEST tasks; and the
two registers with rows of their own that take an engine or a column out of use (R63, R99), with the copy of entry lists that a
new engine needs (R558). -/

namespace Sys2Proof.Machine

/-- The audit engine of a die, while audit runs on it. -/
def State.auditEng? (s : State) (t : Nat) : Option Nat :=
  if s.flag (Reg.CHK_STATUS_audit_on t) then some (s.fget (Reg.CHK_STATUS_audit_eng t)) else none

/-- A start that finds its engine domain not ON is late (R495): 0x1702 once for the wake, counted. -/
def State.lateDomain (s : State) (t d : Nat) : State :=
  let k := engKey t d
  if s.pow.lateSeen.contains k then s
  else ({ s with pow := { s.pow with lateSeen := k :: s.pow.lateSeen } }.raise 0x1702 t d d).count
    (Reg.PWR_CNT_LATE_count t) 1

/-- A task still on a port of an engine at its beacon slot is aborted (R183). -/
def State.beaconAbort (s : State) (r : Option TaskRun) : State :=
  match r with
  | none => s
  | some r => ((s.raiseTask 0x21C6 r).count (Reg.ADM_CNT_BEACON_ABORT_count r.die) 1).abort r

/-- BEACON_SLOT_START (R172, R183, R426, R427, R495): the slot of logical engine `i` of die `t` begins in the period in
progress. -/
def execBeaconSlotStart (t i : Nat) (s : State) : Host.Outcome State Fault Refusal :=
  let e := s.physOf t i
  if 16 ≤ i || !s.dieUp t || !s.releases || s.planRec.isNone || 18 ≤ e then .next s
  else if s.engState t e == 4 || s.engState t e == 5 || decide (s.now < s.slotAt i) || decide (s.slotAt i + 32000 ≤ s.now)
      || s.chk.beacon.contains (engKey t e) then .next s
  else
    let s1 := (s.beaconAbort (s.unitRun? t e)).beaconAbort (s.moveRun? t e)
    if s1.dom t e == 2 then .next (s1.startBeacon t e) else .next (s1.lateDomain t e)

/-- The engine's next use (R185): the releases of its tasks still to come in the period, its beacon slot, and its first release of the following
period in the same table. -/
def State.nextUse (s : State) (t i : Nat) : Time :=
  let rs := (s.allRuns.filter fun r => r.die == t && r.exec < 32 && r.exec % 16 == i && !r.due && r.live).map fun r =>
    s.baseOf r + r.release
  let next := (s.modeTable.filter fun x => x.die == t && x.exec < 32 && x.exec % 16 == i).map fun x => s.plan.start + s.periodNs + x.release
  (rs ++ next ++ (if s.now < s.slotAt i then [s.slotAt i] else [])).foldl min (s.slotAt i + s.periodNs)

/-- Is the engine's latest use of the schedule table one with gate_after, or has the plan no task for it (Table 17.7)? -/
def State.lastGated (s : State) (t i : Nat) : Bool :=
  let mine := s.allRuns.filter fun r => r.die == t && r.exec < 32 && r.exec % 16 == i
  let past := mine.filter fun r => r.due
  let pick (rs : List TaskRun) : Option TaskRun := rs.foldl (fun (m : Option TaskRun) r => match m with
    | none => some r | some q => if s.baseOf q + q.bound < s.baseOf r + r.bound then some r else some q) none
  match pick (if past.isEmpty then mine else past) with
  | some r => r.gateAfter
  | none => !s.tables.any fun x => x.die == t && x.exec < 32 && x.exec % 16 == i

/-- An idle mapped engine goes back to RET in a gap of more than 20 µs (R185, R493). -/
def State.regate (s : State) (t e : Nat) : State :=
  match s.logicalOf t e with
  | none => s
  | some i =>
    if s.dom t e == 2 && s.engState t e == 1 && (s.unitRun? t e).isNone && (s.moveRun? t e).isNone
        && !s.chk.beacon.contains (engKey t e) && s.lastGated t i && decide (s.now + 20000 < s.nextUse t i) then
      s.setDom t e 1
    else s

/-- A failed beacon (R428, R429): counted, 0x25C5, a strike against the engine (R435). -/
def State.beaconFail (s : State) (t e : Nat) : State :=
  let s1 := (s.count (Reg.CHK_CNT_BEACON_FAIL_count t) 1).raise 0x25C5 t e 0
  (s1.captureChk t 0x25C5 e 0 0 0).strike t e

/-- What an audit difference awaits is decided by the audit engine's own beacon (R432). -/
def State.settleCharge (s : State) (t : Nat) (passed : Bool) : State :=
  match smGet none s.chk.charge t with
  | none => s
  | some tl =>
    let s1 := { s with chk := { s.chk with charge := smPut none s.chk.charge t none } }
    if !passed then s1
    else match s1.run? (taskKey tl.graph tl.inst tl.task) with
      | some r => if r.struck then s1 else (s1.setRun { r with struck := true }).strike t tl.eng
      | none => s1.strike t tl.eng

/-- BEACON_DONE (R426, R428, R432, R433): the beacon on engine `e` ends; `passed` says that every output block's check value
equals the golden set's and that no checker of the engine fired. -/
def execBeaconDone (t e : Nat) (passed : Bool) (s : State) : Host.Outcome State Fault Refusal :=
  if !s.chk.beacon.contains (engKey t e) then .next s
  else
    let s1 := { s with chk := { s.chk with beacon := without (engKey t e) s.chk.beacon } }
    let s2 := (s1.fset (Reg.CHK_ENG_last_set t e) (s1.fget Reg.PLN_PERIOD_CNT_count % 16)).fset
      (Reg.CHK_ENG_last_pass t e) (b2n passed)
    let mine := s2.auditEng? t == some e
    let s3 := if mine then s2.settleCharge t passed else s2
    let s4 := if mine then { s3 with chk := { s3.chk with selfPend := without t s3.chk.selfPend } } else s3
    if passed then .next ((s4.count (Reg.CHK_CNT_BEACON_count t) 1).regate t e)
    else .next (s4.beaconFail t e)

/-- BEACON_SLOT_END (R429): a beacon still running at the end of its slot is abandoned; in two consecutive periods it counts as
a failure. -/
def execBeaconSlotEnd (t i : Nat) (s : State) : Host.Outcome State Fault Refusal :=
  let e := s.physOf t i
  let k := engKey t e
  if 16 ≤ i || !s.chk.beacon.contains k || decide (s.now < s.slotAt i + 32000) then .next s
  else
    let s1 := { s with chk := { s.chk with beacon := without k s.chk.beacon, lateNow := withOnce k s.chk.lateNow } }
    let s2 := (s1.raise 0x05C7 t e 0).count (Reg.CHK_CNT_BEACON_LATE_count t) 1
    if s2.chk.lateLast.contains k then .next (s2.beaconFail t e) else .next (s2.regate t e)

/-- Tiles of a die awaiting a verdict. -/
def State.tiles (s : State) (t : Nat) : List Tile := smGet [] s.chk.queue t

def State.setTiles (s : State) (t : Nat) (q : List Tile) : State :=
  { s with chk := { s.chk with queue := smPut [] s.chk.queue t q } }

/-- AUDIT_VERDICT (R432, R433, R434): the audit engine has recomputed the oldest tile; `crc` is the CRC-32C of its result. -/
def execAuditVerdict (t crc : Nat) (s : State) : Host.Outcome State Fault Refusal :=
  match s.tiles t, s.auditEng? t with
  | tl :: rest, some a =>
    if s.chk.selfPend.contains t || (smGet none s.chk.charge t).isSome || s.chk.beacon.contains (engKey t a) then .next s
    else
      let s1 := (s.setTiles t rest).count (Reg.CHK_CNT_AUDIT_count t) 1
      if crc == tl.crc then .next s1
      else
        let slot := match s1.run? (taskKey tl.graph tl.inst tl.task) with | some r => r.slot | none => 0
        let s2 := (s1.raise 0x25C6 t tl.eng (detTask tl.graph tl.inst tl.task slot)).count (Reg.CHK_CNT_AUD_FAIL_count t) 1
        let s3 := (s2.captureChk t 0x25C6 tl.eng tl.graph tl.inst tl.task).withholdInst tl.graph tl.inst
        .next ({ s3 with chk := { s3.chk with charge := smPut none s3.chk.charge t (some tl) } }.startBeacon t a)
  | _, _ => .next s

/-- A tile of a die is skipped (R431, R433): counted, 0x05CA once a period. -/
def State.skipTile (s : State) (t : Nat) : State :=
  let s1 := s.count (Reg.CHK_CNT_AUD_SKIP_count t) 1
  if s1.chk.skipSeen.contains t then s1
  else { s1 with chk := { s1.chk with skipSeen := withOnce t s1.chk.skipSeen } }.raise 0x05CA t uNone 0

/-- AUDIT_TIMEOUT (R433): the tile at place `k` of the queue has no verdict 100 µs after the end of its task. -/
def execAuditTimeout (t k : Nat) (s : State) : Host.Outcome State Fault Refusal :=
  match (s.tiles t)[k]? with
  | none => .next s
  | some tl =>
    let due := match s.run? (taskKey tl.graph tl.inst tl.task) with
      | some r => r.done && decide (r.ended + 100000 ≤ s.now)
      | none => true
    if due then .next ((s.setTiles t (dropAt (s.tiles t) k)).skipTile t) else .next s

/-- Columns of an engine marked failed, in force. -/
def State.cols (s : State) (t e : Nat) : Nat :=
  (s.rd (Reg.ENG_COL_FAIL t e)).toNat + (s.rd (Reg.ENG_COL_FAIL_HI t e)).toNat * 2 ^ 64

/-- Columns of an engine marked failed once the staged values take effect; a bit in force stays (R99). -/
def State.stagedCols (s : State) (t e : Nat) : Nat :=
  s.cols t e ||| (bits (s.stagedValue (Reg.ENG_COL_FAIL t e)) 63 0
    + bits (s.stagedValue (Reg.ENG_COL_FAIL_HI t e)) 3 0 * 2 ^ 64)

/-- A column bit is staged (R88). -/
def State.stageCol (s : State) (t e c : Nat) : State :=
  if c < 64 then s.stageField ⟨Reg.ENG_COL_FAIL t e, c, c⟩ 1 else s.stageField ⟨Reg.ENG_COL_FAIL_HI t e, c - 64, c - 64⟩ 1

/-- QUARANTINE_TEST_DONE (R437, R439): the test of engine `e` ends. `cols` are the columns that failed their walk, `other` any
other failure. -/
def execQuarantineTestDone (t e cols : Nat) (other : Bool) (s : State) : Host.Outcome State Fault Refusal :=
  let k := engKey t e
  if s.fget (Reg.CHK_ENG_qstate t e) != 1 || s.engState t e != 4 || s.chk.restart.contains k then .next s
  else
    let failed := setBits 68 cols
    if other || decide (1 < failed.length) then .next (s.retire t e)
    else match failed with
      | [] => .next ((s.fset (Reg.CHK_ENG_qstate t e) 2).fset (Reg.CHK_ENG_clean_runs t e) 0)
      | c :: _ =>
        if popcount 68 (s.stagedCols t e) < 3 && !bit (s.stagedCols t e) c then
          let s1 := s.stageCol t e c
          .next { s1 with chk := { s1.chk with restart := withOnce k s1.chk.restart } }
        else .next (s.retire t e)

/-- CLEAN_RUNS_DONE (R438, R439): `n` consecutive beacon programs have run clean; `passed` when all 1,000 did, else the next one
failed. -/
def execCleanRunsDone (t e n : Nat) (passed : Bool) (s : State) : Host.Outcome State Fault Refusal :=
  if s.fget (Reg.CHK_ENG_qstate t e) != 2 || s.engState t e != 4 then .next s
  else if passed then
    let s1 := (s.fset (Reg.CHK_ENG_clean_runs t e) 1000).fset (Reg.CHK_ENG_qstate t e) 0
    let s2 := s1.fset ⟨Reg.CHK_STATUS t, 8 + e, 8 + e⟩ 0
    let s3 := (s2.setEng t e 6).raise 0x05C8 t e 0
    let s4 := if (s3.logicalOf t e).isNone && !s3.named t e then s3.setDom t e 0 else s3
    .next (s4.showSpares t)
  else .next ((s.fset (Reg.CHK_ENG_clean_runs t e) (min n 999)).retire t e)

/-- TEST_RUN (R146, R427, R428, R435): the TEST task running on engine `e` of die `t` runs one golden set on all units of the
engine; `passed` says that every check value agreed and no checker fired. A failure is handled as that of a beacon, one strike
for the task, its outputs withheld (log entry 21). -/
def execTestRun (t e : Nat) (passed : Bool) (s : State) : Host.Outcome State Fault Refusal :=
  match s.unitRun? t e with
  | none => .next s
  | some r =>
    match s.desc? r.graph r.task with
    | none => .next s
    | some d =>
      if d.kind != 9 || d.listLen ≤ r.pos then .next s
      else
        let s1 := s.setRun { r with pos := r.pos + 1 }
        if passed then .next s1
        else .next (((s1.raiseChk 0x25C5 e r).withhold r.key).strikeTask r.key)

/-- Bytes of the entry lists of every admitted plan that R150 places on logical engine `i` of die `t`, with their offsets in its
local store. -/
def State.listsOn (s : State) (t i : Nat) : List (Nat × List Byte) :=
  let one (placed : List Placed) (lists : List ListCopy) (graphs : List GraphRec) : List (Nat × List Byte) :=
    (placed.filter fun q => q.die == t && q.exec == i).filterMap fun q =>
      match (graphs.find? fun g => g.id == q.graph).bind fun g => g.tasks[q.task]?,
            lists.find? fun l => l.graph == q.graph && l.task == q.task with
      | some d, some l => some (d.listBlk * 256, sliceB l.bytes 0 (listBytes d))
      | _, _ => none
  (s.plan.plans.flatMap fun r => one r.placed r.lists r.plan.graphs)
    ++ (s.plan.entered ++ s.plan.accepted).flatMap fun x => one x.placed x.lists [x.graph]

/-- The copy of R558 is begun for an engine. -/
def State.beginCopy (s : State) (t e : Nat) : State :=
  { s with pow := { s.pow with copying := withOnce (engKey t e) s.pow.copying } }

/-- The entry lists of an engine's logical index are in its local store (R150, R558). -/
def State.copyLists (s : State) (t e : Nat) : State :=
  match s.logicalOf t e with
  | none => s
  | some i => (s.listsOn t i).foldl (fun s l => s.stPut t e l.1 l.2) s

/-- LIST_COPY_DONE (R558): the copy of entry lists into engine `e` completes. -/
def execListCopyDone (t e : Nat) (s : State) : Host.Outcome State Fault Refusal :=
  if s.pow.copying.contains (engKey t e) && s.dom t e == 2 then
    let s1 := s.copyLists t e
    .next ({ s1 with pow := { s1.pow with copying := without (engKey t e) s1.pow.copying } }.regate t e)
  else .next s

/-- A spare that no staged map names any more goes OFF again (R494). -/
def State.sleepUnnamed (s : State) (t : Nat) : State :=
  (s.spares t).foldl (fun s e =>
    if !s.named t e && s.auditEng? t != some e && (s.dom t e == 2 || s.dom t e == 3) then
      (if s.dom t e == 3 then
        { s with pow := { s.pow with wakes := smPut {} s.pow.wakes (engKey t e) {} } } else s).setDom t e 0
    else s) s

/-- A write of a half of ENG_LMAP_0 or ENG_LMAP_1 (R63, R494): staged; spares newly named wake, spares no longer named
sleep. -/
def State.lmapWrite (s : State) (t half : Nat) (upper : Bool) (v source : Nat) : State :=
  let a := (if half == 0 then Reg.ENG_LMAP_0 t else Reg.ENG_LMAP_1 t)
  let s1 := s.swWrite (a + (if upper then 4 else 0)) v source
  let s2 := { s1 with chk := { s1.chk with lmapAt := smPut 0 s1.chk.lmapAt t s1.now }
                      hlt := { s1.hlt with chkStaged := s1.hlt.chkStaged.filter (fun k => k / 16 != t)
                                           swapPend := smPut 0 s1.hlt.swapPend t 0 } }
  let s3 := (s2.spares t).foldl (fun s e => if s.named t e then s.startWake t e else s) s2
  s3.sleepUnnamed t

/-- ENG_LMAP_WRITE (R63, R494): firmware writes a word of ENG_LMAP_0 (half 0) or ENG_LMAP_1 (half 1) of die `t`. -/
def execEngLmapWrite (t half : Nat) (upper : Bool) (v : Nat) (s : State) : Host.Outcome State Fault Refusal :=
  if s.dieUp t && half < 2 then .next (s.lmapWrite t half upper v 0xA) else .next s

/-- A write of ENG_COL_FAIL or ENG_COL_FAIL_HI (R88, R99): staged; what would clear a bit in force is ignored for it. -/
def State.colWrite (s : State) (t e word : Nat) (v source : Nat) : State :=
  let a := if word < 2 then Reg.ENG_COL_FAIL t e + 4 * word else Reg.ENG_COL_FAIL_HI t e
  let keep := s.swRead a
  s.swWrite a (v % 2 ^ 32 ||| keep) source

/-- ENG_COL_FAIL_WRITE (R88, R99): firmware writes word 0 or 1 of ENG_COL_FAIL, or ENG_COL_FAIL_HI (word 2). -/
def execEngColFailWrite (t e word v : Nat) (s : State) : Host.Outcome State Fault Refusal :=
  if s.dieUp t && e < 18 && word < 3 then .next (s.colWrite t e word v 0xA) else .next s

end Sys2Proof.Machine
end

