-- ==== Sys2Proof/Machine/Mem.lean ====
section
/-! DEFINITION. The package address map (chapter 1), the placement of blocks in shared stores, near memory and the bulk
tier, and the ports of partitions (chapter 7). A block's check value is held as its difference from the correct one, which
a partial write does not change (R201, R212): 0 is correct, 0xFFFFFFFF poisoned (R419). -/

namespace Sys2Proof.Machine

/-- Where an access decodes to (Table 1.6, Table 20.2), or the kind of decode error: 0 hole, 1 absent die, 2 fenced
die, 3 beyond capacity. -/
inductive Target where
  | near (t off : Nat)
  | bulk (off : Nat)
  | shared (t off : Nat)
  | reg (a : Nat)
  | trkMem (off : Nat)
  | retHub (off : Nat)
  | retKy (off : Nat)
  | partner (off : Nat)
  | undecodable (kind : Nat)
deriving DecidableEq, Repr

/-- The partition of the plan in force whose near-memory region on die `t` holds an offset, with its die record. -/
def State.regionAt (s : State) (t off : Nat) : Option (PartRec × DieRec) :=
  match s.planRec with
  | none => none
  | some r => r.plan.parts.findSome? fun x => match x.on t with
    | some d => if d.nearBase * 2 ^ 20 ≤ off ∧ off < (d.nearBase + d.nearSize) * 2 ^ 20 then some (x, d) else none
    | none => none

/-- Is a requester on a fenced compute die (R21)? What leaves the die then ends with the fenced-target error. -/
def State.offDie (s : State) (src : Nat) : Bool := decide (src < 8) && s.dieState src == 2

/-- Is a compute die out of reach for a requester of source `src` (R21, R29, R353)? -/
def State.cutOff (s : State) (src t : Nat) : Bool := src != t && (s.dieState t != 1 || s.offDie src)

/-- The decoding of an address for a requester (R25–R27, R29, R204, R544, R545). `src` is coded as in PKG_DECODE_ERR. -/
def State.target (s : State) (src : Nat) (a : Addr) : Target :=
  if a < 0x004000000000 then
    let t := a / 0x000800000000
    let off := a % 0x000800000000
    if !s.hasDie t then .undecodable 1
    else if s.cutOff src t then .undecodable 2
    else if s.part.nearTop t ≤ off then .undecodable 3
    else if (s.regionAt t off).isNone then .undecodable 0
    else .near t off
  else if a < 0x005000000000 then
    if s.part.bulkGib * 2 ^ 24 * 63 ≤ a - 0x004000000000 then .undecodable 3
    else if s.offDie src then .undecodable 2
    else .bulk (a - 0x004000000000)
  else if 0x008000000000 ≤ a ∧ a < 0x008080000000 then
    let t := (a - 0x008000000000) / 0x10000000
    let off := (a - 0x008000000000) % 0x10000000
    if !s.hasDie t then .undecodable 1
    else if s.cutOff src t then .undecodable 2
    else if 0x08000000 ≤ off then .undecodable 0
    else .shared t off
  else if 0x00F000000000 ≤ a ∧ a < 0x00F010000000 then
    let near (tg : Target) : Target := if s.offDie src then .undecodable 2 else tg
    if 0x00F008000000 ≤ a ∧ a < 0x00F008400000 then near (.trkMem (a - 0x00F008000000))
    else if 0x00F009000000 ≤ a ∧ a < 0x00F009010000 then near (.retHub (a - 0x00F009000000))
    else if (regAt (a / 4 * 4)).isSome then near (.reg (a / 4 * 4)) else .undecodable 0
  else if 0x00F100000000 ≤ a ∧ a < 0x00F108000000 then
    let t := (a - 0x00F100000000) / 0x1000000
    if !s.hasDie t then .undecodable 1
    else if s.cutOff src t then .undecodable 2
    else if (regAt (a / 4 * 4)).isSome then .reg (a / 4 * 4) else .undecodable 0
  else if 0x00F200000000 ≤ a ∧ a < 0x00F200100000 then
    let near (tg : Target) : Target := if s.offDie src then .undecodable 2 else tg
    if 0x00F200080000 ≤ a ∧ a < 0x00F200084000 then near (.retKy (a - 0x00F200080000))
    else if (regAt (a / 4 * 4)).isSome then near (.reg (a / 4 * 4)) else .undecodable 0
  else if 0x00F300000000 ≤ a ∧ a < 0x00F400000000 then
    if !s.part.partner || s.fget Reg.LNK_PARTNER_STATUS_state != 3 then .undecodable 1
    else if s.fget Reg.LNK_PARTNER_STATUS_win_mib * 2 ^ 20 ≤ a - 0x00F300000000 then .undecodable 0
    else if s.offDie src then .undecodable 2
    else .partner (a - 0x00F300000000)
  else .undecodable 0

/-- The outputs of a task, where one is named, are withheld. -/
def State.withhold? (s : State) (k : Option Nat) : State := match k with | some k => s.withhold k | none => s

/-- An undecodable access (R29–R31): its event, its count, its capture; an engine's, walker's or warp unit's task has its
outputs withheld. Of two accesses at one Device Time, which is one cycle here, the one with the lower source code is captured. -/
def State.decodeError (s : State) (src0 agent : Nat) (a : Addr) (kind : Nat) (run : Option Nat) : State :=
  let src := if src0 == 0xD then 8 else src0
  let unit := decide (src < 8) && (decide (agent < 18) || agent == 0x21 || agent == 0x22)
  let origin := if src < 8 then src else if src == 9 then oKysta else oHub
  let det := match run.bind s.run? with | some r => r.detail | none => 0
  let s1 := if unit then (s.raise 0x2002 origin agent det).withhold? run
    else s.raise 0x0001 origin (if src < 0xA then agent else uNone) 0
  let s2 := s1.count Reg.PKG_DECODE_CNT_count 1
  let v := bits a 47 0 + agent / 16 % 16 * 2 ^ 48 + agent % 16 * 2 ^ 52 + src % 16 * 2 ^ 56 + kind % 8 * 2 ^ 60
  if s.flag Reg.PKG_DECODE_ERR_valid && !(s.mem.decodeAt == some s.now && decide (src % 16 < s.fget Reg.PKG_DECODE_ERR_source)) then s2
  else { s2.wr Reg.PKG_DECODE_ERR (BitVec.ofNat 64 (v + 2 ^ 63)) with mem := { s2.mem with decodeAt := some s.now } }

/-- An interleave key (R208). -/
def State.key (s : State) (i : Nat) : Nat := smGet 0 s.mem.keys i

/-- The place of data block `g` within its channel: row, bank and column in one number (R206). -/
def chanBlock (key g : Nat) : Nat :=
  let bank := (g / 2 ^ 5 % 4) ^^^ (kh key ((g / 2 ^ 7) ||| 2 ^ 63) % 4)
  g / 2 ^ 7 * 2 ^ 7 + bank * 2 ^ 5 + g % 2 ^ 5

/-- A stored block: on a memory channel (die 8 is the bulk tier) or in a slice of a shared store; `k` numbers its place. -/
inductive Loc where
  | dram (die chan k : Nat)
  | shared (t slice k : Nat)
  /-- a block of TRK memory or of a retained SRAM, by its package address -/
  | csr (a : Nat)
deriving DecidableEq, Repr

/-- Number of a block's place on a channel. -/
def dramKey (die chan k : Nat) : Nat := (die * 8 + chan) * 2 ^ 26 + k

/-- The channel and the channel-local index of a near-memory block in a region (R205). -/
def nearPlace (key chanMask nearBase off : Nat) : Nat × Nat :=
  let owned := setBits 8 chanMask
  let k := max 1 owned.length
  let b := (off - nearBase * 2 ^ 20) / 256
  let g := b / k
  let j := (b % k + kh key g % k) % k
  (nth 0 owned j, g)

/-- The channel and the channel-local index of a bulk-tier block (R210). -/
def bulkPlace (key off : Nat) : Nat × Nat :=
  let b := off / 256
  ((b % 4) ^^^ (kh key (b / 4) % 4), b / 4)

/-- The slice and the number of a shared-store block's place (R199). -/
def sharedPlace (key t off : Nat) : Nat × Nat :=
  let w := bits off 26 23
  let b := bits off 22 8
  let slice := (b % 32) ^^^ (kh key (b / 32) % 32)
  (slice, ((t * 16 + w) * 32 + slice) * 1024 + b / 32)

/-- The stored block that a memory target names. -/
def State.locate (s : State) : Target → Option Loc
  | .near t off =>
    match s.regionAt t off with
    | none => none
    | some (_, d) =>
      let key := s.key t
      let (c, g) := nearPlace key d.chanMask d.nearBase off
      some (.dram t c (chanBlock key g))
  | .bulk off =>
    let key := s.key 16
    let (c, g) := bulkPlace key off
    some (.dram 8 c (chanBlock key g))
  | .shared t off =>
    let (sl, k) := sharedPlace (s.key (8 + t)) t off
    some (.shared t sl k)
  | .trkMem off => some (.csr ((0x00F008000000 + off) / 256 * 256))
  | .retHub off => some (.csr ((0x00F009000000 + off) / 256 * 256))
  | .retKy off => some (.csr ((0x00F200080000 + off) / 256 * 256))
  | _ => none

/-- Bytes of a stored block from offset `o`. -/
def State.locRead (s : State) (l : Loc) (o n : Nat) : List Byte :=
  match l with
  | .dram d c k => smGetBytes s.dram (dramKey d c k * 256 + o) n
  | .shared _ _ k => smGetBytes s.shared (k * 256 + o) n
  | .csr a => smGetBytes s.csr (a + o) n

/-- The difference of a stored block's check value from the correct one. -/
def State.locChk (s : State) (l : Loc) : Nat :=
  match l with
  | .dram d c k => smGet 0 s.dramErr (dramKey d c k)
  | .shared _ _ k => smGet 0 s.sharedErr k
  | .csr a => smGet 0 s.csrErr a

/-- Bytes of a stored block replaced; its check value follows by linearity, so the difference stays (R201, R212). -/
def State.locWrite (s : State) (l : Loc) (o : Nat) (bs : List Byte) : State :=
  match l with
  | .dram d c k => { s with dram := smPutBytes s.dram (dramKey d c k * 256 + o) bs }
  | .shared _ _ k => { s with shared := smPutBytes s.shared (k * 256 + o) bs }
  | .csr a => { s with csr := smPutBytes s.csr (a + o) bs }

/-- A block's check-value difference set, as a whole-block write does (R211). -/
def State.locSetChk (s : State) (l : Loc) (chk : Nat) : State :=
  match l with
  | .dram d c k => { s with dramErr := smPut 0 s.dramErr (dramKey d c k) chk }
  | .shared _ _ k => { s with sharedErr := smPut 0 s.sharedErr k chk }
  | .csr a => { s with csrErr := smPut 0 s.csrErr a chk }

/-- The register window of a memory controller: the hub for the bulk tier. -/
def memWin (die : Nat) : Win := if die == 8 then .hub else .die die

/-- Has a channel failed (R215)? -/
def State.chanFailed (s : State) (die c : Nat) : Bool := bit (s.fget (Reg.MEM_STATUS_ch_failed (memWin die))) c

/-- A memory event and its capture in MEM_ERR (R225). -/
def State.memEvent (s : State) (code die c : Nat) (a : Addr) (kind : Nat) : State :=
  (s.raise code die uNone (detChan c (die == 8))).capture (Reg.MEM_ERR (memWin die))
    (bits a 47 0 + c % 8 * 2 ^ 48 + kind * 2 ^ 51)

/-- What the hardware observed of one memory access: 0 no error, 1 a corrected bit, 2 a failed read whose repeat succeeded,
3 a failure (R200, R211); 4 more where its row was not open (R209). -/
abbrev Ecc := Nat

/-- A row miss of an access to a channel is counted (R209). -/
def State.countMiss (s : State) (d c : Nat) (ecc : Ecc) : State :=
  if 4 ≤ ecc then s.count (Reg.MEM_CH_CNT_MISS_count (memWin d) c) 1 else s

/-- A read of a stored block as its controller answers it (R200, R211, R554): the bytes and the check-value difference, or
nothing where the access ends with the error response. -/
def State.memRead (s : State) (l : Loc) (a : Addr) (ecc : Ecc) (run : Option Nat) : State × Option (List Byte × Nat) :=
  match l with
  | .dram d c _ =>
    let w := memWin d
    if s.chanFailed d c || ecc % 4 == 3 then (((s.countMiss d c (if s.chanFailed d c then 0 else ecc)).memEvent 0x2202 d c a 0).withhold? run, none)
    else
      let s1 := (s.countMiss d c ecc).count (Reg.MEM_CH_CNT_RD_blocks w c) 1
      let s2 := if ecc % 4 == 1 then (s1.raise 0x1201 d uNone (detChan c (d == 8))).count (Reg.MEM_CH_CNT_LECC_count w c) 1 else s1
      (s2, some (s.locRead l 0 256, s.locChk l))
  | .shared t _ _ =>
    if ecc % 4 == 3 then
      (((s.raise 0x2207 t uNone 0).capture (Reg.MEM_ERR (.die t)) (bits a 47 0 + 3 * 2 ^ 51)).withhold? run, none)
    else
      let s1 := if ecc % 4 == 1 then (s.raise 0x1206 t uNone 0).count (Reg.MEM_SS_CNT_ECC_count t) 1 else s
      (s1, some (s.locRead l 0 256, s.locChk l))
  | .csr _ => (s, some (s.locRead l 0 256, s.locChk l))

/-- A write to a stored block as its controller carries it out (R201, R211, R212, R554): whole blocks with their check value,
partial writes, and any write that `part` says keeps its block's old check value, with the old block's read. The answer is false where the
access ends with the error response. -/
def State.memWrite (s : State) (l : Loc) (a : Addr) (bs : List Byte) (chk : Nat) (ecc : Ecc) (run : Option Nat) (part : Bool := false) :
    State × Bool :=
  let o := a % 256
  let whole := !part && bs.length == 256
  match l with
  | .dram d c _ =>
    let w := memWin d
    if s.chanFailed d c || (!whole && ecc % 4 == 3) then
      (((s.countMiss d c (if s.chanFailed d c then 0 else ecc)).memEvent 0x2203 d c a 1).withhold? run, false)
    else
      let s1 := (s.countMiss d c ecc).count (Reg.MEM_CH_CNT_WR_blocks w c) 1
      let s2 := if whole then s1 else s1.count (Reg.MEM_CH_CNT_RD_blocks w c) 1
      let s3 := if ecc % 4 == 1 then (s2.raise 0x1201 d uNone (detChan c (d == 8))).count (Reg.MEM_CH_CNT_LECC_count w c) 1 else s2
      let s4 := s3.locWrite l o bs
      (if whole then s4.locSetChk l chk else s4, true)
  | .shared t _ _ =>
    if !whole && ecc % 4 == 3 then
      (((s.raise 0x2207 t uNone 0).capture (Reg.MEM_ERR (.die t)) (bits a 47 0 + 3 * 2 ^ 51)).withhold? run, false)
    else
      let s1 := if ecc % 4 == 1 then (s.raise 0x1206 t uNone 0).count (Reg.MEM_SS_CNT_ECC_count t) 1 else s
      let s2 := s1.locWrite l o bs
      (if whole then s2.locSetChk l chk else s2, true)
  | .csr _ =>
    let s1 := s.locWrite l o bs
    (if whole then s1.locSetChk l chk else s1, true)

/-- Classes of a partition's port (Table 7.3): 0 NEAR, 1 SHARED, 2 REMOTE, 3 BULK; none: refused. -/
def State.classify (s : State) (x : PartRec) (t : Nat) (tg : Target) : Option Nat :=
  match tg with
  | .near v off =>
    match s.regionAt v off with
    | some (y, _) => if y.part == x.part then some (if v == t then 0 else 2) else none
    | none => none
  | .shared v off =>
    match x.on v with
    | some d => if bit d.wayMask (bits off 26 23) then some (if v == t then 1 else 2) else none
    | none => none
  | .bulk _ => some 3
  | .partner _ => some 3
  | .reg a => if a < 0x00F100000000 then some 3 else none
  | .trkMem _ => some 3
  | .retHub _ => some 3
  | .retKy _ => none
  | .undecodable _ => none

/-- The budget of a class in force for a slot of a die (R220). -/
def State.budget (s : State) (t p x : Nat) : Nat :=
  match x with
  | 0 => s.fget (Reg.BWR_BUD_near t p)
  | 1 => s.fget (Reg.BWR_BUD_shared t p)
  | 2 => s.fget (Reg.BWR_BUD_remote t p)
  | _ => s.fget (Reg.BWR_BUD_bulk t p)

/-- L_X of Table 6.3, ns. -/
def latX (x : Nat) : Nat := nth 3000 [400, 120, 2500, 3000] x

/-- Declared bytes of a class: reads and writes of the descriptor (R149). -/
def TaskDesc.declared (d : TaskDesc) (x : Nat) : Nat :=
  match x with
  | 0 => d.rdNear + d.wrNear
  | 1 => d.rdShared + d.wrShared
  | 2 => d.rdRemote + d.wrRemote
  | _ => d.rdBulk + d.wrBulk

/-- The task's BWR_ERR capture (R217): slot, port, warp, reason. -/
def State.refusePort (s : State) (r : TaskRun) (a : Addr) (why : Nat) : State :=
  let v := bits a 47 0 + r.slot % 8 * 2 ^ 48 + (if r.exec < 32 then r.exec * 2 ^ 51 else 2 ^ 56) + why * 2 ^ 57
  ((s.raiseTask 0x2241 r).withhold r.key).capture (Reg.BWR_ERR r.die) v

/-- Does a region that is being sent hold an address (R519)? -/
def State.regionSending (s : State) (a : Addr) : Bool :=
  s.flag Reg.JSY_CKPT_STATUS_sending &&
  (List.range 16).any fun r =>
    let b := s.fget (Reg.JSY_REGION_base r)
    let n := s.fget (Reg.JSY_REGION_size_64k r)
    n != 0 && !s.jsy.off.contains r && decide (b ≤ a) && decide (a < b + n * 65536)

/-- What a partition's port makes of an access (R216, R217, R519): refused, with the state that records it, or a class and
the decoded target. -/
inductive PortVerdict where
  | stop (s : State) (kind : Nat)
  | pass (cls : Nat) (tg : Target)

/-- The decision of the port of the task with key `k` on an access (R29, R216, R217, R519). -/
def State.port (s : State) (k agent : Nat) (a : Addr) (write : Bool) : PortVerdict :=
  match s.run? k with
  | none => .stop s 6
  | some r =>
    match s.target r.die a with
    | .undecodable kind => .stop (s.decodeError r.die agent a kind (some k)) (kind + 1)
    | tg =>
      match (s.partOf r.graph).bind fun x => s.classify x r.die tg with
      | none => .stop (s.refusePort r a 0) 6
      | some x =>
        if s.budget r.die r.slot x == 0 then .stop (s.refusePort r a 1) 6
        else if write && s.regionSending a then
          .stop (((s.raiseTask 0x2784 r).withhold k).count Reg.JSY_CNT_REFUSED_count 1) 6
        else .pass x tg

/-- The earliest issue time of a task's next block of a class (R218). -/
def State.paceTime (s : State) (r : TaskRun) (x : Nat) : Time :=
  let n := match (s.partOf r.graph).bind fun p => p.on r.die with | some d => nPorts d | none => 1
  r.started + ceilDiv (nth 0 r.blocks x * 4000 * n) (max 1 (s.budget r.die r.slot x))

/-- Nanoseconds that blocks were held are added to BWR_CNT_HOLD in whole microseconds (R218, R550). -/
def State.addHold (s : State) (t p x ns : Nat) : State :=
  let key := t * 32 + p * 4 + x
  let all := ns + smGet 0 s.mem.holdRem key
  let s1 := s.count (Reg.BWR_CNT_HOLD_us t p x) (all / 1000)
  { s1 with mem := { s1.mem with holdRem := smPut 0 s1.mem.holdRem key (all % 1000) } }

/-- A block of a class issues at the port of task `k`: it is counted, and one beyond the declaration is flagged (R218,
R219). -/
def State.issueBlock (s : State) (k x : Nat) : State :=
  match s.run? k with
  | none => s
  | some r =>
    let i := nth 0 r.blocks x
    let s1 := s.setRun { r with blocks := setNth r.blocks x (i + 1) }
    let s2 := s1.count (Reg.BWR_CNT_BLK_blocks r.die r.slot x) 1
    let decl := match s.desc? r.graph r.task with | some d => d.declared x | none => 0
    if decl ≤ i * 256 then
      (s2.count (Reg.BWR_CNT_EXCESS_blocks r.die r.slot x) 1).raiseOncePerTask 0x0242 k
    else s2

/-- A unit's own block access issues: it is held until its pacing time, from the issue of the block before it, and its task goes on at least until
then (log entry 20). -/
def State.issueOwn (s : State) (k x : Nat) : State :=
  match s.run? k with
  | none => s
  | some r =>
    let at_ := s.paceTime r x
    let prev := s.paceTime { r with blocks := setNth r.blocks x (nth 0 r.blocks x - 1) } x
    let from_ := max s.now (if nth 0 r.blocks x == 0 then r.started else prev)
    ((s.setRun { r with until_ := max r.until_ at_ }).addHold r.die r.slot x (at_ - from_)).issueBlock k x

/-- One access of a unit that runs task `k`: the block's bytes and check-value difference (R29, R216–R219, R211). -/
def State.portRead (s : State) (k agent : Nat) (a : Addr) (ecc : Ecc) : State × Option (List Byte × Nat) :=
  match s.port k agent a false with
  | .stop s1 _ => (s1, none)
  | .pass x tg =>
    let s1 := s.issueOwn k x
    match s1.locate tg with
    | none => (s1, some (List.replicate 256 0, 0))
    | some l => s1.memRead l a ecc (some k)

/-- Are a task's outputs withheld? -/
def State.isWithheld (s : State) (k : Nat) : Bool :=
  match s.run? k with | some r => r.withheld | none => true

/-- One write of a unit that runs task `k`; one of a withheld task is dropped at its port unless the unit must store
the block poisoned (R556). -/
def State.portWrite (s : State) (k agent : Nat) (a : Addr) (bs : List Byte) (chk : Nat) (ecc : Ecc) (must : Bool := false) :
    State × Bool :=
  if s.isWithheld k && !must then (s, true)
  else match s.port k agent a true with
  | .stop s1 _ => (s1, false)
  | .pass x tg =>
    let s1 := s.issueOwn k x
    match s1.locate tg with
    | none => (s1, true)
    | some l => s1.memWrite l a bs chk ecc (some k)

/-- One atomic combine of a unit (R109, R201): bytes within a block replaced by a function of what they were, the check value
following by linearity. -/
def State.portCombine (s : State) (k agent : Nat) (a : Addr) (n : Nat) (f : List Byte → List Byte) (ecc : Ecc) : State :=
  if s.isWithheld k then s
  else match s.port k agent a true with
  | .stop s1 _ => s1
  | .pass x tg =>
    let s1 := s.issueOwn k x
    match s1.locate tg with
    | none => s1
    | some l =>
      (s1.memWrite l a (f (s1.locRead l (a % 256) n)) 0 ecc (some k) true).1

/-- The parts of a range of addresses that fall into one block each, as (address, length). -/
def pieces (a n : Nat) : List (Nat × Nat) :=
  (List.range ((a % 256 + n + 255) / 256)).map fun i =>
    let lo := max a ((a / 256 + i) * 256)
    (lo, min (a + n) ((a / 256 + i + 1) * 256) - lo)

/-! ### Units that have no partition's port -/

/-- A field's share in force, where the LCK fields of a resource sum to `sum` and `avail` is its available share (R223). -/
def scaled (field sum avail : Nat) : Nat := if avail < sum then field * avail / sum else field

/-- The system port of a requester at a resource: key of its pacing (resource × 8 + port: near memory die × 8 + channel, bulk tier 64,
shared store 65 + die), its place in the static order and its share in force (Table 7.5). -/
def State.sysPort (s : State) (src agent : Nat) (tg : Target) : Option (Nat × Nat × Nat) :=
  let steward (t : Nat) : Bool := (src == 8 && agent == 0x20) || (src == t && agent == 0x20)
  let walker (t : Nat) : Bool := src == t && agent == 0x21
  match tg, s.locate tg with
  | .near t _, some (.dram _ c _) =>
    let fs := [s.fget (Reg.BWR_SYS_steward_near t), s.fget (Reg.BWR_SYS_walker_near t), s.fget (Reg.BWR_SYS_hub_near t)]
    let p := if steward t then 0 else if walker t then 1 else 2
    some ((t * 8 + c) * 8 + p, p, scaled (nth 0 fs p) (sumBy id fs) 9)
  | .shared t _, some _ =>
    let fs := [s.fget (Reg.BWR_SYS_steward_ss t), s.fget (Reg.BWR_SYS_walker_ss t)]
    let p := if walker t then 3 else 2
    some ((65 + t) * 8 + p, p, scaled (nth 0 fs (p - 2)) (sumBy id fs) 16)
  | .bulk _, some _ =>
    let fs := [s.fget Reg.BWR_HUB_BUD_control, s.fget Reg.BWR_HUB_BUD_storage, s.fget Reg.BWR_HUB_BUD_preproc,
      s.fget Reg.BWR_HUB_BUD_decode, s.fget Reg.BWR_HUB_BUD_ethernet, s.fget Reg.BWR_HUB_BUD_partner]
    let p := if src == 0xA then 5 else if src == 0xB then 4 else if src != 8 then 0 else if agent == 0x17 || agent == 0x18 then 1 else if agent == 0x12 then 2
      else if agent == 0x13 || agent == 0x1A then 3 else if agent == 0x14 || agent == 0x1C then 4 else 0
    some (64 * 8 + p, p, scaled (nth 0 fs p) (sumBy id fs) 80)
  | _, _ => none

/-- When a system port of share `b` may issue its next block (R218, R223): block i of a run of blocks no earlier than its first one and
ceil(i × 4,000 ÷ b) ns. -/
def State.sysDue (s : State) (key b : Nat) : Time := smGet 0 s.mem.sysFrom key + ceilDiv (smGet 0 s.mem.sysCnt key * 4000) (max 1 b)

/-- A system port issues a block: the next one of its run, or where the port had nothing to wait for the first of a new run (log entry 96). -/
def State.sysCharge (s : State) (key b : Nat) : State :=
  if s.sysDue key b < s.now then
    { s with mem := { s.mem with sysFrom := smPut 0 s.mem.sysFrom key s.now, sysCnt := smPut 0 s.mem.sysCnt key 1 } }
  else { s with mem := { s.mem with sysCnt := smPut 0 s.mem.sysCnt key (smGet 0 s.mem.sysCnt key + 1) } }

/-- An access of a unit that has no partition's port takes its place at the unit's system port, where the resource has one. -/
def State.unitIssue (s : State) (src agent : Nat) (tg : Target) : State :=
  match s.sysPort src agent tg with
  | some (key, _, b) => s.sysCharge key b
  | none => s

/-- A stored block can be reached: its channel has not failed (R554). -/
def State.locUp (s : State) : Loc → Bool
  | .dram d c _ => !s.chanFailed d c
  | _ => true

/-- Bytes that a unit without a partition's port reads: zeros from a block that is not there or on a failed channel (R29, R554). What the
accesses raise and count is `meet`. -/
def State.peek (s : State) (src a n : Nat) : List Byte :=
  (pieces a n).flatMap fun p => match s.locate (s.target src p.1) with
    | some l => if s.locUp l then s.locRead l (p.1 % 256) p.2 else List.replicate p.2 0
    | none => List.replicate p.2 0

/-- What the reads of a range by a unit without a partition's port do beside bringing bytes: an undecodable one is an error of R29–R31, one on a
failed channel of R554, the others are counted and paced (R223). The accesses of a step of the part take effect within it (log entry 20). -/
def State.meet (s : State) (src agent a n : Nat) : State :=
  (pieces a n).foldl (fun s p => match s.target src p.1 with
    | .undecodable kind => s.decodeError src agent p.1 kind none
    | tg => match s.locate tg with
      | some l => ((s.unitIssue src agent tg).memRead l p.1 0 none).1
      | none => s) s

/-- Bytes written by a unit that has no partition's port; a block written whole gets a correct check value. An undecodable write is an error of
R29–R31, one on a failed channel is discarded (R554), a partial one reads the old block (R212). -/
def State.poke (s : State) (src agent a : Nat) (bs : List Byte) : State :=
  (pieces a bs.length).foldl (fun s p => match s.target src p.1 with
    | .undecodable kind => s.decodeError src agent p.1 kind none
    | tg => match s.locate tg with
      | some l => ((s.unitIssue src agent tg).memWrite l p.1 ((bs.drop (p.1 - a)).take p.2) 0 0 none).1
      | none => s) s

/-- Every block that a range of addresses touches is there and carries a correct check value. -/
def State.sound (s : State) (src a n : Nat) : Bool :=
  (pieces a n).all fun p => match s.locate (s.target src p.1) with
    | some l => s.locChk l == 0 && s.locUp l
    | none => false

end Sys2Proof.Machine
end

