-- ==== Sys2Proof/Machine/Fence.lean ====
section
/-! DEFINITION. What fences a die and what its loss brings (R350, R351, Table 6.9), the resets and what each of them clears
(R479, Table 17.2, R504), the device safe state (R467) and withdrawal (R511). -/

namespace Sys2Proof.Machine

/-- A request held for a fenced die, or for a target that does not decode, ends at its requester with an error response
(R29, R351). -/
def State.endRequest (s : State) (q : MemReq) (kind : Nat) : State :=
  let s1 := s.decodeError q.src q.agent q.addr kind q.run
  { s1 with out := s1.out ++ [.done q.src q.agent q.addr (if q.write then [] else List.replicate q.len 0) 0 (kind + 1)] }

/-- Requests on their way to and from a die that is now fenced (R351): held ones are answered, a write that has reached it goes unanswered,
those of the die that were not forwarded are discarded, and responses to it are discarded. -/
def State.dropRequests (s : State) (t : Nat) : State :=
  let stays (r : LinkReq) : Bool := if r.die == t then r.reached else r.dest != t || (r.reached && r.req.write)
  let held := s.lnk.reqs.filter fun r => r.dest == t && r.die != t && !stays r && !r.late && !r.gone
  let mark (r : LinkReq) : LinkReq :=
    if r.die == t then { r with gone := true } else if r.dest == t then { r with mute := true } else r
  let s1 := { s with
    lnk := { s.lnk with reqs := (s.lnk.reqs.filter stays).map mark }
    mem := { s.mem with held := s.mem.held.filter fun q => q.src != t } }
  held.foldl (fun s r => s.endRequest r.req 2) s1

/-- A fenced die contributes to no package alarm (R52). -/
def State.showAlarmOf (s : State) (t : Nat) : State :=
  let s1 := s.fset ⟨Reg.PACE_ALARM_SUM, t, t⟩ 0
  (s1.fset Reg.PACE_ALARM_SUM_alarm (b2n (s1.fget Reg.PACE_ALARM_SUM_alarm_die != 0))).showDue

/-- The hub sends a MGMT notice about a die over the spokes of its ring neighbours (R350, R353): 0 fenced, 1 unfenced. -/
def State.dieNotice (s : State) (kind t : Nat) : State :=
  let n := s.part.tzCount
  [(t + 1) % n, (t + n - 1) % n].foldl (fun s v => { s.queueMsg v (mgmtSlot kind t) with out := s.out ++ [.pfp v 8 (mgmtSlot kind t)] }) s

/-- A die is fenced (R349, R350): PKG_DIE_STATE 10, LNK_FENCE, its spoke fenced, fence notices to its ring neighbours, 0x3446; wakes on it
are abandoned (R495). -/
def State.fenceDie (s : State) (t : Nat) : State :=
  if !s.hasDie t || s.dieState t == 2 then s
  else
    let s1 := s.fset (Reg.PKG_DIE_STATE_die t) 2
    let s2 := s1.fset ⟨Reg.LNK_FENCE, t, t⟩ 1
    let s3 := s2.fset (Reg.LNK_MOD_state .hub t) 5
    let s4 := s3.fset (Reg.RST_DIE_state t) 1
    let s5 := s4.raise 0x3446 oHub uNone (detLink t t)
    let s6 := { s5.dieNotice 0 t with pow := { s5.pow with wakes := smKeep (fun k => k / 32 != t) s5.pow.wakes } }
    (s6.dropRequests t).showAlarmOf t

/-- Engines of a die that are retired from the start: failed at production test, or with a repair entry (R503, R504). -/
def State.bornRetired (s : State) (t e : Nat) : Bool :=
  bit (nth 0 s.part.engFail t) e || s.otp.repair.any fun x => bits x 2 0 == t && bits x 7 3 == e && bits x 14 8 == 0x7F

/-- Columns of an engine failed from the start (R503, R504). -/
def State.bornCols (s : State) (t e : Nat) : Nat :=
  s.otp.repair.foldl (fun m x => if bits x 2 0 == t && bits x 7 3 == e && bits x 14 8 < 68 then m ||| 2 ^ bits x 14 8 else m)
    (smGet 0 s.part.colFail (t * 32 + e))

/-- An engine of a die that is retired now. -/
def State.isRetired (s : State) (t e : Nat) : Bool := s.bornRetired t e || s.chk.retired.contains (engKey t e)

/-- The map of R504: logical engines on the engines not retired, in ascending order; 31 where there is none. -/
def State.builtMap (s : State) (t : Nat) : List Nat :=
  let good := (List.range 18).filter fun e => !s.isRetired t e
  (List.range 16).map fun i => nth 31 good i

/-- ENG_STATUS of an engine by the map in force, its state given. -/
def State.showEng (s : State) (t e st : Nat) : State :=
  let cols := (s.rd (Reg.ENG_COL_FAIL t e)).toNat + (s.rd (Reg.ENG_COL_FAIL_HI t e)).toNat * 2 ^ 64
  let spare := 3 - popcount 68 cols
  let (m, i) := match s.logicalOf t e with | some i => (1, i) | none => (0, 0)
  s.wr (Reg.ENG_STATUS t e) (BitVec.ofNat 64 (st + i * 2 ^ 4 + m * 2 ^ 8 + spare * 2 ^ 9))

/-- A die's ENG block after a reset (R479, R504): the map built anew, columns and retirements written back. -/
def State.resetEng (s : State) (t : Nat) : State :=
  let m := s.builtMap t
  let word (h : Nat) : Nat := (List.range 8).foldl (fun w i => w + nth 31 m (8 * h + i) * 2 ^ (8 * i)) 0
  let s1 := (s.wr (Reg.ENG_LMAP_0 t) (BitVec.ofNat 64 (word 0))).wr (Reg.ENG_LMAP_1 t) (BitVec.ofNat 64 (word 1))
  (List.range 18).foldl (fun s e =>
    let c := s.bornCols t e ||| smGet 0 s.chk.cols (engKey t e)
    let s2 := (s.wr (Reg.ENG_COL_FAIL t e) (BitVec.ofNat 64 (c % 2 ^ 64))).wr (Reg.ENG_COL_FAIL_HI t e)
      (BitVec.ofNat 64 (c / 2 ^ 64))
    s2.showEng t e (if s2.isRetired t e then 5 else if (s2.logicalOf t e).isNone then 6 else 0)) s1

/-- The window of a die's registers. -/
def inDieWin (t : Nat) (a : Addr) : Bool := 0x00F100000000 + t * 0x1000000 ≤ a && a < 0x00F100000000 + (t + 1) * 0x1000000

/-- Everything of die `t` returns to its reset values (Table 17.2): registers, staged values, stores, interleave keys, pace and
check state. The count of key draws since power-on stays (Table 7.10), and a walker marked failed stays so until an application reset (R247). -/
def State.clearDie (s : State) (t : Nat) : State :=
  let ep := s.fget (Reg.MEM_STATUS_key_epoch (.die t))
  let byDie {α : Type} (m : SMap α) : SMap α := smKeep (fun k => k / 32 != t) m
  let byChan {α : Type} (m : SMap α) : SMap α := smKeep (fun k => k / 8 != t) m
  let s1 := { s with
    regs := smKeep (fun a => !inDieWin t a) s.regs
    staged := smKeep (fun a => !inDieWin t a) s.staged
    store := smKeep (fun k => k / 2 ^ 28 != t) s.store
    storeErr := smKeep (fun k => k / 2 ^ 20 != t) s.storeErr
    region := smKeep (fun k => k / 2 ^ 28 != t) s.region
    hazy := s.hazy.filter fun h => h.eng / 32 != t
    shared := smKeep (fun k => k / 2 ^ 27 != t) s.shared
    sharedErr := smKeep (fun k => k / 2 ^ 19 != t) s.sharedErr
    pace := smKeep (fun k => k != t) s.pace
    paceDom := byDie s.paceDom
    mem := { s.mem with
      keys := smPut 0 (smPut 0 s.mem.keys t 0) (8 + t) 0
      waiting := s.mem.waiting.filter fun (q : MemReq) => q.home != t
      scrub := byChan s.mem.scrub, scrubFrom := byChan s.mem.scrubFrom, winFrom := byChan s.mem.winFrom, winAcc := byChan s.mem.winAcc, winMiss := byChan s.mem.winMiss
      missAt := byChan s.mem.missAt, refreshAt := byChan s.mem.refreshAt, wckAt := byChan s.mem.wckAt
      wckDelay := byChan s.mem.wckDelay, mr4At := byChan s.mem.mr4At, eyeAt := byChan s.mem.eyeAt
      retrainFail := byChan s.mem.retrainFail }
    chk := { s.chk with
      beacon := s.chk.beacon.filter (fun k => k / 32 != t)
      lateLast := s.chk.lateLast.filter (fun k => k / 32 != t)
      lateNow := s.chk.lateNow.filter (fun k => k / 32 != t)
      charge := smPut none s.chk.charge t none
      queue := smPut [] s.chk.queue t []
      selfPend := without t s.chk.selfPend
      restart := s.chk.restart.filter (fun k => k / 32 != t)
      lmapAt := smPut 0 s.chk.lmapAt t 0 }
    pow := { s.pow with wakes := byDie s.pow.wakes, retFrom := s.pow.retFrom.filter (fun e => e.1 / 32 != t),
                        retRem := smPut 0 s.pow.retRem t 0, copying := s.pow.copying.filter (fun k => k / 32 != t) }
    lnk := { s.lnk with mods := smKeep (fun k => k / 4 != 4 + t) s.lnk.mods } }
  let off := s.fget (Reg.KVW_STATUS_walker_failed t)
  let stew := s.fget (Reg.KVW_STATUS_steward t)
  ((({ s1 with tim := { s1.tim with held := smPut 0 s1.tim.held t 0, stepDue := without t s1.tim.stepDue } }.fset (Reg.MEM_STATUS_key_epoch (.die t)) ep).fset (Reg.KVW_STATUS_walker_failed t) off).fset (Reg.KVW_STATUS_steward t) stew).resetEng t

/-- Every engine state of a fresh die is held; HLT_SPARES follows. -/
def State.showAllSpares (s : State) : State := s.dies.foldl (fun s t => s.showSpares t) s

/-- The reload that has the UFS host goes on; else the waiting one of the lowest die takes it (R490). -/
def State.ufsTurn (s : State) : State :=
  let waits (t : Nat) : Bool := s.fget (Reg.RST_DIE_state t) == 5
  let keeps := match s.pow.ufsDie with | some t => waits t | none => false
  if keeps then s else { s with pow := { s.pow with ufsDie := (List.range 8).find? waits } }

/-- The reset of one die is asserted (R486): 0x0682, every domain OFF, its state cleared, its LDO setpoints at 0.80 V and its rail at 0.85 V
(R60). -/
def State.assertDieReset (s : State) (t : Nat) : State :=
  let s1 := (s.raise 0x0682 oHub uNone 0).clearDie t
  let s2 := (s1.fset (Reg.RST_DIE_state t) 2).fset ⟨Reg.CLK_STATUS, 8 + t, 8 + t⟩ 0
  let s3 := (List.range 22).foldl (fun s d => s.fset (Reg.PACE_DOM_ldo t d) 800) s2
  (({ s3 with pow := { s3.pow with dieTimers := smPut {} s3.pow.dieTimers t {} } }).showSpares t).ufsTurn

/-- An attempt at the rejoin of a die in reset begins: it is counted and the hold of R487 runs. -/
def State.beginAttempt (s : State) (t : Nat) : State :=
  let hold := max 10 (s.fget Reg.RST_DIE_CTRL_hold_us) * 1000
  let s1 := s.fset (Reg.RST_DIE_attempts t) (min 15 (s.fget (Reg.RST_DIE_attempts t) + 1))
  { s1 with pow := { s1.pow with dieTimers := smPut {} s1.pow.dieTimers t { holdEnd := s1.now + hold } } }

/-- Phobos declares a die lost (Table 6.9): its fence where it is not yet fenced, the loss of every partition that spans it,
the fallback due, and its reset where auto_rejoin is 1 (R486). -/
def State.declareLost (s : State) (t : Nat) : State :=
  let s1 := s.fenceDie t
  if s1.plan.lostDies.contains t then s1
  else
    let tied := if s1.plan.lossAt == s1.now then min s1.plan.lossTied s1.plan.lossDue.length else s1.plan.lossDue.length
    let s2 := { s1 with plan := { s1.plan with
      lostDies := s1.plan.lostDies ++ [t], lossAt := s1.now
      lossDue := s1.plan.lossDue.take tied ++ sortBy (fun a b => decide (a < b)) (s1.plan.lossDue.drop tied ++ [t])
      lossTied := tied } }
    let s3 := (s2.losePartsOn t).showDue
    if s3.flag Reg.RST_DIE_CTRL_auto_rejoin then ((s3.fset (Reg.RST_DIE_attempts t) 0).assertDieReset t).beginAttempt t else s3

/-- Registers that an application-class reset keeps (Table 17.2, Table 20.5): the Kysta window but for its counter of class
A, SAF, the retained RST and CLK registers, the ING_DT registers, role epochs, CHK_ENG, withdrawal and unavailable time. -/
def keptByApp (a : Addr) : Bool :=
  (decide (0x00F200000000 ≤ a ∧ a < 0x00F300000000) && a != Reg.CHK_CNT_AGREE_RETRY .kysta)
  || (decide (hubBlk 0x18 ≤ a ∧ a < hubBlk 0x19) && a != Reg.SAF_FF_CTRL && a != Reg.SAF_FF_EN)
  || a == Reg.RST_CAUSE || decide (Reg.RST_BACKUP 0 ≤ a ∧ a ≤ Reg.RST_BACKUP 63)
  || decide (hubBlk 0x1B ≤ a ∧ a < hubBlk 0x1C)
  || a == Reg.ING_DT_NOW || a == Reg.ING_DT_CTRL || a == Reg.ING_DT_STATUS || a == Reg.ING_DT_OFFSET || a == Reg.ING_DT_ERR
  || a == Reg.OHP_ROLE_PART || decide (Reg.OHP_ROLE_P 0 ≤ a ∧ a ≤ Reg.OHP_ROLE_P 63)
  || decide (Reg.OHP_ROLE_Q 0 ≤ a ∧ a ≤ Reg.OHP_ROLE_Q 15) || decide (Reg.OHP_ROLE_R 0 ≤ a ∧ a ≤ Reg.OHP_ROLE_R 15)
  || decide (Reg.CHK_ENG 0 0 ≤ a ∧ a < Reg.CHK_ENG 8 0)
  || a == Reg.HLT_WITHDRAW || a == Reg.HLT_CNT_UNAVAIL_US

/-- RST_CAUSE after a reset: the causes present and the count of application-class resets (R478). -/
def State.setCause (s : State) (causes src : Nat) (app : Bool) : State :=
  let n := min 0xFFFF (s.fget Reg.RST_CAUSE_app_count + b2n app)
  s.wr Reg.RST_CAUSE (BitVec.ofNat 64 (causes % 2 ^ 10 + src % 4 * 2 ^ 12 + n * 2 ^ 16))

/-- What an application reset clears (Table 17.2): every hub block but the kept ones, every die, plans and schedule tables, the
bulk-tier key, LCK locks, debug unlock; the islands, logs, retained state and memory contents stay. Devices between reset and
release are dark: safe-state pins low (R384), triggers inactive. -/
def State.clearApp (s : State) : State :=
  let wd := s.fget Reg.HLT_SCORE_withdraw
  let ever := s.fget Reg.SEC_STATUS_debug_ever
  let ep := s.fget (Reg.MEM_STATUS_key_epoch .hub)
  let isl := s.fget (Reg.CHK_ISL_fault .hub)
  let split := s.fget (Reg.CHK_ISL_split .hub)
  let rej := (List.range 8).map fun t => s.fget (Reg.RST_DIE_rejoins t)
  let s0 := (List.range 8).foldl (fun s t => s.clearDie t) s
  let s1 := { s0 with
    regs := smKeep (fun a => keptByApp a || decide (0x00F100000000 ≤ a ∧ a < 0x00F200000000)) s0.regs
    staged := [], csr := smKeep (fun a => decide (0x00F009000000 ≤ a)) s0.csr, csrErr := []
    store := [], storeErr := [], region := [], hazy := [], shared := [], sharedErr := []
    pace := [], paceDom := [], plan := {}, runs := [], insts := []
    chk := { retired := s0.chk.retired, cols := s0.chk.cols, colsSeen := s0.chk.colsSeen, burnPend := s0.chk.burnPend }
    saf := { s0.saf with c2Count := 0, kicked := [], closed := [] }
    mem := {}, kv := {}, ing := {}, smpl := {}, fus := {}, trk := {}, lnk := { nextId := s0.lnk.nextId }
    hlt := { unavailRem := s0.hlt.unavailRem, unavailFrom := s0.hlt.unavailFrom, binFrom := s0.now, scoreAt := s0.now }
    trust := { prog := s0.trust.prog }, eth := {}, ohp := { evtPos := s0.ohp.evtPos, seq := s0.ohp.seq }, jsy := {}
    pow := { s0.pow with phase := .inReset, committed := false, dieTimers := [], ufsDie := none, wakes := [], retFrom := [],
                         retRem := [], wdKick := none, refLost := none, lockLost := none, lateSeen := [], copying := [] }
    pins := { s0.pins with phobosLow := true, deimosLow := true, trig := 0 } }
  let s2 := ((s1.fset Reg.HLT_SCORE_withdraw wd).fset Reg.SEC_STATUS_debug_ever ever).fset
    (Reg.MEM_STATUS_key_epoch .hub) ep
  let s3 := (s2.fset (Reg.CHK_ISL_fault .hub) isl).fset (Reg.CHK_ISL_split .hub) split
  let s4 := (List.range 8).foldl (fun s t => s.fset (Reg.RST_DIE_rejoins t) (nth 0 rej t)) s3
  (s4.fset Reg.SAF_STATUS_start_done 0).showAllSpares

/-- An application-class reset is taken (R478): its causes, the reset of every die within it, each with its 0x0682 (R486), and 0x0681. -/
def State.appReset (s : State) (causes src : Nat) : State :=
  let stby := if s.flag Reg.PWR_STBY_in_standby then 2 ^ 9 else 0
  let s1 := (s.clearApp).setCause (causes ||| stby) src true
  (s1.dies.foldl (fun s _ => s.raise 0x0682 oHub uNone 0) s1).raise 0x0681 oHub uNone 0

/-- A safety reset (R476): the islands restart, the device safe state ends, and an application reset follows. -/
def State.safetyResetNow (s : State) (causes src : Nat) : State :=
  let s1 := (s.fset Reg.SAF_STATUS_safe 0).fset Reg.SAF_STATUS_handling 0xF
  let s2 := ((s1.fset Reg.SAF_STATUS_chan_ok 0).fset Reg.SAF_STATUS_deimos_ok 0).fset Reg.SAF_CR_fails 0
  let s3 := { s2 with
    saf := { s2.saf with
      pend := s2.saf.pend.map (fun (p : LogPend) => { p with started := false }), stack := [], chal := none, crcRun := [0, 0],
      chanFail := [], frames := [], loops := [0, 0], loopCnt := 0, loopAt := s2.now, hbTold := false, halted := [], monOut := 0,
      c3At := none }
    pins := { s2.pins with faultLow := false } }
  s3.appReset causes src

/-- Power-on reset (R476, Table 17.2): everything cleared but OTP; memory contents are undefined and read as unlisted. -/
def State.powerOn (s : State) : State :=
  let s1 : State := { part := s.part, pending := s.pending, otp := s.otp, out := s.out, free := s.free,
                      pow := { fuseFull := decide (64 ≤ s.otp.repair.length) } }
  let s2 := s1.dies.foldl (fun s t => s.resetEng t) s1
  let ret := s2.dies.flatMap fun t => ((List.range 18).filter fun e => s2.bornRetired t e).map (engKey t)
  ({ s2 with chk := { s2.chk with retired := ret } }).showAllSpares

/-- Unavailable time begins when the first reason for it arises (R512). -/
def State.noteUnavail (s : State) : State :=
  let bad := s.safe || !s.plan.lost.isEmpty
  match s.hlt.unavailFrom with
  | none => if bad then { s with hlt := { s.hlt with unavailFrom := some s.now } } else s
  | some f =>
    let ns := s.now - f + s.hlt.unavailRem
    let s1 := s.count Reg.HLT_CNT_UNAVAIL_US_us (ns / 1000)
    { s1 with hlt := { s1.hlt with unavailRem := ns % 1000, unavailFrom := if bad then some s1.now else none } }

/-- FAULT_N is driven low (R384). -/
def State.faultLow (s : State) : State := { s with pins := { s.pins with faultLow := true } }

/-- An island drives its own safe-state pin low: 0 Phobos, 1 Deimos. -/
def State.pinLow (s : State) (isl : Nat) : State :=
  { s with pins := if isl == 0 then { s.pins with phobosLow := true } else { s.pins with deimosLow := true } }

/-- A SAFE or EVENT payload is put on the island channel. -/
def State.sendIsl (s : State) (src typ payload : Nat) : State :=
  { s with saf := { s.saf with frames := s.saf.frames ++ [(src, typ, payload)] } }

/-- An island that enters the device safe state drives its pin low and sends a SAFE frame to the other (R447). -/
def State.islandSafe (s : State) (isl code : Nat) : State := (s.pinLow isl).sendIsl isl 4 code

/-- The device safe state (R467): pins low, no release, every task in flight aborted with its outputs withheld, engines
gated. -/
def State.enterSafe (s : State) (code : Nat) : State :=
  if s.safe then s
  else
    let s1 := (s.fset Reg.SAF_STATUS_safe 1).faultLow.islandSafe 0 code
    let s2 := { s1 with pins := { s1.pins with deimosLow := true } }
    let s3 := (s2.allRuns.filter (·.live)).foldl (fun s r => s.abort r) s2
    let s4 := s3.dies.foldl (fun s t => (List.range 18).foldl (fun s d =>
      if s.dom t d == 2 && s.dieUp t then s.setDom t d 1 else s) s) s3
    s4.noteUnavail

/-- Withdrawal on a proven fault (R510, R511): asserted once until power-on. -/
def State.withdrawNow (s : State) (cause code : Nat) : State :=
  if s.flag Reg.HLT_SCORE_withdraw then s
  else
    let s1 := (s.fset Reg.HLT_SCORE_withdraw 1).wr Reg.HLT_WITHDRAW (BitVec.ofNat 64 (cause + code % 2 ^ 16 * 2 ^ 16))
    let s2 := s1.raise 0x0741 oHub uNone 0
    if s2.fget Reg.JSY_ROLE_role == 1 then
      let body := leBytes 4 (cause % 256) ++ leBytes 4 (s2.rd Reg.HLT_SCORE).toNat
      let m (mac : Nat) : OhpMsg := {
        port := s2.fget Reg.JSY_CKPT_port, mac := mac, typ := 0x27, dstPart := s2.fget Reg.JSY_GROUP_master,
        role := s2.fget Reg.OHP_ROLE_PART_epoch, payload := body }
      (s2.sendOhp (m (s2.fget Reg.JSY_GROUP_master_mac))).sendOhp (m (s2.fget Reg.OHP_EVT_DEST_mac))
    else s2

end Sys2Proof.Machine
end

