-- ==== Sys2Proof/Machine/EventLog.lean ====
section
/-! DEFINITION. Phobos's log, its handlers and the reactions of the classes (R465–R472), the island channel, the supervision
of the islands (R446–R452), their lockstep checks (R440–R442) and the monitors (R459, R460). -/

namespace Sys2Proof.Machine

/-- The two 64-bit words of an event record (Table 20.3). -/
def Event.words (e : Event) : Nat × Nat :=
  (e.time, bits e.code 15 0 + bits e.origin 7 0 * 2 ^ 16 + bits e.unit 7 0 * 2 ^ 24 + bits e.detail 31 0 * 2 ^ 32)

/-- The 16 bytes of an event record. -/
def Event.bytes (e : Event) : List Byte := leBytes 8 e.words.1 ++ leBytes 8 e.words.2

/-- The record of a log slot. -/
def State.logRecord (s : State) (slot : Nat) : List Byte :=
  leBytes 8 (s.rd (Reg.SAF_LOG slot 0)).toNat ++ leBytes 8 (s.rd (Reg.SAF_LOG slot 1)).toNat

/-- The pending entry that R470 takes next: the highest class, oldest first, of those whose handler has not started. -/
def bestPend (ps : List LogPend) : Option LogPend :=
  ps.foldl (fun (m : Option LogPend) p =>
    if p.started then m else match m with
      | none => some p
      | some q => if q.cls < p.cls then some p else some q) none

/-- SAF_STATUS.handling and .pending (Table 16.10). -/
def State.showHandling (s : State) : State :=
  let cls := match s.saf.stack with
    | [] => 0xF
    | slot :: _ => match s.saf.pend.find? fun p => p.slot == slot with | some p => p.cls | none => 0xF
  (s.fset Reg.SAF_STATUS_handling cls).fset Reg.SAF_STATUS_pending s.saf.pend.length

/-- The next handler starts, or the suspended one goes on (R470). -/
def State.runHandlers (s : State) : State :=
  let top : Option LogPend := match s.saf.stack with
    | [] => none
    | slot :: _ => s.saf.pend.find? fun (p : LogPend) => p.slot == slot
  match bestPend s.saf.pend with
  | none => s.showHandling
  | some b =>
    let go : Bool := match top with | none => true | some p => decide (p.cls < b.cls)
    if go then
      { s with saf := { s.saf with
          pend := s.saf.pend.map (fun (p : LogPend) => if p.slot == b.slot then { p with started := true } else p)
          stack := b.slot :: s.saf.stack } }.showHandling
    else s.showHandling

/-- The head after an entry: the next slot in ring order that holds no pending entry; it stays when every slot is
pending (R469). -/
def nextHead (ps : List LogPend) (slot : Nat) : Nat :=
  match (List.range 64).find? fun i => !(ps.any fun p => p.slot == (slot + 1 + i) % 64) with
  | some i => (slot + 1 + i) % 64
  | none => slot

/-- An entry is written into a slot of the log and becomes pending. -/
def State.putLog (s : State) (slot : Nat) (e : Event) : State :=
  let s1 := (s.wr (Reg.SAF_LOG slot 0) (BitVec.ofNat 64 e.words.1)).wr (Reg.SAF_LOG slot 1) (BitVec.ofNat 64 e.words.2)
  let cls := codeClass e.code
  let seq := s1.fget Reg.SAF_STATUS_total
  let s2 := s1.countWrap Reg.SAF_STATUS_total 1
  let s3 := s2.fset Reg.SAF_STATUS_highest (max cls (s2.fget Reg.SAF_STATUS_highest))
  { s3 with saf := { s3.saf with
      pend := s3.saf.pend.filter (fun p => p.slot != slot) ++ [{ slot := slot, seq := seq, cls := cls }]
      ring := s3.saf.ring.filter (fun r => r.1 != slot) ++ [(slot, seq)]
      lastCode := e.code
      c2Count := if 2 ≤ cls then min 0xFFFF (s3.saf.c2Count + 1) else s3.saf.c2Count } }

/-- One event enters the log, or is lost by R472. -/
def State.logOne (s : State) (e : Event) : State :=
  if s.saf.pend.length < 64 then
    let slot := s.fget Reg.SAF_LOG_HEAD_head
    let s1 := s.putLog slot e
    s1.fset Reg.SAF_LOG_HEAD_head (nextHead s1.saf.pend slot)
  else if codeClass e.code ≤ 1 then s.count Reg.SAF_CNT_LOST_count 1
  else match (s.saf.pend.reverse.find? fun p => p.cls ≤ 1 && !p.started) with
    | some p => (s.putLog p.slot e).count Reg.SAF_CNT_LOST_count 1
    | none => if e.code == 0x4605 then s else s.raise 0x4605 oHub 0x20 0

/-- The partitions that own a near-memory channel of a die. -/
def State.ownersOf (s : State) (t c : Nat) : List Nat :=
  match s.planRec with
  | none => []
  | some r => (r.plan.parts.filter fun x => match x.on t with | some d => bit d.chanMask c | none => false).map (·.part)

/-- The C3 reaction to an event (Table 16.6): a die fenced and declared lost, or partitions lost. -/
def State.reactC3 (s : State) (e : Event) : State :=
  match e.code with
  | 0x3047 => s.declareLost e.origin
  | 0x32C6 => s.declareLost e.origin
  | 0x360E => s.declareLost e.origin
  | 0x3704 => s.declareLost e.origin
  | 0x3446 => s.declareLost (bits e.detail 7 4)
  | 0x3609 => if s.dieState e.about == 1 then s.declareLost e.about else s
  | 0x3642 => match s.slotPart e.origin (bits e.detail 28 26) with | some x => s.losePart x.part | none => s
  | 0x3644 => match s.slotPart e.origin (bits e.detail 28 26) with | some x => s.losePart x.part | none => s
  | 0x3208 => (s.ownersOf e.origin (bits e.detail 2 0)).foldl (fun s p => s.losePart p) s
  | 0x3286 => s.losePart (bits e.detail 5 0)
  | _ => s

/-- An engine of a die that a strike struck, that is retired, and whose logical index has no SPARE (Table 18.4 cause 3). -/
def State.retiredUnspared (s : State) (t : Nat) : Bool :=
  (s.spares t).isEmpty && (List.range 18).any fun e =>
    s.engState t e == 5 && decide (0 < s.fget (Reg.CHK_ENG_strikes t e)) && (s.logicalOf t e).isSome

/-- What an entry means beyond its class: advisories (R509), withdrawal (R510). -/
def State.afterEntry (s : State) (e : Event) : State :=
  match e.code with
  | 0x1088 => s.advise 7
  | 0x1443 => s.advise 7
  | 0x060C => s.withdrawNow 1 e.code
  | 0x460B => s.withdrawNow 1 e.code
  | 0x3208 => s.withdrawNow 2 e.code
  | 0x4209 => s.withdrawNow 2 e.code
  | 0x0684 => s.withdrawNow 4 e.code
  | 0x35CC =>
    let s1 := { s with hlt := { s.hlt with noSpare := withOnce e.origin s.hlt.noSpare } }
    if s1.retiredUnspared e.origin then s1.withdrawNow 3 e.code else s1
  | 0x15C9 => if s.hlt.noSpare.contains e.origin && s.retiredUnspared e.origin then s.withdrawNow 3 e.code else s
  | 0x4503 => s
  | 0x4504 => s
  | _ => if codeClass e.code == 4 then s.withdrawNow 5 e.code else s

/-- Order of entry in one cycle: descending class, then ascending code (R469). -/
def eventBefore (a b : Event) : Bool :=
  decide (codeClass b.code < codeClass a.code) || (codeClass a.code == codeClass b.code && decide (a.code < b.code))

/-- The reactions to the events entered in one cycle (R465, R468): FAULT_N low; the C4 reaction when there is one, else the C3
reactions; none in the device safe state. -/
def State.reactAll (s : State) (es : List Event) : State :=
  let hot := es.filter fun e => codeClass e.code == 3 || codeClass e.code == 4
  if hot.isEmpty then s
  else
    let s1 := { s with saf := { s.saf with c3At := some s.now } }.faultLow
    if s1.safe then s1
    else match hot.find? fun e => codeClass e.code == 4 with
      | some e => s1.enterSafe e.code
      | none => hot.foldl (fun s e => s.reactC3 e) s1

/-- EVENT_LOG_ENTRY (R465–R469, R472): the raised events at positions `sel` reach the log in one cycle. -/
def execEventLogEntry (sel : List Nat) (s : State) : Host.Outcome State Fault Refusal :=
  let idx := (List.range s.raised.length).filter fun i => sel.contains i
  let es := sortBy eventBefore (idx.filterMap fun i => s.raised[i]?)
  let rest := ((List.range s.raised.length).filter fun i => !sel.contains i).filterMap fun i => s.raised[i]?
  let s1 := { s with raised := rest }
  let s2 := (es.foldl (fun s e => s.logOne e) s1).runHandlers
  let s3 := s2.reactAll es
  .next (es.foldl (fun s e => s.afterEntry e) s3).noteUnavail

/-- The head passes over a slot that holds a pending entry (R469): one it stayed at while every slot was pending. -/
def State.passHead (s : State) : State :=
  let h := s.fget Reg.SAF_LOG_HEAD_head
  if s.saf.pend.any fun p => p.slot == h then s.fset Reg.SAF_LOG_HEAD_head (nextHead s.saf.pend h) else s

/-- HANDLER_END (R470): the running handler ends and its entry is no longer pending. -/
def execHandlerEnd (s : State) : Host.Outcome State Fault Refusal :=
  match s.saf.stack with
  | [] => .next s
  | slot :: rest =>
    .next { s with saf := { s.saf with pend := s.saf.pend.filter (fun p => p.slot != slot), stack := rest } }.passHead.runHandlers

/-- A fault of Phobos's own handling (R471): 0x4604, and SAFE_PHOBOS_N low in hardware. -/
def State.handlingFault (s : State) : State := (s.raise 0x4604 oHub 0x20 0).islandSafe 0 0x4604

/-- HANDLER_GUARD_EXPIRY (R471): the running handler has exceeded 100 µs of its own time. -/
def execHandlerGuardExpiry (s : State) : Host.Outcome State Fault Refusal :=
  if s.saf.stack.isEmpty then .next s else .next s.handlingFault

/-- HANDLER_TRAP (R471): a trap is taken while a handler runs. -/
def execHandlerTrap (s : State) : Host.Outcome State Fault Refusal :=
  if s.saf.stack.isEmpty then .next s else .next s.handlingFault

/-- ISLAND_SRAM_ECC_ERROR (R471, M14): corrected, or a fault of Phobos's handling. -/
def execIslandSramEccError (corrected : Bool) (s : State) : Host.Outcome State Fault Refusal :=
  if corrected then .next (s.raise 0x160D oHub 0x20 0) else .next s.handlingFault

/-- STEWARD_SRAM_ECC_ERROR (M14): corrected, or a die fault that fences the die at its entry (Table 16.6). -/
def execStewardSramEccError (t : Nat) (corrected : Bool) (s : State) : Host.Outcome State Fault Refusal :=
  if !s.hasDie t then .next s
  else if corrected then .next (s.raise 0x160D t 0x20 0)
  else .next (s.raise 0x360E t 0x20 0)

/-- FAULT_N_RELEASE (R384): 10 ms after the latest C3 event, outside safe state. -/
def execFaultNRelease (s : State) : Host.Outcome State Fault Refusal :=
  match s.saf.c3At with
  | none => .next s
  | some c =>
    if !s.safe && decide (c + 10000000 ≤ s.now) then
      .next { s with pins := { s.pins with faultLow := false }, saf := { s.saf with c3At := none } }
    else .next s

/-- An island that is alive: not halted, and for Deimos its die not in reset. -/
def State.islandUp (s : State) (isl : Nat) : Bool :=
  s.pow.phase != .stopped && !s.saf.halted.contains isl && !(isl == 1 && s.pow.kyDown)

/-- Deimos raises an event (R446): it goes into its own 16-entry log and, by an EVENT frame, to Phobos; a C4 event drives its
own pin. -/
def State.raiseKy (s : State) (code unit det about : Nat) : State :=
  let e : Event := { time := s.now, code := code, origin := oKysta, unit := unit, detail := det, about := about }
  let slot := s.saf.dlogTotal % 16
  let s1 := (s.wr (Reg.SAF_DLOG slot 0) (BitVec.ofNat 64 e.words.1)).wr (Reg.SAF_DLOG slot 1) (BitVec.ofNat 64 e.words.2)
  let s2 := { s1 with saf := { s1.saf with dlogTotal := s1.saf.dlogTotal + 1, dfwd := s1.saf.dfwd ++ [e] } }
  let s3 := s2.sendIsl 1 3 code
  if codeClass code == 4 then s3.islandSafe 1 code else s3

/-- An island raises an event. -/
def State.raiseIsl (s : State) (isl code : Nat) : State :=
  if isl == 0 then s.raise code oHub 0x20 0 else s.raiseKy code 0x20 0 0xFF

/-- An island finds the channel failed (R449). -/
def State.channelFail (s : State) (isl : Nat) : State :=
  if s.saf.chanFail.contains isl then s
  else
    let s1 := { s with saf := { s.saf with chanFail := s.saf.chanFail ++ [isl] } }.fset Reg.SAF_STATUS_chan_ok 0
    s1.raiseIsl isl 0x4603

/-- A 64-bit frame of the island channel (Table 16.2). -/
def islandFrame (typ seq payload : Nat) : Nat :=
  let body := typ % 16 + seq % 16 * 2 ^ 4 + payload % 2 ^ 40 * 2 ^ 8
  body + crc16 body * 2 ^ 48

/-- A frame from island `src` is sent and, its bits changed by `err` on the way, arrives: the payload when it passes its CRC
(R448), else the drop of R449. A frame whose type the way has changed, its CRC passing, is valid and not taken for what was sent. -/
def State.frameIn (s : State) (src typ payload err : Nat) : State × Option Nat :=
  let seq := nth 0 s.saf.seqs src
  let rx := islandFrame typ seq payload ^^^ (err % 2 ^ 64)
  let dst := 1 - src
  let s1 := { s with saf := { s.saf with seqs := setNth s.saf.seqs src ((seq + 1) % 16) } }
  if crc16 (rx % 2 ^ 48) == rx / 2 ^ 48 then
    let s2 := { s1 with saf := { s1.saf with
      rxAt := setNth s1.saf.rxAt dst s1.now, crcRun := setNth s1.saf.crcRun dst 0 } }
    let s3 := if s2.saf.chanFail.isEmpty then s2.fset Reg.SAF_STATUS_chan_ok 1 else s2
    (s3, if rx % 16 == typ then some (bits rx 47 8) else none)
  else
    let run := nth 0 s1.saf.crcRun dst + 1
    let s2 := { s1 with saf := { s1.saf with crcRun := setNth s1.saf.crcRun dst run } }
    let s3 := (s2.raiseIsl dst 0x1606).count Reg.SAF_CNT_CHAN_count 1
    (if 3 ≤ run then s3.channelFail dst else s3, none)

/-- ISLAND_STATUS (R448, R449, R451): island `src` sends its STATUS frame after `loops` more loops of its main program. -/
def execIslandStatus (src loops err : Nat) (s : State) : Host.Outcome State Fault Refusal :=
  if 2 ≤ src || !s.islandUp src then .next s
  else
    let n := (nth 0 s.saf.loops src + loops) % 2 ^ 16
    let s1 := { s with saf := { s.saf with loops := setNth s.saf.loops src n } }
    let low := if src == 0 then s1.pins.phobosLow else s1.pins.deimosLow
    match s1.frameIn src 0 (n + s1.fget Reg.SAF_STATUS_highest * 2 ^ 16 + b2n low * 2 ^ 19) err with
    | (s2, some p) =>
      if src == 1 && bits p 15 0 != s2.saf.loopCnt then
        .next ({ s2 with saf := { s2.saf with loopCnt := bits p 15 0, loopAt := s2.now, hbTold := false } }.fset Reg.SAF_STATUS_deimos_ok 1)
      else .next s2
    | (s2, none) => .next s2

/-- HEARTBEAT_LOSS (R451): 100 µs without an advancing STATUS frame from Deimos; raised once for each loss. -/
def execHeartbeatLoss (s : State) : Host.Outcome State Fault Refusal :=
  if s.islandUp 0 && !s.saf.hbTold && decide (s.saf.loopAt + 100000 ≤ s.now) then
    .next (({ s with saf := { s.saf with hbTold := true } }.fset Reg.SAF_STATUS_deimos_ok 0).raise 0x4602 oHub 0x20 0)
  else .next s

/-- CHANNEL_SILENCE (R449): an island has received no valid frame for 10 µs. -/
def execChannelSilence (isl : Nat) (s : State) : Host.Outcome State Fault Refusal :=
  if isl < 2 && s.islandUp isl && s.pow.phase != .inReset && decide (nth 0 s.saf.rxAt isl + 10000 ≤ s.now) then
    .next (s.channelFail isl)
  else .next s

/-- The answer that a challenge calls for (R450). -/
def expectAnswer (n : Nat) : Nat :=
  (List.range 4).foldl (fun a k => a + mix ((n % 2 ^ 32) ^^^ (k * 2 ^ 32)) / 2 ^ 56 * 2 ^ (8 * k)) 0

/-- A failed answer (R450): 0x0607 and its counts; a second in a row raises 0x4601. -/
def State.answerFail (s : State) : State :=
  let s1 := (s.raiseKy 0x0607 0x20 0 0xFF).count Reg.SAF_CNT_CR_count 1
  let f := s1.fget Reg.SAF_CR_fails
  let s2 := { s1 with saf := { s1.saf with chal := none } }.fset Reg.SAF_CR_fails (min 3 (f + 1))
  if f + 1 == 2 then s2.raiseKy 0x4601 0x20 0 0xFF else s2

/-- CHALLENGE (R450): Deimos sends a challenge of value `n`; one before it that is past its time without an answer has failed. -/
def execChallenge (n err : Nat) (s : State) : Host.Outcome State Fault Refusal :=
  if !s.islandUp 1 then .next s
  else
    let s0 := match s.saf.chal with | some c => if c.at_ + 750000 ≤ s.now then s.answerFail else s | none => s
    let s1 := s0.countWrap Reg.SAF_CR_sent 1
    let s2 := { s1 with saf := { s1.saf with chal := some { n := n % 2 ^ 32, at_ := s1.now } } }
    .next (s2.frameIn 1 1 (n % 2 ^ 32) err).1

/-- ANSWER (R450): Phobos's answer reaches Deimos and is judged for its value and its time. -/
def execAnswer (v err : Nat) (s : State) : Host.Outcome State Fault Refusal :=
  if !s.islandUp 0 then .next s
  else match s.frameIn 0 2 (v % 2 ^ 32) err with
    | (s1, none) => .next s1
    | (s1, some p) =>
      match s1.saf.chal with
      | none => .next s1
      | some c =>
        if !s1.islandUp 1 then .next s1
        else if bits p 31 0 == expectAnswer c.n && decide (c.at_ + 250000 ≤ s1.now) && decide (s1.now ≤ c.at_ + 750000) then
          .next ({ s1 with saf := { s1.saf with chal := none } }.fset Reg.SAF_CR_fails 0)
        else .next s1.answerFail

/-- ANSWER_TIMEOUT (R450): 750 µs have passed since a challenge that is still unanswered. -/
def execAnswerTimeout (s : State) : Host.Outcome State Fault Refusal :=
  match s.saf.chal with
  | some c => if s.islandUp 1 && decide (c.at_ + 750000 ≤ s.now) then .next s.answerFail else .next s
  | none => .next s

/-- The oldest payload of a type that an island has put on the channel, taken off it. -/
def State.takeFrame (s : State) (src typ : Nat) : Option (State × Nat) :=
  match s.saf.frames.find? fun f => f.1 == src && f.2.1 == typ with
  | none => none
  | some f => some ({ s with saf := { s.saf with frames := s.saf.frames.erase f } }, f.2.2)

/-- ISLAND_EVENT (R446): an EVENT frame of Deimos arrives; its event goes to Phobos's log. -/
def execIslandEvent (err : Nat) (s : State) : Host.Outcome State Fault Refusal :=
  match s.takeFrame 1 3 with
  | none => .next s
  | some (s1, code) =>
    let ev := s1.saf.dfwd.head?
    let s2 := { s1 with saf := { s1.saf with dfwd := s1.saf.dfwd.drop 1 } }
    match s2.frameIn 1 3 code err, ev with
    | (s3, some p), some e => .next { s3 with raised := s3.raised ++ [{ e with code := bits p 15 0 }] }
    | (s3, _), _ => .next s3

/-- SAFE_FRAME (R447): a SAFE frame arrives; the channel hardware of the island drives its pin low unless it has found the
channel failed. -/
def execSafeFrame (src err : Nat) (s : State) : Host.Outcome State Fault Refusal :=
  match s.takeFrame src 4 with
  | none => .next s
  | some (s1, code) =>
    match s1.frameIn src 4 code err with
    | (s2, some _) => if s2.saf.chanFail.contains (1 - src) then .next s2 else .next (s2.pinLow (1 - src))
    | (s2, none) => .next s2

/-- The start-up is not ended (R463): 0x460B. -/
def State.failStart (s : State) : State :=
  if s.pow.phase == .booting then { s with saf := { s.saf with startFail := true } }.raise 0x460B oHub 0x20 0 else s

/-- An injection is recorded (R462, R463): done, and when it failed its SAF_INJ bit and 0x060C; M28–M36 keep the start-up from ending. -/
def State.recordInjection (s : State) (m : Nat) (ok : Bool) : State :=
  let s1 := s.fset ⟨Reg.SAF_INJ_DONE, m, m⟩ 1
  if ok then s1
  else
    let s2 := (s1.fset ⟨Reg.SAF_INJ, m, m⟩ 1).raise 0x060C oHub 0x20 0
    if 28 ≤ m && m ≤ 36 then s2.failStart else s2

/-- INJECT (R446, R461, R462): an INJECT frame orders an injection on the Kysta die, or reports it to Phobos. -/
def execInject (src mech : Nat) (ok : Bool) (err : Nat) (s : State) : Host.Outcome State Fault Refusal :=
  if 2 ≤ src || !s.islandUp src then .next s
  else match s.frameIn src 5 (mech % 2 ^ 8 + b2n ok * 2 ^ 8) err with
    | (s1, some p) =>
      if src == 1 && s1.pow.phase == .booting && bits p 7 0 < 38 then .next (s1.recordInjection (bits p 7 0) (bit p 8))
      else .next s1
    | (s1, none) => .next s1

/-- The window of an island's CHK_ISL. -/
def islWin (isl : Nat) : Win := if isl == 0 then .hub else .kysta

/-- The reaction of R440: the island's own pin low in hardware, the other told. -/
def State.islandFault (s : State) (isl code : Nat) : State :=
  ((s.fset (Reg.CHK_ISL_fault (islWin isl)) 1).raiseIsl isl code).islandSafe isl code

/-- LOCKSTEP_MISMATCH (R440, R443): an island's copies differ; a split island has no comparator. -/
def execLockstepMismatch (isl : Nat) (s : State) : Host.Outcome State Fault Refusal :=
  if isl < 2 && s.pow.phase != .stopped && !s.flag (Reg.CHK_ISL_split (islWin isl)) && !(isl == 1 && s.pow.kyDown) then
    .next (s.islandFault isl 0x45CD)
  else .next s

/-- ASYNC_INPUT (R441, R443): input number `input` passes the agreement exchange; `agree` says of each attempt whether both
copies read it alike. Three attempts that disagree raise 0x45CE. -/
def execAsyncInput (isl input : Nat) (agree : List Bool) (s : State) : Host.Outcome State Fault Refusal :=
  if 2 ≤ isl || !s.islandUp isl || s.flag (Reg.CHK_ISL_split (islWin isl)) then .next s
  else
    let bad := ((agree.take 3).takeWhile fun b => !b).length
    let s1 := s.count (Reg.CHK_CNT_AGREE_RETRY_count (islWin isl)) bad
    if 3 ≤ bad then
      .next ((s1.fset (Reg.CHK_ISL_input (islWin isl)) (input % 256)).islandFault isl 0x45CE)
    else .next s1

/-- DEBUG_HALT (R442): with debug level 2 a debugger halts an island: both pins low, 0x45CF. -/
def execDebugHalt (isl : Nat) (s : State) : Host.Outcome State Fault Refusal :=
  if isl < 2 && s.fget Reg.SEC_STATUS_debug_level == 2 && s.islandUp isl then
    let s1 := (s.raiseIsl isl 0x45CF).islandSafe isl 0x45CF
    let s2 := s1.pinLow (1 - isl)
    .next { s2 with saf := { s2.saf with halted := withOnce isl s2.saf.halted } }
  else .next s

/-- SAFE_REQ (R385): SAFE_REQ_N has been low for `lowNs` continuously; 1 µs is accepted and brings the device safe state. -/
def execSafeReq (lowNs : Nat) (s : State) : Host.Outcome State Fault Refusal :=
  if lowNs < 1000 || s.pow.phase == .stopped then .next s
  else
    let s1 := { s with saf := { s.saf with safeReqSeen := true } }
    let s2 := (s1.raise 0x4504 oHub 0x20 0).enterSafe 0x4504
    .next { s2 with pins := { s2.pins with phobosLow := true, deimosLow := true } }

/-- Nominal frequency of each monitored clock, kHz (Tables 16.5, 17.4). -/
def clkNominal (i : Nat) : Nat :=
  nth 1000000 [1000000, 1000000, 1000000, 1000000, 1000000, 1000000, 1000000, 1000000, 25000, 1200000, 400000, 1000000,
    400000, 156250, 100000] i

/-- Limits of each monitored rail, mV (Table 16.5; the nominal values of Table 19.1 for PHY groups). -/
def railLimits (i : Nat) : Nat × Nat :=
  nth (500, 900) [(500, 900), (500, 900), (500, 900), (500, 900), (500, 900), (500, 900), (500, 900), (500, 900),
    (690, 810), (736, 864), (736, 864), (1656, 1944), (460, 540), (690, 810), (690, 810), (1104, 1296)] i

/-- A monitor's verdict is shown and, when it is newly out of limits, raised and captured (R459, R460, R475). Monitor
numbers: rail i is i, clock i is 16 + i. -/
def State.monitor (s : State) (m : Nat) (good high : Bool) (value : Nat) : State :=
  let s1 := s.fset ⟨Reg.SAF_MON, m, m⟩ (b2n good)
  if good then { s1 with saf := { s1.saf with monOut := setBit s1.saf.monOut m false } }
  else if bit s1.saf.monOut m then s1
  else
    let s2 := { s1 with saf := { s1.saf with monOut := setBit s1.saf.monOut m true } }
    let s3 := s2.capture Reg.SAF_MON_ERR (m % 16 + b2n (16 ≤ m) * 2 ^ 4 + b2n high * 2 ^ 5 + value % 2 ^ 32 * 2 ^ 16)
    if m % 16 < 8 then s3.raiseKy 0x3609 0x20 0 (m % 16)
    else if m == 10 then s3.raise 0x460A oHub 0x20 0
    else s3.raiseKy 0x460A 0x20 0 0xFF

/-- Is a monitor judged now (R459, R497)? -/
def State.judged (s : State) (m : Nat) : Bool :=
  s.pow.phase != .inReset && s.pow.phase != .stopped && !(decide (m % 16 < 8) && !s.hasDie (m % 16))
  && (if m == 10 then s.islandUp 0 else s.islandUp 1)
  && !(s.pow.phase == .standby && decide (16 ≤ m) && m != 24 && m != 26)

/-- CLOCK_MONITOR_WINDOW (R459, R460): Deimos's 10 µs window; the measured clocks in kHz, by bit number. -/
def execClockMonitorWindow (khz : List Nat) (s : State) : Host.Outcome State Fault Refusal :=
  .next ((List.range 15).foldl (fun s i =>
    match khz[i]? with
    | none => s
    | some f =>
      let n := clkNominal i
      if s.judged (16 + i) then s.monitor (16 + i) (decide (n * 9 ≤ f * 10) && decide (f * 10 ≤ n * 11)) (decide (n < f)) f
      else s) s)

/-- RAIL_EXCURSION (R459, R460): a rail's filtered reading crosses a limit, or returns within its limits. -/
def execRailExcursion (rail mv : Nat) (s : State) : Host.Outcome State Fault Refusal :=
  let l := railLimits rail
  if rail < 16 && s.judged rail then
    .next (s.monitor rail (decide (l.1 ≤ mv) && decide (mv ≤ l.2)) (decide (l.2 < mv)) mv)
  else .next s

end Sys2Proof.Machine
end

