-- ==== Sys2Proof/Machine/Reset.lean ====
section
/-! DEFINITION. Resets, clocks, die rejoin and power domains (chapter 17). Causes of a reset are the bits of RST_CAUSE; `also` holds
those present in the same cycle (R478). -/

namespace Sys2Proof.Machine

/-- The reset of the highest class among the causes is taken (R476, R478). -/
def State.takeReset (s : State) (causes src : Nat) : State :=
  if bit causes 0 then
    let s1 := s.powerOn
    s1.wr Reg.RST_CAUSE (BitVec.ofNat 64 (causes % 2 ^ 10 + src % 4 * 2 ^ 12))
  else if bit causes 1 then s.safetyResetNow causes src
  else s.appReset causes src

/-- A reset source other than power-on is heard while the part has its supplies (R384). -/
def State.powered (s : State) : Bool := s.pow.phase != .stopped

/-- POWER_ON_RESET (R476, R479, R483): VDD_AO rises through 0.70 V. -/
def execPowerOnReset (also : Nat) (s : State) : Host.Outcome State Fault Refusal := .next (s.takeReset (also ||| 1) 0)

/-- SAFETY_RESET (R476, R478): SAFETY_RESET_N has been low for `lowNs`. -/
def execSafetyReset (lowNs also : Nat) (s : State) : Host.Outcome State Fault Refusal :=
  if s.powered && decide (10000 ≤ lowNs) then .next (s.takeReset (also ||| 2) 0) else .next s

/-- RESET_PIN (R476, R478, R498): RESET_N has been low for `lowNs`. -/
def execResetPin (lowNs also : Nat) (s : State) : Host.Outcome State Fault Refusal :=
  if s.powered && decide (1000 ≤ lowNs) then .next (s.takeReset (also ||| 8) 0) else .next s

/-- BROWN_OUT (R476): VDD_DH or VDDIO has been below its limit for `lowNs`; the reset is held while it is low. -/
def execBrownOut (lowNs also : Nat) (s : State) : Host.Outcome State Fault Refusal :=
  if s.powered && decide (2000 ≤ lowNs) then
    let s1 := s.takeReset (also ||| 4) 0
    .next { s1 with pow := { s1.pow with brownHeld := true } }
  else .next s

/-- BROWN_OUT_RELEASE (R476): the rail has been back within limits for `goodNs`; 1 ms releases the reset. -/
def execBrownOutRelease (goodNs : Nat) (s : State) : Host.Outcome State Fault Refusal :=
  if decide (1000000 ≤ goodNs) then .next { s with pow := { s.pow with brownHeld := false } } else .next s

/-- Registers of the Kysta window. -/
def inKysta (a : Addr) : Bool := decide (0x00F200000000 ≤ a ∧ a < 0x00F300000000)

/-- KYSTA_POWER_RESET (R476): VDD_KY falls below 0.70 V: the Kysta die alone is reset, its retained state lost with its supply
(log entry 22); Phobos reacts by R451. -/
def execKystaPowerReset (s : State) : Host.Outcome State Fault Refusal :=
  if !s.powered || s.pow.kyDown then .next s
  else .next { s with
    regs := smKeep (fun a => !inKysta a) s.regs
    csr := smKeep (fun a => !inKysta a) s.csr
    saf := { s.saf with chal := none, dlogTotal := 0, dfwd := [], frames := s.saf.frames.filter (fun f => f.1 != 1),
                        halted := without 1 s.saf.halted, chanFail := without 1 s.saf.chanFail, loops := setNth s.saf.loops 1 0,
                        crcRun := setNth s.saf.crcRun 1 0, monOut := 0 }
    pins := { s.pins with deimosLow := true }
    pow := { s.pow with kyDown := true } }

/-- KYSTA_POWER_RETURN (R476): VDD_KY rises back through 0.70 V and Deimos restarts; its pin stays low until a start-up ends
(Table 13.12). -/
def execKystaPowerReturn (s : State) : Host.Outcome State Fault Refusal :=
  if s.powered && s.pow.kyDown then
    .next { s with pow := { s.pow with kyDown := false }
                   saf := { s.saf with rxAt := setNth s.saf.rxAt 1 s.now } }
  else .next s

/-- Bits of an OTP field that SEC_OTP_PROG can program (Table 14.5). -/
def otpBits (f : Nat) : Nat := nth 0 [0, 512, 512, 4, 256, 16, 1, 2] f

/-- What such a field holds now. -/
def Otp.field (o : Otp) (f i : Nat) : Nat :=
  match f with
  | 1 => nth 0 o.edDigest i
  | 2 => nth 0 o.mlDigest i
  | 3 => nth 0 o.edRole i + nth 0 o.mlRole i * 4
  | 4 => o.kWrap
  | 5 => o.bOffset
  | 6 => o.splitAllowed
  | _ => o.dbgMax

/-- The field programmed. -/
def Otp.program (o : Otp) (f i v : Nat) : Otp :=
  match f with
  | 1 => { o with edDigest := setNth o.edDigest i v }
  | 2 => { o with mlDigest := setNth o.mlDigest i v }
  | 3 => { o with edRole := setNth o.edRole i (v % 4), mlRole := setNth o.mlRole i (v / 4 % 4) }
  | 4 => { o with kWrap := v }
  | 5 => { o with bOffset := v }
  | 6 => { o with splitAllowed := v }
  | _ => { o with dbgMax := v }

/-- POWER_LOSS (R384, R395, R416): VDD_AO or VDDIO goes absent: the part stops, its outputs in high impedance. A counter and
revocations being burned are each left at their old or their new value, as `burnt` says bit by bit: bit i for the i-th burn still
to be made. A field that SEC_OTP_PROG was programming is left at an open value. -/
def execPowerLoss (burnt : Nat) (s : State) : Host.Outcome State Fault Refusal :=
  if !s.powered then .next s
  else
    let all := (List.range s.pow.burns.length).filterMap fun i => if bit burnt i then s.pow.burns[i]? else none
    let otp := all.foldl (fun (o : Otp) (b : OtpBurn) => match b with
      | .arb i v => { o with arb := smPut 0 o.arb i v }
      | .revokeEd i => { o with edRevoked := setBit o.edRevoked i true }
      | .revokeMl i => { o with mlRevoked := setBit o.mlRevoked i true }) s.otp
    let (n, s1) := s.draw
    let left := leNat ((List.range 64).map fun i => Config.hazyByte n i)
    let otp1 := match s.trust.prog with | some (f, i, _) => otp.program f i (left % 2 ^ otpBits f) | none => otp
    .next { s1 with
      otp := otp1
      trust := { s.trust with prog := none }
      raised := []
      pow := { s.pow with phase := .stopped, burns := [] }
      pins := { s.pins with highZ := true, trig := 0 } }

/-- A write of RST_REQ (R476, R486) by source 0 control core, 1 host, 3 debug port; key, op and die act and read 0. -/
def State.rstReqWrite (s : State) (src v : Nat) : State :=
  let t := bits v 12 10
  if bits v 7 0 != 0xA5 || bits v 9 8 == 0 || bits v 9 8 == 3 then s.raise 0x0685 oHub uNone 0
  else if bits v 9 8 == 1 then
    if src == 3 then s.takeReset (2 ^ 6) 0 else s.takeReset (2 ^ 5) src
  else if !s.hasDie t || s.fget (Reg.RST_DIE_state t) ≥ 2 then s.raise 0x0685 oHub uNone 0
  else
    let s1 := s.fenceDie t
    let s2 := s1.declareLost t
    if s2.fget (Reg.RST_DIE_state t) == 2 then s2
    else ((s2.fset (Reg.RST_DIE_attempts t) 0).assertDieReset t).beginAttempt t

/-- Who may write RST_REQ now: control cores and the host outside standby; the debug port at debug level 1 or 2 (R414). -/
def State.mayRequest (s : State) (src : Nat) : Bool :=
  (s.pow.phase == .booting || s.pow.phase == .running) && decide (src ≤ 3) && src != 2
    && !(src == 3 && s.fget Reg.SEC_STATUS_debug_level == 0)

/-- APPLICATION_RESET_REQUEST (R476): a write to RST_REQ that asks for an application reset; a wrong key or op is ignored with
0x0685. -/
def execApplicationResetRequest (src v : Nat) (s : State) : Host.Outcome State Fault Refusal :=
  if s.mayRequest src then .next (s.rstReqWrite src v) else .next s

/-- DIE_RESET_REQUEST (R486): a write to RST_REQ that asks for the reset of one die. -/
def execDieResetRequest (src v : Nat) (s : State) : Host.Outcome State Fault Refusal :=
  if s.mayRequest src then .next (s.rstReqWrite src v) else .next s

/-- A write of RST_SYSWD_KICK (R477). -/
def State.syswdKick (s : State) (v : Nat) : State :=
  if bits v 7 0 == 0x5A && s.pow.wdKick.isSome then { s with pow := { s.pow with wdKick := some s.now } } else s

/-- SYSWD_KICK (R477): control-core firmware writes RST_SYSWD_KICK. -/
def execSyswdKick (v : Nat) (s : State) : Host.Outcome State Fault Refusal := .next (s.syswdKick v)

/-- SYSWD_EXPIRY (R477): timeout_ms has passed without a kick. -/
def execSyswdExpiry (also : Nat) (s : State) : Host.Outcome State Fault Refusal :=
  match s.pow.wdKick with
  | none => .next s
  | some k =>
    if k + max 1 (s.fget Reg.RST_SYSWD_timeout_ms) * 1000000 ≤ s.now then .next (s.takeReset (also ||| 16) 0) else .next s

/-- LOCKUP (R476): a control core takes a trap in its trap handler. -/
def execLockup (also : Nat) (s : State) : Host.Outcome State Fault Refusal :=
  if s.pow.phase == .booting || s.pow.phase == .running then .next (s.takeReset (also ||| 2 ^ 8) 0) else .next s

/-- The synthesiser enters holdover (R485). -/
def State.holdover (s : State) : State := (s.fset Reg.CLK_STATUS_holdover 1).count Reg.CLK_CNT_REF_LOSS_count 1

/-- REFERENCE_LOST (R255, R485): four reference edges in a row are missing. -/
def execReferenceLost (s : State) : Host.Outcome State Fault Refusal :=
  if !s.powered || s.pow.refLost.isSome || !s.flag Reg.CLK_STATUS_ref_ok then .next s
  else
    let s1 := (s.raise 0x06C1 oHub uNone 0).fset Reg.CLK_STATUS_ref_ok 0
    let s2 := { s1 with pow := { s1.pow with refLost := some s1.now } }
    .next (if s2.flag Reg.CLK_STATUS_holdover then s2 else s2.holdover)

/-- REFERENCE_RESTORED (R485): the reference, or the lock handled in the same way, returns within 100 µs; or the reference
first appears at power-up. -/
def execReferenceRestored (s : State) : Host.Outcome State Fault Refusal :=
  match s.pow.refLost, s.pow.lockLost with
  | some f, _ =>
    if s.now ≤ f + 100000 then
      let s1 := ((s.fset Reg.CLK_STATUS_ref_ok 1).fset Reg.CLK_STATUS_holdover 0).raise 0x06C2 oHub uNone 0
      .next { s1 with pow := { s1.pow with refLost := none } }
    else .next s
  | none, some f =>
    if s.now ≤ f + 100000 then
      let s1 := ((s.fset Reg.CLK_STATUS_locked 1).fset Reg.CLK_STATUS_holdover 0).raise 0x06C2 oHub uNone 0
      .next { s1 with pow := { s1.pow with lockLost := none } }
    else .next s
  | none, none => if s.powered then .next (s.fset Reg.CLK_STATUS_ref_ok 1) else .next s

/-- CLOCK_FAILURE (R476, R485): the reference has been missing, or the synthesiser unlocked, for 100 µs. -/
def execClockFailure (also : Nat) (s : State) : Host.Outcome State Fault Refusal :=
  let expired (o : Option Time) : Bool := match o with | some f => decide (f + 100000 ≤ s.now) | none => false
  if expired s.pow.refLost || expired s.pow.lockLost then .next (s.takeReset (also ||| 2 ^ 7) 0) else .next s

/-- SYNTH_UNLOCK (R485): the synthesiser loses lock with the reference present. -/
def execSynthUnlock (s : State) : Host.Outcome State Fault Refusal :=
  if s.flag Reg.CLK_STATUS_ref_ok && s.flag Reg.CLK_STATUS_locked then
    let s1 := ((s.raise 0x06C3 oHub uNone 0).count Reg.CLK_CNT_UNLOCK_count 1).fset Reg.CLK_STATUS_locked 0
    .next { s1.holdover with pow := { s1.pow with lockLost := some s1.now } }
  else .next s

/-- DIE_PLL_UNLOCK (R485): the PLL of a die loses lock and the die is fenced. -/
def execDiePllUnlock (t : Nat) (s : State) : Host.Outcome State Fault Refusal :=
  if s.hasDie t && s.flag ⟨Reg.CLK_STATUS, 8 + t, 8 + t⟩ then
    let s1 := ((s.raise 0x06C3 oHub uNone 0).count Reg.CLK_CNT_UNLOCK_count 1).fset ⟨Reg.CLK_STATUS, 8 + t, 8 + t⟩ 0
    .next (s1.fenceDie t)
  else .next s

/-- The timers of a die's reset. -/
def State.dieTimer (s : State) (t : Nat) : DieTimer := smGet {} s.pow.dieTimers t

def State.setDieTimer (s : State) (t : Nat) (d : DieTimer) : State :=
  { s with pow := { s.pow with dieTimers := smPut {} s.pow.dieTimers t d } }

/-- A failed attempt (R489): the die is fenced, its reset asserted again, the next attempt due retry_ms later. -/
def State.failAttempt (s : State) (t : Nat) : State :=
  let s1 := (s.fset (Reg.PKG_DIE_STATE_die t) 2).fset ⟨Reg.LNK_FENCE, t, t⟩ 1
  let s3 := (s1.fset (Reg.LNK_MOD_state .hub t) 5).assertDieReset t
  s3.setDieTimer t { retryAt := some (s3.now + s3.fget Reg.RST_DIE_CTRL_retry_ms * 1000000) }

/-- The monitor bits of a die are within limits (R487). -/
def State.dieMonOk (s : State) (t : Nat) : Bool := s.flag ⟨Reg.SAF_MON, t, t⟩ && s.flag ⟨Reg.SAF_MON, 16 + t, 16 + t⟩

/-- A die's clocks and supply after its release (R60, R481): PLL locked, rail at 0.85 V, setpoints at 0.80 V. The release token wave is
injected: the die domains are on their way to ON (R482). -/
def State.wave (s : State) (t : Nat) : State :=
  let s1 := (s.setPaceDie t {}).fset (Reg.PACE_RAIL_rail_cmd t) 850
  let s2 := (List.range 22).foldl (fun s d => s.fset (Reg.PACE_DOM_ldo t d) 800) s1
  let s3 := [20, 19, 21, 18].foldl (fun s d => s.fset (Reg.PWR_DOM_dom t d) 3) s2
  { s3 with pow := { s3.pow with wakes := [20, 19, 21, 18].foldl (fun m d =>
      smPut {} m (engKey t d) { since := s3.now, fromOff := true, running := true }) s3.pow.wakes } }.fset ⟨Reg.CLK_STATUS, 8 + t, 8 + t⟩ 1

/-- The token has passed the die domains (R482): the mapped engines come ON, every other one stays OFF, and the die's modules begin training
(Tables 17.3, 17.5). -/
def State.waveDone (s : State) (t : Nat) : State :=
  let s1 := (List.range 18).foldl (fun s e =>
    if (s.logicalOf t e).isSome && s.engState t e != 5 then s.setDom t e 2 else s) s
  let s2 := if s1.fget (Reg.RST_DIE_state t) == 3 then s1.fset (Reg.RST_DIE_state t) 4 else s1
  [0, 1, 2].foldl (fun s m => s.fset (Reg.LNK_MOD_state (.die t) m) 1) (s2.fset (Reg.LNK_MOD_state .hub t) 1)

/-- DIE_HOLD_END (R487, R481, R60): the hold has run out and the die's monitor bits are within limits: its clocks and rail come up and the
token wave begins. -/
def execDieHoldEnd (t : Nat) (s : State) : Host.Outcome State Fault Refusal :=
  let d := s.dieTimer t
  if s.hasDie t && s.fget (Reg.RST_DIE_state t) == 2 && d.retryAt.isNone && d.holdEnd != 0 && decide (d.holdEnd ≤ s.now)
      && s.dieMonOk t then
    .next (((s.wave t).fset (Reg.RST_DIE_state t) 3).setDieTimer t {})
  else .next s

/-- REJOIN_ATTEMPT_TIMEOUT (R489): 100 ms after the hold's end the conditions of R487 are still not met. -/
def execRejoinAttemptTimeout (t : Nat) (s : State) : Host.Outcome State Fault Refusal :=
  let d := s.dieTimer t
  if s.hasDie t && s.fget (Reg.RST_DIE_state t) == 2 && d.retryAt.isNone && d.holdEnd != 0
      && decide (d.holdEnd + 100000000 ≤ s.now) then .next (s.failAttempt t)
  else .next s

/-- REJOIN_RETRY (R489): retry_ms after a failed attempt the next begins, or the rejoin is given up. -/
def execRejoinRetry (t : Nat) (s : State) : Host.Outcome State Fault Refusal :=
  match (s.dieTimer t).retryAt with
  | none => .next s
  | some r =>
    if s.now < r then .next s
    else if max 1 (s.fget Reg.RST_DIE_CTRL_rejoin_max) ≤ s.fget (Reg.RST_DIE_attempts t) then
      .next (((s.raise 0x0684 oHub uNone 0).fset (Reg.RST_DIE_state t) 7).setDieTimer t {})
    else .next (s.beginAttempt t)

/-- DIE_INJECTION_DONE (R464, R487, R353): Phobos has injected the mechanisms of a rejoining die; `failed` names those that did
not pass. When all passed the die runs again: state 01, unfence notices, 0x0683. -/
def execDieInjectionDone (t : Nat) (failed : List Nat) (s : State) : Host.Outcome State Fault Refusal :=
  if !s.hasDie t || s.fget (Reg.RST_DIE_state t) != 6 then .next s
  else if !failed.isEmpty then
    .next ((failed.foldl (fun s m => if m < 38 then s.recordInjection m false else s) s).failAttempt t)
  else
    let s1 := (s.fset (Reg.PKG_DIE_STATE_die t) 1).fset ⟨Reg.LNK_FENCE, t, t⟩ 0
    let s2 := (s1.fset (Reg.RST_DIE_state t) 0).count (Reg.RST_DIE_rejoins t) 1
    let s3 := { s2.dieNotice 1 t with
      plan := { s2.plan with lostDies := without t s2.plan.lostDies }
      tim := { s2.tim with beaconAt := smPut 0 s2.tim.beaconAt t s2.now } }
    .next ((s3.setDieTimer t {}).raise 0x0683 oHub uNone 0).showDue

/-- A hub domain's state. -/
def State.hubDom (s : State) (d : Nat) : Nat := s.fget (Reg.PWR_HUB_DOM_dom d)

/-- The domains' keys in the record of wakes: die domains t × 32 + d, hub domains 256 + d. -/
def State.wakeOf (s : State) (t d : Nat) : Wake := smGet {} s.pow.wakes (engKey t d)

def State.endWake (s : State) (t d : Nat) : State :=
  { s with pow := { s.pow with wakes := smPut {} s.pow.wakes (engKey t d) {}, lateSeen := without (engKey t d) s.pow.lateSeen } }

/-- A hub domain begins its wake. -/
def State.startHubWake (s : State) (d : Nat) : State :=
  let v := s.hubDom d
  if v == 2 || v == 3 then s
  else
    let s1 := s.fset (Reg.PWR_HUB_DOM_dom d) 3
    { s1 with pow := { s1.pow with
        wakes := smPut {} s1.pow.wakes (256 + d) { since := s1.now, fromOff := v == 0, running := true } } }

/-- DOMAIN_WAKE_START (R185, R493): a RET engine begins its wake 12 µs before its next release or beacon slot. -/
def execDomainWakeStart (t e : Nat) (s : State) : Host.Outcome State Fault Refusal :=
  match s.logicalOf t e with
  | none => .next s
  | some i =>
    if s.dieUp t && e < 18 && s.dom t e == 1 && s.pow.phase == .running && decide (s.nextUse t i ≤ s.now + 12000) then
      .next (s.startWake t e)
    else .next s

/-- The die domain that the token wave reaches next (R482). -/
def State.waveAt (s : State) (t : Nat) : Option Nat := [20, 19, 21, 18].find? fun d => s.dom t d != 2

/-- DOMAIN_WAKE_DONE (R49, R492, R482, R494, R558): a domain reaches ON; t = 8 names the hub. The die domains come in the order of the token
wave. A mapped engine woken from OFF has its entry lists copied; a beacon slot that has waited for the domain begins. -/
def execDomainWakeDone (t d : Nat) (s : State) : Host.Outcome State Fault Refusal :=
  let w := s.wakeOf t d
  if !w.running || (t < 8 && 18 ≤ d && s.waveAt t != some d) then .next s
  else if t < 8 && 18 ≤ d then
    let s1 := (s.endWake t d).setDom t d 2
    .next (if (s1.waveAt t).isNone then s1.waveDone t else s1)
  else if t == 8 then .next ((s.endWake t d).fset (Reg.PWR_HUB_DOM_dom d) 2)
  else
    let late := s.pow.lateSeen.contains (engKey t d)
    let s1 := (s.endWake t d).setDom t d 2
    match s1.logicalOf t d with
    | none => .next (if s1.chk.selfPend.contains t && s1.auditEng? t == some d then s1.startBeacon t d else s1)
    | some i =>
      let s2 := if d < 18 && w.fromOff then s1.beginCopy t d else s1
      if d < 18 && late && s2.engState t d == 1 && decide (s2.slotAt i ≤ s2.now ∧ s2.now < s2.slotAt i + 32000) then
        .next (s2.startBeacon t d)
      else .next s2

/-- A die domain has not come ON (R495): 0x3704 and the fence of its die; one that is rejoining fails its attempt. -/
def State.dieDomFail (s : State) (t d : Nat) : State :=
  let s1 := (s.endWake t d).raise 0x3704 t uNone d
  if s1.fget (Reg.RST_DIE_state t) == 3 then s1.failAttempt t else s1.fenceDie t

/-- DOMAIN_WAKE_FAILED (R495, R502): a domain is not ON within twice its limit of Table 17.6, a die domain within twice the 5 µs of its token
wave (log entry 104). -/
def execDomainWakeFailed (t d : Nat) (s : State) : Host.Outcome State Fault Refusal :=
  let w := s.wakeOf t d
  let limit := if !w.fromOff then 20000 else if t == 8 then 40000 else if d < 18 then 36000 else 10000
  if !w.running || decide (s.now < w.since + limit) then .next s
  else if t == 8 then .next ((s.endWake t d).raise 0x4705 oHub uNone 0)
  else if d < 18 then
    let s1 := (((s.endWake t d).raise 0x2703 t d d).setDom t d 0).retire t d
    .next (s1.remap t d)
  else .next (s.dieDomFail t d)

/-- STANDBY_REQUEST (R497): PWR_STBY is written by a control core or by the host; 1 requests standby at the next plan-period
boundary. -/
def execStandbyRequest (v : Nat) (s : State) : Host.Outcome State Fault Refusal :=
  if s.pow.phase == .running then .next (s.fset Reg.PWR_STBY_enter v) else .next s

/-- Standby is entered (R497); the servo goes to HOLDOVER as Table 9.1 has it, from LOCKING or LOCKED. -/
def State.enterStandby (s : State) : State :=
  let s1 := (s.allRuns.filter (·.live)).foldl (fun s r => s.abort r) s
  let s2 := { s1 with
    pins := { s1.pins with phobosLow := true, deimosLow := true }
    pow := { s1.pow with phase := .standby, wdKick := none } }
  let s3 := s2.dies.foldl (fun s t => (List.range 22).foldl (fun s d => s.setDom t d (if d == 19 then 1 else 0)) s) s2
  let s4 := (List.range 24).foldl (fun s d =>
    s.fset (Reg.PWR_HUB_DOM_dom d) (if d == 0 || d == 1 then 2 else if d == 7 then 1 else 0)) s3
  let s5 := (s4.fset Reg.PWR_STBY_in_standby 1).fset Reg.PWR_STBY_enter 0
  let dt := s5.fget Reg.ING_DT_STATUS_state
  let s6 := if dt == 1 || dt == 2 then (s5.fset Reg.ING_DT_STATUS_state 3).raise 0x02C2 oHub uNone 0 else s5
  s6.raise 0x0701 oHub uNone 0

end Sys2Proof.Machine
end

