-- ==== Sys2Proof/Machine/Link.lean ====
section
/-! DEFINITION. Die links (R341–R357): flits and replay, retraining, lanes, fencing, training and the admission of a partner. -/

namespace Sys2Proof.Machine

/-- Is there such a module (R16, R18)? -/
def State.hasMod (s : State) (m : Nat) : Bool :=
  if m < 8 then s.hasDie m
  else if m == 8 then s.part.partner
  else 16 ≤ m && s.hasDie ((m - 16) / 4) && m % 4 != 3

/-- The die, 8 for the hub or 15 for the partner, that a module faces. -/
def State.faces (s : State) (m : Nat) : Nat :=
  let n := s.part.tzCount
  let t := (m - 16) / 4
  if m < 8 then m else if m == 8 then 15
  else if m % 4 == 0 then 8 else if m % 4 == 1 then (t + 1) % n else (t + n - 1) % n

/-- The module at the other end of a die-to-die or hub-to-die link. -/
def State.farEnd (s : State) (m : Nat) : Nat :=
  let n := s.part.tzCount
  let t := (m - 16) / 4
  if m < 8 then 16 + 4 * m else if m % 4 == 0 then t
  else if m % 4 == 1 then 16 + 4 * ((t + 1) % n) + 2 else 16 + 4 * ((t + n - 1) % n) + 1

/-- The link module over which a transfer leaves die `a` (8 the hub) for die `b` (8 the hub side, 9 the partner), by its address (R17, R19–R21): on
OVN-2 the two ring links share by the parity of the block address, even blocks by the east module (DESIGN CHOICE, log entry 91), and traffic of a
ring link fenced, or not yet routed over (R353), takes the other, or the spoke. -/
def State.outMod (s : State) (a b addr : Nat) : Nat :=
  let n := s.part.tzCount
  let east := 17 + 4 * a
  let west := 18 + 4 * a
  let up (m : Nat) : Bool := s.modState m != 5 && !s.lnk.barred.contains m
  if a == 8 then (if b == 9 then 8 else b)
  else if 8 ≤ b then 16 + 4 * a
  else
    let want := if n == 2 then (if addr / 256 % 2 == 0 then [east, west] else [west, east])
      else if b == (a + 1) % n then [east] else if b == (a + n - 1) % n then [west] else []
    (want.find? up).getD (16 + 4 * a)

/-- The modules that send a transfer on its way from `a` to `b`: one of its die, and the hub's where it crosses the hub. -/
def State.route (s : State) (a b addr : Nat) : List Nat :=
  if a == 9 then (if b == 8 then [] else [b])
  else
    let m := s.outMod a b addr
    if a != 8 && m == 16 + 4 * a && b != 8 then [m, if b == 9 then 8 else b] else [m]

/-- Is a transfer held because a module of its way is in RETRAIN (R346)? -/
def State.stalled (s : State) (a b addr : Nat) : Bool :=
  (a == 9 && s.modState 8 == 4) || (s.route a b addr).any fun m => s.modState m == 4 || (m != 8 && s.modState (s.farEnd m) == 4)

/-- A message is to be sent by every module of its way. -/
def State.queueRoute (s : State) (a b addr : Nat) (bytes : List Byte) : State := (s.route a b addr).foldl (fun s m => s.queueMsg m bytes) s

/-- An event of a link module. -/
def State.modEvent (s : State) (code m : Nat) : State :=
  s.raise code (if m < 16 then oHub else (m - 16) / 4) uNone (detLink (modReg m).2 (s.faces m))

/-- A counter of a link module. -/
def State.modCount (s : State) (f : Win → Nat → Fld) (m n : Nat) : State := s.count (f (modReg m).1 (modReg m).2) n

/-! ### Fencing -/

/-- The partner link is lost (R357): DOWN, its outstanding requests end with kind 2, what it asked is dropped, 0x044C. -/
def State.partnerDown (s : State) (st : Nat) : State :=
  let gone := s.lnk.reqs.filter fun r => r.dest == 9
  let pt := { s.lnk.partner with step := 0, queue := [], retryAt := some (s.now + 100000000) }
  let s1 := { s with lnk := { s.lnk with reqs := s.lnk.reqs.filter (fun r => r.dest != 9), partner := pt } }
  let s2 := (s1.fset Reg.LNK_PARTNER_STATUS_state 4).setMod 8 st
  let s3 := s2.raise 0x044C oHub uNone (detLink 8 15)
  (gone.filter fun r => !r.late && !r.gone).foldl (fun s r => s.endRequest r.req 2) s3

/-- The die whose east module a ring module's link starts at. -/
def State.ringOf (s : State) (m : Nat) : Nat :=
  let t := (m - 16) / 4
  if m % 4 == 1 then t else (t + s.part.tzCount - 1) % s.part.tzCount

/-- A ring link between two running dies is fenced (R350). -/
def State.fenceRing (s : State) (m : Nat) : State :=
  let l := s.ringOf m
  let s1 := s.setMod m 5
  if !s.dieUp (s.faces m) || !s.dieUp ((m - 16) / 4) || bit (s.fget Reg.LNK_FENCE_ring) l then s1
  else
    let s2 := (s1.setMod (s.farEnd m) 5).fset Reg.LNK_FENCE_ring (setBit (s.fget Reg.LNK_FENCE_ring) l true)
    let s3 := { s2 with lnk := { s2.lnk with ringTry := smPut 0 s2.lnk.ringTry l s2.now } }
    s3.modEvent 0x1445 m

/-- The die of a spoke module is fenced; one that is rejoining fails its attempt (R350, R489). -/
def State.fenceSpoke (s : State) (t : Nat) : State :=
  if s.fget (Reg.RST_DIE_state t) == 4 || s.fget (Reg.RST_DIE_state t) == 5 || s.fget (Reg.RST_DIE_state t) == 6 then s.failAttempt t
  else s.fenceDie t

/-- A module is fenced (R349, R350). -/
def State.fenceMod (s : State) (m : Nat) : State :=
  if m < 8 then s.fenceSpoke m
  else if m == 8 then s.partnerDown 5
  else if m % 4 == 0 then (s.setMod m 5).fenceSpoke ((m - 16) / 4)
  else s.fenceRing m

/-- LINK_SILENCE (R349): no flit of a module that carries traffic has passed its CRC for 256 ns. -/
def execLinkSilence (m : Nat) (s : State) : Host.Outcome State Fault Refusal :=
  if s.hasMod m && (s.modState m == 2 || s.modState m == 3) && decide ((s.lmod m).goodAt + 256 ≤ s.now) then .next (s.fenceMod m)
  else .next s

/-- FENCE_NOTICE (R350): the hub's notice reaches a ring neighbour `t` of a fenced die, which fences its modules facing it. -/
def execFenceNotice (t die : Nat) (s : State) : Host.Outcome State Fault Refusal :=
  if s.dieUp t && s.hasDie die && s.dieState die == 2 then
    .next (([17 + 4 * t, 18 + 4 * t].filter fun m => s.faces m == die).foldl (fun s m => s.setMod m 5) s)
  else .next s

/-- UNFENCE_NOTICE (R353): neighbour `t` routes to a rejoined die directly again, over the ring links that trained. -/
def execUnfenceNotice (t die : Nat) (s : State) : Host.Outcome State Fault Refusal :=
  if s.dieUp t && s.dieUp die then
    let ms := [17 + 4 * t, 18 + 4 * t].filter fun m => s.faces m == die
    .next { s with lnk := { s.lnk with barred := s.lnk.barred.filter fun m => !ms.contains m } }
  else .next s

/-! ### Flits, replay and retraining -/

/-- Length of a flit-clock cycle of a module, ns (Table 12.1). -/
def flitNs (m : Nat) : Nat := if m == 8 then 8 else 1

/-- A module leaves for RETRAIN (R345), and with it the module at the other end. -/
def State.retrain (s : State) (m : Nat) : State :=
  let one (s : State) (m : Nat) : State := (s.setLmod m { s.lmod m with fails := 0, replays := [] }).setMod m 4
  let s1 := one s m
  let f := s.farEnd m
  if m != 8 && (s1.modState f == 2 || s1.modState f == 3) then one s1 f else s1

/-- A flit fails its CRC (R344): it is discarded, nak is set, 0x1441. One that fails outside a discard is taken to be the flit awaited, whose fourth
failure starts a retrain. -/
def State.flitFails (s : State) (m : Nat) : State :=
  let x := s.lmod m
  let n := x.fails + b2n (!x.discard)
  let s1 := (s.modEvent 0x1441 m).modCount Reg.LNK_CNT_CRC_count m 1
  let s2 := (s1.setLmod m { x with fails := n, discard := true, lost := x.lost + 1, nak := true }).setMod m 3
  if 4 ≤ n then s2.retrain m else s2

/-- The replay marker ends the discarding; more than 100 flits replayed within 10,000 cycles start a retrain. -/
def State.replayMarker (s : State) (m : Nat) : State :=
  let x := s.lmod m
  if !x.discard then s
  else
    let rs := ((s.now, x.lost) :: x.replays).filter fun r => s.now < r.1 + 10000 * flitNs m
    let s1 := (s.setLmod m { x with discard := false, lost := 0, nak := false, replays := rs }).setMod m 2
    if 100 < sumBy Prod.snd rs then s1.retrain m else s1

/-- A flit that passes its CRC (R342, R344): its ack and nak are heard; slots in sequence are taken, and one whose `first` does not say where a message
begins shows that slot alignment is lost (R345). An idle flit that carries the number awaited says that no flit of slots has failed. -/
def State.flitGood (s : State) (m w : Nat) (slots : List Byte) : State :=
  let x := (s.lmod m).heard w s.now
  let s1 := s.setLmod m x
  match bits w 27 26 with
  | 2 => s1.replayMarker m
  | 1 =>
    if x.discard then s1.setLmod m { x with lost := x.lost + 1 }
    else if bits w 11 0 == x.next then
      let a := s.takeSlots x slots
      if a.first != bits w 31 28 then s1.retrain m
      else s1.setLmod m { x with
        next := (x.next + 1) % 4096, fails := 0, ack := some x.next, slots := slots, msgs := a.msgs, part := a.part, left := a.left }
    else s1
  | 0 => if !x.discard && bits w 11 0 == x.next then s1.setLmod m { x with fails := 0 } else s1
  | _ => s1

/-- FLIT_RECEIVE (R341, R342, R344, R345): in a flit-clock cycle a flit of 256 bytes arrives at module `m`, which sends one of its own; `aligned`: the
receiver has slot alignment. -/
def execFlitReceive (m : Nat) (flit : List Byte) (aligned : Bool) (s : State) : Host.Outcome State Fault Refusal :=
  if !s.hasMod m || !(s.modState m == 2 || s.modState m == 3) || flit.length != 256 then .next s
  else if !aligned then .next (s.retrain m)
  else if crc64 (flit.take 248) != u flit 248 8 then .next ((s.flitFails m).transmit m)
  else .next ((s.flitGood m (u flit 0 8) (sliceB flit 8 240)).transmit m)

/-- Redundant lanes taken into use, shown in LNK_MOD_m (R347). -/
def State.noteLanes (s : State) (m tx rx : Nat) : State :=
  let f := modReg m
  (s.fset (Reg.LNK_MOD_tx_repaired f.1 f.2) (min 4 (s.fget (Reg.LNK_MOD_tx_repaired f.1 f.2) + tx))).fset
    (Reg.LNK_MOD_rx_repaired f.1 f.2) (min 4 (s.fget (Reg.LNK_MOD_rx_repaired f.1 f.2) + rx))

/-- Lanes replaced by redundant ones are recorded, each with 0x1443 (R347). -/
def State.repairLanes (s : State) (m tx rx : Nat) : State :=
  ((List.range (tx + rx)).foldl (fun s _ => s.modEvent 0x1443 m) (s.modCount Reg.LNK_CNT_LANE_count m (tx + rx))).noteLanes m tx rx

/-- Receive lanes of a module replaced: they are transmit lanes of the module at the other end (R347). -/
def State.repairRx (s : State) (m n : Nat) : State :=
  let s1 := s.repairLanes m 0 n
  if m == 8 then s1 else s1.noteLanes (s.farEnd m) n 0

/-- RETRAIN_DONE (R345, R347, R349): a retrain ends; `lanes` receive lanes were newly replaced, `lat` is the latency echo's result. What the far end
has not acknowledged is sent again. -/
def execRetrainDone (m : Nat) (ok : Bool) (lanes lat : Nat) (s : State) : Host.Outcome State Fault Refusal :=
  if !s.hasMod m || s.modState m != 4 then .next s
  else
    let s1 := s.modCount Reg.LNK_CNT_RETRAIN_count m 1
    let f := modReg m
    if ok && s.fget (Reg.LNK_MOD_rx_repaired f.1 f.2) + lanes ≤ 4 && !(m == 8 && lanes != 0) then
      let s2 := (s1.repairRx m lanes).fset (Reg.LNK_MOD_latency_ns f.1 f.2) (lat % 65536)
      let x := s2.lmod m
      let s3 := s2.setLmod m { x with
        discard := false, lost := 0, nak := false, goodAt := s2.now, marker := true, redo := x.after x.peerAck, redoAt := none }
      .next ((s3.setMod m 2).modEvent 0x1442 m)
    else .next (s1.fenceMod m)

/-- LATENCY_ECHO (R353): a latency echo measures a link's one-way latency, ns. -/
def execLatencyEcho (m lat : Nat) (s : State) : Host.Outcome State Fault Refusal :=
  if s.hasMod m && (s.modState m == 1 || s.modState m == 2) then
    .next (s.fset (Reg.LNK_MOD_latency_ns (modReg m).1 (modReg m).2) (lat % 65536))
  else .next s

/-! ### Lanes -/

/-- A lane's data sampler moves one step towards the eye's centre when it is two or more steps from it (R348). -/
def recentre (x c : Int) : Int := if x + 2 ≤ c then x + 1 else if c + 2 ≤ x then x - 1 else x

/-- EYE_SWEEP (R348): each 1 ms the shadow samplers give each lane's eye centre and the module's lowest margin, 1/64 UI. A low margin is
reported once an hour, and a lane copy begins where a redundant lane is free. -/
def execEyeSweep (m : Nat) (centres : List Int) (margin : Nat) (s : State) : Host.Outcome State Fault Refusal :=
  let x := s.lmod m
  if !s.hasMod m || s.modState m != 2 || decide (s.now < x.sweepAt + 1000000) then .next s
  else
    let f := modReg m
    let sam := (List.range centres.length).map fun i => recentre (nth 0 x.samplers i) (nth 0 centres i)
    let s1 := (s.setLmod m { x with sweepAt := s.now, samplers := sam }).fset (Reg.LNK_MOD_eye_min f.1 f.2) (min 63 margin)
    if s1.fget Reg.LNK_CTRL_eye_warn ≤ min 63 margin then .next s1
    else
      let quiet := match x.eyeAt with | some t => decide (s.now < t + 3600 * 10 ^ 9) | none => false
      let s2 := if quiet then s1 else (s1.setLmod m { s1.lmod m with eyeAt := some s1.now }).modEvent 0x0444 m
      let free := m != 8 && decide (s2.fget (Reg.LNK_MOD_rx_repaired f.1 f.2) < 4)
      .next (if free then s2.setLmod m { s2.lmod m with copying := true } else s2)

/-- LANE_SWAP_DONE (R348): the copy of 1,024 flits has been compared with the original. -/
def execLaneSwapDone (m : Nat) (same : Bool) (s : State) : Host.Outcome State Fault Refusal :=
  if s.hasMod m && (s.lmod m).copying then
    let s1 := s.setLmod m { s.lmod m with copying := false }
    .next (if same && s.modState m == 2 then s1.repairRx m 1 else s1)
  else .next s

/-! ### Training -/

/-- RING_RETRAIN (R352): 1 s after the last attempt a fenced ring link between running dies, named by the die of its east module, is
retrained. On success it returns at the next plan-period boundary. -/
def execRingRetrain (t : Nat) (o : RingObs) (s : State) : Host.Outcome State Fault Refusal :=
  let m := 17 + 4 * t
  let f := s.farEnd m
  let rx (m : Nat) : Nat := s.fget (Reg.LNK_MOD_rx_repaired (modReg m).1 (modReg m).2)
  let good := o.ok && decide (rx m + o.east ≤ 4) && decide (rx f + o.west ≤ 4)
  if s.dieUp t && s.dieUp (s.faces m) && bit (s.fget Reg.LNK_FENCE_ring) t && !s.lnk.ringBack.contains t
      && decide (smGet 0 s.lnk.ringTry t + 10 ^ 9 ≤ s.now) then
    let s1 := { s with lnk := { s.lnk with ringTry := smPut 0 s.lnk.ringTry t s.now,
                                           ringBack := if good then s.lnk.ringBack ++ [t] else s.lnk.ringBack } }
    let s2 := s1.modCount Reg.LNK_CNT_RETRAIN_count m 1
    .next (if good then [m, f].foldl (fun s m => s.fset (Reg.LNK_MOD_latency_ns (modReg m).1 (modReg m).2) (o.lat % 65536))
        ((s2.repairRx m o.east).repairRx f o.west)
      else s2)
  else .next s

/-- Ring links whose retrain succeeded return to service at a plan-period boundary (R352). -/
def State.ringsReturn (s : State) : State :=
  let s1 := s.lnk.ringBack.foldl (fun s t =>
    let m := 17 + 4 * t
    if s.dieUp t && s.dieUp (s.faces m) then
      let s2 := ((s.setMod m 2).setMod (s.farEnd m) 2).fset Reg.LNK_FENCE_ring (setBit (s.fget Reg.LNK_FENCE_ring) t false)
      let s3 := (s2.setLmod m { goodAt := s2.now }).setLmod (s2.farEnd m) { goodAt := s2.now }
      s3.modEvent 0x0448 m
    else s) s
  { s1 with lnk := { s1.lnk with ringBack := [] } }

/-- Both ends of a spoke have trained. -/
def State.spokeActive (s : State) (t : Nat) : State :=
  (((s.setMod t 2).setMod (16 + 4 * t) 2).setLmod t { goodAt := s.now }).setLmod (16 + 4 * t) { goodAt := s.now }

/-- A module of a rejoining die has trained, or failed (R353). A spoke that fails fails the attempt (R489). -/
def State.dieTrained (s : State) (m : Nat) (ok : Bool) : State :=
  let t := if m < 8 then m else (m - 16) / 4
  let k := if m < 8 then 0 else m % 4
  let d := s.dieTimer t
  if k == 0 && !ok then s.failAttempt t
  else if k != 0 && !bit d.trained 0 then s
  else
    let s1 := if k == 0 then s.spokeActive t
      else if ok then
        let s0 := ((s.setMod m 2).setLmod m { goodAt := s.now }).fset Reg.LNK_FENCE_ring (setBit (s.fget Reg.LNK_FENCE_ring) (s.ringOf m) false)
        let f := s.farEnd m
        if s.dieUp (s.faces m) then
          let s9 := (s0.setMod f 2).setLmod f { goodAt := s.now }
          { s9 with lnk := { s9.lnk with barred := without f s9.lnk.barred ++ [f] } }
        else s0
      else
        let l := s.ringOf m
        let s0 := (s.setMod m 5).fset Reg.LNK_FENCE_ring (setBit (s.fget Reg.LNK_FENCE_ring) l true)
        s0.modEvent 0x1445 m
    let done := d.trained ||| 2 ^ k
    let s2 := s1.setDieTimer t { d with trained := done }
    if done == 7 then ((s2.fset (Reg.PKG_DIE_STATE_die t) 3).fset (Reg.RST_DIE_state t) 5).ufsTurn else s2

/-- A module has trained at boot, or failed: a spoke that fails leaves its die fenced from the start (R354), a ring link stays fenced. -/
def State.bootTrained (s : State) (m : Nat) (ok : Bool) : State :=
  let t := if m < 8 then m else (m - 16) / 4
  if m < 8 || m % 4 == 0 then
    if ok then s.spokeActive t else s.fenceDie t
  else if ok then (s.setMod m 2).setLmod m { goodAt := s.now }
  else
    let s1 := (s.setMod m 5).fset Reg.LNK_FENCE_ring (setBit (s.fget Reg.LNK_FENCE_ring) (s.ringOf m) true)
    { s1 with lnk := { s1.lnk with ringTry := smPut 0 s1.lnk.ringTry (s1.ringOf m) s1.now } }.modEvent 0x1445 m

/-- The partner is admitted (Table 12.6 step 5). -/
def State.admitPartner (s : State) : State :=
  let w := s.lnk.partner.offer
  let credits := if bit w 44 then min 32 (max 1 (s.fget Reg.LNK_CTRL_partner_credits)) else 0
  let s1 := (s.fset Reg.LNK_PARTNER_STATUS_max_out (bits w 15 8)).fset Reg.LNK_PARTNER_STATUS_win_mib (bits w 31 16)
  let s2 := (s1.fset Reg.LNK_PARTNER_STATUS_credits credits).fset Reg.LNK_PARTNER_STATUS_lat_ns (bits w 43 32)
  let s3 := ((s2.fset Reg.LNK_PARTNER_STATUS_state 3).setMod 8 2).setLmod 8 { goodAt := s2.now }
  { s3 with lnk := { s3.lnk with partner := { s3.lnk.partner with step := 0 } } }.raise 0x044D oHub uNone (detLink 8 15)

/-- Lanes replaced in the training of a module; of a spoke, whose two ends train as one, at both ends. -/
def State.trainedLanes (s : State) (m tx rx : Nat) : State :=
  let s1 := s.repairLanes m tx rx
  if m < 8 || m % 4 == 0 then (s1.modCount Reg.LNK_CNT_LANE_count (s.farEnd m) (tx + rx)).noteLanes (s.farEnd m) rx tx else s1

/-- LINK_TRAINING_DONE (R341, R347, R353–R355): training of module `m` ends, at boot, of a rejoining die or of the partner link, whose sideband
initialisation ends first; `tx` and `rx` lanes were replaced. More than 4 failed lanes in a direction fail it. -/
def execLinkTrainingDone (m : Nat) (ok : Bool) (tx rx : Nat) (s : State) : Host.Outcome State Fault Refusal :=
  let good := ok && tx ≤ 4 && rx ≤ 4
  if !s.hasMod m then .next s
  else if m == 8 then
    if s.lnk.partner.step == 1 then
      let pt := { s.lnk.partner with step := 2, since := s.now }
      .next (if ok then { s with lnk := { s.lnk with partner := pt } }.fset Reg.LNK_PARTNER_STATUS_state 2 else s.partnerDown 0)
    else if s.fget Reg.LNK_PARTNER_STATUS_state == 2 && s.lnk.partner.step == 4 then
      .next (if good && tx + rx == 0 then s.admitPartner else s.partnerDown 0)
    else .next s
  else if s.modState m == 1 && s.fget (Reg.RST_DIE_state (if m < 8 then m else (m - 16) / 4)) == 4 then
    .next ((if good then s.trainedLanes m tx rx else s).dieTrained m good)
  else if s.modState m == 1 && s.pow.phase == .booting && s.dieUp (if m < 8 then m else (m - 16) / 4) then
    .next ((if good then s.trainedLanes m tx rx else s).bootTrained m good)
  else .next s

/-! ### The partner -/

/-- Partner admission begins at its first step (R355), unless the link failed its injection. -/
def State.startPartner (s : State) : State :=
  if !s.part.partner || !s.flag Reg.LNK_CTRL_partner_en || s.saf.partnerOff then s
  else
    let pt := { s.lnk.partner with step := 1, since := s.now, retryAt := none }
    ({ s with lnk := { s.lnk with partner := pt } }.fset Reg.LNK_PARTNER_STATUS_state 1).setMod 8 1

/-- Is an offer within its ranges (R356, Table 12.7)? -/
def offerOk (w : Nat) : Bool :=
  bits w 7 0 == 1 && bits w 15 8 != 0 && decide (1 ≤ bits w 31 16 ∧ bits w 31 16 ≤ 4096) && decide (bits w 43 32 ≤ 1500) && bits w 63 45 == 0

/-- PARAM_OFFER (R355, R356): the partner's offer is checked and answered. -/
def execParamOffer (word : Nat) (s : State) : Host.Outcome State Fault Refusal :=
  let w := word % 2 ^ 64
  if s.lnk.partner.step != 2 then .next s
  else if offerOk w then
    let credits := if bit w 44 then min 32 (max 1 (s.fget Reg.LNK_CTRL_partner_credits)) else 0
    let g := 1 + credits * 2 ^ 8 + bits w 31 16 * 2 ^ 16 + 2 ^ 32
    let pt := { s.lnk.partner with step := 4, since := s.now, offer := w }
    .next { s with out := s.out ++ [Msg.grant g], lnk := { s.lnk with partner := pt } }
  else .next ({ s with out := s.out ++ [Msg.grant 1] }.partnerDown 0)

/-- PARTNER_STEP_TIMEOUT (R355): the step in progress has taken 10 ms. -/
def execPartnerStepTimeout (s : State) : Host.Outcome State Fault Refusal :=
  if s.lnk.partner.step != 0 && decide (s.lnk.partner.since + 10000000 ≤ s.now) then .next (s.partnerDown 0) else .next s

/-- PARTNER_RETRY (R357): 100 ms after the partner went DOWN admission begins again. -/
def execPartnerRetry (s : State) : Host.Outcome State Fault Refusal :=
  match s.lnk.partner.retryAt with
  | some t =>
    if s.fget Reg.LNK_PARTNER_STATUS_state == 4 && s.flag Reg.LNK_CTRL_auto_retry && decide (t ≤ s.now) then .next s.startPartner
    else .next s
  | none => .next s

end Sys2Proof.Machine
end

