-- ==== Sys2Proof/Machine/MemCtl.lean ====
section
/-! DEFINITION. The memory controllers beside the accesses they serve (R202, R206, R209, R213, R215): refresh, scrub, row misses, WCK2DQ,
MR4 and eye margins. Die 8 is the bulk tier. -/

namespace Sys2Proof.Machine

/-- Key of channel `c` of die `die`. -/
def chanKey (die c : Nat) : Nat := die * 8 + c

/-- Is there such a channel, trained and in service (Table 7.10)? -/
def State.chanUp (s : State) (die c : Nat) : Bool :=
  ((decide (die < 8) && s.dieUp die && decide (c < 8)) || (die == 8 && decide (c < 4)))
    && bit (s.fget (Reg.MEM_STATUS_ch_trained (memWin die))) c && !s.chanFailed die c

/-- Rows per bank of a channel (R206, R210). -/
def PartCfg.rows (p : PartCfg) (die : Nat) : Nat :=
  if die == 8 then p.bulkGib * 2 ^ 13 else if bit p.near32 die then 131072 else 65536

/-- Data blocks of a channel (R207). -/
def PartCfg.dataBlocks (p : PartCfg) (die : Nat) : Nat := 128 * (63 * p.rows die / 64)

/-- The package address of data block `g` of a channel, where a region of the plan in force or the bulk window gives it one (R205, R210). -/
def State.chanAddr (s : State) (die c g : Nat) : Option Addr :=
  if die == 8 then some (0x004000000000 + (g * 4 + (c ^^^ (kh (s.key 16) g % 4))) * 256)
  else
    let rec? : Option (PartRec × DieRec) := s.planRec.bind fun r => r.plan.parts.findSome? fun x => match x.on die with
      | some d => if bit d.chanMask c then some (x, d) else none
      | none => none
    rec?.bind fun (_, d) =>
      let owned := setBits 8 d.chanMask
      let k := max 1 owned.length
      let b := g * k + (owned.idxOf c + k - kh (s.key die) g % k) % k
      if b * 256 < d.nearSize * 2 ^ 20 then some (die * 0x000800000000 + d.nearBase * 2 ^ 20 + b * 256) else none

/-- A channel fails (R215): 0x3208, or 0x4209 of the bulk tier. -/
def State.failChannel (s : State) (die c : Nat) : State :=
  let w := memWin die
  let s1 := s.fset (Reg.MEM_STATUS_ch_failed w) (setBit (s.fget (Reg.MEM_STATUS_ch_failed w)) c true)
  let s2 := s1.fset (Reg.MEM_STATUS_ch_trained w) (setBit (s1.fget (Reg.MEM_STATUS_ch_trained w)) c false)
  s2.raise (if die == 8 then 0x4209 else 0x3208) die uNone (detChan c (die == 8))

/-- REFRESH (R221): a refresh of a channel falls due and is served ahead of every request. -/
def execRefresh (die c : Nat) (s : State) : Host.Outcome State Fault Refusal :=
  if s.chanUp die c then .next { s with mem := { s.mem with refreshAt := smPut 0 s.mem.refreshAt (chanKey die c) s.now } }
  else .next s

/-- When the scrubber may read the next block of a channel: a pass over its data blocks is spread over scrub_hours, 0 taken as 1 (R213, Table
7.9, log entry 48). -/
def State.scrubDue (s : State) (die c : Nat) : Time :=
  let n := max 1 (s.part.dataBlocks die)
  let g := smGet 0 s.mem.scrub (chanKey die c)
  let pass := max 1 (s.fget (Reg.MEM_CTRL_scrub_hours (memWin die))) * 3600 * 10 ^ 9
  match smGet none s.mem.scrubFrom (chanKey die c) with
  | none => 0
  | some f => f + (if g == 0 then pass else g * pass / n)

/-- PATROL_SCRUB (R213): the next data block of a channel is read against its check value; nothing is written. -/
def execPatrolScrub (die c ecc : Nat) (s : State) : Host.Outcome State Fault Refusal :=
  let g := smGet 0 s.mem.scrub (chanKey die c)
  if !s.chanUp die c || !s.flag (Reg.MEM_CTRL_scrub_en (memWin die)) || decide (s.now < s.scrubDue die c) then .next s
  else
    let key := s.key (if die == 8 then 16 else die)
    let next := (g + 1) % max 1 (s.part.dataBlocks die)
    let (n, s0) := s.draw
    let open_ := leNat ((List.range 6).map fun i => Config.hazyByte n i)
    let a := (s.chanAddr die c g).getD open_
    match s0.memRead (.dram die c (chanBlock key g)) a ecc none with
    | (s1, r) =>
      let s2 := { s1 with mem := { s1.mem with
        scrub := smPut 0 s1.mem.scrub (chanKey die c) next
        scrubFrom := if g == 0 then smPut none s1.mem.scrubFrom (chanKey die c) (some s1.now) else s1.mem.scrubFrom } }
      match r with
      | some (_, chk) => if chk == 0 then .next s2 else .next (s2.memEvent 0x0204 die c a 2)
      | none => .next s2

/-- ROW_MISS_WINDOW (R209): a channel's 1 s window ends. -/
def execRowMissWindow (die c : Nat) (s : State) : Host.Outcome State Fault Refusal :=
  let k := chanKey die c
  let w := memWin die
  if !s.chanUp die c || decide (s.now < smGet 0 s.mem.winFrom k + 10 ^ 9) then .next s
  else
    let acc := s.fget (Reg.MEM_CH_CNT_RD_blocks w c) + s.fget (Reg.MEM_CH_CNT_WR_blocks w c)
    let miss := s.fget (Reg.MEM_CH_CNT_MISS_count w c)
    let dm := miss - smGet 0 s.mem.winMiss k
    let da := acc - smGet 0 s.mem.winAcc k
    let missed := decide (min 1000 (s.fget (Reg.MEM_CTRL_miss_warn w)) * da < 1000 * dm)
    let last := smGet 0 s.mem.missAt k
    let mem := { s.mem with winFrom := smPut 0 s.mem.winFrom k s.now, winAcc := smPut 0 s.mem.winAcc k acc,
                            winMiss := smPut 0 s.mem.winMiss k miss }
    if missed && (last == 0 || decide (last + 3600 * 10 ^ 9 ≤ s.now)) then
      .next ({ s with mem := { mem with missAt := smPut 0 mem.missAt k s.now } }.raise 0x0205 die uNone (detChan c (die == 8)))
    else .next { s with mem := mem }

/-- WCK2DQ_CHECK (R202, R215): 100 ms after the last one; the delay moves by `steps`; `ok` says whether the retraining succeeded. A
second failure in succession fails the channel. -/
def execWck2dqCheck (die c : Nat) (steps : Int) (ok : Bool) (s : State) : Host.Outcome State Fault Refusal :=
  let k := chanKey die c
  if !s.chanUp die c || decide (s.now < smGet 0 s.mem.wckAt k + 10 ^ 8) then .next s
  else
    let n := if ok then 0 else smGet 0 s.mem.retrainFail k + 1
    let d := if ok then smGet 0 s.mem.wckDelay k + steps else smGet 0 s.mem.wckDelay k
    let s1 := { s with mem := { s.mem with wckAt := smPut 0 s.mem.wckAt k s.now, wckDelay := smPut 0 s.mem.wckDelay k d,
                                           retrainFail := smPut 0 s.mem.retrainFail k n } }
    .next (if 2 ≤ n then s1.failChannel die c else s1)

/-- MR4_POLL (R202): 16 ms after the last one the device's refresh multiplier is read and applied. -/
def execMr4Poll (die c mult : Nat) (s : State) : Host.Outcome State Fault Refusal :=
  let k := chanKey die c
  if !s.chanUp die c || decide (s.now < smGet 0 s.mem.mr4At k + 16000000) then .next s
  else
    .next ({ s with mem := { s.mem with mr4At := smPut 0 s.mem.mr4At k s.now } }.fset
      (Reg.MEM_CH_EYE_refresh_mult (memWin die) c) (mult % 16))

/-- EYE_MEASUREMENT (R202): once per hour the margins of a channel are measured, ps. -/
def execEyeMeasurement (die c rd wr : Nat) (s : State) : Host.Outcome State Fault Refusal :=
  let k := chanKey die c
  let due := match smGet none s.mem.eyeAt k with | some t => decide (t + 3600 * 10 ^ 9 ≤ s.now) | none => true
  if !s.chanUp die c || !due then .next s
  else
    let s1 := { s with mem := { s.mem with eyeAt := smPut none s.mem.eyeAt k (some s.now) } }
    .next ((s1.fset (Reg.MEM_CH_EYE_rd_margin (memWin die) c) (min 255 rd)).fset
      (Reg.MEM_CH_EYE_wr_margin (memWin die) c) (min 255 wr))

end Sys2Proof.Machine
end

