-- ==== Sys2Proof/Machine/Kv.lean ====
section
/-! DEFINITION. Sequence serving (chapter 8): metadata in near memory, the rings, batch forming, frames, housekeeping, the lists a
walker writes, commit and roll-back. Where dies of a partition could judge differently, the partition's walkers take the most
cautious count of any die (log entry 37). -/

namespace Sys2Proof.Machine

/-! ### Where things lie (R234, R235) -/

def KvRec.maxTokens (r : KvRec) : Nat := match r.buckets.getLast? with | some b => b.bound | none => 0

/-- Pages of a sequence of `n` tokens. -/
def pagesOf (n : Nat) : Nat := ceilDiv n 16

/-- Dies that share the pages of a sequence (layout 1). -/
def KvRec.spread (r : KvRec) : Nat := if r.layout == 0 then 1 else max 1 r.dies.length

def KvRec.ptStride (r : KvRec) : Nat := roundUp (8 * ceilDiv (pagesOf r.maxTokens) r.spread) 256
def KvRec.pageBytes (r : KvRec) : Nat := r.pageBlocks * 256
def KvRec.metaAt (_r : KvRec) (d : KvDie) : Nat := d.die * 0x000800000000 + d.metaBase * 2 ^ 20
def KvRec.seqAt (r : KvRec) (d : KvDie) (q : Nat) : Nat := r.metaAt d + 16 * q
def KvRec.ptAt (r : KvRec) (d : KvDie) (q i : Nat) : Nat :=
  r.metaAt d + roundUp (16 * r.maxSeqs) 256 + q * r.ptStride + 8 * i
def KvRec.nearAt (r : KvRec) (d : KvDie) (f : Nat) : Nat := r.ptAt d r.maxSeqs 0 + 8 * f
def KvRec.bulkAt (r : KvRec) (d : KvDie) (f : Nat) : Nat := r.nearAt d 0 + roundUp (8 * d.poolFrames) 256 + 8 * f
/-- Bytes of the metadata area. -/
def KvRec.metaSize (r : KvRec) (d : KvDie) : Nat := r.bulkAt d 0 + roundUp (8 * d.bulkFrames) 256 - r.metaAt d

/-- Address of frame `f` of the near pool (tier 0) or the bulk pool (tier 1). -/
def KvRec.frameAt (r : KvRec) (d : KvDie) (tier f : Nat) : Nat :=
  (if tier == 0 then d.die * 0x000800000000 + d.poolBase * 2 ^ 20 else 0x004000000000 + d.bulkBase * 2 ^ 20) + f * r.pageBytes

/-- A sequence table entry (Table 8.4). -/
structure SeqEnt where
  state : Nat
  len : Nat
  pending : Nat
  last : Nat
  tag : Nat

/-- A walker writes bytes; the walker of a die that is cut off writes nothing. -/
def State.walkerPut (s : State) (t a : Nat) (bs : List Byte) : State := if s.dieUp t then s.poke t 0x21 a bs else s

/-- A page table entry (Table 8.5). -/
structure Pte where
  valid : Bool
  tier : Nat
  frame : Nat

/-- A frame table entry (Table 8.6). -/
structure Fte where
  refs : Nat
  state : Nat
  moving : Bool
  last : Nat

def State.seqEnt (s : State) (r : KvRec) (d : KvDie) (q : Nat) : SeqEnt :=
  let b := s.peek d.die (r.seqAt d q) 16
  let w := u b 0 8
  { state := bits w 1 0, len := bits w 19 2, pending := bits w 37 20, last := u b 8 4, tag := u b 12 4 }

def State.putSeq (s : State) (r : KvRec) (d : KvDie) (q : Nat) (x : SeqEnt) : State :=
  s.walkerPut d.die (r.seqAt d q) (leBytes 8 (x.state % 4 + x.len % 2 ^ 18 * 4 + x.pending % 2 ^ 18 * 2 ^ 20)
    ++ leBytes 4 x.last ++ leBytes 4 x.tag)

def State.pte (s : State) (r : KvRec) (d : KvDie) (q i : Nat) : Pte :=
  let w := u (s.peek d.die (r.ptAt d q i) 8) 0 8
  { valid := bit w 0, tier := bits w 1 1, frame := bits w 39 8 }

def State.putPte (s : State) (r : KvRec) (d : KvDie) (q i : Nat) (x : Pte) : State :=
  s.walkerPut d.die (r.ptAt d q i) (leBytes 8 (b2n x.valid + x.tier % 2 * 2 + x.frame % 2 ^ 32 * 2 ^ 8))

/-- Address of a frame's table entry. -/
def KvRec.ftAt (r : KvRec) (d : KvDie) (tier f : Nat) : Nat := if tier == 0 then r.nearAt d f else r.bulkAt d f

def State.fte (s : State) (r : KvRec) (d : KvDie) (tier f : Nat) : Fte :=
  let w := u (s.peek d.die (r.ftAt d tier f) 8) 0 8
  { refs := bits w 15 0, state := bits w 17 16, moving := bit w 18, last := bits w 63 32 }

def State.putFte (s : State) (r : KvRec) (d : KvDie) (tier f : Nat) (x : Fte) : State :=
  s.walkerPut d.die (r.ftAt d tier f) (leBytes 8 (x.refs % 2 ^ 16 + x.state % 4 * 2 ^ 16 + b2n x.moving * 2 ^ 18
    + x.last % 2 ^ 32 * 2 ^ 32))

/-- x < y of 32-bit epochs (R236). -/
def epochLt (x y : Nat) : Bool := decide (sx 32 (unsx 32 ((x : Int) - (y : Int))) < 0)

/-- Rank of a die among the partition's dies. -/
def KvRec.rank (r : KvRec) (d : KvDie) : Nat := r.dies.idxOf d

/-- The table entry that holds logical page `n` on a die, if the die holds it. -/
def KvRec.entryOf (r : KvRec) (d : KvDie) (n : Nat) : Option Nat :=
  if r.layout == 0 then some n else if n % r.spread == r.rank d then some (n / r.spread) else none

/-- Entries of pages lo … hi − 1 that a die holds, ascending. -/
def KvRec.held (r : KvRec) (d : KvDie) (lo hi : Nat) : List Nat :=
  ((List.range (hi - lo)).map (· + lo)).filterMap (r.entryOf d)

/-- Logical page of a table entry. -/
def KvRec.pageOf (r : KvRec) (d : KvDie) (i : Nat) : Nat := if r.layout == 0 then i else i * r.spread + r.rank d

/-! ### Frames (R241, R243) -/

/-- A frame loses refs; at 0 it becomes DEFERRED (R243). -/
def State.dropRef (s : State) (r : KvRec) (d : KvDie) (tier f n : Nat) : State :=
  let x := s.fte r d tier f
  s.putFte r d tier f { x with refs := x.refs - n, state := if x.refs ≤ n then 3 else x.state }

def State.addRef (s : State) (r : KvRec) (d : KvDie) (tier f : Nat) : State :=
  let x := s.fte r d tier f
  s.putFte r d tier f { x with refs := x.refs + 1 }

def State.frameState (s : State) (r : KvRec) (d : KvDie) (tier f st : Nat) : State :=
  s.putFte r d tier f { s.fte r d tier f with state := st }

/-- Frames of a pool that may be allocated (R235). -/
def KvDie.frames (d : KvDie) (tier : Nat) : List Nat :=
  if tier == 0 then (List.range d.poolFrames).drop 2 else List.range d.bulkFrames

/-- FREE frames of a pool, ascending: the lowest is taken first (log entry 37). -/
def State.freeFrames (s : State) (r : KvRec) (d : KvDie) (tier : Nat) : List Nat :=
  (d.frames tier).filter fun f => (s.fte r d tier f).state == 0

/-- Frames RESERVED, LIVE or DEFERRED. -/
def State.inUse (s : State) (r : KvRec) (d : KvDie) (tier : Nat) : Nat :=
  ((d.frames tier).filter fun f => (s.fte r d tier f).state != 0).length

/-- The retire floor of a partition, where its counter stands at `next` (R228). -/
def State.kvFloor (s : State) (p next : Nat) : Nat :=
  ((s.kv.steps.filter fun x => x.part == p).map (·.epoch)).foldl min next

/-- DEFERRED frames last used below the floor become FREE (R243). -/
def State.reclaim (s : State) (r : KvRec) (floor : Nat) : State :=
  r.dies.foldl (fun s d => [0, 1].foldl (fun s tier => (d.frames tier).foldl (fun s f =>
    let x := s.fte r d tier f
    if x.state == 3 && epochLt x.last (floor % 2 ^ 32) then s.putFte r d tier f { refs := 0, state := 0, moving := false, last := x.last }
    else s) s) s) s

/-! ### The rings (R237, R253) -/

/-- Slot of a partition on a die. -/
def State.kvSlot (s : State) (p t : Nat) : Nat :=
  match (s.part? p).bind fun x => x.on t with | some d => d.slot | none => 0

/-- Distance of ring indices modulo 2^16. -/
def ringDist (a b : Nat) : Nat := (a + 65536 - b) % 65536

/-- Free entries of the completion ring that no step in flight has claimed (log entry 37). -/
def State.compFree (s : State) (r : KvRec) : Nat :=
  let used := ringDist (s.fget (Reg.KVW_RING_comp_tail r.part)) (s.fget (Reg.KVW_RING_comp_head r.part))
  let held := ((s.kv.steps.filter fun x => x.part == r.part).map (·.slots.length)).foldl (· + ·) 0
  2 ^ (r.compLg + 4) - used - held - (s.kv.owed.filter fun x => x.kv.part == r.part).length

/-- A completion is written (Table 8.8). -/
def State.complete (s : State) (r : KvRec) (seq status len reason tag epoch : Nat) : State :=
  let i := s.fget (Reg.KVW_RING_comp_tail r.part)
  let a := 0x004000000000 + r.compBlk * 256 + i % 2 ^ (r.compLg + 4) * 16
  let w := seq % 2 ^ 12 + status * 2 ^ 12 + len % 2 ^ 18 * 2 ^ 16 + reason * 2 ^ 34
  (s.poke 8 0x16 a (leBytes 8 w ++ leBytes 4 tag ++ leBytes 4 epoch)).fset (Reg.KVW_RING_comp_tail r.part) ((i + 1) % 65536)

/-- A serving event of a partition, raised by the hub front end. -/
def State.kvHub (s : State) (code p : Nat) : State := s.raise code oHub 0x16 (bits p 5 0)

/-- A serving event of a die's walker; classes C1 to C3 are captured (R252). -/
def State.kvDie (s : State) (code t p epoch : Nat) : State :=
  let s1 := s.raise code t 0x21 (bits p 5 0)
  if codeClass code == 0 then s1
  else s1.capture (Reg.KVW_ERR t) (bits code 5 0 + s.kvSlot p t % 8 * 2 ^ 8 + epoch % 2 ^ 31 * 2 ^ 32)

/-- A sequence has a step in flight. -/
def State.seqInFlight (s : State) (p q : Nat) : Bool :=
  s.kv.steps.any fun x => x.part == p && x.slots.any fun y => y.seq == q

/-- A request (Table 8.7). -/
structure KvReq where
  op : Nat
  seq : Nat
  parent : Nat
  count : Nat
  tag : Nat
  resv : Bool

def readReq (b : List Byte) : KvReq :=
  let w := u b 0 8
  let v := u b 8 8
  { op := bits w 3 0, seq := bits w 27 16, parent := bits w 43 32, count := bits v 17 0, tag := bits v 63 32,
    resv := bits w 15 4 != 0 || bits w 31 28 != 0 || bits w 63 44 != 0 || bits v 31 18 != 0 }

/-- Entries that a FORK copies on a die. -/
def KvReq.forkEntries (q : KvReq) (r : KvRec) (d : KvDie) : List Nat := r.held d 0 (pagesOf q.count)

/-- Why a request is refused (Table 8.9), 0 where it is not; of several reasons the first in the order 6, 1, 2, 3, 4, 5. The
sequence tables of all dies are alike (R248); the partition's first die is read. -/
def State.reqReason (s : State) (r : KvRec) (q : KvReq) : Nat :=
  match r.dies.head? with
  | none => 6
  | some d0 =>
    let e := s.seqEnt r d0 q.seq
    let pe := s.seqEnt r d0 q.parent
    if q.op == 0 || 4 < q.op || q.resv then 6
    else if r.maxSeqs ≤ q.seq || (q.op == 2 && r.maxSeqs ≤ q.parent) then 1
    else if (q.op == 1 || q.op == 2) && e.state != 0 then 2
    else if ((q.op == 3 || q.op == 4) && e.state != 1) || (q.op == 2 && pe.state != 1) then 3
    else if q.op == 3 && decide (r.maxTokens < e.len + e.pending + q.count) then 4
    else if q.op == 2 && (q.count == 0 || decide (pe.len < q.count)) then 4
    else if q.op == 2 && r.dies.any (fun d => (q.forkEntries r d).any fun i =>
        let x := s.pte r d q.parent i
        x.valid && 65535 ≤ (s.fte r d x.tier x.frame).refs) then 5
    else 0

/-- The page table of a sequence is cleared, every frame it names losing one ref (R237 CLOSE). -/
def State.clearTable (s : State) (r : KvRec) (d : KvDie) (q : Nat) : State :=
  (List.range (r.ptStride / 8)).foldl (fun s i =>
    let x := s.pte r d q i
    let s1 := if x.valid then s.dropRef r d x.tier x.frame 1 else s
    s1.putPte r d q i { valid := false, tier := 0, frame := 0 }) s

/-- An accepted request on one die (R237). -/
def State.reqOn (s : State) (r : KvRec) (q : KvReq) (inStep : Bool) (d : KvDie) : State :=
  let e := s.seqEnt r d q.seq
  match q.op with
  | 1 => s.putSeq r d q.seq { e with state := 1, len := 0, pending := 0 }
  | 2 =>
    let s1 := s.putSeq r d q.seq { e with state := 1, len := q.count, pending := 0 }
    (q.forkEntries r d).foldl (fun s i =>
      let x := s.pte r d q.parent i
      let s2 := s.putPte r d q.seq i x
      if x.valid then s2.addRef r d x.tier x.frame else s2) s1
  | 3 => s.putSeq r d q.seq { e with pending := e.pending + q.count, tag := q.tag }
  | _ => (s.putSeq r d q.seq { e with state := if inStep then 2 else 0 }).clearTable r d q.seq

/-- One request applied (R237, R238). -/
def State.kvRequest (s : State) (r : KvRec) (epoch : Nat) (q : KvReq) : State :=
  let why := s.reqReason r q
  let ent (s : State) : SeqEnt := match r.dies.head? with
    | some d => s.seqEnt r d q.seq | none => { state := 0, len := 0, pending := 0, last := 0, tag := 0 }
  if why != 0 then
    ((s.complete r q.seq 1 (if q.seq < r.maxSeqs then (ent s).len else 0) why q.tag epoch).kvHub 0x0282 r.part).count
      Reg.KVW_CNT_REFUSE_count 1
  else
    let inStep := s.seqInFlight r.part q.seq
    let s1 := r.dies.foldl (fun s d => s.reqOn r q inStep d) s
    if q.op == 4 && !inStep then s1.complete r q.seq 3 (ent s1).len 0 q.tag epoch else s1

/-- Requests taken at a release (R237). -/
def State.kvTake (s : State) (r : KvRec) (epoch : Nat) : Nat → State
  | 0 => s
  | n + 1 =>
    let h := s.fget (Reg.KVW_RING_req_head r.part)
    if h == s.fget (Reg.KVW_RING_req_tail r.part) || s.compFree r == 0 then s
    else
      let a := 0x004000000000 + r.reqBlk * 256 + h % 2 ^ (r.reqLg + 4) * 16
      let q := readReq (s.peek 8 a 16)
      (((s.meet 8 0x16 a 16).fset (Reg.KVW_RING_req_head r.part) ((h + 1) % 65536)).kvRequest r epoch q).kvTake r epoch n

/-! ### Forming a batch (R239, R241) -/

/-- The batch former at work: `near` counts near_frames_free as the pseudocode does. -/
structure Former where
  s : State
  near : Nat := 0
  slots : List KvSlot := []
  defers : Nat := 0

/-- How a drained page gets its frame (R241): in place, or a new frame. -/
def State.inPlace (s : State) (r : KvRec) (d : KvDie) (floor q i : Nat) : Option Nat :=
  let x := s.pte r d q i
  if x.valid && x.tier == 0 then
    let f := s.fte r d 0 x.frame
    if f.refs == 1 && epochLt f.last (floor % 2 ^ 32) then some x.frame else none
  else none

/-- Entries of the pages of a slot that receive new tokens. -/
def KvRec.drained (r : KvRec) (d : KvDie) (len a : Nat) : List Nat := r.held d (len / 16) (pagesOf (len + a))

/-- A target in its own frame, or in the free one that is RESERVED. -/
def State.takeFrameFor (s : State) (r : KvRec) (d : KvDie) (q : Nat) (ts : List KvTarget) (i : Nat) (own free : Option Nat) :
    State × List KvTarget :=
  match own, free with
  | some f, _ => (s, ts ++ [{ die := d.die, entry := i, frame := f, fresh := false }])
  | none, none => (s, ts)
  | none, some f =>
    let s1 := s.putFte r d 0 f { refs := 0, state := 1, moving := false, last := (s.fte r d 0 f).last }
    let s2 := if (s.pte r d q i).valid then s1.count (Reg.KVW_CNT_COW_count d.die (s.kvSlot r.part d.die)) 1 else s1
    (s2, ts ++ [{ die := d.die, entry := i, frame := f, fresh := true }])

/-- One target of a slot: the frame it may be written to in place, else a free one, RESERVED (R241). -/
def State.takeTarget (r : KvRec) (d : KvDie) (floor q : Nat) (s : State) (i : Nat) (ts : List KvTarget) : State × List KvTarget :=
  s.takeFrameFor r d q ts i (s.inPlace r d floor q i) (s.freeFrames r d 0).head?

/-- Targets of a slot on one die, their frames RESERVED (R241). -/
def State.takeTargets (s : State) (r : KvRec) (d : KvDie) (floor q len a : Nat) : State × List KvTarget :=
  (r.drained d len a).foldl (fun (acc : State × List KvTarget) i => State.takeTarget r d floor q acc.1 i acc.2) (s, [])

/-- Targets of a slot on one die, after those of the dies before it. -/
def State.takeDie (r : KvRec) (floor q len a : Nat) (s : State) (d : KvDie) (ts : List KvTarget) : State × List KvTarget :=
  let x := s.takeTargets r d floor q len a
  (x.1, ts ++ x.2)

/-- Greatest of a list of counts; least of one. -/
def maxOf (xs : List Nat) : Nat := xs.foldl max 0
def minOf (xs : List Nat) : Nat := match xs with | [] => 0 | x :: r => r.foldl min x

/-- One candidate (R239): deferred, or given a slot with its frames. -/
def Former.take (z : Former) (r : KvRec) (floor free0 q : Nat) : Former :=
  match r.dies.head? with
  | none => z
  | some d0 =>
    let e := z.s.seqEnt r d0 q
    let a := min e.pending r.stepTokens
    match (List.range r.buckets.length).find? fun b => match r.buckets[b]? with
        | some x => decide (e.len + a ≤ x.bound) | none => false with
    | none => z
    | some b =>
      match r.buckets[b]? with
      | none => z
      | some x =>
        let bulkOf (q n : Nat) : Nat := maxOf (r.dies.map fun d => ((r.held d 0 (pagesOf n)).filter fun i =>
          let p := z.s.pte r d q i
          p.valid && p.tier == 1).length)
        let used := ((z.slots.filter fun y => y.bucket == b).map fun y => bulkOf y.seq y.len).foldl (· + ·) 0
        let nf := maxOf (r.dies.map fun d => ((r.drained d e.len a).filter fun i => (z.s.inPlace r d floor q i).isNone).length)
        if x.cap ≤ (z.slots.filter fun y => y.bucket == b).length || x.bulkMax < used + bulkOf q e.len || z.near < nf
            || free0 ≤ z.slots.length then { z with defers := z.defers + 1 }
        else
          let acc := r.dies.foldl (fun (acc : State × List KvTarget) d => State.takeDie r floor q e.len a acc.1 d acc.2) (z.s, [])
          { z with s := acc.1, near := z.near - nf, slots := z.slots ++ [{ bucket := b, seq := q, len := e.len, a := a, targets := acc.2 }] }

/-- Candidates in order (R239). -/
def State.candidates (s : State) (r : KvRec) : List Nat :=
  match r.dies.head? with
  | none => []
  | some d0 =>
    let qs := (List.range r.maxSeqs).filter fun q =>
      let e := s.seqEnt r d0 q
      e.state == 1 && 0 < e.pending && !s.seqInFlight r.part q
    sortBy (fun (a b : Nat) => epochLt (s.seqEnt r d0 a).last (s.seqEnt r d0 b).last) qs

/-- The batch that the former makes of the tables as they are (R239). -/
def State.formStep (s : State) (r : KvRec) (floor : Nat) : Former :=
  (s.candidates r).foldl (fun z q => z.take r floor (s.compFree r) q)
    { s := s, near := minOf (r.dies.map fun d => (s.freeFrames r d 0).length) }

/-! ### A step's end (R242) -/

/-- A slot's step ends (Table 8.10). -/
def State.endSlot (s : State) (r : KvRec) (epoch : Nat) (ok : Bool) (y : KvSlot) : State :=
  match r.dies.head? with
  | none => s
  | some d0 =>
    let e0 := s.seqEnt r d0 y.seq
    let closing := e0.state == 2
    let commit := ok && !closing
    let s1 := r.dies.foldl (fun s d =>
      let s2 := (y.targets.filter fun (t : KvTarget) => t.die == d.die && t.fresh).foldl (fun s t =>
        if commit then
          let old := s.pte r d y.seq t.entry
          let f := s.fte r d 0 t.frame
          let s3 := s.putFte r d 0 t.frame { f with refs := 1, state := 2 }
          let s4 := s3.putPte r d y.seq t.entry { valid := true, tier := 0, frame := t.frame }
          if old.valid then s4.dropRef r d old.tier old.frame 1 else s4
        else s.frameState r d 0 t.frame 3) s
      let e := s2.seqEnt r d y.seq
      if commit then
        s2.putSeq r d y.seq { e with len := e.len + y.a, pending := e.pending - y.a, last := epoch % 2 ^ 32 }
      else if closing then s2.putSeq r d y.seq { e with state := 0 } else s2) s
    let e1 := s1.seqEnt r d0 y.seq
    s1.complete r y.seq (if closing then 3 else if ok then 0 else 2) e1.len 0 e1.tag epoch

/-! ### Housekeeping (R244) -/

/-- The sequences that the batch former would take in each of the next steps, each step ending well before the next is formed: the former is run
on the tables as they would then be (log entry 37). -/
def forecast (r : KvRec) : Nat → Nat → State → List (List Nat)
  | 0, _, _ => []
  | n + 1, epoch, s =>
    let z := (s.reclaim r epoch).formStep r epoch
    z.slots.map (·.seq) :: forecast r n (epoch + 1) (z.slots.foldl (fun s y => s.endSlot r epoch true y) z.s)

/-- The forecast at the release of step `epoch`, whose batch is `slots`, from the tables as the steps in flight will leave them. -/
def State.kvForecast (s : State) (r : KvRec) (slots : List KvSlot) (epoch : Nat) : List (List Nat) :=
  let mine := s.kv.steps.filter fun x => x.part == r.part
  let s1 := { s with kv := { s.kv with steps := s.kv.steps.filter fun x => x.part != r.part } }
  let s2 := mine.foldl (fun s x => x.slots.foldl (fun s y => s.endSlot r x.epoch true y) s) s1
  forecast r r.prefetch (epoch + 1) (slots.foldl (fun s y => s.endSlot r epoch true y) s2)

/-- Valid table entries of a die that name a frame: (tier, frame, sequence, entry). -/
def State.namings (s : State) (r : KvRec) (d : KvDie) : List (Nat × Nat × Nat × Nat) :=
  ((List.range r.maxSeqs).filter fun q => (s.seqEnt r d q).state == 1).flatMap fun q =>
    (r.held d 0 (pagesOf (s.seqEnt r d q).len)).filterMap fun i =>
      let x := s.pte r d q i
      if x.valid then some (x.tier, x.frame, q, i) else none

/-- The moves of one die (R244): spills, then prefetches. -/
def State.planMoves (s : State) (r : KvRec) (d : KvDie) (slots : List KvSlot) (future : List (List Nat)) : State × List KvMove :=
  let names := s.namings r d
  let busy (q : Nat) : Bool := (slots.any fun y => y.seq == q) || s.seqInFlight r.part q || future.any fun xs => xs.contains q
  let mark := (if r.highPct == 0 then 90 else r.highPct) * (d.poolFrames - 2)
  let use0 := s.inUse r d 0
  let cand := (d.frames 0).filter fun f =>
    let x := s.fte r d 0 f
    x.state == 2 && !x.moving && (names.filter fun n => n.1 == 0 && n.2.1 == f).all fun n =>
      decide ((r.pageOf d n.2.2.2 + 1) * 16 ≤ (s.seqEnt r d n.2.2.1).len) && !busy n.2.2.1
  let order := sortBy (fun (a b : Nat) => epochLt (s.fte r d 0 a).last (s.fte r d 0 b).last) cand
  let move (s : State) (spill : Bool) (src dst : Nat) : State :=
    let st := if spill then 0 else 1
    let s1 := s.putFte r d st src { s.fte r d st src with moving := true }
    s1.putFte r d (1 - st) dst { refs := 0, state := 1, moving := false, last := (s1.fte r d (1 - st) dst).last }
  let (s1, ms) := order.foldl (fun (acc : State × List KvMove) f =>
    if acc.2.length < r.hkPages && decide (mark < (use0 - acc.2.length) * 100) then
      match (acc.1.freeFrames r d 1).head? with
      | some g => (move acc.1 true f g, acc.2 ++ [{ die := d.die, spill := true, src := f, dst := g }])
      | none => acc
    else acc) (s, [])
  let wanted := future.flatMap fun qs => (sortBy (fun (a b : Nat × Nat) => decide (a.1 < b.1)) (qs.flatMap fun q =>
    (names.filter fun n => n.1 == 1 && n.2.2.1 == q).map fun n => (r.pageOf d n.2.2.2, n.2.1))).map Prod.snd
  let nSpill := ms.length
  wanted.foldl (fun (acc : State × List KvMove) f =>
    let x := acc.1.fte r d 1 f
    if acc.2.length < r.hkPages && x.state == 2 && !x.moving
        && decide ((use0 + (acc.2.length - nSpill) + 1) * 100 ≤ mark) then
      match (acc.1.freeFrames r d 0).head? with
      | some g => (move acc.1 false f g, acc.2 ++ [{ die := d.die, spill := false, src := f, dst := g }])
      | none => acc
    else acc) (s1, ms)

/-! ### Lists (R240, R245) -/

/-- A MOVE entry (Table 5.7). -/
def moveEntry (addr loc dir blocks : Nat) : List Byte :=
  leBytes 8 addr ++ leBytes 8 (loc % 2 ^ 15 + dir * 2 ^ 15 + blocks % 2 ^ 16 * 2 ^ 16)

/-- Bytes written to the shared store of a die at a 256-byte unit. -/
def State.putShared (s : State) (t blk : Nat) (bs : List Byte) : State :=
  s.walkerPut t (0x008000000000 + t * 0x10000000 + blk * 256) bs

/-- Fill entries of one slot on a die: (tier, frame) of its committed pages (R240). -/
def State.fillFrames (s : State) (r : KvRec) (d : KvDie) (y : KvSlot) : List (Nat × Nat) :=
  (r.held d 0 (pagesOf y.len)).map fun i =>
    let x := s.pte r d y.seq i
    (x.tier, x.frame)

/-- The three structures of bucket `b` on a die (R240). -/
def State.bucketLists (s : State) (r : KvRec) (d : KvDie) (epoch : Nat) (slots : List KvSlot) (b : Nat) (x : KvBucket) : State :=
  let mine := slots.filter fun y => y.bucket == b
  let batch := leBytes 4 mine.length ++ leBytes 4 epoch ++ leBytes 8 0 ++ (List.range x.cap).flatMap fun i =>
    match mine[i]? with
    | some y => leBytes 4 y.seq ++ leBytes 4 y.len ++ leBytes 4 y.a ++ leBytes 4 0
    | none => leBytes 4 0xFFFFFFFF ++ leBytes 12 0
  let pb := ceilDiv (pagesOf x.bound) r.spread
  let dp := pagesOf r.stepTokens + 1
  let pad := r.frameAt d 0 0
  let sink := r.frameAt d 0 1
  let fills := (List.range x.cap).flatMap fun i =>
    let fs := match mine[i]? with | some y => s.fillFrames r d y | none => []
    (List.range pb).map fun q => match fs[q]? with | some (tier, f) => r.frameAt d tier f | none => pad
  let fill := (fills.mapIdx fun k a => moveEntry a (x.ringBlk + k % max 1 x.ringPages * r.pageBlocks) 0 r.pageBlocks).flatten
  let drains := (List.range x.cap).flatMap fun i =>
    let ts := match mine[i]? with | some y => y.targets.filter (fun (t : KvTarget) => t.die == d.die) | none => []
    (List.range dp).map fun q => match ts[q]? with | some t => r.frameAt d 0 t.frame | none => sink
  let drain := (drains.mapIdx fun k a => moveEntry a (x.drainLoc + k * r.pageBlocks) 1 r.pageBlocks).flatten
  ((s.putShared d.die x.batchBlk batch).putShared d.die x.fillBlk fill).putShared d.die x.drainBlk drain

/-- The housekeeping list of a die (R244). -/
def State.hkList (s : State) (r : KvRec) (d : KvDie) (ms : List KvMove) : State :=
  let mine := ms.filter fun m => m.die == d.die
  let bs := (List.range r.hkPages).flatMap fun i => match mine[i]? with
    | some m =>
      let st := if m.spill then 0 else 1
      moveEntry (r.frameAt d st m.src) d.stageBlk 0 r.pageBlocks ++ moveEntry (r.frameAt d (1 - st) m.dst) d.stageBlk 1 r.pageBlocks
    | none => moveEntry (r.frameAt d 0 0) d.stageBlk 0 r.pageBlocks ++ moveEntry (r.frameAt d 0 1) d.stageBlk 1 r.pageBlocks
  s.putShared d.die d.hkBlk bs

/-- The engine whose translation buffer a bucket uses on a die (R245). -/
def State.tbEngine (s : State) (r : KvRec) (d : KvDie) (x : KvBucket) : Nat :=
  let fits (p : Placed) : Bool := p.die == d.die && decide (16 ≤ p.exec ∧ p.exec < 32) && match s.graph? p.graph with
    | some g => g.part == r.part && (match g.tasks[p.task]? with | some t => t.kind == 7 && t.listBlk == x.fillBlk | none => false)
    | none => false
  let all := (match s.planRec with | some (x : PlanRec) => x.placed | none => []) ++ s.plan.entered.flatMap fun (x : Submitted) => x.placed
  match all.find? fits with
  | some p => s.physOf d.die (p.exec - 16)
  | none =>
    let mask := match (s.part? r.part).bind fun p => p.on d.die with | some x => x.engMask | none => 0
    s.physOf d.die ((setBits 16 mask).head?.getD 0)

/-- Look-ups of a bucket's walk: blocks of page tables of its slots in order, fill pages then drained pages; a miss is counted and
replaces the block used longest ago (R245). -/
def State.lookUps (s : State) (r : KvRec) (d : KvDie) (slots : List KvSlot) (b : Nat) (x : KvBucket) : State :=
  let e := engKey d.die (s.tbEngine r d x)
  let blocks := (slots.filter fun y => y.bucket == b).flatMap fun y =>
    ((r.held d 0 (pagesOf y.len) ++ r.drained d y.len y.a).map fun i => (r.part, y.seq, i / 32))
  let seq := blocks.foldl (fun (acc : List (Nat × Nat × Nat)) k => if acc.getLast? == some k then acc else acc ++ [k]) []
  let (tb, miss) := seq.foldl (fun (acc : List (Nat × Nat × Nat) × Nat) k =>
    if acc.1.contains k then (k :: without k acc.1, acc.2) else ((k :: acc.1).take 128, acc.2 + 1)) (smGet [] s.kv.tb e, 0)
  { s with kv := { s.kv with tb := smPut [] s.kv.tb e tb } }.count
    (Reg.KVW_CNT_TB_MISS_count d.die (s.kvSlot r.part d.die)) miss

/-! ### Release, walk, retirement (R227–R230, R242, R246–R248) -/

/-- KVW registers of a partition follow its tables (R254). -/
def State.showKv (s : State) (r : KvRec) : State :=
  r.dies.foldl (fun s d =>
    let t := d.die
    let p := s.kvSlot r.part t
    let next := (s.rd (Reg.KVW_EPOCH t p)).toNat
    let s1 := s.fset (Reg.KVW_FLOOR_floor t p) (s.kvFloor r.part next)
    let s2 := (s1.fset (Reg.KVW_NEAR_in_use t p) (s1.inUse r d 0)).fset (Reg.KVW_NEAR_frames t p) d.poolFrames
    let s3 := (s2.fset (Reg.KVW_BULK_in_use t p) (s2.inUse r d 1)).fset (Reg.KVW_BULK_frames t p) d.bulkFrames
    let act := ((List.range r.maxSeqs).filter fun q => (s3.seqEnt r d q).state != 0).length
    (s3.fset (Reg.KVW_SEQ_active t p) act).fset (Reg.KVW_SEQ_in_flight t p)
      (min 4 (s3.kv.steps.filter fun x => x.part == r.part).length)) s

/-- Dies whose metadata holds a block that fails its check value, or whose sequence table differs from the first die's (R248). -/
def State.badMeta (s : State) (r : KvRec) : List Nat :=
  let tabs := r.dies.map fun d => s.peek d.die (r.seqAt d 0) (16 * r.maxSeqs)
  (r.dies.mapIdx fun i d => (i, d)).filterMap fun p =>
    if !s.sound p.2.die (r.metaAt p.2) (r.metaSize p.2) || nth [] tabs p.1 != nth [] tabs 0 then some p.2.die else none

/-- The lists of a step on a die hold pads: fills of the zero frame, drains to the sink frame (R240, R244). -/
def KvRec.pads (r : KvRec) (nFill nDrain nMove : Nat) : List (Nat × Nat) :=
  let fills := sumBy (fun (x : KvBucket) => x.cap * ceilDiv (pagesOf x.bound) r.spread) r.buckets
  let drains := sumBy (fun (x : KvBucket) => x.cap * (pagesOf r.stepTokens + 1)) r.buckets
  let hk := decide (nMove < r.hkPages)
  (if nFill < fills || hk then [(0, 0)] else []) ++ if nDrain < drains || hk then [(0, 1)] else []

/-- Every frame that a step's lists name has last_use set to its epoch (R241). -/
def State.markUse (s : State) (r : KvRec) (epoch : Nat) (slots : List KvSlot) (ms : List KvMove) : State :=
  let mark (d : KvDie) (s : State) (tf : Nat × Nat) : State :=
    s.putFte r d tf.1 tf.2 { s.fte r d tf.1 tf.2 with last := epoch % 2 ^ 32 }
  r.dies.foldl (fun s d =>
    let fills := slots.flatMap fun y => s.fillFrames r d y
    let drains := slots.flatMap fun y => (y.targets.filter fun (t : KvTarget) => t.die == d.die).map fun t => (0, t.frame)
    let mine := ms.filter fun m => m.die == d.die
    let fs := fills ++ drains ++ (mine.flatMap fun m => if m.spill then [(0, m.src), (1, m.dst)] else [(1, m.src), (0, m.dst)])
      ++ r.pads fills.length drains.length mine.length
    fs.foldl (mark d) s) s

/-- The steward core takes over a walker that has failed (R247): buffers cleared, 0x1284. -/
def State.stewardWalks (s : State) (p epoch t : Nat) : State :=
  let s1 := s.fset (Reg.KVW_STATUS_steward t) 1
  let s2 := { s1 with kv := { s1.kv with tb := smKeep (fun k => k / 32 != t) s1.kv.tb, takeover := without t s1.kv.takeover } }
  s2.kvDie 0x1284 t p epoch

/-- A serving step is released (R227–R230, R237–R245): its epoch, its requests, its frames, its batch, its lists. -/
def State.kvRelease (s : State) (r : KvRec) (g j : Nat) : State :=
  match r.dies.head? with
  | none => s
  | some d0 =>
    let epoch := (s.rd (Reg.KVW_EPOCH d0.die (s.kvSlot r.part d0.die))).toNat
    let s1 := r.dies.foldl (fun s d => s.fset (Reg.KVW_EPOCH_next d.die (s.kvSlot r.part d.die)) (epoch + 1)) s
    let s2 := (r.dies.filter fun d => s1.kv.takeover.contains d.die).foldl (fun s d => s.stewardWalks r.part epoch d.die) s1
    let full := 4 ≤ (s2.kv.steps.filter fun x => x.part == r.part).length
    let s3 := s2.kvTake r epoch r.reqMax
    let floor := s3.kvFloor r.part epoch
    let s4 := s3.reclaim r floor
    let bad := s4.badMeta r
    let z := if full then ({ s := s4.kvHub 0x0283 r.part } : Former)
      else s4.formStep r floor
    let s5 := if z.defers == 0 then z.s else
      (r.dies.foldl (fun s d => s.count (Reg.KVW_CNT_DEFER_count d.die (s.kvSlot r.part d.die)) z.defers) z.s).kvDie
        0x0281 d0.die r.part epoch
    let (s6, ms) := if full then (s5, []) else
      let future := s5.kvForecast r z.slots epoch
      r.dies.foldl (fun (acc : State × List KvMove) d =>
        let (s, m) := acc.1.planMoves r d z.slots future
        (s, acc.2 ++ m)) (s5, [])
    let s7 := s6.markUse r epoch z.slots ms
    let s8 := r.dies.foldl (fun s d =>
      let s1 := (r.buckets.mapIdx fun b x => (b, x)).foldl (fun s p =>
        (s.lookUps r d z.slots p.1 p.2).bucketLists r d epoch z.slots p.1 p.2) s
      s1.hkList r d ms) s7
    let step : KvStep := { graph := g, inst := j, part := r.part, epoch := epoch, slots := z.slots, moves := ms, bad := bad }
    { s8 with kv := { s8.kv with steps := s8.kv.steps ++ [step] } }.showKv r

/-- A housekeeping move ends (Table 8.10). -/
def State.endMove (s : State) (r : KvRec) (ok : Bool) (m : KvMove) : State :=
  match r.dies.find? fun d => d.die == m.die with
  | none => s
  | some d =>
    let st := if m.spill then 0 else 1
    let f := s.fte r d st m.src
    let s1 := s.putFte r d st m.src { f with moving := false }
    if !ok then s1.frameState r d (1 - st) m.dst 3
    else
      let here := (s1.namings r d).filter fun n => n.1 == st && n.2.1 == m.src
      let s2 := here.foldl (fun s n => s.putPte r d n.2.2.1 n.2.2.2 { valid := true, tier := 1 - st, frame := m.dst }) s1
      let n := here.length
      let x := s2.fte r d (1 - st) m.dst
      let s3 := s2.putFte r d (1 - st) m.dst { x with refs := n, state := if n == 0 then 3 else 2 }
      let s4 := if n == 0 then s3 else s3.dropRef r d st m.src n
      s4.count (if m.spill then Reg.KVW_CNT_SPILL_pages d.die (s.kvSlot r.part d.die)
        else Reg.KVW_CNT_PREFETCH_pages d.die (s.kvSlot r.part d.die)) 1

/-- A serving step retires: commit, or roll-back when a task of it was aborted or withheld (R242, R434, R556). -/
def State.kvRetire (s : State) (g j : Nat) (ok : Bool) : State :=
  match s.kv.steps.find? fun x => x.graph == g && x.inst == j with
  | none => s
  | some x =>
    let s0 := { s with kv := { s.kv with steps := s.kv.steps.filter fun y => !(y.graph == g && y.inst == j) } }
    match s.kvRec x.part with
    | none => s0
    | some r =>
      let s1 := x.slots.foldl (fun s y => s.endSlot r x.epoch ok y) s0
      let s2 := x.moves.foldl (fun s m => s.endMove r ok m) s1
      let s3 := if ok then s2 else s2.kvHub 0x0287 r.part
      let next := match r.dies.head? with
        | some d => (s3.rd (Reg.KVW_EPOCH d.die (s3.kvSlot r.part d.die))).toNat | none => 0
      (s3.reclaim r (s3.kvFloor r.part next)).showKv r

/-- The metadata of a serving record is FREE throughout, and the registers show it (R250). -/
def State.kvClear (s : State) (r : KvRec) : State :=
  (r.dies.foldl (fun (s : State) (d : KvDie) => s.walkerPut d.die (r.metaAt d) (List.replicate (r.metaSize d) 0)) s).showKv r

/-- A completion with status 4, or the debt of one where the ring has no room. -/
def State.kvOwe (s : State) (x : KvOwed) : State :=
  if s.compFree x.kv != 0 then s.complete x.kv x.seq 4 x.len 0 x.tag x.epoch
  else { s with kv := { s.kv with owed := s.kv.owed ++ [x] } }

/-- Completions owed by a partition are written while its ring has room. -/
def State.kvPay (s : State) (p : Nat) : State :=
  let mine := s.kv.owed.filter fun x => x.kv.part == p
  mine.foldl (fun (s : State) (x : KvOwed) => s.kvOwe x) { s with kv := { s.kv with owed := s.kv.owed.filter fun x => x.kv.part != p } }

/-- KV state of a partition discarded at a boundary (R250): completions with status 4, every sequence and frame FREE. -/
def State.kvDiscard (s : State) (r : KvRec) : State :=
  let s0 := { s with kv := { s.kv with steps := s.kv.steps.filter fun x => x.part != r.part } }
  let s1 := match r.dies.head? with
    | none => s0
    | some d0 =>
      let epoch := (s0.rd (Reg.KVW_EPOCH d0.die (s0.kvSlot r.part d0.die))).toNat
      (List.range r.maxSeqs).foldl (fun (s : State) (q : Nat) =>
        let e := s.seqEnt r d0 q
        if e.state != 0 then s.kvOwe { kv := r, seq := q, len := e.len, tag := e.tag, epoch := epoch } else s) s0
  (s1.kvClear r).kvHub 0x0288 r.part

/-- A serving record comes into force: its metadata FREE throughout, its zero frames zero, its slots marked as serving (R235, R245, log entry 37). -/
def State.kvInit (s : State) (r : KvRec) : State :=
  r.dies.foldl (fun (s : State) (d : KvDie) =>
    let s1 := s.walkerPut d.die (r.frameAt d 0 0) (List.replicate r.pageBytes 0)
    s1.fset (Reg.KVW_STATUS_serving d.die)
      (setBit (s1.fget (Reg.KVW_STATUS_serving d.die)) (s1.kvSlot r.part d.die) true)) (s.kvClear r)

/-- No slot serves, and every translation buffer is empty: a plan comes into force (R245, Table 8.15). -/
def State.kvNone (s : State) : State :=
  let s1 := s.dies.foldl (fun (s : State) (t : Nat) =>
    (List.range 8).foldl (fun (s : State) (p : Nat) => ((s.wr (Reg.KVW_NEAR t p) 0).wr (Reg.KVW_BULK t p) 0).wr (Reg.KVW_SEQ t p) 0)
      (s.fset (Reg.KVW_STATUS_serving t) 0)) s
  { s1 with kv := { s1.kv with tb := [] } }

/-- WALK_DONE (R246–R248): the walk of a serving step ends; `copies` lists dies whose walker's copies differ, `digest` says that the
walkers' digests differ. -/
def execWalkDone (g j : Nat) (copies : List Nat) (digest : Bool) (s : State) : Host.Outcome State Fault Refusal :=
  match s.kv.steps.find? fun x => x.graph == g && x.inst == j && !x.walked with
  | none => .next s
  | some x =>
    let steps := s.kv.steps.map fun y => if y.graph == g && y.inst == j then { y with walked := true } else y
    let s1 := { s with kv := { s.kv with steps := steps } }
    let mine : List Nat := match s.kvRec x.part with | some (r : KvRec) => r.dies.map (fun d => d.die) | none => []
    let s2 := (mine.filter fun t => copies.contains t && !s1.flag (Reg.KVW_STATUS_walker_failed t)).foldl (fun s t =>
      let s3 := (s.kvDie 0x2285 t x.part x.epoch).fset (Reg.KVW_STATUS_walker_failed t) 1
      { s3 with kv := { s3.kv with takeover := withOnce t s3.kv.takeover } }.withholdInst g j) s1
    let bad := mine.filter fun t => x.bad.contains t
    .next (if !bad.isEmpty then bad.foldl (fun s t => s.kvDie 0x3286 t x.part x.epoch) s2
      else if digest then s2.kvHub 0x3286 x.part else s2)

/-- KV_RING_INDEX_WRITE (R253): a write of the indices of partition `p` that software may write: `tail` to req_tail, `head` to
comp_head; one that would overrun is ignored and counted. -/
def State.ringWrite (s : State) (p : Nat) (tail head : Option Nat) : State :=
  let lg := match s.kvRec p with | some r => r.reqLg + 4 | none => 16
  let s1 := match tail with
    | none => s
    | some v =>
      if ringDist (v % 65536) (s.fget (Reg.KVW_RING_req_head p)) ≤ 2 ^ lg then s.fset (Reg.KVW_RING_req_tail p) v
      else s.count Reg.KVW_CNT_REFUSE_count 1
  match head with
  | none => s1
  | some v =>
    let h := s1.fget (Reg.KVW_RING_comp_head p)
    if ringDist (v % 65536) h ≤ ringDist (s1.fget (Reg.KVW_RING_comp_tail p)) h then (s1.fset (Reg.KVW_RING_comp_head p) v).kvPay p
    else s1.count Reg.KVW_CNT_REFUSE_count 1

def execKvRingIndexWrite (p : Nat) (tail head : Option Nat) (s : State) : Host.Outcome State Fault Refusal :=
  if p < 64 then .next (s.ringWrite p tail head) else .next s

end Sys2Proof.Machine
end

