-- ==== Sys2Proof/Machine/Operands.lean ====
section
/-! DEFINITION. The operand forms of the arithmetic units: the element formats of Table 3.4, their packing (R71), microscaling (R72,
R81), exact arithmetic on decoded values, and rounding to a format (R74, R76, R79). A value is a NaN, a signed infinity or a
signed dyadic number, held exactly. -/

namespace Sys2Proof.Machine

/-- A decoded value: NaN, an infinity, or (−1)^neg × m × 2^e; zero keeps its sign. -/
inductive Num where
  | nan
  | inf (neg : Bool)
  | fin (neg : Bool) (m : Nat) (e : Int)
deriving DecidableEq, Repr

namespace Num

/-- Zero, positive or negative. -/
def zero (neg : Bool) : Num := .fin neg 0 0

/-- An integer's value. -/
def ofInt (i : Int) : Num := .fin (decide (i < 0)) i.natAbs 0

def isZero : Num → Bool
  | .fin _ 0 _ => true
  | _ => false

def isFin : Num → Bool
  | .fin _ _ _ => true
  | _ => false

def isNeg : Num → Bool
  | .nan => false
  | .inf n => n
  | .fin n _ _ => n

/-- −x. -/
def neg : Num → Num
  | .nan => .nan
  | .inf n => .inf !n
  | .fin n m e => .fin (!n) m e

/-- |x|. -/
def abs : Num → Num
  | .nan => .nan
  | .inf _ => .inf false
  | .fin _ m e => .fin false m e

/-- x × 2^k, exactly. -/
def scale (k : Int) : Num → Num
  | .fin n m e => .fin n m (e + k)
  | x => x

/-- Signed integer m × 2^(e − b) for b at most e. -/
def atExp (n : Bool) (m : Nat) (e b : Int) : Int :=
  let v : Int := (m * 2 ^ (e - b).toNat : Nat)
  if n then -v else v

/-- The exact sum; an exact zero sum of unlike signs is +0. -/
def add : Num → Num → Num
  | .nan, _ => .nan
  | _, .nan => .nan
  | .inf a, .inf b => if a == b then .inf a else .nan
  | .inf a, _ => .inf a
  | _, .inf b => .inf b
  | .fin n1 m1 e1, .fin n2 m2 e2 =>
    let b := min e1 e2
    let s := atExp n1 m1 e1 b + atExp n2 m2 e2 b
    if s == 0 then .fin (m1 == 0 && m2 == 0 && n1 && n2) 0 b else .fin (decide (s < 0)) s.natAbs b

def sub (x y : Num) : Num := add x (neg y)

/-- The exact product. -/
def mul : Num → Num → Num
  | .nan, _ => .nan
  | _, .nan => .nan
  | .inf a, .inf b => .inf (a != b)
  | .inf a, .fin b m _ => if m == 0 then .nan else .inf (a != b)
  | .fin a m _, .inf b => if m == 0 then .nan else .inf (a != b)
  | .fin n1 m1 e1, .fin n2 m2 e2 => .fin (n1 != n2) (m1 * m2) (e1 + e2)

/-- x < y, false where either is NaN; −0 equals +0. -/
def lt : Num → Num → Bool
  | .nan, _ => false
  | _, .nan => false
  | .inf a, .inf b => a && !b
  | .inf a, _ => a
  | _, .inf b => !b
  | .fin n1 m1 e1, .fin n2 m2 e2 =>
    let b := min e1 e2
    decide (atExp n1 m1 e1 b < atExp n2 m2 e2 b)

/-- Position of the leading bit of a nonzero finite value. -/
def lead : Num → Int
  | .fin _ m e => e + Nat.log2 m
  | _ => 0

end Num

/-- What a floating format does with its all-ones exponent: nothing special, one NaN code (E4M3), or infinities and NaNs. -/
inductive Special where
  | none_
  | e4m3
  | ieee
deriving DecidableEq, Repr

/-- A floating format: exponent and mantissa bits, least normal exponent, largest finite value maxM × 2^maxE. -/
structure FltFmt where
  eb : Nat
  mb : Nat
  emin : Int
  maxM : Nat
  maxE : Int
  sp : Special
deriving DecidableEq, Repr

def fmtE4M3 : FltFmt := ⟨4, 3, -6, 14, 5, .e4m3⟩
def fmtE5M2 : FltFmt := ⟨5, 2, -14, 7, 13, .ieee⟩
def fmtE3M2 : FltFmt := ⟨3, 2, -2, 7, 2, .none_⟩
def fmtE2M3 : FltFmt := ⟨2, 3, 0, 15, -1, .none_⟩
def fmtE2M1 : FltFmt := ⟨2, 1, 0, 3, 1, .none_⟩
def fmtF16 : FltFmt := ⟨5, 10, -14, 2047, 5, .ieee⟩
def fmtBF16 : FltFmt := ⟨8, 7, -126, 255, 120, .ieee⟩
def fmtF32 : FltFmt := ⟨8, 23, -126, 16777215, 104, .ieee⟩

/-- The floating format of a code of Table 3.4. -/
def fltOf (code : Nat) : Option FltFmt :=
  match code with
  | 0x2 => some fmtE4M3
  | 0x3 => some fmtE5M2
  | 0x4 => some fmtE4M3
  | 0x5 => some fmtE5M2
  | 0x6 => some fmtE3M2
  | 0x7 => some fmtE2M3
  | 0x9 => some fmtE2M1
  | 0xA => some fmtF16
  | 0xB => some fmtBF16
  | 0xD => some fmtF32
  | _ => none

/-- Bits of an element (Table 3.4). -/
def elemBits (code : Nat) : Nat :=
  nth 32 [8, 4, 8, 8, 8, 8, 6, 6, 8, 4, 16, 16, 32, 32] code

/-- A microscaling format (R72). -/
def isMX (code : Nat) : Bool := decide (4 ≤ code ∧ code ≤ 9)

/-- An integer format. -/
def isInt (code : Nat) : Bool := code == 0 || code == 1 || code == 0xC

/-- The least binary place of a fixed-point format: 0 of an integer, −6 of MXINT8. -/
def fixPlace (code : Nat) : Int := if code == 8 then -6 else 0

/-- The value of a floating format's bits. -/
def decFlt (f : FltFmt) (b : Nat) : Num :=
  let neg := bit b (f.eb + f.mb)
  let ex := bits b (f.eb + f.mb - 1) f.mb
  let m := b % 2 ^ f.mb
  let top := ex == 2 ^ f.eb - 1
  if top && f.sp == .ieee then (if m == 0 then .inf neg else .nan)
  else if top && f.sp == .e4m3 && m == 2 ^ f.mb - 1 then .nan
  else if ex == 0 then .fin neg m (f.emin - f.mb)
  else .fin neg (m + 2 ^ f.mb) (f.emin - f.mb + (ex - 1 : Nat))

/-- The value of an element's bits (R70). -/
def decElem (code b : Nat) : Num :=
  match fltOf code with
  | some f => decFlt f b
  | none =>
    let i := sx (elemBits code) b
    .fin (decide (i < 0)) i.natAbs (fixPlace code)

/-- How a value is rounded to a format: nearest even, or stochastically with a 32-bit random number (R79). -/
inductive RMode where
  | rne
  | stoch (rnd : Nat)
deriving DecidableEq, Repr

/-- A magnitude m × 2^e rounded to a whole number of 2^u. -/
def roundAt (mode : RMode) (m : Nat) (e u : Int) : Nat :=
  if u ≤ e then m * 2 ^ (e - u).toNat
  else
    let k := (u - e).toNat
    let q := m / 2 ^ k
    let r := m % 2 ^ k
    match mode with
    | .rne => if 2 ^ k < 2 * r || (2 ^ k == 2 * r && q % 2 == 1) then q + 1 else q
    | .stoch rnd => if 2 ^ 32 ≤ r * 2 ^ 32 / 2 ^ k + rnd then q + 1 else q

/-- The place of the last bit of a format at magnitude m × 2^e. -/
def ulpPlace (f : FltFmt) (m : Nat) (e : Int) : Int :=
  if m == 0 then f.emin - f.mb else max (e + Nat.log2 m - f.mb) (f.emin - f.mb)

/-- Is m × 2^e above the format's largest finite value? -/
def FltFmt.overflows (f : FltFmt) (m : Nat) (e : Int) : Bool :=
  let b := min e f.maxE
  decide (f.maxM * 2 ^ (f.maxE - b).toNat < m * 2 ^ (e - b).toNat)

/-- A value rounded to a floating format as if its exponent had no upper bound. -/
def roundFlt (mode : RMode) (f : FltFmt) : Num → Num
  | .fin n m e =>
    let u := ulpPlace f m e
    .fin n (roundAt mode m e u) u
  | x => x

/-- rne32 of R74: FP32, nearest even, beyond the range a signed infinity. -/
def rne32 (x : Num) : Num :=
  match roundFlt .rne fmtF32 x with
  | .fin n m e => if fmtF32.overflows m e then .inf n else .fin n m e
  | y => y

/-- Bits of a value that the format holds exactly; a NaN takes sign and payload from `nanCode` (log entry 23). -/
def packFlt (f : FltFmt) (nanBits : Nat) (x : Num) : Nat :=
  let sgn (n : Bool) : Nat := b2n n * 2 ^ (f.eb + f.mb)
  match x with
  | .nan =>
    let s := sgn (nanBits % 2 == 1)
    match f.sp with
    | .ieee => s + (2 ^ f.eb - 1) * 2 ^ f.mb + (1 + nanBits / 2 % (2 ^ f.mb - 1))
    | _ => s + 2 ^ (f.eb + f.mb) - 1
  | .inf n => sgn n + (2 ^ f.eb - 1) * 2 ^ f.mb
  | .fin n m e =>
    if m == 0 then sgn n
    else
      let u := ulpPlace f m e
      sgn n + (u - (f.emin - f.mb)).toNat * 2 ^ f.mb + roundAt .rne m e u

/-- FP32 bits and back. -/
def f32Of (b : Nat) : Num := decFlt fmtF32 b
def f32Bits (nanBits : Nat) (x : Num) : Nat := packFlt fmtF32 nanBits (rne32 x)

/-- The E8M0 scale of R72: its exponent, or nothing for NaN. -/
def mxExp (b : Nat) : Option Int := if b % 256 == 0xFF then none else some ((b % 256 : Nat) - 127)

/-- Element `i` of a packed plane (R71). -/
def elemAt (code : Nat) (plane : List Byte) (i : Nat) : Nat :=
  match elemBits code with
  | 4 => bits (nth 0 plane (i / 2)).toNat (i % 2 * 4 + 3) (i % 2 * 4)
  | 6 => bits (u plane (i / 4 * 3) 3) (i % 4 * 6 + 5) (i % 4 * 6)
  | w => u plane (i * (w / 8)) (w / 8)

/-- Bytes of `n` elements of a format (R71). -/
def elemBytes (code n : Nat) : Nat := (n * elemBits code + 7) / 8

/-- Elements packed in ascending order from the least significant bit of each byte (R71). -/
def packElems (code : Nat) : List Nat → List Byte
  | es =>
    let w := elemBits code
    let n := elemBytes code es.length
    let grp := if w == 4 then 2 else if w == 6 then 4 else 1
    let wb := w * grp / 8
    let words := (List.range (ceilDiv es.length grp)).flatMap fun g =>
      leBytes wb ((List.range grp).foldl (fun v j => v + nth 0 es (g * grp + j) % 2 ^ w * 2 ^ (w * j)) 0)
    words.take n

/-- Largest exponent of an MX element format (R81). -/
def emaxOf (code : Nat) : Int := nth 0 [0, 0, 0, 0, 8, 15, 4, 2, 0, 2] code

/-- mx_scale of R81 over a block's values. -/
def mxScale (code : Nat) (vs : List Num) : Nat :=
  if vs.any fun v => !v.isFin then 0xFF
  else
    let nz := vs.filter fun v => !v.isZero
    match nz with
    | [] => 0
    | v :: _ =>
      let top := nz.foldl (fun (t : Int) x => max t x.lead) v.lead
      (max (-127) (top - emaxOf code) + 127).toNat

/-- A value narrowed to an element: its bits, or that it is a NaN; saturated; non-finite received or produced (R80, Table 3.7). -/
structure Narrowed where
  num : Num
  bits : Option Nat := none
  sat : Bool := false
  nonf : Bool := false
deriving DecidableEq, Repr

/-- Narrowing to an integer or fixed-point element (Table 3.7). -/
def narrowInt (code : Nat) (mode : RMode) (v : Num) : Narrowed :=
  let w := elemBits code
  let hi : Int := (2 ^ (w - 1) : Nat) - 1
  let lo : Int := -(2 ^ (w - 1) : Nat)
  let out (i : Int) (s n : Bool) : Narrowed := { num := .zero false, bits := some (unsx w i), sat := s, nonf := n }
  match v with
  | .nan => out 0 false true
  | .inf n => out (if n then lo else hi) true true
  | .fin n m e =>
    let r : Int := roundAt mode m e (fixPlace code)
    let i := if n then -r else r
    if hi < i then out hi true false else if i < lo then out lo true false else out i false false

/-- Narrowing to a floating element; MX elements always saturate (Table 3.7). -/
def narrowFlt (code : Nat) (f : FltFmt) (sat : Bool) (mode : RMode) (v : Num) : Narrowed :=
  let clamp := sat || isMX code
  let big (n : Bool) : Num := .fin n f.maxM f.maxE
  match v with
  | .nan => { num := .nan, nonf := true }
  | .inf n =>
    if code != 0xD && clamp then { num := big n, sat := true, nonf := true }
    else if f.sp == .e4m3 then { num := .nan, nonf := true } else { num := .inf n, nonf := true }
  | x =>
    match roundFlt mode f x with
    | .fin n m e =>
      if !f.overflows m e then { num := .fin n m e }
      else if code != 0xD && clamp then { num := big n, sat := true }
      else if f.sp == .e4m3 then { num := .nan, nonf := true } else { num := .inf n, nonf := true }
    | y => { num := y }

/-- Narrowing of one value to an output format (R78 steps 5 and 6). -/
def narrow (code : Nat) (sat : Bool) (mode : RMode) (v : Num) : Narrowed :=
  match fltOf code with
  | some f => narrowFlt code f sat mode v
  | none => narrowInt code mode v

/-- Bits of a narrowed element. -/
def Narrowed.enc (r : Narrowed) (code nanBits : Nat) : Nat :=
  match r.bits, fltOf code with
  | some b, _ => b
  | none, some f => packFlt f nanBits r.num
  | none, none => 0

/-- The random number of R79 for an element of a task. -/
def stochOf (seed elem : Nat) : Nat := mix ((seed % 2 ^ 64) ^^^ (elem * 0x9E3779B97F4A7C15 % 2 ^ 64)) / 2 ^ 32

/-- One 32-element MX block narrowed (R81): scale byte, elements, counts of saturated and non-finite elements. -/
def narrowMX (code : Nat) (mode : Nat → RMode) (vs : List Num) : Nat × List Nat × Nat × Nat :=
  let sc := mxScale code vs
  if sc == 0xFF then (0xFF, vs.map fun _ => 0, 0, vs.length)
  else
    let e : Int := (sc : Int) - 127
    let rs := (List.range vs.length).map fun i => narrow code true (mode i) ((nth .nan vs i).scale (-e))
    (sc, rs.map (fun r => r.enc code 0), (rs.filter (·.sat)).length, 0)

/-- Narrowed row: element bits, scale bytes, counts of saturated and of non-finite elements. -/
structure NarrowRow where
  elems : List Nat
  scales : List Nat := []
  sat : Nat := 0
  nonf : Nat := 0

/-- Integer square root: bits k − 1 … 0 of the root, from the root so far. -/
def isqrtFrom (n : Nat) : Nat → Nat → Nat
  | 0, r => r
  | k + 1, r => isqrtFrom n k (if (r + 2 ^ k) * (r + 2 ^ k) ≤ n then r + 2 ^ k else r)

/-- floor(√n). -/
def isqrt (n : Nat) : Nat := isqrtFrom n (Nat.log2 n / 2 + 1) 0

/-- ln 2 in units of 2^−192, rounded down. -/
def ln2Fix : Nat := 0xb17217f7d1cf79abc9e3b39803f2f6af40f343267298b62d

/-- Σ t^i / i! for i = 0 … n − 1 counted from term `i` of value `term`, in units of 2^−192. -/
def expSum (t : Nat) : Nat → Nat → Nat → Nat
  | 0, _, _ => 0
  | n + 1, i, term => term + expSum t n (i + 1) (term * t / 2 ^ 192 / (i + 1))

/-- 2^f for a fraction f in units of 2^−192. -/
def exp2Fix (f : Nat) : Nat := expSum (f * ln2Fix / 2 ^ 192) 64 0 (2 ^ 192)

/-- Σ z^(2i+1) / (2i+1), in units of 2^−192. -/
def atanhSum (zz : Nat) : Nat → Nat → Nat → Nat
  | 0, _, _ => 0
  | n + 1, i, p => p / (2 * i + 1) + atanhSum zz n (i + 1) (p * zz / 2 ^ 192)

/-- log2 of y = m / 2^k in [1, 2), in units of 2^−192. -/
def log2Fix (m k : Nat) : Nat :=
  let z := (m - 2 ^ k) * 2 ^ 192 / (m + 2 ^ k)
  2 * atanhSum (z * z / 2 ^ 192) 64 0 z * 2 ^ 192 / ln2Fix

/-- A result within N units in the last place of a true magnitude that lies in [lo, lo + 1) units of 2^u, and is lo exactly when
`exact`: the choice among the values of that bound is open (R91, log entry 24). -/
def withinUlp (f : FltFmt) (pick N lo : Nat) (exact : Bool) (neg : Bool) (u : Int) : Num :=
  let from_ := if exact then lo - N else lo + 1 - N
  let m := from_ + pick % (lo + N + 1 - from_)
  if f.overflows m u then .inf neg else .fin neg m u

/-- exp2 in a format (R91). -/
def exp2In (f : FltFmt) (N pick : Nat) (x : Num) : Num :=
  match x with
  | .nan => .nan
  | .inf n => if n then .zero false else .inf false
  | .fin n m e =>
    if m == 0 then withinUlp f pick N (2 ^ f.mb) true false (-(f.mb : Int))
    else
      -- x in units of 2^−192, below 2^10 in magnitude where a finite result is possible
      if 10 < (Num.fin n m e).lead then
        (if n then withinUlp f pick N 0 false false (f.emin - f.mb) else .inf false)
      else
        let fx : Int := Num.atExp n (roundAt .rne m e (-192)) 0 0
        let i := fx / (2 ^ 192 : Nat)
        let fr := (fx % (2 ^ 192 : Nat)).toNat
        let v := exp2Fix fr
        let u := max (i - f.mb) (f.emin - f.mb)
        let lo := if u ≤ i - 192 then v * 2 ^ (i - 192 - u).toNat else v / 2 ^ (u - (i - 192)).toNat
        if i < f.emin - f.mb - 1 then withinUlp f pick N 0 false false (f.emin - f.mb)
        else withinUlp f pick N lo (fr == 0 && decide (f.emin - f.mb ≤ i)) false u

/-- log2 in a format (R91). -/
def log2In (f : FltFmt) (N pick : Nat) (x : Num) : Num :=
  match x with
  | .nan => .nan
  | .inf n => if n then .nan else .inf false
  | .fin n m e =>
    if m == 0 then .inf true
    else if n then .nan
    else
      let k := Nat.log2 m
      let fr := log2Fix m k
      let tot : Int := (e + k) * (2 ^ 192 : Nat) + fr
      let mag := tot.natAbs
      let u := ulpPlace f mag (-192)
      let lo := if u ≤ -192 then mag * 2 ^ (-192 - u).toNat else mag / 2 ^ (u + 192).toNat
      withinUlp f pick N lo (m == 2 ^ k) (decide (tot < 0)) u

/-- 1 / x in a format (R91). -/
def recipIn (f : FltFmt) (N pick : Nat) (x : Num) : Num :=
  match x with
  | .nan => .nan
  | .inf n => .zero n
  | .fin n m e =>
    if m == 0 then .inf n
    else
      let k := Nat.log2 m
      let l : Int := if m == 2 ^ k then -(e + k) else -(e + k) - 1
      let u := max (l - f.mb) (f.emin - f.mb)
      let sh := (-e - u)
      let lo := if 0 ≤ sh then 2 ^ sh.toNat / m else 0
      withinUlp f pick N lo (decide (0 ≤ sh) && 2 ^ sh.toNat % m == 0) n u

/-- 1 / √x in a format (R91). -/
def rsqrtIn (f : FltFmt) (N pick : Nat) (x : Num) : Num :=
  match x with
  | .nan => .nan
  | .inf n => if n then .nan else .zero false
  | .fin n m e =>
    if m == 0 then .inf n
    else if n then .nan
    else
      -- ⌊−(lead)/2⌋ bounds the leading place of the result from above by at most one
      let l := (-(e + Nat.log2 m)) / 2
      let u0 := max (l - f.mb) (f.emin - f.mb)
      let at_ (u : Int) : Nat := isqrt (2 ^ (-2 * u - e).toNat / m)
      let u := if at_ u0 < 2 ^ f.mb then max (u0 - 1) (f.emin - f.mb) else u0
      let lo := at_ u
      withinUlp f pick N lo (lo * lo * m == 2 ^ (-2 * u - e).toNat) false u

/-- a / b in a format, for the division of R110 (R91). -/
def divIn (f : FltFmt) (N pick : Nat) (a b : Num) : Num :=
  match a, b with
  | .nan, _ => .nan
  | _, .nan => .nan
  | .inf _, .inf _ => .nan
  | .inf x, .fin y _ _ => .inf (x != y)
  | .fin x _ _, .inf y => .zero (x != y)
  | .fin x m1 e1, .fin y m2 e2 =>
    if m2 == 0 then (if m1 == 0 then .nan else .inf (x != y))
    else if m1 == 0 then .zero (x != y)
    else
      let l0 : Int := e1 + Nat.log2 m1 - (e2 + Nat.log2 m2)
      let lt := decide (m1 * 2 ^ Nat.log2 m2 < m2 * 2 ^ Nat.log2 m1)
      let l := if lt then l0 - 1 else l0
      let u := max (l - f.mb) (f.emin - f.mb)
      let sh := e1 - e2 - u
      let num := if 0 ≤ sh then m1 * 2 ^ sh.toNat else m1
      let den := if 0 ≤ sh then m2 else m2 * 2 ^ (-sh).toNat
      withinUlp f pick N (num / den) (num % den == 0) (x != y) u

end Sys2Proof.Machine
end

