-- ==== Sys2Proof/Machine/Fp.lean ====
section
/-! DEFINITION. FP32 arithmetic in which every operation is rounded by rne32 (R319, R330), and sin, cos, atan2 and sqrt within
2 units in the last place (R319): the choice among the values of that bound is open (log entry 24). -/

namespace Sys2Proof.Machine

namespace Num

def fadd (x y : Num) : Num := rne32 (x.add y)
def fsub (x y : Num) : Num := rne32 (x.sub y)
def fmul (x y : Num) : Num := rne32 (x.mul y)

/-- The quotient rounded once, nearest even. -/
def fdiv (x y : Num) : Num :=
  match x, y with
  | .nan, _ => .nan
  | _, .nan => .nan
  | .inf _, .inf _ => .nan
  | .inf a, .fin b _ _ => .inf (a != b)
  | .fin a _ _, .inf b => .zero (a != b)
  | .fin n1 m1 e1, .fin n2 m2 e2 =>
    if m2 == 0 then (if m1 == 0 then .nan else .inf (n1 != n2))
    else if m1 == 0 then .zero (n1 != n2)
    else
      let k := 64 + Nat.log2 m2
      let q := m1 * 2 ^ k / m2
      rne32 (.fin (n1 != n2) (2 * q + b2n (m1 * 2 ^ k % m2 != 0)) (e1 - e2 - k - 1))

/-- x ≤ y, false where either is NaN. -/
def le (x y : Num) : Bool := x != .nan && y != .nan && !y.lt x

end Num

/-- The largest integer not above a finite value. -/
def floorNum : Num → Option Int
  | .fin n m e =>
    let v : Int := if n then -(m : Int) else m
    if 0 ≤ e then some (v * (2 ^ e.toNat : Nat)) else some (v / (2 ^ (-e).toNat : Nat))
  | _ => none

/-- FP32 value of an integer. -/
def numI (i : Int) : Num := rne32 (.ofInt i)

/-- π in units of 2^−512, rounded down. -/
def piFix : Nat := 0x3243f6a8885a308d313198a2e03707344a4093822299f31d0082efa98ec4e6c89452821e638d01377be5466cf34e90c6cc0ac29b7c97c50dd3f84d5b5b5470917

/-- A magnitude in units of 2^−512 as an FP32 value within 2 units in the last place. -/
def fixNear (pick mag : Nat) (neg : Bool) : Num :=
  let uu := ulpPlace fmtF32 mag (-512)
  let lo := if uu ≤ -512 then mag * 2 ^ (-512 - uu).toNat else mag / 2 ^ (uu + 512).toNat
  withinUlp fmtF32 pick 2 lo false neg uu

/-- Terms of the sine or cosine series after `term`, in units of 2^−512; `rr` is the square of the angle. -/
def trigSum (rr : Int) : Nat → Nat → Int → Int
  | 0, _, _ => 0
  | n + 1, i, term => term + trigSum rr n (i + 2) (-(term * rr / (2 ^ 512 : Nat)) / (((i + 1) * (i + 2) : Nat) : Int))

/-- A finite value in units of 2^−512. -/
def toFix (n : Bool) (m : Nat) (e : Int) : Int :=
  let v : Int := ((if 0 ≤ e + 512 then m * 2 ^ (e + 512).toNat else m / 2 ^ (-(e + 512)).toNat : Nat) : Int)
  if n then -v else v

/-- sin of the angle plus `q` right angles, as a signed magnitude in units of 2^−512. -/
def sinFix (ang : Int) (q : Int) : Int :=
  let h : Int := (piFix / 2 : Nat)
  let k := ang / h + q
  let r := ang % h
  let rr := r * r / (2 ^ 512 : Nat)
  let sn := trigSum rr 80 1 r
  let cs := trigSum rr 80 0 (2 ^ 512 : Nat)
  match (k % 4).toNat with
  | 0 => sn
  | 1 => cs
  | 2 => -sn
  | _ => -cs

/-- sin and cos within 2 ulp (R319). -/
def sinF (x : Num) : Num :=
  match x with
  | .fin n m e => if m == 0 then x else
    let v := sinFix (toFix n m e) 0
    fixNear (Config.ulpPick 0x31 0xD (f32Bits 0 x) 0) v.natAbs (decide (v < 0))
  | _ => .nan
def cosF (x : Num) : Num :=
  match x with
  | .fin n m e =>
    let v := sinFix (toFix n m e) 1
    fixNear (Config.ulpPick 0x32 0xD (f32Bits 0 x) 0) v.natAbs (decide (v < 0))
  | _ => .nan

/-- √x within 2 ulp (R319). -/
def sqrtF (x : Num) : Num :=
  match x with
  | .nan => .nan
  | .inf n => if n then .nan else .inf false
  | .fin n m e =>
    if m == 0 then x
    else if n then .nan
    else
      let par : Nat := (e % 2).toNat
      let ex : Int := (e - par) / 2 - 64
      let root := isqrt (m * 2 ^ (par + 128))
      let uu := ulpPlace fmtF32 root ex
      let lo := if uu ≤ ex then root * 2 ^ (ex - uu).toNat else root / 2 ^ (uu - ex).toNat
      withinUlp fmtF32 (Config.ulpPick 0x34 0xD (f32Bits 0 x) 0) 2 lo false false uu

/-- One halving of the angle of a tangent in units of 2^−512. -/
def halfTan (z : Nat) : Nat := z * 2 ^ 512 / (2 ^ 512 + isqrt (2 ^ 1024 + z * z))

/-- The arctangent of a value in [0, 1], in units of 2^−512. -/
def atanFix (z : Nat) : Nat :=
  let w := halfTan (halfTan (halfTan z))
  let ww : Int := (w * w / 2 ^ 512 : Nat)
  let rec go (n i : Nat) (p : Int) : Int :=
    match n with
    | 0 => 0
    | n + 1 => p / (i : Int) + go n (i + 2) (-(p * ww / (2 ^ 512 : Nat)))
  8 * (go 84 1 (w : Int)).toNat

/-- atan2(y, x) for y not negative, within 2 ulp (R319). -/
def atan2F (y x : Num) : Num :=
  match y, x with
  | .fin _ my ey, .fin nx mx ex =>
    let pick := Config.ulpPick 0x33 0xD (f32Bits 0 y) (f32Bits 0 x)
    if my == 0 then (if nx then fixNear pick piFix false else .zero false)
    else
      let b := min ey ex
      let ay := my * 2 ^ (ey - b).toNat
      let ax := mx * 2 ^ (ex - b).toNat
      let a := if ay ≤ ax then atanFix (ay * 2 ^ 512 / ax) else piFix / 2 - atanFix (ax * 2 ^ 512 / ay)
      fixNear pick (if nx then piFix - a else a) false
  | _, _ => .nan

end Sys2Proof.Machine
end

