-- ==== Sys2Proof/Machine/Units.lean ====
section
/-! DEFINITION. What the units of an engine share: the entry a task is at, verification of whole blocks read (R421), writes
with their check values (R417, R420, R556), ECC of the local store (R97), faults that end a task or strike an engine. -/

namespace Sys2Proof.Machine

/-- The task of a kind that runs on the unit port of engine `e` of die `t`. -/
def State.unitTask (s : State) (t e kind : Nat) : Option (TaskRun × TaskDesc) :=
  (s.unitRun? t e).bind fun r => (s.desc? r.graph r.task).bind fun d => if d.kind == kind then some (r, d) else none

/-- The bytes of the entry a task is at, read from the local store (R102, R127). -/
def State.entryBytes (s : State) (r : TaskRun) (d : TaskDesc) : List Byte :=
  let n := entrySize d.kind
  s.stGet r.die r.phys (d.listBlk * 256 + (if d.chained then 32 else 0) + r.pos * n) n

/-- The task goes on to its next entry. -/
def State.nextEntry (s : State) (k : Nat) : State :=
  match s.run? k with
  | none => s
  | some r => s.setRun { r with pos := r.pos + 1 }

/-- A task ends here, as its entry or a fault of it says, after the beats it ran and stalled. -/
def State.endHere (s : State) (k beats stalls : Nat) : State :=
  match s.run? k with
  | none => s
  | some r => if r.live then s.endRun r beats stalls else s

/-- A capture register of a unit (Tables 3.18, 4.7): code, position in the list, item. -/
def State.captureUnit (s : State) (a : Addr) (code pos item : Nat) : State :=
  s.capture a (bits code 5 0 + pos % 2 ^ 16 * 2 ^ 8 + item % 2 ^ 21 * 2 ^ 32)

/-- An entry ends the task: the event, its capture, outputs withheld (R69, R89, R106, R107, R119, R125). -/
def State.badEntry (s : State) (r : TaskRun) (o : UnitObs) (code : Nat) (a : Addr) (pos item : Nat) : State :=
  (((s.raiseTask code r).captureUnit a code pos item).withhold r.key).endHere r.key o.beats o.stall

/-- A checker of the unit fires: the event, its capture, outputs withheld, a strike (R86, R87, R114, R118, R126, R435). -/
def State.checkerFault (s : State) (r : TaskRun) (code : Nat) (a : Addr) (pos item : Nat) : State :=
  (((s.raiseTask code r).captureUnit a code pos item).withhold r.key).strikeTask r.key

/-- ECC of the local store during an entry (R97). -/
def State.storeEcc (s : State) (r : TaskRun) (o : UnitObs) : State :=
  let s1 := (List.range o.eccFix).foldl (fun s _ => s.raiseTask 0x1084 r) s
  let s2 := s1.count (Reg.ENG_CNT_ECC_count r.die r.phys) o.eccFix
  if o.eccBad then
    ((s2.raiseTask 0x2085 r).captureUnit (Reg.ENG_ERR r.die r.phys) 0x2085 r.pos 0).withhold r.key
  else s2

/-- Items are counted, and their event raised once per task (R80, R107, R111, R121, R123). -/
def State.countOnce (s : State) (r : TaskRun) (code : Nat) (f : Fld) (n : Nat) : State :=
  if n == 0 then s else (s.count f n).raiseOncePerTask code r.key

/-- Blocks that lie wholly within a range of bytes. -/
def wholeBlocks (off n : Nat) : List Nat :=
  let lo := ceilDiv off 256
  let hi := (off + n) / 256
  (List.range (hi - lo)).map (· + lo)

/-- A check value that fails at a unit (R421): raised, counted, captured, outputs withheld. The warp unit, which is no engine,
is captured as engine 31 (log entry 32). -/
def State.chkFail (s : State) (r : TaskRun) (code : Nat) : State :=
  ((s.raiseChk code (if r.exec < 32 then r.phys else 31) r).count (Reg.CHK_CNT_CV_FAIL_count r.die) 1).withhold r.key

/-- Blocks of which every byte lies in some of the ranges. -/
def fullBlocks (ranges : List (Nat × Nat)) : List Nat :=
  let touched := (ranges.flatMap fun x => (List.range ((x.1 + x.2 + 255) / 256 - x.1 / 256)).map (· + x.1 / 256)).foldl
    (fun (acc : List Nat) b => withOnce b acc) []
  touched.filter fun b => (List.range 256).all fun i => ranges.any fun x => x.1 ≤ b * 256 + i && b * 256 + i < x.1 + x.2

/-- Every local-store block whose 256 bytes are all read is verified (R421, R422). -/
def State.verify (s : State) (r : TaskRun) (ranges : List (Nat × Nat)) : State :=
  ((fullBlocks ranges).filter fun b => s.stErr r.die r.phys b != 0).foldl (fun s _ => s.chkFail r 0x25C2) s

/-- Blocks written whole receive a correct check value (R417). -/
def State.freshBlocks (s : State) (r : TaskRun) (off n : Nat) : State :=
  if s.isWithheld r.key then s
  else (wholeBlocks off n).foldl (fun s b => s.setStErr r.die r.phys b 0) s

/-- A unit writes bytes of its local store, unless its task's outputs are withheld (R556). -/
def State.unitWrite (s : State) (r : TaskRun) (off : Nat) (bs : List Byte) : State :=
  if s.isWithheld r.key then s else (s.stPut r.die r.phys off bs).freshBlocks r off bs.length

/-- Generators of output blocks disagree (R419, R420): 0x25C4, the block stored poisoned, outputs withheld. A task whose outputs are withheld
already stores nothing, the poisoned block neither (R556). -/
def State.poisonBlocks (s : State) (r : TaskRun) (off n : Nat) (gen : List Nat) : State :=
  let hit := (wholeBlocks off n).filter fun b => gen.contains b
  let mute := s.isWithheld r.key
  hit.foldl (fun s b =>
    let s1 := s.raiseChk 0x25C4 r.phys r
    if mute then s1 else (s1.setStErr r.die r.phys b 0xFFFFFFFF).withhold r.key) s

/-- A unit's accesses to memory in progress: the state, and what the accesses still to come will meet. -/
structure Io where
  s : State
  ecc : List Nat

/-- Bytes read at package addresses through the port of task `k`, block by block; an access that ends with an error brings
none, and its task is withheld. -/
def Io.get (x : Io) (k e a n : Nat) : Io × List Byte :=
  (pieces a n).foldl (fun (acc : Io × List Byte) p =>
    let (s1, o) := acc.1.s.portRead k e p.1 (nth 0 acc.1.ecc 0)
    let blk := match o with | some (b, _) => b | none => List.replicate 256 0
    ({ s := s1, ecc := acc.1.ecc.drop 1 }, acc.2 ++ (blk.drop (p.1 % 256)).take p.2)) (x, [])

/-- Bytes written at package addresses through the port of task `k`; a whole block gets a correct check value. -/
def Io.put (x : Io) (k e a : Nat) (bs : List Byte) : Io :=
  (pieces a bs.length).foldl (fun (x : Io) p =>
    { s := (x.s.portWrite k e p.1 ((bs.drop (p.1 - a)).take p.2) 0 (nth 0 x.ecc 0)).1, ecc := x.ecc.drop 1 }) x

/-- Bytes combined at package addresses through the port of task `k`: `f` takes an offset from `a` and the old bytes there. -/
def Io.combine (x : Io) (k e a n : Nat) (f : Nat → List Byte → List Byte) : Io :=
  (pieces a n).foldl (fun (x : Io) p =>
    { s := x.s.portCombine k e p.1 p.2 (f (p.1 - a)) (nth 0 x.ecc 0), ecc := x.ecc.drop 1 }) x

/-- Does a range of bytes lie inside the local store? -/
def inStore (off n : Nat) : Bool := decide (off + n ≤ storeSize)

/-- Do two ranges overlap? -/
def overlap (a b : Nat × Nat) : Bool := decide (a.1 < b.1 + b.2 ∧ b.1 < a.1 + a.2)

/-- Are any two of a list of ranges overlapping? -/
def anyOverlap : List (Nat × Nat) → Bool
  | [] => false
  | r :: rs => rs.any (overlap r) || anyOverlap rs

/-- 32-bit words of bytes. -/
def words32 (bs : List Byte) : Nat → List Nat
  | 0 => []
  | n + 1 => leNat (bs.take 4) :: words32 (bs.drop 4) n

/-- Bytes of 32-bit words. -/
def words32Bytes (ws : List Nat) : List Byte := ws.flatMap fun w => leBytes 4 w

/-- min (op 5) or max (op 6) of two values: NaN if either is; the choice between zeros of unlike sign is open (log entry 25). -/
def minmax (op fmt ba bb : Nat) (a b : Num) : Num :=
  if a == .nan || b == .nan then .nan
  else if a.isZero && b.isZero && a.isNeg != b.isNeg then (if Config.zeroPick op fmt ba bb then a else b)
  else if op == 5 then (if b.lt a then b else a) else (if a.lt b then b else a)

/-- One element combined with another (R108): sub 1 add, 2 max, 3 min, in a format; `nb` serves a NaN result. -/
def combineElem (fmt sub nb a b : Nat) : Nat :=
  if fmt == 0xC then
    let x := sx 32 a
    let y := sx 32 b
    unsx 32 (if sub == 1 then x + y else if sub == 2 then max x y else min x y)
  else
    let x := decElem fmt a
    let y := decElem fmt b
    let v := if sub == 1 then x.add y else minmax (if sub == 2 then 6 else 5) fmt a b x y
    (narrow fmt false .rne v).enc fmt nb

/-- Elements in a 4-byte word of a format: two of FP16 and BF16 (R108). -/
def lanes (fmt : Nat) : Nat := if fmt == 0xA || fmt == 0xB then 2 else 1

/-- One 4-byte word combined with another; `nb` serves a NaN result of each lane. -/
def combineWord (fmt sub : Nat) (nb : Nat → Nat) (a b : Nat) : Nat :=
  if lanes fmt == 2 then
    combineElem fmt sub (nb 0) (a % 2 ^ 16) (b % 2 ^ 16) + combineElem fmt sub (nb 1) (a / 2 ^ 16) (b / 2 ^ 16) * 2 ^ 16
  else combineElem fmt sub (nb 0) a b

end Sys2Proof.Machine
end

