-- ==== Sys2Proof/Machine/Fus.lean ====
section
/-! DEFINITION. Calibration and the ego grid (R312–R319): records and their checks, banks, rays and projections, fusion
sections. -/

namespace Sys2Proof.Machine

/-- A calibration record (Table 11.2). -/
structure Cal where
  e : List Num
  model : Nat
  nCoef : Nat
  tOff : Int
  fx : Num
  fy : Num
  cx : Num
  cy : Num
  k : List Num
  w : Nat
  h : Nat
  resv : Bool
deriving DecidableEq, Repr

def readCal (b : List Byte) : Cal :=
  let f (o : Nat) : Num := f32Of (u b o 4)
  { e := (List.range 16).map fun i => f (4 * i), model := u b 0x40 1, nCoef := u b 0x41 1, tOff := sx 32 (u b 0x44 4),
    fx := f 0x48, fy := f 0x4C, cx := f 0x50, cy := f 0x54, k := (List.range 6).map fun i => f (0x58 + 4 * i),
    w := u b 0x70 2, h := u b 0x72 2, resv := u b 0x42 2 != 0 || (sliceB b 0x74 12).any (· != 0) }

/-- Element (i, j) of a 4 × 4 matrix. -/
def m4 (e : List Num) (i j : Nat) : Num := nth .nan e (4 * i + j)

/-- Does a record with model 1–3 pass the checks of R312? -/
def Cal.ok (c : Cal) : Bool :=
  let rr (i j : Nat) : Num := (List.range 3).foldl (fun a k => a.add ((m4 c.e i k).mul (m4 c.e j k))) (.zero false)
  let orth := (List.range 3).all fun i => (List.range 3).all fun j =>
    ((rr i j).sub (.ofInt (if i == j then 1 else 0))).abs.le (.fin false 1 (-10))
  let pos (x : Num) : Bool := !x.isZero && !x.isNeg
  let bottom := (m4 c.e 3 0).isZero && (m4 c.e 3 1).isZero && (m4 c.e 3 2).isZero
    && ((m4 c.e 3 3).sub (.fin false 1 0)).isZero
  bottom && (c.e ++ [c.fx, c.fy, c.cx, c.cy] ++ c.k).all (·.isFin) && orth && decide (c.nCoef ≤ 6)
    && (c.model == 3 || (pos c.fx && pos c.fy && c.w != 0 && c.h != 0)) && !c.resv

/-- The calibration record of sensor `n` in a bank. -/
def State.calBytes (s : State) (bank n : Nat) : List Byte :=
  let reg := if bank == s.fget Reg.FUS_CAL_STATUS_bank then Reg.FUS_CAL_ACT n else Reg.FUS_CAL_NEXT n
  (List.range 16).flatMap fun j => leBytes 8 (s.rd (reg j)).toNat

/-- The record of sensor `n` in the bank in force. -/
def State.calOf (s : State) (n : Nat) : Cal := readCal (s.calBytes (s.fget Reg.FUS_CAL_STATUS_bank) n)

/-- Measurement time of a capture stamp (R314). -/
def State.measTime (s : State) (n : Nat) (stamp : Time) : Time :=
  (((stamp : Int) + (s.calOf n).tOff) % ((2 ^ 64 : Nat) : Int)).toNat

/-- FUS_ERR captures the first class C2 or C4 event of its block (R340). -/
def State.captureFus (s : State) (code sensor : Nat) : State :=
  s.capture Reg.FUS_ERR (bits code 5 0 + sensor % 64 * 2 ^ 6)

/-- The first sensor whose record in the next bank fails (R312). -/
def State.badNext (s : State) : Option Nat :=
  let next := 1 - s.fget Reg.FUS_CAL_STATUS_bank
  (List.range 64).find? fun n =>
    let c := readCal (s.calBytes next n)
    decide (3 < c.model) || (c.model != 0 && !c.ok)

/-- The calibration banks are switched at an instant boundary, when that was requested (R312). -/
def State.calSwitch (s : State) : State :=
  if !s.flag Reg.FUS_CAL_STATUS_swap_pending then s
  else
    let s1 := (s.fset Reg.FUS_CAL_STATUS_swap_pending 0).fset Reg.FUS_CAL_CTRL_swap 0
    match s1.badNext with
    | some n => ((s1.raise 0x23C2 oHub uNone (detSensor n)).count Reg.FUS_CNT_REFUSED_count 1).captureFus 0x23C2 n
    | none =>
      let s2 := (List.range 64).foldl (fun s n => (List.range 16).foldl (fun s j =>
        let a := s.rd (Reg.FUS_CAL_ACT n j)
        let b := s.rd (Reg.FUS_CAL_NEXT n j)
        (s.wr (Reg.FUS_CAL_ACT n j) b).wr (Reg.FUS_CAL_NEXT n j) a) s) s1
      let s3 := s2.fset Reg.FUS_CAL_STATUS_bank (1 - s2.fget Reg.FUS_CAL_STATUS_bank)
      (s3.raise 0x03C1 oHub uNone 0).count Reg.FUS_CNT_SWITCH_count 1

/-- A WARP task that started on the bank now next is still running (R313). -/
def State.nextBusy (s : State) : Bool :=
  s.allRuns.any fun r => r.exec == 32 && r.st == .running && r.bank != s.fget Reg.FUS_CAL_STATUS_bank

/-- A word of the next bank is written. -/
def State.putCal (s : State) (n w v : Nat) : State :=
  let a := Reg.FUS_CAL_NEXT n (w / 2)
  s.wr a (wput (s.rd a) (32 * (w % 2) + 31) (32 * (w % 2)) v)

/-- A write to FUS_CAL_NEXT: applied, or held (R313). -/
def State.calWrite (s : State) (n w v : Nat) : State :=
  if s.nextBusy || !s.fus.held.isEmpty then
    { s with fus := { s.fus with held := s.fus.held ++ [(n, w, v)] } }.fset Reg.FUS_CAL_STATUS_held 1
  else s.putCal n w v

/-- CAL_NEXT_WRITE (R313): 32-bit word `w` of sensor `n`'s record in the next bank is written. -/
def execCalNextWrite (n w v : Nat) (s : State) : Host.Outcome State Fault Refusal :=
  if n < 64 && w < 32 then .next (s.calWrite n w v) else .next s

/-- CAL_NEXT_WRITE_APPLY (R313): the last WARP task on the bank has ended and the held writes are applied in order. -/
def execCalNextWriteApply (s : State) : Host.Outcome State Fault Refusal :=
  if s.fus.held.isEmpty || s.nextBusy then .next s
  else
    let s1 := s.fus.held.foldl (fun s x => s.putCal x.1 x.2.1 x.2.2) s
    .next ({ s1 with fus := { s1.fus with held := [] } }.fset Reg.FUS_CAL_STATUS_held 0)

/-- A write of FUS_CAL_CTRL: 1 in swap requests a switch (R312). -/
def State.swapWrite (s : State) (v : Nat) : State :=
  if bit v 0 then (s.fset Reg.FUS_CAL_CTRL_swap 1).fset Reg.FUS_CAL_STATUS_swap_pending 1 else s

/-- CAL_SWAP_REQUEST (R312): software writes 1 to FUS_CAL_CTRL.swap. -/
def execCalSwapRequest (s : State) : Host.Outcome State Fault Refusal := .next (s.swapWrite 1)

/-- poly(t) of R319, in the order it is written (log entry 31). -/
def Cal.poly (c : Cal) (t : Num) : Num :=
  ((List.range (min 6 c.nCoef)).foldl (fun (a : Num × Num) i =>
    let p := if i == 0 then t else a.2.fmul t
    (a.1.fadd ((nth .nan c.k i).fmul p), p)) (numI 1, numI 1)).1

/-- 1 + Σ (2i + 3) × k[i] × th^(2i + 2) (R319). -/
def Cal.polyDeriv (c : Cal) (th : Num) : Num :=
  let t2 := th.fmul th
  ((List.range (min 6 c.nCoef)).foldl (fun (a : Num × Num) i =>
    let p := if i == 0 then t2 else (a.2.fmul th).fmul th
    (a.1.fadd (((numI (2 * i + 3 : Nat)).fmul (nth .nan c.k i)).fmul p), p)) (numI 1, numI 1)).1

/-- 1.92 rad and 0.1 m of R319 as FP32 values: no FP32 value lies between either and its decimal. -/
def thMax : Num := f32Of 0x3FF5C28F
def zNear : Num := f32Of 0x3DCCCCCD

/-- x² + y². -/
def sumSq (x y : Num) : Num := (x.fmul x).fadd (y.fmul y)

/-- Repeats a function `n` times. -/
def iter {α : Type} (f : α → α) : Nat → α → α
  | 0, a => a
  | n + 1, a => iter f n (f a)

/-- An image point as a ray of the sensor frame (R319). -/
def Cal.unproject (c : Cal) (uu vv : Num) : Option (Num × Num × Num) :=
  let xd := (uu.fsub c.cx).fdiv c.fx
  let yd := (vv.fsub c.cy).fdiv c.fy
  if c.model == 1 then
    let p := iter (fun (p : Num × Num) =>
      let d := c.poly (sumSq p.1 p.2)
      (xd.fdiv d, yd.fdiv d)) 8 (xd, yd)
    let d := c.poly (sumSq p.1 p.2)
    if d.isFin && !d.isZero && !d.isNeg && p.1.isFin && p.2.isFin then some (p.1, p.2, numI 1) else none
  else
    let rho := sqrtF (sumSq xd yd)
    let th := iter (fun (th : Num) =>
      let g := (th.fmul (c.poly (th.fmul th))).fsub rho
      th.fsub (g.fdiv (c.polyDeriv th))) 8 rho
    if !((Num.zero false).le th && th.le thMax) then none
    else if rho.isZero then some (.zero false, .zero false, numI 1)
    else
      let sn := sinF th
      some ((sn.fmul xd).fdiv rho, (sn.fmul yd).fdiv rho, cosF th)

/-- A point of the sensor frame as an image point (R319); it must lie in the image. -/
def Cal.project (c : Cal) (p : Num × Num × Num) : Option (Num × Num) :=
  let uv : Option (Num × Num) :=
    if c.model == 1 then
      if p.2.2.lt zNear || p.2.2 == .nan then none
      else
        let x := p.1.fdiv p.2.2
        let y := p.2.1.fdiv p.2.2
        let d := c.poly (sumSq x y)
        some (((c.fx.fmul x).fmul d).fadd c.cx, ((c.fy.fmul y).fmul d).fadd c.cy)
    else
      let rr := sqrtF (sumSq p.1 p.2.1)
      let th := atan2F rr p.2.2
      if !th.le thMax then none
      else
        let rho := th.fmul (c.poly (th.fmul th))
        if rr.isZero then some (c.cx, c.cy)
        else some ((((c.fx.fmul rho).fmul p.1).fdiv rr).fadd c.cx, (((c.fy.fmul rho).fmul p.2.1).fdiv rr).fadd c.cy)
  match uv with
  | some (a, b) =>
    if (Num.zero false).le a && a.lt (.ofInt c.w) && (Num.zero false).le b && b.lt (.ofInt c.h) then some (a, b) else none
  | none => none

/-- A sensor-frame point in the ego frame: E times (x, y, z, 1), rows summed in ascending order. -/
def Cal.toEgo (c : Cal) (x y z : Num) : Num × Num × Num :=
  let row (i : Nat) : Num :=
    ((((m4 c.e i 0).fmul x).fadd ((m4 c.e i 1).fmul y)).fadd ((m4 c.e i 2).fmul z)).fadd (m4 c.e i 3)
  (row 0, row 1, row 2)

/-- The rigid inverse of E (R312) applied to an ego point. -/
def Cal.toSensor (c : Cal) (x y z : Num) : Num × Num × Num :=
  let row (i : Nat) : Num :=
    let t := ((((m4 c.e 0 i).fmul (m4 c.e 0 3)).fadd ((m4 c.e 1 i).fmul (m4 c.e 1 3))).fadd
      ((m4 c.e 2 i).fmul (m4 c.e 2 3))).neg
    ((((m4 c.e 0 i).fmul x).fadd ((m4 c.e 1 i).fmul y)).fadd ((m4 c.e 2 i).fmul z)).fadd t
  (row 0, row 1, row 2)

/-- A fusion section read from its bytes (Table 11.3). -/
def readFus (b : List Byte) : FusSec :=
  { planId := u b 4 4, nx := u b 8 2, ny := u b 0xA 2, c := u b 0xC 2, fmt := u b 0xE 1, cell := u b 0x10 4,
    gx0 := u b 0x14 4, gy0 := u b 0x18 4, zmin := u b 0x1C 4, zmax := u b 0x20 4,
    owner := (List.range 256).map fun i => u b (0x40 + i) 1,
    slab := (List.range 8).map fun t => u b (0x140 + 8 * t) 8,
    headOk := u b 0 4 == 0x5355464F && u b 0xF 1 == 0 && (sliceB b 0x24 28).all (· == 0) }

/-- Cell edge: 0.0 selects 0.2 (Table 11.3). -/
def FusSec.edge (f : FusSec) : Num := if (f32Of f.cell).isZero then f32Of 0x3E4CCCCD else f32Of f.cell

/-- Tiles of the grid. -/
def FusSec.tiles (f : FusSec) : Nat := (f.nx / 32) * (f.ny / 32)

/-- Bytes of an element of a grid or feature format, and of a cell (R316). -/
def elemSize (fmt : Nat) : Nat := if fmt == 0xD then 4 else 2
def FusSec.cp (f : FusSec) : Nat := ceilDiv (f.c * elemSize f.fmt) 64 * 64

/-- Tiles that die `t` owns, ascending. -/
def FusSec.owned (f : FusSec) (t : Nat) : List Nat := (List.range f.tiles).filter fun k => nth 0xFF f.owner k == t

/-- Slab address of a die. -/
def FusSec.slabOf (f : FusSec) (t : Nat) : Nat := nth 0 f.slab t % 2 ^ 48

/-- Where tile `k` of die `t` lies (R316). -/
def FusSec.tileAt (f : FusSec) (t k : Nat) : Nat := f.slabOf t + (f.owned t).idxOf k * 1024 * f.cp

/-- Is a fusion section valid for its plan (R317)? -/
def FusSec.ok (c : PartCfg) (p : Plan) (f : FusSec) : Bool :=
  let cell := f32Of f.cell
  let dim (n : Nat) : Bool := n % 32 == 0 && decide (32 ≤ n ∧ n ≤ 512)
  let slabOk (t : Nat) : Bool :=
    let n := (f.owned t).length * 1024 * f.cp
    let a := f.slabOf t
    n == 0 || (a % 256 == 0 &&
      (decide (t * 0x000800000000 ≤ a ∧ a + n ≤ t * 0x000800000000 + c.nearTop t)
        || decide (0x008000000000 + t * 0x10000000 ≤ a ∧ a + n ≤ 0x008000000000 + t * 0x10000000 + 0x08000000)))
  f.headOk && f.planId == p.planId && dim f.nx && dim f.ny && decide (1 ≤ f.c ∧ f.c ≤ 256)
    && (f.fmt == 0xA || f.fmt == 0xB || f.fmt == 0xD)
    && (cell.isZero || ((f32Of 0x3D4CCCCD).le cell && cell.le (.ofInt 2)))
    && [f.gx0, f.gy0, f.zmin, f.zmax].all (fun x => (f32Of x).isFin)
    && (List.range 256).all (fun k =>
      let o := nth 0xFF f.owner k
      if k < f.tiles then decide (o < c.tzCount) && !(p.kind == 1 && o == p.lostDie) else o == 0xFF)
    && f.slab.all (fun a => decide (a < 2 ^ 48)) && (List.range 8).all slabOk

/-- The cell that holds a point of the ego frame (R315). -/
def FusSec.cellOf (f : FusSec) (p : Num × Num × Num) : Option (Nat × Nat) :=
  match floorNum ((p.1.fsub (f32Of f.gx0)).fdiv f.edge), floorNum ((p.2.1.fsub (f32Of f.gy0)).fdiv f.edge) with
  | some ix, some iy =>
    if 0 ≤ ix ∧ ix < f.nx ∧ 0 ≤ iy ∧ iy < f.ny then
      if (f32Of f.zmin).le p.2.2 && p.2.2.le (f32Of f.zmax) then some (ix.toNat, iy.toNat) else none
    else none
  | _, _ => none

/-- Tile number of a cell, and its place in the tile (R315, R316). -/
def FusSec.tileOf (f : FusSec) (c : Nat × Nat) : Nat := c.2 / 32 * (f.nx / 32) + c.1 / 32
def cellInTile (c : Nat × Nat) : Nat := c.2 % 32 * 32 + c.1 % 32

/-- Centre of a cell (R315). -/
def FusSec.centre (f : FusSec) (c : Nat × Nat) : Num × Num :=
  let mid (g i : Nat) : Num := (f32Of g).fadd ((rne32 (.fin false (2 * i + 1) (-1))).fmul f.edge)
  (mid f.gx0 c.1, mid f.gy0 c.2)

end Sys2Proof.Machine
end

