-- ==== Sys2Proof/Machine/Pre.lean ====
section
/-! DEFINITION. The pre-processing pipeline (R285–R293): profiles, the stages of Table 10.1, output descriptors. -/

namespace Sys2Proof.Machine

/-- A profile record (Table 10.2). -/
structure Profile where
  input : Nat
  phase : Nat
  nCrop : Nat
  box : Bool
  chw : Bool
  nCh : Nat
  lut : Nat
  fmt : Nat
  inW : Nat
  inH : Nat
  ow : Nat
  oh : Nat
  bl : List Nat
  wb : List Nat
  m : List Int
  o : List Int
  mean : List Num
  inv : List Num
  q : Num
  crops : List (Nat × Nat × Nat × Nat)
  resv : Bool

/-- The 32 words of profile `n` in force. -/
def State.profWords (s : State) (n : Nat) : List Nat := (List.range 32).map fun j => (s.rd (Reg.PRE_PROFILE n j)).toNat

def readProfile (ws : List Nat) : Profile :=
  let b := ws.flatMap fun w => leBytes 8 w
  let f (o : Nat) : Num := f32Of (u b o 4)
  { input := u b 0 1, phase := u b 1 1, nCrop := u b 2 1, box := bit (u b 3 1) 0, chw := bit (u b 3 1) 1,
    nCh := bits (u b 3 1) 3 2, lut := bits (u b 3 1) 5 4, fmt := u b 4 1, inW := u b 8 2, inH := u b 0xA 2,
    ow := u b 0xC 2, oh := u b 0xE 2, bl := (List.range 4).map fun i => u b (0x10 + 2 * i) 2,
    wb := (List.range 4).map fun i => u b (0x18 + 2 * i) 2, m := (List.range 9).map fun i => sx 16 (u b (0x20 + 2 * i) 2),
    o := (List.range 3).map fun i => sx 16 (u b (0x32 + 2 * i) 2), mean := (List.range 3).map fun i => f (0x38 + 4 * i),
    inv := (List.range 3).map fun i => f (0x44 + 4 * i), q := f 0x50,
    crops := (List.range 8).map fun i =>
      (u b (0x58 + 8 * i) 2, u b (0x5A + 8 * i) 2, u b (0x5C + 8 * i) 2, u b (0x5E + 8 * i) 2),
    resv := bits (u b 3 1) 7 6 != 0 || u b 5 3 != 0 || u b 0x54 4 != 0 || (sliceB b 0x98 104).any (· != 0)
      || decide (3 < u b 1 1) }

/-- Bytes of one element of a profile's output format. -/
def Profile.elem (p : Profile) : Nat := if p.fmt == 0xA then 2 else 1

/-- Bytes of one tensor, padded (R288, R292). -/
def Profile.tensor (p : Profile) : Nat := roundUp (p.ow * p.oh * p.nCh * p.elem) 256

/-- Is a profile valid for a source that gives an output at most `room` bytes, with `n` crops at most (R291)? -/
def Profile.ok (p : Profile) (live : Bool) (n room : Nat) : Bool :=
  let within (lo hi x : Nat) : Bool := decide (lo ≤ x ∧ x ≤ hi)
  (if live then p.input == 0 || p.input == 1 else p.input == 2 || p.input == 3) && within 1 8 p.nCrop && within 1 3 p.nCh
    && (p.fmt == 0 || p.fmt == 2 || p.fmt == 3 || p.fmt == 0xA) && within 64 8192 p.inW && within 64 8704 p.inH
    && within 16 4096 p.ow && within 16 4096 p.oh && (p.inv ++ [p.q]).all (·.isFin) && !p.resv
    && ((p.crops.take p.nCrop).all fun c => decide (64 ≤ c.2.2.1 ∧ 64 ≤ c.2.2.2 ∧ c.1 + c.2.2.1 ≤ p.inW ∧ c.2.1 + c.2.2.2 ≤ p.inH))
    && decide (256 + n * p.tensor ≤ room)

/-- Saturation to u16. -/
def sat16 (i : Int) : Nat := (clampI 0 65535 i).toNat

/-- Bits of a pixel of a CSI-2 data type (Table 9.3). -/
def rawBits (dt : Nat) : Nat := if dt == 0x2B then 10 else if dt == 0x2C then 12 else 16

/-- Pixel `x` of a line of packed RAW data, as CSI-2 packs them: RAW10 in groups of five bytes, RAW12 of three, the low bits in
the last byte (PRESUMED: MIPI CSI-2, log entry 41); RAW16 in two bytes, low byte first. -/
def rawPixel (dt : Nat) (line : List Byte) (x : Nat) : Nat :=
  let by_ (i : Nat) : Nat := u line i 1
  if dt == 0x2B then by_ (x / 4 * 5 + x % 4) * 4 + by_ (x / 4 * 5 + 4) / 2 ^ (2 * (x % 4)) % 4
  else if dt == 0x2C then by_ (x / 2 * 3 + x % 2) * 16 + by_ (x / 2 * 3 + 2) / 2 ^ (4 * (x % 2)) % 16
  else by_ (2 * x) + 256 * by_ (2 * x + 1)

/-- Bytes of a line of packed pixels. -/
def lineBytes (dt w : Nat) : Nat := (w * rawBits dt + 7) / 8

/-- A picture between stages: width, height and a value for each pixel and channel. -/
structure Img where
  w : Nat
  h : Nat
  at_ : Nat → Nat → Nat → Nat

/-- Stage 1 (Table 10.1). -/
def unpack (dt w : Nat) (data : List Byte) (x y : Nat) : Nat :=
  rawPixel dt (sliceB data (y * lineBytes dt w) (lineBytes dt w)) x * 2 ^ (16 - rawBits dt)

/-- Stage 2: black level and white balance of the CFA position. -/
def Profile.balance (p : Profile) (raw : Nat → Nat → Nat) (x y : Nat) : Nat :=
  let c := (y + b2n (bit p.phase 1)) % 2 * 2 + (x + b2n (bit p.phase 0)) % 2
  sat16 (((max ((raw x y : Int) - (nth 0 p.bl c : Nat)) 0) * (nth 0 p.wb c : Nat) + 2048) / 4096)

/-- A coordinate mirrored about the outermost pixel. -/
def mirror (n : Nat) (i : Int) : Nat :=
  let j := if i < 0 then -i else i
  (if (n : Int) - 1 < j then 2 * ((n : Int) - 1) - j else j).toNat

/-- Twice the weights of the kernels of Malvar, He and Cutler (PRESUMED, log entry 42): green at red or blue; red at green in a
red row (its transpose in a blue row); red at blue. -/
def kernG : List Int := [0, 0, -2, 0, 0, 0, 0, 4, 0, 0, -2, 4, 8, 4, -2, 0, 0, 4, 0, 0, 0, 0, -2, 0, 0]
def kernRow : List Int := [0, 0, 1, 0, 0, 0, -2, 0, -2, 0, -2, 8, 10, 8, -2, 0, -2, 0, -2, 0, 0, 0, 1, 0, 0]
def kernDiag : List Int := [0, 0, -3, 0, 0, 0, 4, 0, 4, 0, -3, 0, 12, 0, -3, 0, 4, 0, 4, 0, 0, 0, -3, 0, 0]

/-- A kernel applied at a pixel: (Σ + 4) >> 3, saturated. -/
def applyKern (k : List Int) (flip : Bool) (w h : Nat) (v : Nat → Nat → Nat) (x y : Nat) : Nat :=
  let sum := (List.range 25).foldl (fun (a : Int) i =>
    let wt := nth 0 k (if flip then i % 5 * 5 + i / 5 else i)
    a + wt * (v (mirror w ((x : Int) + (i % 5 : Nat) - 2)) (mirror h ((y : Int) + (i / 5 : Nat) - 2)) : Nat)) 0
  sat16 ((sum + 8) / 16)

/-- Stage 3: R, G (or C) and B of a pixel. -/
def Profile.demosaic (p : Profile) (v : Nat → Nat → Nat) (x y ch : Nat) : Nat :=
  let c := (y + b2n (bit p.phase 1)) % 2 * 2 + (x + b2n (bit p.phase 0)) % 2
  let k (kern : List Int) (flip : Bool) : Nat := applyKern kern flip p.inW p.inH v x y
  match ch, c with
  | 0, 0 => v x y
  | 0, 1 => k kernRow false
  | 0, 2 => k kernRow true
  | 0, _ => k kernDiag false
  | 1, 0 => k kernG false
  | 1, 3 => k kernG false
  | 1, _ => v x y
  | _, 3 => v x y
  | _, 1 => k kernRow true
  | _, 2 => k kernRow false
  | _, _ => k kernDiag false

/-- Tone point `k` of a channel's LUT (Table 10.7). -/
def State.tone (s : State) (l c k : Nat) : Nat :=
  if 1024 ≤ k then 65535 else bits (s.rd (Reg.PRE_LUT l c (k / 4))).toNat (16 * (k % 4) + 15) (16 * (k % 4))

/-- Stage 4: colour matrix, offset, tone curve. -/
def Profile.colour (p : Profile) (s : State) (img : Nat → Nat → Nat → Nat) (x y ch : Nat) : Nat :=
  let dot := (List.range 3).foldl (fun (a : Int) j => a + nth 0 p.m (3 * ch + j) * (img x y j : Nat)) 0
  let v := sat16 ((sat16 ((dot + 2048) / 4096) : Int) + nth 0 p.o ch)
  let k := v / 64
  let lo : Int := s.tone p.lut ch k
  let hi : Int := s.tone p.lut ch (k + 1)
  sat16 (lo + ((hi - lo) * (v % 64 : Nat) + 32) / 64)

/-- Bilinear sample of a plane with the source coordinate (d + 0.5) × w ÷ ow − 0.5 in 16.16 fixed point, clamped; the products are
summed and rounded half up once. -/
def bilinear (x0 y0 w h ow oh : Nat) (f : Nat → Nat → Nat) (dx dy : Nat) : Nat :=
  let pos (n on d : Nat) : Nat := (clampI 0 ((n - 1) * 65536 : Nat) (((2 * d + 1) * n * 65536 / (2 * on) : Nat) - 32768)).toNat
  let px := pos w ow dx
  let py := pos h oh dy
  let xa := px / 65536
  let ya := py / 65536
  let xb := min (w - 1) (xa + 1)
  let yb := min (h - 1) (ya + 1)
  let fx := px % 65536
  let fy := py % 65536
  let g (x y : Nat) : Nat := f (x0 + x) (y0 + y)
  ((g xa ya * (65536 - fx) + g xb ya * fx) * (65536 - fy) + (g xa yb * (65536 - fx) + g xb yb * fx) * fy + 2 ^ 31) / 2 ^ 32

/-- Mean of the input pixels whose centres lie in the output pixel, rounded half up; with none the value is open (log entry 43). -/
def boxMean (n x0 y0 w h ow oh : Nat) (f : Nat → Nat → Nat) (dx dy : Nat) : Nat :=
  let inside (sz on d : Nat) : List Nat :=
    (List.range sz).filter fun i => decide (2 * d * sz ≤ (2 * i + 1) * on ∧ (2 * i + 1) * on < 2 * (d + 1) * sz)
  let xs := inside w ow dx
  let ys := inside h oh dy
  let c := xs.length * ys.length
  if c == 0 then (Config.hazyByte n (2 * (dy * ow + dx))).toNat + 256 * (Config.hazyByte n (2 * (dy * ow + dx) + 1)).toNat
  else
    let sum := ys.foldl (fun a y => xs.foldl (fun a x => a + f (x0 + x) (y0 + y)) a) 0
    (2 * sum + c) / (2 * c)

/-- Stage 5: one channel of one output pixel of a crop. -/
def Profile.resize (p : Profile) (n : Nat) (c : Nat × Nat × Nat × Nat) (f : Nat → Nat → Nat) (dx dy : Nat) : Nat :=
  let g (x y : Nat) : Nat := f (min x (p.inW - 1)) (min y (p.inH - 1))
  if p.box then boxMean n c.1 c.2.1 c.2.2.1 c.2.2.2 p.ow p.oh g dx dy
  else bilinear c.1 c.2.1 c.2.2.1 c.2.2.2 p.ow p.oh g dx dy

/-- Stages 6 and 7: the element's bits and whether it saturated. -/
def Profile.element (p : Profile) (v ch nb : Nat) : Nat × Bool :=
  let y := (((numI (v : Nat)).fdiv (.ofInt 65535)).fsub (nth .nan p.mean ch)).fmul (nth .nan p.inv ch)
  let r := if p.fmt == 0 then narrow 0 true .rne (y.fmul p.q) else narrow p.fmt true .rne y
  (r.enc p.fmt nb, r.sat)

/-- One crop's tensor (R292) and its count of saturated elements. -/
def Profile.tensorOf (p : Profile) (n : Nat) (img : Nat → Nat → Nat → Nat) (c : Nat × Nat × Nat × Nat) : List Byte × Nat :=
  let px := p.ow * p.oh
  let el (i : Nat) : Nat × Bool :=
    let (xy, ch) := if p.chw then (i % px, i / px) else (i / p.nCh, i % p.nCh)
    p.element (p.resize n c (fun x y => img x y ch) (xy % p.ow) (xy / p.ow)) ch (Config.nanCode n i p.fmt)
  let es := (List.range (px * p.nCh)).map el
  let bs := es.flatMap fun e => leBytes p.elem e.1
  (bs ++ List.replicate (p.tensor - bs.length) 0, (es.filter (·.2)).length)

/-- An output descriptor (Table 10.3). -/
def descriptor (p : Profile) (flags capture source id view ref base : Nat) (crops : List (Nat × Nat × Nat × Nat)) : List Byte :=
  let one (i : Nat) : List Byte := match crops[i]? with
    | some (x, y, w, h) => leBytes 8 (base + 256 + i * p.tensor) ++ leBytes 2 x ++ leBytes 2 y ++ leBytes 2 w ++ leBytes 2 h
    | none => leBytes 16 0
  leBytes 8 capture ++ leBytes 1 source ++ leBytes 1 id ++ leBytes 1 view ++ leBytes 1 crops.length ++ leBytes 1 p.fmt
    ++ leBytes 1 flags ++ leBytes 2 0 ++ leBytes 2 p.ow ++ leBytes 2 p.oh ++ leBytes 4 p.tensor ++ leBytes 8 ref ++ leBytes 32 0
    ++ ((List.range 8).flatMap one) ++ leBytes 64 0

/-- A PRE event; class C2 is captured (R307). -/
def State.preEvent (s : State) (code : Nat) (decoded : Bool) (id view : Nat) : State :=
  let s1 := s.raise code oHub 0x12 (if decoded then detStream id view else detSensor id)
  if codeClass code == 2 then
    s1.capture Reg.PRE_ERR (bits code 5 0 + b2n decoded * 2 ^ 6 + id % 64 * 2 ^ 7 + view % 8 * 2 ^ 13)
  else s1

/-- The pipeline makes the output of a picture: its bytes, descriptor and tensors (R292, R293), and what the picture counts and raises. -/
def State.render (s : State) (p : Profile) (ws : List Nat) (img : Nat → Nat → Nat → Nat) (crops : List (Nat × Nat × Nat × Nat))
    (base capture source id view ref : Nat) : State × List Byte :=
  let (n, s1) := s.draw
  let ts := crops.map (p.tensorOf n img)
  let flags := nth 0 ws 0 / 2 ^ 24 % 256
  let sat := (ts.map Prod.snd).foldl (· + ·) 0
  let s2 := if sat == 0 then s1 else (s1.count Reg.PRE_CNT_SAT_count sat).preEvent 0x0303 (source == 1) id view
  (s2.count (if source == 1 then Reg.PRE_CNT_DEC_count else Reg.PRE_CNT_LIVE_count) 1,
   descriptor p flags capture source id view ref base crops ++ ts.flatMap Prod.fst)

/-- The output of a picture is written through the pre-processing port (R288), the descriptor last (R293); blocks whose generators disagree are
stored poisoned (R420). -/
def State.storeOut (s : State) (x : PicOut) : State :=
  let s1 := (s.poke 8 0x12 (x.base + 256) (x.bytes.drop 256)).poke 8 0x12 x.base (x.bytes.take 256)
  (List.range (x.bytes.length / 256)).foldl (fun s b => if x.gen.contains b then
      let s2 := s.raise 0x25C4 oHub 0x12 0
      match s2.locate (s2.target 8 (x.base + 256 * b)) with | some l => s2.locSetChk l 0xFFFFFFFF | none => s2
    else s) s1

/-- Faults of the pipeline on one picture (R289): is it withheld? -/
def State.pipeFaults (s : State) (decoded : Bool) (id view : Nat) (poisoned : Bool) (eccFix : Nat) (eccBad copies : Bool) :
    State × Bool :=
  let s1 := (List.range eccFix).foldl (fun s _ => s.preEvent 0x1304 decoded id view) s
  let s2 := if poisoned then s1.preEvent 0x2305 decoded id view else s1
  let s3 := if eccBad then s2.preEvent 0x2305 decoded id view else s2
  let s4 := if copies then s3.preEvent 0x2306 decoded id view else s3
  if poisoned || eccBad || copies || s4.saf.preOff then (s4.count Reg.PRE_CNT_WITHHELD_count 1, true) else (s4, false)

/-- Live load Λ as a fraction of pixels per nanosecond, over the enabled CSI-2 sensors (R287). -/
def State.liveLoad (s : State) : Nat × Nat :=
  (List.range 64).foldl (fun (acc : Nat × Nat) n =>
    let per := s.fget (Reg.ING_SENSOR00_period_ns n)
    if s.flag (Reg.ING_SENSOR00_en n) && s.fget (Reg.ING_SENSOR00_src n) == 0 && per != 0 then
      let p := readProfile (s.profWords (s.fget (Reg.PRE_SENSOR0_profile n)))
      (acc.1 * per + p.inW * p.inH * acc.2, acc.2 * per)
    else acc) (0, 1)

/-- The live load is computed at an instant boundary (R287). -/
def State.showLoad (s : State) : State :=
  let (n, d) := s.liveLoad
  let s1 := s.fset Reg.PRE_LOAD_live_mpix (min 0xFFFF (n * 1000 / d))
  if 8 * d < n then (s1.fset Reg.PRE_LOAD_over 1).raise 0x0307 oHub 0x12 0 else s1.fset Reg.PRE_LOAD_over 0

end Sys2Proof.Machine
end

