-- ==== Sys2Proof/Machine/Wdg.lean ====
section
/-! DEFINITION. The hub windows of the watchdog (R455, R475, Table 16.4): their limits, their kicks and their faults. -/

namespace Sys2Proof.Machine

/-- t_ref of the running instant (R331), its pick time (R278). -/
def State.tref (s : State) : Time := s.fus.start + s.fget Reg.ING_CTRL_pick_lag_us * 1000

/-- Open and close of a hub window (Table 16.4). -/
def State.hubWindow (s : State) (w : Nat) : Time × Time :=
  if w == 0 then (s.tref, s.tref + 20000)
  else if w == 1 then
    let a := s.fus.start + s.fget Reg.TRK_CTRL_trk_at_us * 1000
    (a, a + 2000000)
  else (s.plan.start + s.fget (Reg.WDG_HUB_open_us w) * 1000, s.plan.start + s.fget (Reg.WDG_HUB_close_us w) * 1000)

/-- Has a window limits that can be judged (R475)? -/
def State.hubSane (s : State) (w : Nat) : Bool :=
  w < 2 || (s.fget (Reg.WDG_HUB_open_us w) ≤ s.fget (Reg.WDG_HUB_close_us w)
    && s.fget (Reg.WDG_HUB_close_us w) < s.fget Reg.PLN_PERIOD_period_us)

/-- Is a window judged now? -/
def State.hubJudged (s : State) (w : Nat) : Bool :=
  w < 64 && s.pow.phase == .running && s.flag (Reg.WDG_HUB_en w) && s.hubSane w

/-- A fault of a hub window: why 0 missing, 1 outside, 2 second kick. -/
def State.hubFault (s : State) (w why : Nat) : State :=
  let s1 := (s.count Reg.WDG_HUB_CNT_count 1).capture Reg.WDG_HUB_ERR (w + why * 2 ^ 6)
  s1.raise (if s.flag (Reg.WDG_HUB_react w) then 0x4646 else 0x2645) oHub uNone w

/-- A kick of a window; a window that is not judged takes none. -/
def State.kickHub (s : State) (w : Nat) : State :=
  if !s.hubJudged w then s
  else if s.saf.kicked.contains w then s.hubFault w 2
  else
    let s1 := { s with saf := { s.saf with kicked := s.saf.kicked ++ [w] } }
    let (a, b) := s.hubWindow w
    if a ≤ s.now && s.now ≤ b then s1 else s1.hubFault w 1

/-- Does a kick of a window come too late now? -/
def State.hubLate (s : State) (w : Nat) : Bool := s.hubJudged w && decide ((s.hubWindow w).2 < s.now)

/-- A write of WDG_KICK by control-core firmware. -/
def State.wdgKick (s : State) (v : Nat) : State :=
  let w := bits v 5 0
  if w < 2 then s else (s.fset Reg.WDG_KICK_window w).kickHub w

/-- WDG_KICK (R455): control-core firmware kicks a window. -/
def execWdgKick (v : Nat) (s : State) : Host.Outcome State Fault Refusal := .next (s.wdgKick v)

end Sys2Proof.Machine
end

