-- ==== Sys2Proof/Machine/Track.lean ====
section
/-! DEFINITION. The Track Keeper (R325–R340): detection lists, gating, the auction, the FP32 filter, the life cycle, late lists,
publication and region sets. -/

namespace Sys2Proof.Machine

/-! ### Matrices: lists of rows; products summed in ascending index order (R330, log entry 31). -/

abbrev Mat := List (List Num)

def matAt (a : Mat) (i j : Nat) : Num := nth .nan (nth [] a i) j

def matOf (n m : Nat) (f : Nat → Nat → Num) : Mat := (List.range n).map fun i => (List.range m).map fun j => f i j

/-- Σ over k < n of f k, in ascending order. -/
def fsum (n : Nat) (f : Nat → Num) : Num := ((List.range (n - 1)).foldl (fun a k => a.fadd (f (k + 1))) (f 0))

def matMul (n k m : Nat) (a b : Mat) : Mat := matOf n m fun i j => fsum k fun x => (matAt a i x).fmul (matAt b x j)

def matAdd (n m : Nat) (a b : Mat) : Mat := matOf n m fun i j => (matAt a i j).fadd (matAt b i j)

def matT (n m : Nat) (a : Mat) : Mat := matOf m n fun i j => matAt a j i

def num0 : Num := .zero false
def num1 : Num := .fin false 1 0
def half (x : Num) : Num := x.fmul (.fin false 1 (-1))

/-- The filter's state in numbers. -/
structure Filt where
  x : List Num
  p : Mat
  t : Time

/-- Elements of a motion model's state (Table 11.6). -/
def dimOf (model : Nat) : Nat := nth 5 [4, 6, 5] model

def Kalman.filt (model : Nat) (k : Kalman) : Filt :=
  let n := dimOf model
  { x := k.x.map f32Of, p := matOf n n fun i j => f32Of (nth 0 k.p (n * i + j)), t := k.t }

def Filt.kalman (k : Filt) : Kalman :=
  { x := k.x.map (f32Bits 0), p := (k.p.flatMap id).map (f32Bits 0), t := k.t }

/-- Every element finite (R331). -/
def Filt.finite (k : Filt) : Bool := k.x.all (·.isFin) && k.p.all fun r => r.all (·.isFin)

/-- An i64. -/
def i64 (i : Int) : Int := sx 64 (unsx 64 i)

/-- dt in seconds, from the i64 difference in ns; a negative one is 0 (R330). -/
def dtOf (from_ till : Time) : Num :=
  let d := i64 ((till : Int) - from_)
  if d ≤ 0 then num0 else (Num.ofInt d).fdiv (.ofInt 1000000000)

/-- Noise densities σa, σb of a class record. -/
structure Noise where
  a : Num
  b : Num

/-- 10⁻⁴ rad/s: the least FP32 value not below it. -/
def wMin : Num := f32Of 0x38D1B718

/-- Identity with entries replaced. -/
def eyeWith (n : Nat) (es : List (Nat × Nat × Num)) : Mat :=
  matOf n n fun i j => match es.find? fun e => e.1 == i && e.2.1 == j with
    | some e => e.2.2 | none => if i == j then num1 else num0

/-- Prediction: the state, and the matrix that carries P (Table 11.6). -/
def predictX (model : Nat) (x : List Num) (dt : Num) : List Num × Mat :=
  let e (i : Nat) : Num := nth .nan x i
  let lin (n : Nat) (f : Mat) : List Num × Mat := ((List.range n).map fun i => fsum n fun k => (matAt f i k).fmul (e k), f)
  if model == 0 then lin 4 (eyeWith 4 [(0, 2, dt), (1, 3, dt)])
  else if model == 1 then
    let h := half (dt.fmul dt)
    lin 6 (eyeWith 6 [(0, 2, dt), (1, 3, dt), (2, 4, dt), (3, 5, dt), (0, 4, h), (1, 5, h)])
  else
    let v := e 2
    let ps := e 3
    let w := e 4
    let sp := sinF ps
    let cp := cosF ps
    let ps2 := ps.fadd (w.fmul dt)
    let s2 := sinF ps2
    let c2 := cosF ps2
    if wMin.le w.abs then
      let r := v.fdiv w
      let ds := s2.fsub sp
      let dc := cp.fsub c2
      let x2 := [(e 0).fadd (r.fmul ds), (e 1).fadd (r.fmul dc), v, ps2, w]
      let vt := (v.fmul dt).fdiv w
      (x2, eyeWith 5 [(0, 2, ds.fdiv w), (0, 3, r.fmul (c2.fsub cp)), (0, 4, (vt.fmul c2).fsub ((r.fdiv w).fmul ds)),
                      (1, 2, dc.fdiv w), (1, 3, r.fmul ds), (1, 4, (vt.fmul s2).fsub ((r.fdiv w).fmul dc)), (3, 4, dt)])
    else
      let x2 := [(e 0).fadd ((v.fmul cp).fmul dt), (e 1).fadd ((v.fmul sp).fmul dt), v, ps2, w]
      (x2, eyeWith 5 [(0, 2, cp.fmul dt), (0, 3, ((v.fmul sp).fmul dt).neg), (1, 2, sp.fmul dt), (1, 3, (v.fmul cp).fmul dt),
                      (3, 4, dt)])

/-- Process noise (Table 11.6). -/
def noiseQ (model : Nat) (nz : Noise) (x : List Num) (dt : Num) : Mat :=
  let d2 := dt.fmul dt
  let d3 := d2.fmul dt
  let d4 := d3.fmul dt
  let d5 := d4.fmul dt
  let sa := nz.a.fmul nz.a
  let q (y : Num) (n : Int) : Num := sa.fmul (y.fdiv (.ofInt n))
  if model == 0 then
    matOf 4 4 fun i j => if i % 2 != j % 2 then num0 else nth num0 [q d4 4, q d3 2, q d2 1] (i / 2 + j / 2)
  else if model == 1 then
    matOf 6 6 fun i j => if i % 2 != j % 2 then num0 else
      nth num0 (nth [] [[q d5 20, q d4 8, q d3 6], [q d4 8, q d3 3, q d2 2], [q d3 6, q d2 2, q dt 1]] (i / 2)) (j / 2)
  else
    let ps := nth .nan x 3
    let g : Mat := [[(half d2).fmul (cosF ps), num0], [(half d2).fmul (sinF ps), num0], [dt, num0], [num0, half d2], [num0, dt]]
    let dg : Mat := [[sa, num0], [num0, nz.b.fmul nz.b]]
    matMul 5 2 5 (matMul 5 2 2 g dg) (matT 5 2 g)

/-- Prediction of a filter to a time (R330). -/
def Filt.predict (k : Filt) (model : Nat) (nz : Noise) (till : Time) : Filt :=
  let n := dimOf model
  let dt := dtOf k.t till
  let (x2, f) := predictX model k.x dt
  let p2 := matMul n n n (matMul n n n f k.p) (matT n n f)
  { x := x2, p := matAdd n n p2 (noiseQ model nz k.x dt), t := till }

/-- Innovation y and the inverse of S of a detection (R327). -/
def Filt.innov (k : Filt) (d : Detection) : Num × Num × Mat :=
  let s := matAdd 2 2 (matOf 2 2 fun i j => matAt k.p i j) [[f32Of d.rxx, f32Of d.rxy], [f32Of d.rxy, f32Of d.ryy]]
  let det := ((matAt s 0 0).fmul (matAt s 1 1)).fsub ((matAt s 0 1).fmul (matAt s 1 0))
  ((f32Of d.x).fsub (nth .nan k.x 0), (f32Of d.y).fsub (nth .nan k.x 1),
   [[(matAt s 1 1).fdiv det, (matAt s 0 1).neg.fdiv det], [(matAt s 1 0).neg.fdiv det, (matAt s 0 0).fdiv det]])

/-- d² = yᵀ S⁻¹ y (R327). -/
def Filt.dist2 (k : Filt) (d : Detection) : Num :=
  let (y0, y1, si) := k.innov d
  let t0 := (y0.fmul (matAt si 0 0)).fadd (y1.fmul (matAt si 1 0))
  let t1 := (y0.fmul (matAt si 0 1)).fadd (y1.fmul (matAt si 1 1))
  (t0.fmul y0).fadd (t1.fmul y1)

/-- Update with a detection (Table 11.6). -/
def Filt.update (k : Filt) (model : Nat) (d : Detection) : Filt :=
  let n := dimOf model
  let (y0, y1, si) := k.innov d
  let gain := matMul n 2 2 (matOf n 2 fun i j => matAt k.p i j) si
  let x2 := (List.range n).map fun i => (nth .nan k.x i).fadd (((matAt gain i 0).fmul y0).fadd ((matAt gain i 1).fmul y1))
  let ikh := matOf n n fun i j =>
    (if i == j then num1 else num0).fsub (if j < 2 then matAt gain i j else num0)
  let rm : Mat := [[f32Of d.rxx, f32Of d.rxy], [f32Of d.rxy, f32Of d.ryy]]
  let p2 := matAdd n n (matMul n n n (matMul n n n ikh k.p) (matT n n ikh)) (matMul n 2 n (matMul n 2 2 gain rm) (matT n 2 gain))
  { x := x2, p := matOf n n fun i j => half ((matAt p2 i j).fadd (matAt p2 j i)), t := k.t }

/-- The filter of a new track (Table 11.6). -/
def birthFilt (model : Nat) (sv : Num) (d : Detection) : Filt :=
  let n := dimOf model
  let v2 := sv.fmul sv
  let r (i j : Nat) : Num := if i == 0 && j == 0 then f32Of d.rxx else if i == 1 && j == 1 then f32Of d.ryy else f32Of d.rxy
  { x := (List.range n).map fun i => if i == 0 then f32Of d.x else if i == 1 then f32Of d.y else num0,
    p := matOf n n fun i j =>
      if i < 2 && j < 2 then r i j
      else if i != j then num0
      else if model == 2 && i == 3 then num1
      else if model == 2 && i == 4 then .fin false 1 (-2)
      else v2,
    t := d.t }

/-! ### Detection lists (R325, R326) -/

def State.clsModel (s : State) (c : Nat) : Nat := s.fget (Reg.TRK_CLASS0_model c)
def State.clsGroup (s : State) (c : Nat) : Nat := s.fget (Reg.TRK_CLASS0_group c)
def State.clsNoise (s : State) (c : Nat) : Noise :=
  { a := f32Of (s.fget (Reg.TRK_CLASS8_sigma_a c)), b := f32Of (s.fget (Reg.TRK_CLASS8_sigma_b c)) }

/-- A TRK event; classes C2 and C4 are captured in TRK_ERR (R340). -/
def State.trkEvent (s : State) (code k : Nat) : State :=
  let s1 := s.raise code oHub 0x11 0
  if codeClass code == 2 || codeClass code == 4 then s1.capture Reg.TRK_ERR (bits code 5 0 + k % 16 * 2 ^ 6) else s1

/-- Bytes of TRK memory from an offset. -/
def State.trkBytes (s : State) (off n : Nat) : List Byte := smGetBytes s.csr (0x00F008000000 + off) n

/-- Bytes written to TRK memory. -/
def State.trkPut (s : State) (off : Nat) (bs : List Byte) : State :=
  { s with csr := smPutBytes s.csr (0x00F008000000 + off) bs }

/-- A detection taken into the odometry frame, if it is valid (R325). -/
def State.detection (s : State) (b : List Byte) (px py yaw : Num) (t : Time) : Option Detection :=
  let f (o : Nat) : Num := f32Of (u b o 4)
  let x := f 0
  let y := f 4
  let rxx := f 8
  let rxy := f 0xC
  let ryy := f 0x10
  let cls := u b 0x14 1
  let pos (v : Num) : Bool := !v.isZero && !v.isNeg
  if [x, y, rxx, rxy, ryy].all (·.isFin) && pos rxx && pos ryy && pos ((rxx.mul ryy).sub (rxy.mul rxy))
      && decide (cls < 64) && s.clsModel cls != 3 && u b 0x15 1 == 0 && u b 0x38 8 == 0 then
    let c := cosF yaw
    let sn := sinF yaw
    let rot : Mat := [[c, sn.neg], [sn, c]]
    let r := matMul 2 2 2 (matMul 2 2 2 rot [[rxx, rxy], [rxy, ryy]]) (matT 2 2 rot)
    some { x := f32Bits 0 ((px.fadd (c.fmul x)).fsub (sn.fmul y)), y := f32Bits 0 ((py.fadd (sn.fmul x)).fadd (c.fmul y)),
           rxx := f32Bits 0 (matAt r 0 0), rxy := f32Bits 0 (matAt r 0 1), ryy := f32Bits 0 (matAt r 1 1),
           cls := cls, score := u b 0x16 2, attr := sliceB b 0x18 32, t := t }
  else none

/-- A list that the Track Keeper takes: its source, its instant, its valid detections, its pose. -/
structure TakenList where
  k : Nat
  inst : Nat
  dets : List Detection
  pose : List Nat

/-- What the scan of the list buffers brings (R326). -/
structure Scan where
  s : State
  onTime : List TakenList := []
  late : List TakenList := []

/-- List buffer `m` of source `k` is examined in instant `n` (R325, R326). -/
def Scan.buffer (z : Scan) (n k m : Nat) : Scan :=
  let s := z.s
  let off := k * 0x10000 + m * 0x4000
  let h := s.trkBytes off 64
  let i := u h 0 8
  if u h 0x11 1 != 0xA5 || smGet 0 s.trk.consumed (k * 4 + m) == i + 1 || n < i then z
  else
    let s1 := { s with trk := { s.trk with consumed := smPut 0 s.trk.consumed (k * 4 + m) (i + 1) } }
    if i + s.fget Reg.TRK_CTRL_oos_window < n then
      { z with s := (s1.trkEvent 0x0402 k).count Reg.TRK_CNT_LATE_DROP_count 1 }
    else
      let cnt := u h 0x12 2
      let len := if cnt ≤ 255 then 64 + 64 * cnt else 64
      let bad := (List.range (ceilDiv len 256)).filter fun b =>
        smGet 0 s.csrErr (0x00F008000000 + off + 256 * b) != 0
      let s2 := bad.foldl (fun s _ => s.raise 0x25C3 oHub 0x11 0) s1
      if !bad.isEmpty || 255 < cnt || 63 < u h 0x10 1 || (sliceB h 0x20 32).any (· != 0) then
        { z with s := s2.trkEvent 0x2407 k }
      else
        let t := s2.measTime (u h 0x10 1) (u h 8 8)
        let pose := [u h 0x14 4, u h 0x18 4, u h 0x1C 4]
        let ds := (List.range cnt).map fun j => s2.detection (s2.trkBytes (off + 64 + 64 * j) 64)
          (f32Of (nth 0 pose 0)) (f32Of (nth 0 pose 1)) (f32Of (nth 0 pose 2)) t
        let drop := (ds.filter (·.isNone)).length
        let s3 := if drop == 0 then s2 else (s2.count Reg.TRK_CNT_INVALID_count drop).trkEvent 0x0406 k
        let l : TakenList := { k := k, inst := i, dets := ds.filterMap id, pose := pose }
        if i == n then { z with s := s3, onTime := z.onTime ++ [l] } else { z with s := s3, late := z.late ++ [l] }

/-- All four buffers of every enabled source (R326). -/
def State.scanLists (s : State) (n : Nat) : Scan :=
  ((setBits 16 (s.fget Reg.TRK_SRC_EN_en)).flatMap fun k => (List.range 4).map fun m => (k, m)).foldl
    (fun z km => z.buffer n km.1 km.2) { s := s }

/-! ### Gating and assignment (R327–R329) -/

/-- A track as gating sees it: slot, class, model and filter. -/
structure GateTrack where
  slot : Nat
  cls : Nat
  model : Nat
  f : Filt

/-- A gated pair: detection, slot, d². -/
structure Pair where
  det : Nat
  slot : Nat
  d2 : Num

/-- The pairs that gate (R327). -/
def State.gatePairs (s : State) (ts : List GateTrack) (ds : List Detection) : List Pair :=
  let chi := f32Of (s.fget Reg.TRK_GATE_gate_chi2)
  ts.flatMap fun tr => (ds.mapIdx fun i d => (i, d)).filterMap fun id =>
    if s.clsGroup tr.cls == s.clsGroup id.2.cls then
      let d2 := (tr.f.predict tr.model (s.clsNoise tr.cls) id.2.t).dist2 id.2
      if d2.le chi then some { det := id.1, slot := tr.slot, d2 := d2 } else none
    else none

/-- Benefit of a pair (R328); one that is no i64 is open (log entry 36). -/
def benefit (chi d2 : Num) : Int :=
  match floorNum ((chi.fsub d2).mul (.ofInt 1024)) with
  | some z => if z < (2 ^ 63 : Nat) then z else sx 64 (Config.ulpPick 0x35 0xD (f32Bits 0 chi) (f32Bits 0 d2))
  | none => sx 64 (Config.ulpPick 0x35 0xD (f32Bits 0 chi) (f32Bits 0 d2))

/-- The auction's state (R328). -/
structure Auction where
  queue : List Nat
  price : SMap Int := []
  holder : SMap (Option Nat) := []
  bids : Nat := 0

/-- The auction runs, for at most `fuel` detections popped (R328). -/
def Auction.run (pairs : Nat → List (Nat × Int)) (nd cap : Nat) : Nat → Auction → Auction
  | 0, a => a
  | fuel + 1, a =>
    match a.queue with
    | [] => a
    | i :: rest =>
      if cap ≤ a.bids then a
      else
        let pick := (pairs i).foldl (fun (b : Int × Option Nat × Int) p =>
          let v := i64 (p.2 * ((nd : Int) + 1) - smGet 0 a.price p.1)
          if b.1 < v then (v, some p.1, b.1) else if b.2.2 < v then (b.1, b.2.1, v) else b) ((0 : Int), (none : Option Nat), (0 : Int))
        match pick.2.1 with
        | none => Auction.run pairs nd cap fuel { a with queue := rest }
        | some j =>
          let back := match smGet none a.holder j with | some h => rest ++ [h] | none => rest
          Auction.run pairs nd cap fuel
            { queue := back, price := smPut 0 a.price j (i64 (smGet 0 a.price j + pick.1 - pick.2.2 + 1)),
              holder := smPut none a.holder j (some i), bids := a.bids + 1 }

/-- Gated tracks that take part, 512 at most, by least d² (R327). -/
def takePart (ps : List Pair) : List Nat :=
  let slots := ps.foldl (fun (acc : List Nat) p => withOnce p.slot acc) []
  let best := slots.map fun j => (j, (ps.filter fun p => p.slot == j).foldl
    (fun (m : Num) p => if p.d2.lt m then p.d2 else m) (.inf false))
  ((sortBy (fun (a b : Nat × Num) => a.2.lt b.2 || (!b.2.lt a.2 && a.1 < b.1)) best).take 512).map Prod.fst

/-- Gating and assignment of detections to tracks: the assigned (slot, detection) pairs in ascending slot, the gated pairs, how
many gated tracks were left out, and whether the cap ended the auction. -/
def State.assign (s : State) (ts : List GateTrack) (ds : List Detection) (cap : Nat) :
    List (Nat × Nat) × List Pair × Nat × Bool :=
  let chi := f32Of (s.fget Reg.TRK_GATE_gate_chi2)
  let ps := s.gatePairs ts ds
  let part := takePart ps
  let excess := (ps.foldl (fun (acc : List Nat) p => withOnce p.slot acc) []).length - part.length
  let row (i : Nat) : List (Nat × Int) :=
    (sortBy (fun (a b : Nat × Int) => a.1 < b.1) ((ps.filter fun p => p.det == i && part.contains p.slot).map fun p =>
      (p.slot, benefit chi p.d2)))
  let rows := (List.range ds.length).map row
  let a := Auction.run (fun i => nth [] rows i) ds.length cap (ds.length + cap + 1) { queue := List.range ds.length }
  ((a.holder.filterMap fun e => e.2.map fun i => (e.1, i)), ps, excess, !a.queue.isEmpty)

/-! ### The update (R331) -/

/-- The update in progress: the state, codes raised once per instant, slots freed in this instant. -/
structure Upd where
  s : State
  once : List Nat := []
  freed : List Nat := []

/-- An event at most once per instant. -/
def Upd.once_ (z : Upd) (code : Nat) : Upd :=
  if z.once.contains code then z else { z with s := z.s.trkEvent code 0, once := code :: z.once }

def State.trackAt (s : State) (slot : Nat) : Option Track := s.trk.tracks.find? fun t => t.slot == slot

/-- A track put in the place of the one in its slot, or added in ascending slot. -/
def State.putTrack (s : State) (t : Track) : State :=
  let xs := s.trk.tracks.filter (fun x => x.slot < t.slot) ++ t :: s.trk.tracks.filter (fun x => t.slot < x.slot)
  { s with trk := { s.trk with tracks := xs } }

/-- A track is deleted: its slot loses its history (R335). -/
def Upd.delete (z : Upd) (slot : Nat) : Upd :=
  let k := z.s.trk
  let past := k.past.map fun p => { p with tracks := p.tracks.filter fun x => x.slot != slot }
  let s1 := { z.s with trk := { k with tracks := k.tracks.filter (fun x => x.slot != slot), past := past } }
  { z with s := s1.count Reg.TRK_CNT_DELETE_count 1, freed := slot :: z.freed }

/-- A track takes a new filter; one that holds a non-finite value is deleted (R331). -/
def Upd.setFilt (z : Upd) (t : Track) (f : Filt) : Upd :=
  if f.finite then { z with s := z.s.putTrack { t with kf := f.kalman } }
  else (z.delete t.slot).once_ 0x040A

/-- A retained record of an instant, where there is one. -/
def State.pastOf (s : State) (n : Nat) : Option InstantPast := s.trk.past.find? fun p => p.inst == n

def InstantPast.of (p : InstantPast) (slot : Nat) : Option TrackPast := p.tracks.find? fun x => x.slot == slot

/-- Retained states of a track replaced. -/
def State.putPast (s : State) (n : Nat) (x : TrackPast) : State :=
  let swap (y : TrackPast) : TrackPast := if y.slot == x.slot then x else y
  let past := s.trk.past.map fun p => if p.inst == n then { p with tracks := p.tracks.map swap } else p
  { s with trk := { s.trk with past := past } }

/-- A filter carried through one retained instant: its detection, if any, then prediction to its t_ref. -/
def Filt.through (f : Filt) (model : Nat) (nz : Noise) (d : Option Detection) (tref : Time) : Filt :=
  let g := match d with | some d => (f.predict model nz d.t).update model d | none => f
  g.predict model nz tref

/-- A late detection of instant `nl` is applied to a track: filtered again from the retained state of nl − 1 (R336 steps 3
and 4). -/
def Upd.applyLate (z : Upd) (n nl slot : Nat) (d : Detection) : Upd :=
  match z.s.trackAt slot, (z.s.pastOf (nl - 1)).bind (·.of slot) with
  | some tr, some p0 =>
    let nz := z.s.clsNoise tr.cls
    let steps := (List.range (n - nl)).map (· + nl)
    let (s1, f) := steps.foldl (fun (acc : State × Filt) m =>
      match acc.1.pastOf m with
      | none => acc
      | some rec =>
        let x := rec.of slot
        let det := if m == nl then some d else x.bind (·.det)
        let g := acc.2.through tr.model nz det rec.tref
        (acc.1.putPast m { slot := slot, kf := g.kalman, det := det }, g)) (z.s, p0.kf.filt tr.model)
    let idx := n - 1 - nl
    let hist := bits (tr.hist ||| 2 ^ idx) (z.s.fget Reg.TRK_CTRL_n_birth - 1) 0
    let newest := steps.all fun m => m == nl || (((z.s.pastOf m).bind (·.of slot)).bind (·.det)).isNone
    let tr1 := { tr with hist := hist, misses := min tr.misses idx,
                         confirmed := tr.confirmed || decide (s1.fget Reg.TRK_CTRL_m_birth ≤ popcount 8 hist),
                         tUpd := if newest then d.t else tr.tUpd, score := if newest then d.score else tr.score,
                         attr := if newest then d.attr else tr.attr }
    { z with s := s1 }.setFilt tr1 f
  | _, _ => z

/-- Detections in excess and an assignment cut short are reported once an update (R331, R336). -/
def Upd.tally (z : Upd) (excess : Nat) (capped : Bool) : Upd :=
  let z1 := if excess == 0 then z else z.once_ 0x0403
  if capped then { z1 with s := z1.s.count Reg.TRK_CNT_CAP_count 1 }.once_ 0x0404 else z1

/-- The late lists of one instant value, with what remains of the 128 detections (R336). -/
def Upd.lateInstant (z : Upd) (n nl : Nat) (ls : List TakenList) (room : Nat) : Upd × Nat :=
  let s1 := ls.foldl (fun s l => (s.trkEvent 0x0401 l.k).count Reg.TRK_CNT_LATE_USED_count 1) z.s
  let all := ls.flatMap (·.dets)
  let ds := all.take room
  let seen := (s1.pastOf nl).map (·.tracks)
  let ts := match s1.pastOf (nl - 1) with
    | none => []
    | some p => p.tracks.filterMap fun x => match s1.trackAt x.slot with
      | some tr =>
        let had := match seen with | some xs => xs.any (fun y => y.slot == x.slot && y.det.isSome) | none => false
        if had || nl == 0 then none
        else some ({ slot := x.slot, cls := tr.cls, model := tr.model, f := x.kf.filt tr.model } : GateTrack)
      | none => none
  let (as_, _, excess, capped) := s1.assign ts ds 2048
  let s2 := s1.count Reg.TRK_CNT_LATE_DROP_count (all.length - as_.length)
  let z1 : Upd := { z with s := s2.count Reg.TRK_CNT_DET_DROP_count excess }
  let z2 := z1.tally excess capped
  (as_.foldl (fun z a => match ds[a.2]? with | some d => z.applyLate n nl a.1 d | none => z) z2, room - ds.length)

/-- The late path (R336): instants in ascending order. -/
def Upd.late (z : Upd) (n : Nat) (ls : List TakenList) : Upd :=
  let insts := sortBy (fun (a b : Nat) => a < b) (ls.foldl (fun (acc : List Nat) l => withOnce l.inst acc) [])
  (insts.foldl (fun (acc : Upd × Nat) nl => acc.1.lateInstant n nl (ls.filter fun l => l.inst == nl) acc.2) (z, 128)).1

/-- Assigned tracks take their detections, in ascending slot (R331 step 3). -/
def Upd.take (z : Upd) (ds : List Detection) (as_ : List (Nat × Nat)) : Upd :=
  as_.foldl (fun z a =>
    match z.s.trackAt a.1, ds[a.2]? with
    | some tr, some d =>
      let f := ((tr.kf.filt tr.model).predict tr.model (z.s.clsNoise tr.cls) d.t).update tr.model d
      z.setFilt { tr with tUpd := d.t, score := d.score, attr := d.attr } f
    | _, _ => z) z

/-- Prediction of every track to t_ref (R331 step 4). -/
def Upd.toRef (z : Upd) (tref : Time) : Upd :=
  z.s.trk.tracks.foldl (fun z tr =>
    z.setFilt tr ((tr.kf.filt tr.model).predict tr.model (z.s.clsNoise tr.cls) tref)) z

/-- The life cycle of the live tracks (R332). -/
def Upd.lives (z : Upd) (hits : List Nat) : Upd :=
  let m := z.s.fget Reg.TRK_CTRL_m_birth
  let n := z.s.fget Reg.TRK_CTRL_n_birth
  z.s.trk.tracks.foldl (fun z tr =>
    let hit := hits.contains tr.slot
    let hist := (tr.hist * 2 + b2n hit) % 2 ^ n
    let tr1 := { tr with hist := hist, age := tr.age + 1, misses := if hit then 0 else tr.misses + 1 }
    let z1 : Upd := { z with s := z.s.putTrack tr1 }
    let f := tr1.kf.filt tr1.model
    if !tr.confirmed then
      if m ≤ popcount 16 hist then { z with s := z.s.putTrack { tr1 with confirmed := true } }
      else if popcount 16 hist + (n - min tr1.age n) < m then z1.delete tr.slot
      else z1
    else if z.s.fget Reg.TRK_CTRL_k_miss ≤ tr1.misses
        || (f32Of (z.s.fget Reg.TRK_GATE_p_max)).lt ((matAt f.p 0 0).fadd (matAt f.p 1 1)) then z1.delete tr.slot
    else z1) z

/-- Births (R332): into the lowest slot that was free when the instant began. -/
def Upd.births (z : Upd) (ds : List Detection) (tref : Time) : Upd :=
  ds.foldl (fun z d =>
    match (List.range 4096).find? fun j => (z.s.trackAt j).isNone && !z.freed.contains j with
    | none => { z with s := z.s.count Reg.TRK_CNT_FULL_count 1 }.once_ 0x0405
    | some slot =>
      let model := z.s.clsModel d.cls
      let f := (birthFilt model (f32Of (z.s.fget (Reg.TRK_CLASS10_sigma_v0 d.cls))) d).predict model (z.s.clsNoise d.cls) tref
      let tr : Track := { slot := slot, id := z.s.trk.nextId, cls := d.cls, model := model, confirmed := false, hist := 1,
                          misses := 0, age := 1, kf := f.kalman, tUpd := d.t, score := d.score, attr := d.attr }
      let s1 := (z.s.putTrack tr).count Reg.TRK_CNT_BIRTH_count 1
      { z with s := { s1 with trk := { s1.trk with nextId := (s1.trk.nextId + 1) % 2 ^ 32 } } }.setFilt tr f) z

/-- Retention of the instant just closed (R335). -/
def State.retain (s : State) (n : Nat) (tref : Time) (ds : List Detection) (as_ : List (Nat × Nat)) : State :=
  let row (tr : Track) : TrackPast :=
    { slot := tr.slot, kf := tr.kf, det := (as_.find? fun a => a.1 == tr.slot).bind fun a => ds[a.2]? }
  let now_ : InstantPast := { inst := n, tref := tref, tracks := s.trk.tracks.map row }
  { s with trk := { s.trk with past := (now_ :: s.trk.past).take (s.fget Reg.TRK_CTRL_oos_window + 1) } }

/-! ### Publication (R333) and region sets (R337) -/

/-- A track's velocity as published: from speed and heading under model 2, else elements 2 and 3 (R333). -/
def Track.velocity (t : Track) : List Nat :=
  let e (i : Nat) : Nat := nth 0 t.kf.x i
  if t.model == 2 then
    [f32Bits 0 ((f32Of (e 2)).fmul (cosF (f32Of (e 3)))), f32Bits 0 ((f32Of (e 2)).fmul (sinF (f32Of (e 3))))]
  else [e 2, e 3]

/-- A published track (Table 11.7). -/
def Track.bytes (t : Track) : List Byte :=
  let p := (t.kf.filt t.model).p
  List.flatten [leBytes 4 t.id, leBytes 2 t.slot, leBytes 1 t.cls, leBytes 1 (if t.confirmed then 2 else 1), leBytes 1 t.hist,
    leBytes 1 t.misses, leBytes 1 t.model, leBytes 1 0, leBytes 4 t.age, (List.range 6).flatMap fun i => leBytes 4 (nth 0 t.kf.x i),
    leBytes 4 (f32Bits 0 (matAt p 0 0)), leBytes 4 (f32Bits 0 (matAt p 0 1)), leBytes 4 (f32Bits 0 (matAt p 1 1)),
    leBytes 4 (nth 0 t.velocity 0), leBytes 4 (nth 0 t.velocity 1), leBytes 2 t.score, leBytes 2 0, leBytes 8 t.tUpd, sliceB t.attr 0 32,
    List.replicate 24 0]

/-- Publication of instant `n`, the header last (R333). -/
def State.publish (s : State) (n : Nat) (tref : Time) (withheld late noList : Bool) : State :=
  let ts := if withheld then [] else s.trk.tracks
  let s1 := s.trkPut (0x100000 + n % 2 * 0x80000) (ts.flatMap (·.bytes))
  let flags := b2n withheld + b2n late * 2 + b2n noList * 4
  let hdr := leBytes 8 n ++ leBytes 8 tref ++ leBytes 2 ts.length ++ leBytes 2 flags
    ++ s.trk.pose.flatMap (fun v => leBytes 4 v) ++ List.replicate 32 0
  let s2 := s1.trkPut (0x200000 + n % 2 * 0x40) hdr
  let s3 := s2.fset Reg.TRK_STATUS_live s.trk.tracks.length
  (s3.fset Reg.TRK_STATUS_confirmed (s.trk.tracks.filter (·.confirmed)).length).fset Reg.TRK_STATUS_published (n % 2 ^ 32)

/-- One axis of a region: from the bounding interval of the projected corners to whole pixels (R337 step 4; rounding outwards is
the model's, log entry 35): origin and size. -/
def regionAxis (lo hi : Num) (size : Nat) : Nat × Nat :=
  let a0 : Int := (floorNum lo).getD 0 - 16
  let b0 : Int := -((floorNum hi.neg).getD 0) + 16
  let g := 64 - (b0 - a0)
  let (a1, b1) := if 0 < g then (a0 - g / 2, b0 + (g - g / 2)) else (a0, b0)
  let a2 := clampI 0 size a1
  let b2 := clampI 0 size b1
  if 64 ≤ b2 - a2 then (a2.toNat, (b2 - a2).toNat)
  else if a2 == 0 then (0, min 64 size)
  else (size - min 64 size, min 64 size)

/-- The rectangle of a track in a sensor's image, if a corner projects (R337 steps 2–5). -/
def State.trackRect (s : State) (c : Cal) (tr : Track) : Option (Nat × Nat × Nat × Nat) :=
  let cm (f : Fld) : Num := (Num.ofInt (s.fget f : Nat)).fdiv (.ofInt 100)
  let len := cm (Reg.TRK_CLASS0_length_cm tr.cls)
  let wid := cm (Reg.TRK_CLASS0_width_cm tr.cls)
  let hgt := cm (Reg.TRK_CLASS0_height_cm tr.cls)
  let r := half (sqrtF (sumSq len wid))
  let x := f32Of (nth 0 tr.kf.x 0)
  let y := f32Of (nth 0 tr.kf.x 1)
  let px := f32Of (nth 0 s.trk.pose 0)
  let py := f32Of (nth 0 s.trk.pose 1)
  let yaw := f32Of (nth 0 s.trk.pose 2)
  let cs := cosF yaw
  let sn := sinF yaw
  let corner (sx_ sy_ : Num) (z : Num) : Option (Num × Num) :=
    let dx := (x.fadd sx_).fsub px
    let dy := (y.fadd sy_).fsub py
    c.project (c.toSensor ((cs.fmul dx).fadd (sn.fmul dy)) ((cs.fmul dy).fsub (sn.fmul dx)) z)
  let pts := ([num0, hgt].flatMap fun z => [corner r r z, corner r r.neg z, corner r.neg r z, corner r.neg r.neg z]).filterMap id
  match pts with
  | [] => none
  | p :: ps =>
    let mn (a b : Num) : Num := if b.lt a then b else a
    let mx (a b : Num) : Num := if a.lt b then b else a
    let bb := ps.foldl (fun (b : (Num × Num) × (Num × Num)) q =>
      ((mn b.1.1 q.1, mx b.1.2 q.1), (mn b.2.1 q.2, mx b.2.2 q.2))) ((p.1, p.1), (p.2, p.2))
    let h := regionAxis bb.1.1 bb.1.2 c.w
    let v := regionAxis bb.2.1 bb.2.2 c.h
    some (h.1, v.1, h.2, v.2)

/-- Square of a track's distance from the published pose. -/
def State.poseDist (s : State) (tr : Track) : Num :=
  let dx := (f32Of (nth 0 tr.kf.x 0)).sub (f32Of (nth 0 s.trk.pose 0))
  let dy := (f32Of (nth 0 tr.kf.x 1)).sub (f32Of (nth 0 s.trk.pose 1))
  (dx.mul dx).add (dy.mul dy)

/-- The region sets of all cameras that are steered (R337). -/
def State.regionSets (s : State) (n : Nat) : State :=
  let roi := s.trk.tracks.filter fun t => t.confirmed && s.flag (Reg.TRK_CLASS0_roi t.cls)
  let near := sortBy (fun (a b : Track) => (s.poseDist a).lt (s.poseDist b)
    || (!(s.poseDist b).lt (s.poseDist a) && a.slot < b.slot)) roi
  (List.range 64).foldl (fun s sn =>
    let pol := s.fget (Reg.ING_SENSOR00_policy sn)
    let c := s.calOf sn
    if s.flag (Reg.ING_SENSOR00_en sn) && s.fget (Reg.ING_SENSOR00_src sn) == 0 && (pol == 1 || pol == 2)
        && (c.model == 1 || c.model == 2) then
      let rs := (near.filterMap fun t => s.trackRect c t).take 8
      let s1 := (List.range 8).foldl (fun s i =>
        let (x, y, w, h) := nth (0, 0, 0, 0) rs i
        s.wr (Reg.TRK_ROI_RECT sn (n % 2) i) (BitVec.ofNat 64 (x + y * 2 ^ 16 + w * 2 ^ 32 + h * 2 ^ 48))) s
      s1.wr (Reg.TRK_ROI sn (n % 2)) (BitVec.ofNat 64 (n % 2 ^ 32 + rs.length * 2 ^ 32 + 0xA5 * 2 ^ 40))
    else s) s

/-- The detections of the on-time lists, 512 at most (R327). -/
def Upd.onTimeDets (z : Upd) (ls : List TakenList) : Upd × List Detection :=
  let all := ls.flatMap (·.dets)
  if all.length ≤ 512 then (z, all)
  else ({ z with s := z.s.count Reg.TRK_CNT_DET_DROP_count (all.length - 512) }.once_ 0x0403, all.take 512)

/-- The track update of instant `n` with agreeing copies (R331). -/
def Scan.update (z : Scan) (n : Nat) (tref : Time) : State :=
  let u0 := ({ s := z.s, freed := z.s.trk.freed } : Upd).late n z.late
  let (u1, ds) := u0.onTimeDets z.onTime
  let ts := u1.s.trk.tracks.map fun t =>
    ({ slot := t.slot, cls := t.cls, model := t.model, f := t.kf.filt t.model } : GateTrack)
  let (as_, ps, excess, capped) := u1.s.assign ts ds 8192
  let u2 := if excess == 0 then u1 else { u1 with s := u1.s.count Reg.TRK_CNT_DET_DROP_count excess }.once_ 0x0403
  let u3 := if capped then { u2 with s := u2.s.count Reg.TRK_CNT_CAP_count 1 }.once_ 0x0404 else u2
  let taken (j : Nat) : Bool := as_.any fun a => a.1 == j
  let free := (ds.mapIdx fun i d => (i, d)).filter fun id =>
    !(as_.any fun a => a.2 == id.1) && !(ps.any fun p => p.det == id.1 && taken p.slot)
  let u4 := ((u3.take ds as_).toRef tref).lives (as_.map Prod.fst)
  let u5 := u4.births (free.map Prod.snd) tref
  let pose := match z.onTime.getLast? with | some l => l.pose | none => u5.s.trk.pose
  let s6 := { u5.s with trk := { u5.s.trk with pose := pose } }.retain n tref ds as_
  let s7 := s6.publish n tref s6.saf.trkOff (!z.late.isEmpty) z.onTime.isEmpty
  if s7.saf.trkOff then s7 else s7.regionSets n

/-- The two copies differ in instant `n` (R338): the publication is withheld and the tracks stay as they were. The last of three consecutive instants
with a difference raises 0x4409. -/
def Scan.differ (z : Scan) (n : Nat) (tref : Time) : State :=
  let s1 := z.s.trkEvent 0x2408 0
  let run := if s1.trk.differAt == n && n != 0 then s1.trk.differ + 1 else 1
  let s2 := { s1 with trk := { s1.trk with differ := run, differAt := n + 1 } }
  let s3 := if 3 ≤ run then s2.trkEvent 0x4409 0 else s2
  s3.publish n tref true false z.onTime.isEmpty

/-- TRACK_UPDATE (R331, R455): the track update of the running instant, once in it and not before trk_at_us; `copies`: the two copies
of a datapath differ in a value written (R338). It kicks hub window 1; too late for it, the publication is withheld. -/
def execTrackUpdate (copies : Bool) (s : State) : Host.Outcome State Fault Refusal :=
  let n := (s.rd Reg.FUS_INSTANT).toNat
  if s.pow.phase != .running || s.planRec.isNone || s.trk.done == n + 1
      || decide (s.now < s.fus.start + s.fget Reg.TRK_CTRL_trk_at_us * 1000) then .next s
  else
    let s0 := { s with trk := { s.trk with done := n + 1 } }.kickHub 1
    let z := s0.scanLists n
    .next (if s.hubLate 1 then s0.publish n s0.tref true false true
      else if copies then z.differ n s0.tref else z.update n s0.tref)

end Sys2Proof.Machine
end

