-- ==== Sys2Proof/Machine/Ingest.lean ====
section
/-! DEFINITION. Device Time and gPTP (R255–R263), camera triggers (R264, R265), sensors, drift tracking, frozen frames and the pick
(R266–R284, R456–R458). -/

namespace Sys2Proof.Machine

/-! ### Device Time -/

/-- A signed 64-bit register. -/
def i64Of (w : Word) : Int := sx 64 w.toNat

/-- An integer saturated to i32, as register bits. -/
def sat32 (i : Int) : Nat := unsx 32 (clampI (-(2 ^ 31 : Nat)) ((2 ^ 31 : Nat) - 1) i)

/-- ING_DT_STATUS.state: 0 FREE, 1 LOCKING, 2 LOCKED, 3 HOLDOVER. -/
def State.dtState (s : State) : Nat := s.fget Reg.ING_DT_STATUS_state

/-- The servo's rate correction after a Sync, in parts per billion: the spec bounds it and states no more (log entry 44). -/
def servoRate (n : Nat) : Int := clampI (-50000) 50000 (sx 32 (Config.servo n))

/-- The servo takes a phase error (R257, R260): a correction at its limit is held there until the phase error falls back (log entry 44). -/
def State.servo (s : State) (phase : Int) : State :=
  let (n, s1) := s.draw
  let stuck := s1.flag Reg.ING_DT_STATUS_rate_limit && decide (s1.tim.limPhase ≤ phase.natAbs)
  let rate := if stuck then sx 32 (s1.fget Reg.ING_DT_STATUS_rate_ppb) else servoRate n
  let s2 := (s1.fset Reg.ING_DT_STATUS_rate_ppb (unsx 32 rate)).fset Reg.ING_DT_ERR_phase_err (sat32 phase)
  let lim := decide (rate.natAbs = 50000)
  let far := decide (100000 < phase.natAbs)
  let s3 := if lim && !s2.flag Reg.ING_DT_STATUS_rate_limit then s2.raise 0x02C4 oHub uNone 0 else s2
  let s4 := if far && !s3.tim.far then s3.raise 0x02C4 oHub uNone 0 else s3
  { s4 with tim := { s4.tim with far := far, limPhase := if stuck then s4.tim.limPhase else phase.natAbs } }.fset
    Reg.ING_DT_STATUS_rate_limit (b2n lim)

/-- LOCKED is entered: 0x02C1; at the first entry the boot step, or else the offset target (R258). -/
def State.enterLocked (s : State) (offset : Int) : State :=
  let s1 := (s.fset Reg.ING_DT_STATUS_state 2).raise 0x02C1 oHub uNone 0
  if s1.tim.everLocked then s1
  else
    let s2 := { s1 with tim := { s1.tim with everLocked := true } }
    let g : Int := (s2.now : Int) + offset
    if !s2.tim.everBoundary && s2.flag Reg.ING_DT_CTRL_step_en && (s2.now : Int) < g then
      let s3 := (s2.wr Reg.ING_DT_NOW (BitVec.ofInt 64 g)).wr Reg.ING_DT_OFFSET 0
      let up := s3.dies.filter fun t => s3.dieUp t
      { s3 with tim := { s3.tim with stepDue := up, stepBy := (g - s2.now).toNat } }.fset Reg.ING_DT_STATUS_stepped 1
    else s2.wr Reg.ING_DT_OFFSET (BitVec.ofInt 64 offset)

/-- Sync intervals that the part takes, in ns: logSyncInterval 0 to −7 (Table 9.2). -/
def syncIntervals : List Nat := (List.range 8).map fun k => 10 ^ 9 / 2 ^ k

/-- GPTP_SYNC (R257–R261): a Sync from grandmaster `gm`; `raw` is gPTP time less the MAC's ingress stamp, which rx_lat corrects into the measured
offset; with mean link delay and sync interval. It is valid on the gPTP port, in the domain of ING_DT_CTRL and at a supported interval. -/
def execGptpSync (port domain gm : Nat) (raw : Int) (delay interval : Nat) (s : State) : Host.Outcome State Fault Refusal :=
  let offset : Int := raw + s.fget Reg.ING_PTP_LAT_rx_lat
  let myPort := s.fget Reg.ING_DT_CTRL_port
  let myDom := s.fget Reg.ING_DT_CTRL_domain
  if !s.flag Reg.ING_DT_CTRL_ptp_en || port != (if 5 < myPort then 0 else myPort)
      || domain != (if 127 < myDom then 0 else myDom) || !syncIntervals.contains interval then .next s
  else
    let old := s.tim.gm
    let s0 := { s with tim := { s.tim with syncAt := s.now, syncNs := interval, gm := gm % 2 ^ 64 } }
    let s1 := (((s0.wr Reg.ING_GM_ID (BitVec.ofNat 64 gm)).fset Reg.ING_DT_ERR_path_delay delay)).fset Reg.ING_DT_STATUS_is_gm 0
    if old != 0 && old != gm % 2 ^ 64 then
      let s2 := (s1.wr Reg.ING_DT_OFFSET (BitVec.ofInt 64 offset)).fset Reg.ING_DT_STATUS_state 1
      let s3 := (s2.count Reg.ING_DT_STATUS_gm_changes 1).raise 0x02C3 oHub uNone 0
      .next ({ s3 with tim := { s3.tim with near := 0 } }.servo 0)
    else
      let phase := offset - i64Of (s1.rd Reg.ING_DT_OFFSET)
      let s2 := s1.servo phase
      if s2.dtState == 2 then .next s2
      else
        let from_ := if s2.dtState == 1 then s2.tim.near else 0
        let near := if phase.natAbs ≤ 1000 then from_ + 1 else 0
        let s3 := { s2 with tim := { s2.tim with near := near } }.fset Reg.ING_DT_STATUS_state 1
        .next (if 8 ≤ near then s3.enterLocked offset else s3)

/-- The servo loses its grandmaster (R257): HOLDOVER, from LOCKING or LOCKED. -/
def State.syncLost (s : State) : State :=
  if (s.dtState == 1 || s.dtState == 2) && !s.flag Reg.ING_DT_STATUS_is_gm then
    (s.fset Reg.ING_DT_STATUS_state 3).raise 0x02C2 oHub uNone 0
  else s

/-- The gPTP port (Table 9.2). -/
def State.ptpPort (s : State) : Nat := let p := s.fget Reg.ING_DT_CTRL_port; if 5 < p then 0 else p

/-- PEER_DELAY_REQUEST (R261): the gPTP port sends a peer-delay request. -/
def execPeerDelayRequest (s : State) : Host.Outcome State Fault Refusal :=
  if s.flag Reg.ING_DT_CTRL_ptp_en then .next (s.emit s.ptpPort (.pdelay s.ptpPort (s.now + s.fget Reg.ING_PTP_LAT_tx_lat))) else .next s

/-- SYNC_TIMEOUT (R257): no valid Sync for three intervals, or the port stops being asCapable, in LOCKING or LOCKED. -/
def execSyncTimeout (lostCapable : Bool) (s : State) : Host.Outcome State Fault Refusal :=
  .next (if lostCapable || decide (s.tim.syncAt + 3 * s.tim.syncNs ≤ s.now) then s.syncLost else s)

/-- GM_SYNC_TRANSMIT (R261): as grandmaster by election, which a port fixed as SlavePort takes no part in, the part sends a two-step Sync, once in each of
its intervals, with Device Time plus ING_DT_OFFSET at its egress. -/
def execGmSyncTransmit (s : State) : Host.Outcome State Fault Refusal :=
  let lg := min 7 (s.fget Reg.ING_DT_CTRL_sync_lg)
  let due := match s.tim.sentAt with | some t => decide (t + 10 ^ 9 / 2 ^ lg ≤ s.now) | none => true
  if !s.flag Reg.ING_DT_CTRL_ptp_en || !s.flag Reg.ING_DT_CTRL_gm_capable || s.flag Reg.ING_DT_CTRL_ext_port || !due then .next s
  else
    let t := ((s.now : Int) + s.fget Reg.ING_PTP_LAT_tx_lat + i64Of (s.rd Reg.ING_DT_OFFSET)) % (2 ^ 64 : Nat)
    let s1 := ((s.fset Reg.ING_DT_STATUS_is_gm 1).fset Reg.ING_DT_STATUS_state 2).emit s.ptpPort (.sync s.ptpPort t.toNat)
    .next { s1 with tim := { s1.tim with sentAt := some s1.now, gm := 2 ^ 64 } }

/-- Has the spoke of a rejoining die trained, so that the hub sends it time beacons (R353)? -/
def State.beaconsTo (s : State) (t : Nat) : Bool :=
  s.hasDie t && (s.fget (Reg.RST_DIE_state t) == 4 && bit (smGet {} s.pow.dieTimers t).trained 0 || s.fget (Reg.RST_DIE_state t) == 5 || s.fget (Reg.RST_DIE_state t) == 6)

/-- TIME (R262, R263, R353): the hub sends die `t` a time beacon, which finds its copy `d` ns ahead. A copy behind is advanced, one ahead held until
the hub's time reaches it; a beacon that carries the boot step is not judged, and one in a rejoin sets the copy. -/
def execTime (t : Nat) (d : Int) (s0 : State) : Host.Outcome State Fault Refusal :=
  let s := s0.queueMsg t (timeSlot s0.now)
  if s.beaconsTo t then
    .next { s with tim := { s.tim with beaconAt := smPut 0 s.tim.beaconAt t s.now, held := smPut 0 s.tim.held t 0, stepDue := without t s.tim.stepDue } }
  else if !s.dieUp t then .next s0
  else
    let tim := { s.tim with beaconAt := smPut 0 s.tim.beaconAt t s.now }
    if s.tim.stepDue.contains t then .next { s with tim := { tim with stepDue := without t tim.stepDue } }
    else
      let held := smPut 0 tim.held t (if 0 < d then s.now + d.toNat else 0)
      let s1 := { s with tim := { tim with held := held } }
      let s2 := if 16 < d.natAbs then (s1.raise 0x12C5 t uNone 0).count Reg.ING_CNT_TIME_CORR_count 1 else s1
      .next (if 64 < d.natAbs then s2.raise 0x32C6 t uNone 0 else s2)

/-- TIME_BEACON_LOSS (R263): 10 µs without a beacon at a running die. -/
def execTimeBeaconLoss (t : Nat) (s : State) : Host.Outcome State Fault Refusal :=
  if s.dieUp t && s.pow.phase == .running && decide (smGet 0 s.tim.beaconAt t + 10000 ≤ s.now) then
    .next ({ s with tim := { s.tim with beaconAt := smPut 0 s.tim.beaconAt t s.now } }.raise 0x32C6 t uNone 0)
  else .next s

/-! ### Triggers -/

def State.trigAt (s : State) (n : Nat) : TrigState := smGet {} s.ing.trigs n
def State.setTrig (s : State) (n : Nat) (x : TrigState) : State :=
  { s with ing := { s.ing with trigs := smPut {} s.ing.trigs n x } }

/-- May an enabled output run (R264)? -/
def State.trigOk (s : State) (n : Nat) : Bool :=
  let per := s.fget (Reg.ING_TRIG0_period_ns n)
  decide (1000000 ≤ per ∧ per ≤ 1000000000 ∧ s.fget (Reg.ING_TRIG0_phase_ns n) < per
    ∧ s.fget (Reg.ING_TRIG8_width_us n) * 1000 < per)

/-- The latest nominal edge at or before a time: k × period + phase. -/
def State.edgeBefore (s : State) (n : Nat) (x : Int) : Int :=
  let per : Int := max 1 (s.fget (Reg.ING_TRIG0_period_ns n))
  let ph : Int := s.fget (Reg.ING_TRIG0_phase_ns n)
  (x - ph) / per * per + ph

/-- TRIGGER_EDGE (R264, R265): output `n` reaches a nominal edge, within 10 ns: active, counted; or skipped after a change. -/
def execTriggerEdge (n : Nat) (s : State) : Host.Outcome State Fault Refusal :=
  let e := s.edgeBefore n s.now
  let x := s.trigAt n
  let again := match x.seen with | some l => decide (e ≤ (l : Int)) | none => false
  if 16 ≤ n || !s.flag (Reg.ING_TRIG8_en n) || !s.trigOk n || again || e < 0 || 10 < (s.now : Int) - e then .next s
  else
    let w := s.fget (Reg.ING_TRIG8_width_us n) * 1000
    let close := match x.edges.head? with | some l => x.changed && decide (e < (l : Int) + w + 1000) | none => false
    if close then
      .next (((s.raise 0x02CF oHub uNone (detTrig n)).count Reg.ING_CNT_TRIG_SKIP_count 1).setTrig n { x with seen := some e.toNat })
    else
      let s1 := s.setTrig n { edges := (e.toNat :: x.edges).take 128, seen := some e.toNat, off := some (e.toNat + w) }
      let s2 := s1.countWrap (Reg.ING_TRIG8_count n) 1
      .next { s2 with pins := { s2.pins with trig := setBit s2.pins.trig n true } }

/-- TRIGGER_WIDTH_END (R264): the output returns after width_us. -/
def execTriggerWidthEnd (n : Nat) (s : State) : Host.Outcome State Fault Refusal :=
  let x := s.trigAt n
  match x.off with
  | some t =>
    if decide (t ≤ s.now) then
      let s1 := s.setTrig n { x with off := none }
      .next { s1 with pins := { s1.pins with trig := setBit s1.pins.trig n false } }
    else .next s
  | none => .next s

/-! ### Sensors -/

def State.sensor (s : State) (n : Nat) : Sensor := smGet {} s.ing.sensors n
def State.setSensor (s : State) (n : Nat) (x : Sensor) : State :=
  { s with ing := { s.ing with sensors := smPut {} s.ing.sensors n x } }

/-- ING_STAT_s.state: 0 OFF, 1 LOCKING, 2 SYNCED, 3 DESYNC, 4 ABSENT. -/
def State.snState (s : State) (n : Nat) : Nat := s.fget (Reg.ING_STAT0_state n)

/-- An ING event about a sensor. -/
def State.snEvent (s : State) (code n : Nat) : State := s.raise code oHub uNone (detSensor n)

/-- An invalid ingest configuration: 0x22CE, the first captured (R283). -/
def State.badIng (s : State) (det cap : Nat) : State := (s.raise 0x22CE oHub uNone det).capture Reg.ING_ERR cap

/-- The source of a sensor's configuration (R266): port and virtual channel, or the stream's selection. -/
def State.snSource (s : State) (n : Nat) : List Nat :=
  let f (x : Fld) : Nat := s.fget x
  if s.flag (Reg.ING_SENSOR00_src n) then
    let udp := f (Reg.ING_SENSOR10_udp_port n)
    [1, f (Reg.ING_SENSOR00_port n), f (Reg.ING_SENSOR10_vlan n), udp, if udp == 0 then f (Reg.ING_SENSOR18_ethertype n) else 0]
  else [0, f (Reg.ING_SENSOR00_port n), f (Reg.ING_SENSOR00_vc n)]

/-- Is a sensor's own configuration valid (R266, Table 9.15)? -/
def State.snOk (s : State) (n : Nat) : Bool :=
  let eth := s.flag (Reg.ING_SENSOR00_src n)
  let pol := s.fget (Reg.ING_SENSOR00_policy n)
  let mode := s.fget (Reg.ING_SENSOR00_sync_mode n)
  let per := s.fget (Reg.ING_SENSOR00_period_ns n)
  let dt := s.fget (Reg.ING_SENSOR08_dt n)
  let alone := (List.range 64).all fun m => m == n || !s.flag (Reg.ING_SENSOR00_en m) || s.snSource m != s.snSource n
  pol != 3 && mode != 3 && decide (1000000 ≤ per ∧ per ≤ 1000000000)
    && (dt == 0x2B || dt == 0x2C || dt == 0x2E || dt == 0x12)
    && !(eth && (s.fget (Reg.ING_SENSOR00_vc n) != 0 || 5 < s.fget (Reg.ING_SENSOR00_port n) || pol == 1 || pol == 2))
    && !(eth && s.fget (Reg.ING_SENSOR10_udp_port n) == 0 && s.fget (Reg.ING_SENSOR18_ethertype n) == 0x88B5)
    && !((mode == 1 || mode == 2) && !s.flag (Reg.ING_SENSOR00_emb_en n)) && s.fget (Reg.ING_SENSOR10_tick_ps n) != 0 && alone

/-- Crops a sensor's pictures may have (R288). -/
def State.snCrops (s : State) (n : Nat) (p : Profile) : Nat :=
  let pol := s.fget (Reg.ING_SENSOR00_policy n)
  if pol == 1 || pol == 2 then 8 else p.nCrop

/-- Is the profile of a CSI-2 sensor valid (R291)? Its buffer count must be listed (Table 10.7). -/
def State.snProfOk (s : State) (n : Nat) : Bool :=
  let p := readProfile (s.profWords (s.fget (Reg.PRE_SENSOR0_profile n)))
  let nb := s.fget (Reg.PRE_SENSOR0_nbuf n)
  s.flag (Reg.ING_SENSOR00_src n)
    || (p.ok true (s.snCrops n p) (s.fget (Reg.PRE_SENSOR0_buf_stride n)) && decide (4 ≤ nb ∧ nb ≤ 15))

/-- A failed injection holds the sensor OFF (Table 16.8, M21–M23). -/
def State.snBarred (s : State) (n : Nat) : Bool :=
  let port := s.fget (Reg.ING_SENSOR00_port n)
  s.saf.sensorsOff || bit s.saf.csiOff (if s.flag (Reg.ING_SENSOR00_src n) then 16 + port else port)

/-- Region sets now held for a sensor, by buffer: the instant plus one, 0 where the set is not complete. -/
def State.roiNow (s : State) (n : Nat) : List Nat :=
  [0, 1].map fun b => if s.fget (Reg.TRK_ROI_complete n b) == 0xA5 then s.fget (Reg.TRK_ROI_instant n b) + 1 else 0

/-- A sensor enters LOCKING (Table 9.5); signatures are cleared (R457). -/
def State.toLocking (s : State) (n : Nat) : State :=
  let s1 := (s.fset (Reg.ING_STAT0_state n) 1).fset (Reg.ING_STAT0_agree n) 0
  s1.setSensor n { s1.sensor n with sigs := [], prev := none, since := s1.now, roiOld := s1.roiNow n }

/-- A sensor is held OFF. -/
def State.toOff (s : State) (n : Nat) : State :=
  ((s.fset (Reg.ING_STAT0_state n) 0).fset (Reg.ING_STAT0_agree n) 0).setSensor n
    { named := (s.sensor n).named, nextBuf := (s.sensor n).nextBuf }

/-- Configurations judged at an instant boundary, after staged fields took effect; `old` is the state before, `first` marks the first boundary, which
judges what boot loaded too (R264, R266, R276, R291, R397). -/
def State.ingBoundary (s old : State) (first : Bool) : State :=
  let trigWords (x : State) (n : Nat) : List Word := [x.rd (Reg.ING_TRIG0 n), BitVec.ofNat 64 ((x.rd (Reg.ING_TRIG8 n)).toNat % 2 ^ 32)]
  let s1 := (List.range 16).foldl (fun s n =>
    if trigWords s n == trigWords old n && !first then s
    else
      let s2 := s.setTrig n { s.trigAt n with changed := true }
      if s2.flag (Reg.ING_TRIG8_en n) && !s2.trigOk n then
        let s3 := s2.badIng (detTrig n) (n + 2 ^ 6)
        let s4 := s3.setTrig n { s3.trigAt n with off := none }
        { s4 with pins := { s4.pins with trig := setBit s4.pins.trig n false } }
      else if !s2.flag (Reg.ING_TRIG8_en n) then
        let s4 := s2.setTrig n { s2.trigAt n with off := none }
        { s4 with pins := { s4.pins with trig := setBit s4.pins.trig n false } }
      else s2) s
  let cfg (x : State) (n : Nat) : List Word :=
    [x.rd (Reg.ING_SENSOR00 n), x.rd (Reg.ING_SENSOR08 n), x.rd (Reg.ING_SENSOR10 n), x.rd (Reg.ING_SENSOR18 n),
     x.rd (Reg.PRE_SENSOR0 n), x.rd (Reg.PRE_SENSOR8 n)] ++ (x.profWords (x.fget (Reg.PRE_SENSOR0_profile n))).map (BitVec.ofNat 64)
  (List.range 64).foldl (fun s n =>
    let fresh := first || cfg s n != cfg old n
    if !s.flag (Reg.ING_SENSOR00_en n) then (if s.snState n == 0 then s else s.toOff n)
    else if !s.snOk n then
      if s.snState n == 0 && !fresh then s else (s.toOff n).badIng (detSensor n) n
    else if !s.snProfOk n then
      if s.snState n == 0 && !fresh then s else (s.toOff n).preEvent 0x2302 false n 0
    else if s.snBarred n then s.toOff n
    else if s.snState n == 0 then s.toLocking n else s) s1

/-- The enabled sensor on a CSI-2 port and virtual channel. -/
def State.csiSensor (s : State) (port vc : Nat) : Option Nat :=
  (List.range 64).find? fun n => s.flag (Reg.ING_SENSOR00_en n) && s.snSource n == [0, port, vc] && s.snState n != 0

/-- The open frame of a sensor is corrupt (R269). -/
def State.corruptFrame (s : State) (n : Nat) : State :=
  match (s.sensor n).cur with
  | some f =>
    if f.corrupt then s
    else ((s.setSensor n { s.sensor n with cur := some { f with corrupt := true } }).snEvent 0x22CA n).count
      (Reg.ING_CNT_CORRUPT_count n) 1
  | none => s

/-- A header's ECC outcome: corrected (1) raises 0x12CB, uncorrectable (2) makes the frame corrupt (R269). -/
def State.headerEcc (s : State) (n hdr : Nat) : State :=
  if hdr == 1 then (s.snEvent 0x12CB n).count (Reg.ING_CNT_ECC_count n) 1
  else if hdr == 2 then s.corruptFrame n else s

/-- Embedded time (ns) and frame counter of a frame, where the data reaches them (R272, R273). -/
def State.embedded (s : State) (n : Nat) (emb : List Byte) : Option (Nat × Nat) :=
  let timeOff := s.fget (Reg.ING_SENSOR08_emb_time_off n)
  let co := s.fget (Reg.ING_SENSOR08_emb_cnt_off n)
  if emb.length < timeOff + 8 || emb.length < co + 2 then none
  else some (u emb timeOff 8 * s.fget (Reg.ING_SENSOR10_tick_ps n) / 1000, u emb co 2)

/-- Time and count of the trigger edge that a frame pairs with, of those its output has produced (R275): by the recorded pairing when SYNCED, else the
latest at or before the stamp less the expected delay. -/
def State.pairEdge (s : State) (n cnt : Nat) (stamp : Time) : Option (Time × Nat) :=
  let tr := s.fget (Reg.ING_SENSOR00_trig n)
  let es := (s.trigAt tr).edges
  let c : Int := s.fget (Reg.ING_TRIG8_count tr)
  let at_ (i : Nat) : Option (Time × Nat) := es[i]?.map fun e => (e, unsx 16 (c - i))
  match s.snState n, (s.sensor n).pairing with
  | 2, some p =>
    let back := sx 16 (unsx 16 (c - ((p + cnt : Nat) : Int)))
    if back < 0 then none else at_ back.toNat
  | _, _ => (es.findIdx? fun e => e + s.fget (Reg.ING_SENSOR08_lat_us n) * 1000 ≤ stamp).bind at_

/-- Disagreement of a frame, none where no edge was produced for it, and the pairing it makes (R273–R275). -/
def State.disagree (s : State) (n : Nat) (stamp ticks cnt : Nat) : Option Int × Option Nat :=
  let x := s.sensor n
  let mode := s.fget (Reg.ING_SENSOR00_sync_mode n)
  let lat : Int := s.fget (Reg.ING_SENSOR08_lat_us n) * 1000
  let per : Int := s.fget (Reg.ING_SENSOR00_period_ns n)
  if mode == 1 then
    match s.pairEdge n cnt stamp with
    | some (e, j) => (some ((stamp : Int) - ((e : Int) + lat)), if s.snState n == 2 then x.pairing else some (unsx 16 ((j : Int) - cnt)))
    | none => (none, if s.snState n == 2 then x.pairing else none)
  else if mode == 2 && s.dtState != 0 then
    (some (i64 ((stamp : Int) - ((ticks : Int) - i64Of (s.rd Reg.ING_DT_OFFSET) + lat))), none)
  else match x.prev with
    | none => (some 0, none)
    | some (t, c) =>
      let k : Int := if s.flag (Reg.ING_SENSOR00_emb_en n) then ((cnt + 65536 - c) % 65536 : Nat) else 1
      (some ((stamp : Int) - ((t : Int) + k * per)), none)

/-- A frame is evaluated (R273–R276): a gap in its counter, its disagreement, the sensor's state after it. With no edge to pair with it does not agree,
and what d_ns shows is open (log entry 99). -/
def State.judgeDrift (s : State) (n : Nat) (ok : Bool) : State :=
  let a := s.fget (Reg.ING_STAT0_agree n)
  match s.snState n with
  | 2 =>
    if ok then s
    else (((s.fset (Reg.ING_STAT0_state n) 3).fset (Reg.ING_STAT0_agree n) 0).snEvent 0x22C7 n).count (Reg.ING_CNT_DESYNC_count n) 1
  | 1 | 3 =>
    if !ok then s.fset (Reg.ING_STAT0_agree n) 0
    else if 31 ≤ a then ((s.fset (Reg.ING_STAT0_agree n) 32).fset (Reg.ING_STAT0_state n) 2).snEvent 0x02C8 n
    else s.fset (Reg.ING_STAT0_agree n) (a + 1)
  | _ => s

/-- A frame whose start is intact is evaluated at its capture stamp (R273–R276): a gap in its counter, its disagreement, the sensor's state after it. With
no edge to pair with it does not agree, and what d_ns shows is open (log entry 99). -/
def State.evaluate (s : State) (n stamp ticks cnt : Nat) : State × Int :=
  let embOn := s.flag (Reg.ING_SENSOR00_emb_en n)
  let gap := match (s.sensor n).gapCnt with | some c => if embOn then (cnt + 65536 - c) % 65536 else 1 | none => 1
  let s1 := if 1 < gap then (s.snEvent 0x02CC n).count (Reg.ING_CNT_GAP_count n) (gap - 1) else s
  let (o, pair) := s1.disagree n stamp ticks cnt
  let (d, s2) := match o with
    | some d => (d, s1)
    | none => let (k, s2) := s1.draw; (sx 32 (Config.noEdge k), s2)
  let s3 := ((s2.fset (Reg.ING_STAT0_counter n) cnt).fset (Reg.ING_STAT0_d_ns n) (sat32 d)).setSensor n
    { s2.sensor n with prev := some (stamp, cnt), gapCnt := some cnt, pairing := pair }
  (s3.judgeDrift n (o.isSome && decide (d.natAbs ≤ s3.fget (Reg.ING_SENSOR00_period_ns n))), d)

/-- The region set a frame latches (R281): rectangles and roi_src. -/
def State.latchRoi (s : State) (n : Nat) : List (Nat × Nat × Nat × Nat) × Nat :=
  let pol := s.fget (Reg.ING_SENSOR00_policy n)
  let now_ := s.roiNow n
  let old := (s.sensor n).roiOld
  let ok (b : Nat) : Bool := nth 0 now_ b != 0 && nth 0 now_ b != nth 0 old b
  let best : Option Nat := if ok 0 && ok 1 then
      (if decide (sx 32 (unsx 32 ((nth 0 now_ 0 : Nat) - (nth 0 now_ 1 : Nat) : Int)) < 0) then some 1 else some 0)
    else if ok 0 then some 0 else if ok 1 then some 1 else none
  match best with
  | some b =>
    let k := min 8 (s.fget (Reg.TRK_ROI_count n b))
    if !(pol == 1 || pol == 2) || k == 0 then ([], 0xF)
    else ((List.range k).map fun i => (s.fget (Reg.TRK_ROI_RECT_x n b i), s.fget (Reg.TRK_ROI_RECT_y n b i),
      s.fget (Reg.TRK_ROI_RECT_w n b i), s.fget (Reg.TRK_ROI_RECT_h n b i)), s.fget (Reg.TRK_ROI_instant n b) % 16)
  | none => ([], 0xF)

/-- The next output buffer in ring order that is neither named in the two latest instant sets nor being written (R294). -/
def State.takeBuf (s : State) (n : Nat) : Option Nat :=
  let x := s.sensor n
  let nb := s.fget (Reg.PRE_SENSOR0_nbuf n)
  let held (i : Nat) : Bool := x.named.any (fun l => l.contains i) || x.queue.any (fun f => f.buf == i)
    || (match x.cur with | some f => f.buf == i && !f.dropped | none => false)
  ((List.range nb).map fun k => (x.nextBuf + k) % max 1 nb).find? fun i => !held i

/-- A frame starts at a sensor (R271–R276, R281, R294). `whole`: its start was received intact. -/
def State.frameStart (s : State) (n stamp : Nat) (whole : Bool) (emb : List Byte) : State :=
  let s0 := (s.corruptFrame n).count (Reg.ING_CNT_FRAMES_count n) 1
  let embOn := s0.flag (Reg.ING_SENSOR00_emb_en n)
  let e := s0.embedded n emb
  let (ticks, cnt) := if embOn then e.getD (0, 0) else (0, 0)
  let bad := !whole || (embOn && e.isNone)
  let s1 := if s0.snState n == 4 then s0.toLocking n else s0
  let s2 := s1.wr (Reg.ING_STAT8 n) (BitVec.ofNat 64 stamp)
  let (s5, d) := if bad then (s2, (0 : Int)) else s2.evaluate n stamp ticks cnt
  let (rois, src) := s5.latchRoi n
  let prof := s5.profWords (s5.fget (Reg.PRE_SENSOR0_profile n))
  let p := readProfile prof
  let crops := if rois.isEmpty then p.crops.take p.nCrop else rois
  let old := s5.setSensor n { s5.sensor n with cur := none, since := s5.now }
  let f : Frame := { stamp := stamp, counter := cnt, d := d, roiSrc := src, crops := crops, prof := prof }
  let s6 := match old.takeBuf n with
    | some i => old.setSensor n { old.sensor n with cur := some { f with buf := i },
                                                    nextBuf := (i + 1) % max 1 (old.fget (Reg.PRE_SENSOR0_nbuf n)) }
    | none => ((old.setSensor n { old.sensor n with cur := some { f with dropped := true } }).preEvent 0x2301 false n 0).count
        (Reg.PRE_CNT_DROP_count n) 1
  if bad then s6.corruptFrame n else s6

/-- The capture stamp of a CSI-2 frame whose header is decoded now: less the receiver's latency, within ±20 ns (R271). -/
def State.csiStamp (s : State) (port : Nat) (dev : Int) : Time :=
  ((s.now : Int) - (Config.csiLatency port).toNat + clampI (-20) 20 dev).toNat

/-- FRAME_START (R271): a CSI-2 Frame Start on a port and virtual channel; `hdr` its header's ECC outcome, `dev` the deviation of its capture
stamp, `emb` the first embedded-data line. -/
def execFrameStart (port vc hdr : Nat) (dev : Int) (emb : List Byte) (s : State) : Host.Outcome State Fault Refusal :=
  match s.csiSensor port vc with
  | none => .next s
  | some n =>
    let s1 := if hdr == 1 then s.headerEcc n 1 else s
    .next (s1.frameStart n (s.csiStamp port dev) (hdr != 2) emb)

/-- CSI2_LONG_PACKET (R269, R270): a long packet: its data type, the outcome of its header's ECC, how many bytes the port's line buffer of
256 KiB would hold with it, its CRC, and whether the generators of its check values disagree. -/
def execCsi2LongPacket (port vc dt hdr fill : Nat) (crcBad gen : Bool) (payload : List Byte) (s : State) :
    Host.Outcome State Fault Refusal :=
  match s.csiSensor port vc with
  | none => .next s
  | some n =>
    let overflow := decide (262144 < fill)
    let s0 := { s with ing := { s.ing with fill := smPut 0 s.ing.fill port (min 262144 fill) } }
    let s1 := s0.headerEcc n hdr
    let want := s1.fget (Reg.ING_SENSOR08_dt n)
    let s2 := if crcBad || overflow || (dt != want && dt != 0x12) then s1.corruptFrame n else s1
    let s3 := if gen then s2.raise 0x25C4 oHub uNone 0 else s2
    match (s3.sensor n).cur with
    | some f =>
      if f.corrupt || dt != want then .next s3
      else .next (s3.setSensor n { s3.sensor n with cur := some { f with data := f.data ++ payload, poisoned := f.poisoned || gen } })
    | none => .next s3

/-- The 1,024 sampled pixels of a frame (R456). -/
def samples (dt : Nat) (p : Profile) (data : List Byte) : List Nat :=
  (List.range 1024).map fun k =>
    unpack dt p.inW data ((2 * (k % 32) + 1) * p.inW / 64) ((2 * (k / 32) + 1) * p.inH / 64)

/-- Bytes that a frame lacks are undefined (log entry 43). -/
def State.fillFrame (s : State) (data : List Byte) (n : Nat) : State × List Byte :=
  if n ≤ data.length then (s, data)
  else
    let (k, s1) := s.draw
    (s1, data ++ (List.range (n - data.length)).map fun i => Config.hazyByte k (data.length + i))

/-- The frame's verdict (R457, R458), its signature and counter kept: is it frozen or repeated? -/
def State.judgeFrozen (s : State) (n : Nat) (f : Frame) (sig : Nat) (uniform : Bool) : State × Bool :=
  let x := s.sensor n
  let depth := clampN 1 4 (s.fget Reg.SAF_FF_CTRL_depth)
  let on := s.flag Reg.SAF_FF_CTRL_ff_en && bit (s.fget Reg.SAF_FF_EN_en) n
  let frozen := !uniform && (x.sigs.take depth).contains sig
  let repeated := s.flag (Reg.ING_SENSOR00_emb_en n) && x.prevCnt == some f.counter
  let s1 := s.setSensor n { x with sigs := (sig :: x.sigs).take 4, prevCnt := some f.counter }
  if on && (frozen || repeated) then
    let s2 := s1.count (Reg.SAF_CNT_FF_count n) 1
    let s3 := if s2.ing.frozen.contains n then s2
      else { s2 with ing := { s2.ing with frozen := n :: s2.ing.frozen } }.raise 0x2608 oHub 0x20 (detSensor n)
    (s3, true)
  else (s1, false)

/-- The open frame of a sensor ends (R457, R458): judged, then handed to the pipeline; an Ethernet frame, whose payload is in its
buffer already, is complete. -/
def State.frameEnd (s : State) (n : Nat) : State :=
  match (s.sensor n).cur with
  | none => s
  | some f =>
    let s0 := s.setSensor n { s.sensor n with cur := none }
    if f.corrupt then s0.setSensor n { s0.sensor n with prevCnt := some f.counter }
    else
      let eth := s0.flag (Reg.ING_SENSOR00_src n)
      let p := readProfile f.prof
      let dt := s0.fget (Reg.ING_SENSOR08_dt n)
      let (s1, data) := if eth then (s0, f.data) else s0.fillFrame f.data (lineBytes dt p.inW * p.inH)
      let px := samples dt p data
      let sig := if eth then crc32c (data.take 65536) else crc32c (px.flatMap fun v => leBytes 2 v)
      let uniform := !eth && px.all (fun v => v == nth 0 px 0)
      let (s2, stop) := s1.judgeFrozen n f sig uniform
      if stop || f.dropped then s2
      else if eth then
        s2.setSensor n { s2.sensor n with done := { stamp := f.stamp, counter := f.counter, d := f.d, roiSrc := f.roiSrc,
                                                    buf := f.buf, done := s2.now } :: (s2.sensor n).done }
      else s2.setSensor n { s2.sensor n with queue := (s2.sensor n).queue ++ [{ f with data := data }] }

/-- FRAME_END (R457): a CSI-2 Frame End. -/
def execFrameEnd (port vc hdr : Nat) (s : State) : Host.Outcome State Fault Refusal :=
  match s.csiSensor port vc with
  | none => .next s
  | some n => .next ((s.headerEcc n hdr).frameEnd n)

/-- SENSOR_ABSENT (R276): no capture for three frame periods. -/
def execSensorAbsent (n : Nat) (s : State) : Host.Outcome State Fault Refusal :=
  let st := s.snState n
  if n < 64 && decide (1 ≤ st ∧ st ≤ 3) && decide ((s.sensor n).since + 3 * s.fget (Reg.ING_SENSOR00_period_ns n) ≤ s.now) then
    let s1 := s.setSensor n { s.sensor n with prev := none }
    .next ((s1.fset (Reg.ING_STAT0_state n) 4).snEvent 0x22CD n)
  else .next s

/-- Address of an output buffer of a sensor (R294). -/
def State.bufAddr (s : State) (n i : Nat) : Nat :=
  s.fget (Reg.PRE_SENSOR8_out_base n) + i * s.fget (Reg.PRE_SENSOR0_buf_stride n)

/-! ### The pick (R278–R280) -/

/-- What the pick makes of a sensor: its reason, and the frame named. -/
def State.pickOf (s : State) (n : Nat) (at_ : Time) : Nat × Option DoneFrame :=
  match s.snState n with
  | 0 => (5, none)
  | 4 => (3, none)
  | 2 =>
    match (s.sensor n).done.find? fun f => f.done ≤ at_ with
    | none => (4, none)
    | some f =>
      let pol := s.fget (Reg.ING_SENSOR00_policy n)
      let age := s.fget (Reg.ING_SENSOR00_age_ms n)
      if pol != 1 && decide (f.stamp + (if age == 0 then 60 else age) * 1000000 < at_) then (1, some f) else (0, some f)
  | _ => (2, none)

/-- An instant-set entry (Table 9.7). A frame that is not delivered names no address (log entry 39). -/
def State.setEntry (s : State) (n : Nat) (at_ : Time) (why : Nat) (f : Option DoneFrame) (mute : Bool) : List Byte :=
  let valid := why == 0 && !mute
  match f with
  | some f =>
    let data := if valid then s.bufAddr n f.buf else 0
    leBytes 8 f.stamp ++ leBytes 4 (f.counter % 2 ^ 16 + n * 2 ^ 16 + b2n valid * 2 ^ 22 + (if mute then 6 else why) * 2 ^ 23)
      ++ leBytes 4 (min 0xFFFFFFFF ((at_ - f.stamp) / 1000)) ++ leBytes 8 data ++ leBytes 4 (sat32 f.d) ++ leBytes 4 f.roiSrc
  | none => leBytes 8 0 ++ leBytes 4 (n * 2 ^ 16 + (if mute then 6 else why) * 2 ^ 23) ++ leBytes 20 0

/-- One sensor at the pick (R278, R280): its counters, its frames superseded, the buffer named. -/
def State.pickSensor (s : State) (n : Nat) (at_ : Time) (mute : Bool) : State :=
  let (why, f) := s.pickOf n at_
  let s1 := if why == 1 then (s.snEvent 0x02C9 n).count (Reg.ING_CNT_STALE_count n) 1 else s
  let s2 := if mute || 2 ≤ why then s1.count (Reg.ING_CNT_EXCL_count n) 1 else s1
  let x := s2.sensor n
  let named := match f with | some f => if why == 0 && !mute then [f.buf] else [] | none => []
  s2.setSensor n { x with done := x.done.filter (fun f => at_ < f.done), named := (named :: x.named).take 2 }

/-- The set of instant `n` is written (R279, R280); `mute`: every valid bit is 0. -/
def State.pickNow (s : State) (n : Nat) (copies : Bool) (gen : List Nat) (mute0 : Bool) : State :=
  let at_ := s.tref
  let s1 := { s with ing := { s.ing with picked := n + 1 } }
  let s2 := if copies then s1.raise 0x22D0 oHub uNone 0 else s1
  let mute := mute0 || copies || s2.saf.setOff
  let set := (List.range 64).flatMap fun k =>
    let (why, f) := s2.pickOf k at_
    s2.setEntry k at_ why f mute
  let base := s2.fget Reg.ING_SET_BASE_base + 2048 * (n % 2)
  let s3 := if s2.ing.noSet then s2 else
    (gen.filter (· < 8)).foldl (fun s b =>
      let s4 := s.raise 0x25C4 oHub uNone 0
      match s4.locate (s4.target 8 (base + 256 * b)) with
      | some l => s4.locSetChk l 0xFFFFFFFF | none => s4) (s2.poke 8 0x12 base set)
  (List.range 64).foldl (fun s k => s.pickSensor k at_ mute) s3

/-- PICK (R278–R280, R455): the instant's set is formed at its pick time; `copies`: the writer's copies differ; `gen`: blocks whose
check-value generators disagree. It kicks hub window 0; too late for it, every valid bit is 0. -/
def execPick (copies : Bool) (gen : List Nat) (s : State) : Host.Outcome State Fault Refusal :=
  let n := (s.rd Reg.FUS_INSTANT).toNat
  if s.pow.phase != .running || !s.fus.started || s.planRec.isNone || s.ing.picked == n + 1 || decide (s.now < s.tref) then .next s
  else .next ((s.kickHub 0).pickNow n copies gen (s.hubLate 0))

end Sys2Proof.Machine
end

