-- ==== Sys2Proof/Machine/Smpl.lean ====
section
/-! DEFINITION. The pipeline's outputs, video decode and sample streams (R293–R307): decode cores, budgets, the order of samples,
fetch rings, batches and replacement. -/

namespace Sys2Proof.Machine

/-! ### Streams -/

def State.stream (s : State) (q : Nat) : Stream := smGet {} s.smpl.streams q
def State.setStream (s : State) (q : Nat) (x : Stream) : State :=
  { s with smpl := { s.smpl with streams := smPut {} s.smpl.streams q x } }

/-- Views of each sample of a stream. -/
def State.nViews (s : State) (q : Nat) : Nat := s.fget (Reg.SMPL_CFG_views_m1 q) + 1

/-- A SMPL event; class C2 is captured (R307). -/
def State.smplEvent (s : State) (code q pos : Nat) : State :=
  let s1 := s.raise code oHub 0x1A (detStream q 0)
  if codeClass code == 2 then s1.capture Reg.SMPL_ERR (bits code 5 0 + q % 16 * 2 ^ 6 + pos % 2 ^ 40 * 2 ^ 10) else s1

/-- The smallest even m, 2 or more, with 2^m ≥ n, given the half of it to begin with (R300). -/
def halfBits (n : Nat) : Nat → Nat → Nat
  | 0, h => h
  | k + 1, h => if n ≤ 2 ^ (2 * h) then h else halfBits n k (h + 1)

/-- The four rounds of R300 on x, of halves of `h` bits. -/
def feistel (key h x : Nat) : Nat :=
  let mask := 2 ^ h - 1
  let (l, r) := (List.range 4).foldl (fun (lr : Nat × Nat) i =>
    (lr.2, lr.1 ^^^ (mix (key ^^^ (i * 2 ^ 56) ^^^ lr.2) &&& mask))) (x / 2 ^ h, x % 2 ^ h)
  l * 2 ^ h + r

/-- The walk of R300 back into 0 … n − 1. -/
def permWalk (key h n : Nat) : Nat → Nat → Nat
  | 0, x => x
  | k + 1, x => let y := feistel key h x; if y < n then y else permWalk key h n k y

/-- perm(j) of R300 for a seed, an epoch and N. -/
def perm (seed epoch n j : Nat) : Nat :=
  let h := halfBits n 32 1
  permWalk (mix (seed ^^^ mix (0x5350000000000000 ||| epoch))) h n (2 ^ (2 * h)) j

/-- The sample that a position of a stream names. -/
def State.sampleAt (s : State) (q pos : Nat) : Nat :=
  perm (s.fget (Reg.SMPL_SEED_seed q)) (s.fget (Reg.SMPL_STATE_epoch q)) (s.fget (Reg.SMPL_N_n q)) pos

/-- Microseconds in which a stream has waited on a fetch are added to SMPL_CNT_WAIT_US, the remainder carried; the wait goes on
while a fetch is outstanding (log entry 45). -/
def State.settleWait (s : State) (q : Nat) : State :=
  let x := s.stream q
  let ns := (match x.waitFrom with | some t => s.now - t | none => 0) + x.waitRem
  let s1 := s.count (Reg.SMPL_CNT_WAIT_US_us q) (ns / 1000)
  s1.setStream q { x with waitRem := ns % 1000, waitFrom := if x.fetches.isEmpty then none else some s1.now }

/-- The lowest staging slot that holds no sample. -/
def State.freeStage (s : State) (q : Nat) : Option Nat :=
  let x := s.stream q
  let used := x.fetches.map (·.stage) ++ (match x.batch with | some b => b.slots.filterMap (·.stage) | none => [])
  (List.range (s.fget (Reg.SMPL_CFG_nslots q))).find? fun i => !used.contains i

/-- The fetch entry of slot `i` of the batch is written, where the ring and a staging slot have room (R301). -/
def State.fetchSlot (s : State) (q : Nat) (b : SmplBatch) (i : Nat) : State :=
  let x := s.stream q
  let n := s.fget (Reg.SMPL_FETCH_issued q)
  let size := 2 ^ (s.fget (Reg.SMPL_FETCH_BASE_lg q) + 4)
  match b.slots[i]?, s.freeStage q with
  | some y, some k =>
    if y.empty || y.issued.isSome || size ≤ (n + 65536 - s.fget (Reg.SMPL_FETCH_done q)) % 65536 then s
    else
      let w := leBytes 8 (s.sampleAt q y.pos % 2 ^ 40 + k % 2 ^ 16 * 2 ^ 40) ++ leBytes 8 (y.pos % 2 ^ 40 + b2n y.replaced * 2 ^ 40)
      let s1 := (s.poke 8 0x1A (s.fget (Reg.SMPL_FETCH_BASE_base q) + 16 * (n % size)) w).fset (Reg.SMPL_FETCH_issued q) ((n + 1) % 65536)
      let y1 := { y with issued := some n, stage := some k }
      let fs := x.fetches ++ [{ n := n, stage := k }]
      s1.setStream q { x with batch := some { b with slots := setNth b.slots i y1 }, fetches := fs,
                              waitFrom := some (x.waitFrom.getD s.now) }
  | _, _ => s

/-- Fetch entries are written in the order positions were assigned, as far as there is room. -/
def State.pump (s : State) (q : Nat) : State :=
  match (s.stream q).batch with
  | none => s
  | some b => (List.range b.slots.length).foldl (fun s i =>
      match (s.stream q).batch with | some b => s.fetchSlot q b i | none => s) s

/-- One slot of the batch in formation changed. -/
def State.setSlot (s : State) (q i : Nat) (f : SmplSlot → SmplSlot) : State :=
  let x := s.stream q
  match x.batch with
  | none => s
  | some b => s.setStream q { x with batch := some { b with slots := b.slots.modify i f } }

def State.slot? (s : State) (q i : Nat) : Option SmplSlot := (s.stream q).batch.bind fun b => b.slots[i]?

/-- The part on a decode core. -/
def State.core (s : State) (k : Nat) : Option CoreRun := smGet none s.smpl.cores k
def State.setCore (s : State) (k : Nat) (r : Option CoreRun) : State :=
  { s with smpl := { s.smpl with cores := smPut none s.smpl.cores k r } }

/-- Parts of a stream that pass a test are to stop at their next slice boundary. -/
def State.stopParts (s : State) (f : CoreRun → Bool) (drop : Bool) : State :=
  (List.range 16).foldl (fun s k => match s.core k with
    | some r => if f r then (s.setCore k (some { r with stop := true, dropped := r.dropped || drop })).fset (Reg.DEC_CORE_state k) 3 else s
    | none => s) s

/-- A sample is bad (R299): its other views are stopped, its pictures leave the pipeline, and it is counted once, where a counter is
named. -/
def State.markBad (s : State) (q i : Nat) (cnt : Option Fld) : State :=
  match s.slot? q i with
  | none => s
  | some y =>
    if y.bad then s
    else
      let s1 := (s.setSlot q i fun (y : SmplSlot) => { y with bad := true }).stopParts (fun r => r.q == q && r.slot == i) false
      let s2 := { s1 with smpl := { s1.smpl with pics := s1.smpl.pics.filter fun p => !(p.run.q == q && p.run.slot == i) } }
      match cnt with | some f => s2.count f 1 | none => s2

/-! ### Decode cores -/

/-- A decode core is free again. -/
def State.freeCore (s : State) (k : Nat) : State := (s.setCore k none).wr (Reg.DEC_CORE k) 1

/-- A DEC event, captured with its reason (R307). -/
def State.decEvent (s : State) (code k reason : Nat) (r : CoreRun) : State :=
  (s.raise code oHub 0x13 (detStream r.q r.view)).capture Reg.DEC_ERR
    (bits code 5 0 + r.q % 16 * 2 ^ 6 + r.view % 8 * 2 ^ 10 + k % 16 * 2 ^ 16 + reason * 2 ^ 20)

/-- Microseconds since a part's start, as a u32. -/
def State.elapsed (s : State) (r : CoreRun) : Nat := (s.now - r.start) / 1000 % 2 ^ 32

/-- The budget of a part (R298), µs. -/
def State.partBudget (s : State) (r : CoreRun) : Nat :=
  let ceil := s.fget (Reg.SMPL_VIEW_ceil_us r.q r.view)
  if s.fget (Reg.SMPL_MEAN_n_done r.q r.view) < 16 then ceil
  else min (3 * s.fget (Reg.SMPL_MEAN_mean_us r.q r.view)) ceil

/-- The running mean takes a part that has completed or was abandoned (R298). -/
def State.takeMean (s : State) (r : CoreRun) : State :=
  let n := s.fget (Reg.SMPL_MEAN_n_done r.q r.view)
  let m := s.fget (Reg.SMPL_MEAN_mean_us r.q r.view)
  let e := s.elapsed r
  let m1 := if n == 0 then e else unsx 32 ((m : Int) + (sx 32 e - sx 32 m) / 16)
  (s.fset (Reg.SMPL_MEAN_mean_us r.q r.view) m1).fset (Reg.SMPL_MEAN_n_done r.q r.view) (min 16 (n + 1))

/-- Address of the staging slot of a slot of the batch. -/
def State.stageAt (s : State) (q k : Nat) : Nat := s.fget (Reg.SMPL_STAGE_base q) + k * s.fget (Reg.SMPL_STAGE_slot_kib q) * 1024

/-- The view record of a sample (R301): bitstream offset, length, out_index, whether it is valid. -/
def State.viewRec (s : State) (q k v : Nat) : Nat × Nat × Nat × Bool :=
  let b := s.peek 8 (s.stageAt q k + 16 * v) 16
  let o := u b 0 4
  let n := u b 4 4
  (o, n, u b 8 2, decide (o + n ≤ s.fget (Reg.SMPL_STAGE_slot_kib q) * 1024) && u b 10 6 == 0)

/-- Is a stream running: enabled, its configuration valid (R305)? -/
def State.streamOn (s : State) (q : Nat) : Bool :=
  s.pow.phase == .running && s.flag (Reg.SMPL_CFG_en q) && !(s.stream q).off && !(s.stream q).cfg.isEmpty

/-- May decode core `k` start a part? -/
def State.coreReady (s : State) (k : Nat) : Bool :=
  decide (k < 16) && bit (s.fget Reg.DEC_CTRL_core_en) k && !bit s.saf.decOff k && (s.core k).isNone

/-- DECODE_PART_START (R290, R296, R301): a core starts view `view` of a slot of the stream's batch, its fetch done. The sample's
staging header is judged when the first of its views starts; an invalid one makes the sample bad (0x2384) and starts nothing. -/
def execDecodePartStart (core q slot view : Nat) (s : State) : Host.Outcome State Fault Refusal :=
  match s.slot? q slot with
  | none => .next s
  | some y =>
    match y.issued, y.stage with
    | some n, some k =>
      let waits := (s.stream q).fetches.any fun f => f.n == n
      if !s.streamOn q || !s.coreReady core || y.bad || y.empty || waits || s.nViews q ≤ view then .next s
      else if y.views.isEmpty && !(List.range (s.nViews q)).all (fun v => (s.viewRec q k v).2.2.2) then
        .next (((s.meet 8 0x1A (s.stageAt q k) (16 * s.nViews q)).smplEvent 0x2384 q y.pos).markBad q slot (some (Reg.SMPL_CNT_CORRUPT_count q)))
      else
        let vs := if y.views.isEmpty then List.replicate (s.nViews q) ViewSt.todo else y.views
        if nth .done vs view != .todo then .next s
        else
          let r : CoreRun := { q := q, slot := slot, view := view, start := s.now,
                               prof := s.profWords (s.fget (Reg.SMPL_VIEW_profile q view)) }
          let s0 := if y.views.isEmpty then s.meet 8 0x1A (s.stageAt q k) (16 * s.nViews q) else s
          let s1 := (s0.setSlot q slot fun (y : SmplSlot) => { y with views := setNth vs view .busy }).setCore core (some r)
          .next (s1.wr (Reg.DEC_CORE core) (BitVec.ofNat 64 (2 + q * 2 ^ 2 + view * 2 ^ 6 + y.pos % 2 ^ 40 * 2 ^ 16)))
    | _, _ => .next s

/-- A part is abandoned (R298): 0x2342, counted, its mean taken, its sample bad. -/
def State.abandon (s : State) (k reason : Nat) (r : CoreRun) : State :=
  if r.dropped then s.freeCore k
  else
    let s1 := ((s.decEvent 0x2342 k reason r).count Reg.DEC_CNT_ABANDON_count 1).takeMean r
    (s1.freeCore k).markBad r.q r.slot (some (Reg.SMPL_CNT_OVER_count r.q))

/-- SLICE_BOUNDARY (R298, R299): a part to be stopped stops; one at or past its budget is abandoned. -/
def execSliceBoundary (core : Nat) (s : State) : Host.Outcome State Fault Refusal :=
  match s.core core with
  | none => .next s
  | some r =>
    if r.stop then .next (s.freeCore core)
    else if s.partBudget r ≤ s.elapsed r then .next (s.abandon core 6 r)
    else .next s

/-- DECODE_HARD_STOP (R298): a part that has run for twice ceil_us is abandoned wherever it is. -/
def execDecodeHardStop (core : Nat) (s : State) : Host.Outcome State Fault Refusal :=
  match s.core core with
  | none => .next s
  | some r =>
    if 2 * s.fget (Reg.SMPL_VIEW_ceil_us r.q r.view) ≤ s.elapsed r then .next (s.abandon core 7 r) else .next s

/-- The first cause of R297 that a part meets, in the order listed. A picture outside Table 10.5 uses a feature outside it: monochrome in an HEVC view,
a depth other than 8 or 10 bits, a size beyond 8,192 × 8,704. -/
def State.corruptCause (s : State) (r : CoreRun) (err : Option Nat) (pic : Picture) (npics : Nat) : Option Nat :=
  let p := readProfile r.prof
  let (o, n, out, _) := match (s.slot? r.q r.slot).bind (·.stage) with | some k => s.viewRec r.q k r.view | none => (0, 0, 0, true)
  let at_ := match (s.slot? r.q r.slot).bind (·.stage) with | some k => s.stageAt r.q k | none => 0
  let outside := (pic.cb.isEmpty && s.fget (Reg.SMPL_VIEW_codec r.q r.view) == 0) || !(pic.depth == 8 || pic.depth == 10)
    || decide (8192 < pic.w ∨ 8704 < pic.h)
  ([0, 1, 2, 3, 4, 5] : List Nat).find? fun c =>
    if c == 0 && outside then true
    else if c == 2 then decide (npics ≤ out)
    else if c == 3 then pic.w != p.inW || pic.h != p.inH
    else if c == 4 then !s.sound 8 (at_ + o) n || !s.sound 8 (at_ + 16 * r.view) 16
    else err == some c

/-- Nanoseconds held by the decode share are added to DEC_CNT_HOLD_US in whole microseconds (R296). -/
def State.addDecHold (s : State) (ns : Nat) : State :=
  let all := ns + s.smpl.holdRem
  let s1 := s.count Reg.DEC_CNT_HOLD_US_us (all / 1000)
  { s1 with smpl := { s1.smpl with holdRem := all % 1000 } }

/-- The core keeps the picture in its region of the work area, through the decode port (R296); how it lays pictures out there is open (log entry 100). -/
def State.keepPicture (s : State) (k : Nat) (pic : Picture) : State :=
  let size := s.fget Reg.DEC_WORK_mib * 2 ^ 20
  let (n, s1) := s.draw
  s1.poke 8 0x13 (s.fget Reg.DEC_WORK_base + k * size)
    ((List.range (min size ((pic.w * pic.h + 2 * pic.cb.length) * ((pic.depth + 7) / 8)))).map (Config.hazyByte n))

/-- DECODE_PART_END (R296–R298, R420): a part ends. `err`: what the core met of a syntax error (0), a first picture that does not begin
a sequence (1), an uncorrectable error (5); `pic`: its target picture; `npics`: the pictures it reconstructed; `hold`: nanoseconds
held by the decode share; `gen`: the generators of the picture's check values disagree. -/
def execDecodePartEnd (core : Nat) (err : Option Nat) (pic : Picture) (npics hold : Nat) (gen : Bool) (s : State) :
    Host.Outcome State Fault Refusal :=
  match s.core core with
  | none => .next s
  | some r =>
    let s0 := match (s.slot? r.q r.slot).bind (·.stage) with
      | some k => let v := s.viewRec r.q k r.view; s.meet 8 0x13 (s.stageAt r.q k + v.1) v.2.1
      | none => s
    let s1 := ((s0.keepPicture core pic).count Reg.DEC_CNT_PICS_count npics).addDecHold hold
    if r.dropped then .next (s1.freeCore core)
    else match s1.corruptCause r err pic npics with
      | some c =>
        let s2 := (s1.decEvent 0x2341 core c r).count Reg.DEC_CNT_CORRUPT_count 1
        .next ((s2.freeCore core).markBad r.q r.slot (some (Reg.SMPL_CNT_CORRUPT_count r.q)))
      | none =>
        let s2 := if gen then s1.raise 0x25C4 oHub 0x13 0 else s1
        let s3 := (s2.takeMean r).freeCore core
        if r.stop then .next s3
        else
          let done (y : SmplSlot) : SmplSlot :=
            let vs := setNth y.views r.view .decoded
            { y with views := vs, stage := if vs.all (fun v => v == .decoded || v == .done) then none else y.stage }
          let s4 := s3.setSlot r.q r.slot done
          let w : PicWait := { run := r, pic := pic, poisoned := gen }
          .next ({ s4 with smpl := { s4.smpl with pics := s4.smpl.pics ++ [w] } }.pump r.q)

/-! ### The pipeline's outputs -/

/-- Stages 1 to 4 of a live frame. -/
def State.liveImg (s : State) (p : Profile) (dt : Nat) (data : List Byte) : Nat → Nat → Nat → Nat :=
  p.colour s (p.demosaic (p.balance (unpack dt p.inW data)))

/-- Stage 4 of a decoded picture: chroma upsampled, then samples scaled to 16 bits, absent chroma 32,768. -/
def State.decodedImg (s : State) (p : Profile) (x : Picture) : Nat → Nat → Nat → Nat :=
  let sc (v : Nat) : Nat := v * 2 ^ (16 - x.depth)
  let cw := (x.w + 1) / 2
  let ch := (x.h + 1) / 2
  let chroma (pl : List Nat) (i j : Nat) : Nat :=
    if pl.isEmpty then 32768 else sc (bilinear 0 0 cw ch x.w x.h (fun a b => nth 0 pl (b * cw + a)) i j)
  p.colour s fun i j c => match c with
    | 0 => sc (nth 0 x.y (j * x.w + i))
    | 1 => chroma x.cb i j
    | _ => chroma x.cr i j

/-- Address of the batch buffer in formation (R304). -/
def State.batchAt (s : State) (q : Nat) : Nat :=
  s.fget (Reg.SMPL_BATCH_BASE_base q)
    + s.fget (Reg.SMPL_STATE_batch q) % (s.fget (Reg.SMPL_CFG_nbatch_m1 q) + 1) * s.fget (Reg.SMPL_STRIDE_batch_stride q)

/-- Bytes of a batch's head and slot records (R304). -/
def recordArea (cnt : Nat) : Nat := roundUp (64 + 16 * cnt) 256

/-- The oldest frame of a sensor leaves the pipeline: withheld, or its outputs written and the frame complete (R278, R289, R293). -/
def State.liveDone (s : State) (n : Nat) (f : Frame) (o : UnitObs) : State :=
  let s1 := s.setSensor n { s.sensor n with queue := (s.sensor n).queue.drop 1 }
  match s1.pipeFaults false n 0 f.poisoned o.eccFix o.eccBad o.copies with
  | (s2, true) => s2
  | (s2, false) =>
    let p := readProfile f.prof
    let img := s2.liveImg p (s2.fget (Reg.ING_SENSOR08_dt n)) f.data
    let base := s2.bufAddr n f.buf
    let x := s2.render p f.prof img f.crops base f.stamp 0 n 0 f.counter
    let s3 := x.1.storeOut { base := base, bytes := x.2, gen := o.gen }
    let d : DoneFrame := { stamp := f.stamp, counter := f.counter, d := f.d, roiSrc := f.roiSrc, buf := f.buf, done := s3.now }
    s3.setSensor n { s3.sensor n with done := d :: (s3.sensor n).done }

/-- A decoded picture leaves the pipeline: withheld, which makes its sample bad, or its output made (R289, R293). The outputs of a sample are written to
its batch once all its views have left the pipeline: a slot that ends EMPTY keeps its output area unchanged (R304). -/
def State.decodedDone (s : State) (x : PicWait) (o : UnitObs) : State :=
  let q := x.run.q
  let s1 := { s with smpl := { s.smpl with pics := s.smpl.pics.erase x } }
  match s1.pipeFaults true q x.run.view x.poisoned o.eccFix o.eccBad o.copies, s1.slot? q x.run.slot, (s1.stream q).batch with
  | (s2, true), _, _ => s2.markBad q x.run.slot none
  | (s2, false), some y, some b =>
    let p := readProfile x.run.prof
    let at_ := s2.batchAt q + recordArea b.slots.length
      + (x.run.slot * s2.nViews q + x.run.view) * s2.fget (Reg.SMPL_STRIDE_view_stride q)
    let z := s2.render p x.run.prof (s2.decodedImg p x.pic) (p.crops.take p.nCrop) at_ 0 1 q x.run.view (s2.sampleAt q y.pos)
    let vs := setNth y.views x.run.view .done
    let outs := y.outs ++ [{ base := at_, bytes := z.2, gen := o.gen }]
    let whole := vs.all (· == .done)
    let s3 := z.1.setSlot q x.run.slot fun (y : SmplSlot) => { y with views := vs, outs := if whole then [] else outs }
    if whole then outs.foldl (fun (s : State) (w : PicOut) => s.storeOut w) s3 else s3
  | (s2, false), _, _ => s2

/-- Sensors with a frame that waits for the pipeline. -/
def State.liveWaits (s : State) : List Nat := (List.range 64).filter fun m => !(s.sensor m).queue.isEmpty

/-- Bytes in the line buffer of a sensor's port. -/
def State.fillOf (s : State) (n : Nat) : Nat := smGet 0 s.ing.fill (s.fget (Reg.ING_SENSOR00_port n))

/-- PICTURE_DONE (R285–R293): the pipeline completes the oldest waiting frame of sensor `id`, or the decoded picture of a slot and view of
stream `id`. Live frames come before decoded pictures, and among them one of the port whose line buffer is fullest (R286). -/
def execPictureDone (decoded : Bool) (id slot view : Nat) (o : UnitObs) (s : State) : Host.Outcome State Fault Refusal :=
  if decoded then
    if !s.liveWaits.isEmpty then .next s
    else match s.smpl.pics.find? fun x => x.run.q == id && x.run.slot == slot && x.run.view == view with
    | some x => .next (s.decodedDone x o)
    | none => .next s
  else match (s.sensor id).queue with
    | f :: _ => .next (if s.liveWaits.all (fun m => s.fillOf m ≤ s.fillOf id) then s.liveDone id f o else s)
    | [] => .next s

/-! ### Batches -/

/-- The forward cursor, and the reserve cursor plus one. -/
def State.cursors (s : State) (q : Nat) : Nat × Nat := (s.fget (Reg.SMPL_POS_f q), s.fget (Reg.SMPL_RSV_r_next q))

/-- Does the next formation find the epoch ended (R302)? -/
def State.epochOver (s : State) (q : Nat) : Bool :=
  let (f, r1) := s.cursors q
  decide (r1 ≤ f) || (decide (r1 - f < s.fget (Reg.SMPL_CFG_b_m1 q) + 1) && !s.flag (Reg.SMPL_CFG_part_last q))

/-- Cursors at the start of an epoch. -/
def State.startCursors (s : State) (q : Nat) : State :=
  (s.fset (Reg.SMPL_POS_f q) 0).fset (Reg.SMPL_RSV_r_next q) (s.fget (Reg.SMPL_N_n q))

/-- The epoch has ended (R305). -/
def State.endEpoch (s : State) (q : Nat) : State :=
  let s1 := s.smplEvent 0x0382 q 0
  if s1.flag (Reg.SMPL_CFG_auto_epoch q) then
    (s1.fset (Reg.SMPL_STATE_epoch q) ((s1.fget (Reg.SMPL_STATE_epoch q) + 1) % 2 ^ 32)).startCursors q
  else s1.setStream q { s1.stream q with ended := true }

/-- The next batch takes its positions (R302). -/
def State.formBatch (s : State) (q : Nat) : State :=
  let (f, r1) := s.cursors q
  let b := s.fget (Reg.SMPL_CFG_b_m1 q) + 1
  let cnt := min b (r1 - f)
  let s1 := s.fset (Reg.SMPL_POS_f q) (f + cnt)
  let slots := (List.range cnt).map fun i => ({ pos := f + i } : SmplSlot)
  (s1.setStream q { s1.stream q with batch := some { partialB := decide (cnt < b), slots := slots } }).pump q

/-- A bad sample's slot takes the next reserve position, or stays empty (R302). -/
def State.replaceSlot (s : State) (q i : Nat) : State :=
  match s.slot? q i with
  | none => s
  | some y =>
    if !y.bad then s
    else
      let (f, r1) := s.cursors q
      if r1 ≤ f then
        ((s.smplEvent 0x2383 q y.pos).count (Reg.SMPL_CNT_EMPTY_count q) 1).setSlot q i fun _ => { pos := y.pos, empty := true }
      else
        let s1 := (s.fset (Reg.SMPL_RSV_r_next q) (r1 - 1)).smplEvent 0x0381 q (r1 - 1)
        (s1.count (Reg.SMPL_CNT_REPLACED_count q) 1).setSlot q i fun _ => { pos := r1 - 1, replaced := true }

/-- The slot records of a batch; what the record of an empty slot says of a sample is open (log entry 46). -/
def State.slotRecord (s : State) (q n i : Nat) (y : SmplSlot) : List Byte :=
  if y.empty then
    let w (o : Nat) : Nat := leNat ((List.range 5).map fun k => Config.hazyByte n (16 * i + o + k))
    leBytes 8 (w 0 + 2 ^ 41) ++ leBytes 8 (w 8)
  else leBytes 8 (s.sampleAt q y.pos % 2 ^ 40 + b2n y.replaced * 2 ^ 40) ++ leBytes 8 (y.pos % 2 ^ 40)

/-- A batch is delivered: its records, then its head, then batch_ready (R304). -/
def State.deliver (s : State) (q : Nat) (b : SmplBatch) : State :=
  let (n, s0) := s.draw
  let at_ := s0.batchAt q
  let recs := (List.range b.slots.length).flatMap fun i => match b.slots[i]? with | some y => s0.slotRecord q n i y | none => []
  let num := s0.fget (Reg.SMPL_STATE_batch q)
  let head := leBytes 4 (s0.fget (Reg.SMPL_STATE_epoch q)) ++ leBytes 4 num ++ leBytes 2 b.slots.length
    ++ leBytes 2 (b2n (s0.epochOver q) + 2 * b2n b.partialB) ++ leBytes 52 0
  let all := head ++ recs
  let s1 := s0.poke 8 0x1A at_ (all ++ List.replicate (recordArea b.slots.length - all.length) 0)
  let s2 := (s1.fset (Reg.SMPL_STATE_batch q) ((num + 1) % 2 ^ 32)).fset (Reg.SMPL_FETCH_batch_ready q)
    ((s1.fget (Reg.SMPL_FETCH_batch_ready q) + 1) % 2 ^ 16)
  s2.setStream q { s2.stream q with batch := none }

/-- A slot waits for no decode and no picture any more. -/
def State.slotSettled (s : State) (q i : Nat) (y : SmplSlot) : Bool :=
  y.empty || (y.bad && (List.range 16).all fun k => match s.core k with
    | some r => r.dropped || !(r.q == q && r.slot == i) | none => true)
  || (!y.views.isEmpty && y.views.all (· == .done))

/-- BATCH_FORM (R302, R304, R305): the next batch is formed when a buffer is free; or a round of replacements begins once every slot of the
batch in formation is settled; or, with no slot bad, the batch is delivered. -/
def execBatchForm (q : Nat) (s : State) : Host.Outcome State Fault Refusal :=
  if 16 ≤ q || !s.streamOn q then .next s
  else match (s.stream q).batch with
    | none =>
      let ahead := (s.fget (Reg.SMPL_FETCH_batch_ready q) + 65536 - s.fget (Reg.SMPL_FETCH_batch_done q)) % 65536
      if (s.stream q).ended || s.fget (Reg.SMPL_CFG_nbatch_m1 q) < ahead then .next s
      else if s.epochOver q then .next (s.endEpoch q)
      else .next (s.formBatch q)
    | some b =>
      let is := List.range b.slots.length
      if !is.all (fun i => match b.slots[i]? with | some y => s.slotSettled q i y | none => true) then .next s
      else if b.slots.any (·.bad) then .next ((is.foldl (fun s i => s.replaceSlot q i) s).pump q)
      else .next (s.deliver q b)

/-- Is a step from `old` to `new` within what has been issued (R307)? -/
def within16 (old new lim : Nat) : Bool := decide ((new + 65536 - old) % 65536 ≤ (lim + 65536 - old) % 65536)

/-- A write of SMPL_FETCH (R301, R304, R307): done and batch_done, each ignored when it would pass issued or batch_ready. -/
def State.fetchWrite (s : State) (q : Nat) (done batchDone : Option Nat) : State :=
  let s1 := match done with
    | some v =>
      let v := v % 65536
      let old := s.fget (Reg.SMPL_FETCH_done q)
      if within16 old v (s.fget (Reg.SMPL_FETCH_issued q)) then
        let sa := s.fset (Reg.SMPL_FETCH_done q) v
        let x := sa.stream q
        let left := x.fetches.filter fun (f : Fetch) => (v + 65536 - old) % 65536 ≤ (f.n + 65536 - old) % 65536
        ((sa.setStream q { x with fetches := left }).settleWait q)
      else s
    | none => s
  let s2 := match batchDone with
    | some v =>
      if within16 (s1.fget (Reg.SMPL_FETCH_batch_done q)) (v % 65536) (s1.fget (Reg.SMPL_FETCH_batch_ready q)) then
        s1.fset (Reg.SMPL_FETCH_batch_done q) (v % 65536)
      else s1
    | none => s1
  if s2.streamOn q then s2.pump q else s2

/-- SMPL_FETCH_WRITE (R307): host software writes done, batch_done or both. -/
def execSmplFetchWrite (q : Nat) (done batchDone : Option Nat) (s : State) : Host.Outcome State Fault Refusal :=
  if q < 16 then .next (s.fetchWrite q done batchDone) else .next s

/-- Words of a stream's configuration, its enable left out (R305). -/
def State.streamCfg (s : State) (q : Nat) : List Nat :=
  let w (a : Nat) : Nat := (s.rd a).toNat
  [1, w (Reg.SMPL_CFG q) / 2, w (Reg.SMPL_N q), w (Reg.SMPL_SEED q), w (Reg.SMPL_FETCH_BASE q), w (Reg.SMPL_STAGE q),
    w (Reg.SMPL_BATCH_BASE q), w (Reg.SMPL_STRIDE q)] ++ (List.range 8).map fun v => w (Reg.SMPL_VIEW q v)

/-- Does a range of addresses lie in the bulk tier? -/
def State.inBulk (s : State) (a n : Nat) : Bool :=
  decide (0x004000000000 ≤ a ∧ a + n ≤ 0x004000000000 + s.part.bulkGib * 2 ^ 24 * 63)

/-- The first view of a stream whose profile breaks R291. -/
def State.badView (s : State) (q : Nat) : Option Nat :=
  (List.range (s.nViews q)).find? fun v =>
    let p := readProfile (s.profWords (s.fget (Reg.SMPL_VIEW_profile q v)))
    !p.ok false p.nCrop (s.fget (Reg.SMPL_STRIDE_view_stride q))

/-- Is a stream's configuration valid, its profiles aside (R305)? -/
def State.streamOk (s : State) (q : Nat) : Bool :=
  let n := s.fget (Reg.SMPL_N_n q)
  decide (1 ≤ n ∧ n ≤ 2 ^ 40)
    && s.inBulk (s.fget (Reg.SMPL_FETCH_BASE_base q)) (16 * 2 ^ (s.fget (Reg.SMPL_FETCH_BASE_lg q) + 4))
    && s.inBulk (s.fget (Reg.SMPL_STAGE_base q)) (s.fget (Reg.SMPL_CFG_nslots q) * s.fget (Reg.SMPL_STAGE_slot_kib q) * 1024)
    && s.inBulk (s.fget (Reg.SMPL_BATCH_BASE_base q))
        ((s.fget (Reg.SMPL_CFG_nbatch_m1 q) + 1) * s.fget (Reg.SMPL_STRIDE_batch_stride q))
    && (List.range (s.nViews q)).all fun v =>
        let c := s.fget (Reg.SMPL_VIEW_ceil_us q v)
        decide (1000 ≤ c ∧ c ≤ 10000000)

/-- A stream restarts (R305). -/
def State.restartStream (s : State) (q : Nat) : State :=
  let s1 := (s.fset (Reg.SMPL_STATE_epoch q) (s.fget (Reg.SMPL_CFG_start_epoch q))).startCursors q
  let s2 := (List.range 8).foldl (fun s v => s.wr (Reg.SMPL_MEAN q v) 0) s1
  let s3 := s2.stopParts (fun r => r.q == q) true
  let s4 := { s3 with smpl := { s3.smpl with pics := s3.smpl.pics.filter fun p => p.run.q != q } }
  s4.setStream q { s4.stream q with cfg := s4.streamCfg q, off := false, ended := false, batch := none }

/-- Streams at a plan-period boundary, after staged fields took effect (R291, R305): an enabled stream whose configuration is not the one it was
started with restarts, or is held off; so is one whose profiles have become invalid, and one held off restarts when they are valid again. -/
def State.smplBoundary (s : State) : State :=
  (List.range 16).foldl (fun s q =>
    let bad := s.badView q
    if !s.flag (Reg.SMPL_CFG_en q) || (s.streamCfg q == (s.stream q).cfg && (s.stream q).off == (bad.isSome || !s.streamOk q)) then s
    else
      let s1 := s.restartStream q
      let s2 := match bad with | some v => s1.preEvent 0x2302 true q v | none => s1
      if bad.isSome || !s2.streamOk q then
        (s2.smplEvent 0x2385 q 0).setStream q { s2.stream q with off := true }
      else s2) s

end Sys2Proof.Machine
end

