-- ==== Sys2Proof/Machine/Trust.lean ====
section
/-! DEFINITION. The trust block after boot (chapter 14): MACsec keys, OTP programming, attestation, debug unlock. -/

namespace Sys2Proof.Machine

/-- Bytes of a register array of 64-bit words. -/
def State.regBytes (s : State) (a : Nat → Addr) (n : Nat) : List Byte :=
  (List.range n).flatMap fun i => leBytes 8 (s.rd (a i)).toNat

/-- Addressable end of the bulk tier (R26). -/
def State.bulkEnd (s : State) : Addr := s.part.bulkEnd

/-! ### MACsec keys -/

/-- A key entry of Table 14.8 is well formed. -/
def sakOk (e : List Byte) : Bool :=
  u e 0 1 ≤ 5 && u e 1 1 ≤ 1 && u e 2 1 ≤ 1 && !(u e 1 1 == 0 && u e 2 1 != 0) && u e 3 1 ≤ 3 && u e 4 4 == 0 && u e 0x48 8 == 0

/-- Unwraps and installs a key entry (R401); none where the entry fails. -/
def State.installKey (s : State) (e : List Byte) : Option State :=
  if !sakOk e || s.otp.kWrap == 0 then none
  else (Config.keyUnwrap s.otp.kWrap (sliceB e 0x20 40)).map fun k =>
    let key := u e 0 1 * 64 + u e 1 1 * 32 + u e 2 1 * 8 + u e 3 1
    let sa : MacSa := { sci := u e 8 8, ssci := u e 0x10 4, salt := u e 0x14 12, key := k }
    let s1 := { s with eth := { s.eth with sas := smPut none s.eth.sas key (some sa) } }
    s1.fset (Reg.ETH_PORT_STATUS_macsec_on (u e 0 1)) 1

/-- A write of SEC_SAK_CTRL. -/
def State.sakWrite (s : State) (v : Nat) : State :=
  if !bit v 0 then s
  else match s.installKey (s.regBytes Reg.SEC_SAK_LOAD 10) with
    | some s1 => (s1.fset Reg.SEC_SAK_CTRL_done 1).fset Reg.SEC_SAK_CTRL_refused 0
    | none => ((s.fset Reg.SEC_SAK_CTRL_done 0).fset Reg.SEC_SAK_CTRL_refused 1).raise 0x0586 oHub 0x19 0

/-- SAK_INSTALL (R401): control-core firmware writes 1 to SEC_SAK_CTRL.go. -/
def execSakInstall (s : State) : Host.Outcome State Fault Refusal := .next (s.sakWrite 1)

/-! ### OTP programming -/

/-- SEC_STATUS shows the OTP (Table 14.15). -/
def State.showOtp (s : State) : State :=
  let s1 := (s.fset Reg.SEC_STATUS_dbg_max s.otp.dbgMax).fset Reg.SEC_STATUS_k_wrap_set (b2n (s.otp.kWrap != 0))
  let s2 := (s1.fset Reg.SEC_STATUS_ed_revoked s1.otp.edRevoked).fset Reg.SEC_STATUS_ml_revoked s1.otp.mlRevoked
  let s3 := (List.range 64).foldl (fun s c => s.fset (Reg.SEC_ARB_value c) (smGet 0 s.otp.arb c)) s2
  s3.fset Reg.HLT_SPARES_fuses_used s3.otp.repair.length

/-- A write of SEC_OTP_PROG; `core`: by a control core. A request is refused while another runs. -/
def State.otpWrite (s : State) (v : Nat) (core : Bool) : State :=
  let s0 := (s.fset Reg.SEC_OTP_PROG_field (bits v 7 0)).fset Reg.SEC_OTP_PROG_index (bits v 15 8)
  if !bit v 16 then s0
  else
    let f := bits v 7 0
    let i := if f ≤ 3 then bits v 15 8 else 0
    let x := leNat (s0.regBytes Reg.SEC_OTP_DATA 8) % 2 ^ otpBits f
    let ok := core && 1 ≤ f && f ≤ 7 && i ≤ 3 && x != 0 && s0.otp.field f i == 0 && s0.trust.prog.isNone
    if ok then
      ({ s0 with trust := { s0.trust with prog := some (f, i, x) } }.fset Reg.SEC_OTP_PROG_done 0).fset Reg.SEC_OTP_PROG_refused 0
    else ((s0.fset Reg.SEC_OTP_PROG_done 0).fset Reg.SEC_OTP_PROG_refused 1).raise 0x0586 oHub 0x19 0

/-- OTP_PROGRAM (R416): SEC_OTP_PROG is written with go 1; `core`: by a control core. -/
def execOtpProgram (field index : Nat) (core : Bool) (s : State) : Host.Outcome State Fault Refusal :=
  .next (s.otpWrite (field % 256 + index % 256 * 2 ^ 8 + 2 ^ 16) core)

/-- OTP_PROGRAM_DONE (R416): programming completes. -/
def execOtpProgramDone (s : State) : Host.Outcome State Fault Refusal :=
  match s.trust.prog with
  | none => .next s
  | some (f, i, v) =>
    let s1 := { s with otp := s.otp.program f i v, trust := { s.trust with prog := none } }
    .next (s1.showOtp.fset Reg.SEC_OTP_PROG_done 1)

/-! ### Attestation -/

/-- Identity is available (R411). -/
def State.identity (s : State) : Bool := s.flag Reg.SEC_STATUS_puf_ok && s.flag Reg.SEC_STATUS_id_ready

/-- The seeds of R410: DeviceID Ed25519 and ML-DSA-65, alias Ed25519 and ML-DSA-65. -/
def State.seeds (s : State) : List Nat :=
  let c0 := Config.kmac (Config.uds s.otp.pufHelper) (leBytes 64 Config.romDigest) "OVN-CDI0"
  let m := leBytes 64 s.trust.m ++ [BitVec.ofNat 8 (s.fget Reg.BOOT_INFO_security_version), BitVec.ofNat 8 s.trust.flags]
  let c1 := Config.kmac c0 m "OVN-CDI1"
  [Config.kmac c0 [] "OVN-ID-ED", Config.kmac c0 [] "OVN-ID-ML", Config.kmac c1 [] "OVN-AL-ED", Config.kmac c1 [] "OVN-AL-ML"]

/-- A certificate with its length, padded to 8 bytes. -/
def certPart (c : List Byte) : List Byte := sliceB (leBytes 4 c.length ++ c) 0 (roundUp (4 + c.length) 8)

/-- The evidence of Table 14.12. -/
def State.evidence (s : State) : List Byte :=
  let k := s.seeds
  let seed (i : Nat) : Nat := nth 0 k i
  let flags := s.fget Reg.SEC_STATUS_debug_ever + s.fget Reg.BOOT_INFO_split * 2 + s.fget Reg.BOOT_STATUS_image_b * 4
  let certs := certPart (Config.aliasCert 0 (seed 0) (seed 2) s.trust.m) ++ certPart (Config.aliasCert 1 (seed 1) (seed 3) s.trust.m)
    ++ certPart (Config.deviceCert 0 s.otp.certStore) ++ certPart (Config.deviceCert 1 s.otp.certStore)
  let head := leBytes 4 0x5454414F ++ leBytes 4 (0x0DB0 + certs.length) ++ s.regBytes Reg.BOOT_ATT_NONCE 4 ++ leBytes 8 s.now
    ++ leBytes 64 s.trust.m ++ leBytes 4 (s.fget Reg.BOOT_STATUS_image_id) ++ leBytes 1 (s.fget Reg.BOOT_INFO_security_version)
    ++ leBytes 1 flags ++ leBytes 2 0 ++ leBytes 4 (s.rd Reg.PKG_ID).toNat ++ leBytes 4 0
  let msg := leBytes 64 (Config.sha3_512 head)
  head ++ sliceB (Config.edSign (seed 2) msg) 0 64 ++ sliceB (Config.mlSign (seed 3) msg) 0 3309 ++ leBytes 3 0 ++ certs

/-- A 32-bit write of BOOT_ATT_CTRL. While an attestation runs, go is not taken. -/
def State.attWrite (s : State) (upper : Bool) (v : Nat) : State :=
  if !upper then s.fset ⟨Reg.BOOT_ATT_CTRL, 31, 0⟩ v
  else
    let s1 := s.fset ⟨Reg.BOOT_ATT_CTRL, 47, 32⟩ v
    if !bit v 16 || s1.trust.attest.isSome then s1
    else
      let dest := s1.fget Reg.BOOT_ATT_CTRL_dest / 256 * 256
      let s2 := (s1.fset Reg.BOOT_ATT_CTRL_done 0).fset Reg.BOOT_ATT_CTRL_error 0
      if !s2.identity || dest < 0x004000000000 || s2.bulkEnd < dest + 0x8000 then s2.fset Reg.BOOT_ATT_CTRL_error 1
      else { s2 with trust := { s2.trust with attest := some dest } }

/-- ATTESTATION_START (R412): BOOT_ATT_CTRL is written with go 1 and this destination. -/
def execAttestationStart (dest : Nat) (s : State) : Host.Outcome State Fault Refusal :=
  .next ((s.attWrite false dest).attWrite true (bits dest 47 32 + 2 ^ 16))

/-- ATTESTATION_DONE (R412): the evidence is written at dest. -/
def execAttestationDone (s : State) : Host.Outcome State Fault Refusal :=
  match s.trust.attest with
  | none => .next s
  | some dest =>
    let s1 := { s with trust := { s.trust with attest := none } }
    .next ((s1.poke 8 0x19 dest s1.evidence).fset Reg.BOOT_ATT_CTRL_done 1)

/-! ### Debug unlock -/

/-- The slots of a signature block pass the checks of failure 0x02 for a role bit (0 image signing, 1 debug), and both signatures
over the 64 bytes of `msg` verify: 0, or the failure 0x02–0x04. -/
def Otp.checkSigs (o : Otp) (b : List Byte) (role : Nat) (msg : List Byte) : Nat :=
  let e := u b 4 1
  let m := u b 5 1
  let edPub := sliceB b 8 32
  let mlPub := sliceB b 0x68 1952
  let ok (dig rol : List Nat) (rev i : Nat) (pub : List Byte) : Bool :=
    i ≤ 3 && nth 0 dig i != 0 && !bit rev i && bit (nth 0 rol i) role && Config.sha3_512 pub == nth 0 dig i
  if !(ok o.edDigest o.edRole o.edRevoked e edPub && ok o.mlDigest o.mlRole o.mlRevoked m mlPub) then 2
  else if !Config.edVerify edPub (sliceB b 0x28 64) msg then 3
  else if !Config.mlVerify mlPub (sliceB b 0x808 3309) msg then 4
  else 0

/-- A signature block's magic and reserved fields (Table 14.4). -/
def sigHeadOk (b : List Byte) : Bool := u b 0 4 == 0x4753564F && u b 6 2 == 0 && (sliceB b 0x14F5 11).all (· == 0)

/-- Are new challenges blocked: for 1 s after a refusal (R413)? -/
def State.chalBlocked (s : State) : Bool := match s.trust.blocked with | some t => decide (s.now < t + 10 ^ 9) | none => false

/-- A fresh debug challenge is drawn, unless new ones are blocked. -/
def State.newChal (s : State) : State :=
  if s.chalBlocked then s
  else
    let (d, s1) := s.draw
    let n := Config.trng d % 2 ^ 256
    let s2 := { s1 with trust := { s1.trust with chal := some { level := s1.fget Reg.SEC_DBG_CTRL_level, at_ := s1.now } } }
    (List.range 4).foldl (fun s i => s.wr (Reg.SEC_DBG_CHAL i) (BitVec.ofNat 64 (n / 2 ^ (64 * i)))) s2

/-- The response is taken for verification (R413). The challenge is consumed. -/
def State.submit (s : State) : State :=
  if s.trust.verify.isSome then s
  else
    let r := s.regBytes Reg.SEC_DBG_RESP 672
    let (fresh, level) := match s.trust.chal with
      | some c => (decide (s.now < c.at_ + 60 * 10 ^ 9), c.level)
      | none => (false, 0)
    let c := s.regBytes Reg.SEC_DBG_CHAL 4 ++ leBytes 4 (s.rd Reg.PKG_ID).toNat ++ s.regBytes Reg.SEC_ID_ED 4
      ++ leBytes 1 level
    let pass := fresh && s.flag Reg.SEC_STATUS_puf_ok && 1 ≤ level && level ≤ 2 && level ≤ s.otp.dbgMax && sigHeadOk r
      && s.otp.checkSigs r 1 (leBytes 64 (Config.sha3_512 c)) == 0
    { s with trust := { s.trust with chal := none, verify := some (pass, level) } }.fset Reg.SEC_DBG_CTRL_busy 1

/-- A write of SEC_DBG_CTRL. -/
def State.dbgWrite (s : State) (v : Nat) : State :=
  let s1 := s.fset Reg.SEC_DBG_CTRL_level v
  let s2 := if bit v 2 then s1.newChal else s1
  if bit v 3 then s2.submit else s2

/-- DEBUG_NEW_CHALLENGE (R413): SEC_DBG_CTRL is written with a level and new_chal 1. -/
def execDebugNewChallenge (level : Nat) (s : State) : Host.Outcome State Fault Refusal := .next (s.dbgWrite (level % 4 + 4))

/-- DEBUG_SUBMIT (R413): SEC_DBG_CTRL is written with submit 1. -/
def execDebugSubmit (s : State) : Host.Outcome State Fault Refusal :=
  .next (s.dbgWrite (s.fget Reg.SEC_DBG_CTRL_level + 8))

/-- DEBUG_VERDICT (R413, R414): verification ends. -/
def execDebugVerdict (s : State) : Host.Outcome State Fault Refusal :=
  match s.trust.verify with
  | none => .next s
  | some (pass, level) =>
    let s1 := { s with trust := { s.trust with verify := none } }.fset Reg.SEC_DBG_CTRL_busy 0
    if pass then
      let s2 := (s1.fset Reg.SEC_DBG_CTRL_refused 0).fset Reg.SEC_STATUS_debug_level level
      .next ((s2.fset Reg.SEC_STATUS_debug_ever 1).raise 0x0584 oHub 0x19 0)
    else
      let s2 := (s1.fset Reg.SEC_DBG_CTRL_refused 1).count Reg.SEC_CNT_DBG_REFUSE_count 1
      .next ({ s2 with trust := { s2.trust with blocked := some s2.now } }.raise 0x0585 oHub 0x19 0)

/-- DEBUG_BLOCK_END (R413): one second after a refusal. -/
def execDebugBlockEnd (s : State) : Host.Outcome State Fault Refusal :=
  match s.trust.blocked with
  | some t => if t + 10 ^ 9 ≤ s.now then .next { s with trust := { s.trust with blocked := none } } else .next s
  | none => .next s

end Sys2Proof.Machine
end

