-- ==== Sys2Proof/Machine/RegWrite.lean ====
section
/-! DEFINITION. Reads and writes of registers by software (R9, R406–R408): the registers whose write does more than their access codes say,
each under the rule that says so, and every other register by the access codes of its fields. -/

namespace Sys2Proof.Machine

/-- A requester's source code (PKG_DECODE_ERR) and agent number (Table 1.12). The debug port, which has no code, is source 0xD. -/
structure Who where
  src : Nat
  agent : Nat
deriving DecidableEq, Repr

/-- A control core. -/
def Who.core (w : Who) : Bool := w.src == 8 && decide (w.agent < 4)

/-- An island. -/
def Who.island (w : Who) : Bool := (w.src == 8 || w.src == 9) && w.agent == 0x20

/-- Requester code of a reset request (RST_CAUSE.sw_src; 3 the debug port). -/
def Who.resetSrc (w : Who) : Nat := if w.src == 0xB then 1 else if w.src == 0xC then 2 else if w.src == 0xD then 3 else 0

/-- Registers that the locked debug port reaches (chapter 14). -/
def debugReg (a : Addr) : Bool :=
  decide (Reg.SEC_ID_ED 0 ≤ a ∧ a < Reg.SEC_ID_ED 4) || decide (Reg.SEC_DBG_CHAL 0 ≤ a ∧ a < Reg.SEC_DBG_CHAL 4)
    || a == Reg.SEC_DBG_CTRL || decide (Reg.SEC_DBG_RESP 0 ≤ a ∧ a < Reg.SEC_DBG_RESP 672)

/-- Can a requester reach a register now: the partner never (R23: its requests pass the firewall, whose windows lie in the bulk tier), the
debug port by its lock (R414), in standby the islands and the SMP alone (R497), nobody while the
block is in reset. -/
def State.reaches (s : State) (w : Who) (a : Addr) : Bool :=
  w.src != 0xA && (w.src != 0xD || s.fget Reg.SEC_STATUS_debug_level != 0 || debugReg a) &&
  match s.pow.phase with
  | .running => true
  | .booting => true
  | .standby => w.island || w.src == 0xC
  | _ => false

/-- Word `i` (0–1 lower and upper half, or beyond) of a register array at `base`, stride 4, if the address lies in it. -/
def wordIn (base n a : Addr) : Option Nat := if base ≤ a ∧ a < base + 4 * n then some ((a - base) / 4) else none

/-- A write of a register of a compute die that does more than its access codes say. -/
def State.dieWrite (s : State) (t off v src : Nat) (a : Addr) : State :=
  let e := (off - 0x1000) / 0x100
  let r := off % 0x100
  if off < 0x10 then s.lmapWrite t (off / 8) (off % 8 == 4) v src
  else if 0x1000 ≤ off ∧ e < 18 ∧ (r == 8 || r == 0xC) then s.colWrite t e ((r - 8) / 4) v src
  else if 0x1000 ≤ off ∧ e < 18 ∧ r == 0x10 then s.colWrite t e 2 v src
  else s.swWrite a v src

/-- A write of the KVW ring indices or of SMPL_FETCH: the half written holds two fields. -/
def State.ringHalf (s : State) (p i v : Nat) : State :=
  if i == 0 then s.ringWrite p (some (bits v 15 0)) none else s.ringWrite p none (some (bits v 31 16))

def State.fetchHalf (s : State) (q i v : Nat) : State :=
  if i == 0 then s.fetchWrite q (some (bits v 31 16)) none else s.fetchWrite q none (some (bits v 31 16))

/-- A write of a BOOT or SEC register (R401, R412, R413, R416). -/
def State.secWrite (s : State) (w : Who) (a : Addr) (v src : Nat) : State :=
  if a == Reg.BOOT_ATT_CTRL then s.attWrite false v
  else if a == Reg.BOOT_ATT_CTRL + 4 then s.attWrite true v
  else if a == Reg.SEC_DBG_CTRL then s.dbgWrite v
  else if a == Reg.SEC_SAK_CTRL then s.sakWrite v
  else if a == Reg.SEC_OTP_PROG then s.otpWrite v w.core
  else if ((wordIn (Reg.SEC_SAK_LOAD 0) 20 a).isSome || (wordIn (Reg.SEC_OTP_DATA 0) 16 a).isSome) && !w.core then s
  else s.swWrite a v src

/-- A write of a hub register. -/
def State.hubWrite (s : State) (w : Who) (a : Addr) (v src : Nat) : State :=
  if a == Reg.PLN_MODE_REQ then s.modeReq v
  else if a == Reg.ADM_PREEMPT then s.preemptWrite v
  else if a == Reg.ADM_FB_CTRL then (s.swWrite a v src).showDue
  else if a == Reg.ING_DT_CTRL then (s.swWrite a v src).freeTime
  else if a == Reg.FUS_CAL_CTRL then s.swapWrite v
  else if a == Reg.WDG_KICK then s.wdgKick v
  else if a == Reg.RST_REQ then (if w.resetSrc == 2 then s else s.rstReqWrite w.resetSrc v)
  else if a == Reg.RST_SYSWD_KICK then s.syswdKick v
  else if decide (Reg.BOOT_STATUS ≤ a) && decide (a < hubBlk 0x17) then s.secWrite w a v src
  else match wordIn (Reg.KVW_RING 0) 128 a with
    | some i => s.ringHalf (i / 2) (i % 2) v
    | none => match wordIn (Reg.FUS_CAL_NEXT 0 0) 2048 a with
      | some i => s.calWrite (i / 32) (i % 32) (v % 2 ^ 32)
      | none =>
        let q := (a - Reg.SMPL_FETCH 0) / 0x100
        if Reg.SMPL_FETCH 0 ≤ a ∧ q < 16 ∧ (a == Reg.SMPL_FETCH q || a == Reg.SMPL_FETCH q + 4) then
          s.fetchHalf q ((a - Reg.SMPL_FETCH q) / 4) v
        else s.swWrite a v src

/-- A 32-bit write to the word at an aligned address by a requester. -/
def State.regWrite (s : State) (w : Who) (a : Addr) (v : Nat) : State :=
  let src := if w.src == 0xD then 8 else w.src
  if !s.reaches w a then s
  else match csrPlace a, regAt a with
    | some (.hub, _, _), some _ => s.hubWrite w a v src
    | some (.die t, 0x02, off), some _ => s.dieWrite t off v src a
    | some (.kysta, 0x1A, _), some _ => if w.island then s.swWrite a v src else s
    | some _, some _ => s.swWrite a v src
    | _, _ => s

/-- A 32-bit read by a requester. Key and OTP data registers read 0 (R401). -/
def State.regRead (s : State) (w : Who) (a : Addr) : Nat :=
  if !s.reaches w a || (wordIn (Reg.SEC_SAK_LOAD 0) 20 a).isSome || (wordIn (Reg.SEC_OTP_DATA 0) 16 a).isSome then 0
  else s.swRead a

/-- REGISTER_WRITE (R406, R408): a requester writes the register at a 4-byte aligned address; one that does not decode ends with the error
response of R29. The partner has no path to registers (R23); what it asks for is PARTNER_REQUEST. -/
def execRegisterWrite (src agent addr v : Nat) (s : State) : Host.Outcome State Fault Refusal :=
  let a := addr / 4 * 4
  if src == 0xA then .next s
  else match s.target src a with
  | .reg _ => .next (s.regWrite { src := src, agent := agent } a v)
  | .undecodable kind =>
    let s1 := s.decodeError src agent a kind none
    .next { s1 with out := s1.out ++ [.done src agent a [] 0 (kind + 1)] }
  | _ => .next s

/-- CAPTURE_CLEAR (R35): software writes 1 to the valid bit of a capture register. A capture of the same cycle is taken in after the clear: it
is a command that follows. -/
def execCaptureClear (src agent addr : Nat) (s : State) : Host.Outcome State Fault Refusal :=
  let a := addr / 8 * 8
  match regAt a with
  | some (d, key, false) =>
    if bit d.w1c 63 && key == a then .next (s.regWrite { src := src, agent := agent } (a + 4) (2 ^ 31)) else .next s
  | _ => .next s

end Sys2Proof.Machine
end

