-- ==== Sys2Proof/Machine/Access.lean ====
section
/-! DEFINITION. Package accesses from their port to their resource (chapters 1 and 7): ports and pacing (R216–R219, R223), routing (R19, R20),
service at a channel or a slice (R200, R201, R214, R221), completion at the requester. An access lies within one 256-byte block. -/

namespace Sys2Proof.Machine

/-! ### Completion -/

/-- LNK_PARTNER_ERR captures a partner event (R364). -/
def State.capturePartner (s : State) (a : Addr) (code : Nat) : State :=
  s.capture Reg.LNK_PARTNER_ERR (bits a 47 0 + code * 2 ^ 48)

/-- A message leaves for the partner. -/
def State.toPartner (s : State) (op : Nat) (bytes : List Byte) : State := { s.queueMsg 8 bytes with out := s.out ++ [.pfp 8 op bytes] }

/-- A partner's request ends (R362): a block read that fails its check value is not sent. -/
def State.answerPartner (s : State) (q : MemReq) (data : List Byte) (chk err : Nat) : State :=
  let send (op kind : Nat) (bs : List Byte) (s : State) : State := s.toPartner op (respHead op q.tag kind ++ bs)
  if s.fget Reg.LNK_PARTNER_STATUS_state != 3 then s
  else if err != 0 then send 6 (if err ≤ 4 then err - 1 else 5) [] s
  else if q.write then send 5 0 [] s
  else if chk != 0 then send 6 5 [] ((s.modEvent 0x244A 8).capturePartner q.addr 0x0A)
  else send 4 0 (dataSlots data 0) s

/-- An access ends at its resource: at the requester itself, over the link it came by, or at the partner. -/
def State.endAccess (s : State) (q : MemReq) (data : List Byte) (chk err : Nat) : State :=
  if q.src == 0xA then s.answerPartner q data chk err
  else match q.link with
    | none => { s with out := s.out ++ [.done q.src q.agent q.addr data chk err] }
    | some id =>
      let s1 := { s with lnk := { s.lnk with reqs := s.lnk.reqs.map fun (r : LinkReq) =>
          if r.id == id && !r.mute then { r with resp := some (data, chk, err) } else r } }
      match s.lnk.reqs.find? fun (r : LinkReq) => r.id == id && !r.mute with
      | some r => s1.queueRoute r.dest r.die q.addr (q.answer id data chk err)
      | none => s1

/-- Data of an error response: zeros to a load, none to a store (R29). -/
def MemReq.zeros (q : MemReq) : List Byte := if q.write then [] else List.replicate q.len 0

/-! ### Resources that are not paced: registers and memories in CSR windows -/

/-- A word of registers for each aligned word that a range holds whole. -/
def wordsIn (a n : Nat) : List Nat := (List.range ((n + 3) / 4 + 1)).filterMap fun i =>
  let w := ceilDiv a 4 * 4 + 4 * i
  if w + 4 ≤ a + n then some w else none

/-- Registers written or read by an access: whole 32-bit words. -/
def State.regAccess (s : State) (q : MemReq) : State :=
  let w : Who := { src := q.src, agent := q.agent }
  if q.write then
    ((wordsIn q.addr q.len).foldl (fun s a => s.regWrite w a (u q.data (a - q.addr) 4)) s).endAccess q [] 0 0
  else
    let bs := (List.range q.len).map fun i =>
      let a := q.addr + i
      nth (0 : Byte) (leBytes 4 (s.regRead w (a / 4 * 4))) (a % 4)
    s.endAccess q bs 0 0

/-- TRK memory or a retained SRAM read or written (Table 20.2, R491): `ecc` 1 a word corrected, 3 one uncorrectable, of a retained SRAM. -/
def State.csrAccess (s : State) (q : MemReq) (l : Loc) (ecc : Nat) (ret : Bool) (origin : Nat) : State :=
  if ret && ecc == 3 then (s.raise 0x2687 origin uNone 0).endAccess q q.zeros 0 6
  else
    let s0 := if ret && ecc == 1 then s.raise 0x1686 origin uNone 0 else s
    if q.write then
      let (s1, _) := s0.memWrite l q.addr q.data q.chk 0 q.run
      s1.endAccess q [] 0 0
    else s0.endAccess q (s0.locRead l (q.addr % 256) q.len) (s0.locChk l) 0

/-! ### Arrival at a resource -/

/-- The home of a target: die t, 8 the hub side, 9 the partner. -/
def Target.home : Target → Nat
  | .near t _ => t
  | .shared t _ => t
  | .reg a => if 0x00F100000000 ≤ a ∧ a < 0x00F200000000 then (a - 0x00F100000000) / 0x1000000 else 8
  | .partner _ => 9
  | _ => 8

/-- A request reaches its home: memories hold it until they serve it, registers act at once. One that has come over the links completes
although its die has been fenced since (R351). -/
def State.arrive (s : State) (q : MemReq) (ecc : Nat) : State :=
  let tg := s.target (if q.link.isSome then 8 else q.src) q.addr
  match tg with
  | .undecodable kind => (s.decodeError q.src q.agent q.addr kind q.run).endAccess q q.zeros 0 (kind + 1)
  | .reg _ => s.regAccess q
  | .trkMem _ => match s.locate tg with | some l => s.csrAccess q l 0 false oHub | none => s
  | .retHub _ => match s.locate tg with | some l => s.csrAccess q l ecc true oHub | none => s
  | .retKy _ => match s.locate tg with | some l => s.csrAccess q l ecc true oKysta | none => s
  | _ => { s with mem := { s.mem with waiting := s.mem.waiting ++ [{ q with home := tg.home, arr := s.now }] } }

/-- A request leaves its port (R19, R20): it reaches a resource of its own die at once, any other over the links, as a request of its die's
link block. -/
def State.send (s : State) (q : MemReq) (ecc : Nat) : State :=
  let from_ := if q.src < 8 then q.src else 8
  match s.target q.src q.addr with
  | .undecodable kind => (s.decodeError q.src q.agent q.addr kind q.run).endAccess q q.zeros 0 (kind + 1)
  | tg =>
    if tg.home == from_ then s.arrive q ecc
    else
      let id := s.lnk.nextId
      let r : LinkReq := { id := id, die := from_, dest := tg.home, req := { q with link := some id }, start := s.now }
      { s with lnk := { s.lnk with nextId := id + 1, reqs := s.lnk.reqs ++ [r] } }.queueRoute from_ tg.home q.addr (q.message id)

/-! ### System ports -/

/-- A system port issues a request: the next one waits for its time. -/
def State.sysIssue (s : State) (q : MemReq) (key share ecc : Nat) : State := (s.sysCharge key share).send { q with issue := s.now } ecc

/-! ### Ports -/

/-- Held requests of the same port and class as one of task `k` and class `x`, or of the same system port. -/
def State.heldOf (s : State) (run : Option Nat) (x key : Nat) : List MemReq :=
  s.mem.held.filter fun (q : MemReq) => q.run == run && q.cls == x && (run.isSome || (match s.sysPort q.src q.agent (s.target q.src q.addr) with
    | some (k, _, _) => k == key | none => false))

/-- A request is held at its port. -/
def State.hold (s : State) (q : MemReq) : State := { s with mem := { s.mem with held := s.mem.held ++ [q] } }

/-- A write of a withheld task is dropped at its port (R556). -/
def State.dropWrite (s : State) (q : MemReq) : State := { s with out := s.out ++ [.done q.src q.agent q.addr [] 0 0] }

/-- An access of a partition's task at its port (R216–R219, R556). -/
def State.partAccess (s : State) (q : MemReq) (k ecc : Nat) : State :=
  if q.write && s.isWithheld k then s.dropWrite q
  else match s.port k q.agent q.addr q.write with
    | .stop s1 err => { s1 with out := s1.out ++ [.done q.src q.agent q.addr q.zeros 0 err] }
    | .pass x _ =>
      let q1 := { q with cls := x, run := some k, ready := s.now }
      match s.run? k with
      | none => s
      | some r =>
        if (s.heldOf (some k) x 0).isEmpty && decide (s.paceTime r x ≤ s.now) then (s.issueBlock k x).send { q1 with issue := s.now } ecc
        else s.hold q1

/-- An access of any other requester at its port: a system port where the resource has one (R223), else unpaced. -/
def State.sysAccess (s : State) (q : MemReq) (ecc : Nat) : State :=
  match s.target q.src q.addr with
  | .undecodable kind => (s.decodeError q.src q.agent q.addr kind none).endAccess q q.zeros 0 (kind + 1)
  | tg =>
    match s.sysPort q.src q.agent tg with
    | none => s.send q ecc
    | some (key, p, share) =>
      let q1 := { q with sys := p, ready := s.now }
      if !s.pow.committed then s.send { q1 with issue := s.now } ecc
      else if (s.heldOf none 4 key).isEmpty && share != 0 && decide (s.sysDue key share ≤ s.now) then s.sysIssue q1 key share ecc
      else s.hold q1

/-- PACKAGE_ACCESS (R25, R29, R216, R223): a requester reads `len` bytes at an address, or writes `data` there; `exec` names the port of a
compute die's task (Table 6.5); source 0xD is the debug port, which reaches memory once it is unlocked (R414); `comb` an atomic combine by operation and format (R109); `chk` the difference of the check value that comes with a
whole block; `ecc` what a retained memory's checker finds. -/
def execPackageAccess (src agent addr len : Nat) (data : Option (List Byte)) (exec : Option Nat) (comb : Option (Nat × Nat))
    (chk ecc : Nat) (s : State) : Host.Outcome State Fault Refusal :=
  let n := match data with | some d => d.length | none => len
  let q : MemReq := { src := src, agent := agent, addr := addr, len := n, write := data.isSome, data := data.getD [], comb := comb, chk := chk }
  let reg : Bool := match s.target src addr with | .reg _ => true | _ => false
  if n == 0 || 256 < addr % 256 + n || src == 0xA || 0xD < src || (src == 0xD && !reg && s.fget Reg.SEC_STATUS_debug_level == 0) then .next s
  else match exec with
    | none => .next (s.sysAccess q ecc)
    | some x => match s.running? src x with
      | some r => .next (s.partAccess q r.key ecc)
      | none => .next s

/-- HELD_BLOCK_ISSUE (R218, R223): the held request at position `i` issues, first of its port and class and not before its time. A write of a
task whose outputs have been withheld since is dropped (R556). -/
def execHeldBlockIssue (i : Nat) (s : State) : Host.Outcome State Fault Refusal :=
  match s.mem.held[i]? with
  | none => .next s
  | some q =>
    let s0 := { s with mem := { s.mem with held := dropAt s.mem.held i } }
    match q.run with
    | some k =>
      match s.run? k with
      | none => .next s0
      | some r =>
        if q.write && r.withheld then .next (s0.dropWrite q)
        else
        let first := (({ s with mem := { s.mem with held := s.mem.held.take i } } : State).heldOf (some k) q.cls 0).isEmpty
        if first && decide (s.paceTime r q.cls ≤ s.now) then
          let s1 := s0.addHold r.die r.slot q.cls (s.now - q.ready)
          .next ((s1.issueBlock k q.cls).send { q with issue := s.now } 0)
        else .next s
    | none =>
      match s.sysPort q.src q.agent (s.target q.src q.addr) with
      | none => .next (s0.send { q with issue := s.now } 0)
      | some (key, _, share) =>
        let first := (({ s with mem := { s.mem with held := s.mem.held.take i } } : State).heldOf none 4 key).isEmpty
        if first && share != 0 && decide (s.sysDue key share ≤ s.now) then .next (s0.sysIssue q key share 0) else .next s

/-! ### Service -/

/-- Order of two requests at one block that arrived in the same cycle: a read first, then writes in ascending die and agent (R214). -/
def sameCycle (a b : MemReq) : Bool :=
  if a.write == b.write then decide (a.src < b.src) || (a.src == b.src && decide (a.agent < b.agent)) else !a.write

/-- Service order of Table 7.4. -/
def serveBefore (a b : MemReq) : Bool :=
  if a.cls == 4 || b.cls == 4 then a.cls == 4 && (b.cls != 4 || decide (a.sys < b.sys) || (a.sys == b.sys && decide (a.arr < b.arr)))
  else
    let ta := a.issue + latX a.cls
    let tb := b.issue + latX b.cls
    decide (ta < tb) || (ta == tb && (decide (a.src < b.src) || (a.src == b.src && decide (a.agent < b.agent))))

/-- Does a request at a channel wait for another one at its block that arrived in the same cycle (R214)? -/
def chanHolds (a b : MemReq) : Bool := a.addr / 256 == b.addr / 256 && a.arr == b.arr && sameCycle a b

/-- Position of the request that a resource serves next among those at the positions given: the first by Table 7.4 of those that `holds` lets none
of the others go before (log entry 97). -/
def State.nextServed (s : State) (holds : MemReq → MemReq → Bool) (ps : List Nat) : Option Nat :=
  let at_ (i : Nat) : MemReq := nth { src := 0, agent := 0, addr := 0, len := 0 } s.mem.waiting i
  (ps.filter fun i => !ps.any fun j => holds (at_ j) (at_ i)).foldl (fun m i => match m with
    | none => some i
    | some j => if serveBefore (at_ i) (at_ j) then some i else some j) none

/-- New bytes of an atomic combine (R109). -/
def combineBytes (n : Nat) (c : Nat × Nat) (src old : List Byte) : List Byte :=
  (List.range (old.length / 4)).flatMap fun j =>
    leBytes 4 (combineWord c.2 c.1 (fun l => Config.nanCode n (2 * j + l) c.2) (u old (4 * j) 4) (u src (4 * j) 4))

/-- A request is carried out at its stored block. -/
def State.carryOut (s : State) (q : MemReq) (l : Loc) (ecc : Nat) : State :=
  match q.comb with
  | some c =>
    let (n, s0) := s.draw
    let (s1, ok) := s0.memWrite l q.addr (combineBytes n c q.data (s0.locRead l (q.addr % 256) q.data.length)) 0 ecc q.run true
    s1.endAccess q [] 0 (if ok then 0 else 6)
  | none =>
    if q.write then
      let (s1, ok) := s.memWrite l q.addr q.data q.chk ecc q.run
      s1.endAccess q [] 0 (if ok then 0 else 6)
    else match s.memRead l q.addr ecc q.run with
      | (s1, none) => s1.endAccess q q.zeros 0 6
      | (s1, some (bs, chk)) => s1.endAccess q (sliceB bs (q.addr % 256) q.len) chk 0

/-- The stored block of a waiting request, found at its home. -/
def State.placeOf (s : State) (q : MemReq) : Option Loc := s.locate (s.target q.home q.addr)

/-- A waiting request leaves the queue; one whose place is no more ends undecodable. -/
def State.unwait (s : State) (i : Nat) : State := { s with mem := { s.mem with waiting := dropAt s.mem.waiting i } }

/-- CHANNEL_SERVE (R211, R212, R214, R221, R554): channel `c` of die `die` (8 the bulk tier) serves its next request; `ecc` is what link ECC
met, `miss` says that its row was not open. A request whose address no longer decodes ends by R29. -/
def execChannelServe (die c ecc : Nat) (miss : Bool) (s : State) : Host.Outcome State Fault Refusal :=
  let at_ (q : MemReq) : Bool := q.home == die && match s.placeOf q with
    | some (.dram d ch _) => d == die && ch == c
    | some _ => false
    | none => true
  let ps := (List.range s.mem.waiting.length).filter fun i => match s.mem.waiting[i]? with | some q => at_ q | none => false
  match s.nextServed chanHolds ps with
  | none => .next s
  | some i => match s.mem.waiting[i]? with
    | none => .next s
    | some q => match s.placeOf q with
      | none => .next (((s.unwait i).decodeError q.src q.agent q.addr 0 q.run).endAccess q q.zeros 0 1)
      | some l =>
        let s1 := s.unwait i
        let s2 := if miss then s1.count (Reg.MEM_CH_CNT_MISS_count (memWin die) c) 1 else s1
        .next (s2.carryOut q l ecc)

/-- Does a request at a slice wait for another one at its block: one already begun, which holds its block, or one that arrived in the same cycle
from a lower die or agent (R201)? -/
def sliceHolds (a b : MemReq) : Bool :=
  a.addr / 256 == b.addr / 256 && (decide (b.beat < a.beat)
    || (a.beat == b.beat && a.arr == b.arr && (decide (a.src < b.src) || (a.src == b.src && decide (a.agent < b.agent)))))

/-- 64-byte accesses that a request takes at its slice (R200). -/
def MemReq.beats (q : MemReq) : Nat := (q.addr % 256 + q.len - 1) / 64 + 1 - q.addr % 256 / 64

/-- SLICE_SERVE (R200, R201, R221): slice `sl` of the shared store of die `t` serves one 64-byte access; `ecc` is what its checker met.
The last one of a request carries it out. -/
def execSliceServe (t sl ecc : Nat) (s : State) : Host.Outcome State Fault Refusal :=
  let at_ (q : MemReq) : Bool := q.home == t && match s.placeOf q with | some (.shared d x _) => d == t && x == sl | _ => false
  let ps := (List.range s.mem.waiting.length).filter fun i => match s.mem.waiting[i]? with | some q => at_ q | none => false
  match s.nextServed sliceHolds ps with
  | none => .next s
  | some i => match s.mem.waiting[i]? with
    | none => .next s
    | some q =>
      let q1 := { q with beat := q.beat + 1, ecc := max q.ecc ecc }
      if q1.beat < q.beats then .next { s with mem := { s.mem with waiting := setNth s.mem.waiting i q1 } }
      else match s.placeOf q with
        | none => .next s
        | some l => .next ((s.unwait i).carryOut q l q1.ecc)

end Sys2Proof.Machine
end

