-- ==== Sys2Proof/Machine/Index.lean ====
section
/-! DEFINITION. The index unit (R102–R112, R114): gather, scatter, segmented reduction, histogram and distinct values. -/

namespace Sys2Proof.Machine

/-- An index entry (Table 4.1); `resv`: a reserved field is not zero. -/
structure IdxEntry where
  op : Nat
  fmt : Nat
  sub : Nat
  indexed : Bool
  idx : Nat
  oob : Bool
  off : Nat
  srcSs : Bool
  dstSs : Bool
  count : Nat
  rows : Nat
  src : Nat
  w : Nat
  dst : Nat
  segM1 : Nat
  resv : Bool
deriving DecidableEq, Repr

def readIdx (b : List Byte) : IdxEntry :=
  let q (i : Nat) : Nat := u b (8 * i) 8
  { op := bits (q 0) 7 0, fmt := bits (q 0) 11 8, sub := bits (q 0) 14 12, indexed := bit (q 0) 15,
    idx := bits (q 0) 30 16 * 256, oob := bit (q 0) 31, off := bits (q 0) 46 32 * 256, srcSs := bit (q 0) 47,
    dstSs := bit (q 0) 63, count := bits (q 1) 20 0, rows := bits (q 1) 63 32, src := bits (q 2) 47 0,
    w := bits (q 2) 58 48, dst := bits (q 3) 47 0, segM1 := bits (q 3) 63 48,
    resv := bits (q 0) 62 48 != 0 || bits (q 1) 31 21 != 0 || bits (q 2) 63 59 != 0 }

/-- Chunks of 64 bytes in a row (R104). -/
def IdxEntry.c (d : IdxEntry) : Nat := ceilDiv d.w 16

def IdxEntry.segs (d : IdxEntry) : Nat := d.segM1 + 1

/-- Rows of the destination, and its bytes; for DEDUP as many as its values can take (log entry 94). -/
def IdxEntry.dstLen (d : IdxEntry) : Nat :=
  match d.op with
  | 1 => d.count * 64 * d.c
  | 2 => d.rows * 64 * d.c
  | 3 => (if d.sub == 4 then d.count else d.segs) * 64 * d.c
  | 4 => d.rows * 4
  | _ => 256 + d.count * 4

/-- Bytes of the source: table, source rows, or scratch. -/
def IdxEntry.srcLen (d : IdxEntry) : Nat :=
  match d.op with
  | 1 => d.rows * 64 * d.c
  | 2 => d.count * 64 * d.c
  | 3 => d.rows * 64 * d.c
  | 4 => 0
  | _ => d.rows * 4

/-- Does the entry read an index list? -/
def IdxEntry.hasIdx (d : IdxEntry) : Bool := d.op != 3 || d.indexed

/-- Is (op, sub) one of Table 4.1, and is fmt one that it allows (R105, R110)? -/
def IdxEntry.listed (d : IdxEntry) : Bool :=
  match d.op with
  | 1 => d.sub == 0
  | 2 => d.sub < 4
  | 3 => d.sub < 5
  | 4 => d.sub == 0
  | 5 => d.sub == 0
  | _ => false

def IdxEntry.fmtOk (d : IdxEntry) : Bool :=
  match d.op with
  | 2 => if d.sub == 0 then d.fmt == 0 else decide (0xA ≤ d.fmt ∧ d.fmt ≤ 0xD)
  | 3 => if d.sub < 3 then decide (0xA ≤ d.fmt ∧ d.fmt ≤ 0xD) else d.fmt == 0xA || d.fmt == 0xB || d.fmt == 0xD
  | _ => d.fmt == 0

/-- Fields that the operation does not use are zero (R105). -/
def IdxEntry.unusedOk (d : IdxEntry) : Bool :=
  (d.op == 3 || (!d.indexed && d.segM1 == 0)) && (d.op == 3 || d.op == 5 || d.off == 0) && (d.hasIdx || d.idx == 0)
    && (d.op < 4 || d.w == 0) && (d.op != 4 || (d.src == 0 && !d.srcSs)) && (d.op != 5 || !d.oob)

/-- A source or destination lies where R104 and R106 allow: inside the local store, or 64-byte aligned in the shared store of die `t`. -/
def sideOk (t : Nat) (ss : Bool) (a n : Nat) : Bool :=
  if ss then
    let base := 0x008000000000 + t * 0x10000000
    a % 64 == 0 && decide (base ≤ a ∧ a + n ≤ base + 0x08000000)
  else inStore a n

/-- Does a range on one side overlap a range on another? -/
def sideOverlap (ss : Bool) (a n : Nat) (ss' : Bool) (a' n' : Nat) : Bool := ss == ss' && overlap (a, n) (a', n')

/-- Is an index entry valid (R106)? `offs` is what its offset list holds. A local src is 64-byte aligned (Table 4.1); the scratch of DEDUP overlaps
neither of its lists (log entry 94). -/
def IdxEntry.valid (d : IdxEntry) (t : Nat) (offs : List Nat) : Bool :=
  let idxN := if d.hasIdx then d.count * 4 else 0
  let offN := if d.op == 3 then (d.segs + 1) * 4 else if d.op == 5 then d.count * 4 else 0
  let rising := (List.range d.segs).all fun i => nth 0 offs i ≤ nth 0 offs (i + 1)
  !d.resv && d.listed && d.fmtOk && d.unusedOk
    && decide (1 ≤ d.count ∧ d.count ≤ 1048576) && (3 < d.op || decide (1 ≤ d.w ∧ d.w ≤ 1024))
    && (d.src % 64 == 0 && sideOk t d.srcSs d.src d.srcLen) && sideOk t d.dstSs d.dst d.dstLen
    && inStore d.idx idxN && inStore d.off offN
    && !sideOverlap d.dstSs d.dst d.dstLen d.srcSs d.src d.srcLen
    && !sideOverlap d.dstSs d.dst d.dstLen false d.idx idxN && !sideOverlap d.dstSs d.dst d.dstLen false d.off offN
    && !(d.op == 5 && (overlap (d.off, offN) (d.idx, idxN) || overlap (d.off, offN) (d.src, d.srcLen)
      || overlap (d.src, d.srcLen) (d.idx, idxN)))
    && !(d.op == 3 && !(nth 0 offs 0 == 0 && rising && nth 0 offs d.segs == d.count))
    && !(d.op == 4 && decide (1048576 < d.rows)) && !(d.op == 5 && (decide (524288 < d.rows) || d.srcSs || d.dstSs))

/-- A row of a source or destination read. -/
def Io.row (x : Io) (r : TaskRun) (ss : Bool) (a n : Nat) : Io × List Byte :=
  if ss then x.get r.key r.phys a n else (x, x.s.stGet r.die r.phys a n)

/-- Bytes of a destination written. -/
def Io.out (x : Io) (r : TaskRun) (ss : Bool) (a : Nat) (bs : List Byte) : Io :=
  if ss then x.put r.key r.phys a bs else { x with s := x.s.unitWrite r a bs }

/-- Rows written at a pitch: rows that fill consecutive places leave as one run of bytes. -/
def Io.outRows (x : Io) (r : TaskRun) (ss : Bool) (a pitch : Nat) (rows : List (Nat × List Byte)) : Io :=
  if rows.all (fun p => p.2.length == pitch) && rows.map Prod.fst == List.range rows.length then
    x.out r ss a (rows.flatMap Prod.snd)
  else rows.foldl (fun x p => x.out r ss (a + p.1 * pitch) p.2) x

/-- Rows of a table read by their numbers, each with its position. -/
def Io.rowsOf (x : Io) (r : TaskRun) (ss : Bool) (a pitch n : Nat) (vs : List (Nat × Nat)) :
    Io × List (Nat × List Byte) :=
  vs.foldl (fun (acc : Io × List (Nat × List Byte)) p =>
    let (x1, bs) := acc.1.row r ss (a + p.2 * pitch) n
    (x1, acc.2 ++ [(p.1, bs)])) (x, [])

/-- GATHER (R107, R108): `vs` are positions with their indices. -/
def Io.gather (x : Io) (r : TaskRun) (d : IdxEntry) (vs : List (Nat × Nat)) : Io :=
  let pitch := 64 * d.c
  let (x1, rows) := vs.foldl (fun (acc : Io × List (Nat × List Byte)) p =>
    if p.2 < d.rows then
      let (x1, bs) := acc.1.row r d.srcSs (d.src + p.2 * pitch) (4 * d.w)
      (x1, acc.2 ++ [(p.1, bs)])
    else (acc.1, acc.2 ++ [(p.1, List.replicate (4 * d.w) 0)])) (x, [])
  x1.outRows r d.dstSs d.dst pitch rows

/-- Words of a row combined with those it meets (R108); `n` draws the NaNs of source row `i`. -/
def combineRow (d : IdxEntry) (n i : Nat) (src : List Byte) (o : Nat) (old : List Byte) : List Byte :=
  let m := old.length / 4
  words32Bytes ((List.range m).map fun j =>
    combineWord d.fmt d.sub (fun l => Config.nanCode n (2 * (i * d.w + o / 4 + j) + l) d.fmt) (u old (4 * j) 4) (u src (o + 4 * j) 4))

/-- SCATTER (R108, R109), in ascending position. -/
def Io.scatter (x : Io) (r : TaskRun) (d : IdxEntry) (n : Nat) (vs : List (Nat × Nat)) : Io :=
  let pitch := 64 * d.c
  (vs.filter fun p => decide (p.2 < d.rows)).foldl (fun x p =>
    let (x1, src) := x.row r d.srcSs (d.src + p.1 * pitch) (4 * d.w)
    let a := d.dst + p.2 * pitch
    if d.sub == 0 then x1.out r d.dstSs a src
    else if d.dstSs then x1.combine r.key r.phys a (4 * d.w) (combineRow d n p.1 src)
    else { x1 with s := x1.s.unitWrite r a (combineRow d n p.1 src 0 (x1.s.stGet r.die r.phys a (4 * d.w))) }) x

/-- log2(e) of R110. -/
def l2e : Num := f32Of 0x3FB8AA3B

/-- exp2 to the FP32 accuracy of Table 3.10. -/
def exp2F32 (x : Num) : Num := exp2In fmtF32 2 (Config.ulpPick 0x10 0xD (f32Bits 0 x) 0) x

/-- Division to the FP32 accuracy of Table 3.10 (log entry 24). -/
def divF32 (a b : Num) : Num := rne32 (divIn fmtF32 1 (Config.ulpPick 0x14 0xD (f32Bits 0 a) (f32Bits 0 b)) a b)

/-- Sum of values in order, each step rounded to FP32. -/
def sumF32 (xs : List Num) : Num := xs.foldl (fun a x => rne32 (a.add x)) (.zero false)

/-- Maximum (op 6) or minimum (op 5) of values in order. -/
def pickF32 (op : Nat) : List Num → Num
  | [] => .zero false
  | x :: xs => xs.foldl (fun a y => minmax op 0xD (f32Bits 0 a) (f32Bits 0 y) a y) x

/-- One column of one segment reduced (R110): sum, max, min or mean of its elements. -/
def segColumn (fmt sub nb : Nat) (es : List Nat) : Nat :=
  if es.isEmpty then 0
  else if fmt == 0xC then
    let is := es.map (sx 32)
    unsx 32 (match sub, is with
      | 1, i :: rest => rest.foldl max i
      | 2, i :: rest => rest.foldl min i
      | _, is => is.foldl (· + ·) 0)
  else
    let xs := es.map (decElem fmt)
    let v := match sub with
      | 0 => sumF32 xs
      | 1 => pickF32 6 xs
      | 2 => pickF32 5 xs
      | _ => divF32 (sumF32 xs) (.ofInt es.length)
    (narrow fmt false .rne v).enc fmt nb

/-- One column of one segment as its normalised exponential (R110): one element for each. -/
def normExpColumn (fmt : Nat) (nb : Nat → Nat) (es : List Nat) : List Nat :=
  let xs := es.map (decElem fmt)
  let m := pickF32 6 xs
  let ex := xs.map fun x => exp2F32 (rne32 ((rne32 (x.sub m)).mul l2e))
  let z := sumF32 ex
  (List.range ex.length).map fun i => (narrow fmt false .rne (divF32 (nth .nan ex i) z)).enc fmt (nb i)

/-- Elements in a row. -/
def IdxEntry.elems (d : IdxEntry) : Nat := d.w * lanes d.fmt

/-- Segment `sg` reduced: the rows it writes, by their number. `rows` are its rows that are not omitted. -/
def IdxEntry.segment (d : IdxEntry) (n sg : Nat) (rows : List (Nat × List Byte)) : List (Nat × List Byte) :=
  let col (j : Nat) : List Nat := rows.map fun p => elemAt d.fmt p.2 j
  let nan (i j : Nat) : Nat := Config.nanCode n (i * d.elems + j) d.fmt
  if d.sub == 4 then
    let cols := (List.range d.elems).map fun j => normExpColumn d.fmt (fun i => nan (nth (0, []) rows i).1 j) (col j)
    (List.range rows.length).map fun i =>
      ((nth (0, []) rows i).1, packElems d.fmt ((List.range d.elems).map fun j => nth 0 (nth [] cols j) i))
  else [(sg, packElems d.fmt ((List.range d.elems).map fun j => segColumn d.fmt d.sub (nan sg j) (col j)))]

/-- SEGRED (R110, R111): the segments that end at or before position `upTo` and, where `from_` is given, after that position; `vs` are rows by
position and index. -/
def Io.segred (x : Io) (r : TaskRun) (d : IdxEntry) (n : Nat) (offs : List Nat) (from_ : Option Nat) (upTo : Nat) (vs : List (Nat × Nat)) : Io :=
  let pitch := 64 * d.c
  let (x1, out) := (List.range d.segs).foldl (fun (acc : Io × List (Nat × List Byte)) sg =>
    let lo := nth 0 offs sg
    let hi := nth 0 offs (sg + 1)
    if upTo < hi || (match from_ with | some f => decide (hi ≤ f) | none => false) then acc
    else
      let mine := vs.filter fun p => decide (lo ≤ p.1 ∧ p.1 < hi ∧ p.2 < d.rows)
      let (x1, rows) := acc.1.rowsOf r d.srcSs d.src pitch (4 * d.w) mine
      (x1, acc.2 ++ d.segment n sg rows)) (x, [])
  x1.outRows r d.dstSs d.dst pitch out

/-- HIST (R112): bins cleared in the local store, added to in the shared store; a bin saturates. -/
def Io.hist (x : Io) (r : TaskRun) (d : IdxEntry) (vs : List (Nat × Nat)) : Io :=
  let good := vs.filter fun p => decide (p.2 < d.rows)
  if d.dstSs then
    good.foldl (fun x p => x.combine r.key r.phys (d.dst + 4 * p.2) 4 fun _ old =>
      leBytes 4 (min 0xFFFFFFFF (leNat old + 1))) x
  else
    let bins := (List.range d.rows).map fun v => min 0xFFFFFFFF (good.filter fun p => p.2 == v).length
    { x with s := x.s.unitWrite r d.dst (words32Bytes bins) }

/-- DEDUP (R112): distinct values in order of first occurrence, their number, the inverse map; the scratch becomes
undefined. `all` says that no index stopped the entry. -/
def Io.dedup (x : Io) (r : TaskRun) (d : IdxEntry) (all : Bool) (vs : List (Nat × Nat)) : Io :=
  let ds := vs.foldl (fun (acc : List Nat) p => withOnce p.2 acc) []
  let inv := vs.map fun p => ds.idxOf p.2
  let s1 := if x.s.isWithheld r.key then x.s else x.s.makeHazy r.die r.phys d.src (d.rows * 4)
  let s2 := s1.unitWrite r (d.dst + 256) (words32Bytes ds)
  let s3 := s2.unitWrite r d.off (words32Bytes inv)
  { x with s := if all then s3.unitWrite r d.dst (leBytes 4 ds.length) else s3 }

/-- Local-store bytes that an entry reads, for verification (R421). -/
def IdxEntry.reads (d : IdxEntry) (vs : List (Nat × Nat)) : List (Nat × Nat) :=
  let pitch := 64 * d.c
  let good := vs.filter fun p => decide (p.2 < d.rows)
  (if d.hasIdx then [(d.idx, d.count * 4)] else []) ++ (if d.op == 3 then [(d.off, (d.segs + 1) * 4)] else [])
    ++ (if d.srcSs || 3 < d.op then [] else good.map fun p => (d.src + (if d.op == 2 then p.1 else p.2) * pitch, 4 * d.w))
    ++ (if d.op == 2 && d.sub != 0 && !d.dstSs then good.map fun p => (d.dst + p.2 * pitch, 4 * d.w) else [])

/-- What an entry writes in the local store, for the generators of check values (R420). -/
def IdxEntry.writes (d : IdxEntry) : List (Nat × Nat) :=
  (if d.dstSs then [] else [(d.dst, d.dstLen)]) ++ (if d.op == 5 then [(d.off, d.count * 4)] else [])

/-- The items of an entry from position `from_` (none: from the first) up to `upTo`, processed; `vs` are the indices by position. `all` says that the
entry then ends without a fault. -/
def Io.indexItems (x : Io) (r : TaskRun) (d : IdxEntry) (n : Nat) (offs : List Nat) (from_ : Option Nat) (upTo : Nat) (all : Bool)
    (vs : List (Nat × Nat)) : Io :=
  let mine := (vs.take upTo).drop (from_.getD 0)
  match d.op with
  | 1 => x.gather r d mine
  | 2 => x.scatter r d n mine
  | 3 => x.segred r d n offs from_ upTo vs
  | 4 => x.hist r d mine
  | _ => x.dedup r d all mine

/-- One index entry of a running task (R102, R106–R112, R114). Where the copies of the unit differ at item `o.item`, what they had compared before
is written, what comes after is withheld (R114, R556); a segment is compared when it is complete (log entry 94). -/
def State.indexEntry (s : State) (r : TaskRun) (d : IdxEntry) (o : UnitObs) : State :=
  let t := r.die
  let e := r.phys
  let err := Reg.IDX_ERR t e
  let s1 := (s.storeEcc r o).count (Reg.IDX_CNT_STALL_beats t e) o.stall
  let offs := if d.op == 3 then words32 (s1.stGet t e d.off ((d.segs + 1) * 4)) (d.segs + 1) else []
  if !d.valid t offs then s1.badEntry r o 0x20C1 err r.pos 0
  else
    let idxs := if d.hasIdx then words32 (s1.stGet t e d.idx (d.count * 4)) d.count else List.range d.count
    let bad := if d.oob then none else idxs.findIdx? fun v => decide (d.rows ≤ v)
    let upTo := bad.getD d.count
    let vs := (List.range upTo).map fun i => (i, nth 0 idxs i)
    let (n, s3) := (s1.verify r (d.reads vs)).draw
    let x0 : Io := { s := s3, ecc := o.mem }
    let x1 := if o.copies then
        let xa := x0.indexItems r d n offs none (min upTo o.item) false vs
        { xa with s := xa.s.checkerFault r 0x20C5 err r.pos o.item }.indexItems r d n offs (some (min upTo o.item)) upTo bad.isNone vs
      else x0.indexItems r d n offs none upTo bad.isNone vs
    let s4 := d.writes.foldl (fun s w => s.poisonBlocks r w.1 w.2 o.gen) x1.s
    let good := (vs.filter fun p => decide (p.2 < d.rows)).length
    let s5 := s4.countOnce r 0x00C3 (Reg.IDX_CNT_OOB_count t e) (vs.length - good)
    let empty := ((List.range d.segs).filter fun g => nth 0 offs (g + 1) ≤ upTo
      && !(vs.any fun p => decide (nth 0 offs g ≤ p.1 ∧ p.1 < nth 0 offs (g + 1) ∧ p.2 < d.rows))).length
    let s6 := if d.op == 3 then s5.countOnce r 0x00C4 (Reg.IDX_CNT_EMPTY_count t e) empty else s5
    let s7 := if d.op ≤ 3 then s6.count (Reg.IDX_CNT_ROWS_rows t e) good else s6
    match bad with
    | some i => s7.badEntry r o 0x20C2 err r.pos i
    | none => s7.nextEntry r.key

/-- The entry an INDEX task on engine `e` of die `t` is at, for the command of operation `op` and mode `sub`: an entry whose
operation is not listed is met by any of the unit's commands. -/
def State.runIndex (s : State) (t e op sub : Nat) (o : UnitObs) : State :=
  match s.unitTask t e 3 with
  | none => s
  | some (r, d) =>
    if d.listLen ≤ r.pos then s
    else
      let x := readIdx (s.entryBytes r d)
      if x.listed && !(x.op == op && x.sub == sub) then s else s.indexEntry r x o

/-- GATHER (R108). -/
def execGather (t e : Nat) (o : UnitObs) (s : State) : Host.Outcome State Fault Refusal := .next (s.runIndex t e 1 0 o)
/-- SCATTER_STORE (R108). -/
def execScatterStore (t e : Nat) (o : UnitObs) (s : State) : Host.Outcome State Fault Refusal := .next (s.runIndex t e 2 0 o)
/-- SCATTER_ADD (R108, R109). -/
def execScatterAdd (t e : Nat) (o : UnitObs) (s : State) : Host.Outcome State Fault Refusal := .next (s.runIndex t e 2 1 o)
/-- SCATTER_MAX (R108, R109). -/
def execScatterMax (t e : Nat) (o : UnitObs) (s : State) : Host.Outcome State Fault Refusal := .next (s.runIndex t e 2 2 o)
/-- SCATTER_MIN (R108, R109). -/
def execScatterMin (t e : Nat) (o : UnitObs) (s : State) : Host.Outcome State Fault Refusal := .next (s.runIndex t e 2 3 o)
/-- SEGRED_SUM (R110, R111). -/
def execSegredSum (t e : Nat) (o : UnitObs) (s : State) : Host.Outcome State Fault Refusal := .next (s.runIndex t e 3 0 o)
/-- SEGRED_MAX (R110, R111). -/
def execSegredMax (t e : Nat) (o : UnitObs) (s : State) : Host.Outcome State Fault Refusal := .next (s.runIndex t e 3 1 o)
/-- SEGRED_MIN (R110, R111). -/
def execSegredMin (t e : Nat) (o : UnitObs) (s : State) : Host.Outcome State Fault Refusal := .next (s.runIndex t e 3 2 o)
/-- SEGRED_MEAN (R110, R111). -/
def execSegredMean (t e : Nat) (o : UnitObs) (s : State) : Host.Outcome State Fault Refusal := .next (s.runIndex t e 3 3 o)
/-- SEGRED_NORM_EXP (R110, R111). -/
def execSegredNormExp (t e : Nat) (o : UnitObs) (s : State) : Host.Outcome State Fault Refusal := .next (s.runIndex t e 3 4 o)
/-- HIST (R112). -/
def execHist (t e : Nat) (o : UnitObs) (s : State) : Host.Outcome State Fault Refusal := .next (s.runIndex t e 4 0 o)
/-- DEDUP (R112). -/
def execDedup (t e : Nat) (o : UnitObs) (s : State) : Host.Outcome State Fault Refusal := .next (s.runIndex t e 5 0 o)

end Sys2Proof.Machine
end

