-- ==== Sys2Proof/Machine/Array.lean ====
section
/-! DEFINITION. The cell array (R65–R88, R555): passes, their order of evaluation, the checksum column, narrowing, the chain with the
index unit (R127–R130) and the tiles forwarded for audit (R430, R431). -/

namespace Sys2Proof.Machine

/-- A pass descriptor (Table 3.3). -/
structure Pass where
  stat : Nat
  stream : Nat
  acc : Nat
  out : Nat
  rows : Nat
  fs : Nat
  fa : Nat
  fo : Nat
  mode : Nat
  sparse : Bool
  stoch : Bool
  sat : Bool
  relu : Bool
  qp : Bool
  last : Bool
  qpBlk : Nat
  resv : Bool
deriving DecidableEq, Repr

def readPass (b : List Byte) : Pass :=
  let w0 := u b 0 8
  let w1 := u b 8 8
  { stat := bits w0 14 0 * 256, stream := bits w0 30 16 * 256, acc := bits w0 46 32 * 256, out := bits w0 62 48 * 256,
    rows := bits w1 15 0, fs := bits w1 19 16, fa := bits w1 23 20, fo := bits w1 27 24, mode := bits w1 29 28,
    sparse := bit w1 30, stoch := bit w1 31, sat := bit w1 32, relu := bit w1 33, qp := bit w1 34, last := bit w1 35,
    qpBlk := bits w1 50 36 * 256,
    resv := bit w0 15 || bit w0 31 || bit w0 47 || bit w0 63 || bits w1 63 51 != 0 }

/-- Is the pair (streaming, stationary) in Table 3.6? -/
def pairOk (fa fs : Nat) : Bool :=
  (fa == 0 && fs ≤ 1) || (fa == 1 && fs == 1) || ((fa == 2 || fa == 3) && (fs == 2 || fs == 3))
    || ((fa == 4 || fa == 5) && (fs == 4 || fs == 5)) || ((fa == 6 || fa == 7) && (fs == 6 || fs == 7))
    || (8 ≤ fa && fa ≤ 0xB && fs == fa)

/-- An integer pair. -/
def Pass.int (p : Pass) : Bool := p.fa ≤ 1

/-- Does the pass narrow? -/
def Pass.narrows (p : Pass) : Bool := 2 ≤ p.mode

/-- Is the output format allowed for the pair (Table 3.6)? It is read only in acc_mode 2 and 3. -/
def Pass.outOk (p : Pass) : Bool :=
  !p.narrows || (if p.int then p.fo == 0xC || p.fo ≤ 1 else p.fo == 0xD || decide (2 ≤ p.fo ∧ p.fo ≤ 0xB))

/-- Logical columns and reduction depth of the block (Table 3.2). -/
def Pass.n (p : Pass) : Nat := if p.fs == 1 || p.fs == 9 then 128 else 64
def Pass.k (p : Pass) : Nat := if p.sparse then 256 else 128

/-- Bytes of the element plane of the stationary tile, of its scales, of its metadata (Table 3.12). -/
def Pass.statElems (p : Pass) : Nat := elemBytes p.fs (128 * p.n)
def Pass.statScales (p : Pass) : Nat := if isMX p.fs then p.k / 32 * p.n else 0
def Pass.statMeta (p : Pass) : Nat := if p.sparse then 64 * p.n / 2 else 0

/-- Tiles of a pass as (offset, bytes), planes following one another at 256-byte boundaries (R96). -/
def Pass.statTile (p : Pass) : Nat × Nat := (p.stat, p.statElems + p.statScales + p.statMeta)
def Pass.streamTile (p : Pass) : Nat × Nat :=
  (p.stream, tensorBytesOf p.fa (p.rows * p.k))
where
  tensorBytesOf (code n : Nat) : Nat :=
    if isMX code then roundUp (elemBytes code n) 256 + n / 32 else elemBytes code n
def Pass.accTile (p : Pass) : Nat × Nat := (p.acc, roundUp (p.rows * p.n * 4) 256 + p.rows * 4)
def Pass.outTile (p : Pass) : Nat × Nat := (p.out, Pass.streamTile.tensorBytesOf p.fo (p.rows * p.n))
def Pass.qpTile (p : Pass) : Nat × Nat := (p.qpBlk, p.n * 8)

/-- Tiles that the pass uses by itself; a chained one streams and reduces elsewhere. -/
def Pass.tiles (p : Pass) (chained : Bool) : List (Nat × Nat) :=
  p.statTile :: ((if chained then [] else [p.streamTile]) ++ (if p.mode != 2 then [p.accTile] else [])
    ++ (if p.narrows && !chained then [p.outTile] else []) ++ (if p.narrows && p.qp then [p.qpTile] else []))

/-- A chain header (Table 4.5). -/
structure Chain where
  idx : Nat
  off : Nat
  tbl : Nat
  red : Nat
  pitch : Nat
  redOp : Nat
  oob : Bool
  segs : Nat
  redPitch : Nat
  rows : Nat
  resv : Bool
deriving DecidableEq, Repr

def readChain (b : List Byte) : Chain :=
  let w (i : Nat) : Nat := u b (8 * i) 8
  { idx := bits (w 0) 14 0 * 256, off := bits (w 0) 30 16 * 256, tbl := bits (w 0) 46 32 * 256,
    red := bits (w 0) 62 48 * 256, pitch := bits (w 1) 10 0 * 64, redOp := bits (w 1) 18 16, oob := bit (w 1) 19,
    segs := bits (w 1) 47 32 + 1, redPitch := bits (w 1) 63 48 * 256, rows := bits (w 2) 31 0,
    resv := bit (w 0) 15 || bit (w 0) 31 || bit (w 0) 47 || bit (w 0) 63 || bits (w 1) 15 11 != 0
      || bits (w 1) 31 20 != 0 || bits (w 2) 63 32 != 0 || w 3 != 0 }

/-- Is the chain header valid by itself (R127, R128)? -/
def Chain.ok (c : Chain) (offs : List Nat) : Bool :=
  !c.resv && decide (64 ≤ c.pitch ∧ c.pitch ≤ 65536 ∧ c.redOp ≤ 3 ∧ 256 ≤ c.redPitch ∧ c.redPitch ≤ 16384)
    && inStore c.off ((c.segs + 1) * 4) && nth 0 offs 0 == 0
    && (List.range c.segs).all (fun i => nth 0 offs i ≤ nth 0 offs (i + 1))
    && inStore c.idx (nth 0 offs c.segs * 4) && inStore c.tbl (c.rows * c.pitch)

/-- Where the block's outputs go within a reduced row. -/
def Pass.redOff (p : Pass) : Nat := p.out

/-- Does a pass of a chained task meet R128? The slice that it streams lies within the table row. -/
def Chain.passOk (c : Chain) (offs : List Nat) (p : Pass) : Bool :=
  p.rows == nth 0 offs c.segs && decide (p.stream / 4 + elemBytes p.fa p.k ≤ c.pitch) && (p.fa ≤ 3 || p.fa == 0xA || p.fa == 0xB)
    && (!p.narrows || (p.fo == (if p.int then 0xC else 0xD) && (c.redOp != 3 || p.fo == 0xD)
      && inStore (c.red + (c.segs - 1) * c.redPitch + p.redOff) (p.n * 4)))

/-- Planes of a pass as read: stationary elements, scales, metadata. -/
structure Block where
  elems : List Byte
  scales : List Byte
  meta_ : List Byte

/-- The metadata nibble of group `q`, column `n` (R82, Table 3.11). -/
def Block.nibble (b : Block) (cols q n : Nat) : Nat :=
  let i := q * cols + n
  bits (nth 0 b.meta_ (i / 2)).toNat (i % 2 * 4 + 3) (i % 2 * 4)

/-- The stored element at logical row `k`, column `n`: nothing where sparsity omits it (R82). -/
def Block.weight (b : Block) (p : Pass) (k n : Nat) : Option Nat :=
  if p.sparse then
    let nb := b.nibble p.n (k / 4) n
    let at_ (i : Nat) : Nat := elemAt p.fs b.elems ((2 * (k / 4) + i) * p.n + n)
    if nb % 4 == k % 4 then some (at_ 0) else if nb / 4 == k % 4 then some (at_ 1) else none
  else some (elemAt p.fs b.elems (k * p.n + n))

/-- Every metadata nibble has idx0 < idx1 (R82). -/
def Block.metaOk (b : Block) (p : Pass) : Bool :=
  !p.sparse || (List.range 64).all fun q => (List.range p.n).all fun n =>
    let nb := b.nibble p.n q n
    decide (nb % 4 < nb / 4)

/-- Scale exponent of block `g`, column `n`. -/
def Block.scale (b : Block) (p : Pass) (g n : Nat) : Option Int := mxExp (nth 0 b.scales (g * p.n + n)).toNat

/-- Columns of streaming rows: element bits and scale bytes of one row. -/
structure StreamRow where
  elems : List Nat
  scales : List Nat

/-- One integer column sum modulo 2^32 (R74). -/
def intColumn (as_ : List Int) (ws : List (Option Int)) : Nat :=
  unsx 32 ((as_.zip ws).foldl (fun c x => match x.2 with | some w => c + x.1 * w | none => c) 0)

/-- One floating column sum (R74); `rp`: the products are rounded too, as in the checksum column. -/
def fltColumn (rp : Bool) (as_ : List Num) (ws : List (Option Num)) : Num :=
  (as_.zip ws).foldl (fun c x => match x.2 with
    | some w => rne32 (c.add (if rp then rne32 (x.1.mul w) else x.1.mul w))
    | none => c) (.zero false)

/-- One microscaled column sum: a group sum for each 32 elements, then its scale (R74). MXINT8 groups are summed exactly. -/
def mxColumn (exact rp : Bool) (as_ : List Num) (ws : List (Option Num)) (sc : Nat → Option Int) : Num :=
  (List.range (as_.length / 32)).foldl (fun c g =>
    let a := (as_.drop (32 * g)).take 32
    let w := (ws.drop (32 * g)).take 32
    let gs := if exact && !rp then
        rne32 ((a.zip w).foldl (fun (c : Num) x => match x.2 with | some w => c.add (x.1.mul w) | none => c) (.zero false))
      else fltColumn rp a w
    let v : Num := match sc g with | some e => rne32 (gs.scale e) | none => .nan
    rne32 (c.add v)) (.zero false)

/-- A value of the accumulator: INT32 bits, or an FP32 value. -/
structure Lane where
  raw : Nat
  num : Num
deriving DecidableEq, Repr

/-- The lane of a pass with given bits. -/
def Pass.lane (p : Pass) (b : Nat) : Lane := { raw := b, num := if p.int then .ofInt (sx 32 b) else f32Of b }

/-- The stationary block decoded: element values of column `n`, for every logical row. -/
def Block.intCol (b : Block) (p : Pass) (n : Nat) : List (Option Int) :=
  (List.range p.k).map fun k => (b.weight p k n).map fun w => sx (elemBits p.fs) w
def Block.numCol (b : Block) (p : Pass) (n : Nat) : List (Option Num) :=
  (List.range p.k).map fun k => (b.weight p k n).map (decElem p.fs)

/-- Checksum weights (R83, R84, R555): c[k] over the columns in ascending order, a column that does not store row k giving
zero. -/
def Pass.intSum (p : Pass) (cols : List (List (Option Int))) : List (Option Int) :=
  (List.range p.k).map fun k => some (cols.foldl (fun c col => c + ((nth none col k).getD 0)) 0)
def Block.numSum (b : Block) (p : Pass) (cols : List (List (Option Num))) : List (Option Num) :=
  (List.range p.k).map fun k =>
    some ((List.range p.n).foldl (fun (c : Num) n =>
      match nth none (nth [] cols n) k with
      | none => c
      | some w =>
        let v : Num := if isMX p.fs then (match b.scale p (k / 32) n with | some e => w.scale e | none => .nan) else w
        rne32 (c.add v)) (.zero false))

/-- The sum of two scale exponents, where neither is NaN. -/
def addExp (a b : Option Int) : Option Int := match a, b with | some x, some y => some (x + y) | _, _ => none

/-- Results of one streaming row: the N data columns and the checksum column, as FP32 or INT32 bits (R74, R83, R84). `nan` draws
the bits of a NaN. -/
def Block.rowResult (b : Block) (p : Pass) (row : StreamRow) (nan : Nat → Nat) : List Nat × Nat :=
  let ns := List.range p.n
  if p.int then
    let cols := ns.map fun n => b.intCol p n
    let as_ := row.elems.map (sx (elemBits p.fa))
    (cols.map fun c => intColumn as_ c, intColumn as_ (p.intSum cols))
  else
    let cols := ns.map fun n => b.numCol p n
    let as_ := row.elems.map (decElem p.fa)
    let sums := b.numSum p cols
    if isMX p.fs then
      let sa (g : Nat) : Option Int := mxExp (nth 0 row.scales g)
      (ns.map fun n => f32Bits (nan n) (mxColumn (p.fa == 8) false as_ (nth [] cols n) fun g => addExp (sa g) (b.scale p g n)),
       f32Bits (nan 128) (mxColumn (p.fa == 8) true as_ sums sa))
    else
      (ns.map fun n => f32Bits (nan n) (fltColumn false as_ (nth [] cols n)), f32Bits (nan 128) (fltColumn true as_ sums))

/-- acc = acc + col (R75, R77). -/
def Pass.accumulate (p : Pass) (nan acc col : Nat) : Nat :=
  if p.int then (acc + col) % 2 ^ 32 else f32Bits nan (rne32 ((f32Of acc).add (f32Of col)))

/-- The check of one output row (R83–R85): data outputs and checksum output. -/
def Pass.rowOk (p : Pass) (eps tau : Nat) (ys : List Nat) (yc : Nat) : Bool :=
  if p.int then (ys.foldl (· + ·) 0) % 2 ^ 32 == yc
  else
    let vs := ys.map f32Of
    let c := f32Of yc
    if vs.any fun v => !v.isFin then !c.isFin
    else if !c.isFin then false
    else
      let sum := vs.foldl (fun (a : Num) v => a.add v) (.zero false)
      let mag := vs.foldl (fun (a : Num) v => a.add v.abs) (.zero false)
      let bound := (mag.scale (-(eps : Int))).add (.fin false 1 (-(tau : Int)))
      !bound.lt (c.sub sum).abs

/-- Steps 1–3 of R78 for one value of column `n`. -/
def Pass.affine (p : Pass) (qp : List Byte) (n : Nat) (v : Lane) : Num :=
  let x := if p.qp then
      rne32 (((rne32 v.num).mul (f32Of (u qp (4 * n) 4))).add (f32Of (u qp (4 * (p.n + n)) 4)))
    else v.num
  if p.relu && x.isNeg then .zero false else x

/-- One row narrowed (R78–R81, Table 3.7). -/
def Pass.narrowRow (p : Pass) (seed pos m : Nat) (qp : List Byte) (nan : Nat → Nat) (vs : List Lane) : NarrowRow :=
  let xs := (List.range p.n).map fun n => p.affine qp n (nth { raw := 0, num := .zero false } vs n)
  let mode (j : Nat) : RMode := if p.stoch then .stoch (stochOf seed (pos * 2 ^ 32 + m * 2 ^ 8 + j)) else .rne
  if isMX p.fo then
    let bs := (List.range (p.n / 32)).map fun g => narrowMX p.fo (fun j => mode (32 * g + j)) ((xs.drop (32 * g)).take 32)
    { elems := bs.flatMap fun b => b.2.1, scales := bs.map fun b => b.1,
      sat := bs.foldl (fun a b => a + b.2.2.1) 0, nonf := bs.foldl (fun a b => a + b.2.2.2) 0 }
  else
    let rs := (List.range p.n).map fun j => narrow p.fo p.sat (mode j) (nth .nan xs j)
    { elems := (List.range p.n).map fun j => (nth { num := .nan } rs j).enc p.fo (nan j),
      sat := (rs.filter (·.sat)).length, nonf := (rs.filter (·.nonf)).length }

/-- One output row of a pass. -/
structure OutRow where
  /-- column sums of the pass, before acc_mode -/
  cols : List Nat
  /-- the values checked and kept: pass results, or accumulated ones; and their checksum -/
  ys : List Nat
  yc : Nat
  ok : Bool
  nar : NarrowRow

/-- What a pass reads: its block, streaming rows, the accumulator tile and the parameter tile. -/
structure PassIn where
  block : Block
  rows : List StreamRow
  acc : List Byte
  qp : List Byte

/-- All rows of a pass, in order. -/
def Pass.compute (p : Pass) (x : PassIn) (eps tau seed pos n : Nat) (flips : List (Nat × Nat × Nat)) : List OutRow :=
  (List.range p.rows).map fun m =>
    let nan (j : Nat) : Nat := Config.nanCode n (m * 256 + j) 0xD
    let (c0, y0) := x.block.rowResult p (nth ⟨[], []⟩ x.rows m) nan
    let hit (col v : Nat) : Nat := flips.foldl (fun v f => if f.1 == m && f.2.1 == col then v ^^^ (f.2.2 % 2 ^ 32) else v) v
    let cols := (List.range p.n).map fun j => hit j (nth 0 c0 j)
    let chk := hit 128 y0
    let add := p.mode == 1 || p.mode == 3
    let ys := if add then (List.range p.n).map fun j => p.accumulate (nan j) (u x.acc ((m * p.n + j) * 4) 4) (nth 0 cols j)
      else cols
    let yc := if add then p.accumulate (nan 128) (u x.acc (roundUp (p.rows * p.n * 4) 256 + m * 4) 4) chk else chk
    { cols := cols, ys := ys, yc := yc, ok := p.rowOk eps tau ys yc,
      nar := if p.narrows then p.narrowRow seed pos m x.qp (fun j => nan (128 + j)) (ys.map p.lane) else { elems := [] } }

/-- Where streaming row `m` lies: its own tile, or a slice of a gathered row; nothing for an index skipped (R107, log entry
30). -/
def Pass.rowAt (p : Pass) (ch : Option (Chain × List Nat)) (m : Nat) : Option Nat :=
  match ch with
  | none => some (p.stream + elemBytes p.fa (m * p.k))
  | some (c, idx) =>
    let v := nth 0 idx m
    if v < c.rows then some (c.tbl + v * c.pitch + p.stream / 4) else none

/-- What the pass reads from the local store. -/
def State.passIn (s : State) (r : TaskRun) (p : Pass) (ch : Option (Chain × List Nat)) : PassIn :=
  let get (off n : Nat) : List Byte := s.stGet r.die r.phys off n
  let sc := p.stat + p.statElems
  let plane := roundUp (elemBytes p.fa (p.rows * p.k)) 256
  { block := ⟨get p.stat p.statElems, get sc p.statScales, get (sc + p.statScales) p.statMeta⟩
    rows := (List.range p.rows).map fun m =>
      let bs := match p.rowAt ch m with
        | some a => get a (elemBytes p.fa p.k) | none => List.replicate (elemBytes p.fa p.k) 0
      { elems := (List.range p.k).map fun k => elemAt p.fa bs k
        scales := if isMX p.fa then (get (p.stream + plane + m * (p.k / 32)) (p.k / 32)).map (·.toNat) else [] }
    acc := if p.mode == 1 || p.mode == 3 then get p.acc p.accTile.2 else []
    qp := if p.narrows && p.qp then get p.qpBlk (p.n * 8) else [] }

/-- Ranges that the pass reads, for verification (R421). -/
def Pass.reads (p : Pass) (ch : Option (Chain × List Nat)) : List (Nat × Nat) :=
  p.statTile ::
    ((match ch with
      | none => [p.streamTile]
      | some (c, idx) => (c.idx, p.rows * 4) :: (c.off, (c.segs + 1) * 4) ::
          (List.range p.rows).filterMap fun m => (p.rowAt (some (c, idx)) m).map fun a => (a, elemBytes p.fa p.k))
    ++ (if p.mode == 1 || p.mode == 3 then [p.accTile] else []) ++ (if p.narrows && p.qp then [p.qpTile] else []))

/-- Faults of the rows in ascending order (R86, R87, R98): checksum mismatches, and the row at which the narrowing copies
disagree. -/
def State.rowFaults (s : State) (r : TaskRun) (p : Pass) (rows : List OutRow) (o : UnitObs) : State :=
  let err := Reg.ENG_ERR r.die r.phys
  (List.range rows.length).foldl (fun s m =>
    let bad := match rows[m]? with | some x => !x.ok | none => false
    let s1 := if bad then (s.checkerFault r 0x2081 err r.pos (m % 65536)).count (Reg.ENG_CNT_CHK_count r.die r.phys) 1 else s
    if o.copies && p.narrows && m == o.item then s1.checkerFault r 0x2082 err r.pos (m % 65536) else s1) s

/-- The rows before the first fault, which are written (R424, R556). -/
def Pass.goodRows (p : Pass) (rows : List OutRow) (o : UnitObs) : Nat :=
  let bad := rows.findIdx? fun x => !x.ok
  min (bad.getD rows.length) (if o.copies && p.narrows then o.item else rows.length)

/-- The accumulator tile and the narrowed tile written as far as row `lim`. -/
def State.writePass (s : State) (r : TaskRun) (p : Pass) (chained : Bool) (rows : List OutRow) (lim : Nat) : State :=
  let rs := rows.take lim
  let s1 := if p.mode == 2 then s else
    (s.unitWrite r p.acc (rs.flatMap fun x => words32Bytes x.ys)).unitWrite r (p.acc + roundUp (p.rows * p.n * 4) 256)
      (words32Bytes (rs.map fun x => x.yc))
  if p.narrows && !chained then
    let s2 := s1.unitWrite r p.out (packElems p.fo (rs.flatMap fun x => x.nar.elems))
    if isMX p.fo then
      s2.unitWrite r (p.out + roundUp (elemBytes p.fo (p.rows * p.n)) 256)
        (rs.flatMap fun x => x.nar.scales.map fun b => BitVec.ofNat 8 b)
    else s2
  else s1

/-- Segments of a chained pass reduced as their last row leaves (R110, R128, R130). -/
def State.reducePass (s : State) (r : TaskRun) (p : Pass) (c : Chain) (offs : List Nat) (rows : List OutRow) (lim n : Nat) :
    State :=
  (List.range c.segs).foldl (fun s g =>
    let lo := nth 0 offs g
    let hi := nth 0 offs (g + 1)
    if lim < hi then s
    else
      let mine := (rows.drop lo).take (hi - lo)
      let out := (List.range p.n).map fun j =>
        segColumn p.fo c.redOp (Config.nanCode n (rows.length * 256 + g * 128 + j) p.fo) (mine.map fun x => nth 0 x.nar.elems j)
      s.unitWrite r (c.red + g * c.redPitch + p.redOff) (packElems p.fo out)) s

/-- The check on a tile of a pass by R430. -/
def tileChosen (seed period pos j : Nat) : Bool :=
  mix ((seed % 2 ^ 64) ^^^ (period * 2 ^ 40 % 2 ^ 64) ^^^ (pos * 2 ^ 20 % 2 ^ 64) ^^^ j) % 64 == 0

/-- The audited tiles of a pass are forwarded (R430, R431): 64 rows each. -/
def State.forwardTiles (s : State) (r : TaskRun) (d : TaskDesc) (rows : List OutRow) : State :=
  if !s.flag Reg.CHK_CTRL_audit_en || (s.auditEng? r.die).isNone then s
  else (List.range (rows.length / 64)).foldl (fun s j =>
    if tileChosen d.seed (s.fget Reg.PLN_PERIOD_CNT_count) r.pos j then
      if 64 ≤ (s.tiles r.die).length then s.skipTile r.die
      else
        let tl : Tile := {
          graph := r.graph, inst := r.inst, task := r.task, pass := r.pos, j := j, eng := r.phys,
          crc := crc32c (((rows.drop (64 * j)).take 64).flatMap fun x => words32Bytes x.cols) }
        s.setTiles r.die (s.tiles r.die ++ [tl])
    else s) s

/-- The tolerances of the checksum check as they are taken (Table 3.15). -/
def State.tolEps (s : State) (t : Nat) : Nat := min 20 (max 4 (s.fget (Reg.ENG_CHK_TOL_eps_exp t)))
def State.tolTau (s : State) (t : Nat) : Nat := min 126 (s.fget (Reg.ENG_CHK_TOL_tau_exp t))

/-- One pass that R69 and R128 accept (R66–R88, R127–R130). -/
def State.runPass (s : State) (r : TaskRun) (d : TaskDesc) (p : Pass) (ch : Option (Chain × List Nat)) (offs : List Nat)
    (o : UnitObs) : State :=
  let t := r.die
  let e := r.phys
  let (n, s1) := (s.verify r (p.reads ch)).draw
  let rows := p.compute (s1.passIn r p ch) (s1.tolEps t) (s1.tolTau t) d.seed r.pos n o.flips
  let lim := p.goodRows rows o
  let red := match ch with | some _ => o.redCopies && p.narrows | none => false
  let s2 := s1.writePass r p ch.isSome rows lim
  let s3 := match ch with
    | some (c, _) => if p.narrows && !red then s2.reducePass r p c offs rows lim n else s2
    | none => s2
  let written := (if p.mode == 2 then [] else [p.accTile]) ++ (if p.narrows && ch.isNone then [p.outTile] else [])
  let clash := written.any fun w => (p.reads ch).any fun x => overlap x w && x != w
  let s4 := if clash && !s3.isWithheld r.key then written.foldl (fun s w => s.makeHazy t e w.1 w.2) s3 else s3
  let s5 := written.foldl (fun s w => s.poisonBlocks r w.1 w.2 o.gen) s4
  let s6 := s5.rowFaults r p rows o
  let s7 := if red then s6.checkerFault r 0x20C5 (Reg.IDX_ERR t e) r.pos o.item else s6
  let s8 := s7.countOnce r 0x0087 (Reg.ENG_CNT_SAT_count t e) (rows.foldl (fun a x => a + x.nar.sat) 0)
  let s9 := s8.countOnce r 0x0086 (Reg.ENG_CNT_NONFINITE_count t e) (rows.foldl (fun a x => a + x.nar.nonf) 0)
  s9.forwardTiles r d rows

/-- A descriptor is acceptable to the engine (R69). -/
def Pass.valid (p : Pass) (d : TaskDesc) (pos : Nat) (chained : Bool) : Bool :=
  p.rows != 0 && !p.resv && pairOk p.fa p.fs && p.outOk && (p.tiles chained).all (fun x => inStore x.1 x.2)
    && p.last == (pos + 1 == d.listLen)

/-- Counts of a chained pass: indices skipped, empty segments, rows gathered (R107, R111). -/
def State.chainCounts (s : State) (r : TaskRun) (p : Pass) (c : Chain) (offs idx : List Nat) : State :=
  let skip := ((List.range p.rows).filter fun m => decide (c.rows ≤ nth 0 idx m)).length
  let s1 := s.countOnce r 0x00C3 (Reg.IDX_CNT_OOB_count r.die r.phys) skip
  let empty := ((List.range c.segs).filter fun g => nth 0 offs g == nth 0 offs (g + 1)).length
  let s2 := if p.narrows then s1.countOnce r 0x00C4 (Reg.IDX_CNT_EMPTY_count r.die r.phys) empty else s1
  s2.count (Reg.IDX_CNT_ROWS_rows r.die r.phys) (p.rows - skip)

/-- The pass a task is at (R68, R69, R127, R128). -/
def State.passEntry (s : State) (r : TaskRun) (d : TaskDesc) (p : Pass) (o : UnitObs) : State :=
  let t := r.die
  let e := r.phys
  let s1 := s.storeEcc r o
  let c := readChain (s1.stGet t e (d.listBlk * 256) 32)
  let offs := if d.chained then words32 (s1.stGet t e c.off ((c.segs + 1) * 4)) (c.segs + 1) else []
  if d.chained && !c.ok offs then s1.badEntry r o 0x20C1 (Reg.IDX_ERR t e) 0xFFFF 0
  else if !p.valid d r.pos d.chained then s1.badEntry r o 0x2083 (Reg.ENG_ERR t e) r.pos 0
  else if d.chained && !c.passOk offs p then s1.badEntry r o 0x20C1 (Reg.IDX_ERR t e) r.pos 0
  else
    let blk : Block := ⟨[], [], s1.stGet t e (p.stat + p.statElems + p.statScales) p.statMeta⟩
    if !blk.metaOk p then s1.badEntry r o 0x2083 (Reg.ENG_ERR t e) r.pos 0
    else if d.chained then
      let idx := words32 (s1.stGet t e c.idx (p.rows * 4)) p.rows
      match (if c.oob then none else idx.findIdx? fun v => decide (c.rows ≤ v)) with
      | some i => s1.badEntry r o 0x20C2 (Reg.IDX_ERR t e) r.pos i
      | none => ((s1.runPass r d p (some (c, idx)) offs o).chainCounts r p c offs idx).nextEntry r.key
    else (s1.runPass r d p none [] o).nextEntry r.key

/-- The pass an ARRAY task on engine `e` of die `t` is at, for the command of accumulation mode `mode`. -/
def State.runArray (s : State) (t e mode : Nat) (o : UnitObs) : State :=
  match s.unitTask t e 1 with
  | none => s
  | some (r, d) =>
    if d.listLen ≤ r.pos then s
    else
      let p := readPass (s.entryBytes r d)
      if p.mode == mode then s.passEntry r d p o else s

/-- PASS_START (R68, R74): acc_mode 0. -/
def execPassStart (t e : Nat) (o : UnitObs) (s : State) : Host.Outcome State Fault Refusal := .next (s.runArray t e 0 o)
/-- PASS_ADD (R77): acc_mode 1. -/
def execPassAdd (t e : Nat) (o : UnitObs) (s : State) : Host.Outcome State Fault Refusal := .next (s.runArray t e 1 o)
/-- PASS_SINGLE (R78): acc_mode 2. -/
def execPassSingle (t e : Nat) (o : UnitObs) (s : State) : Host.Outcome State Fault Refusal := .next (s.runArray t e 2 o)
/-- PASS_ADD_NARROW (R77, R78): acc_mode 3. -/
def execPassAddNarrow (t e : Nat) (o : UnitObs) (s : State) : Host.Outcome State Fault Refusal := .next (s.runArray t e 3 o)

end Sys2Proof.Machine
end

