-- ==== Sys2Proof/Machine/Move.lean ====
section
/-! DEFINITION. The MOVE port (R154, R155, R421, R423): fills of a local store and drains from it. -/

namespace Sys2Proof.Machine

/-- A MOVE entry (Table 5.7). -/
structure MoveEntry where
  addr : Nat
  loc : Nat
  drain : Bool
  blocks : Nat
  resv : Bool
deriving DecidableEq, Repr

def readMove (b : List Byte) : MoveEntry :=
  let w0 := u b 0 8
  let w1 := u b 8 8
  { addr := bits w0 47 0, loc := bits w1 14 0, drain := bit w1 15, blocks := bits w1 31 16, resv := bits w0 63 48 != 0 || bits w1 63 32 != 0 }

/-- Is an entry valid (R155)? -/
def MoveEntry.ok (m : MoveEntry) : Bool :=
  !m.resv && decide (1 ≤ m.blocks ∧ m.blocks ≤ 32768) && m.addr % 256 == 0 && inStore (m.loc * 256) (m.blocks * 256)

/-- The MOVE task that runs on engine `e` of die `t`, with the entry it is at, read from the die's shared store. -/
def State.moveAt (s : State) (t e : Nat) : Option (TaskRun × MoveEntry) :=
  match s.moveRun? t e with
  | none => none
  | some r => match s.desc? r.graph r.task with
    | none => none
    | some d =>
      if d.listLen ≤ r.pos then none
      else some (r, readMove (s.peek t (0x008000000000 + t * 0x10000000 + d.listBlk * 256 + r.pos * 16) 16))

/-- Block `i` of a fill: read through the port, verified, stored; one that fails its check value is kept poisoned (R421). -/
def State.fillBlock (s : State) (r : TaskRun) (m : MoveEntry) (ecc i : Nat) : State :=
  let off := (m.loc + i) * 256
  match s.portRead r.key r.phys (m.addr + 256 * i) ecc with
  | (s1, none) => s1
  | (s1, some (bs, chk)) =>
    if chk != 0 then
      let s2 := s1.chkFail r 0x25C1
      (s2.stPut r.die r.phys off bs).setStErr r.die r.phys (m.loc + i) 0xFFFFFFFF
    else if s1.isWithheld r.key then s1
    else (s1.stPut r.die r.phys off bs).setStErr r.die r.phys (m.loc + i) 0

/-- Block `i` of a drain: sent with the check value held beside it; poisoned when the local store cannot correct it (R423). -/
def State.drainBlock (s : State) (r : TaskRun) (m : MoveEntry) (bad : Bool) (ecc i : Nat) : State :=
  let bs := s.stGet r.die r.phys ((m.loc + i) * 256) 256
  let chk := if bad then 0xFFFFFFFF else s.stErr r.die r.phys (m.loc + i)
  (s.portWrite r.key r.phys (m.addr + 256 * i) bs chk ecc bad).1

/-- The entry ends the task (R155). -/
def State.badMove (s : State) (r : TaskRun) (o : UnitObs) : State := ((s.raiseTask 0x2186 r).withhold r.key).endHere r.key o.beats 0

/-- MOVE_FILL (R154, R421): the entry that the MOVE task of engine `e` is at, with dir 0. `o.mem`: what the memory checkers find, block by block. -/
def execMoveFill (t e : Nat) (o : UnitObs) (s : State) : Host.Outcome State Fault Refusal :=
  match s.moveAt t e with
  | none => .next s
  | some (r, m) =>
    if m.drain then .next s
    else if !m.ok then .next (s.badMove r o)
    else
      let s1 := s.storeEcc r o
      .next (((List.range m.blocks).foldl (fun (s : State) (i : Nat) => s.fillBlock r m (nth 0 o.mem i) i) s1).nextEntry r.key)

/-- MOVE_DRAIN (R154, R423): the same with dir 1. `o.item`: the block at which the local store finds an uncorrectable error, where it does. -/
def execMoveDrain (t e : Nat) (o : UnitObs) (s : State) : Host.Outcome State Fault Refusal :=
  match s.moveAt t e with
  | none => .next s
  | some (r, m) =>
    if !m.drain then .next s
    else if !m.ok then .next (s.badMove r o)
    else
      let pre (s : State) : State := (List.range (if o.eccBad then min o.item m.blocks else m.blocks)).foldl
        (fun (s : State) (i : Nat) => s.drainBlock r m false (nth 0 o.mem i) i) s
      if !o.eccBad then .next (((pre s).storeEcc r o).nextEntry r.key)
      else
        let s1 := (pre s).storeEcc r o
        let rest := (List.range m.blocks).filter fun i => o.item ≤ i
        .next ((rest.foldl (fun (s : State) (i : Nat) => s.drainBlock r m (i == o.item) (nth 0 o.mem i) i) s1).nextEntry r.key)

end Sys2Proof.Machine
end

