-- ==== Sys2Proof/Machine/Barrier.lean ====
section
/-! DEFINITION. Barriers of job steps (R516, R517), and with them the release and the late start of tasks: a barrier task that starts is an arrival. -/

namespace Sys2Proof.Machine

/-! ### Walks (R246, R247) -/

/-- Byte ranges of a walk's batch records in a die's shared store. -/
def KvRec.batches (r : KvRec) : List (Nat × Nat) := r.buckets.map fun (b : KvBucket) => (b.batchBlk * 256, 16 + 16 * b.cap)

/-- Byte ranges of a walk's fill, drain and housekeeping lists in the shared store of a die. -/
def KvRec.lists (r : KvRec) (d : KvDie) : List (Nat × Nat) :=
  (r.buckets.flatMap fun (b : KvBucket) => [(b.fillBlk * 256, 16 * b.cap * ceilDiv (pagesOf b.bound) r.spread),
    (b.drainBlk * 256, 16 * b.cap * (pagesOf r.stepTokens + 1))]) ++ [(d.hkBlk * 256, 32 * r.hkPages)]

/-- Does a task read a list or a batch record of a walk: a MOVE task by its own list, or by filling from a batch record; an INDEX task by a source in
the shared store? -/
def State.readsWalk (s : State) (r : TaskRun) (d : TaskDesc) (k : KvRec) (y : KvDie) : Bool :=
  let win := 0x008000000000 + y.die * 0x10000000
  let batch (a n : Nat) : Bool := k.batches.any fun x => overlap (win + x.1, x.2) (a, n)
  let entries := List.range d.listLen
  if d.kind == 7 then
    (k.lists y).any (overlap (d.listBlk * 256, 16 * d.listLen)) || entries.any fun i =>
      let m := readMove (s.peek y.die (win + d.listBlk * 256 + 16 * i) 16)
      !m.drain && batch m.addr (m.blocks * 256)
  else if d.kind == 3 then entries.any fun i =>
    let m := readIdx (s.stGet y.die (s.physOfRun r) (d.listBlk * 256 + 32 * i) 32)
    m.srcSs && batch m.src m.srcLen
  else false

/-- A task that reads a list or a batch record of its step's walk waits for the walk's end (R246, R247). -/
def State.walkHolds (s : State) (r : TaskRun) : Bool :=
  s.kv.steps.any fun x => x.graph == r.graph && x.inst == r.inst && !x.walked &&
    (match s.kvRec x.part, s.desc? r.graph r.task with
      | some k, some d => k.dies.any fun (y : KvDie) => y.die == r.die && s.readsWalk r d k y
      | _, _ => false)

/-! ### Barriers -/

/-- Is the part the master of its group? -/
def State.isMaster (s : State) : Bool := s.fget Reg.JSY_GROUP_master == s.fget Reg.JSY_ROLE_part_index

/-- gPTP time as messages carry it (R515). -/
def State.gptp64 (s : State) : Nat := ((s.rd Reg.ING_DT_NOW).toNat + (s.rd Reg.ING_DT_OFFSET).toNat) % 2 ^ 64

/-- A joined-system message of the part (Table 18.6). -/
def State.jsyMsg (s : State) (typ dst mac : Nat) (payload : List Byte) : OhpMsg :=
  { port := s.fget Reg.JSY_CKPT_port, mac := mac, vlan := s.fget Reg.OHP_MAC_vlan, typ := typ, dstPart := dst,
    role := s.fget Reg.OHP_ROLE_PART_epoch, payload := payload }

/-- Members of the group: the bits of JSY_MEMBERS, less the parts that have withdrawn (R511, R517). -/
def State.member (s : State) (p : Nat) : Bool :=
  bit (u (s.peek 8 (s.fget Reg.JSY_MEMBERS_base + p / 8) 1) 0 1) (p % 8) && !s.jsy.withdrawn.contains p
def State.members (s : State) : List Nat :=
  let bm := leNat (s.peek 8 (s.fget Reg.JSY_MEMBERS_base) 2048)
  (setBits 16384 bm).filter fun p => !s.jsy.withdrawn.contains p

/-- The part's own barrier tasks of a barrier end (R516). -/
def State.endBarrier (s : State) (step g i : Nat) : State :=
  s.allRuns.foldl (fun (s : State) (r : TaskRun) =>
    if r.graph == g && r.task == i && r.st == .running && s.isBarrier r && (s.inst g r.inst).step == step then s.endRun r 0 0 else s) s

/-- A barrier whose every member has arrived is released (R517): RELEASE goes out and the master's own task ends. -/
def State.releaseBarrier (s : State) (b : Barrier) : State :=
  if !s.members.all b.here.contains then s
  else
    let s1 := { s with jsy := { s.jsy with
      barriers := s.jsy.barriers.filter fun (x : Barrier) => !(x.step == b.step && x.graph == b.graph && x.task == b.task)
      closed := s.jsy.closed ++ [(b.step, b.graph, b.task, false)] } }
    let body := leBytes 8 b.step ++ leBytes 2 b.task ++ leBytes 1 b.graph ++ leBytes 1 0 ++ leBytes 2 b.here.length ++ leBytes 2 0
      ++ leBytes 8 b.latest
    (s1.sendOhp (s1.jsyMsg 0x21 0xFFFF (2 ^ 48 - 1) body)).endBarrier b.step b.graph b.task

/-- The master records an arrival of part `p` at gPTP time `at_` (R517). -/
def State.arrival (s : State) (p step g i at_ : Nat) : State :=
  let ignored := s.count Reg.JSY_CNT_IGNORED_count 1
  if !s.member p || s.jsy.closed.contains (step, g, i, true) then ignored
  else if s.jsy.closed.contains (step, g, i, false) then s
  else
    let hit (x : Barrier) : Bool := x.step == step && x.graph == g && x.task == i
    match s.jsy.barriers.find? hit with
    | some b =>
      let b1 := { b with here := withOnce p b.here, latest := if b.here.contains p then b.latest else max b.latest at_ }
      let put (x : Barrier) : Barrier := if hit x then b1 else x
      ({ s with jsy := { s.jsy with barriers := s.jsy.barriers.map put } }).releaseBarrier b1
    | none =>
      if 64 ≤ s.jsy.barriers.length then ignored
      else
        let b : Barrier := { step := step, graph := g, task := i, here := [p], first := s.now, latest := at_,
                             allowed := s.barrierNs }
        ({ s with jsy := { s.jsy with barriers := s.jsy.barriers ++ [b] } }).releaseBarrier b

/-- The part arrives at a barrier (R516): a message to the master, which records its own arrival without one. -/
def State.arriveOwn (s : State) (r : TaskRun) : State :=
  let step := (s.inst r.graph r.inst).step
  if s.isMaster then s.arrival (s.fget Reg.JSY_ROLE_part_index) step r.graph r.task s.gptp64
  else
    let body := leBytes 8 step ++ leBytes 2 r.task ++ leBytes 1 r.graph ++ leBytes 1 0 ++ leBytes 8 s.gptp64
    s.sendOhp (s.jsyMsg 0x20 (s.fget Reg.JSY_GROUP_master) (s.fget Reg.JSY_GROUP_master_mac) body)

/-- A task starts; a barrier task's start is the part's arrival. -/
def State.startTask (s : State) (r : TaskRun) : State :=
  let s1 := s.startRun r
  if s1.isBarrier r then s1.arriveOwn r else s1

/-- TASK_RELEASE (R41, R181, R436, R453, R495): a schedule entry reaches its release time. The watch is armed; a task of a
quarantined or retired engine, or of a warp unit that failed injection, is aborted; otherwise the task starts when its
dependences have ended, its executor is free and its engine is ON, and is held (R181) when not. -/
def execTaskRelease (g j i : Nat) (s : State) : Host.Outcome State Fault Refusal :=
  match s.run? (taskKey g j i) with
  | none => .next s
  | some r =>
    if r.st != .waiting || r.due || !s.releases || !(s.inst g j).released || decide (s.dieNow r.die < s.baseOf r + r.release) then
      .next s
    else
      let (s1, r1) := s.armWatch { r with due := true, relAt := s.baseOf r + r.release }
      let s2 := s1.setRun r1
      if !s2.engUsable r1 || (r1.exec == 32 && bit s2.saf.warpOff r1.die) then .next (s2.abort r1)
      else if !s2.engReady r1 && s2.dom r1.die (s2.physOfRun r1) != 2 then
        let k := engKey r1.die (s2.physOfRun r1)
        let s3 := if s2.pow.lateSeen.contains k then s2
          else ({ s2 with pow := { s2.pow with lateSeen := k :: s2.pow.lateSeen } }.raise 0x1702 r1.die
            (s2.physOfRun r1) (s2.physOfRun r1)).count (Reg.PWR_CNT_LATE_count r1.die) 1
        .next s3
      else if (s2.runDeps r1).any (fun k => (s2.depNow k).1) || !s2.execFree r1 || !s2.engReady r1
          || s2.walkHolds r1 then .next s2
      else .next (s2.startTask r1)

/-- TASK_LATE_START (R181): a task held at its release starts once its dependences have ended and its executor is free; it
is counted late, 0x01C4 at most once per graph instance. -/
def execTaskLateStart (g j i : Nat) (s : State) : Host.Outcome State Fault Refusal :=
  match s.run? (taskKey g j i) with
  | none => .next s
  | some r =>
    if r.st != .waiting || !r.due || !s.releases then .next s
    else if !s.engUsable r then .next (s.abort r)
    else if (s.runDeps r).any (fun k => (s.depNow k).1) || !s.execFree r || !s.engReady r || s.walkHolds r then .next s
    else
      let s1 := (s.count (Reg.ADM_CNT_LATE_count r.die) 1).raiseOncePerInst 0x01C4 r
      .next (s1.startTask r)

/-- BARRIER_TIMEOUT (R187): a barrier task has not been released within barrier_us of its release. -/
def execBarrierTimeout (g j i : Nat) (s : State) : Host.Outcome State Fault Refusal :=
  match s.run? (taskKey g j i) with
  | none => .next s
  | some r =>
    if r.live && r.due && s.isBarrier r && decide (r.relAt + s.barrierNs ≤ s.now) then
      .next (s.stepAbort r)
    else .next s

/-- BARRIER_DROP (R517): a barrier still open barrier_us after its first arrival is dropped. -/
def execBarrierDrop (step g i : Nat) (s : State) : Host.Outcome State Fault Refusal :=
  let hit (x : Barrier) : Bool := x.step == step && x.graph == g && x.task == i && decide (x.first + x.allowed ≤ s.now)
  if s.jsy.barriers.any hit then
    .next ({ s with jsy := { s.jsy with
      barriers := s.jsy.barriers.filter fun (x : Barrier) => !hit x
      closed := s.jsy.closed ++ [(step, g, i, true)] } }.raise 0x0785 oHub 0x1C 0)
  else .next s

end Sys2Proof.Machine
end

