-- ==== Sys2Proof/Machine/Health.lean ====
section
/-! DEFINITION. Health (R503–R509): the score and its advisories, the proactive swap, the canary, the repair field. -/

namespace Sys2Proof.Machine

/-- The worse of two margins with where they come from: the lower, or the higher for component 4; the first of equals. -/
def worse (c : Nat) (a b : Nat × Nat) : Nat × Nat :=
  if c == 4 then (if a.1 < b.1 then b else a) else (if b.1 < a.1 then b else a)

/-- The worst of a list of margins. -/
def worstOf (c : Nat) : List (Nat × Nat) → Option (Nat × Nat)
  | [] => none
  | x :: xs => some (xs.foldl (fun a b => worse c a b) x)

/-- The margins of a component that the registers show now, each with its domain t × 32 + d (Table 18.2). Dies that do not run, links that
carry nothing, and margins never measured take no part. -/
def State.margins (s : State) (c : Nat) : List (Nat × Nat) :=
  let up := s.dies.filter fun t => s.dieUp t
  let doms := up.flatMap fun t => (s.onDoms t).map fun d => (t, d)
  match c with
  | 0 => (doms.filter fun x => s.fget (Reg.PACE_DOM_min_pace x.1 x.2) != 0).map fun x =>
      (s.fget (Reg.PACE_DOM_min_pace x.1 x.2), engKey x.1 x.2)
  | 1 => (doms.filter fun x => s.fget (Reg.PACE_DOM_min_pace x.1 x.2) != 0).map fun x =>
      (s.fget (Reg.PACE_DOM_slack x.1 x.2), engKey x.1 x.2)
  | 2 =>
    let ms := up ++ [8] ++ up.flatMap fun t => [16 + 4 * t, 17 + 4 * t, 18 + 4 * t]
    (ms.filter fun m => s.hasMod m && s.modState m == 2 && (s.lmod m).sweepAt != 0).map fun m =>
      (s.fget (Reg.LNK_MOD_eye_min (modReg m).1 (modReg m).2), 0)
  | 3 =>
    let cs := (up ++ [8]).flatMap fun t => (List.range 8).map fun c => (t, c)
    let seen := cs.filter fun x => s.chanUp x.1 x.2 && (smGet none s.mem.eyeAt (chanKey x.1 x.2)).isSome
    seen.map fun x => (min (s.fget (Reg.MEM_CH_EYE_rd_margin (memWin x.1) x.2)) (s.fget (Reg.MEM_CH_EYE_wr_margin (memWin x.1) x.2)), 0)
  | _ => (up.filter fun t => (smGet none s.hlt.canaryAt t).isSome).map fun t => (s.fget (Reg.HLT_VMIN_drift_mv t), t * 32)

/-- A component's value from its worst margin (Table 18.2); 100 where nothing has been measured. -/
def State.compValue (s : State) (c : Nat) (w : Option (Nat × Nat)) : Nat :=
  match w with
  | none => 100
  | some (v, _) =>
    match c with
    | 0 => min 100 ((v - 1600) * 400 / 1600)
    | 1 => min 100 (v * 100 / 8)
    | 2 => min 100 (v * 100 / max 1 (2 * s.fget Reg.LNK_CTRL_eye_warn))
    | 3 => min 100 (v * 100 / max 1 (s.fget Reg.HLT_CTRL_lp_ref_ps))
    | _ => 100 - v * 100 / max 1 (s.fget Reg.HLT_CTRL_vmin_lim_mv)

/-- The running bin takes the margins of now; full minutes open new bins, 60 at most (R505). A bin lists, per component, at most one margin;
a component without one holds none. -/
def State.takeBins (s : State) : State :=
  let n := (s.now - s.hlt.binFrom) / (60 * 10 ^ 9)
  let old := if s.hlt.bins.isEmpty then [[]] else s.hlt.bins
  let bins := (List.replicate (min n 60) [] ++ old).take 60
  let cur := nth [] bins 0
  let now_ := (List.range 5).map fun c =>
    (worstOf c ((s.margins c).map (fun x => (x.1 + 1, x.2)) ++ (match cur[c]? with | some x => if x.1 == 0 then [] else [x] | none => []))).getD
      (0, 0)
  { s with hlt := { s.hlt with bins := setNth bins 0 now_, binFrom := s.hlt.binFrom + n * 60 * 10 ^ 9 } }

/-- The worst margin of a component over the window. -/
def State.windowWorst (s : State) (c : Nat) : Option (Nat × Nat) :=
  (worstOf c (s.hlt.bins.filterMap fun b => match b[c]? with | some x => if x.1 == 0 then none else some x | none => none)).map fun x =>
    (x.1 - 1, x.2)

/-- A proactive swap of the engine whose domain holds the worst value of a component (R508). -/
def State.proactive (s : State) (c : Nat) : Option (Nat × Nat × Nat) :=
  match s.windowWorst c with
  | none => none
  | some (v, k) =>
    let t := k / 32
    let e := k % 32
    let low := decide (s.compValue c (some (v, k)) < s.fget Reg.HLT_CTRL_adv_score)
    let lately := smGet 0 s.hlt.swapAt t != 0 && decide (s.now < smGet 0 s.hlt.swapAt t + 3600 * 10 ^ 9)
    let pending := s.hlt.chkStaged.any (fun x => x / 16 == t) || smGet 0 s.hlt.swapPend t != 0
    if !low || 18 ≤ e || lately || pending || !s.dieUp t then none
    else match s.logicalOf t e, s.bestSpare t with
      | some i, some e' => some (t, i, e')
      | _, _ => none

/-- The proactive swap that a component calls for is staged (R508). -/
def State.stageSwap (s : State) (c : Nat) : State :=
  match s.proactive c with
  | none => s
  | some (t, i, e') =>
    let s1 := s.stageMap t i e'
    { s1 with hlt := { s1.hlt with swapPend := smPut 0 s1.hlt.swapPend t (i + 1) } }

/-- HEALTH_UPDATE (R505, R507–R509): one second after the last one. -/
def execHealthUpdate (s : State) : Host.Outcome State Fault Refusal :=
  if s.pow.phase != .running || decide (s.now < s.hlt.scoreAt + 10 ^ 9) then .next s
  else
    let s1 := { s with hlt := { s.hlt with scoreAt := s.now } }.takeBins
    let vals := (List.range 5).map fun c => s1.compValue c (s1.windowWorst c)
    let score := vals.foldl min 100
    let worst := vals.idxOf score
    let s2 := (s1.fset Reg.HLT_SCORE_score score).fset Reg.HLT_SCORE_worst worst
    let s3 := (List.range 5).foldl (fun s c => s.fset (Reg.HLT_COMP_comp c) (nth 0 vals c)) s2
    let s4 := (List.range 5).foldl (fun (s : State) (c : Nat) =>
      if nth 0 vals c < s.fget Reg.HLT_CTRL_adv_score then s.advise c else s) s3
    let live := s4.hlt.advSeen.any fun c => decide (s4.now < smGet 0 s4.hlt.advAt c + 3600 * 10 ^ 9)
    let s5 := s4.fset Reg.HLT_SCORE_advisory (b2n live)
    .next ((s5.stageSwap 0).stageSwap 1)

/-- The proactive swaps pending on the dies whose map takes effect at this boundary are made (R508): `before` is the state whose map was in
force. -/
def State.swapsDone (s before : State) (t : Nat) : State :=
  let p := smGet 0 s.hlt.swapPend t
  if p == 0 then s
  else
    let e := before.physOf t (p - 1)
    let s1 := { s with hlt := { s.hlt with swapPend := smPut 0 s.hlt.swapPend t 0, swapAt := smPut 0 s.hlt.swapAt t s.now } }
    ((s1.raise 0x1743 t e 0).count Reg.HLT_CNT_SWAP_count 1).advise 6

/-- CANARY_MEASURE (R506): one hour after the last one the canary of die `t` held both patterns down to `held` mV. -/
def execCanaryMeasure (t held : Nat) (s : State) : Host.Outcome State Fault Refusal :=
  let due := match smGet none s.hlt.canaryAt t with | some x => decide (x + 3600 * 10 ^ 9 ≤ s.now) | none => true
  if s.pow.phase != .running || !s.dieUp t || !due then .next s
  else
    let s1 := { s with hlt := { s.hlt with canaryAt := smPut none s.hlt.canaryAt t (some s.now) } }
    .next (s1.fset (Reg.HLT_VMIN_drift_mv t) (min 255 (held - nth 0 s.part.vmin0 t)))

/-- REPAIR_BURN (R503): the oldest record not yet burned is programmed into the repair field. -/
def execRepairBurn (s : State) : Host.Outcome State Fault Refusal :=
  match s.chk.burnPend with
  | [] => .next s
  | (k, col) :: rest =>
    if !s.flag Reg.HLT_CTRL_burn_en then .next s
    else
      let s1 := { s with chk := { s.chk with burnPend := rest } }
      if 64 ≤ s.otp.repair.length then .next s1
      else
        let e := k / 32 + k % 32 * 2 ^ 3 + (if col == 0xFF then 0x7F else col) * 2 ^ 8 + 2 ^ 15
        let s2 := { s1 with otp := { s1.otp with repair := s1.otp.repair ++ [e] } }
        let s3 := s2.fset Reg.HLT_SPARES_fuses_used s2.otp.repair.length
        .next (if s3.otp.repair.length == 64 then s3.raise 0x0744 oHub uNone 0 else s3)

end Sys2Proof.Machine
end

