-- ==== Sys2Proof/Machine/Eth.lean ====
section
/-! DEFINITION. The Ethernet ports (chapter 13): received frames through the steps of Table 13.2, link state, gate control lists. -/

namespace Sys2Proof.Machine

/-- Largest frame of a port (Table 13.14). -/
def State.mtu (s : State) (port : Nat) : Nat :=
  let m := s.fget (Reg.ETH_PORT_CTRL_mtu port)
  if 1518 ≤ m ∧ m ≤ 9216 then m else 9216

/-- A port carries frames: it exists, is enabled, and no failed injection made it unusable. -/
def State.portOn (s : State) (port : Nat) : Bool :=
  decide (port < 6) && s.flag (Reg.ETH_PORT_CTRL_en port) && !bit s.saf.ethOff port && s.pow.phase == .running

/-- Is an event limited to once per second due (R548)? -/
def onceSec (last : Option Time) (now : Time) : Bool := match last with | some t => decide (t + 10 ^ 9 ≤ now) | none => true

/-- ETH raises an event limited to once per second and port: 0x0482 and 0x0484. -/
def State.macsecEvent (s : State) (port : Nat) : State :=
  if onceSec (smGet none s.eth.macsecAt port) s.now then
    { s with eth := { s.eth with macsecAt := smPut none s.eth.macsecAt port (some s.now) } }.raise 0x0482 oHub 0x14 0
  else s
def State.fullEvent (s : State) (port : Nat) : State :=
  if onceSec (smGet none s.eth.fullAt port) s.now then
    { s with eth := { s.eth with fullAt := smPut none s.eth.fullAt port (some s.now) } }.raise 0x0484 oHub 0x14 0
  else s

/-- A frame's addresses, VLAN, EtherType and payload. -/
structure EthFrame where
  dst : Nat
  src : Nat
  vlan : Nat
  typ : Nat
  payload : List Byte
  /-- bytes of the frame without its FCS -/
  size : Nat

/-- A frame read; an untagged one takes its port's default VLAN ID, and so does one tagged with priority only (R367 step 3). -/
def readFrame (port : Nat) (b : List Byte) : EthFrame :=
  let dst := beNat (sliceB b 0 6)
  let src := beNat (sliceB b 6 6)
  let t := beNat (sliceB b 12 2)
  if t == 0x8100 then
    let vid := beNat (sliceB b 14 2) % 4096
    { dst := dst, src := src, vlan := if vid == 0 then Config.defaultVid port else vid, typ := beNat (sliceB b 16 2), payload := b.drop 18,
      size := b.length }
  else { dst := dst, src := src, vlan := Config.defaultVid port, typ := t, payload := b.drop 14, size := b.length }

/-- A UDP datagram: IP version, addresses, ports, data, whether it is a fragment, and whether its checksum is zero or right. -/
structure Udp where
  v6 : Bool
  src : Nat
  dst : Nat
  sport : Nat
  dport : Nat
  data : List Byte
  frag : Bool
  sumOk : Bool

/-- Ones' complement sum of 16-bit words. -/
def onesSum : Nat → List Byte → Nat
  | acc, [] => acc
  | acc, [b] => let x := acc + b.toNat * 256; x % 65536 + x / 65536
  | acc, b :: c :: bs => let x := acc + b.toNat * 256 + c.toNat; onesSum (x % 65536 + x / 65536) bs

/-- The UDP datagram that a frame carries over IPv4 or IPv6 (R268, R371). -/
def EthFrame.udp (f : EthFrame) : Option Udp :=
  let p := f.payload
  let v := u p 0 1 / 16
  let hl := if f.typ == 0x0800 then u p 0 1 % 16 * 4 else 40
  let proto := if f.typ == 0x0800 then u p 9 1 else u p 6 1
  if !((f.typ == 0x0800 && v == 4 && 20 ≤ hl) || (f.typ == 0x86DD && v == 6)) || proto != 17 || p.length < hl + 8 then none
  else
    let four := f.typ == 0x0800
    let src := if four then sliceB p 12 4 else sliceB p 8 16
    let dst := if four then sliceB p 16 4 else sliceB p 24 16
    let len := beNat (sliceB p (hl + 4) 2)
    let frag := four && beNat (sliceB p 6 2) % 16384 != 0
    if len < 8 || p.length < hl + len then none
    else
      let dgram := sliceB p hl len
      let pseudo := src ++ dst ++ beBytes 2 17 ++ beBytes 2 len
      let ok := beNat (sliceB p (hl + 6) 2) == 0 || onesSum 0 (pseudo ++ dgram) == 0xFFFF
      some { v6 := !four, src := beNat src, dst := beNat dst, sport := beNat (sliceB p hl 2), dport := beNat (sliceB p (hl + 2) 2),
             data := dgram.drop 8, frag := frag, sumOk := ok }

/-! ### Ingress -/

/-- The sensor stream of a frame on a port, with its payload (R268). -/
def State.ethSensor (s : State) (port : Nat) (f : EthFrame) : Option (Nat × List Byte) :=
  let hit (src : List Nat) : Option Nat :=
    (List.range 64).find? fun n => s.flag (Reg.ING_SENSOR00_en n) && s.snSource n == src && s.snState n != 0
  let byType := (hit [1, port, f.vlan, 0, f.typ]).map fun n => (n, f.payload)
  match f.udp with
  | some d => match hit [1, port, f.vlan, d.dport, 0] with
    | some n => if d.dport == 0 then byType else some (n, d.data)
    | none => byType
  | none => byType

/-- A packet of an Ethernet sensor begins a frame: its start bit is set (R268). -/
def State.isStart (s : State) (n : Nat) (payload : List Byte) : Bool :=
  let off := s.fget (Reg.ING_SENSOR18_sof_off n)
  decide (off < payload.length) && bit (u payload off 1) (s.fget (Reg.ING_SENSOR18_sof_bit n))

/-- A packet of an Ethernet sensor with an FCS error (R269): the frame it belongs to, which it may begin, is corrupt. -/
def State.brokenPacket (s : State) (n stamp : Nat) (payload : List Byte) : State :=
  if s.isStart n payload then (s.frameEnd n).frameStart n stamp false payload else s.corruptFrame n

/-- The ingress stamp of a frame at the MAC–PHY boundary (R271, Table 9.2). -/
def State.ethStamp (s : State) (stamp : Nat) : Time := min stamp s.now - s.fget Reg.ING_PTP_LAT_rx_lat

/-- A packet of an Ethernet sensor (R268–R271): one with its start bit set ends the frame before it and begins one; payload goes to the frame's
buffer with check values made at entry (R270, R420). Payload beyond the buffer is not stored. -/
def State.sensorPacket (s : State) (n stamp : Nat) (gen : Bool) (payload : List Byte) : State :=
  let s1 := if s.isStart n payload then (s.frameEnd n).frameStart n stamp true payload else s
  match (s1.sensor n).cur with
  | none => s1
  | some f =>
    if f.corrupt || f.dropped then s1
    else
      let at_ := s1.bufAddr n f.buf + f.data.length
      let room := s1.fget (Reg.PRE_SENSOR0_buf_stride n) - f.data.length
      let bs := payload.take room
      let s2 := s1.poke 8 0x14 at_ bs
      let s3 := if gen then
          let s4 := s2.raise 0x25C4 oHub uNone 0
          ((List.range (ceilDiv (at_ % 256 + bs.length) 256)).map fun i => at_ / 256 * 256 + i * 256).foldl (fun (s : State) (a : Nat) =>
            match s.locate (s.target 8 a) with
            | some l => s.locSetChk l 0xFFFFFFFF
            | none => s) s4
        else s2
      s3.setSensor n { s3.sensor n with cur := some { f with data := f.data ++ payload, poisoned := f.poisoned || gen } }

/-- OHP header and payload of a frame that is an OHP frame (R371), with the way back over UDP. -/
def State.ohpMatch (s : State) (f : EthFrame) : Option (List Byte × Nat × Nat × Bool) :=
  if !s.flag Reg.OHP_CTRL_en || s.saf.ohpOff || !s.pow.committed || !(f.dst == s.fget Reg.OHP_MAC_mac || f.dst == 2 ^ 48 - 1) then none
  else if s.flag Reg.OHP_CTRL_udp then
    match f.udp with
    | some d =>
      if !d.v6 && !d.frag && d.dst == s.fget Reg.OHP_UDP_ipv4 && d.dport == s.fget Reg.OHP_UDP_port && d.sumOk then
        some (d.data, d.src, d.sport, true) else none
    | none => none
  else if f.typ == s.fget Reg.OHP_CTRL_ethertype then some (f.payload, 0, 0, decide (60 < f.size)) else none

/-- 0x04C1, at most once per second, and its count (R376). -/
def State.ohpBadMsg (s : State) : State :=
  let s1 := s.count Reg.OHP_CNT_BAD_count 1
  if onceSec s1.ohp.badAt s1.now then { s1 with ohp := { s1.ohp with badAt := some s1.now } }.raise 0x04C1 oHub 0x14 0 else s1

/-- A message of the part leaves with its sender, and the time of its transmission (Table 13.4). -/
def State.sendReply (s : State) (m : OhpMsg) : State :=
  s.emit m.port (.ohp { m with srcPart := s.fget Reg.JSY_ROLE_part_index, txTime := s.now, pcp := s.fget Reg.OHP_MAC_pcp })

/-- A response to a message (R372): back the way it came, its seq echoed. -/
def OhpIn.reply (q : OhpIn) (status role : Nat) (payload : List Byte) : OhpMsg :=
  { port := q.port, mac := q.mac, vlan := q.vlan, ip := q.ip, udp := q.udp, typ := q.typ, flags := 1, seq := q.seq, dstPart := q.srcPart,
    unit := q.unit, status := status, role := role, payload := payload }

/-- The role epoch of a unit, none where it is absent (R374). -/
def State.unitEpoch (s : State) (x : Nat) : Option Nat :=
  if x == 0 then some (s.fget Reg.OHP_ROLE_PART_epoch)
  else if 0x100 ≤ x ∧ x < 0x140 then
    if (s.part? (x - 0x100)).isSome then some (s.fget (Reg.OHP_ROLE_P_epoch (x - 0x100))) else none
  else if 0x200 ≤ x ∧ x < 0x210 then some (s.fget (Reg.OHP_ROLE_Q_epoch (x - 0x200)))
  else if 0x300 ≤ x ∧ x < 0x310 then some (s.fget (Reg.OHP_ROLE_R_epoch (x - 0x300)))
  else none

/-- The role epoch that a message of the part carries for a unit; 0 for an absent one. -/
def State.roleOf (s : State) (x : Nat) : Nat := (s.unitEpoch x).getD 0

/-- Is the type one that hosts and parts send (Table 13.5, Table 18.6)? -/
def ohpType (t : Nat) : Bool := decide (1 ≤ t ∧ t ≤ 0x0A) || decide (0x20 ≤ t ∧ t ≤ 0x27)

/-- An OHP frame at the endpoint (R372, R376): messages of other parts are dropped, malformed ones answered with status 1, others queued. `whole`:
the frame holds nothing but its message (a short frame is padded). -/
def State.ohpIn (s : State) (port : Nat) (f : EthFrame) (b : List Byte) (ip udp : Nat) (whole : Bool) : State :=
  let flags := u b 2 2
  let len := u b 6 2
  let dp := u b 8 2
  let typ := u b 1 1
  let q : OhpIn := { port := port, mac := f.src, vlan := f.vlan, ip := ip, udp := udp, typ := typ, flags := flags, seq := u b 4 2, dstPart := dp,
                     srcPart := u b 0x0A 2, unit := u b 0x0C 2, status := u b 0x0E 2, role := u b 0x10 4, txTime := u b 0x18 8,
                     payload := sliceB b 32 len }
  let resp := flags == 1
  let fits := if whole then b.length == 32 + len else decide (32 + len ≤ b.length)
  let ok := u b 0 1 == 1 && flags ≤ 1 && u b 0x14 4 == 0 && fits && (if resp then true else ohpType typ && u b 0x0E 2 == 0)
  if dp != 0xFFFF && dp != s.fget Reg.JSY_ROLE_part_index then s
  else if !ok then s.ohpBadMsg.sendReply (q.reply 1 (s.roleOf q.unit) [])
  else if (if resp then typ != 0x24 && typ != 0x26 else typ == 0x22) then s
  else if 256 ≤ s.ohp.queue.length then
    let s1 := s.count Reg.OHP_CNT_DROP_count 1
    if onceSec s1.ohp.fullAt s1.now then { s1 with ohp := { s1.ohp with fullAt := some s1.now } }.raise 0x04C3 oHub 0x14 0 else s1
  else { s with ohp := { s.ohp with queue := s.ohp.queue ++ [q] } }

/-- An ARP request for the OHP IPv4 address (R367 step 8): its sender's hardware and protocol addresses. -/
def State.arpFor (s : State) (f : EthFrame) : Option (Nat × Nat) :=
  let p := f.payload
  if f.typ == 0x0806 && 28 ≤ p.length && beNat (sliceB p 0 2) == 1 && beNat (sliceB p 2 2) == 0x0800 && u p 4 1 == 6 && u p 5 1 == 4
      && beNat (sliceB p 6 2) == 1 && beNat (sliceB p 24 4) == s.fget Reg.OHP_UDP_ipv4 && s.flag Reg.OHP_CTRL_udp
      && s.flag Reg.OHP_CTRL_en && s.pow.committed then
    some (beNat (sliceB p 8 6), beNat (sliceB p 14 4))
  else none

/-- The ARP reply. -/
def State.arpReply (s : State) (port vlan hw ip : Nat) : State :=
  let me := beBytes 6 (s.fget Reg.OHP_MAC_mac)
  let tag := beBytes 2 0x8100 ++ beBytes 2 (s.fget Reg.OHP_MAC_pcp * 2 ^ 13 + vlan)
  let body := beBytes 2 1 ++ beBytes 2 0x0800 ++ beBytes 1 6 ++ beBytes 1 4 ++ beBytes 2 2 ++ me ++ beBytes 4 (s.fget Reg.OHP_UDP_ipv4)
    ++ beBytes 6 hw ++ beBytes 4 ip
  s.emit port (.frame port (beBytes 6 hw ++ me ++ tag ++ beBytes 2 0x0806 ++ body))

/-- Is a VLAN ID in a port's filter (R367 step 3)? -/
def State.vidOk (s : State) (port vid : Nat) : Bool :=
  (List.range 64).any fun i => s.flag (Reg.ETH_VID_valid port i) && s.fget (Reg.ETH_VID_vid port i) == vid

/-- Steps 7–10 of Table 13.2. -/
def State.classify7 (s : State) (port : Nat) (f : EthFrame) (stamp : Nat) (sec : Nat) (gen : Bool) : State :=
  match s.ohpMatch f with
  | some (b, ip, udp, whole) =>
    if s.flag Reg.OHP_CTRL_secure_only && sec != 1 then s.count Reg.OHP_CNT_REFUSED_count 1 else s.ohpIn port f b ip udp whole
  | none => match s.arpFor f with
    | some (hw, ip) => s.arpReply port f.vlan hw ip
    | none => match s.ethSensor port f with
      | some (n, payload) => s.sensorPacket n (s.ethStamp stamp) gen payload
      | none => s.count (Reg.ETH_CNT_RX_DROP_count port) 1

/-- ETH_FRAME_RECEIVE (R366–R371, R268–R271): a frame, without its FCS, is received on a port. `stamp`: its MAC ingress stamp; `sec`: 0 it came
unprotected, 1 its MACsec checks passed, 2 one failed, or it came unprotected where validation is strict; `full`: too little room in the receive
buffer; `qci`, `dup`: rejected by 802.1Qci, eliminated by 802.1CB; `gen`: the generators of its check values disagree. -/
def execEthFrameReceive (port : Nat) (frame : List Byte) (stamp : Nat) (fcsBad : Bool) (sec : Nat) (full qci dup gen : Bool) (s : State) :
    Host.Outcome State Fault Refusal :=
  if !s.portOn port then .next s
  else
    let f := readFrame port frame
    let s1 := s.count (Reg.ETH_CNT_RX_frames port) 1
    if fcsBad then
      let s2 := s1.count (Reg.ETH_CNT_FCS_count port) 1
      match s2.ethSensor port f with
      | some (n, payload) => .next (s2.brokenPacket n (s.ethStamp stamp) payload)
      | none => .next s2
    else if full && f.typ != 0x88F7 then .next ((s1.count (Reg.ETH_CNT_RX_DROP_count port) 1).fullEvent port)
    else if sec == 2 then .next ((s1.count (Reg.ETH_CNT_MACSEC_count port) 1).macsecEvent port)
    else if !s1.vidOk port f.vlan then .next (s1.count (Reg.ETH_CNT_RX_DROP_count port) 1)
    else if qci then .next (s1.count (Reg.ETH_CNT_QCI_count port) 1)
    else if dup then .next (s1.count (Reg.ETH_CNT_FRER_count port) 1)
    else if f.typ == 0x88F7 then .next s1
    else .next (s1.classify7 port f stamp sec gen)

/-! ### Link state and gates -/

/-- The rate of a port, coded as speed (Table 13.14): fixed, or as auto-negotiation found it. -/
def State.portRate (s : State) (port found : Nat) : Nat :=
  let v := s.fget (Reg.ETH_PORT_CTRL_speed port)
  if port < 2 then (if v ≤ 1 then v else 0) else if v == 3 then found % 3 else if v ≤ 2 then v else 0

/-- ETH_LINK_CHANGE (R386, R387): a port's link comes up, or goes down; the gPTP port without a link is not asCapable (R257). -/
def execEthLinkChange (port : Nat) (up : Bool) (rate : Nat) (s : State) : Host.Outcome State Fault Refusal :=
  if 6 ≤ port || !s.flag (Reg.ETH_PORT_CTRL_en port) || s.flag (Reg.ETH_PORT_STATUS_link_up port) == up then .next s
  else
    let s1 := (s.fset (Reg.ETH_PORT_STATUS_link_up port) (b2n up)).raise 0x0481 oHub 0x14 0
    let s2 := if up then s1.fset (Reg.ETH_PORT_STATUS_rate port) (s1.portRate port rate) else s1
    .next (if !up && port == s2.ptpPort then s2.syncLost else s2)

/-- gPTP time now (R369): Device Time plus ING_DT_OFFSET. -/
def State.gptpNow (s : State) : Int := (s.now : Int) + i64Of (s.rd Reg.ING_DT_OFFSET)

def State.gateAt (s : State) (port : Nat) : GatePort := smGet {} s.eth.gate port
/-- A frame that has waited leaves: it carries the time of its transmission (Table 13.4). -/
def Msg.sentAt (t : Nat) : Msg → Msg
  | .ohp m => .ohp { m with txTime := t }
  | .ohpBad m => .ohpBad { m with txTime := t }
  | m => m

/-- The frames of a port whose gate is now open leave, by strict priority between classes and in order within one (R369). -/
def State.release (s : State) (port : Nat) : State :=
  let open_ (x : Nat × Msg) : Bool := x.1 == port && s.gateOpen port x.2
  let s1 := { s with eth := { s.eth with waiting := s.eth.waiting.filter fun x => !open_ x } }
  [7, 6, 5, 4, 3, 2, 1, 0].foldl (fun (s1 : State) (c : Nat) =>
    (s.eth.waiting.filter fun x => open_ x && s.classOf port x.2 == c).foldl (fun s1 x => s1.emit port (x.2.sentAt s.now)) s1) s1

def State.setGate (s : State) (port : Nat) (g : GatePort) : State := { s with eth := { s.eth with gate := smPut {} s.eth.gate port g } }

/-- Addresses of a port's gate control list and its timing. -/
def gclAddrs (port : Nat) : List Addr := [Reg.ETH_GCL_TIME port, Reg.ETH_GCL_BASE port] ++ (List.range 256).map fun i => Reg.ETH_GCL port i

/-- At the boundary of ETH a port's staged gate control list is taken: it waits for its admin base time (R369, R370). Its registers take their
values when it takes over. -/
def State.takeGcl (s : State) (port : Nat) : State :=
  if (gclAddrs port).all fun a => smGet {} s.staged a == {} then s
  else
    let v (f : Fld) : Nat := bits (s.stagedValue f.addr) f.hi f.lo
    let l : GateList := {
      entries := (List.range 256).map fun i => (v (Reg.ETH_GCL_gates port i), v (Reg.ETH_GCL_interval port i)),
      cycle := v (Reg.ETH_GCL_TIME_cycle_ns port), base := v (Reg.ETH_GCL_BASE_base port), taken := s.gptpNow }
    ((gclAddrs port).foldl (fun (s : State) (a : Addr) => s.unstage a) s).setGate port { s.gateAt port with next := some l }

/-- The entries of a list that have an interval. -/
def GateList.live (l : GateList) : List (Nat × Nat) := l.entries.filter fun e => e.2 != 0

/-- Is a list good (R370): do its intervals sum to its cycle time, and was its base time still to come when it was taken? -/
def GateList.ok (l : GateList) : Bool := decide ((l.entries.foldl (fun n e => n + e.2) 0) = l.cycle ∧ l.taken ≤ (l.base : Int))

/-- The registers of a port show a list. -/
def State.showGcl (s : State) (port : Nat) (l : GateList) : State :=
  let s1 := (s.fset (Reg.ETH_GCL_TIME_cycle_ns port) l.cycle).fset (Reg.ETH_GCL_BASE_base port) l.base
  (List.range 256).foldl (fun (s : State) (i : Nat) =>
    let e := nth (0, 0) l.entries i
    (s.fset (Reg.ETH_GCL_gates port i) e.1).fset (Reg.ETH_GCL_interval port i) e.2) s1

/-- GCL_SWITCH (R370): the list taken at the boundary is refused, or takes over at its admin base time. -/
def execGclSwitch (port : Nat) (s : State) : Host.Outcome State Fault Refusal :=
  let g := s.gateAt port
  match g.next with
  | none => .next s
  | some l =>
    if !l.ok then .next ((s.setGate port { g with next := none }).raise 0x0485 oHub 0x14 0)
    else if s.gptpNow < l.base then .next s
    else
      let first := nth (0xFF, 0) l.live 0
      .next (((s.showGcl port l).setGate port { list := some l, idx := 0, until_ := l.base + first.2, gates := first.1, next := none }).release port)

/-- GATE_INTERVAL_END (R369): the running entry's interval has passed; the next entry's gate states apply, the first one's after the last's. -/
def execGateIntervalEnd (port : Nat) (s : State) : Host.Outcome State Fault Refusal :=
  let g := s.gateAt port
  match g.list with
  | none => .next s
  | some l =>
    let es := l.live
    if es.isEmpty || s.gptpNow < g.until_ then .next s
    else
      let i := (g.idx + 1) % es.length
      let e := nth (0xFF, 0) es i
      .next ((s.setGate port { g with idx := i, until_ := g.until_ + e.2, gates := e.1 }).release port)

end Sys2Proof.Machine
end

