-- ==== Sys2Proof/Machine/Ohp.lean ====
section
/-! DEFINITION. The endpoint of the Ouvion Host Protocol (R371–R378, R549): each command takes the oldest message of its type at the head of the
queue. `copies` of a command says whether the two copies of the headers it sends agree (R368). -/

namespace Sys2Proof.Machine

/-- A message leaves unless its header copies disagree (R368). -/
def State.sendOr (s : State) (copies : Bool) (m : Msg) : State :=
  let port := match m with | .ohp x => x.port | .ohpBad x => x.port | _ => 0
  if copies then s.emit port m else s.raise 0x24C5 oHub 0x14 0

/-- A message of the part with its sender and transmission time. -/
def State.stamped (s : State) (m : OhpMsg) : OhpMsg := { m with srcPart := s.fget Reg.JSY_ROLE_part_index, txTime := s.now, pcp := s.fget Reg.OHP_MAC_pcp }

/-- Bytes of a message's payload that fit a frame of a port, `udp` over UDP (R372): 18 bytes of Ethernet header and FCS, a VLAN tag, the OHP header,
and IPv4 and UDP headers. -/
def State.ohpRoom (s : State) (port : Nat) (udp : Bool) : Nat := s.mtu port - (22 + 32 + (if udp then 28 else 0))

/-- The 32 bytes of a received header (Table 13.4). -/
def OhpIn.header (q : OhpIn) : List Byte :=
  leBytes 1 1 ++ leBytes 1 q.typ ++ leBytes 2 q.flags ++ leBytes 2 q.seq ++ leBytes 2 q.payload.length ++ leBytes 2 q.dstPart
    ++ leBytes 2 q.srcPart ++ leBytes 2 q.unit ++ leBytes 2 q.status ++ leBytes 4 q.role ++ leBytes 4 0 ++ leBytes 8 q.txTime

/-- The message at the head of the queue, of a type, is taken (R376). -/
def State.takeOhp (s : State) (typ flags : Nat) : Option (OhpIn × State) :=
  match s.ohp.queue with
  | q :: rest =>
    if q.typ == typ && q.flags == flags && s.pow.phase == .running then
      some (q, { s with ohp := { s.ohp with queue := rest } }.count Reg.OHP_CNT_RX_count 1) else none
  | [] => none

/-! ### Senders (R377) -/

def OhpIn.sentBy (q : OhpIn) (x : OhpSender) : Bool := x.mac == q.mac && x.part == q.srcPart

/-- A known sender is heard from. -/
def State.hear (s : State) (q : OhpIn) : State :=
  match s.ohp.senders.find? q.sentBy with
  | some x => { s with ohp := { s.ohp with senders := x :: s.ohp.senders.filter fun (y : OhpSender) => !q.sentBy y } }
  | none => s

/-- The endpoint keeps the seq and the response of the last request executed; of 17 senders the one heard from least recently goes. -/
def State.keepResp (s : State) (q : OhpIn) (m : Option Msg) : State :=
  let x : OhpSender := { mac := q.mac, part := q.srcPart, seq := q.seq, resp := m }
  { s with ohp := { s.ohp with senders := (x :: s.ohp.senders.filter fun (y : OhpSender) => !q.sentBy y).take 16 } }

/-- The response kept for a sender's last request is filled in, where it is still that request's. -/
def State.fillResp (s : State) (q : OhpIn) (m : Msg) : State :=
  let fill (y : OhpSender) : OhpSender := if q.sentBy y && y.seq == q.seq then { y with resp := some m } else y
  { s with ohp := { s.ohp with senders := s.ohp.senders.map fill } }

/-- The response to a request: status 1 in its place when it would exceed the port's mtu (Table 13.7). -/
def State.respMsg (s : State) (q : OhpIn) (status : Nat) (payload : List Byte) : OhpMsg :=
  let m := q.reply status (s.roleOf q.unit) payload
  s.stamped (if s.ohpRoom q.port (q.ip != 0 || q.udp != 0) < payload.length then { m with status := 1, payload := [] } else m)

/-- A request ends with its response: kept and sent. A part that the request has reset sends none. -/
def State.answer (s : State) (q : OhpIn) (copies : Bool) (status : Nat) (payload : List Byte) : State :=
  if s.pow.phase != .running then s
  else
    let m : Msg := .ohp (s.respMsg q status payload)
    (s.keepResp q (some m)).sendOr copies m

/-! ### Requests -/

/-- The kinds of units (Table 13.6): 0 the part, 1 a partition, 2 a sample stream, 3 a result stream, 4 none. -/
def unitKind (x : Nat) : Nat :=
  if x == 0 then 0 else if 0x100 ≤ x ∧ x < 0x140 then 1 else if 0x200 ≤ x ∧ x < 0x210 then 2 else if 0x300 ≤ x ∧ x < 0x310 then 3 else 4

/-- What the endpoint makes of a request taken from its queue before it is carried out: a malformed one, an absent unit, a stale role, a duplicate
(R374–R377); none where it is to be executed. `any`: ROLE_QUERY, to which unit and role do not matter. -/
def State.screen (s : State) (q : OhpIn) (copies ok : Bool) (any : Bool) : Option State :=
  let s1 := s.hear q
  if !ok then some (s1.ohpBadMsg.sendOr copies (.ohp (s1.respMsg q 1 [])))
  else match s1.unitEpoch q.unit with
    | none => if any then none else some (s1.sendOr copies (.ohp (s1.respMsg q 2 [])))
    | some e =>
      if !any && q.role != e then
        let s2 := s1.count Reg.OHP_CNT_STALE_count 1
        let s3 := if onceSec s2.ohp.staleAt s2.now then
          { s2 with ohp := { s2.ohp with staleAt := some s2.now } }.raise 0x04C2 oHub 0x14 0 else s2
        let m := { q.reply 0 e (q.header ++ leBytes 4 e) with typ := 0x7E, flags := 0, seq := s3.ohp.seq }
        some ({ s3 with ohp := { s3.ohp with seq := (s3.ohp.seq + 1) % 65536 } }.sendOr copies (.ohp (s3.stamped m)))
      else none

/-- A request that repeats the kept seq of its sender is not executed again (R377). -/
def State.duplicate (s : State) (q : OhpIn) (copies : Bool) : Option State :=
  match s.ohp.senders.find? q.sentBy with
  | some x =>
    if x.seq == q.seq then
      let s1 := s.count Reg.OHP_CNT_DUP_count 1
      some (match x.resp with | some m => s1.sendOr copies m | none => s1)
    else none
  | none => none

/-- A request of a type: screened, then executed. `ok`: its payload is in range; `kind`: the kind of unit its type takes; `write`: refused in the
device safe state (R467). -/
def State.request (s : State) (typ : Nat) (copies : Bool) (kind : Option Nat) (write : Bool) (ok : OhpIn → Bool) (run : OhpIn → State → State) :
    State :=
  match s.takeOhp typ 0 with
  | none => s
  | some (q, s1) =>
    let fits := ok q && (match kind with | some k => unitKind q.unit == k || unitKind q.unit == 4 | none => true)
    match s1.screen q copies fits kind.isNone with
    | some s2 => s2
    | none =>
      let s2 := s1.hear q
      match s2.duplicate q copies with
      | some s3 => s3
      | none => if write && s2.safe then s2.answer q copies 3 [] else run q s2

/-- The endpoint as a requester: source 0xB. -/
def ohpWho : Who := { src := 0xB, agent := 0 }

/-- A refusal of R373. -/
def State.refuse (s : State) (q : OhpIn) (copies : Bool) : State := (s.count Reg.OHP_CNT_REFUSED_count 1).answer q copies 3 []

/-- ROLE_QUERY (R374): the role epoch of each unit named, 0 for an absent one. -/
def execRoleQuery (copies : Bool) (s : State) : Host.Outcome State Fault Refusal :=
  .next (s.request 0x01 copies none false (fun q => q.payload.length % 2 == 0 && 2 ≤ q.payload.length && q.payload.length ≤ 128) fun q s =>
    s.answer q copies 0 ((List.range (q.payload.length / 2)).flatMap fun i => leBytes 4 (s.roleOf (u q.payload (2 * i) 2))))

/-- The CSR windows of Table 1.6. -/
def csrWindow (a : Addr) : Bool :=
  decide (0x00F000000000 ≤ a ∧ a < 0x00F010000000) || decide (0x00F100000000 ≤ a ∧ a < 0x00F108000000)
    || decide (0x00F200000000 ≤ a ∧ a < 0x00F200100000)

/-- Registers that the host may not write through OHP (R373): SAF, WDG, SEC and every Kysta CSR. -/
def hostBarred (a : Addr) : Bool :=
  let src := if a < 0x00F100000000 then (a - 0x00F000000000) / 0x10000 else a % 0x1000000 / 0x10000
  decide (0x00F200000000 ≤ a) || src == 0x18 || src == 0x19 || src == 0x16

/-- A word of a CSR window read by the host. -/
def State.csrWord (s : State) (a : Addr) : Nat :=
  match s.target 0xB a with
  | .reg _ => s.regRead ohpWho a
  | tg => match s.locate tg with | some l => leNat (s.locRead l (a % 256) 4) | none => 0

/-- A word of a CSR window written by the host. -/
def State.putCsrWord (s : State) (a : Addr) (v : Nat) : State :=
  match s.target 0xB a with
  | .reg _ => s.regWrite ohpWho a v
  | tg => match s.locate tg with | some l => s.locWrite l (a % 256) (leBytes 4 v) | none => s

/-- The first word of a range that does not decode, and its kind. -/
def State.csrHole (s : State) (as_ : List Addr) : Option (Addr × Nat) :=
  as_.findSome? fun a => match s.target 0xB a with | .undecodable k => some (a, k) | _ => none

/-- The words that a CSR request names. -/
def csrWords (q : OhpIn) : List Addr := (List.range (u q.payload 8 4)).map fun i => u q.payload 0 8 + 4 * i

/-- Is a CSR request in range: aligned, 1–256 words, and as long as it says? -/
def csrOk (q : OhpIn) (write : Bool) : Bool :=
  let n := u q.payload 8 4
  q.payload.length == 12 + (if write then 4 * n else 0) && 1 ≤ n && n ≤ 256 && u q.payload 0 8 % 4 == 0

/-- CSR_READ (R373). -/
def execCsrRead (copies : Bool) (s : State) : Host.Outcome State Fault Refusal :=
  .next (s.request 0x02 copies (some 0) false (csrOk · false) fun q s =>
    let as_ := csrWords q
    if !as_.all csrWindow then s.refuse q copies
    else match s.csrHole as_ with
      | some (a, k) => (s.decodeError 0xB 0 a k none).answer q copies 4 []
      | none => s.answer q copies 0 (as_.flatMap fun a => leBytes 4 (s.csrWord a)))

/-- CSR_WRITE (R373, R407): every word of the message in one step, so that one boundary serves them all. -/
def execCsrWrite (copies : Bool) (s : State) : Host.Outcome State Fault Refusal :=
  .next (s.request 0x03 copies (some 0) true (csrOk · true) fun q s =>
    let as_ := csrWords q
    if !as_.all csrWindow || as_.any hostBarred then s.refuse q copies
    else match s.csrHole as_ with
      | some (a, k) => (s.decodeError 0xB 0 a k none).answer q copies 4 []
      | none =>
        let ws := (List.range as_.length).map fun i => (nth 0 as_ i, u q.payload (12 + 4 * i) 4)
        (ws.foldl (fun (s : State) (x : Nat × Nat) => s.putCsrWord x.1 x.2) s).answer q copies 0 [])

/-! ### The bulk tier (R368, R373) -/

/-- Blocks of the bulk tier read in order for the host or a frame; `ecc` what the checker finds at each: bytes and whether a check value failed,
or none at the first error response. -/
def State.readBlocks (s : State) : List Addr → List Nat → State × Option (List Byte × Bool)
  | [], _ => (s, some ([], false))
  | a :: as_, ecc =>
    match s.locate (s.target 0xB a) with
    | none => (s, none)
    | some l =>
      match s.memRead l a (nth 0 ecc 0) none with
      | (s1, none) => (s1, none)
      | (s1, some (bs, chk)) =>
        match s1.readBlocks as_ (ecc.drop 1) with
        | (s2, some (rest, bad)) => (s2, some (bs ++ rest, bad || chk != 0))
        | (s2, none) => (s2, none)

/-- Blocks written in order, their check values made at entry (R420); `gen`: the generators disagree. False at the first error response. -/
def State.writeBlocks (s : State) (gen : Bool) : List Addr → List Nat → List Byte → State × Bool
  | [], _, _ => (s, true)
  | a :: as_, ecc, bs =>
    match s.locate (s.target 0xB a) with
    | none => (s, false)
    | some l =>
      match s.memWrite l a (sliceB bs 0 256) (if gen then 0xFFFFFFFF else 0) (nth 0 ecc 0) none with
      | (s1, true) => s1.writeBlocks gen as_ (ecc.drop 1) (bs.drop 256)
      | (s1, false) => (s1, false)

/-- A range of the bulk tier as R373 sees it: outside its window, beyond its capacity, or there. -/
def bulkWindow (a n : Nat) : Bool := decide (0x004000000000 ≤ a ∧ a + n ≤ 0x005000000000)

/-- The first block of a range that does not decode. -/
def memBlocks (q : OhpIn) : List Addr := (List.range (u q.payload 8 4)).map fun i => u q.payload 0 8 + 256 * i

/-- Is a memory request in range: aligned, 1–16 blocks, and as long as it says? -/
def memOk (q : OhpIn) (write : Bool) : Bool :=
  let n := u q.payload 8 4
  q.payload.length == 12 + (if write then 256 * n else 0) && 1 ≤ n && n ≤ 16 && u q.payload 0 8 % 256 == 0

/-- The egress check has failed on a frame (R368): 0x2483, counted on its port. -/
def State.egressFail (s : State) (port : Nat) : State :=
  (s.raise 0x2483 oHub 0x14 0).count (Reg.ETH_CNT_EGRESS_CHK_count port) 1

/-- MEM_READ (R373, R368): `ecc` what the checker of the bulk tier finds at each block. A block that fails its check value ends the frame with its
FCS inverted. -/
def execMemRead (ecc : List Nat) (copies : Bool) (s : State) : Host.Outcome State Fault Refusal :=
  .next (s.request 0x04 copies (some 0) false (memOk · false) fun q s =>
    let as_ := memBlocks q
    if !bulkWindow (u q.payload 0 8) (256 * as_.length) then s.refuse q copies
    else match s.csrHole as_ with
      | some (a, k) => (s.decodeError 0xB 0 a k none).answer q copies 4 []
      | none =>
        let m := s.respMsg q 0 (List.replicate (256 * as_.length) 0)
        if m.status != 0 then s.answer q copies 0 (List.replicate (256 * as_.length) 0)
        else match s.readBlocks as_ ecc with
          | (s1, none) => s1.answer q copies 5 []
          | (s1, some (bs, false)) => s1.answer q copies 0 bs
          | (s1, some (bs, true)) =>
            let bad : Msg := .ohpBad (s1.respMsg q 0 bs)
            ((s1.egressFail q.port).keepResp q (some bad)).sendOr copies bad)

/-- MEM_WRITE (R373, R420): `gen`: the generators of its check values disagree. -/
def execMemWrite (ecc : List Nat) (gen copies : Bool) (s : State) : Host.Outcome State Fault Refusal :=
  .next (s.request 0x05 copies (some 0) true (memOk · true) fun q s =>
    let as_ := memBlocks q
    if !bulkWindow (u q.payload 0 8) (256 * as_.length) then s.refuse q copies
    else match s.csrHole as_ with
      | some (a, k) => (s.decodeError 0xB 0 a k none).answer q copies 4 []
      | none =>
        let s1 := if gen then s.raise 0x25C4 oHub uNone 0 else s
        match s1.writeBlocks gen as_ ecc (q.payload.drop 12) with
        | (s2, true) => s2.answer q copies 0 []
        | (s2, false) => s2.answer q copies 5 [])

/-! ### Requests that write a register (R373) -/

/-- MODE_REQ (R373, R161). -/
def execModeReq (copies : Bool) (s : State) : Host.Outcome State Fault Refusal :=
  .next (s.request 0x07 copies (some 0) true (fun q => q.payload.length == 1 && u q.payload 0 1 < 32) fun q s =>
    (s.modeReq (u q.payload 0 1)).answer q copies 0 [])

/-- PREEMPT (R373, R186, R189). -/
def execPreempt (copies : Bool) (s : State) : Host.Outcome State Fault Refusal :=
  .next (s.request 0x08 copies (some 1) true (fun q => q.payload.length == 2 && u q.payload 1 1 < 4) fun q s =>
    (s.preemptWrite (u q.payload 0 1 + u q.payload 1 1 * 256)).answer q copies 0 [])

/-- A u16 of a payload where its mask bit is set. -/
def maskField (q : OhpIn) (o i : Nat) : Option Nat := if bit (u q.payload 4 1) i then some (u q.payload o 2) else none

/-- KV_RING (R373, R253). -/
def execKvRing (copies : Bool) (s : State) : Host.Outcome State Fault Refusal :=
  .next (s.request 0x09 copies (some 1) true (fun q => q.payload.length == 5 && u q.payload 4 1 < 4) fun q s =>
    (s.ringWrite (q.unit - 0x100) (maskField q 0 0) (maskField q 2 1)).answer q copies 0 [])

/-- SAMPLE_RING (R373, R307). -/
def execSampleRing (copies : Bool) (s : State) : Host.Outcome State Fault Refusal :=
  .next (s.request 0x0A copies (some 2) true (fun q => q.payload.length == 5 && u q.payload 4 1 < 4) fun q s =>
    (s.fetchWrite (q.unit - 0x200) (maskField q 0 0) (maskField q 2 1)).answer q copies 0 [])

/-! ### Submitted graphs (R190) -/

/-- The verdict on a submitted graph (R167, R190, R196): ADM_LAST, its count, its event, and the response to its request. -/
def State.verdict (s : State) (q : OhpIn) (v : Verdict) (copies : Bool) : State :=
  let s1 := s.setLast v
  let s2 := if v.code == 0 then (s1.count Reg.ADM_CNT_ACCEPT_count 1).raise 0x01C1 oHub 0x10 0
    else (s1.count Reg.ADM_CNT_REJECT_count 1).raise 0x01C2 oHub 0x10 0
  let m : Msg := .ohp (s2.respMsg q 0 (leBytes 8 (s2.rd Reg.ADM_LAST).toNat))
  (s2.fillResp q m).sendOr copies m

/-- GRAPH_SUBMIT (R190, R157, R158): a graph record with its tasks and dependences is read from the bulk tier and validated against the plan in
force; one that passes waits for admission. `lists`: the entry lists that the host has laid down for its tasks. -/
def execGraphSubmit (ecc : List Nat) (lists : List (Nat × List Byte)) (copies : Bool) (s : State) : Host.Outcome State Fault Refusal :=
  .next (s.request 0x06 copies (some 1) true (fun q => q.payload.length == 12 && 32 ≤ u q.payload 8 4) fun q s =>
    let a := u q.payload 0 8
    let n := u q.payload 8 4
    let as_ := (List.range (ceilDiv (a % 256 + n) 256)).map fun i => a / 256 * 256 + 256 * i
    if !bulkWindow a n then s.refuse q copies
    else match s.csrHole as_ with
      | some (b, k) => (s.decodeError 0xB 0 b k none).answer q copies 4 []
      | none => match s.readBlocks as_ ecc, s.planRec with
        | (s1, some (bs, false)), some r =>
          let g := readGraph (sliceB bs (a % 256) n) 0 0
          if g.part != q.unit - 0x100 then s1.ohpBadMsg.answer q copies 1 []
          else match validateGraph r.plan g with
            | some f =>
              let s2 := (s1.capturePln f r.plan.kind r.plan.lostDie).count Reg.PLN_CNT_REJECT_count 1
              ((s2.keepResp q none).raise 0x0182 oHub 0x10 0).verdict q { code := 0x10, graph := g.id } copies
            | none =>
              let x : Submitted := { graph := g, lists := lists.map fun l => { graph := g.id, task := l.1, bytes := l.2 }, req := q }
              let s2 := s1.keepResp q none
              { s2 with plan := { s2.plan with queued := s2.plan.queued ++ [x] } }.showAdm
        | (s1, _), _ => s1.answer q copies 5 [])

/-- Why admission refuses a submitted graph before it is placed (0x11, 0x12 of Table 6.1). -/
def State.submitRefused (s : State) (r : PlanRec) (g : GraphRec) : Option Nat :=
  let named := r.plan.parts.any fun x => x.part == g.part && (x.models.take r.plan.nModes).contains g.model
  if !s.flag Reg.ADM_CTRL_submit_en || r.plan.graphs.any (fun x => x.id == g.id) || !named then some 0x11
  else if s.inAlarm then some 0x12 else none

/-- ADMISSION_VERDICT (R167, R190): admission of the graph submitted first ends. A graph that it replaces counts for none of the checks. -/
def execAdmissionVerdict (copies : Bool) (s : State) : Host.Outcome State Fault Refusal :=
  match s.plan.queued with
  | [] => .next s
  | x :: rest =>
    let s1 := { s with plan := { s.plan with queued := rest } }
    let refused (code : Nat) : State := (s1.verdict x.req { code := code, graph := x.graph.id } copies).showAdm
    match s1.planRec with
    | none => .next (refused 0x11)
    | some r => match s1.submitRefused r x.graph with
      | some code => .next (refused code)
      | none =>
        let others := (s1.plan.entered.filter fun y => !(s1.plan.accepted.any fun z => z.graph.id == y.graph.id)) ++ s1.plan.accepted
        let others := others.filter fun y => y.graph.id != x.graph.id
        let kept (l : List Submitted) : List Submitted := l.filter fun y => y.graph.id != x.graph.id
        let s0 := { s1 with plan := { s1.plan with entered := kept s1.plan.entered, accepted := kept s1.plan.accepted } }
        match admitGraph s1.admCfg s0.tblUsed r others x with
        | .error v => .next ((s1.verdict x.req v copies).showAdm)
        | .ok y =>
          let s2 := s1.verdict x.req { code := 0, graph := y.graph.id, bound := y.bound } copies
          let acc := s2.plan.accepted.filter fun z => z.graph.id != y.graph.id
          .next { s2 with plan := { s2.plan with accepted := acc ++ [y] } }.showAdm

/-! ### Event streaming -/

/-- Records to be streamed, a gap record in place of entries overwritten before they were sent, and the position after them (R549). `room`: records
still to go into the message. -/
def State.streamRecs (s : State) (minCls : Nat) : Nat → Nat → List (Nat × Nat) → List Byte × Nat
  | _, pos, [] => ([], pos)
  | 0, pos, _ => ([], pos)
  | room + 1, pos, (slot, seq) :: rest =>
    let ahead := (seq + 2 ^ 32 - pos) % 2 ^ 32
    if 2 ^ 31 ≤ ahead then s.streamRecs minCls (room + 1) pos rest
    else
      let gap := if ahead == 0 then [] else
        ({ time := s.now, code := 0, origin := oHub, unit := uNone, detail := min 0xFFFFFFFF ahead } : Event).bytes
      let cls := codeClass (wbits (s.rd (Reg.SAF_LOG slot 1)) 15 0)
      let pass := decide (minCls ≤ cls)
      if ahead != 0 && pass && room == 0 then (gap, seq)
      else
        let left := room - (if ahead != 0 && pass then 1 else 0) + (if ahead == 0 && !pass then 1 else 0)
        let (more, p) := s.streamRecs minCls left ((seq + 1) % 2 ^ 32) rest
        (gap ++ (if pass then s.logRecord slot else []) ++ more, p)
termination_by structural _ _ rest => rest

/-- EVENT_STREAM (R378, R549): records of class min_class and above not yet sent, 64 at most, go out in one EVENT message. -/
def execEventStream (copies : Bool) (s : State) : Host.Outcome State Fault Refusal :=
  if !s.flag Reg.OHP_CTRL_events || !s.flag Reg.OHP_CTRL_en || s.saf.ohpOff || s.pow.phase != .running then .next s
  else
    let (bs, pos) := s.streamRecs (s.fget Reg.OHP_EVT_DEST_min_class) 64 s.ohp.evtPos s.saf.ring
    let s1 := { s with ohp := { s.ohp with evtPos := pos } }
    if bs.isEmpty then .next s1
    else
      let m : OhpMsg := { mac := s1.fget Reg.OHP_EVT_DEST_mac, vlan := s1.fget Reg.OHP_MAC_vlan, typ := 0x11, seq := s1.ohp.seq,
                          dstPart := 0xFFFF, role := s1.roleOf 0, payload := bs }
      .next ({ s1 with ohp := { s1.ohp with seq := (s1.ohp.seq + 1) % 65536 } }.sendOr copies (.ohp (s1.stamped m)))

end Sys2Proof.Machine
end

