-- ==== Sys2Proof/Machine/Jsy.lean ====
section
/-! DEFINITION. Joined systems (R513–R524): barrier messages, checkpoints, twin loading, joining and withdrawal. -/

namespace Sys2Proof.Machine

/-- A joined-system message is taken from the queue: malformed, stale and absent ones are screened as any message (R375, R376); the others act and
get no response of their own. -/
def State.jsyTake (s : State) (typ : Nat) (copies : Bool) (ok : OhpIn → Bool) (run : OhpIn → State → State) : State :=
  match s.takeOhp typ 0 with
  | none => s
  | some (q, s1) =>
    match s1.screen q copies (ok q && unitKind q.unit == 0) false with
    | some s2 => s2
    | none => run q (s1.hear q)

/-- ARRIVE (R517): the master records a member's arrival. -/
def execArrive (copies : Bool) (s : State) : Host.Outcome State Fault Refusal :=
  .next (s.jsyTake 0x20 copies (fun q => q.payload.length == 20 && u q.payload 11 1 == 0) fun q s =>
    if s.isMaster then s.arrival q.srcPart (u q.payload 0 8) (u q.payload 10 1) (u q.payload 8 2) (u q.payload 12 8)
    else s.count Reg.JSY_CNT_IGNORED_count 1)

/-- RELEASE (R516): the matching barrier task ends. -/
def execRelease (s : State) : Host.Outcome State Fault Refusal :=
  .next (s.jsyTake 0x21 true (fun q => q.payload.length == 24 && u q.payload 11 1 == 0 && u q.payload 14 2 == 0) fun q s =>
    s.endBarrier (u q.payload 0 8) (u q.payload 10 1) (u q.payload 8 2))

/-- WITHDRAW (R511): the master takes the part from its member set for every barrier not yet released; those that wait for no other are. -/
def execWithdraw (s : State) : Host.Outcome State Fault Refusal :=
  .next (s.jsyTake 0x27 true (fun q => q.payload.length == 8) fun q s =>
    if !s.isMaster then s
    else
      let s1 := { s with jsy := { s.jsy with withdrawn := withOnce q.srcPart s.jsy.withdrawn } }
      s1.jsy.barriers.foldl (fun (s : State) (b : Barrier) => s.releaseBarrier { b with here := without q.srcPart b.here }) s1)

/-! ### Regions -/

/-- Blocks of a region, 0 where it is disabled or held disabled (R524). -/
def State.regionBlocks (s : State) (r : Nat) : Nat :=
  if s.jsy.off.contains r then 0 else s.fget (Reg.JSY_REGION_size_64k r) * 256

/-- Enabled regions, ascending. -/
def State.regions (s : State) : List Nat := (List.range 16).filter fun r => s.regionBlocks r != 0

/-- Regions are judged at a boundary (R524): one outside the bulk tier or overlapping another is held disabled, 0x2784 once. -/
def State.judgeRegions (s : State) : State :=
  let b (r : Nat) : Nat := s.fget (Reg.JSY_REGION_base r)
  let n (r : Nat) : Nat := s.fget (Reg.JSY_REGION_size_64k r) * 65536
  let used := (List.range 16).filter fun r => n r != 0
  let bad := used.filter fun r => b r < 0x004000000000 || s.bulkEnd < b r + n r
    || used.any fun q => q != r && decide (b q < b r + n r) && decide (b r < b q + n q)
  let s1 := { s with jsy := { s.jsy with off := bad } }
  if bad.any fun r => !s.jsy.off.contains r then s1.raise 0x2784 oHub 0x1C 0 else s1

/-- The Ethernet share of the bulk tier in force (R366, R223). -/
def State.ethShare (s : State) : Nat :=
  let fs := [s.fget Reg.BWR_HUB_BUD_control, s.fget Reg.BWR_HUB_BUD_storage, s.fget Reg.BWR_HUB_BUD_preproc,
    s.fget Reg.BWR_HUB_BUD_decode, s.fget Reg.BWR_HUB_BUD_ethernet, s.fget Reg.BWR_HUB_BUD_partner]
  scaled (nth 0 fs 4) (sumBy id fs) 80

/-- A twin send begins (R521). -/
def State.beginTwin (s : State) (q : OhpIn) : State :=
  let x : RegionSend := { twin := some q, step := u q.payload 0 8, region := nth 0 s.regions 0, at_ := s.now, next := s.now }
  { s with jsy := { s.jsy with send := some x, twinWait := none } }.fset Reg.JSY_CKPT_STATUS_sending 1

/-- The twin request that waits is taken when its checkpoint step is the latest one and no send is in progress. -/
def State.wakeTwin (s : State) : State :=
  match s.jsy.twinWait with
  | some q => if s.jsy.send.isNone && s.jsy.ckpt == some (u q.payload 0 8) then s.beginTwin q else s
  | none => s

/-- A region send has ended. -/
def State.endSend (s : State) (x : RegionSend) : State :=
  let s1 := { s with jsy := { s.jsy with send := none } }.fset Reg.JSY_CKPT_STATUS_sending 0
  let s2 := if x.twin.isNone then s1.fset Reg.JSY_CKPT_STATUS_sent (x.step % 2 ^ 32) else s1
  s2.wakeTwin

/-- A checkpoint falls due at the boundary of a job step (R518). -/
def State.checkpoint (s : State) (step : Nat) : State :=
  let n := s.fget Reg.JSY_CKPT_every
  if n == 0 || step % n != 0 then s
  else if s.jsy.send.isSome then (s.raise 0x0783 oHub 0x1C 0).count Reg.JSY_CNT_SKIP_count 1
  else
    let x : RegionSend := { step := step, region := nth 0 s.regions 0, at_ := s.now, next := s.now }
    let s1 := { s with jsy := { s.jsy with send := some x, ckpt := some step } }.fset Reg.JSY_CKPT_STATUS_sending 1
    if s1.regions.isEmpty then s1.endSend x else s1

/-- REGION_SEND_BLOCK (R515, R518, R521): the next message of a region send, at the pace of the Ethernet share; `ecc` what the bulk tier's checker
finds at its blocks. A block that fails its egress check, or cannot be read, ends the frame with its FCS inverted (R368). -/
def execRegionSendBlock (ecc : List Nat) (copies : Bool) (s : State) : Host.Outcome State Fault Refusal :=
  match s.jsy.send with
  | none => .next s
  | some x =>
    let share := s.ethShare
    if share == 0 || s.now < x.next || s.pow.phase != .running then .next s
    else
      let port := match x.twin with | some q => q.port | none => s.fget Reg.JSY_CKPT_port
      let udp := match x.twin with | some q => q.ip != 0 || q.udp != 0 | none => false
      let left := s.regionBlocks x.region - x.block
      let n := min left (min 32 ((s.ohpRoom port udp - 16) / 256))
      let base := s.fget (Reg.JSY_REGION_base x.region) + x.block * 256
      let later := s.regions.filter fun r => x.region < r
      let fin := decide (left ≤ n)
      let last := fin && later.isEmpty
      let head := leBytes 8 x.step ++ leBytes 1 x.region ++ leBytes 1 (b2n last) ++ leBytes 2 0 ++ leBytes 4 x.block
      let (s1, bs, bad) := match s.readBlocks ((List.range n).map fun i => base + 256 * i) ecc with
        | (s1, some (bs, bad)) => (s1, bs, bad)
        | (s1, none) => (s1, List.replicate (256 * n) 0, true)
      let m : OhpMsg := match x.twin with
        | some q => { q.reply 0 (s1.fget Reg.OHP_ROLE_PART_epoch) (head ++ bs) with typ := 0x25, flags := 0, unit := 0 }
        | none => { s1.jsyMsg 0x22 0xFFFF (s1.fget Reg.JSY_CKPT_DEST_mac) (head ++ bs) with vlan := s1.fget Reg.JSY_CKPT_DEST_vlan }
      let m1 := s1.stamped { m with seq := s1.ohp.seq }
      let s2 := { s1 with ohp := { s1.ohp with seq := (s1.ohp.seq + 1) % 65536 } }
      let s3 := if bad then (s2.egressFail port).sendOr copies (.ohpBad m1) else s2.sendOr copies (.ohp m1)
      if last then .next (s3.endSend x)
      else
        let y : RegionSend := { x with region := if fin then nth x.region later 0 else x.region, block := if fin then 0 else x.block + n,
                                       at_ := s3.now, next := s3.now + ceilDiv (n * 4000) share }
        .next { s3 with jsy := { s3.jsy with send := some y } }

/-- CKPT_ACK (R520): an acknowledgement of the latest step sent. -/
def execCkptAck (s : State) : Host.Outcome State Fault Refusal :=
  .next (s.jsyTake 0x23 true (fun q => q.payload.length == 8) fun q s =>
    let step := u q.payload 0 8
    let sending := match s.jsy.send with | some x => x.twin.isNone | none => false
    if s.jsy.ckpt == some step && !sending then s.fset Reg.JSY_CKPT_STATUS_acked (step % 2 ^ 31) else s)

/-! ### Twins -/

/-- TWIN_REQ (R521): the twin sends its regions, holds the request, or answers it with status 3. -/
def execTwinReq (copies : Bool) (s : State) : Host.Outcome State Fault Refusal :=
  .next (s.jsyTake 0x24 copies (fun q => q.payload.length == 12) fun q s =>
    let step := u q.payload 0 8
    let busy := s.jsy.twinWait.isSome || (match s.jsy.send with | some x => x.twin.isSome | none => false)
    let past := match s.jsy.ckpt with | some c => decide (step < c) | none => false
    if busy || past || u q.payload 8 4 != s.fget Reg.BOOT_STATUS_image_id || s.flag Reg.HLT_SCORE_withdraw then s.answer q copies 3 []
    else { s with jsy := { s.jsy with twinWait := some q } }.wakeTwin)

/-- A part that is to join asks its twin for the regions of step j − 1 (R521). -/
def State.askTwin (s : State) : State :=
  let body := leBytes 8 (s.fget Reg.JSY_JOIN_step - 1) ++ leBytes 4 (s.fget Reg.BOOT_STATUS_image_id)
  let s1 := { s with jsy := { s.jsy with joinAt := some s.now, got := [], ready := false } }
  s1.sendOhp (s1.jsyMsg 0x24 (s1.fget Reg.JSY_TWIN_twin) (s1.fget Reg.JSY_TWIN_twin_mac) body)

/-- Has every block of every enabled region arrived? -/
def State.gotAll (s : State) : Bool :=
  s.regions.all fun r => decide (s.regionBlocks r ≤ (s.jsy.got.filter fun k => k / 2 ^ 24 == r).length)

/-- TWIN_DATA (R521, R515): the joiner writes each block where the twin had it, check values made at entry; with the last one it sends
JOIN_READY. -/
def execTwinData (ecc : List Nat) (gen copies : Bool) (s : State) : Host.Outcome State Fault Refusal :=
  let shape (q : OhpIn) : Bool :=
    let n := q.payload.length - 16
    16 < q.payload.length && n % 256 == 0 && n ≤ 32 * 256 && u q.payload 8 1 < 16 && u q.payload 9 1 ≤ 1 && u q.payload 10 2 == 0
  .next (s.jsyTake 0x25 copies shape fun q s =>
    let r := u q.payload 8 1
    let o := u q.payload 12 4
    let n := (q.payload.length - 16) / 256
    if s.fget Reg.JSY_ROLE_role != 2 || s.jsy.joinAt.isNone || s.jsy.ready || s.safe || s.regionBlocks r < o + n
        || u q.payload 0 8 + 1 != s.fget Reg.JSY_JOIN_step then s
    else
      let s0 := if gen then s.raise 0x25C4 oHub uNone 0 else s
      let (s1, ok) := s0.writeBlocks gen ((List.range n).map fun i => s.fget (Reg.JSY_REGION_base r) + (o + i) * 256) ecc (q.payload.drop 16)
      let got := if ok then (List.range n).foldl (fun g i => withOnce (r * 2 ^ 24 + o + i) g) s1.jsy.got else s1.jsy.got
      let s2 := { s1 with jsy := { s1.jsy with got := got, joinAt := some s1.now } }
      if s2.gotAll then
        let s3 := { s2 with jsy := { s2.jsy with ready := true } }
        s3.sendOhp (s3.jsyMsg 0x26 (s3.fget Reg.JSY_GROUP_master) (s3.fget Reg.JSY_GROUP_master_mac) (leBytes 8 (s3.fget Reg.JSY_JOIN_step)))
      else s2)

/-- TWIN_REFUSAL (R521): the twin answers TWIN_REQ with status 3. -/
def execTwinRefusal (s : State) : Host.Outcome State Fault Refusal :=
  match s.takeOhp 0x24 1 with
  | none => .next s
  | some (q, s1) =>
    if q.status == 3 && s1.jsy.joinAt.isSome then .next ({ s1 with jsy := { s1.jsy with joinAt := none } }.raise 0x0782 oHub 0x1C 0)
    else .next s1

/-- TWIN_TIMEOUT (R521): no TWIN_DATA for 100 ms in a transfer, at the joiner or at the twin. -/
def execTwinTimeout (s : State) : Host.Outcome State Fault Refusal :=
  let joiner := match s.jsy.joinAt with
    | some t => !s.jsy.ready && !s.jsy.got.isEmpty && decide (t + 100000000 ≤ s.now)
    | none => false
  let twin := match s.jsy.send with
    | some x => x.twin.isSome && decide (x.at_ + 100000000 ≤ s.now)
    | none => false
  let s1 := if joiner then { s with jsy := { s.jsy with joinAt := none, got := [] } }.raise 0x0786 oHub 0x1C 0 else s
  .next (if twin then
    ({ s1 with jsy := { s1.jsy with send := none } }.fset Reg.JSY_CKPT_STATUS_sending 0).raise 0x0786 oHub 0x1C 0 else s1)

/-! ### Joining -/

/-- The lowest job step not yet released to the group: of the job steps in progress the first, else the next one (R522). -/
def State.lowestStep (s : State) : Nat :=
  let open_ := (s.insts.filter fun e => e.2.released && !e.2.retired && e.2.step != 0).map fun e => e.2.step
  open_.foldl min (s.fget Reg.JSY_STEP_step + 1)

/-- The master answers the JOIN_READYs that it need not hold (R522). -/
def State.judgeJoins (s : State) (copies : Bool) : State :=
  s.jsy.joins.foldl (fun (s : State) (q : OhpIn) =>
    let j := u q.payload 0 8
    let drop : State := { s with jsy := { s.jsy with joins := s.jsy.joins.filter fun (x : OhpIn) => x != q } }
    if s.lowestStep < j then s
    else if j < s.lowestStep then drop.answer q copies 3 []
    else
      let a := drop.fget Reg.JSY_MEMBERS_base + q.srcPart / 8
      let old := u (drop.peek 8 a 1) 0 1
      let s1 := drop.poke 8 0x1C a (leBytes 1 (setBit old (q.srcPart % 8) true))
      ({ s1 with jsy := { s1.jsy with withdrawn := without q.srcPart s1.jsy.withdrawn } }).answer q copies 0 []) s

/-- JOIN_READY (R522): the master holds it, admits the joiner, or refuses it. -/
def execJoinReady (copies : Bool) (s : State) : Host.Outcome State Fault Refusal :=
  .next (s.jsyTake 0x26 copies (fun q => q.payload.length == 8) fun q s =>
    if !s.isMaster then s.answer q copies 3 []
    else { s with jsy := { s.jsy with joins := s.jsy.joins ++ [q] } }.judgeJoins copies)

/-- JOIN_READY_RESPONSE (R522): the joiner becomes a member, or is refused. -/
def execJoinReadyResponse (s : State) : Host.Outcome State Fault Refusal :=
  match s.takeOhp 0x26 1 with
  | none => .next s
  | some (q, s1) =>
    if !s1.jsy.ready then .next s1
    else
      let s2 := { s1 with jsy := { s1.jsy with joinAt := none, ready := false, got := [] } }
      if q.status == 0 then
        let s3 := (s2.fset Reg.JSY_ROLE_role 1).advanceRole Reg.OHP_ROLE_PART_epoch
        .next ((s3.fset Reg.JSY_STEP_step (s3.fget Reg.JSY_JOIN_step - 1)).raise 0x0781 oHub 0x1C 0)
      else if q.status == 3 then .next (s2.raise 0x0782 oHub 0x1C 0)
      else .next s2

end Sys2Proof.Machine
end

