-- ==== Sys2Proof/Machine/Instance.lean ====
section
/-! DEFINITION. Graph instances: their release (R145, R227, R514), their retirement (R433), and what a retirement brings: the commit or roll-back of a
serving step, a job step's boundary (R518, R522) and result streams (R378). -/

namespace Sys2Proof.Machine

/-- Role of the part in its group: 3 is taken as 0 (Table 18.10). -/
def State.jsyRole (s : State) : Nat := s.fget Reg.JSY_ROLE_role % 3

/-- Is instance `j` of a graph due and allowed (R141, R142, R145, R186, R467, R514)? -/
def State.mayRelease (s : State) (g : GraphRec) (j : Nat) : Bool :=
  s.releases && s.runsNow g && decide (j < g.reps) && !s.plan.preempted.contains g.id && !s.plan.lost.contains g.part
    && !(s.inst g.id j).released && decide (s.plan.start + instRelease g j ≤ s.now) && !(g.gkind == 2 && s.jsyRole == 2)

/-- An instance is released (R145): a serving step is opened, a job step takes the next number. -/
def State.releaseInst (s : State) (g : GraphRec) (j : Nat) : State :=
  let step := if g.gkind == 2 then (s.fget Reg.JSY_STEP_step + 1) % 2 ^ 64 else 0
  let s1 := if g.gkind == 2 then s.fset Reg.JSY_STEP_step step else s
  let x := { s1.inst g.id j with
    released := true, at_ := s1.plan.start + instRelease g j, period := s1.fget Reg.PLN_PERIOD_CNT_count, step := step }
  let s2 := s1.setInst g.id j x
  match s2.kvRec g.part with
  | some r => if g.gkind == 1 then s2.kvRelease r g.id j else s2
  | none => s2

/-- INSTANCE_RELEASE (R145): instance `j` of graph `g` reaches its release time. -/
def execInstanceRelease (g j : Nat) (s : State) : Host.Outcome State Fault Refusal :=
  match s.graph? g with
  | some x => if s.mayRelease x j then .next (s.releaseInst x j) else .next s
  | none => .next s

/-- The next block of an entry, with whether it may not leave: its check value is wrong or it cannot be read (R368). -/
def State.entryBlock (s : State) (a : Addr) (ecc : Nat) : State × (List Byte × Bool) :=
  match s.readBlocks [a] [ecc] with
  | (s1, some (bs, bad)) => (s1, bs, bad)
  | (s1, none) => (s1, List.replicate 256 0, true)

/-- The blocks of an entry read in order. -/
def State.entryBlocks (s : State) (a : Addr) (ecc : List Nat) : Nat → State × List (List Byte × Bool)
  | 0 => (s, [])
  | n + 1 =>
    let (s1, b) := s.entryBlock a (nth 0 ecc 0)
    let (s2, bs) := s1.entryBlocks (a + 256) (ecc.drop 1) n
    (s2, b :: bs)

/-- A message leaves on each port of a result stream under one sequence number. -/
def State.sendOn (s : State) (ports : List Nat) (m : OhpMsg) (pcp : Nat) (bad copies : Bool) : State :=
  let seq := s.ohp.seq
  let s1 := { s with ohp := { s.ohp with seq := (seq + 1) % 65536 } }
  ports.foldl (fun (s : State) (p : Nat) =>
    let m1 := { s.stamped { m with port := p, seq := seq } with pcp := pcp }
    if bad then (s.egressFail p).sendOr copies (.ohpBad m1) else s.sendOr copies (.ohp m1)) s1

/-- Fragments of an entry that are still to go (R378, R368): after a bad one the rest is withheld. -/
def State.sendFrags (s : State) (send : State → Nat → Nat → List Byte → Bool → State) (data : List Byte) (bad : List Bool) (room : Nat)
    (failed : Bool) : Nat → Nat → State
  | 0, _ => s
  | n + 1, off =>
    let bs := (data.drop off).take room
    let hit := (List.range bad.length).any fun b => nth false bad b && decide (b * 256 < off + bs.length) && decide (off < b * 256 + 256)
    let last := b2n (n == 0)
    let s1 := if failed then send s (1 + 2 * last) off [] false else send s (2 * last) off bs hit
    s1.sendFrags send data bad room (failed || hit) n (off + bs.length)

/-- One result stream sends the entry of an instance that retires (R378); `held`: a task of it had its outputs withheld. -/
def State.sendResult (s : State) (k g j : Nat) (x : InstRun) (held : Bool) (ecc : List Nat) (copies : Bool) : State :=
  let size := s.fget (Reg.OHP_RES0_entry_blocks k) * 256
  let frer := s.flag (Reg.OHP_RES0_frer k)
  let ports := if frer then [0, 1] else [s.fget (Reg.OHP_RES0_port k)]
  let room := (ports.map fun p => s.ohpRoom p false).foldl min 65535 - 32 - (if frer then 6 else 0)
  let head (flags off : Nat) : List Byte :=
    leBytes 1 k ++ leBytes 1 flags ++ leBytes 1 g ++ leBytes 1 (j % 64) ++ leBytes 4 off ++ leBytes 8 x.period ++ leBytes 8 x.at_
      ++ leBytes 4 size ++ leBytes 4 0
  let send (s : State) (flags off : Nat) (bs : List Byte) (bad : Bool) : State :=
    let m : OhpMsg := {
      mac := s.fget (Reg.OHP_RES10_mac k), vlan := s.fget (Reg.OHP_RES10_vlan k), typ := 0x10, dstPart := 0xFFFF, unit := 0x300 + k,
      role := s.fget (Reg.OHP_ROLE_R_epoch k), payload := head flags off ++ bs }
    s.sendOn ports m (s.fget (Reg.OHP_RES10_pcp k)) bad copies
  if held then send s 3 0 [] false
  else
    let (s1, bs) := s.entryBlocks (s.fget (Reg.OHP_RES8_base k) + j % 64 * size) ecc (size / 256)
    s1.sendFrags send (bs.flatMap (·.1)) (bs.map (·.2)) room false (max 1 (ceilDiv size (max 1 room))) 0

/-- Every result stream of the graph sends (R378, R467). -/
def State.sendResults (s : State) (g j : Nat) (x : InstRun) (held : Bool) (ecc : List Nat) (copies : Bool) : State :=
  if s.safe || !s.flag Reg.OHP_CTRL_en || s.saf.ohpOff || s.pow.phase != .running then s
  else (List.range 16).foldl (fun (s : State) (k : Nat) =>
    if s.flag (Reg.OHP_RES0_en k) && s.fget (Reg.OHP_RES0_graph k) == g && !s.ohp.held.contains k then
      s.sendResult k g j x held ecc copies else s) s

/-- Task instances of a graph instance. -/
def State.runsOf (s : State) (g j : Nat) : List TaskRun := s.allRuns.filter fun r => r.graph == g && r.inst == j

/-- Has a task of an instance had its outputs withheld (R184, R434, R556)? -/
def State.instHeld (s : State) (g j : Nat) : Bool :=
  (s.inst g j).withheld || (s.runsOf g j).any fun r => r.withheld || r.st == .aborted

/-- An instance retires (R242, R378, R433, R518, R522). -/
def State.retireInst (s : State) (g j : Nat) (ecc : List Nat) (copies : Bool) : State :=
  let x := s.inst g j
  let held := s.instHeld g j
  let s1 := (s.setInst g j { x with retired := true, withheld := held }).kvRetire g j (!held)
  let s2 := if x.step == 0 then s1 else
    (if s1.isMaster then (s1.checkpoint x.step).judgeJoins copies else s1.checkpoint x.step)
  s2.sendResults g j x held ecc copies

/-- May an instance retire (R433): every task has ended, and no tile of it awaits a verdict? -/
def State.mayRetire (s : State) (g j : Nat) : Bool :=
  let mine (x : Tile) : Bool := x.graph == g && x.inst == j
  (s.inst g j).released && !(s.inst g j).retired && (s.runsOf g j).all (fun r => r.done)
    && !s.dies.any fun t => (s.tiles t).any mine || (match smGet none s.chk.charge t with | some x => mine x | none => false)

/-- INSTANCE_RETIRE (R433): instance `j` of graph `g` retires; `ecc`: what the bulk tier's checker finds at the blocks of its entry. -/
def execInstanceRetire (g j : Nat) (ecc : List Nat) (copies : Bool) (s : State) : Host.Outcome State Fault Refusal :=
  if s.mayRetire g j then .next (s.retireInst g j ecc copies) else .next s

end Sys2Proof.Machine
end

