-- ==== Sys2Proof/Machine/Boundary.lean ====
section
/-! DEFINITION. Boundaries: the plan-period boundary with the order of Table 5.10 (R159, R192, R193), the logical maps and columns that take effect at
it (R63, R88, R436), and the instant boundary (R308–R311). -/

namespace Sys2Proof.Machine

/-! ### The plan in force -/

/-- Place of the admitted plan of a kind: 0 normal, 1 the die-loss fallback of a die, 2 the pace-alarm fallback. -/
def State.planOf (s : State) (kind die : Nat) : Option Nat :=
  (List.range s.plan.plans.length).find? fun i => match s.plan.plans[i]? with
    | some r => r.plan.kind == kind && (kind != 1 || r.plan.lostDie == die)
    | none => false

/-- Dies that are fenced, in reset or rejoining. -/
def State.fencedDies (s : State) : List Nat := s.dies.filter fun t => s.dieState t != 1

/-- Pace-alarm fallback or normal plan, by the alarm (Table 6.8). -/
def State.byAlarm (s : State) : Option Nat :=
  if s.inAlarm && s.flag Reg.PACE_CTRL_alarm_fallback then s.planOf 2 0 else s.planOf 0 0

/-- The plan that a row of Table 6.8 puts in force; none: no change. -/
def State.switchTo (s : State) (row : Nat) : Option Nat :=
  match row with
  | 1 => match s.fencedDies with
    | t :: _ => s.planOf 1 t
    | [] => s.byAlarm
  | 2 => s.planOf 1 (nth 0 s.plan.lossDue 0)
  | 4 => s.byAlarm
  | 5 => s.planOf 2 0
  | 6 => s.planOf 0 0
  | _ => none

/-- Partitions of a plan that are lost from the boundary at which it comes into force (R142). -/
def State.lostAtStart (s : State) (p : Plan) : List Nat :=
  (p.parts.filter fun x => x.dies.any fun d =>
    s.dieState d.die != 1 || (List.range 8).any fun c => bit d.chanMask c && s.chanFailed d.die c).map (·.part)

/-- Tasks that have not ended are aborted at a boundary (R160): 0x2185, counted. -/
def State.abortAll (s : State) : State :=
  (s.allRuns.filter (·.live)).foldl (fun (s : State) (r : TaskRun) =>
    ((s.raiseTask 0x2185 r).count Reg.PLN_CNT_ABORT_count 1).abort r) s

/-- Instances with an aborted task whose tasks have all ended retire at once (R160). -/
def State.retireAborted (s : State) (f : Nat → Bool) (copies : Bool) : State :=
  (s.insts.filter fun e => f (e.1 % 128)).foldl (fun (s : State) (e : Nat × InstRun) =>
    let g := e.1 / 128
    let j := e.1 % 128
    if e.2.released && !e.2.retired && (s.runsOf g j).any (fun r => r.st == .aborted) && (s.runsOf g j).all (fun r => r.done) then
      s.retireInst g j [] copies else s) s

/-- Submitted graphs that await a boundary are refused with 0x11 when the plan in force changes (R190); those that have entered the outgoing plan go
with it. -/
def State.refuseSubmitted (s : State) (copies : Bool) : State :=
  let s1 := s.plan.queued.foldl (fun (s : State) (x : Submitted) => s.verdict x.req { code := 0x11, graph := x.graph.id } copies) s
  let s2 := s.plan.accepted.foldl (fun (s : State) (x : Submitted) =>
    ((s.setLast { code := 0x11, graph := x.graph.id }).count Reg.ADM_CNT_REJECT_count 1).raise 0x01C2 oHub 0x10 0) s1
  { s2 with plan := { s2.plan with queued := [], accepted := [], entered := [], preempted := [], preemptPend := [], resumePend := [] } }

/-- A plan comes into force (R142, R193, R250): its registers, its lost partitions, the role epochs of its partitions, its KV state. -/
def State.bringIn (s : State) (i : Nat) (first : Bool) : State :=
  match s.plan.plans[i]? with
  | none => s
  | some r =>
    let lost := s.lostAtStart r.plan
    let s1 := { s with plan := { s.plan with cur := some i, lost := lost } }
    let s2 := s1.fset Reg.PLN_STATUS_plan_id r.plan.planId
    let s3 := ((s2.fset Reg.PLN_STATUS_kind r.plan.kind).fset Reg.PLN_STATUS_lost_die r.plan.lostDie).fset Reg.PLN_STATUS_running 1
    let s4 := s3.fset Reg.PLN_PERIOD_period_us r.plan.periodUs
    let s5 := if first then (s4.fset Reg.PLN_STATUS_mode r.plan.initMode).fset Reg.PLN_MODE_REQ_mode r.plan.initMode else s4
    let s6 := (r.plan.parts.filter fun x => !first || lost.contains x.part).foldl (fun (s : State) (x : PartRec) =>
      s.advanceRole (Reg.OHP_ROLE_P_epoch x.part)) s5
    r.serving.foldl (fun (s : State) (k : KvRec) => s.kvInit k) s6.kvNone

/-- Step 1 of Table 5.10: the switch or return that is due is made (R192, R193). -/
def State.makeSwitch (s : State) (copies : Bool) : State :=
  let row := s.switchRow
  let s0 := { s with plan := { s.plan with lossDue := [], quiet := s.quietNow, alarmSeen := s.inAlarm } }
  match s.switchTo row with
  | none => if row == 3 then s0.raise 0x31CB oHub 0x10 0 else s0
  | some i =>
    if row == 1 then s0.bringIn i true
    else
      let s1 := ((s0.abortAll).retireAborted (fun _ => true) copies).refuseSubmitted copies
      let s2 := match s1.planRec with
        | some r => r.serving.foldl (fun (s : State) (k : KvRec) => s.kvDiscard k) s1
        | none => s1
      let s3 := (s2.bringIn i false).count Reg.ADM_CNT_FB_count 1
      if row == 4 || row == 6 then (s3.raise 0x01C9 oHub 0x10 0).fset Reg.ADM_FB_CTRL_return_req 0 else s3.raise 0x01C8 oHub 0x10 0

/-- Steps 2 and 3: the mode request is judged, and a change is made (R136, R160, R161, R250). -/
def State.judgeMode (s : State) (copies : Bool) : State :=
  match s.planRec with
  | none => s
  | some r =>
    let m := bits (s.stagedValue Reg.PLN_MODE_REQ) 4 0
    let s1 := s.unstage Reg.PLN_MODE_REQ
    if m == s.mode then (s1.fset Reg.PLN_MODE_REQ_mode m).showPending
    else if !bit (nth 0 r.plan.trans s.mode) m then
      (((s1.fset Reg.PLN_MODE_REQ_mode s.mode).raise 0x0183 oHub uNone 0).count Reg.PLN_CNT_MODE_DISC_count 1).showPending
    else
      let moved := r.plan.parts.filter fun x => nth 0xFF x.models m != nth 0xFF x.models s.mode
      let s2 := (s1.abortAll).retireAborted (fun _ => true) copies
      let s3 := ((s2.fset Reg.PLN_MODE_REQ_mode m).fset Reg.PLN_STATUS_mode m).showPending
      let s4 := (s3.raise 0x0184 oHub uNone 0).count Reg.PLN_CNT_MODE_count 1
      moved.foldl (fun (s : State) (x : PartRec) =>
        let s5 := s.advanceRole (Reg.OHP_ROLE_P_epoch x.part)
        match s5.kvRec x.part with
        | some k => s5.kvDiscard k
        | none => s5) s4

/-! ### Entry lists (R150) -/

/-- The entry lists of tasks, as placed, written into local stores and shared stores. -/
def State.layLists (s : State) (placed : List Placed) (lists : List ListCopy) (graphs : List GraphRec) : State :=
  placed.foldl (fun (s : State) (q : Placed) =>
    match (graphs.find? fun g => g.id == q.graph).bind (fun g => g.tasks[q.task]?),
          lists.find? fun l => l.graph == q.graph && l.task == q.task with
    | some d, some l =>
      let bs := sliceB l.bytes 0 (listBytes d)
      if q.exec < 16 then
        let e := s.physOf q.die q.exec
        if e < 18 && s.dom q.die e != 0 then s.stPut q.die e (d.listBlk * 256) bs else s
      else if q.exec < 33 then s.putShared q.die d.listBlk bs
      else s
    | _, _ => s) s

/-- Step 4: submitted graphs that admission has accepted enter (R190), each in the place of an earlier one of its id. -/
def State.enterGraphs (s : State) : State :=
  let new := s.plan.accepted
  let old := s.plan.entered.filter fun x => !new.any fun y => y.graph.id == x.graph.id
  let s1 := { s with plan := { s.plan with entered := old ++ new, accepted := [] } }
  new.foldl (fun (s : State) (x : Submitted) => s.layLists x.placed x.lists [x.graph]) s1

/-! ### Engines -/

/-- ENG_STATUS.state of an engine that is neither quarantined nor retired, by the map in force, its domain and its ports. -/
def State.idleState (s : State) (t e : Nat) : Nat :=
  if (s.logicalOf t e).isNone then 6
  else if (s.unitRun? t e).isSome || (s.moveRun? t e).isSome then 2
  else if s.dom t e == 2 then 1 else if s.dom t e == 1 then 3 else 0

/-- The staged map of a die names an engine twice, or names a retired one (R63). -/
def State.badMap (s : State) (t : Nat) : Bool :=
  let is := List.range 16
  is.any fun i => let e := s.stagedPhys t i
    decide (e < 18) && (is.any (fun k => decide (k < i) && s.stagedPhys t k == e) || s.engState t e == 5)

/-- A die's staged map takes effect (R63, R508, R558): engines that leave the map become spares, engines that enter it have entry lists copied. -/
def State.takeMap (s : State) (t : Nat) : State :=
  let s1 := (s.applyStaged (Reg.ENG_LMAP_0 t)).applyStaged (Reg.ENG_LMAP_1 t)
  let left := (List.range 18).filter fun e => (s.logicalOf t e).isSome && (s1.logicalOf t e).isNone
  let new := (List.range 18).filter fun e => (s1.logicalOf t e).isSome && s1.logicalOf t e != s.logicalOf t e
  let s2 := (s1.allRuns.filter fun r => r.die == t && r.exec < 32 && r.st == .running && left.contains r.phys).foldl
    (fun (s : State) (r : TaskRun) => s.abort r) s1
  let s3 := (List.range 18).foldl (fun (s : State) (e : Nat) =>
    s.showEng t e (if s.engState t e == 4 || s.engState t e == 5 then s.engState t e else s.idleState t e)) s2
  let s4 := new.foldl (fun (s : State) (e : Nat) => s.beginCopy t e) s3
  let s5 := { s4 with
    chk := { s4.chk with lmapAt := smPut 0 s4.chk.lmapAt t 0 }
    hlt := { s4.hlt with chkStaged := s4.hlt.chkStaged.filter fun k => k / 16 != t } }
  s5.swapsDone s t

/-- Is a map staged for a die, and 20 µs old (R63)? -/
def State.mapStaged (s : State) (t : Nat) : Bool :=
  smGet {} s.staged (Reg.ENG_LMAP_0 t) != {} || smGet {} s.staged (Reg.ENG_LMAP_1 t) != {}
def State.mapDue (s : State) (t : Nat) : Bool := s.mapStaged t && decide (smGet 0 s.chk.lmapAt t + 20000 ≤ s.now)

/-- The map of a die at the boundary: taken, discarded with 0x008A, or held. -/
def State.mapAtBoundary (s : State) (t : Nat) : State :=
  if !s.mapDue t then s
  else if s.badMap t then
    let s1 := ((s.unstage (Reg.ENG_LMAP_0 t)).unstage (Reg.ENG_LMAP_1 t)).raise 0x008A t uNone 0
    { s1 with hlt := { s1.hlt with chkStaged := s1.hlt.chkStaged.filter (fun k => k / 16 != t), swapPend := smPut 0 s1.hlt.swapPend t 0 } }
  else s.takeMap t

/-- Partitions of the plan in force, not yet lost, that own a logical engine of a die. -/
def State.engOwners (s : State) (t i : Nat) : List Nat :=
  match s.planRec with
  | none => []
  | some r => (r.plan.parts.filter fun x => !s.plan.lost.contains x.part &&
      match x.on t with | some d => bit d.engMask i | none => false).map (·.part)

/-- A logical engine that is unmapped at a boundary, or mapped to an engine out of use with no replacement staged and none to be had, is lost with
the partitions that own it, if any: 0x35CC, at each boundary that finds it so (R63, R436, log entry 76). -/
def State.judgeLogical (s : State) (t i : Nat) : State :=
  let e := s.physOf t i
  let dead := decide (e < 18) && (s.engState t e == 4 || s.engState t e == 5)
  if 18 ≤ e || (dead && s.stagedPhys t i == e && (s.bestSpare t).isNone) then
    ((s.engOwners t i).foldl (fun (s : State) (p : Nat) => s.losePart p) s).raise 0x35CC t (if e < 18 then e else uNone) 0
      |>.captureChk t 0x35CC (min e 31) 0 0 0
  else if dead && s.stagedPhys t i == e then s.remap t e
  else s

/-- Columns marked as failed since the last boundary take effect on an engine, whether a staged write or a configuration record set their bits
(R88, R99, R397): 0x1088 each; more than three retire it. At one boundary the map comes first (log entry 92). -/
def State.colsAtBoundary (s : State) (t e : Nat) : State :=
  let a := Reg.ENG_COL_FAIL t e
  let b := Reg.ENG_COL_FAIL_HI t e
  let old := s.bornCols t e ||| smGet 0 s.chk.colsSeen (engKey t e)
  let all := s.stagedCols t e
  let new := (setBits 68 all).filter fun c => !bit old c
  if new.isEmpty then (s.unstage a).unstage b
  else
    let s1 := (((s.unstage a).unstage b).wr a (BitVec.ofNat 64 (all % 2 ^ 64))).wr b (BitVec.ofNat 64 (all / 2 ^ 64))
    let s2 := (s1.showEng t e (s1.engState t e))
    let s3 := { s2 with chk := { s2.chk with
      cols := smPut 0 s2.chk.cols (engKey t e) all, colsSeen := smPut 0 s2.chk.colsSeen (engKey t e) all, burnPend := s2.chk.burnPend ++ new.map fun c => (engKey t e, c) } }
    let s4 := new.foldl (fun (s : State) (_ : Nat) => s.raise 0x1088 t e 0) s3
    if popcount 68 all ≤ 3 || popcount 68 old > 3 then s4
    else (((s4.raise 0x2089 t e 0).captureUnit (Reg.ENG_ERR t e) 0x2089 0 0).retire t e).remap t e

/-- The audit engine of a die is chosen again (R431, R433): its lowest-numbered SPARE, which first runs the beacon program on itself; with none audit
stops. -/
def State.chooseAudit (s : State) (t : Nat) : State :=
  let want := s.flag Reg.CHK_CTRL_audit_en && !bit s.saf.auditOff t
  let old := s.auditEng? t
  match want, s.spares t with
  | true, e :: _ =>
    let s1 := (s.fset (Reg.CHK_STATUS_audit_eng t) e).fset (Reg.CHK_STATUS_audit_on t) 1
    let s2 := { s1 with chk := { s1.chk with
      selfPend := withOnce t s1.chk.selfPend, stopSeen := without t s1.chk.stopSeen
      charge := if old == some e then s1.chk.charge else smPut none s1.chk.charge t none } }
    let s3 := if s2.dom t e == 2 then s2.startBeacon t e else s2.startWake t e
    s3.sleepUnnamed t
  | true, [] =>
    let s1 := s.fset (Reg.CHK_STATUS_audit_on t) 0
    let s2 := { s1 with chk := { s1.chk with selfPend := without t s1.chk.selfPend, charge := smPut none s1.chk.charge t none } }
    if s2.chk.stopSeen.contains t then s2
    else { s2 with chk := { s2.chk with stopSeen := withOnce t s2.chk.stopSeen } }.raise 0x05CA t uNone 0
  | false, _ =>
    let s1 := s.fset (Reg.CHK_STATUS_audit_on t) 0
    ({ s1 with chk := { s1.chk with selfPend := without t s1.chk.selfPend } }).sleepUnnamed t

/-- The engines of a die at the boundary: map, columns, loss of logical engines, audit engine. -/
def State.enginesAtBoundary (s : State) (t : Nat) : State :=
  if !s.dieUp t then s
  else
    let s1 := (List.range 18).foldl (fun (s : State) (e : Nat) => s.colsAtBoundary t e) (s.mapAtBoundary t)
    let s2 := (List.range 16).foldl (fun (s : State) (i : Nat) => s.judgeLogical t i) s1
    (s2.chooseAudit t).showSpares t

/-! ### Registers -/

/-- Staged registers of the blocks whose boundary is the plan-period boundary take their values (R407), but for the maps that R63 still holds and for the
columns, which take effect engine by engine (R88). -/
def State.applyPeriod (s : State) : State :=
  let s1 := (List.range 6).foldl (fun (s : State) (p : Nat) => s.takeGcl p) s
  let held (a : Addr) : Bool := s1.dies.any fun t => a == Reg.ENG_LMAP_0 t || a == Reg.ENG_LMAP_1 t
  (s1.staged.map Prod.fst).foldl (fun (s : State) (a : Addr) =>
    if instantBlock (addrBlock a) || held a || (colOf a).isSome then s else s.applyStaged a) s1

/-- BWR_BUD shows the budgets of the plan in force (R220). -/
def State.showBudgets (s : State) : State :=
  s.dies.foldl (fun (s : State) (t : Nat) => (List.range 8).foldl (fun (s : State) (p : Nat) =>
    s.wr (Reg.BWR_BUD t p) (match (s.slotPart t p).bind fun x => x.on t with
      | some d => BitVec.ofNat 64 (d.budNear + d.budShared * 2 ^ 16 + d.budRemote * 2 ^ 32 + d.budBulk * 2 ^ 48)
      | none => 0)) s) s

/-- Result streams at the boundary (R374, R387): a changed configuration advances the role epoch; an invalid one is held off with 0x04C1. -/
def State.judgeResults (s old : State) (first : Bool) : State :=
  (List.range 16).foldl (fun (s : State) (k : Nat) =>
    let words (x : State) : List Word := [x.rd (Reg.OHP_RES0 k), x.rd (Reg.OHP_RES8 k), x.rd (Reg.OHP_RES10 k)]
    let changed := words s != words old
    let base := s.fget (Reg.OHP_RES8_base k)
    let port := s.fget (Reg.OHP_RES0_port k)
    let bad := s.flag (Reg.OHP_RES0_en k) && (base < 0x004000000000 || s.bulkEnd ≤ base || 5 < port
      || (s.flag (Reg.OHP_RES0_frer k) && 1 < port))
    let s1 := if changed then s.advanceRole (Reg.OHP_ROLE_R_epoch k) else s
    let s2 := { s1 with ohp := { s1.ohp with held := if bad then withOnce k s1.ohp.held else without k s1.ohp.held } }
    if bad && (changed || first) then s2.raise 0x04C1 oHub 0x14 0 else s2) s

/-- The part's place in its group at the boundary (R513, R521). -/
def State.judgeRole (s old : State) (first : Bool) : State :=
  let same := s.fget Reg.JSY_ROLE_part_index == old.fget Reg.JSY_ROLE_part_index && s.fget Reg.JSY_ROLE_role == old.fget Reg.JSY_ROLE_role
  let s1 := if same then s else s.advanceRole Reg.OHP_ROLE_PART_epoch
  if s1.jsyRole == 2 && (first || old.jsyRole != 2) then s1.askTwin else s1

/-- A hub window whose limits cannot be judged (R475): 0x2645, captured; its `why` is open (log entry 105). -/
def State.windowUnsound (s : State) (w : Nat) : State :=
  let (n, s1) := s.draw
  (s1.capture Reg.WDG_HUB_ERR (w + bits (Config.hazyByte n 0).toNat 1 0 * 2 ^ 6)).raise 0x2645 oHub uNone w

/-- Hub windows whose limits cannot be judged are reported when they take effect (R475). -/
def State.judgeWindows (s old : State) (first : Bool) : State :=
  (List.range 62).foldl (fun (s : State) (i : Nat) =>
    let w := i + 2
    let fresh := first || [Reg.WDG_HUB w, Reg.WDG_HUB w + 4].any fun a => smGet {} old.staged a != {}
    if fresh && s.flag (Reg.WDG_HUB_en w) && !s.hubSane w then s.windowUnsound w else s) s

/-- What is kept per period begins anew. -/
def State.clearPeriod (s : State) : State :=
  { s with
    saf := { s.saf with kicked := s.saf.kicked.filter (fun w => w < 2), closed := s.saf.closed.filter (fun w => w < 2) }
    chk := { s.chk with lateLast := s.chk.lateNow, lateNow := [], skipSeen := [], restart := [] } }

/-- Step 5: resumes take effect (R189), the frozen schedule of the new period starts. Graphs are not released in the device safe state. -/
def State.openPeriod (s : State) (at_ : Time) (copies : Bool) : State :=
  let s1 := s.plan.resumePend.foldl (fun (s : State) (g : Nat) =>
    { s with plan := { s.plan with preempted := without g s.plan.preempted } }.raise 0x01CC oHub 0x10 0) s
  let s2 := { s1 with plan := { s1.plan with resumePend := [] } }.showPreempt
  let s3 := (s2.allRuns.filter fun r => 64 ≤ r.inst).foldl (fun (s : State) (r : TaskRun) => s.abort r) s2
  let s4 := (s3.retireAborted (fun j => 64 ≤ j) copies).carryOver
  let s5 := { s4 with plan := { s4.plan with start := at_ } }.count Reg.PLN_PERIOD_CNT_count 1
  if s5.safe then s5 else s5.loadPeriod

/-! ### Instants -/

/-- A staged TRK_CTRL that breaks R311 is not taken: 0x240B. -/
def State.judgeTrkCtrl (s : State) : State :=
  let v := s.stagedValue Reg.TRK_CTRL
  let at_ := bits v Reg.TRK_CTRL_trk_at_us.hi Reg.TRK_CTRL_trk_at_us.lo
  let lag := bits (s.stagedValue Reg.ING_CTRL) Reg.ING_CTRL_pick_lag_us.hi Reg.ING_CTRL_pick_lag_us.lo
  if smGet {} s.staged Reg.TRK_CTRL == {} then s
  else if s.fget Reg.FUS_CTRL_instant_us < at_ + 2000 || at_ < lag then (s.unstage Reg.TRK_CTRL).trkEvent 0x240B 0
  else s

/-- Tracks of classes whose model has changed are deleted; their slots are free at the end of the instant that begins (R332). -/
def State.dropClasses (s old : State) : State :=
  let gone := (List.range 64).filter fun c => s.clsModel c != old.clsModel c
  let hit := s.trk.tracks.filter fun x => gone.contains x.cls
  hit.foldl (fun (s : State) (x : Track) => (({ s := s } : Upd).delete x.slot).s)
    { s with trk := { s.trk with freed := hit.map (·.slot) } }

/-- The CSI-2 domains follow the sensors enabled on their ports (R496). -/
def State.csiDomains (s : State) : State :=
  [0, 1].foldl (fun (s : State) (k : Nat) =>
    let used := (List.range 64).any fun n => s.flag (Reg.ING_SENSOR00_en n) && !s.flag (Reg.ING_SENSOR00_src n)
      && s.fget (Reg.ING_SENSOR00_port n) / 8 == k
    if used then s.startHubWake (17 + k)
    else if s.hubDom (17 + k) == 2 then s.fset (Reg.PWR_HUB_DOM_dom (17 + k)) 1 else s) s

/-- Step 1 of Table 11.1: the instant number advances; it is 0 at the first plan-period boundary (R309). -/
def State.beginInstant (s : State) (at_ : Time) : State :=
  let s1 := if s.fus.started then s.fset Reg.FUS_INSTANT_instant ((s.fget Reg.FUS_INSTANT_instant + 1) % 2 ^ 64) else s
  { s1 with
    fus := { s1.fus with start := at_, started := true }
    ing := { s1.ing with frozen := [] }
    trk := { s1.trk with freed := [] }
    saf := { s1.saf with kicked := s1.saf.kicked.filter (fun w => 2 ≤ w), closed := s1.saf.closed.filter (fun w => 2 ≤ w) } }

/-- Steps 2 and 3 of Table 11.1: staged fields of ING, PRE, FUS and TRK, then the calibration (R311–R313). `first`: of the first instant. -/
def State.takeInstant (s : State) (first : Bool) : State :=
  let s1 := s.judgeTrkCtrl.applyBlocks instantBlock
  ((((s1.ingBoundary s first).dropClasses s).calSwitch).showLoad).csiDomains

/-- When the next instant boundary is due (R308). -/
def State.instantDue (s : State) : Time :=
  if s.fus.started then s.fus.start + s.fget Reg.FUS_CTRL_instant_us * 1000 else s.plan.start

/-! ### The plan-period boundary -/

/-- Table 5.10 at the plan-period boundary at `at_` (R159). -/
def State.periodSteps (s : State) (at_ : Time) (copies : Bool) : State :=
  let first := s.plan.cur.isNone
  let s1 := s.makeSwitch copies
  let s2 := (s1.judgeMode copies).applyPeriod
  let s3 := s2.dies.foldl (fun (s : State) (t : Nat) => s.enginesAtBoundary t) s2
  let s4 := (s3.enterGraphs.clearPeriod.openPeriod at_ copies).showBudgets.showParts
  let s5 := (((s4.judgeResults s first).judgeRole s first).judgeRegions.judgeWindows s first).smplBoundary.ringsReturn
  let s6 := s5.dies.foldl (fun (s : State) (t : Nat) => (List.range 18).foldl (fun (s : State) (e : Nat) =>
    if s.dieUp t && !s.pow.copying.contains (engKey t e) then s.regate t e else s) s) s5
  { s6 with tim := { s6.tim with everBoundary := true } }.showAdm.noteUnavail

/-- The plan-period boundary at `at_`, which is an instant boundary too: the steps of Table 5.10 take place between steps 1 and 2 of Table 11.1
(R308, R310). -/
def State.periodBoundary (s : State) (at_ : Time) (copies : Bool) : State :=
  ((s.beginInstant at_).periodSteps at_ copies).takeInstant !s.fus.started

/-- When the next plan-period boundary is due: the first one as boot commit has placed it. -/
def State.periodDue (s : State) : Time := if s.plan.cur.isNone then s.plan.start else s.plan.start + s.periodNs

/-- PLAN_PERIOD_BOUNDARY (R159, R192, R310, R497): the boundary falls, an instant boundary with it; where standby has been requested it is entered in its place. -/
def execPlanPeriodBoundary (copies : Bool) (s : State) : Host.Outcome State Fault Refusal :=
  if s.pow.phase != .running || s.plan.plans.isEmpty || decide (s.now < s.periodDue) then .next s
  else if s.flag Reg.PWR_STBY_enter then .next s.enterStandby
  else .next (s.periodBoundary s.periodDue copies)

/-- INSTANT_BOUNDARY (R308–R310): an instant boundary within a plan period. The one that falls with a plan-period boundary is that command's. -/
def execInstantBoundary (s : State) : Host.Outcome State Fault Refusal :=
  if s.pow.phase != .running || !s.fus.started || decide (s.now < s.instantDue) || decide (s.periodDue ≤ s.instantDue) then .next s
  else .next ((s.beginInstant s.instantDue).takeInstant false)

end Sys2Proof.Machine
end

