-- ==== Sys2Proof/Machine/Boot.lean ====
section
/-! DEFINITION. Boot (chapter 14): the configuration image, its checks in the order of Table 14.6, the boot sequence of Table 14.9 with the
start-up injections of R461–R463, and the reload of a rejoining die (R409). -/

namespace Sys2Proof.Machine

/-! ### The image (R389–R393) -/

/-- An entry of the image's directory (Table 14.2), with its index. -/
structure Sect where
  idx : Nat
  typ : Nat
  off : Nat
  len : Nat
  digest : Nat
  resv : Bool
deriving DecidableEq, Repr

/-- Image bytes as the header says. -/
def imgSize (b : List Byte) : Nat := u b 8 4
/-- Number of sections. -/
def imgSects (b : List Byte) : Nat := u b 6 2

/-- The directory of an image. -/
def directory (b : List Byte) : List Sect :=
  (List.range (min (imgSects b) 64)).map fun i =>
    let o := 256 + 80 * i
    { idx := i, typ := u b o 1, off := u b (o + 4) 4, len := u b (o + 8) 4, digest := leNat (sliceB b (o + 16) 64),
      resv := u b (o + 1) 3 != 0 || u b (o + 12) 4 != 0 }

/-- The bytes of a section. -/
def Sect.bytes (x : Sect) (b : List Byte) : List Byte := sliceB b x.off x.len

/-- The manifest, whose digest M the signatures sign (R389). -/
def manifest (b : List Byte) : List Byte := sliceB b 0 (256 + 80 * imgSects b)

/-- The sections of a type in directory order (R390). -/
def sectsOf (b : List Byte) (typ : Nat) : List Sect := (directory b).filter fun x => x.typ == typ

/-- Check 0x01: the header and the place of the signature block. -/
def headerOk (b : List Byte) : Bool :=
  let n := imgSects b
  let size := imgSize b
  let sig := u b 0x18 4
  u b 0 4 == 0x4D49564F && u b 4 2 == 1 && decide (1 ≤ n ∧ n ≤ 64 ∧ size ≤ 2 ^ 26 ∧ 256 + 80 * n ≤ size)
    && bits (u b 0x10 1) 7 3 == 0 && bits (u b 0x13 1) 7 2 == 0 && decide (u b 0x14 1 ≤ 63) && bits (u b 0x16 1) 7 4 == 0
    && bits (u b 0x17 1) 7 4 == 0 && (sliceB b 0x1C 228).all (· == 0) && (directory b).all (fun x => !x.resv)
    && sig % 256 == 0 && decide (sig + 5376 ≤ size) && sigHeadOk (sliceB b sig 5376)

/-- Check 0x05: the part is one that the image accepts. -/
def PartCfg.accepts (c : PartCfg) (b : List Byte) : Bool :=
  let k := if c.tzCount == 2 then 0 else if c.tzCount == 4 then 1 else 2
  let p := u b 0x11 1
  bit (u b 0x10 1) k && (p == 0 || (p == 1 && c.partner) || (p == 2 && !c.partner))
    && decide (u b 0x12 1 ≤ c.stepMajor * 16 + c.stepMinor)

/-- Check 0x08 for one algorithm: the revocation names no signing slot and leaves an unrevoked programmed image slot. -/
def revokeOk (dig rol : List Nat) (revoked revoke slot : Nat) : Bool :=
  !bit revoke slot && (List.range 4).any fun i => nth 0 dig i != 0 && bit (nth 0 rol i) 0 && !bit revoked i && !bit revoke i

/-- Check 0x09: the index of the first section that lies outside the image, overlaps an earlier one or fails its digest. -/
def badSect (b : List Byte) : Option Nat :=
  let d := directory b
  (d.find? fun x =>
    x.off % 256 != 0 || decide (imgSize b < x.off + x.len)
      || d.any (fun y => decide (y.idx < x.idx) && decide (y.off < x.off + x.len) && decide (x.off < y.off + y.len))
      || Config.sha3_512 (x.bytes b) != x.digest).map (·.idx)

/-- The first verification failure of an image (R393, Table 14.6), 0 when it verifies, and the index of a failing section. -/
def State.verifyImage (s : State) (b : List Byte) : Nat × Nat :=
  let sig := sliceB b (u b 0x18 4) 5376
  let o := s.otp
  if !headerOk b then (1, 0)
  else match o.checkSigs sig 0 (leBytes 64 (Config.sha3_512 (manifest b))) with
    | 0 =>
      if !s.part.accepts b then (5, 0)
      else if u b 0x15 1 < smGet 0 o.arb (u b 0x14 1) then (6, 0)
      else if bit (u b 0x13 1) 0 && o.splitAllowed == 0 then (7, 0)
      else if !(revokeOk o.edDigest o.edRole o.edRevoked (u b 0x16 1) (u sig 4 1)
          && revokeOk o.mlDigest o.mlRole o.mlRevoked (u b 0x17 1) (u sig 5 1)) then (8, 0)
      else match badSect b with
        | some i => (9, i)
        | none => (0, 0)
    | k => (k, 0)

/-- The image in the image area. -/
def State.image (s : State) : List Byte :=
  let h := s.peek 8 s.part.imgBase 256
  s.peek 8 s.part.imgBase (min (imgSize h) (2 ^ 26))

/-- A failure that ends the boot (R394): its code, the section's index and the event it raises. -/
def State.bootFail (s : State) (code sect ev unit : Nat) : State :=
  let s1 := (s.fset Reg.BOOT_STATUS_stage 0xF).fset Reg.BOOT_STATUS_fail_code code
  (s1.fset Reg.BOOT_STATUS_fail_sect sect).raise ev oHub unit 0

/-- What a verified image leaves (R396, R402, R410, R411, Tables 14.14 and 14.15). -/
def State.verified (s : State) (b : List Byte) (second puf : Bool) : State :=
  let sig := sliceB b (u b 0x18 4) 5376
  let split := b2n (bit (u b 0x13 1) 0 && s.otp.splitAllowed == 1)
  let s1 := { s with trust := { s.trust with m := Config.sha3_512 (manifest b), flags := u b 0x13 1 } }
  let s2 := (s1.fset Reg.BOOT_STATUS_image_b (b2n second)).fset Reg.BOOT_STATUS_image_id (u b 0xC 4)
  let s3 := ((s2.fset Reg.BOOT_INFO_security_version (u b 0x15 1)).fset Reg.BOOT_INFO_arb_index (u b 0x14 1)).fset Reg.BOOT_INFO_split split
  let s4 := (s3.fset (Reg.CHK_ISL_split .hub) split).fset (Reg.CHK_ISL_split .kysta) split
  let s5 := (s4.fset Reg.SEC_STATUS_ed_slot (u sig 4 1)).fset Reg.SEC_STATUS_ml_slot (u sig 5 1)
  let s6 := (s5.fset Reg.BOOT_TIME_verify_us ((s5.now - s5.pow.relAt) / 1000)).fset Reg.BOOT_STATUS_stage 2
  let s7 := ((s6.fset Reg.SEC_STATUS_puf_ok (b2n puf)).fset Reg.SEC_STATUS_id_ready (b2n puf)).showOtp
  if puf then s7 else s7.raise 0x0583 oHub 0x19 0

/-- Blocks whose check-value generators disagree are poisoned (R420). -/
def State.poisonAt (s : State) (as_ : List Addr) : State :=
  as_.foldl (fun (s : State) (a : Addr) => match s.locate (s.target 8 a) with
    | some l => (s.raise 0x25C4 oHub uNone 0).locSetChk l 0xFFFFFFFF
    | none => s) s

/-- Step 3 for one image (R393, R394): image A first, image B after A has failed. -/
def State.checkImage (s : State) (flash : List Byte) (puf : Bool) (gen : List Nat) : State :=
  let second := s.fget Reg.BOOT_STATUS_stage == 1
  let b := sliceB flash 0 (max 256 (min (imgSize flash) (2 ^ 26)))
  let s1 := (s.poke 8 0x20 s.part.imgBase b).poisonAt (gen.map fun i => s.part.imgBase + 256 * i)
  let r := s1.verifyImage b
  if r.1 == 0 then s1.verified b second puf
  else if second then s1.bootFail r.1 r.2 0x4542 uNone
  else (((s1.fset Reg.BOOT_STATUS_fail_a r.1).fset Reg.BOOT_STATUS_fail_sect r.2).fset Reg.BOOT_STATUS_stage 1).raise 0x0541 oHub uNone 0

/-! ### Interleave keys (R208) -/

/-- One key is drawn, as key `i` of `mem.keys`. -/
def State.drawKey (s : State) (i : Nat) : State :=
  let (d, s1) := s.draw
  { s1 with mem := { s1.mem with keys := smPut 0 s1.mem.keys i (Config.trng d % 2 ^ 64) } }

/-- What the check values of a die's channels come to when its key of DRAM changes from `old` to `new` (R207, R553): data and check values stay at
their places, but the place of data block g and that of the check block that holds its check value are other ones now. -/
def State.rekey (s : State) (die old new : Nat) : State :=
  let nd := s.part.dataBlocks die
  let home (k k' p : Nat) : Nat :=
    let g := chanBlock k' (p % 2 ^ 26)
    let gc := chanBlock k (chanBlock k' (nd + g / 64)) - nd
    p / 2 ^ 26 * 2 ^ 26 + chanBlock k (gc * 64 + g % 64)
  let data (p : Nat) : Nat := crc32c (smGetBytes s.dram (p * 256) 256)
  let mine := (s.dram.map (fun (e : Nat × Byte) => e.1 / 256) ++ s.dramErr.map Prod.fst).filter fun p => p / 2 ^ 29 == die && decide (p % 2 ^ 26 < nd)
  let hit := (mine ++ mine.map (home new old)).foldl (fun (acc : List Nat) p => withOnce p acc) []
  { s with dramErr := hit.foldl (fun m p =>
      let q := home old new p
      smPut 0 m p (data q ^^^ smGet 0 s.dramErr q ^^^ data p)) s.dramErr }

/-- Key `i`, of the DRAM of `die`, is drawn. -/
def State.drawDramKey (s : State) (i die : Nat) : State :=
  let s1 := s.drawKey i
  s1.rekey die (s.key i) (s1.key i)

/-- The two keys of a die are drawn; the number of draws is counted. -/
def State.drawDieKeys (s : State) (t : Nat) : State :=
  ((s.drawDramKey t t).drawKey (8 + t)).countWrap (Reg.MEM_STATUS_key_epoch (.die t)) 1

/-- The keys are drawn with the plans of the image; the image keeps its addresses. -/
def State.drawKeys (s : State) (img : List Byte) : State :=
  let s1 := s.dies.foldl (fun s t => s.drawDieKeys t) s
  ((s1.drawDramKey 16 8).countWrap (Reg.MEM_STATUS_key_epoch .hub) 1).poke 8 0x20 s.part.imgBase img

/-! ### Configuration records (R397) -/

/-- The bits of a register that software may write: RW, STG and LCK. -/
def RegDef.soft (d : RegDef) : Nat := d.rw ||| d.stg ||| d.lck

/-- The window, block and offset that a record names, for die `t` where it names one. -/
def recordAddr (w0 : Nat) (w : Win) : Option (RegDef × Addr) :=
  let blk := bits w0 5 0
  let off := bits w0 31 16
  let a := w.blk blk + off
  match csrPlace a, regAt a with
  | some (w', blk', off'), some (d, key, upper) =>
    if w' == w && blk' == blk && off' == off && !upper && d.wide == bit w0 11 then some (d, key) else none
  | _, _ => none

/-- The windows a record names on this part; none: `where` or `die` names an absent die. -/
def PartCfg.recordWins (c : PartCfg) (w0 : Nat) : Option (List Win) :=
  match bits w0 7 6 with
  | 0 => some [.hub]
  | 1 => if bits w0 10 8 < c.tzCount then some [.die (bits w0 10 8)] else none
  | 2 => some ((List.range c.tzCount).map .die)
  | _ => some [.kysta]

/-- One record: the registers it writes, or none where it is invalid. -/
def PartCfg.record (c : PartCfg) (r : List Byte) : Option (List (Addr × RegDef × Nat)) :=
  let w0 := u r 0 8
  let v := u r 8 8
  if bits w0 15 12 != 0 || bits w0 63 32 != 0 || (!bit w0 11 && bits v 63 32 != 0) || bits w0 5 0 == 0x15 || bits w0 5 0 == 0x16 then none
  else match c.recordWins w0 with
    | none => none
    | some ws => ws.foldr (fun w acc => match acc, recordAddr w0 w with
        | some xs, some (d, a) =>
          if d.soft == 0 || v &&& (2 ^ 64 - 1 - (d.soft ||| d.w1c)) != 0 then none else some ((a, d, v) :: xs)
        | _, _ => none) (some [])

/-- A record writes the value in effect of the register it names. A column that is marked as failed stays so, and one that a record marks stays
so until the next power-on (R99). -/
def State.putRecord (s : State) (x : Addr × RegDef × Nat) : State :=
  let old := (s.rd x.1).toNat
  match colOf x.1 with
  | some (t, e, hi) =>
    let k := engKey t e
    let s1 := s.wr x.1 (BitVec.ofNat 64 (old ||| (x.2.2 &&& x.2.1.soft)))
    let kept := smGet 0 s1.chk.cols k ||| ((x.2.2 &&& x.2.1.soft) * (if hi then 2 ^ 64 else 1))
    { s1 with chk := { s1.chk with cols := smPut 0 s1.chk.cols k kept } }
  | none =>
    let s1 := s.wr x.1 (BitVec.ofNat 64 ((old &&& (2 ^ 64 - 1 - x.2.1.soft)) ||| (x.2.2 &&& x.2.1.soft)))
    if x.1 == Reg.ING_DT_CTRL then s1.freeTime else s1

/-- Records of a section. -/
def records (b : List Byte) : List (List Byte) := (List.range (ceilDiv b.length 16)).map fun i => sliceB b (16 * i) 16

/-- The records of the image in order (R397), those that pass `f`; the index of the section with the first invalid record. -/
def State.applyRecords (s : State) (img : List Byte) (f : Addr → Bool) : State × Option Nat :=
  (sectsOf img 0x15).foldl (fun (acc : State × Option Nat) (x : Sect) =>
    (records (x.bytes img)).foldl (fun (acc : State × Option Nat) (r : List Byte) => match acc with
      | (s, some i) => (s, some i)
      | (s, none) => match s.part.record r with
        | none => (s, some x.idx)
        | some ws => ((ws.filter fun w => f w.1).foldl (fun s w => s.putRecord w) s, none)) acc) (s, none)

/-- What follows the registers that records have written: engine maps, hub domains, decode cores, gate control lists. -/
def State.settle (s : State) : State :=
  let s1 := s.dies.foldl (fun (s : State) (t : Nat) => (List.range 18).foldl (fun (s : State) (e : Nat) =>
    if s.engState t e == 5 || s.engState t e == 4 then s
    else
      let mapped := (s.logicalOf t e).isSome
      let s1 := if mapped && s.dom t e == 0 then s.startWake t e else if !mapped && s.dom t e != 0 then s.setDom t e 0 else s
      s1.showEng t e (s1.idleState t e)) s) s
  let s2 := (List.range 4).foldl (fun (s : State) (k : Nat) =>
    s.fset (Reg.PWR_HUB_DOM_dom (13 + k)) (if bits (s.fget Reg.DEC_CTRL_core_en) (4 * k + 3) (4 * k) == 0 then 0 else 2)) s1
  let s3 := (List.range 16).foldl (fun (s : State) (k : Nat) =>
    s.fset (Reg.DEC_CORE_state k) (b2n (bit (s.fget Reg.DEC_CTRL_core_en) k && !bit s.saf.decOff k))) s2
  let s4 := s3.fset (Reg.PWR_HUB_DOM_dom 23) (if s3.part.partner && s3.flag Reg.LNK_CTRL_partner_en then 2 else 0)
  (List.range 6).foldl (fun (s : State) (p : Nat) =>
    if (List.range 256).all (fun i => s.fget (Reg.ETH_GCL_interval p i) == 0) then s
    else
      let l : GateList := {
        entries := (List.range 256).map fun i => (s.fget (Reg.ETH_GCL_gates p i), s.fget (Reg.ETH_GCL_interval p i)),
        cycle := s.fget (Reg.ETH_GCL_TIME_cycle_ns p), base := s.fget (Reg.ETH_GCL_BASE_base p), taken := s.gptpNow }
      s.setGate p { s.gateAt p with next := some l }) s4

/-! ### Sections -/

/-- Counts of Table 14.3; plans as many as R135 requires. -/
def PartCfg.countsOk (c : PartCfg) (img : List Byte) : Bool :=
  let n (k : Nat) : Nat := (sectsOf img k).length
  let ids (k o : Nat) : List Nat := (sectsOf img k).map fun x => u (x.bytes img) o 4
  (directory img).all (fun x => [0x01, 0x02, 0x10, 0x11, 0x12, 0x13, 0x14, 0x15, 0x16].contains x.typ)
    && n 0x01 == 1 && n 0x02 == 1 && n 0x10 == c.tzCount + 2 && (ids 0x11 4).Nodup && (ids 0x12 4).Nodup && n 0x13 == 1
    && decide (n 0x14 ≤ 1 ∧ n 0x15 ≤ 16 ∧ n 0x16 ≤ 1)

/-- A weight reference (Table 14.8). -/
structure WRef where
  lun : Nat
  lba : Nat
  len : Nat
  dest : Addr
  digest : Nat
  resv : Bool
deriving DecidableEq, Repr

/-- The weight references of an image. -/
def weightRefs (img : List Byte) : List WRef :=
  match sectsOf img 0x13 with
  | [] => []
  | x :: _ =>
    let b := x.bytes img
    (List.range (b.length / 64)).map fun i =>
      let o := 64 * i
      { lun := u b o 1, lba := u b (o + 8) 8, len := u b (o + 16) 8, dest := u b (o + 24) 8, digest := leNat (sliceB b (o + 32) 32),
        resv := u b (o + 1) 7 != 0 }

/-- The plans of an image with their section's index, in directory order. -/
def plansOf (img : List Byte) : List (Nat × Plan) := (sectsOf img 0x10).map fun x => (x.idx, readPlan (x.bytes img))

/-- Models of a plan that name reference `i`. -/
def Plan.namers (p : Plan) (i : Nat) : List Nat := (p.models.filter fun m => m.first ≤ i && i < m.first + m.count).map (·.idx)

/-- Regions of a plan that hold the range of a reference for a model that names it. -/
def Plan.holders (p : Plan) (i : Nat) (r : WRef) : List (Nat × DieRec) :=
  let t := r.dest / 0x000800000000
  let off := r.dest % 0x000800000000
  p.parts.flatMap fun x =>
    if (p.namers i).any fun m => (x.models.take p.nModes).contains m then
      (x.dies.filter fun d => d.die == t && decide (d.nearBase * 2 ^ 20 ≤ off ∧ off + r.len ≤ (d.nearBase + d.nearSize) * 2 ^ 20)).map
        fun d => (t, d)
    else []

/-- A weight reference is valid (R399). -/
def PartCfg.refOk (c : PartCfg) (plans : List Plan) (refs : List WRef) (i : Nat) (r : WRef) : Bool :=
  let bulk := decide (0x004000000000 ≤ r.dest ∧ r.dest + r.len ≤ c.imgBase)
  let near := decide (r.dest < 0x004000000000)
  let users := plans.filter fun p => !(p.namers i).isEmpty
  !r.resv && decide (r.lun ≤ 31) && r.len % 256 == 0 && r.dest % 256 == 0
    && (bulk || (near && !users.isEmpty && users.all fun p => !(p.holders i r).isEmpty))
    && users.all (fun p => !(p.kind == 1 && near && r.dest / 0x000800000000 == p.lostDie))
    && (List.range refs.length).all fun j => match refs[j]? with
      | some q => j == i || decide (q.dest + q.len ≤ r.dest ∨ r.dest + r.len ≤ q.dest)
      | none => true

/-- Failure 0x12: a reference that is invalid, or a model record that names one beyond the section. -/
def PartCfg.refsOk (c : PartCfg) (img : List Byte) : Bool :=
  let plans := (plansOf img).map (·.2)
  let refs := weightRefs img
  ((sectsOf img 0x13).all fun x => x.len % 64 == 0)
    && plans.all (fun p => p.models.all fun m => decide (m.first + m.count ≤ refs.length))
    && (List.range refs.length).all fun i => match refs[i]? with | some r => c.refOk plans refs i r | none => true

/-! ### Serving sections (R231–R233) -/

/-- A bucket record (Table 8.2). -/
def readBucket (b : List Byte) (o : Nat) : KvBucket :=
  let w (i : Nat) : Nat := u b (o + 8 * i) 8
  { bound := bits (w 0) 17 0, cap := bits (w 0) 44 32, bulkMax := bits (w 0) 63 48, batchBlk := bits (w 1) 18 0,
    fillBlk := bits (w 1) 37 19, drainBlk := bits (w 1) 56 38, ringBlk := bits (w 2) 14 0, ringPages := bits (w 2) 31 16,
    drainLoc := bits (w 2) 46 32,
    resv := bits (w 0) 31 18 != 0 || bits (w 0) 47 45 != 0 || bits (w 1) 63 57 != 0 || bit (w 2) 15 || bits (w 2) 63 47 != 0 || w 3 != 0 }

/-- A serving die record (Table 8.3). -/
def readKvDie (b : List Byte) (o : Nat) : KvDie :=
  let w (i : Nat) : Nat := u b (o + 8 * i) 8
  { die := bits (w 0) 3 0, metaBase := bits (w 0) 23 8, poolBase := bits (w 0) 39 24, poolFrames := bits (w 1) 31 0,
    bulkFrames := bits (w 1) 63 32, bulkBase := bits (w 2) 15 0, hkBlk := bits (w 2) 34 16, stageBlk := bits (w 2) 49 35,
    resv := bits (w 0) 7 4 != 0 || bits (w 0) 63 40 != 0 || bits (w 2) 63 50 != 0 || w 3 != 0 }

/-- A serving record with `nd` die records (Table 8.1). -/
def readKvRec (b : List Byte) (o nd : Nat) : KvRec :=
  let w (i : Nat) : Nat := u b (o + 8 * i) 8
  let nb := bits (w 0) 11 8 + 1
  { part := bits (w 0) 5 0, layout := bits (w 0) 6 6, walkSafe := bit (w 0) 7, highPct := bits (w 0) 23 16, prefetch := bits (w 0) 31 24,
    maxSeqs := bits (w 0) 44 32, pageBlocks := bits (w 0) 63 48, stepTokens := bits (w 1) 15 0, hkPages := bits (w 1) 31 16,
    reqMax := bits (w 1) 47 32, reqBlk := bits (w 2) 27 0, reqLg := bits (w 2) 31 28, compBlk := bits (w 2) 59 32, compLg := bits (w 2) 63 60,
    buckets := (List.range nb).map fun i => readBucket b (o + 32 + 32 * i),
    dies := (List.range nd).map fun i => readKvDie b (o + 32 + 32 * nb + 32 * i),
    resv := bits (w 0) 15 12 != 0 || bits (w 0) 47 45 != 0 || bits (w 1) 63 48 != 0 || w 3 != 0 }

/-- Consecutive serving records; none where one names a partition that its plan does not define, whose length is unknown. -/
def readKvRecs (p : Plan) (b : List Byte) : Nat → Nat → Option (List KvRec × Nat)
  | 0, o => some ([], o)
  | n + 1, o =>
    match p.parts.find? fun x => x.part == bits (u b o 8) 5 0 with
    | none => none
    | some x =>
      let r := readKvRec b o x.dies.length
      (readKvRecs p b n (o + 32 + 32 * r.buckets.length + 32 * r.dies.length)).map fun y => (r :: y.1, y.2)

/-- A list of `n` bytes at a 256-byte unit of the shared store lies within the ways of a mask. -/
def inWays (mask blk n : Nat) : Bool :=
  decide (blk * 256 + n ≤ 0x08000000) && n != 0 &&
    (List.range ((blk * 256 + n - 1) / 2 ^ 23 - blk * 256 / 2 ^ 23 + 1)).all fun i => bit mask (blk * 256 / 2 ^ 23 + i)

/-- A bucket's fields lie in their ranges, after a bucket of bound `prev`. -/
def bucketOk (prev : Nat) (b : KvBucket) : Bool :=
  !b.resv && b.bound % 16 == 0 && decide (prev < b.bound ∧ b.bound ≤ 131072 ∧ 1 ≤ b.cap ∧ b.cap ≤ 4096 ∧ 1 ≤ b.ringPages)

/-- Buckets in turn: bounds rise strictly (R232). -/
def bucketsOk : Nat → List KvBucket → Bool
  | _, [] => true
  | prev, b :: bs => bucketOk prev b && bucketsOk b.bound bs

/-- One die of a serving record against its partition's die record. -/
def KvRec.dieOk (r : KvRec) (x : PartRec) (d : KvDie) : Bool :=
  match x.on d.die with
  | none => false
  | some pd =>
    let lo := pd.nearBase * 2 ^ 20
    let hi := (pd.nearBase + pd.nearSize) * 2 ^ 20
    let inside (base n : Nat) : Bool := decide (lo ≤ base ∧ base + n ≤ hi)
    let lists := r.buckets.all fun b =>
      inWays pd.wayMask b.batchBlk (16 + 16 * b.cap) && inWays pd.wayMask b.fillBlk (16 * b.cap * ceilDiv (pagesOf b.bound) r.spread)
        && inWays pd.wayMask b.drainBlk (16 * b.cap * (pagesOf r.stepTokens + 1))
    !d.resv && decide (3 ≤ d.poolFrames) && inside (d.metaBase * 2 ^ 20) (r.metaSize d)
      && inside (d.poolBase * 2 ^ 20) (d.poolFrames * r.pageBytes) && lists
      && (r.hkPages == 0 || inWays pd.wayMask d.hkBlk (32 * r.hkPages))

/-- The bulk pools of a serving record: first byte and end, from the bulk window's start. -/
def KvRec.bulkPools (r : KvRec) : List (Nat × Nat) :=
  r.dies.map fun d => (d.bulkBase * 2 ^ 20, d.bulkBase * 2 ^ 20 + d.bulkFrames * r.pageBytes)

/-- No two ranges of a list overlap. -/
def apart : List (Nat × Nat) → Bool
  | [] => true
  | x :: xs => xs.all (fun y => decide (x.2 ≤ y.1 ∨ y.2 ≤ x.1 ∨ x.1 = x.2 ∨ y.1 = y.2)) && apart xs

/-- A serving record is valid for its plan (R233), apart from its bulk pools, which are to overlap neither one another nor those of any other record
of the image (log entry 98). -/
def KvRec.ok (p : Plan) (r : KvRec) : Bool :=
  match p.parts.find? fun x => x.part == r.part with
  | none => false
  | some x =>
    let serves := p.graphs.any fun g => g.gkind == 1 && g.part == r.part && (x.models.take p.nModes).contains g.model
    let d0 := r.dies.head?
    !r.resv && (r.highPct == 0 || decide (50 ≤ r.highPct ∧ r.highPct ≤ 99)) && decide (r.prefetch ≤ 63)
      && decide (1 ≤ r.maxSeqs ∧ r.maxSeqs ≤ 4096 ∧ 1 ≤ r.pageBlocks ∧ r.pageBlocks ≤ 1024 ∧ 1 ≤ r.stepTokens ∧ r.stepTokens ≤ 1024
        ∧ r.hkPages ≤ 1024 ∧ 1 ≤ r.reqMax ∧ r.reqMax ≤ 1024)
      && bucketsOk 0 r.buckets && serves && r.dies.map (·.die) == x.dies.map (·.die) && r.dies.all (r.dieOk x)
      && (r.layout == 1 || r.dies.all fun d => match d0 with
        | some e => d.poolFrames == e.poolFrames && d.bulkFrames == e.bulkFrames
        | none => true)

/-- A serving section read for its plan; none where it, or a record of it, is invalid (R231–R233). -/
def servingOf (p : Plan) (b : List Byte) : Option (List KvRec) :=
  if u b 0 4 != 0x564B504F || u b 12 4 != b.length then none
  else match readKvRecs p b (min (u b 8 4) 64) 16 with
    | none => none
    | some (rs, e) =>
      if u b 8 4 ≤ 64 && e ≤ b.length && rs.all (KvRec.ok p) && (rs.map (·.part)).Nodup then some rs
      else none

/-- The serving records of a plan of the image: none where its section is invalid. -/
def servingFor (img : List Byte) (p : Plan) : Option (List KvRec) :=
  match (sectsOf img 0x11).find? fun x => u (x.bytes img) 4 4 == p.planId with
  | none => some []
  | some x => servingOf p (x.bytes img)

/-- The fusion section of a plan of the image. -/
def fusionFor (img : List Byte) (p : Plan) : Option FusSec :=
  ((sectsOf img 0x12).find? fun x => u (x.bytes img) 4 4 == p.planId).map fun x => readFus (x.bytes img)

/-- The plans, serving sections and fusion sections of step 4 (R135, R157, R158, R233, R308, R317): the event and its failing section, or
none; with what PLN_ERR captures. -/
def State.checkPlans (s : State) (img : List Byte) : Option (Nat × Nat × Option (VFail × Nat × Nat)) :=
  let ps := plansOf img
  let one (k : Nat × Plan) : Option (Nat × Nat × Option (VFail × Nat × Nat)) :=
    let same := (ps.filter fun x => x.1 != k.1).map fun x => (x.2.periodUs, x.2.nModes)
    (validatePlan s.part same k.2).map fun f => (0x4181, k.1, some (f, k.2.kind, k.2.lostDie))
  let kinds := (ps.filter fun k => k.2.kind == 0).length == 1 && (ps.filter fun k => k.2.kind == 2).length == 1
    && (List.range s.part.tzCount).all fun t => (ps.filter fun k => k.2.kind == 1 && k.2.lostDie == t).length == 1
  match ps.findSome? one with
  | some f => some f
  | none =>
    if !kinds then some (0x4181, 0, some ({ code := 0x10 }, 0, 0))
    else
      let names (x : Sect) : Bool := ps.any fun k => k.2.planId == u (x.bytes img) 4 4
      let pools := ps.flatMap fun k => ((servingFor img k.2).getD []).flatMap KvRec.bulkPools
      match (sectsOf img 0x11).find? fun x => !names x, ps.find? fun k => (servingFor img k.2).isNone, apart pools with
      | some x, _, _ => some (0x4289, x.idx, none)
      | none, some k, _ => some (0x4289, k.1, none)
      | none, none, false => some (0x4289, match sectsOf img 0x11 with | x :: _ => x.idx | [] => 0, none)
      | none, none, true =>
        let warp (p : Plan) : Bool := p.graphs.any fun g => g.tasks.any fun t => t.kind == 6
        let bad (p : Plan) : Bool := match fusionFor img p with | some f => !f.ok s.part p | none => warp p
        let step := s.fget Reg.FUS_CTRL_instant_us
        let range := decide (10000 ≤ step ∧ step ≤ 200000)
        match (sectsOf img 0x12).find? fun x => !names x, ps.find? fun k => bad k.2 || !range || k.2.periodUs % step != 0 with
        | some x, _ => some (0x43C6, x.idx, none)
        | none, some k => some (0x43C6, k.1, none)
        | none, none => none

/-- The MACsec key entries of an image, 80 bytes each. -/
def keyEntries (img : List Byte) : List (List Byte) :=
  (sectsOf img 0x16).flatMap fun x => (List.range (ceilDiv x.len 80)).map fun i => sliceB (x.bytes img) (80 * i) 80

/-- The calibration section loaded into the bank in force (Table 14.3); none where a record fails R312. -/
def State.loadCal (s : State) (img : List Byte) : Option State :=
  match sectsOf img 0x14 with
  | [] => some s
  | x :: _ =>
    let b := x.bytes img
    let cal (n : Nat) : List Byte := sliceB b (128 * n) 128
    let fails (n : Nat) : Bool := let c := readCal (cal n)
      c.model != 0 && !(decide (c.model ≤ 3) && c.ok)
    if x.len != 8192 || (List.range 64).any fails then none
    else some ((List.range 64).foldl (fun s n => (List.range 16).foldl (fun s j =>
      s.wr (Reg.FUS_CAL_ACT n j) (BitVec.ofNat 64 (u (cal n) (8 * j) 8))) s) s)

/-- The capture of a plan's refusal, where the event has one. -/
def State.capturePlnOf (s : State) (c : Option (VFail × Nat × Nat)) : State :=
  match c with
  | some (f, k, d) => s.capturePln f k d
  | none => s

/-- A fusion configuration that is invalid at boot is captured in FUS_ERR (R340). -/
def State.captureFusion (s : State) (ev : Nat) : State := if ev == 0x43C6 then s.captureFus ev 0 else s

/-- A failure of the configuration (R394): code and section, 0x4543. -/
def State.configFail (s : State) (code sect : Nat) : State := s.bootFail code sect 0x4543 uNone

/-- The index of the image's first section of a type. -/
def sectIdx (img : List Byte) (typ : Nat) : Nat := match sectsOf img typ with | x :: _ => x.idx | [] => 0

/-- The plans are judged (R165): the partner is started and step 4 ends, or the boot fails. -/
def State.configPlans (s : State) : Option (Nat × Nat × Option (VFail × Nat × Nat)) → State
  | some (ev, i, c) =>
    ((s.capturePlnOf c).captureFusion ev).bootFail 0x20 i ev (if ev == 0x4289 then 0x16 else if ev == 0x4181 then 0x10 else uNone)
  | none => s.startPartner.fset Reg.BOOT_STATUS_stage 3

/-- The calibration has been loaded, or not. -/
def State.configCal (s : State) (img : List Byte) : Option State → State
  | none => s.configFail 0x15 (sectIdx img 0x14)
  | some s1 => s1.configPlans (s1.checkPlans img)

/-- The keys have been installed, or not. -/
def State.configKeys (s : State) (img : List Byte) : Option State → State
  | none => s.configFail 0x14 (sectIdx img 0x16)
  | some s1 => s1.configCal img (s1.loadCal img)

/-- The records have been applied; one may have failed. -/
def State.configRecords (img : List Byte) : State × Option Nat → State
  | (s, some i) => s.configFail 0x11 i
  | (s, none) =>
    if !s.part.refsOk img then s.settle.configFail 0x12 (sectIdx img 0x13)
    else
      let s1 := s.settle.drawKeys img
      s1.configKeys img ((keyEntries img).foldl (fun (o : Option State) e => o.bind fun s => s.installKey e) (some s1))

/-- Step 4 of Table 14.9: records, keys, calibration and plans of the image take effect; what fails ends the boot. -/
def State.configure (s : State) : State :=
  if !s.part.countsOk s.image then s.configFail 0x10 0 else State.configRecords s.image (s.applyRecords s.image fun _ => true)

/-! ### Weights and admission (R165, R398–R400, R553) -/

/-- Blocks of a reference written at an address through the place `loc` gives each of them; `gen` names those whose generators disagree (R420). -/
def State.loadBlocks (s : State) (a : Addr) (bs : List Byte) (gen : List Addr) (loc : Addr → Option Loc) : State :=
  (List.range (bs.length / 256)).foldl (fun s i =>
    let b := a + 256 * i
    match loc b with
    | some l =>
      let bad := gen.contains b
      ((if bad then s.raise 0x25C4 oHub uNone 0 else s).memWrite l b (sliceB bs (256 * i) 256) (if bad then 0xFFFFFFFF else 0) 0 none).1
    | none => s) s

/-- A reference's bytes are written to its destination: in near memory through the regions of every plan that names it (R553). -/
def State.loadRef (s : State) (plans : List Plan) (i : Nat) (r : WRef) (bs : List Byte) (gen : List Addr) : State :=
  if 0x004000000000 ≤ r.dest then s.loadBlocks r.dest bs gen fun a => s.locate (.bulk (a - 0x004000000000))
  else (plans.flatMap fun p => p.holders i r).foldl (fun s x =>
    s.loadBlocks r.dest bs gen fun a =>
      let key := s.key x.1
      let (c, g) := nearPlace key x.2.chanMask x.2.nearBase (a % 0x000800000000)
      some (.dram x.1 c (chanBlock key g))) s

/-- References are loaded in turn, those that pass `f` (R400); `data` and `failed` go by index. False at a fourth failure of a READ or a
digest that differs. -/
def State.loadRefs (s : State) (img : List Byte) (data : List (List Byte)) (failed gen : List Nat) (f : WRef → Bool) : State × Bool :=
  let plans := (plansOf img).map (·.2)
  let refs := weightRefs img
  (List.range refs.length).foldl (fun (acc : State × Bool) i =>
    match acc.2, refs[i]? with
    | true, some r =>
      if !f r then acc
      else
        let n := nth 0 failed i
        let bs := sliceB (nth [] data i) 0 r.len
        let s1 := (List.range (min n 3)).foldl (fun (s : State) _ =>
          (s.raise 0x1546 oHub 0x17 0).count Reg.BOOT_CNT_UFS_RETRY_count 1) acc.1
        if 4 ≤ n || Config.sha3_256 bs != r.digest then (s1, false) else (s1.loadRef plans i r bs gen, true)
    | _, _ => acc) (s, true)

/-- The plans of an image in the order of admission (R165), with the place of each in the directory order. -/
def admitOrder (img : List Byte) : List (Nat × Nat × Plan) :=
  let ps := (plansOf img).mapIdx fun k x => (k, x.1, x.2)
  let rank (p : Plan) : Nat := if p.kind == 2 then 0 else if p.kind == 1 then 1 + p.lostDie else 9
  sortBy (fun (a b : Nat × Nat × Plan) => decide (rank a.2.2 < rank b.2.2)) ps

/-- A graph of the image is accepted (R167, R196). -/
def State.acceptGraph (s : State) (r : PlanRec) (g : GraphRec) : State :=
  let s1 := s.setLast { code := 0, graph := g.id, bound := graphBound g r.table }
  (s1.count Reg.ADM_CNT_ACCEPT_count 1).raise 0x01C1 oHub 0x10 0

/-- Every plan is admitted (R165); the index of the section of the first one rejected. -/
def State.admitAll (s : State) (img : List Byte) (lists : List (List (Nat × Nat × List Byte))) : State × Option Nat :=
  (admitOrder img).foldl (fun (acc : State × Option Nat) (x : Nat × Nat × Plan) => match acc with
    | (s, some i) => (s, some i)
    | (s, none) =>
      let ls := (nth [] lists x.1).map fun (l : Nat × Nat × List Byte) => ({ graph := l.1, task := l.2.1, bytes := l.2.2 } : ListCopy)
      match admitPlan s.admCfg s.tblUsed x.2.2 ls with
      | .error v => ((((s.setLast v).count Reg.ADM_CNT_REJECT_count 1).raise 0x41C3 oHub 0x10 0), some x.2.1)
      | .ok r =>
        let rec1 : PlanRec := { r with fusion := fusionFor img x.2.2, serving := (servingFor img x.2.2).getD [] }
        let s1 := { s with plan := { s.plan with plans := s.plan.plans ++ [rec1] } }
        let s2 := (sortGraphs rec1.plan.graphs).foldl (fun (s : State) (g : GraphRec) => s.acceptGraph rec1 g) s1
        (s2.layLists rec1.placed rec1.lists rec1.plan.graphs, none)) (s, none)

/-- The plans have been admitted, or one of them rejected. -/
def State.loadPlans : State × Option Nat → State
  | (s, some i) =>
    ((({ s with plan := { s.plan with plans := [] } }.fset Reg.BOOT_STATUS_stage 0xF).fset Reg.BOOT_STATUS_fail_code 0x20).fset
      Reg.BOOT_STATUS_fail_sect i)
  | (s, none) => s.showAdm

/-- The references have been loaded, or not. -/
def State.loadWeights (img : List Byte) (lists : List (List (Nat × Nat × List Byte))) : State × Bool → State
  | (s, false) => s.configFail 0x13 (sectIdx img 0x13)
  | (s, true) => State.loadPlans (s.admitAll img lists)

/-- Step 5 of Table 14.9: the plans are loaded, all ring indices set to 0 (R253). -/
def State.load (s : State) (lists : List (List (Nat × Nat × List Byte))) (data : List (List Byte)) (failed gen : List Nat) : State :=
  let s0 := (List.range 64).foldl (fun (s : State) (p : Nat) => s.wr (Reg.KVW_RING p) 0) s
  State.loadWeights s.image lists ((s0.fset Reg.BOOT_STATUS_stage 4).loadRefs s.image data failed gen fun _ => true)

/-! ### Commit (R404) -/

/-- LCK fields of some resource sum to more than its available share (R223). -/
def State.sharesScaled (s : State) : Bool :=
  let hub := s.fget Reg.BWR_HUB_BUD_control + s.fget Reg.BWR_HUB_BUD_storage + s.fget Reg.BWR_HUB_BUD_preproc
    + s.fget Reg.BWR_HUB_BUD_decode + s.fget Reg.BWR_HUB_BUD_ethernet + s.fget Reg.BWR_HUB_BUD_partner
  decide (80 < hub) || s.dies.any fun t =>
    decide (9 < s.fget (Reg.BWR_SYS_steward_near t) + s.fget (Reg.BWR_SYS_walker_near t) + s.fget (Reg.BWR_SYS_hub_near t))
      || decide (16 < s.fget (Reg.BWR_SYS_steward_ss t) + s.fget (Reg.BWR_SYS_walker_ss t))

/-- Firewall windows outside the bulk tier, or overlapping another, are disabled (R360). -/
def State.judgeFirewall (s : State) : State :=
  let on := (List.range 8).filter fun w => s.flag (Reg.LNK_FW_en w)
  let lo (w : Nat) : Nat := s.fget (Reg.LNK_FW_base w)
  let hi (w : Nat) : Nat := lo w + s.fget (Reg.LNK_FW_SIZE_size_mib w) * 2 ^ 20
  let bad := on.filter fun w => decide (lo w < 0x004000000000) || decide (s.bulkEnd < hi w)
    || on.any fun v => v != w && decide (lo v < hi w) && decide (lo w < hi v)
  bad.foldl (fun (s : State) (w : Nat) => (s.fset (Reg.LNK_FW_en w) 0).raise 0x044F oHub uNone (detLink 8 15)) s

/-- Dies whose walker failed its injection are walked by the steward core from the next step (R247, R557). -/
def State.walkersOff (s : State) : State :=
  (s.dies.filter fun t => bit s.saf.walkOff t).foldl (fun (s : State) (t : Nat) =>
    { s with kv := { s.kv with takeover := withOnce t s.kv.takeover } }.fset (Reg.KVW_STATUS_walker_failed t) 1) s

/-- Phobos has ended its start-up: every mechanism injected, none that keeps it from ending failed (R461, R463). -/
def State.startUpOk (s : State) : Bool := s.fget Reg.SAF_INJ_DONE_done == 2 ^ 38 - 1 && !s.saf.startFail

/-- The burns that boot commit begins (R395). -/
def State.burnsOf (s : State) (b : List Byte) : List OtpBurn :=
  let v := u b 0x15 1
  let i := u b 0x14 1
  (if bit (u b 0x13 1) 1 && smGet 0 s.otp.arb i < v then [OtpBurn.arb i v] else [])
    ++ ((List.range 4).filter fun k => bit (u b 0x16 1) k && !bit s.otp.edRevoked k).map OtpBurn.revokeEd
    ++ ((List.range 4).filter fun k => bit (u b 0x17 1) k && !bit s.otp.mlRevoked k).map OtpBurn.revokeMl

/-- Boot commit (R404): Phobos and Deimos end their start-up and, outside the device safe state, release their pins; LCK fields lock; the
first boundary falls 1 ms later. -/
def State.commit (s : State) : State :=
  let head := s.peek 8 s.part.imgBase 256
  let setAt := s.fget Reg.ING_SET_BASE_base
  let s1 := s.fset Reg.SAF_STATUS_start_done 1
  let s2 := { s1 with
    pins := if s1.safe then s1.pins else { s1.pins with phobosLow := false, deimosLow := false }
    pow := { s1.pow with
      phase := .running, committed := true, fuseFull := false, burns := s1.burnsOf head,
      wdKick := if s1.flag Reg.RST_SYSWD_en then some s1.now else none }
    plan := { s1.plan with start := s1.now + 1000000 }
    tim := { s1.tim with beaconAt := s1.dies.foldl (fun m t => smPut 0 m t s1.now) s1.tim.beaconAt } }
  let s3 := if s2.sharesScaled then s2.raise 0x0243 oHub uNone 0 else s2
  let s4 := s3.judgeFirewall.walkersOff
  let s5 := if setAt < 0x004000000000 || s4.bulkEnd ≤ setAt then
      ({ s4 with ing := { s4.ing with noSet := true } }.raise 0x22CE oHub uNone 0).capture Reg.ING_ERR (2 ^ 7) else s4
  let s6 := if s.pow.fuseFull then s5.raise 0x0744 oHub uNone 0 else s5
  let s7 := (s6.fset Reg.BOOT_TIME_commit_us ((s6.now - s6.pow.relAt) / 1000)).fset Reg.BOOT_STATUS_stage 5
  s7.raise 0x0544 oHub uNone 0

/-- The next burn is made (R395, R404 item 7). -/
def State.burnNext (s : State) : State :=
  match s.pow.burns with
  | [] => s
  | b :: bs =>
    let s1 := { s with pow := { s.pow with burns := bs } }
    match b with
    | .arb i v => ({ s1 with otp := { s1.otp with arb := smPut 0 s1.otp.arb i v } }.showOtp).raise 0x0581 oHub 0x19 0
    | .revokeEd i => ({ s1 with otp := { s1.otp with edRevoked := setBit s1.otp.edRevoked i true } }.showOtp).raise 0x0582 oHub 0x19 0
    | .revokeMl i => ({ s1 with otp := { s1.otp with mlRevoked := setBit s1.otp.mlRevoked i true } }.showOtp).raise 0x0582 oHub 0x19 0

/-! ### Start-up (Table 17.3, R461–R463) -/

/-- Clocks and domains come up (Table 17.3 orders 5–9, R482, R496): hub domains, and the token wave of each die, after which its
modules train. -/
def State.startClocks (s : State) : State :=
  let s1 := (s.fset Reg.CLK_STATUS_locked 1).fset Reg.CLK_STATUS_holdover 0
  let s2 := { s1 with pow := { s1.pow with synthUp := true } }
  let pairOn (k : Nat) : Bool := s2.hasDie (2 * k) || s2.hasDie (2 * k + 1)
  let partnerOn := s2.part.partner && s2.flag Reg.LNK_CTRL_partner_en
  let s3 := (List.range 24).foldl (fun (s : State) (d : Nat) =>
    s.fset (Reg.PWR_HUB_DOM_dom d)
      (if 19 ≤ d && d ≤ 22 then (if pairOn (d - 19) then 2 else 0) else if d == 23 then (if partnerOn then 2 else 0)
       else if d == 17 || d == 18 then 1 else 2)) s2
  let s4 := (s3.dies.filter fun t => s3.dieUp t).foldl (fun (s : State) (t : Nat) =>
    s.wave t) s3
  s4.showAllSpares

/-- A memory channel has trained, or failed (R202, R215). -/
def State.memTrained (s : State) (die c : Nat) (ok : Bool) : State :=
  let w := memWin die
  if !ok then s.failChannel die c
  else
    let k := chanKey die c
    let s1 := s.fset (Reg.MEM_STATUS_ch_trained w) (setBit (s.fget (Reg.MEM_STATUS_ch_trained w)) c true)
    { s1 with mem := { s1.mem with
      refreshAt := smPut 0 s1.mem.refreshAt k s1.now, wckAt := smPut 0 s1.mem.wckAt k s1.now, mr4At := smPut 0 s1.mem.mr4At k s1.now,
      eyeAt := smPut none s1.mem.eyeAt k (some s1.now) } }

/-- Is there such a channel? -/
def State.hasChan (s : State) (die c : Nat) : Bool := (s.hasDie die && decide (die < 8 ∧ c < 8)) || (die == 8 && decide (c < 4))

/-- An engine is retired by a failed injection, and its logical index remapped (R439, R502). -/
def State.retireInj (s : State) (t e : Nat) : State := if s.hasDie t && e < 18 then (s.retire t e).remap t e else s

/-- The generator of a unit failed (R557). -/
def State.genFailed (s : State) (x : InjPlace) : State :=
  match x with
  | .engine t e => s.retireInj t e
  | .warp t => { s with saf := { s.saf with warpOff := setBit s.saf.warpOff t true } }
  | .walker t => { s with saf := { s.saf with walkOff := setBit s.saf.walkOff t true } }
  | .preproc => { s with saf := { s.saf with preOff := true } }
  | .setWriter => { s with saf := { s.saf with setOff := true } }
  | .tracker => { s with saf := { s.saf with trkOff := true } }
  | .csiPort p => { s with saf := { s.saf with csiOff := setBit s.saf.csiOff p true } }
  | .etherPort p => { s with saf := { s.saf with ethOff := setBit s.saf.ethOff p true } }
  | .storage => s.failStart
  | .partner => { s with saf := { s.saf with partnerOff := true } }
  | .core k => { s with saf := { s.saf with decOff := setBit s.saf.decOff k true } }.fset (Reg.DEC_CORE_state k) 0
  | _ => s

/-- The protected function of mechanism `m` at a place is made unusable (Table 16.8, last column). -/
def State.injFailed (s : State) (m : Nat) (x : InjPlace) : State :=
  match m, x with
  | 8, _ => s.genFailed x
  | 10, .die t => { s with saf := { s.saf with auditOff := setBit s.saf.auditOff t true } }
  | 11, .engine t e => if e < 18 then s.retireInj t e else s.fenceDie t
  | 13, .channel d c => if s.hasChan d c then s.failChannel d c else s
  | 15, .linkModule k => if s.hasMod k then s.fenceMod k else s
  | 18, .walker t => s.genFailed (.walker t)
  | 19, .warp t => s.genFailed (.warp t)
  | 20, _ => s.genFailed .preproc
  | 21, .etherPort p => { s with saf := { s.saf with csiOff := setBit s.saf.csiOff (16 + p) true } }
  | 21, .csiPort p => s.genFailed (.csiPort p)
  | 22, _ => { s with saf := { s.saf with sensorsOff := true } }
  | 23, .etherPort p => { s with saf := { s.saf with csiOff := setBit s.saf.csiOff (16 + p) true } }
  | 23, .csiPort p => s.genFailed (.csiPort p)
  | 24, _ => s.genFailed .tracker
  | 25, .etherPort p => s.genFailed (.etherPort p)
  | 26, _ => { s with saf := { s.saf with ohpOff := true } }
  | 37, _ => s.genFailed .setWriter
  | k, .engine t e => if k ≤ 7 || k == 9 then s.retireInj t e else s
  | k, .die t => if [12, 14, 16, 17, 27].contains k then s.fenceDie t else s
  | _, _ => s

/-- BOOT_SEQUENCE (R402, R404, Table 14.9, Table 17.3): the next step of the boot sequence; one that is not due has no effect. -/
def execBootSequence (step : BootStep) (s : State) : Host.Outcome State Fault Refusal :=
  let booting := s.pow.phase == .booting
  let up := booting && s.hubDom 8 == 2
  let stage := s.fget Reg.BOOT_STATUS_stage
  match step with
  | .release =>
    if s.pow.phase == .inReset && !s.pow.brownHeld then
      .next ({ s with pow := { s.pow with phase := .booting, relAt := s.now } }.fset Reg.SAF_INJ_DONE_done 0)
    else .next s
  | .clocks => if booting && s.hubDom 8 == 0 && s.flag Reg.CLK_STATUS_ref_ok then .next s.startClocks else .next s
  | .memory die c ok =>
    if up && s.hasChan die c && !s.chanUp die c && !s.chanFailed die c then .next (s.memTrained die c ok) else .next s
  | .inject m fails =>
    if up && m < 38 then .next (fails.foldl (fun s x => s.injFailed m x) (s.recordInjection m fails.isEmpty)) else .next s
  | .check flash puf gen => if up && stage ≤ 1 then .next (s.checkImage flash puf gen) else .next s
  | .configure => if up && stage == 2 then .next s.configure else .next s
  | .load lists data failed gen => if up && stage == 3 then .next (s.load lists data failed gen) else .next s
  | .commit =>
    if up && stage == 4 then .next (if s.startUpOk then s.commit else s.bootFail 0x21 0 0x4543 uNone) else .next s
  | .burn => .next s.burnNext

/-! ### Reload of a rejoining die (R409, R488–R490) -/

/-- The PLAN and configuration sections in the image area still have their digests. -/
def sectsSound (img : List Byte) : Bool :=
  (directory img).all fun x => x.typ < 0x10 || Config.sha3_512 (x.bytes img) == x.digest

/-- The weights of a rejoining die have been loaded, or not: its entry lists follow (R409). -/
def State.reloadLists (t : Nat) : State × Bool → State × Bool
  | (s, false) => (s, false)
  | (s, true) =>
    let s1 := s.plan.plans.foldl (fun (s : State) (r : PlanRec) =>
      s.layLists (r.placed.filter fun q => q.die == t) r.lists r.plan.graphs) s
    let s2 := s1.plan.entered.foldl (fun (s : State) (x : Submitted) =>
      s.layLists (x.placed.filter fun q => q.die == t) x.lists [x.graph]) s1
    (s2.walkersOff, true)

/-- The records of a rejoining die are applied, its channels have trained as `chans` says, and its keys are drawn (R409). -/
def State.reloadRecords (s : State) (t chans : Nat) : State :=
  ((List.range 8).foldl (fun (s : State) (c : Nat) => s.memTrained t c (bit chans c)) (s.applyRecords s.image (inDieWin t)).1.settle).drawDieKeys t

/-- The steps of R409 for die `t`: its records, keys, weights and entry lists. False where a digest differs or a reload fails. -/
def State.reloadDie (s : State) (t chans : Nat) (data : List (List Byte)) (failed gen : List Nat) : State × Bool :=
  if !sectsSound s.image then (s, false)
  else
    State.reloadLists t ((s.reloadRecords t chans).loadRefs s.image data failed gen fun r =>
      decide (r.dest < 0x004000000000) && r.dest / 0x000800000000 == t)

/-- DIE_RELOAD_DONE (R409, R487–R490): the reload of the rejoining die that has the UFS host ends: by its success the die awaits its injections; by its failure the
attempt fails with 0x3547. -/
def execDieReloadDone (t chans : Nat) (data : List (List Byte)) (o : ReloadObs) (s : State) : Host.Outcome State Fault Refusal :=
  if !s.hasDie t || s.fget (Reg.RST_DIE_state t) != 5 || s.pow.ufsDie != some t then .next s
  else match s.reloadDie t chans data o.failed o.gen with
    | (s1, true) => .next (s1.fset (Reg.RST_DIE_state t) 6).ufsTurn
    | (s1, false) => .next ((s1.raise 0x3547 t uNone 0).failAttempt t)

end Sys2Proof.Machine
end

