-- ==== Sys2Proof/Machine/HubWin.lean ====
section
/-! DEFINITION. The closing of the hub windows (R455, Table 16.4). -/

namespace Sys2Proof.Machine

/-- What follows a missing kick with react 0: the instant set is completed with every valid bit 0, the publication is written
withheld. With react 1 the same is written, since what was to come is not valid either. -/
def State.completeHub (s : State) (w : Nat) : State :=
  let n := (s.rd Reg.FUS_INSTANT).toNat
  if s.planRec.isNone then s
  else if w == 0 then (if s.ing.picked == n + 1 then s else s.pickNow n false [] true)
  else if w == 1 then
    if s.trk.done == n + 1 then s
    else { s with trk := { s.trk with done := n + 1 } }.publish n s.tref true false true
  else s

/-- HUB_WINDOW_CLOSE (R455): a hub window has closed; one without its kick is a fault. -/
def execHubWindowClose (w : Nat) (s : State) : Host.Outcome State Fault Refusal :=
  if !s.hubJudged w || s.saf.closed.contains w || decide (s.now ≤ (s.hubWindow w).2) then .next s
  else
    let s1 := { s with saf := { s.saf with closed := s.saf.closed ++ [w] } }
    if s.saf.kicked.contains w then .next s1 else .next ((s1.hubFault w 0).completeHub w)

end Sys2Proof.Machine
end

