-- ==== Sys2Proof/Machine/Pfp.lean ====
section
/-! DEFINITION. PFP requests and responses between dies, to the hub and to the partner (R343, R346, R351, R358), and the partner's own requests
with their firewall and regulator (R359–R362). -/

namespace Sys2Proof.Machine

/-- A link request by its number. -/
def State.req? (s : State) (id : Nat) : Option LinkReq := s.lnk.reqs.find? fun r => r.id == id

/-- A link request replaced, or removed. -/
def State.setReq (s : State) (r : LinkReq) : State :=
  { s with lnk := { s.lnk with reqs := s.lnk.reqs.map fun (x : LinkReq) => if x.id == r.id then r else x } }
def State.dropReq (s : State) (id : Nat) : State :=
  { s with lnk := { s.lnk with reqs := s.lnk.reqs.filter fun (x : LinkReq) => x.id != id } }

/-- The link module over which a request leaves its die. -/
def State.outModule (s : State) (r : LinkReq) : Nat := s.outMod r.die r.dest r.req.addr

/-- Requests at the partner, departed and neither answered nor timed out (R358). -/
def State.atPartner (s : State) : Nat := (s.lnk.reqs.filter fun r => r.dest == 9 && r.reached && !r.late && !r.gone).length

/-- The next request from a die to a destination, in the order they entered the link (R344). -/
def State.nextReq (s : State) (r : LinkReq) : Bool :=
  match s.lnk.reqs.find? fun x => x.die == r.die && x.dest == r.dest && !x.reached with | some x => x.id == r.id | none => false

/-- A request reaches its target: a resource of its home, or the partner, which holds max_out at most. A retrain on its way holds it (R346). -/
def State.reach (s : State) (id : Nat) (ok : MemReq → Bool) (ecc : Nat) : State :=
  match s.req? id with
  | none => s
  | some r =>
    if r.reached || !ok r.req || !s.nextReq r || s.stalled r.die r.dest r.req.addr then s
    else if r.dest == 9 then
      if s.fget Reg.LNK_PARTNER_STATUS_max_out ≤ s.atPartner then s else s.setReq { r with reached := true, sent := some s.now }
    else (s.setReq { r with reached := true }).arrive r.req ecc

/-- READ (R343): a read request reaches its target; `ecc` is what a retained memory's checker finds. -/
def execRead (id ecc : Nat) (s : State) : Host.Outcome State Fault Refusal := .next (s.reach id (fun q => !q.write) ecc)

/-- WRITE (R343): a whole-block write reaches its target. -/
def execWrite (id ecc : Nat) (s : State) : Host.Outcome State Fault Refusal :=
  .next (s.reach id (fun q => q.write && q.len == 256 && q.comb.isNone) ecc)

/-- WRITE_PART (R343): a partial write, or an atomic combine, reaches its target. -/
def execWritePart (id ecc : Nat) (s : State) : Host.Outcome State Fault Refusal :=
  .next (s.reach id (fun q => q.write && !(q.len == 256 && q.comb.isNone)) ecc)

/-- A response reaches the requester's die: late, discarded, or delivered (R346, R351). -/
def State.respond (s : State) (r : LinkReq) (data : List Byte) (chk err : Nat) : State :=
  let s1 := s.dropReq r.id
  if r.late then s1.modCount Reg.LNK_CNT_LATE_RESP_count (s.outModule r) 1
  else if r.gone then s1
  else { s1 with out := s1.out ++ [.done r.req.src r.req.agent r.req.addr data chk err] }

/-- What a response carries: of a resource its own answer; of the partner what it sends, which gets check values at the hub (R358). A retrain on
its way holds it (R346). -/
def State.answerOf (s : State) (r : LinkReq) (fromPartner : List Byte × Nat × Nat) : Option (List Byte × Nat × Nat) :=
  if s.stalled r.dest r.die r.req.addr then none
  else if r.dest == 9 then (if r.reached then some fromPartner else none) else r.resp

/-- RD_RESP (R343): a read's data returns; `resp` is what the partner sends (R358, R420). -/
def execRdResp (id : Nat) (resp : RespObs) (s : State) : Host.Outcome State Fault Refusal :=
  match s.req? id with
  | none => .next s
  | some r =>
    let bad := resp.gen && r.dest == 9
    match s.answerOf r (sliceB resp.data 0 r.req.len, if bad then 0xFFFFFFFF else 0, 0) with
    | some (d, c, e) => if r.req.write || e != 0 then .next s else .next ((if bad then s.raise 0x25C4 oHub uNone 0 else s).respond r d c 0)
    | none => .next s

/-- WR_RESP (R343): a write's response returns. -/
def execWrResp (id : Nat) (s : State) : Host.Outcome State Fault Refusal :=
  match s.req? id with
  | none => .next s
  | some r => match s.answerOf r ([], 0, 0) with
    | some (_, _, e) => if !r.req.write || e != 0 then .next s else .next (s.respond r [] 0 0)
    | none => .next s

/-- ERR_RESP (R343): an error response ends the access; `kind` is what the partner sends. -/
def execErrResp (id kind : Nat) (s : State) : Host.Outcome State Fault Refusal :=
  match s.req? id with
  | none => .next s
  | some r => match s.answerOf r (r.req.zeros, 0, kind % 8 + 1) with
    | some (d, _, e) => if e == 0 then .next s else .next (s.respond r d 0 e)
    | none => .next s

/-- The task of a request is aborted (R187, R346). -/
def State.abortRun (s : State) (k : Option Nat) : State :=
  match k.bind s.run? with
  | some r => s.stepAbort r
  | none => s

/-- REQUEST_TIMEOUT (R346): no response within 2,000 ns; one that comes in the last of them is delivered, so the timeout is judged after it. -/
def execRequestTimeout (id : Nat) (s : State) : Host.Outcome State Fault Refusal :=
  match s.req? id with
  | none => .next s
  | some r =>
    if r.late || r.gone || decide (s.now ≤ r.start + 2000) then .next s
    else
      let m := s.outModule r
      let s1 := ((s.setReq { r with late := true }).modEvent 0x2447 m).modCount Reg.LNK_CNT_TIMEOUT_count m 1
      let s2 := s1.abortRun r.req.run
      .next { s2 with out := s2.out ++ [.done r.req.src r.req.agent r.req.addr r.req.zeros 0 5] }

/-- PARTNER_RESPONSE_TIMEOUT (R358): the partner has not answered within 1,500 ns of the request's departure. -/
def execPartnerResponseTimeout (id : Nat) (s : State) : Host.Outcome State Fault Refusal :=
  match s.req? id with
  | none => .next s
  | some r => match r.sent with
    | none => .next s
    | some t =>
      if r.late || r.gone || decide (s.now ≤ t + 1500) then .next s
      else
        let s1 := ((s.setReq { r with late := true }).modEvent 0x244B 8).modCount Reg.LNK_CNT_TIMEOUT_count 8 1
        let s2 := s1.withhold? r.req.run
        .next { s2 with out := s2.out ++ [.done r.req.src r.req.agent r.req.addr r.req.zeros 0 5] }

/-! ### The partner's requests -/

/-- Does a firewall window allow an operation on a range (R359)? -/
def State.fwAllows (s : State) (a n : Nat) (write : Bool) : Bool :=
  (List.range 8).any fun w =>
    let b := s.fget (Reg.LNK_FW_base w)
    s.flag (Reg.LNK_FW_en w) && s.flag (if write then Reg.LNK_FW_wr w else Reg.LNK_FW_rd w)
      && decide (b ≤ a ∧ a + n ≤ b + s.fget (Reg.LNK_FW_SIZE_size_mib w) * 2 ^ 20)

/-- Partner requests not yet answered. -/
def State.partnerOut (s : State) : Nat := s.lnk.partner.queue.length + (s.mem.waiting.filter fun q => q.src == 0xA).length

/-- PARTNER_REQUEST (R359, R361, R362): a request of the partner, reading `len` bytes or writing `data`; `gen`: the generators of its check value
disagree (R420). One beyond its credits stays on the link. -/
def execPartnerRequest (tag addr len : Nat) (data : Option (List Byte)) (gen : Bool) (s : State) : Host.Outcome State Fault Refusal :=
  let n := match data with | some d => d.length | none => len
  let q : MemReq := { src := 0xA, agent := 0, addr := addr, len := n, write := data.isSome, data := data.getD [], sys := 5, ready := s.now,
                      issue := s.now, tag := tag }
  if s.fget Reg.LNK_PARTNER_STATUS_state != 3 || s.fget Reg.LNK_PARTNER_STATUS_credits ≤ s.partnerOut || n == 0 || 256 < addr % 256 + n then .next s
  else if s.fwAllows addr n data.isSome then
    let bad := gen && data.isSome && n == 256
    let s1 := if bad then s.raise 0x25C4 oHub uNone 0 else s
    .next { s1 with lnk := { s1.lnk with partner := { s1.lnk.partner with
      queue := s1.lnk.partner.queue ++ [{ q with chk := if bad then 0xFFFFFFFF else 0 }] } } }
  else
    let s1 := ((s.modEvent 0x0449 8).count Reg.LNK_CNT_FW_REFUSE_count 1).capturePartner addr 0x09
    .next (s1.toPartner 6 (respHead 6 tag 5))

/-- PARTNER_ISSUE (R361): the regulator issues the oldest request at its spacing. -/
def execPartnerIssue (s : State) : Host.Outcome State Fault Refusal :=
  match s.lnk.partner.queue with
  | [] => .next s
  | q :: rest =>
    match s.sysPort 0xA 0 (s.target 0xA q.addr) with
    | none => .next (({ s with lnk := { s.lnk with partner := { s.lnk.partner with queue := rest } } }).send { q with issue := s.now } 0)
    | some (_, _, share) =>
      if share == 0 || decide (s.now < s.lnk.partner.next) then .next s
      else
        let s1 := { s with lnk := { s.lnk with partner := { s.lnk.partner with queue := rest, next := s.now + ceilDiv 4000 share } } }
        .next ((s1.count Reg.LNK_CNT_P_BLK_blocks 1).send { q with issue := s1.now } 0)

end Sys2Proof.Machine
end

