-- ==== Sys2Proof/Machine/Seek.lean ====
section
/-! DEFINITION. The neighbour-search unit (R120–R126): BIN, RADIUS and KNN. -/

namespace Sys2Proof.Machine

/-- A SEEK entry (Table 4.4). -/
structure SeekEntry where
  op : Nat
  qry : Nat
  out : Nat
  dist : Nat
  n : Nat
  capK : Nat
  pts : Nat
  cell : Nat
  perm : Nat
  grid : Nat
  gx : Nat
  gy : Nat
  gz : Nat
  r2 : Nat
  resv : Bool
deriving DecidableEq, Repr

def readSeek (b : List Byte) : SeekEntry :=
  let w (i : Nat) : Nat := u b (8 * i) 8
  { op := bits (w 0) 7 0, qry := bits (w 0) 30 16 * 256, out := bits (w 0) 46 32 * 256, dist := bits (w 0) 62 48 * 256,
    n := bits (w 1) 18 0, capK := bits (w 1) 42 32, pts := bits (w 2) 14 0 * 256, cell := bits (w 2) 30 16 * 256,
    perm := bits (w 2) 46 32 * 256, grid := bits (w 2) 62 48 * 256, gx := bits (w 3) 10 0, gy := bits (w 3) 21 11,
    gz := bits (w 3) 32 22, r2 := bits (w 3) 63 33 * 2,
    resv := bits (w 0) 15 8 != 0 || bit (w 0) 31 || bit (w 0) 47 || bit (w 0) 63 || bits (w 1) 31 19 != 0
      || bits (w 1) 63 43 != 0 || bit (w 2) 15 || bit (w 2) 31 || bit (w 2) 47 || bit (w 2) 63 }

/-- Voxels of the grid. -/
def SeekEntry.g (x : SeekEntry) : Nat := x.gx * x.gy * x.gz

/-- √x of a finite value not negative, rounded up to FP32 (R122). -/
def sqrtUp : Num → Num
  | .fin _ m e =>
    if m == 0 then .zero false
    else
      let par : Nat := (e % 2).toNat
      let big := m * 2 ^ (par + 64)
      let root := isqrt big
      let q := 2 * root + b2n (root * root != big)
      let ex : Int := (e - par - 64) / 2 - 1
      let uu := ulpPlace fmtF32 q ex
      if uu ≤ ex then .fin false q ex else .fin false (ceilDiv q (2 ^ (uu - ex).toNat)) uu
  | x => x

/-- Least integer at or above the quotient of a value not negative and a positive one (R122). -/
def ceilQuot : Num → Num → Nat
  | .fin _ m1 e1, .fin _ m2 e2 =>
    let b := min e1 e2
    ceilDiv (m1 * 2 ^ (e1 - b).toNat) (m2 * 2 ^ (e2 - b).toNat)
  | _, _ => 0

/-- Origin and voxel edges of a grid record. -/
structure Grid where
  o : List Num
  v : List Num

/-- Three FP32 values. -/
def vec3 (b : List Byte) (o : Nat) : List Num := (List.range 3).map fun i => f32Of (u b (o + 4 * i) 4)

/-- The index of a coordinate along axis `a` (R121). -/
def Grid.axis (g : Grid) (a : Nat) (x : Num) : Option Int :=
  floorNum ((x.fsub (nth .nan g.o a)).fdiv (nth .nan g.v a))

/-- The voxel that contains a point. -/
def Grid.voxel (g : Grid) (p : List Num) : Option (Int × Int × Int) :=
  match g.axis 0 (nth .nan p 0), g.axis 1 (nth .nan p 1), g.axis 2 (nth .nan p 2) with
  | some x, some y, some z => some (x, y, z)
  | _, _, _ => none

/-- The cell number of a voxel of the grid, where it is inside. -/
def SeekEntry.cellOf (x : SeekEntry) (v : Int × Int × Int) : Option Nat :=
  if 0 ≤ v.1 ∧ v.1 < x.gx ∧ 0 ≤ v.2.1 ∧ v.2.1 < x.gy ∧ 0 ≤ v.2.2 ∧ v.2.2 < x.gz then
    some ((v.2.2.toNat * x.gy + v.2.1.toNat) * x.gx + v.1.toNat)
  else none

/-- What the index header says (R121). -/
structure SeekHead where
  cap : Nat
  g : Nat
  binned : Nat
  excluded : Nat

def readHead (b : List Byte) : SeekHead := ⟨u b 0 4, u b 4 4, u b 8 4, u b 12 4⟩

/-- Search reach along each axis (R122). -/
def SeekEntry.reach (x : SeekEntry) (g : Grid) : List Nat :=
  let r := sqrtUp (f32Of x.r2)
  (List.range 3).map fun a => ceilQuot r (nth .nan g.v a)

/-- Regions of the entry. Those of the points and of the binned order, for which a query gives no size, are as long as the index header says (log
entry 95). -/
def SeekEntry.regions (x : SeekEntry) (h : SeekHead) : List (Nat × Nat) :=
  [(x.cell - 256, 256), (x.cell, (x.g + 1) * 4), (x.grid, 32)] ++
  (if x.op == 1 then [(x.pts, x.n * 16), (x.perm, x.n * 4)]
    else [(x.pts, (h.binned + h.excluded) * 16), (x.perm, h.binned * 4), (x.qry, x.n * 16), (x.out, x.n * x.capK * 4),
      (x.dist, x.n * x.capK * 4)])

/-- Is the entry valid (R125)? -/
def SeekEntry.valid (x : SeekEntry) (g : Grid) (h : SeekHead) : Bool :=
  let dim (d : Nat) : Bool := decide (1 ≤ d ∧ d ≤ 1024)
  let pos (v : Num) : Bool := v.isFin && !v.isZero && !v.isNeg
  let r2 := f32Of x.r2
  !x.resv && decide (1 ≤ x.op ∧ x.op ≤ 3) && dim x.gx && dim x.gy && dim x.gz && decide (x.g ≤ 262144)
    && decide (1 ≤ x.n ∧ 1 ≤ x.capK)
    && (if x.op == 1 then decide (x.n ≤ 262144 ∧ x.capK ≤ 1024) else decide (x.n ≤ 16384 ∧ x.capK ≤ 64))
    && x.cell != 0 && g.v.all pos
    && r2.isFin && !(r2.isNeg && !r2.isZero) && (x.reach g).all (fun a => decide (a ≤ 4))
    && (x.op == 1 || (h.g == x.g && decide (1 ≤ h.cap ∧ h.cap ≤ 1024)))
    && (x.regions h).all (fun a => inStore a.1 a.2) && !anyOverlap (x.regions h)

/-- BIN (R121): the points of each voxel, and the points left out of the grid and over the cap. -/
structure Binned where
  perm : List Nat
  cells : List Nat
  outside : Nat
  capped : Nat

/-- The binning of points, given the cell of each. -/
def SeekEntry.binned (x : SeekEntry) (cells : List (Option Nat)) : Binned :=
  let idx := List.range cells.length
  let perCell := (List.range x.g).map fun v => idx.filter fun i => nth none cells i == some v
  let kept := perCell.map fun l => l.take x.capK
  let starts := kept.foldl (fun (acc : List Nat × Nat) l => (acc.1 ++ [acc.2], acc.2 + l.length)) ([], 0)
  { perm := kept.flatten, cells := starts.1 ++ [starts.2],
    outside := (cells.filter (·.isNone)).length,
    capped := perCell.foldl (fun a l => a + (l.length - x.capK)) 0 }

/-- The index header's 256 bytes. -/
def SeekEntry.head (x : SeekEntry) (b : Binned) : List Byte :=
  leBytes 4 x.capK ++ leBytes 4 x.g ++ leBytes 4 b.perm.length ++ leBytes 4 (b.outside + b.capped)
    ++ leBytes 2 x.gx ++ leBytes 2 x.gy ++ leBytes 2 x.gz ++ List.replicate 234 0

/-- Squared distance of R122. -/
def dist2 (p q : List Num) : Num :=
  let d (i : Nat) : Num :=
    let v := rne32 ((nth .nan p i).sub (nth .nan q i))
    rne32 (v.mul v)
  rne32 ((rne32 ((d 0).add (d 1))).add (d 2))

/-- The voxels a query visits, by ascending iz, iy, ix (R122, R123). -/
def SeekEntry.visits (x : SeekEntry) (g : Grid) (q : List Num) : List Nat :=
  match g.voxel q with
  | none => []
  | some v =>
    let h := x.reach g
    let span (a : Nat) (c : Int) : List Int := (List.range (2 * nth 0 h a + 1)).map fun i => c - (nth 0 h a : Nat) + (i : Nat)
    (span 2 v.2.2).flatMap fun z => (span 1 v.2.1).flatMap fun y => (span 0 v.1).filterMap fun ix => x.cellOf (ix, y, z)

/-- The points that lie in a voxel: their indices, in perm order; positions beyond the index are ignored. -/
def State.pointsOf (s : State) (r : TaskRun) (x : SeekEntry) (h : SeekHead) (v : Nat) : List Nat :=
  let w (a : Nat) : Nat := leNat (s.stGet r.die r.phys a 4)
  let lo := min h.binned (w (x.cell + 4 * v))
  let hi := min h.binned (w (x.cell + 4 * (v + 1)))
  ((List.range (hi - lo)).map fun i => w (x.perm + 4 * (lo + i))).filter fun p => p < h.binned + h.excluded

/-- A point's coordinates. -/
def State.point (s : State) (r : TaskRun) (base i : Nat) : List Num := vec3 (s.stGet r.die r.phys (base + 16 * i) 16) 0

/-- The qualifying points of a query in scan order, with their squared distances (R122). -/
def State.qualify (s : State) (r : TaskRun) (x : SeekEntry) (g : Grid) (h : SeekHead) (q : List Num) : List (Nat × Num) :=
  let r2 := f32Of x.r2
  ((x.visits g q).flatMap fun v => s.pointsOf r x h v).filterMap fun i =>
    let d := dist2 (s.point r x.pts i) q
    if d != .nan && !r2.lt d then some (i, d) else none

/-- Nearer, or as near with a lower index (R123). -/
def nearer (a b : Nat × Num) : Bool := a.2.lt b.2 || (!b.2.lt a.2 && decide (a.1 < b.1))

/-- What a query returns, filled up to k slots (R123). -/
def SeekEntry.answer (x : SeekEntry) (ps : List (Nat × Num)) : List Byte × List Byte :=
  let top := (if x.op == 3 then sortBy nearer ps else ps).take x.capK
  let fill := x.capK - top.length
  (words32Bytes (top.map Prod.fst ++ List.replicate fill 0xFFFFFFFF),
   words32Bytes (top.map (fun p => f32Bits 0 p.2) ++ List.replicate fill 0x7F800000))

/-- Ranges that a query reads. -/
def State.seekReads (s : State) (r : TaskRun) (x : SeekEntry) (g : Grid) (h : SeekHead) (q : List Num) : List (Nat × Nat) :=
  (x.visits g q).flatMap fun v =>
    let lo := leNat (s.stGet r.die r.phys (x.cell + 4 * v) 4)
    let ps := s.pointsOf r x h v
    [(x.cell + 4 * v, 8), (x.perm + 4 * lo, 4 * ps.length)] ++ ps.map fun i => (x.pts + 16 * i, 16)

/-- One BIN entry. -/
def State.binEntry (s : State) (r : TaskRun) (x : SeekEntry) (g : Grid) (o : UnitObs) : State :=
  let t := r.die
  let e := r.phys
  let s1 := s.verify r [(x.pts, x.n * 16), (x.grid, 32)]
  let cells := (List.range x.n).map fun i => (g.voxel (s1.point r x.pts i)).bind x.cellOf
  let b := x.binned cells
  let s2 := s1.unitWrite r (x.cell - 256) (x.head b)
  let s3 := (s2.unitWrite r x.cell (words32Bytes b.cells)).unitWrite r x.perm (words32Bytes b.perm)
  let s4 := [(x.cell - 256, 256), (x.cell, (x.g + 1) * 4), (x.perm, b.perm.length * 4)].foldl
    (fun s w => s.poisonBlocks r w.1 w.2 o.gen) s3
  let s5 := s4.countOnce r 0x0143 (Reg.SEK_CNT_OUTSIDE_count t e) b.outside
  s5.countOnce r 0x0142 (Reg.SEK_CNT_CAP_count t e) b.capped

/-- One RADIUS or KNN entry. Where the distance copies differ in query `o.item`, the answers to the queries before it are written (R126, R556). -/
def State.queryEntry (s : State) (r : TaskRun) (x : SeekEntry) (g : Grid) (h : SeekHead) (o : UnitObs) : State :=
  let t := r.die
  let e := r.phys
  let qs := (List.range x.n).map fun i => s.point r x.qry i
  let s1 := s.verify r ([(x.qry, x.n * 16), (x.cell - 256, 256), (x.grid, 32)] ++ qs.flatMap fun q => s.seekReads r x g h q)
  let found := qs.map fun q => s1.qualify r x g h q
  let ans := found.map x.answer
  let done := if o.copies then ans.take o.item else ans
  let sw := (s1.unitWrite r x.out (done.flatMap Prod.fst)).unitWrite r x.dist (done.flatMap Prod.snd)
  let s2 := if o.copies then sw.checkerFault r 0x2145 (Reg.SEK_ERR t e) r.pos o.item else sw
  let s3 := [(x.out, x.n * x.capK * 4), (x.dist, x.n * x.capK * 4)].foldl (fun s w => s.poisonBlocks r w.1 w.2 o.gen) s2
  let excess := found.foldl (fun a l => a + (l.length - x.capK)) 0
  let s4 := if x.op == 2 then s3.countOnce r 0x0144 (Reg.SEK_CNT_TRUNC_count t e) excess else s3
  s4.count (Reg.SEK_CNT_QUERY_count t e) x.n

/-- One SEEK entry of a running task (R120–R126). -/
def State.seekEntry (s : State) (r : TaskRun) (x : SeekEntry) (o : UnitObs) : State :=
  let t := r.die
  let e := r.phys
  let err := Reg.SEK_ERR t e
  let s1 := s.storeEcc r o
  let gb := s1.stGet t e x.grid 32
  let g : Grid := { o := vec3 gb 0, v := vec3 gb 12 }
  let h := readHead (s1.stGet t e (x.cell - 256) 256)
  if !x.valid g h then s1.badEntry r o 0x2141 err r.pos 0
  else
    let s3 := if x.op == 1 then (if o.copies then s1.checkerFault r 0x2145 err r.pos o.item else s1).binEntry r x g o
      else s1.queryEntry r x g h o
    s3.nextEntry r.key

/-- The entry a SEEK task on engine `e` of die `t` is at, for the command of operation `op`: an entry of no listed operation is met
by any of the unit's commands. -/
def State.runSeek (s : State) (t e op : Nat) (o : UnitObs) : State :=
  match s.unitTask t e 5 with
  | none => s
  | some (r, d) =>
    if d.listLen ≤ r.pos then s
    else
      let x := readSeek (s.entryBytes r d)
      if 1 ≤ x.op && x.op ≤ 3 && x.op != op then s else s.seekEntry r x o

/-- BIN (R121). -/
def execBin (t e : Nat) (o : UnitObs) (s : State) : Host.Outcome State Fault Refusal := .next (s.runSeek t e 1 o)
/-- RADIUS (R122, R123). -/
def execRadius (t e : Nat) (o : UnitObs) (s : State) : Host.Outcome State Fault Refusal := .next (s.runSeek t e 2 o)
/-- KNN (R122, R123). -/
def execKnn (t e : Nat) (o : UnitObs) (s : State) : Host.Outcome State Fault Refusal := .next (s.runSeek t e 3 o)

end Sys2Proof.Machine
end

