-- ==== Sys2Proof/Machine/Smp.lean ====
section
/-! DEFINITION. The side-band management port (R379–R383, R552): its shadow, its transactions and its actions. -/

namespace Sys2Proof.Machine

/-! ### The shadow (R381) -/

/-- A word of the shadow. -/
def State.shadow (s : State) (i : Nat) : Nat := smGet 0 s.smp.words i

def putWords (m : SMap Nat) (ws : List (Nat × Nat)) : SMap Nat := ws.foldl (fun m w => smPut 0 m w.1 (w.2 % 2 ^ 32)) m

/-- The words that Phobos writes (Table 13.10). -/
def State.phobosWords (s : State) : List (Nat × Nat) :=
  let up := (List.range 6).foldl (fun n p => n + s.fget (Reg.ETH_PORT_STATUS_link_up p) * 2 ^ p) 0
  [(0x00, s.fget ⟨Reg.PKG_ID, 31, 0⟩),
   (0x03, s.fget Reg.PLN_STATUS_kind + s.fget Reg.PLN_STATUS_running * 4 + s.fget Reg.PLN_STATUS_mode * 8
      + s.fget Reg.PLN_STATUS_lost_die * 2 ^ 8),
   (0x04, s.fget ⟨Reg.PKG_DIE_STATE, 15, 0⟩ + s.fget Reg.PACE_ALARM_SUM_alarm_die * 2 ^ 16 + b2n s.inAlarm * 2 ^ 24),
   (0x05, s.now % 2 ^ 32), (0x06, s.now / 2 ^ 32), (0x07, s.saf.lastCode + s.saf.c2Count * 2 ^ 16), (0x08, (s.rd Reg.HLT_SCORE).toNat),
   (0x09, s.fget Reg.ING_DT_STATUS_state + up * 4)]

/-- The words that Deimos writes (Table 13.10). -/
def State.deimosWords (s : State) : List (Nat × Nat) :=
  [(0x02, b2n s.pins.phobosLow * 4 + b2n s.pins.deimosLow * 8 + b2n s.pins.faultLow * 16 + b2n s.saf.safeReqSeen * 32
      + s.fget Reg.SAF_STATUS_highest * 2 ^ 6 + s.smp.action % 256 * 2 ^ 16 + s.smp.result * 2 ^ 24),
   (0x10, s.fget ⟨Reg.SAF_MON, 31, 0⟩)]

/-- SHADOW_REFRESH (R381): every 1 µs the SMP opens a generation; the islands in `writers` (0 Phobos, 1 Deimos) write their words. -/
def execShadowRefresh (writers : List Nat) (s : State) : Host.Outcome State Fault Refusal :=
  if s.now < s.smp.genAt + 1000 || s.pow.phase == .stopped then .next s
  else
    let w (i : Nat) : Bool := writers.contains i && s.islandUp i
    let gen := (s.smp.gen + 1) % 2 ^ 32
    let stale := s.smp.stale.filter fun i => !w i
    let m1 := if w 0 then putWords s.smp.words s.phobosWords else s.smp.words
    let m2 := if w 1 then putWords m1 s.deimosWords else m1
    let fresh := b2n (!stale.contains 0) + b2n (!stale.contains 1) * 2
    let m3 := putWords m2 [(0x01, gen), (0x02, smGet 0 m2 0x02 / 4 * 4 + fresh)]
    let crc := crc32c ((List.range 0xFF).flatMap fun i => leBytes 4 (smGet 0 m3 i))
    let at_ (i : Nat) : Time := if w i then s.now else nth 0 s.smp.wroteAt i
    .next { s with smp := { s.smp with gen := gen, genAt := s.now, words := putWords m3 [(0xFF, crc)], stale := stale, wroteAt := [at_ 0, at_ 1] } }

/-- SHADOW_STALE (R381): an island has written no word for 10 µs. -/
def execShadowStale (isl : Nat) (s : State) : Host.Outcome State Fault Refusal :=
  if 2 ≤ isl || s.smp.stale.contains isl || s.now < nth 0 s.smp.wroteAt isl + 10000 then .next s
  else
    let s1 := { s with smp := { s.smp with stale := s.smp.stale ++ [isl] } }
    .next (if isl == 0 && s1.islandUp 1 then s1.raiseKy 0x0505 0x15 0 0xFF else s1)

/-! ### Transactions (R380) -/

/-- A transaction other than a CONFIRM cancels an arm (R383). -/
def State.disarm (s : State) : State := { s with smp := { s.smp with arm := none } }

/-- STATUS_READ (R380, R381): words of the newest complete generation, the address wrapping at 0x00FF; above it words read zero. -/
def execStatusRead (addr words : Nat) (s : State) : Host.Outcome State Fault Refusal :=
  let s1 := s.disarm
  let bs := (List.range words).flatMap fun i => leBytes 4 (if addr ≤ 0xFF then s1.shadow ((addr + i) % 256) else 0)
  .next { s1 with out := s1.out ++ [.smp bs] }

/-- The frozen log as its bytes (R552); zeros follow. -/
def State.frozenLog (s : State) : List Byte :=
  match s.smp.frozen with
  | none => []
  | some (flags, at_, total, head) =>
    let slots (n : Nat) (rs : List (List Byte)) : List Byte := sliceB (rs.flatMap fun r => r) 0 (16 * n)
    sliceB (leBytes 4 0x474C504F ++ leBytes 4 flags ++ leBytes 8 at_ ++ leBytes 4 total ++ leBytes 1 head
        ++ leBytes 1 s.smp.phobosLog.length ++ leBytes 1 s.smp.deimosLog.length) 0 64
      ++ slots 64 s.smp.phobosLog ++ slots 16 s.smp.deimosLog

/-- LOG_READ (R380): bytes of the frozen log, 16 KiB; zero before the first LOG_FREEZE. -/
def execLogRead (addr n : Nat) (s : State) : Host.Outcome State Fault Refusal :=
  let s1 := s.disarm
  .next { s1 with out := s1.out ++ [.smp (sliceB (s1.frozenLog) addr n)] }

/-! ### Actions (R382, R383) -/

/-- ACTION_ARM (R383): an arm replaces an earlier one; it holds when its data is a generation of the last 1,000. -/
def execActionArm (addr data : Nat) (s : State) : Host.Outcome State Fault Refusal :=
  let recent := decide ((s.smp.gen + 2 ^ 32 - data % 2 ^ 32) % 2 ^ 32 < 1000)
  let arm : Option SmpArm := if recent then some { addr := addr % 2 ^ 16, data := data % 2 ^ 32, at_ := s.now } else none
  .next { s with smp := { s.smp with arm := arm } }

/-- ACTION_ARM_EXPIRY (R383): 1 ms has passed without a CONFIRM. -/
def execActionArmExpiry (s : State) : Host.Outcome State Fault Refusal :=
  match s.smp.arm with
  | some a => .next (if a.at_ + 1000000 < s.now then s.disarm else s)
  | none => .next s

/-- An action rejected: result 2 disabled, 3 sequence error. -/
def State.smpReject (s : State) (result : Nat) : State :=
  ({ s with smp := { s.smp with result := result } }.raise 0x0502 oHub 0x15 0).count Reg.SMP_CNT_REJECT_count 1

/-- An action performed. -/
def State.smpDone (s : State) : State :=
  ({ s with smp := { s.smp with result := 1 } }.raise 0x0501 oHub 0x15 0).count Reg.SMP_CNT_ACTION_count 1

/-- A CONFIRM of an action (R383): the arm is used up; without one for the same address and data within 1 ms it is a breach. `enabled`: by Table
13.11. -/
def State.smpConfirm (s : State) (action arg data : Nat) (enabled : Bool) (act : State → State) : State :=
  let s1 := { s.disarm with smp := { s.disarm.smp with action := action } }
  let ok := match s.smp.arm with
    | some a => a.addr == action + arg % 256 * 256 && data % 2 ^ 32 == 0xFFFFFFFF - a.data && decide (s.now ≤ a.at_ + 1000000)
    | none => false
  if s.pow.phase == .stopped then s
  else if !ok || (action != 4 && arg % 256 != 0) then s1.smpReject 3
  else if !enabled then s1.smpReject 2
  else act s1

/-- SAFE_STATE (R382): both safe-state pins low, 0x4503. -/
def execSafeState (arg data : Nat) (s : State) : Host.Outcome State Fault Refusal :=
  .next (s.smpConfirm 1 arg data true fun s1 =>
    let s2 := (s1.smpDone.raise 0x4503 oHub 0x15 0).enterSafe 0x4503
    { s2 with pins := { s2.pins with phobosLow := true, deimosLow := true } })

/-- APP_RESET (R382): an application-class reset, a software request of the SMP. -/
def execAppReset (arg data : Nat) (s : State) : Host.Outcome State Fault Refusal :=
  .next (s.smpConfirm 2 arg data (s.pow.committed && s.flag Reg.SMP_CTRL_reset_en) fun s1 => s1.smpDone.takeReset (2 ^ 5) 2)

/-- LOG_FREEZE (R382, R552): the islands' logs are copied; Phobos's only when it is fresh. -/
def execLogFreeze (arg data : Nat) (s : State) : Host.Outcome State Fault Refusal :=
  .next (s.smpConfirm 3 arg data true fun s1 =>
    let p := !s1.smp.stale.contains 0
    let d := s1.islandUp 1
    let kept := min 16 s1.saf.dlogTotal
    let ds := (List.range kept).map fun i =>
      let slot := (s1.saf.dlogTotal - kept + i) % 16
      leBytes 8 (s1.rd (Reg.SAF_DLOG slot 0)).toNat ++ leBytes 8 (s1.rd (Reg.SAF_DLOG slot 1)).toNat
    let fz := (b2n p + b2n d * 2, s1.now, s1.fget Reg.SAF_STATUS_total, s1.fget Reg.SAF_LOG_HEAD_head)
    { s1 with smp := { s1.smp with frozen := some fz, phobosLog := if p then s1.saf.ring.map (fun (r : Nat × Nat) => s1.logRecord r.1) else [],
                                   deimosLog := if d then ds else [] } }.smpDone)

/-- SMP_MODE_REQ (R382, R161): PLN_MODE_REQ is written as the SMP. -/
def execSmpModeReq (arg data : Nat) (s : State) : Host.Outcome State Fault Refusal :=
  .next (s.smpConfirm 4 arg data (s.pow.committed && s.flag Reg.SMP_CTRL_mode_en) fun s1 => (s1.smpDone).modeReq (arg % 256))

end Sys2Proof.Machine
end

