-- ==== Sys2Proof/Machine/Sort.lean ====
section
/-! DEFINITION. The sort-and-merge unit (R115–R119). -/

namespace Sys2Proof.Machine

/-- A sort entry (Table 4.3). -/
structure SortEntry where
  op : Nat
  keyMode : Nat
  desc : Bool
  payload : Bool
  key : Nat
  pay : Nat
  dst : Nat
  n : Nat
  aux : Nat
  scr : Nat
  dpay : Nat
  resv : Bool
deriving DecidableEq, Repr

def readSort (b : List Byte) : SortEntry :=
  let w (i : Nat) : Nat := u b (8 * i) 8
  { op := bits (w 0) 7 0, keyMode := bits (w 0) 9 8, desc := bit (w 0) 10, payload := bit (w 0) 11,
    key := bits (w 0) 30 16 * 256, pay := bits (w 0) 46 32 * 256, dst := bits (w 0) 62 48 * 256, n := bits (w 1) 18 0,
    aux := bits (w 1) 50 32, scr := bits (w 2) 14 0 * 256, dpay := bits (w 2) 30 16 * 256,
    resv := bits (w 0) 15 12 != 0 || bit (w 0) 31 || bit (w 0) 47 || bit (w 0) 63 || bits (w 1) 31 19 != 0
      || bits (w 1) 63 51 != 0 || bit (w 2) 15 || bits (w 2) 63 31 != 0 || w 3 != 0 }

/-- Keys that the entry writes. -/
def SortEntry.outN (x : SortEntry) : Nat := if x.op == 3 then x.aux else x.n

/-- Does it use scratch? -/
def SortEntry.usesScr (x : SortEntry) : Bool := x.op != 2

def SortEntry.scrTile (x : SortEntry) : Nat × Nat := (x.scr, x.n * (if x.payload then 12 else 8))

/-- Input, scratch and output regions. -/
def SortEntry.regions (x : SortEntry) : List (Nat × Nat) :=
  [(x.key, x.n * 8), (x.dst, x.outN * 8)] ++ (if x.usesScr then [x.scrTile] else [])
    ++ (if x.payload then [(x.pay, x.n * 4), (x.dpay, x.outN * 4)] else [])

/-- Is the entry valid (R119)? An operation that Table 4.3 does not list makes it invalid too (log entry 95). -/
def SortEntry.valid (x : SortEntry) : Bool :=
  !x.resv && decide (1 ≤ x.op ∧ x.op ≤ 3) && x.keyMode != 3 && decide (1 ≤ x.n ∧ x.n ≤ 262144)
    && (match x.op with
      | 2 => decide (1 ≤ x.aux ∧ x.aux + 1 ≤ x.n)
      | 3 => decide (1 ≤ x.aux ∧ x.aux ≤ 4096 ∧ x.aux ≤ x.n)
      | _ => true)
    && x.regions.all (fun a => inStore a.1 a.2) && !anyOverlap x.regions

/-- A key as a number whose natural order is the order of R116 (ascending). -/
def sortKey (mode k : Nat) : Nat :=
  match mode with
  | 1 => if k < 2 ^ 63 then k + 2 ^ 63 else k - 2 ^ 63
  | 2 =>
    let hi := k / 2 ^ 32
    (if hi < 2 ^ 31 then hi + 2 ^ 31 else 2 ^ 32 - 1 - hi) * 2 ^ 32 + k % 2 ^ 32
  | _ => k

/-- Does key `a` come strictly before key `b`? -/
def SortEntry.before (x : SortEntry) (a b : Nat) : Bool :=
  if x.desc then decide (sortKey x.keyMode b < sortKey x.keyMode a) else decide (sortKey x.keyMode a < sortKey x.keyMode b)

/-- Two runs merged, the first preceding at equal keys (R116). -/
def mergeRuns (lt : Nat → Nat → Bool) : Nat → List (Nat × Nat) → List (Nat × Nat) → List (Nat × Nat)
  | 0, xs, ys => xs ++ ys
  | _, [], ys => ys
  | _, xs, [] => xs
  | f + 1, x :: xs, y :: ys =>
    if lt y.1 x.1 then y :: mergeRuns lt f (x :: xs) ys else x :: mergeRuns lt f xs (y :: ys)

/-- Stable merge sort on a list: `f` bounds the depth of halving. -/
def sortRuns (lt : Nat → Nat → Bool) : Nat → List (Nat × Nat) → List (Nat × Nat)
  | 0, xs => xs
  | f + 1, xs =>
    if xs.length ≤ 1 then xs
    else
      let h := xs.length / 2
      mergeRuns lt xs.length (sortRuns lt f (xs.take h)) (sortRuns lt f (xs.drop h))

/-- What the entry writes, from its keys with their payloads (R116). -/
def SortEntry.result (x : SortEntry) (ks : List (Nat × Nat)) : List (Nat × Nat) :=
  match x.op with
  | 2 => mergeRuns x.before x.n (ks.take x.aux) (ks.drop x.aux)
  | 3 => (sortRuns x.before 20 ks).take x.aux
  | _ => sortRuns x.before 20 ks

/-- Every adjacent pair is in order. -/
def SortEntry.ordered (x : SortEntry) (ks : List (Nat × Nat)) : Bool :=
  (ks.zip (ks.drop 1)).all fun p => !x.before p.2.1 p.1.1

/-- The self-check of R118 on what was written. -/
def SortEntry.checks (x : SortEntry) (ks out : List (Nat × Nat)) : Bool :=
  let sum (f : Nat × Nat → Nat) (m : Nat) (l : List (Nat × Nat)) : Nat := l.foldl (fun a p => (a + f p) % m) 0
  x.ordered out &&
  if x.op == 3 then out.length == x.aux
  else sum Prod.fst (2 ^ 64) out == sum Prod.fst (2 ^ 64) ks && sum Prod.snd (2 ^ 32) out == sum Prod.snd (2 ^ 32) ks

/-- Words of 64 bits. -/
def words64 (bs : List Byte) : Nat → List Nat
  | 0 => []
  | n + 1 => leNat (bs.take 8) :: words64 (bs.drop 8) n

/-- One sort entry of a running task (R115–R119, R421). `o.copies` says that a fault of the unit spoiled the output, which
the check of R118 finds: what it wrote is then undefined. -/
def State.sortEntry (s : State) (r : TaskRun) (x : SortEntry) (o : UnitObs) : State :=
  let t := r.die
  let e := r.phys
  let err := Reg.SRT_ERR t e
  let s1 := s.storeEcc r o
  if !x.valid then s1.badEntry r o 0x2101 err r.pos 0
  else
    let reads := (x.key, x.n * 8) :: (if x.payload then [(x.pay, x.n * 4)] else [])
    let s2 := s1.verify r reads
    let keys := words64 (s2.stGet t e x.key (x.n * 8)) x.n
    let pays := if x.payload then words32 (s2.stGet t e x.pay (x.n * 4)) x.n else keys.map fun _ => 0
    let ks := keys.zip pays
    let out := x.result ks
    let s3 := if x.usesScr && !s2.isWithheld r.key then s2.makeHazy t e x.scr x.scrTile.2 else s2
    let s4 := s3.unitWrite r x.dst (out.flatMap fun p => leBytes 8 p.1)
    let s5 := if x.payload then s4.unitWrite r x.dpay (words32Bytes (out.map Prod.snd)) else s4
    let s6 := (s5.poisonBlocks r x.dst (x.outN * 8) o.gen).count (Reg.SRT_CNT_KEYS_keys t e) x.n
    let s7 := if x.payload then s6.poisonBlocks r x.dpay (x.outN * 4) o.gen else s6
    let s8 := if o.copies && !s7.isWithheld r.key then
        let sh := s7.makeHazy t e x.dst (x.outN * 8)
        if x.payload then sh.makeHazy t e x.dpay (x.outN * 4) else sh
      else s7
    let bad := (List.range out.length).findIdx? fun i => i + 1 < out.length && x.before (nth (0, 0) out (i + 1)).1 (nth (0, 0) out i).1
    let s9 := if o.copies || !x.checks ks out then
        (s8.checkerFault r 0x2102 err r.pos (if o.copies then o.item else bad.getD 0)).count (Reg.SRT_CNT_CHK_count t e) 1
      else s8
    s9.nextEntry r.key

/-- The entry a SORT task on engine `e` of die `t` is at, for the command of operation `op`: an entry of no listed operation is met
by any of the unit's commands. -/
def State.runSort (s : State) (t e op : Nat) (o : UnitObs) : State :=
  match s.unitTask t e 4 with
  | none => s
  | some (r, d) =>
    if d.listLen ≤ r.pos then s
    else
      let x := readSort (s.entryBytes r d)
      if 1 ≤ x.op && x.op ≤ 3 && x.op != op then s else s.sortEntry r x o

/-- SORT (R116). -/
def execSort (t e : Nat) (o : UnitObs) (s : State) : Host.Outcome State Fault Refusal := .next (s.runSort t e 1 o)
/-- MERGE (R116). -/
def execMerge (t e : Nat) (o : UnitObs) (s : State) : Host.Outcome State Fault Refusal := .next (s.runSort t e 2 o)
/-- TOPK (R116). -/
def execTopk (t e : Nat) (o : UnitObs) (s : State) : Host.Outcome State Fault Refusal := .next (s.runSort t e 3 o)

end Sys2Proof.Machine
end

