-- ==== Sys2Proof/Machine/Vector.lean ====
section
/-! DEFINITION. The vector unit (R89–R92, R425): element-wise arithmetic over operands in the local store. -/

namespace Sys2Proof.Machine

/-- A vector entry (Table 3.8). -/
structure VecEntry where
  op : Nat
  fmt : Nat
  ftz : Bool
  stoch : Bool
  sat : Bool
  a : Nat
  b : Nat
  bImm : Bool
  c : Nat
  imm : Nat
  d : Nat
  count : Nat
deriving DecidableEq, Repr

def readVec (b : List Byte) : VecEntry :=
  let w0 := u b 0 8
  let w1 := u b 8 8
  { op := bits w0 7 0, fmt := bits w0 11 8, ftz := bit w0 12, stoch := bit w0 13, sat := bit w0 14,
    a := bits w0 30 16 * 256, b := bits w0 46 32 * 256, bImm := bit w0 47, c := bits w0 62 48 * 256,
    imm := bits w1 31 0, d := bits w1 46 32 * 256, count := bits w1 61 48 }

/-- Codes of Table 3.9. -/
def vecListed (op : Nat) : Bool :=
  decide (1 ≤ op ∧ op ≤ 0xA) || decide (0x10 ≤ op ∧ op ≤ 0x13) || op == 0x20 || decide (0x40 ≤ op ∧ op ≤ 0x46)

/-- The formats that Table 3.9 lists for an operation, and for CVT the codes of Table 3.4 except INT4. -/
def VecEntry.fmtOk (v : VecEntry) : Bool :=
  if v.op == 0x20 then v.fmt != 1 && decide (v.fmt ≤ 0xD) && v.imm % 16 != 1 && decide (v.imm % 16 ≤ 0xD)
  else if 0x40 ≤ v.op then v.fmt == 0xC
  else if v.op == 0xA then decide (0xA ≤ v.fmt ∧ v.fmt ≤ 0xD)
  else v.fmt == 0xA || v.fmt == 0xB || v.fmt == 0xD

/-- Format of the destination. -/
def VecEntry.dfmt (v : VecEntry) : Nat := if v.op == 0x20 then v.imm % 16 else v.fmt

/-- Elements of the entry: a vector is 256 elements of 32 bits or 512 of 16 bits; one of CVT has as many as the wider of its two
formats, 512 where both have 16 bits or less (log entry 28). -/
def VecEntry.elems (v : VecEntry) : Nat :=
  v.count * (if 32 ≤ max (elemBits v.fmt) (elemBits v.dfmt) then 256 else 512)

/-- Does the operation read b, and c? -/
def VecEntry.usesB (v : VecEntry) : Bool := decide (v.op ≤ 6) || v.op == 9 || v.op == 0xA || decide (0x40 ≤ v.op)
def VecEntry.usesC (v : VecEntry) : Bool := v.op == 4 || v.op == 0xA

/-- Bytes of a tensor of `n` elements: the elements, and for a microscaling format its scales from the next 256-byte boundary
(R72, R96). -/
def tensorBytes (code n : Nat) : Nat :=
  if isMX code then roundUp (elemBytes code n) 256 + n / 32 else elemBytes code n

/-- Operand ranges that the entry reads. -/
def VecEntry.reads (v : VecEntry) : List (Nat × Nat) :=
  let n := tensorBytes v.fmt v.elems
  (v.a, n) :: ((if v.usesB && !v.bImm then [(v.b, n)] else []) ++ (if v.usesC then [(v.c, n)] else []))

/-- The range it writes. -/
def VecEntry.dst (v : VecEntry) : Nat × Nat := (v.d, tensorBytes v.dfmt v.elems)

/-- Is the entry valid (R89)? -/
def VecEntry.valid (v : VecEntry) : Bool :=
  vecListed v.op && decide (1 ≤ v.count ∧ v.count ≤ 8192) && v.fmtOk
    && (v.dst :: v.reads).all fun x => inStore x.1 x.2

/-- A subnormal of a floating format. -/
def isSubnormal (code : Nat) (x : Num) : Bool :=
  match fltOf code with
  | some f => x.isFin && !x.isZero && decide (x.lead < f.emin)
  | none => false

/-- Subnormals flushed to zero of the same sign (R92). -/
def flush (ftz : Bool) (code : Nat) (x : Num) : Num := if ftz && isSubnormal code x then .zero x.isNeg else x

/-- Value of element `i` of a tensor: its element under its block's scale (R70, R72). -/
def tensorVal (code : Nat) (ftz : Bool) (n : Nat) (bs : List Byte) (i : Nat) : Num :=
  let x := flush ftz code (decElem code (elemAt code bs i))
  if isMX code then
    match mxExp (nth 0 bs (roundUp (elemBytes code n) 256 + i / 32)).toNat with
    | some e => x.scale e
    | none => .nan
  else x

/-- INT32 operations 0x40–0x46 of Table 3.9. -/
def intOp (op a b : Nat) : Nat :=
  match op with
  | 0x40 => (a + b) % 2 ^ 32
  | 0x41 => a * b % 2 ^ 32
  | 0x42 => a * 2 ^ (b % 32) % 2 ^ 32
  | 0x43 => unsx 32 (sx 32 a / (2 ^ (b % 32) : Nat))
  | 0x44 => a &&& b
  | 0x45 => a ||| b
  | _ => a ^^^ b

/-- 1.0 -/
def one : Num := .fin false 1 0

/-- The result of a floating operation on decoded operands, before rounding; `pa`, `pb` are the operand bits. -/
def fltOp (op fmt pa pb : Nat) (a b c : Num) : Num :=
  match op with
  | 0x01 => a.add b
  | 0x02 => a.sub b
  | 0x03 => a.mul b
  | 0x04 => (a.mul b).add c
  | 0x05 => minmax 5 fmt pa pb a b
  | 0x06 => minmax 6 fmt pa pb a b
  | 0x07 => a.abs
  | 0x08 => a.neg
  | 0x09 => if a.lt b then one else .zero false
  | 0x0A => if c.isZero then b else a
  | _ => a

/-- Special functions in a format (R91, Table 3.10). -/
def specialOp (op fmt pa : Nat) (a : Num) : Num :=
  match fltOf fmt with
  | none => a
  | some f =>
    let two := if fmt == 0xD then 2 else 1
    let pick := Config.ulpPick op fmt pa 0
    match op with
    | 0x10 => exp2In f two pick a
    | 0x11 => log2In f two pick a
    | 0x12 => recipIn f 1 pick a
    | _ => rsqrtIn f two pick a

/-- How element `i` of entry `pos` is rounded. -/
def VecEntry.mode (v : VecEntry) (seed pos i : Nat) : RMode :=
  if v.stoch then .stoch (stochOf seed (pos * 2 ^ 32 + i)) else .rne

/-- A result rounded to a format. -/
def VecEntry.round (v : VecEntry) (seed pos i code : Nat) (x : Num) : Narrowed :=
  let r := narrow code v.sat (v.mode seed pos i) x
  if r.bits.isNone then { r with num := flush v.ftz code r.num } else r

/-- A result rounded to a format and encoded. -/
def VecEntry.enc (v : VecEntry) (seed pos n i code : Nat) (x : Num) : Nat :=
  (v.round seed pos i code x).enc code (Config.nanCode n i code)

/-- Result bits of every element of an entry other than CVT; `as_`, `bs`, `cs` are operand bytes. -/
def VecEntry.results (v : VecEntry) (seed pos n : Nat) (as_ bs cs : List Byte) : List Nat :=
  (List.range v.elems).map fun i =>
    let pa := elemAt v.fmt as_ i
    let pb := if v.bImm then v.imm else elemAt v.fmt bs i
    let pc := elemAt v.fmt cs i
    if v.fmt == 0xC then (if v.op == 0xA then (if pc == 0 then pb else pa) else intOp v.op pa pb)
    else
      let bf := if v.bImm then 0xD else v.fmt
      let a := flush v.ftz v.fmt (decElem v.fmt pa)
      let b := flush v.ftz bf (decElem bf pb)
      let c := flush v.ftz v.fmt (decElem v.fmt pc)
      let bitsOf (x : Num) (p : Nat) : Nat := if x.isZero then packFlt ((fltOf v.fmt).getD fmtF32) 0 x else p
      if v.op == 0xA && !(c.isZero && v.bImm) then (if c.isZero then bitsOf b pb else bitsOf a pa)
      else if 0x10 ≤ v.op then
        let w : VecEntry := { v with stoch := false, sat := false }
        w.enc seed pos n i v.fmt (specialOp v.op v.fmt pa a)
      else
        let w : VecEntry := { v with sat := false }
        w.enc seed pos n i v.fmt (fltOp v.op v.fmt pa pb a b c)

/-- A CVT result (R80, R81, R89, Table 3.7): its elements narrowed, for a microscaling destination under the scales of their blocks. A block of
scale 0xFF is 32 elements of zero bits, each of them non-finite. -/
def VecEntry.cvtRow (v : VecEntry) (seed pos n : Nat) (as_ : List Byte) : NarrowRow :=
  let m := v.elems
  let xs := (List.range m).map fun i => tensorVal v.fmt v.ftz m as_ i
  let df := v.dfmt
  let block (g : Nat) : Nat × List (Nat × Narrowed) :=
    let vs := (xs.drop (32 * g)).take 32
    let sc := mxScale df vs
    (sc, (List.range 32).map fun j => (32 * g + j,
      if sc == 0xFF then { num := .zero false, bits := some 0, nonf := true }
      else v.round seed pos (32 * g + j) df ((nth .nan vs j).scale (127 - (sc : Int)))))
  let blocks := if isMX df then (List.range (m / 32)).map block else []
  let rs := if isMX df then blocks.flatMap Prod.snd
    else (List.range m).map fun i => (i, v.round seed pos i df (nth .nan xs i))
  { elems := rs.map fun r => r.2.enc df (Config.nanCode n r.1 df), scales := blocks.map Prod.fst,
    sat := (rs.filter (·.2.sat)).length, nonf := (rs.filter (·.2.nonf)).length }

/-- Where the bytes of a CVT result go: elements, then scales. -/
def VecEntry.converted (v : VecEntry) (x : NarrowRow) : List (Nat × List Byte) :=
  (v.d, packElems v.dfmt x.elems)
    :: (if isMX v.dfmt then [(v.d + roundUp (elemBytes v.dfmt v.elems) 256, x.scales.map fun b => BitVec.ofNat 8 b)] else [])

/-- Elements of the entry that are written: where the copies of the unit differ at vector `o.item`, those of the vectors before it (R425, R556). -/
def VecEntry.written (v : VecEntry) (o : UnitObs) : Nat := if o.copies then min v.elems (o.item * (v.elems / v.count)) else v.elems

/-- One vector entry of a running task (R89–R92, R421, R425). A destination that overlaps an operand at another place is left
undefined: the order of its reads and writes is not stated (log entry 29). -/
def State.vectorEntry (s : State) (r : TaskRun) (seed : Nat) (v : VecEntry) (o : UnitObs) : State :=
  let t := r.die
  let e := r.phys
  let s1 := s.storeEcc r o
  if !v.valid then s1.badEntry r o 0x2083 (Reg.ENG_ERR t e) r.pos 0
  else
    let (n, s3) := (s1.verify r v.reads).draw
    let m := tensorBytes v.fmt v.elems
    let bytes (off : Nat) (on : Bool) : List Byte := if on then s3.stGet t e off m else []
    let as_ := bytes v.a true
    let row := if v.op == 0x20 then v.cvtRow seed r.pos n as_ else { elems := [] }
    let lim := v.written o
    let out := if v.op == 0x20 then v.converted { row with elems := row.elems.take lim, scales := row.scales.take (lim / 32) }
      else [(v.d, packElems v.fmt ((v.results seed r.pos n as_ (bytes v.b (v.usesB && !v.bImm)) (bytes v.c v.usesC)).take lim))]
    let sw := out.foldl (fun s w => s.unitWrite r w.1 w.2) s3
    let s4 := if o.copies then ((sw.raiseChk 0x25CB e r).withhold r.key).strikeTask r.key else sw
    let clash := v.reads.any fun x => overlap x v.dst && x != v.dst
    let s5 := if clash && !s4.isWithheld r.key then s4.makeHazy t e v.dst.1 v.dst.2 else s4
    let s6 := (s5.countOnce r 0x0087 (Reg.ENG_CNT_SAT_count t e) row.sat).countOnce r 0x0086 (Reg.ENG_CNT_NONFINITE_count t e) row.nonf
    (s6.poisonBlocks r v.dst.1 v.dst.2 o.gen).nextEntry r.key

/-- The entry a VECTOR task on engine `e` of die `t` is at, for the command of operation `op`: an entry of no listed operation is
met by any of the unit's commands. -/
def State.runVector (s : State) (t e op : Nat) (o : UnitObs) : State :=
  match s.unitTask t e 2 with
  | none => s
  | some (r, d) =>
    if d.listLen ≤ r.pos then s
    else
      let v := readVec (s.entryBytes r d)
      if vecListed v.op && v.op != op then s else s.vectorEntry r d.seed v o

/-- VEC_ADD (R89, R90). -/
def execVecAdd (t e : Nat) (o : UnitObs) (s : State) : Host.Outcome State Fault Refusal := .next (s.runVector t e 0x01 o)
/-- VEC_SUB (R89, R90). -/
def execVecSub (t e : Nat) (o : UnitObs) (s : State) : Host.Outcome State Fault Refusal := .next (s.runVector t e 0x02 o)
/-- VEC_MUL (R89, R90). -/
def execVecMul (t e : Nat) (o : UnitObs) (s : State) : Host.Outcome State Fault Refusal := .next (s.runVector t e 0x03 o)
/-- VEC_FMA (R89, R90). -/
def execVecFma (t e : Nat) (o : UnitObs) (s : State) : Host.Outcome State Fault Refusal := .next (s.runVector t e 0x04 o)
/-- VEC_MIN (R89, R90). -/
def execVecMin (t e : Nat) (o : UnitObs) (s : State) : Host.Outcome State Fault Refusal := .next (s.runVector t e 0x05 o)
/-- VEC_MAX (R89, R90). -/
def execVecMax (t e : Nat) (o : UnitObs) (s : State) : Host.Outcome State Fault Refusal := .next (s.runVector t e 0x06 o)
/-- VEC_ABS (R89, R90). -/
def execVecAbs (t e : Nat) (o : UnitObs) (s : State) : Host.Outcome State Fault Refusal := .next (s.runVector t e 0x07 o)
/-- VEC_NEG (R89, R90). -/
def execVecNeg (t e : Nat) (o : UnitObs) (s : State) : Host.Outcome State Fault Refusal := .next (s.runVector t e 0x08 o)
/-- VEC_LESS (R89). -/
def execVecLess (t e : Nat) (o : UnitObs) (s : State) : Host.Outcome State Fault Refusal := .next (s.runVector t e 0x09 o)
/-- VEC_SELECT (R89). -/
def execVecSelect (t e : Nat) (o : UnitObs) (s : State) : Host.Outcome State Fault Refusal := .next (s.runVector t e 0x0A o)
/-- VEC_EXP2 (R91). -/
def execVecExp2 (t e : Nat) (o : UnitObs) (s : State) : Host.Outcome State Fault Refusal := .next (s.runVector t e 0x10 o)
/-- VEC_LOG2 (R91). -/
def execVecLog2 (t e : Nat) (o : UnitObs) (s : State) : Host.Outcome State Fault Refusal := .next (s.runVector t e 0x11 o)
/-- VEC_RECIP (R91). -/
def execVecRecip (t e : Nat) (o : UnitObs) (s : State) : Host.Outcome State Fault Refusal := .next (s.runVector t e 0x12 o)
/-- VEC_RSQRT (R91). -/
def execVecRsqrt (t e : Nat) (o : UnitObs) (s : State) : Host.Outcome State Fault Refusal := .next (s.runVector t e 0x13 o)
/-- CVT (R81, R89). -/
def execCvt (t e : Nat) (o : UnitObs) (s : State) : Host.Outcome State Fault Refusal := .next (s.runVector t e 0x20 o)
/-- VEC_IADD (R89, R90). -/
def execVecIadd (t e : Nat) (o : UnitObs) (s : State) : Host.Outcome State Fault Refusal := .next (s.runVector t e 0x40 o)
/-- VEC_IMUL (R89, R90). -/
def execVecImul (t e : Nat) (o : UnitObs) (s : State) : Host.Outcome State Fault Refusal := .next (s.runVector t e 0x41 o)
/-- VEC_SHL (R89, R90). -/
def execVecShl (t e : Nat) (o : UnitObs) (s : State) : Host.Outcome State Fault Refusal := .next (s.runVector t e 0x42 o)
/-- VEC_SHR (R89, R90). -/
def execVecShr (t e : Nat) (o : UnitObs) (s : State) : Host.Outcome State Fault Refusal := .next (s.runVector t e 0x43 o)
/-- VEC_AND (R89, R90). -/
def execVecAnd (t e : Nat) (o : UnitObs) (s : State) : Host.Outcome State Fault Refusal := .next (s.runVector t e 0x44 o)
/-- VEC_OR (R89, R90). -/
def execVecOr (t e : Nat) (o : UnitObs) (s : State) : Host.Outcome State Fault Refusal := .next (s.runVector t e 0x45 o)
/-- VEC_XOR (R89, R90). -/
def execVecXor (t e : Nat) (o : UnitObs) (s : State) : Host.Outcome State Fault Refusal := .next (s.runVector t e 0x46 o)

end Sys2Proof.Machine
end

