-- ==== Sys2Proof/Machine/Warp.lean ====
section
/-! DEFINITION. The warp unit (R318–R324): entries of WARP tasks, SPLAT and SAMPLE. -/

namespace Sys2Proof.Machine

/-- The running WARP task of die `t` with its descriptor. -/
def State.warpTask (s : State) (t : Nat) : Option (TaskRun × TaskDesc) :=
  (s.warpRun? t).bind fun r => (s.desc? r.graph r.task).bind fun d => if d.kind == 6 then some (r, d) else none

/-- The fusion section of the plan in force (R317). -/
def State.fusion (s : State) : Option FusSec := s.planRec.bind (·.fusion)

/-- A warp entry (Table 11.4). -/
structure WarpEntry where
  op : Nat
  sensor : Nat
  fmt : Nat
  nq : Nat
  add : Bool
  fh : Nat
  fw : Nat
  feat : Nat
  aux : Nat
  au : Num
  bu : Num
  av : Num
  bv : Num
  p0 : Num
  p1 : Num
  n : Nat
  chOff : Nat
  tx0 : Nat
  ty0 : Nat
  tx1 : Nat
  ty1 : Nat
  resv : Bool
deriving DecidableEq, Repr

def readWarp (b : List Byte) : WarpEntry :=
  let w (i : Nat) : Nat := u b (8 * i) 8
  let f (i hi : Nat) : Num := f32Of (u b (8 * i + 4 * hi) 4)
  { op := bits (w 0) 7 0, sensor := bits (w 0) 13 8, fmt := bits (w 0) 19 16, nq := bits (w 0) 22 20 + 1, add := bit (w 0) 23,
    fh := bits (w 0) 47 32, fw := bits (w 0) 63 48, feat := bits (w 1) 47 0, aux := bits (w 2) 47 0,
    au := f 3 0, bu := f 3 1, av := f 4 0, bv := f 4 1, p0 := f 5 0, p1 := f 5 1,
    n := bits (w 6) 8 0, chOff := bits (w 6) 23 16, tx0 := bits (w 6) 27 24, ty0 := bits (w 6) 31 28,
    tx1 := bits (w 6) 35 32, ty1 := bits (w 6) 39 36,
    resv := bits (w 0) 15 14 != 0 || bits (w 0) 31 24 != 0 || bits (w 1) 63 48 != 0 || bits (w 2) 63 48 != 0
      || bits (w 6) 15 9 != 0 || bits (w 6) 63 40 != 0 || w 7 != 0 }

/-- Bytes of a pixel of the feature map (R318). -/
def WarpEntry.pitch (x : WarpEntry) : Nat := ceilDiv (x.n * elemSize x.fmt) 64 * 64

/-- Is a warp entry valid (R322)? -/
def WarpEntry.ok (x : WarpEntry) (f : FusSec) (c : Cal) : Bool :=
  let usable (v : Num) : Bool := v.isFin && !v.isZero
  let listed (n : Nat) : Bool := n == 0xA || n == 0xB || n == 0xD
  !x.resv && (x.op == 1 || x.op == 2) && listed x.fmt && (c.model == 1 || c.model == 2)
    && decide (1 ≤ x.fh ∧ x.fh ≤ 1024) && decide (1 ≤ x.fw ∧ x.fw ≤ 1024) && decide (1 ≤ x.n ∧ x.n ≤ 256)
    && decide (x.chOff + x.n ≤ f.c)
    && decide (x.tx0 ≤ x.tx1 ∧ x.ty0 ≤ x.ty1 ∧ x.tx1 < f.nx / 32 ∧ x.ty1 < f.ny / 32)
    && (if x.op == 1 then f.fmt == 0xD else x.aux == 0) && usable x.au && usable x.av

/-- Tiles that die `t` owns inside the entry's rectangle, ascending: their cells are the covered cells (R320). -/
def WarpEntry.covered (x : WarpEntry) (f : FusSec) (t : Nat) : List Nat :=
  (f.owned t).filter fun k =>
    let tx := k % (f.nx / 32)
    let ty := k / (f.nx / 32)
    decide (x.tx0 ≤ tx ∧ tx ≤ x.tx1 ∧ x.ty0 ≤ ty ∧ ty ≤ x.ty1)

/-- Bytes read through the warp port block by block, each block verified as it is read (R324, R421). -/
def Io.warpGet (x : Io) (r : TaskRun) (a n : Nat) : Io × List Byte :=
  (pieces a n).foldl (fun (acc : Io × List Byte) p =>
    let (s1, o) := acc.1.s.portRead r.key 0x22 p.1 (nth 0 acc.1.ecc 0)
    let (s2, blk) := match o with
      | some (b, c) => (if c == 0 then s1 else s1.chkFail r 0x25C3, b)
      | none => (s1, List.replicate 256 0)
    ({ s := s2, ecc := acc.1.ecc.drop 1 }, acc.2 ++ (blk.drop (p.1 % 256)).take p.2)) (x, [])

/-- Whole blocks written through the warp port with new check values; a block whose generators disagree is stored poisoned unless the task's
outputs are withheld already (R324, R420, R556). `gen` numbers blocks in the order written. -/
def Io.warpPut (x : Io) (r : TaskRun) (a : Nat) (bs : List Byte) (from_ : Nat) (gen : List Nat) : Io :=
  (List.range (bs.length / 256)).foldl (fun (x : Io) i =>
    let bad := gen.contains (from_ + i)
    let must := bad && !x.s.isWithheld r.key
    let s1 := if bad then (x.s.raiseChk 0x25C4 31 r).withhold r.key else x.s
    { s := (s1.portWrite r.key 0x22 (a + 256 * i) ((bs.drop (256 * i)).take 256) (if bad then 0xFFFFFFFF else 0)
        (nth 0 x.ecc 0) must).1, ecc := x.ecc.drop 1 }) x

/-- What a warp entry makes: new values of the channels of covered cells, keyed (tile × 1,024 + cell) × 256 + channel of the
entry; and the points or cells dropped. -/
structure WarpOut where
  g : SMap (Option Num) := []
  drops : Nat := 0

/-- The inputs of a warp entry: grid, record, covered tiles, feature elements by pixel and channel, depth pairs, and the grid
elements as they were. -/
structure WarpIn where
  f : FusSec
  c : Cal
  x : WarpEntry
  cov : List Nat
  feat : Nat → Nat → Num
  pair : Nat → Nat
  old : Nat → Nat → Nat

/-- Key of a channel of a covered cell. -/
def gkey (tile cell ch : Nat) : Nat := (tile * 1024 + cell) * 256 + ch

/-- One depth pair of SPLAT (R320). -/
def WarpIn.splatPair (w : WarpIn) (pix : Nat) (ray : Num × Num × Num) (acc : WarpOut) (q : Nat) : WarpOut :=
  let p := w.pair (pix * w.x.nq + q)
  let wt := decElem 0xA (p / 2 ^ 16)
  if wt.isZero then acc
  else
    let dep := w.x.p0.fadd ((numI (p % 2 ^ 16 : Nat)).fmul w.x.p1)
    let pe := w.c.toEgo (dep.fmul ray.1) (dep.fmul ray.2.1) (dep.fmul ray.2.2)
    match w.f.cellOf pe with
    | some ce =>
      let k := w.f.tileOf ce
      if w.cov.contains k then
        { acc with g := (List.range w.x.n).foldl (fun g ch =>
            let key := gkey k (cellInTile ce) ch
            let cur := (smGet none g key).getD (decElem w.f.fmt (w.old k (cellInTile ce * w.f.c + w.x.chOff + ch)))
            smPut none g key (some (cur.fadd (wt.fmul (w.feat pix ch))))) acc.g }
      else { acc with drops := acc.drops + 1 }
    | none => { acc with drops := acc.drops + 1 }

/-- SPLAT (R320): pixels row by row, depth pairs in order; without add the channels of every covered cell begin at +0.0. -/
def WarpIn.splat (w : WarpIn) : WarpOut :=
  let g0 : SMap (Option Num) := if w.x.add then [] else
    (w.cov.flatMap fun k => (List.range 1024).flatMap fun ce =>
      (List.range w.x.n).map fun ch => (gkey k ce ch, some (Num.zero false)))
  (List.range (w.x.fh * w.x.fw)).foldl (fun (acc : WarpOut) pix =>
    let uu := rne32 ((w.x.au.mul (.ofInt (pix % w.x.fw : Nat))).add w.x.bu)
    let vv := rne32 ((w.x.av.mul (.ofInt (pix / w.x.fw : Nat))).add w.x.bv)
    match w.c.unproject uu vv with
    | none => { acc with drops := acc.drops + w.x.nq }
    | some ray => (List.range w.x.nq).foldl (w.splatPair pix ray) acc) { g := g0 }

/-- One height of SAMPLE at a cell (R321): the sums after it, or a drop. -/
def WarpIn.sampleAt (w : WarpIn) (ce : Nat × Nat) (acc : List Num × Nat) (k : Nat) : List Num × Nat :=
  let m := w.f.centre ce
  let p := w.c.toSensor m.1 m.2 (w.x.p0.fadd ((numI (k : Nat)).fmul w.x.p1))
  match w.c.project p with
  | none => (acc.1, acc.2 + 1)
  | some (uu, vv) =>
    let jf := (uu.fsub w.x.bu).fdiv w.x.au
    let if_ := (vv.fsub w.x.bv).fdiv w.x.av
    match floorNum if_, floorNum jf with
    | some i0, some j0 =>
      let fi := if_.fsub (numI i0)
      let fj := jf.fsub (numI j0)
      let gi := (numI 1).fsub fi
      let gj := (numI 1).fsub fj
      let taps : List (Int × Int × Num) :=
        [(i0, j0, gi.fmul gj), (i0, j0 + 1, gi.fmul fj), (i0 + 1, j0, fi.fmul gj), (i0 + 1, j0 + 1, fi.fmul fj)]
      (taps.foldl (fun (xs : List Num) tap =>
        if 0 ≤ tap.1 ∧ tap.1 < (w.x.fh : Int) ∧ 0 ≤ tap.2.1 ∧ tap.2.1 < (w.x.fw : Int) then
          xs.mapIdx fun ch v => v.fadd (tap.2.2.fmul (w.feat (tap.1.toNat * w.x.fw + tap.2.1.toNat) ch))
        else xs) acc.1, acc.2)
    | _, _ => acc

/-- SAMPLE (R321): covered cells in ascending tile and cell. -/
def WarpIn.sample (w : WarpIn) : WarpOut :=
  w.cov.foldl (fun (acc : WarpOut) k => (List.range 1024).foldl (fun (acc : WarpOut) ce =>
    let tw := w.f.nx / 32
    let cell := (k % tw * 32 + ce % 32, k / tw * 32 + ce / 32)
    let s0 := (List.range w.x.n).map fun ch =>
      if w.x.add then decElem w.f.fmt (w.old k (ce * w.f.c + w.x.chOff + ch)) else Num.zero false
    let (xs, d) := (List.range w.x.nq).foldl (w.sampleAt cell) (s0, 0)
    { g := acc.g ++ xs.mapIdx (fun ch v => (gkey k ce ch, some v)),
      drops := acc.drops + d }) acc) {}

/-- The bytes of a tile with new channel values put in, each cell padded with zeros (R316); `nb` serves NaN results. -/
def WarpIn.tileBytes (w : WarpIn) (g : SMap (Option Num)) (k : Nat) (nb : Nat → Nat) (old : List Byte) : List Byte :=
  let es := elemSize w.f.fmt
  let n := w.f.cp
  (List.range 1024).flatMap fun ce =>
    let cell := sliceB old (ce * n) n
    let new := (List.range w.x.n).flatMap fun ch =>
      match smGet none g (gkey k ce ch) with
      | some v => leBytes es ((narrow w.f.fmt true .rne v).enc w.f.fmt (nb (gkey k ce ch)))
      | none => sliceB cell ((w.x.chOff + ch) * es) es
    let used := w.f.c * es
    cell.take (w.x.chOff * es) ++ new ++ (cell.take used).drop ((w.x.chOff + w.x.n) * es) ++ List.replicate (n - used) 0

/-- The grid tiles are read where the entry adds to them or leaves some of their channels as they were. -/
def WarpEntry.readsTiles (x : WarpEntry) (f : FusSec) : Bool := x.add || x.chOff != 0 || x.n != f.c

/-- A valid warp entry is carried out: feature map, depth pairs and grid tiles are read in this order, every block once
(log entry 33), then the covered tiles are written. -/
def State.warpRun (s : State) (r : TaskRun) (f : FusSec) (c : Cal) (x : WarpEntry) (o : UnitObs) : State :=
  let es := elemSize x.fmt
  let cov := x.covered f r.die
  let (io1, fb) := ({ s := s, ecc := o.mem } : Io).warpGet r x.feat (x.fh * x.fw * x.pitch)
  let (io2, pb) := if x.op == 1 then io1.warpGet r x.aux (x.fh * x.fw * x.nq * 4) else (io1, [])
  let (io3, tiles) := cov.foldl (fun (acc : Io × List (Nat × List Byte)) k =>
    if x.readsTiles f then
      let (io, b) := acc.1.warpGet r (f.tileAt r.die k) (1024 * f.cp)
      (io, acc.2 ++ [(k, b)])
    else (acc.1, acc.2 ++ [(k, List.replicate (1024 * f.cp) 0)])) (io2, [])
  let tb (k : Nat) : List Byte := match tiles.find? (fun p => p.1 == k) with | some p => p.2 | none => []
  let ge := elemSize f.fmt
  let w : WarpIn := { f := f, c := c, x := x, cov := cov,
                      feat := fun pix ch => decElem x.fmt (u fb (pix * x.pitch + ch * es) es),
                      pair := fun i => u pb (4 * i) 4,
                      old := fun k i => u (tb k) (i / f.c * f.cp + i % f.c * ge) ge }
  let out := if x.op == 1 then w.splat else w.sample
  let (n, s4) := io3.s.draw
  let s5 := if o.copies then ((s4.raiseTask 0x23C4 r).capture (Reg.FUS_WARP_ERR r.die)
      (bits 0x23C4 5 0 + r.pos % 2 ^ 16 * 2 ^ 8)).withhold r.key else s4
  let per := 4 * f.cp
  let io6 := cov.mapIdx (fun i k => (i, k)) |>.foldl (fun (io : Io) ik =>
    io.warpPut r (f.tileAt r.die ik.2) (w.tileBytes out.g ik.2 (fun i => Config.nanCode n i f.fmt) (tb ik.2))
      (ik.1 * per) o.gen) { s := s5, ecc := io3.ecc }
  let s7 := if out.drops == 0 then io6.s
    else (io6.s.count (Reg.FUS_CNT_DROP_count r.die) out.drops).raiseOncePerTask 0x03C5 r.key
  (s7.count (Reg.FUS_CNT_ENTRIES_count r.die) 1).nextEntry r.key

/-- An invalid warp entry (R322). -/
def State.badWarp (s : State) (r : TaskRun) (o : UnitObs) : State :=
  (((s.raiseTask 0x23C3 r).capture (Reg.FUS_WARP_ERR r.die) (bits 0x23C3 5 0 + r.pos % 2 ^ 16 * 2 ^ 8)).withhold
    r.key).endHere r.key o.beats 0

/-- The entry that the running WARP task of die `t` is at: its 64 bytes in the die's shared store (R318). -/
def State.warpEntry (s : State) (r : TaskRun) (d : TaskDesc) : State × List Byte :=
  match s.locate (.shared r.die (d.listBlk * 256 + r.pos * 64)) with
  | none => (s, List.replicate 64 0)
  | some l => (if s.locChk l == 0 then s else s.chkFail r 0x25C3, s.locRead l (r.pos * 64 % 256) 64)

/-- The warp unit of die `t` carries out the next entry of its task, when its operation is `op` (an entry of no listed
operation ends the task whichever command meets it). -/
def State.warp (s : State) (t op : Nat) (o : UnitObs) : State :=
  match s.warpTask t with
  | none => s
  | some (r, d) =>
    if d.listLen ≤ r.pos then s
    else
      let (s1, b) := s.warpEntry r d
      let x := readWarp b
      if (x.op == 1 || x.op == 2) && x.op != op then s
      else match s1.fusion with
        | none => s1.badWarp r o
        | some f =>
          let c := readCal (s1.calBytes r.bank x.sensor)
          if x.ok f c then s1.warpRun r f c x o else s1.badWarp r o

/-- SPLAT (R320). -/
def execSplat (t : Nat) (o : UnitObs) (s : State) : Host.Outcome State Fault Refusal := .next (s.warp t 1 o)

/-- SAMPLE (R321). -/
def execSample (t : Nat) (o : UnitObs) (s : State) : Host.Outcome State Fault Refusal := .next (s.warp t 2 o)

end Sys2Proof.Machine
end

