-- ==== Sys2Proof/Machine/Dispatch.lean ====
section
/-! DEFINITION. One arm for each command: a direct call of its meaning. -/

namespace Sys2Proof.Machine

def exec (i : Instr) (s : State) : Host.Outcome State Fault Refusal :=
  match i with
  | .registerWrite src agent addr v => Sys2Proof.Machine.execRegisterWrite src agent addr v s
  | .captureClear src agent addr => Sys2Proof.Machine.execCaptureClear src agent addr s
  | .packageAccess src agent addr len data exec comb chk ecc => Sys2Proof.Machine.execPackageAccess src agent addr len data exec comb chk ecc s
  | .heldBlockIssue inst => Sys2Proof.Machine.execHeldBlockIssue inst s
  | .channelServe die c ecc miss => Sys2Proof.Machine.execChannelServe die c ecc miss s
  | .sliceServe t sl ecc => Sys2Proof.Machine.execSliceServe t sl ecc s
  | .refresh die c => Sys2Proof.Machine.execRefresh die c s
  | .patrolScrub die c ecc => Sys2Proof.Machine.execPatrolScrub die c ecc s
  | .rowMissWindow die c => Sys2Proof.Machine.execRowMissWindow die c s
  | .wck2dqCheck die c steps ok => Sys2Proof.Machine.execWck2dqCheck die c steps ok s
  | .mr4Poll die c mult => Sys2Proof.Machine.execMr4Poll die c mult s
  | .eyeMeasurement die c rd wr => Sys2Proof.Machine.execEyeMeasurement die c rd wr s
  | .paceSample t obs => Sys2Proof.Machine.execPaceSample t obs s
  | .paceAlarmClear t => Sys2Proof.Machine.execPaceAlarmClear t s
  | .slowLayerUpdate t => Sys2Proof.Machine.execSlowLayerUpdate t s
  | .avsTransactionDone t ok readback => Sys2Proof.Machine.execAvsTransactionDone t ok readback s
  | .railRaiseDone t => Sys2Proof.Machine.execRailRaiseDone t s
  | .engLmapWrite t half upper v => Sys2Proof.Machine.execEngLmapWrite t half upper v s
  | .engColFailWrite t e word v => Sys2Proof.Machine.execEngColFailWrite t e word v s
  | .planPeriodBoundary copies => Sys2Proof.Machine.execPlanPeriodBoundary copies s
  | .modeReqWrite core ohp smp => Sys2Proof.Machine.execModeReqWrite core ohp smp s
  | .instanceRelease g j => Sys2Proof.Machine.execInstanceRelease g j s
  | .walkDone g j copies digest => Sys2Proof.Machine.execWalkDone g j copies digest s
  | .taskRelease g j inst => Sys2Proof.Machine.execTaskRelease g j inst s
  | .taskLateStart g j inst => Sys2Proof.Machine.execTaskLateStart g j inst s
  | .taskEnd g j inst beats stalls => Sys2Proof.Machine.execTaskEnd g j inst beats stalls s
  | .instanceRetire g j ecc copies => Sys2Proof.Machine.execInstanceRetire g j ecc copies s
  | .barrierTimeout g j inst => Sys2Proof.Machine.execBarrierTimeout g j inst s
  | .passStart t e o => Sys2Proof.Machine.execPassStart t e o s
  | .passAdd t e o => Sys2Proof.Machine.execPassAdd t e o s
  | .passSingle t e o => Sys2Proof.Machine.execPassSingle t e o s
  | .passAddNarrow t e o => Sys2Proof.Machine.execPassAddNarrow t e o s
  | .vecAdd t e o => Sys2Proof.Machine.execVecAdd t e o s
  | .vecSub t e o => Sys2Proof.Machine.execVecSub t e o s
  | .vecMul t e o => Sys2Proof.Machine.execVecMul t e o s
  | .vecFma t e o => Sys2Proof.Machine.execVecFma t e o s
  | .vecMin t e o => Sys2Proof.Machine.execVecMin t e o s
  | .vecMax t e o => Sys2Proof.Machine.execVecMax t e o s
  | .vecAbs t e o => Sys2Proof.Machine.execVecAbs t e o s
  | .vecNeg t e o => Sys2Proof.Machine.execVecNeg t e o s
  | .vecLess t e o => Sys2Proof.Machine.execVecLess t e o s
  | .vecSelect t e o => Sys2Proof.Machine.execVecSelect t e o s
  | .vecExp2 t e o => Sys2Proof.Machine.execVecExp2 t e o s
  | .vecLog2 t e o => Sys2Proof.Machine.execVecLog2 t e o s
  | .vecRecip t e o => Sys2Proof.Machine.execVecRecip t e o s
  | .vecRsqrt t e o => Sys2Proof.Machine.execVecRsqrt t e o s
  | .cvt t e o => Sys2Proof.Machine.execCvt t e o s
  | .vecIadd t e o => Sys2Proof.Machine.execVecIadd t e o s
  | .vecImul t e o => Sys2Proof.Machine.execVecImul t e o s
  | .vecShl t e o => Sys2Proof.Machine.execVecShl t e o s
  | .vecShr t e o => Sys2Proof.Machine.execVecShr t e o s
  | .vecAnd t e o => Sys2Proof.Machine.execVecAnd t e o s
  | .vecOr t e o => Sys2Proof.Machine.execVecOr t e o s
  | .vecXor t e o => Sys2Proof.Machine.execVecXor t e o s
  | .gather t e o => Sys2Proof.Machine.execGather t e o s
  | .scatterStore t e o => Sys2Proof.Machine.execScatterStore t e o s
  | .scatterAdd t e o => Sys2Proof.Machine.execScatterAdd t e o s
  | .scatterMax t e o => Sys2Proof.Machine.execScatterMax t e o s
  | .scatterMin t e o => Sys2Proof.Machine.execScatterMin t e o s
  | .segredSum t e o => Sys2Proof.Machine.execSegredSum t e o s
  | .segredMax t e o => Sys2Proof.Machine.execSegredMax t e o s
  | .segredMin t e o => Sys2Proof.Machine.execSegredMin t e o s
  | .segredMean t e o => Sys2Proof.Machine.execSegredMean t e o s
  | .segredNormExp t e o => Sys2Proof.Machine.execSegredNormExp t e o s
  | .hist t e o => Sys2Proof.Machine.execHist t e o s
  | .dedup t e o => Sys2Proof.Machine.execDedup t e o s
  | .sort t e o => Sys2Proof.Machine.execSort t e o s
  | .merge t e o => Sys2Proof.Machine.execMerge t e o s
  | .topk t e o => Sys2Proof.Machine.execTopk t e o s
  | .bin t e o => Sys2Proof.Machine.execBin t e o s
  | .radius t e o => Sys2Proof.Machine.execRadius t e o s
  | .knn t e o => Sys2Proof.Machine.execKnn t e o s
  | .moveFill t e o => Sys2Proof.Machine.execMoveFill t e o s
  | .moveDrain t e o => Sys2Proof.Machine.execMoveDrain t e o s
  | .splat t o => Sys2Proof.Machine.execSplat t o s
  | .sample t o => Sys2Proof.Machine.execSample t o s
  | .testRun t e passed => Sys2Proof.Machine.execTestRun t e passed s
  | .listCopyDone t e => Sys2Proof.Machine.execListCopyDone t e s
  | .beaconSlotStart t slot => Sys2Proof.Machine.execBeaconSlotStart t slot s
  | .beaconDone t e passed => Sys2Proof.Machine.execBeaconDone t e passed s
  | .beaconSlotEnd t slot => Sys2Proof.Machine.execBeaconSlotEnd t slot s
  | .auditVerdict t crc => Sys2Proof.Machine.execAuditVerdict t crc s
  | .auditTimeout t k => Sys2Proof.Machine.execAuditTimeout t k s
  | .quarantineTestDone t e cols other => Sys2Proof.Machine.execQuarantineTestDone t e cols other s
  | .cleanRunsDone t e n passed => Sys2Proof.Machine.execCleanRunsDone t e n passed s
  | .graphSubmit ecc lists copies => Sys2Proof.Machine.execGraphSubmit ecc lists copies s
  | .admissionVerdict copies => Sys2Proof.Machine.execAdmissionVerdict copies s
  | .preemptRequest g => Sys2Proof.Machine.execPreemptRequest g s
  | .resumeRequest g => Sys2Proof.Machine.execResumeRequest g s
  | .kvRingIndexWrite p tail head => Sys2Proof.Machine.execKvRingIndexWrite p tail head s
  | .instantBoundary => Sys2Proof.Machine.execInstantBoundary s
  | .calSwapRequest => Sys2Proof.Machine.execCalSwapRequest s
  | .calNextWrite n w v => Sys2Proof.Machine.execCalNextWrite n w v s
  | .calNextWriteApply => Sys2Proof.Machine.execCalNextWriteApply s
  | .pick copies gen => Sys2Proof.Machine.execPick copies gen s
  | .trackUpdate copies => Sys2Proof.Machine.execTrackUpdate copies s
  | .gptpSync port domain gm offset delay interval => Sys2Proof.Machine.execGptpSync port domain gm offset delay interval s
  | .syncTimeout lostCapable => Sys2Proof.Machine.execSyncTimeout lostCapable s
  | .gmSyncTransmit => Sys2Proof.Machine.execGmSyncTransmit s
  | .time t d => Sys2Proof.Machine.execTime t d s
  | .timeBeaconLoss t => Sys2Proof.Machine.execTimeBeaconLoss t s
  | .triggerEdge n => Sys2Proof.Machine.execTriggerEdge n s
  | .triggerWidthEnd n => Sys2Proof.Machine.execTriggerWidthEnd n s
  | .frameStart port vc hdr dev emb => Sys2Proof.Machine.execFrameStart port vc hdr dev emb s
  | .csi2LongPacket port vc dt hdr fill crcBad gen payload => Sys2Proof.Machine.execCsi2LongPacket port vc dt hdr fill crcBad gen payload s
  | .frameEnd port vc hdr => Sys2Proof.Machine.execFrameEnd port vc hdr s
  | .sensorAbsent n => Sys2Proof.Machine.execSensorAbsent n s
  | .pictureDone decoded id slot view o => Sys2Proof.Machine.execPictureDone decoded id slot view o s
  | .decodePartStart core q slot view => Sys2Proof.Machine.execDecodePartStart core q slot view s
  | .sliceBoundary core => Sys2Proof.Machine.execSliceBoundary core s
  | .decodeHardStop core => Sys2Proof.Machine.execDecodeHardStop core s
  | .decodePartEnd core err pic npics hold gen => Sys2Proof.Machine.execDecodePartEnd core err pic npics hold gen s
  | .batchForm q => Sys2Proof.Machine.execBatchForm q s
  | .smplFetchWrite q done batchDone => Sys2Proof.Machine.execSmplFetchWrite q done batchDone s
  | .flitReceive m flit aligned => Sys2Proof.Machine.execFlitReceive m flit aligned s
  | .retrainDone m ok lanes lat => Sys2Proof.Machine.execRetrainDone m ok lanes lat s
  | .linkSilence m => Sys2Proof.Machine.execLinkSilence m s
  | .read id ecc => Sys2Proof.Machine.execRead id ecc s
  | .write id ecc => Sys2Proof.Machine.execWrite id ecc s
  | .writePart id ecc => Sys2Proof.Machine.execWritePart id ecc s
  | .rdResp id resp => Sys2Proof.Machine.execRdResp id resp s
  | .wrResp id => Sys2Proof.Machine.execWrResp id s
  | .errResp id kind => Sys2Proof.Machine.execErrResp id kind s
  | .fenceNotice t die => Sys2Proof.Machine.execFenceNotice t die s
  | .unfenceNotice t die => Sys2Proof.Machine.execUnfenceNotice t die s
  | .latencyEcho m lat => Sys2Proof.Machine.execLatencyEcho m lat s
  | .requestTimeout id => Sys2Proof.Machine.execRequestTimeout id s
  | .eyeSweep m centres margin => Sys2Proof.Machine.execEyeSweep m centres margin s
  | .laneSwapDone m same => Sys2Proof.Machine.execLaneSwapDone m same s
  | .ringRetrain t o => Sys2Proof.Machine.execRingRetrain t o s
  | .linkTrainingDone m ok tx rx => Sys2Proof.Machine.execLinkTrainingDone m ok tx rx s
  | .paramOffer word => Sys2Proof.Machine.execParamOffer word s
  | .partnerStepTimeout => Sys2Proof.Machine.execPartnerStepTimeout s
  | .partnerRetry => Sys2Proof.Machine.execPartnerRetry s
  | .partnerRequest tag addr len data gen => Sys2Proof.Machine.execPartnerRequest tag addr len data gen s
  | .partnerIssue => Sys2Proof.Machine.execPartnerIssue s
  | .partnerResponseTimeout id => Sys2Proof.Machine.execPartnerResponseTimeout id s
  | .ethFrameReceive port frame stamp fcsBad sec full qci dup gen => Sys2Proof.Machine.execEthFrameReceive port frame stamp fcsBad sec full qci dup gen s
  | .ethLinkChange port up rate => Sys2Proof.Machine.execEthLinkChange port up rate s
  | .gclSwitch port => Sys2Proof.Machine.execGclSwitch port s
  | .gateIntervalEnd port => Sys2Proof.Machine.execGateIntervalEnd port s
  | .roleQuery copies => Sys2Proof.Machine.execRoleQuery copies s
  | .csrRead copies => Sys2Proof.Machine.execCsrRead copies s
  | .csrWrite copies => Sys2Proof.Machine.execCsrWrite copies s
  | .memRead ecc copies => Sys2Proof.Machine.execMemRead ecc copies s
  | .memWrite ecc gen copies => Sys2Proof.Machine.execMemWrite ecc gen copies s
  | .modeReq copies => Sys2Proof.Machine.execModeReq copies s
  | .preempt copies => Sys2Proof.Machine.execPreempt copies s
  | .kvRing copies => Sys2Proof.Machine.execKvRing copies s
  | .sampleRing copies => Sys2Proof.Machine.execSampleRing copies s
  | .eventStream copies => Sys2Proof.Machine.execEventStream copies s
  | .shadowRefresh writers => Sys2Proof.Machine.execShadowRefresh writers s
  | .shadowStale isl => Sys2Proof.Machine.execShadowStale isl s
  | .statusRead addr words => Sys2Proof.Machine.execStatusRead addr words s
  | .logRead addr n => Sys2Proof.Machine.execLogRead addr n s
  | .actionArm addr data => Sys2Proof.Machine.execActionArm addr data s
  | .actionArmExpiry => Sys2Proof.Machine.execActionArmExpiry s
  | .safeState arg data => Sys2Proof.Machine.execSafeState arg data s
  | .appReset arg data => Sys2Proof.Machine.execAppReset arg data s
  | .logFreeze arg data => Sys2Proof.Machine.execLogFreeze arg data s
  | .smpModeReq arg data => Sys2Proof.Machine.execSmpModeReq arg data s
  | .safeReq lowNs => Sys2Proof.Machine.execSafeReq lowNs s
  | .faultNRelease => Sys2Proof.Machine.execFaultNRelease s
  | .bootSequence step => Sys2Proof.Machine.execBootSequence step s
  | .attestationStart dest => Sys2Proof.Machine.execAttestationStart dest s
  | .attestationDone => Sys2Proof.Machine.execAttestationDone s
  | .debugNewChallenge level => Sys2Proof.Machine.execDebugNewChallenge level s
  | .debugSubmit => Sys2Proof.Machine.execDebugSubmit s
  | .debugVerdict => Sys2Proof.Machine.execDebugVerdict s
  | .debugBlockEnd => Sys2Proof.Machine.execDebugBlockEnd s
  | .sakInstall => Sys2Proof.Machine.execSakInstall s
  | .otpProgram field index core => Sys2Proof.Machine.execOtpProgram field index core s
  | .otpProgramDone => Sys2Proof.Machine.execOtpProgramDone s
  | .lockstepMismatch isl => Sys2Proof.Machine.execLockstepMismatch isl s
  | .asyncInput isl input agree => Sys2Proof.Machine.execAsyncInput isl input agree s
  | .debugHalt isl => Sys2Proof.Machine.execDebugHalt isl s
  | .islandStatus src loops err => Sys2Proof.Machine.execIslandStatus src loops err s
  | .challenge n err => Sys2Proof.Machine.execChallenge n err s
  | .answer v err => Sys2Proof.Machine.execAnswer v err s
  | .answerTimeout => Sys2Proof.Machine.execAnswerTimeout s
  | .islandEvent err => Sys2Proof.Machine.execIslandEvent err s
  | .safeFrame src err => Sys2Proof.Machine.execSafeFrame src err s
  | .inject src mech ok err => Sys2Proof.Machine.execInject src mech ok err s
  | .heartbeatLoss => Sys2Proof.Machine.execHeartbeatLoss s
  | .channelSilence isl => Sys2Proof.Machine.execChannelSilence isl s
  | .eventLogEntry sel => Sys2Proof.Machine.execEventLogEntry sel s
  | .handlerEnd => Sys2Proof.Machine.execHandlerEnd s
  | .handlerGuardExpiry => Sys2Proof.Machine.execHandlerGuardExpiry s
  | .watchClose g j inst => Sys2Proof.Machine.execWatchClose g j inst s
  | .wdgKick v => Sys2Proof.Machine.execWdgKick v s
  | .hubWindowClose w => Sys2Proof.Machine.execHubWindowClose w s
  | .clockMonitorWindow khz => Sys2Proof.Machine.execClockMonitorWindow khz s
  | .railExcursion rail mv => Sys2Proof.Machine.execRailExcursion rail mv s
  | .powerOnReset also => Sys2Proof.Machine.execPowerOnReset also s
  | .kystaPowerReset => Sys2Proof.Machine.execKystaPowerReset s
  | .safetyReset lowNs also => Sys2Proof.Machine.execSafetyReset lowNs also s
  | .resetPin lowNs also => Sys2Proof.Machine.execResetPin lowNs also s
  | .brownOut lowNs also => Sys2Proof.Machine.execBrownOut lowNs also s
  | .brownOutRelease goodNs => Sys2Proof.Machine.execBrownOutRelease goodNs s
  | .applicationResetRequest src v => Sys2Proof.Machine.execApplicationResetRequest src v s
  | .dieResetRequest src v => Sys2Proof.Machine.execDieResetRequest src v s
  | .syswdKick v => Sys2Proof.Machine.execSyswdKick v s
  | .syswdExpiry also => Sys2Proof.Machine.execSyswdExpiry also s
  | .lockup also => Sys2Proof.Machine.execLockup also s
  | .referenceLost => Sys2Proof.Machine.execReferenceLost s
  | .referenceRestored => Sys2Proof.Machine.execReferenceRestored s
  | .clockFailure also => Sys2Proof.Machine.execClockFailure also s
  | .synthUnlock => Sys2Proof.Machine.execSynthUnlock s
  | .diePllUnlock t => Sys2Proof.Machine.execDiePllUnlock t s
  | .dieHoldEnd t => Sys2Proof.Machine.execDieHoldEnd t s
  | .dieReloadDone t chans data o => Sys2Proof.Machine.execDieReloadDone t chans data o s
  | .dieInjectionDone t failed => Sys2Proof.Machine.execDieInjectionDone t failed s
  | .rejoinAttemptTimeout t => Sys2Proof.Machine.execRejoinAttemptTimeout t s
  | .rejoinRetry t => Sys2Proof.Machine.execRejoinRetry t s
  | .domainWakeStart t e => Sys2Proof.Machine.execDomainWakeStart t e s
  | .domainWakeDone t d => Sys2Proof.Machine.execDomainWakeDone t d s
  | .domainWakeFailed t d => Sys2Proof.Machine.execDomainWakeFailed t d s
  | .standbyRequest v => Sys2Proof.Machine.execStandbyRequest v s
  | .healthUpdate => Sys2Proof.Machine.execHealthUpdate s
  | .canaryMeasure t held => Sys2Proof.Machine.execCanaryMeasure t held s
  | .repairBurn => Sys2Proof.Machine.execRepairBurn s
  | .arrive copies => Sys2Proof.Machine.execArrive copies s
  | .release => Sys2Proof.Machine.execRelease s
  | .barrierDrop step g inst => Sys2Proof.Machine.execBarrierDrop step g inst s
  | .regionSendBlock ecc copies => Sys2Proof.Machine.execRegionSendBlock ecc copies s
  | .ckptAck => Sys2Proof.Machine.execCkptAck s
  | .twinReq copies => Sys2Proof.Machine.execTwinReq copies s
  | .twinData ecc gen copies => Sys2Proof.Machine.execTwinData ecc gen copies s
  | .twinRefusal => Sys2Proof.Machine.execTwinRefusal s
  | .twinTimeout => Sys2Proof.Machine.execTwinTimeout s
  | .joinReady copies => Sys2Proof.Machine.execJoinReady copies s
  | .joinReadyResponse => Sys2Proof.Machine.execJoinReadyResponse s
  | .withdraw => Sys2Proof.Machine.execWithdraw s
  | .handlerTrap => Sys2Proof.Machine.execHandlerTrap s
  | .islandSramEccError corrected => Sys2Proof.Machine.execIslandSramEccError corrected s
  | .stewardSramEccError t corrected => Sys2Proof.Machine.execStewardSramEccError t corrected s
  | .kystaPowerReturn => Sys2Proof.Machine.execKystaPowerReturn s
  | .powerLoss burnt => Sys2Proof.Machine.execPowerLoss burnt s
  | .peerDelayRequest => Sys2Proof.Machine.execPeerDelayRequest s

end Sys2Proof.Machine
end

