-- ==== Sys2Proof/Machine/Tick.lean ====
section
/-! DEFINITION. What passes while no command waits: one tick of Device Time (R255). -/

namespace Sys2Proof.Machine

/-- Nanoseconds by which a tick advances Device Time: 1 once the synthesiser has locked; 40, a reference edge, before that while the reference
is there; none while the part is without its supplies (R255, Table 17.3, R384). -/
def State.tickNs (s : State) : Nat :=
  if s.pow.phase == .stopped then 0
  else if s.pow.synthUp then 1
  else if s.flag Reg.CLK_STATUS_ref_ok then 40 else 0

/-- One tick with no command waiting (log entry 2). -/
def State.tick (s : State) : State := s.wr Reg.ING_DT_NOW (s.rd Reg.ING_DT_NOW + BitVec.ofNat 64 s.tickNs)

end Sys2Proof.Machine
end

