-- ==== Sys2Proof/WellFormed.lean ====
section
/-! DEFINITION. Well-formed commands: every operand lies in the range of what it numbers. A command outside it is carried out all the
same; it finds nothing that it names. -/

namespace Sys2Proof

/-- A place that a failed injection names exists on some part. -/
def InjPlace.wf : InjPlace → Bool
  | .hub => true
  | .engine t e => decide (t < 8 ∧ e < 22)
  | .die t => decide (t < 8)
  | .channel d c => decide (d < 9 ∧ c < 8)
  | .linkModule m => decide (m < 48)
  | .csiPort p => decide (p < 16)
  | .etherPort p => decide (p < 6)
  | .warp t => decide (t < 8)
  | .walker t => decide (t < 8)
  | .preproc => true
  | .setWriter => true
  | .tracker => true
  | .storage => true
  | .partner => true
  | .core k => decide (k < 16)

/-- A step of the boot sequence names what exists on some part. -/
def BootStep.wf : BootStep → Bool
  | .release => true
  | .clocks => true
  | .memory die c _ => decide (die < 9 ∧ c < 8)
  | .inject m fails => decide (m < 38) && fails.all InjPlace.wf
  | .check _ _ _ => true
  | .configure => true
  | .load _ _ _ _ => true
  | .commit => true
  | .burn => true

/-- The operands of a command lie in their ranges. -/
def Instr.wf : Instr → Bool
  | .registerWrite src agent addr v => decide (src < 16 ∧ agent < 256 ∧ addr < 2 ^ 48 ∧ v < 2 ^ 32)
  | .captureClear src agent addr => decide (src < 16 ∧ agent < 256 ∧ addr < 2 ^ 48)
  | .packageAccess src agent addr _ _ _ _ _ ecc => decide (src < 16 ∧ agent < 256 ∧ addr < 2 ^ 48 ∧ ecc < 4)
  | .heldBlockIssue _ => true
  | .channelServe die c ecc _ => decide (die < 9 ∧ c < 8 ∧ ecc < 4)
  | .sliceServe t sl ecc => decide (t < 8 ∧ sl < 32 ∧ ecc < 4)
  | .refresh die c => decide (die < 9 ∧ c < 8)
  | .patrolScrub die c ecc => decide (die < 9 ∧ c < 8 ∧ ecc < 4)
  | .rowMissWindow die c => decide (die < 9 ∧ c < 8)
  | .wck2dqCheck die c _ _ => decide (die < 9 ∧ c < 8)
  | .mr4Poll die c _ => decide (die < 9 ∧ c < 8)
  | .eyeMeasurement die c _ _ => decide (die < 9 ∧ c < 8)
  | .paceSample t _ => decide (t < 8)
  | .paceAlarmClear t => decide (t < 8)
  | .slowLayerUpdate t => decide (t < 8)
  | .avsTransactionDone t _ _ => decide (t < 8)
  | .railRaiseDone t => decide (t < 8)
  | .engLmapWrite t half _ v => decide (t < 8 ∧ half < 2 ∧ v < 2 ^ 32)
  | .engColFailWrite t e word v => decide (t < 8 ∧ e < 18 ∧ word < 3 ∧ v < 2 ^ 32)
  | .planPeriodBoundary _ => true
  | .modeReqWrite _ _ _ => true
  | .instanceRelease g j => decide (g < 256 ∧ j < 128)
  | .walkDone g j _ _ => decide (g < 256 ∧ j < 128)
  | .taskRelease g j i => decide (g < 256 ∧ j < 128 ∧ i < 4096)
  | .taskLateStart g j i => decide (g < 256 ∧ j < 128 ∧ i < 4096)
  | .taskEnd g j i _ _ => decide (g < 256 ∧ j < 128 ∧ i < 4096)
  | .instanceRetire g j ecc _ => decide (g < 256 ∧ j < 128 ∧ (∀ x ∈ ecc, x < 4))
  | .barrierTimeout g j i => decide (g < 256 ∧ j < 128 ∧ i < 4096)
  | .passStart t e _ => decide (t < 8 ∧ e < 18)
  | .passAdd t e _ => decide (t < 8 ∧ e < 18)
  | .passSingle t e _ => decide (t < 8 ∧ e < 18)
  | .passAddNarrow t e _ => decide (t < 8 ∧ e < 18)
  | .vecAdd t e _ => decide (t < 8 ∧ e < 18)
  | .vecSub t e _ => decide (t < 8 ∧ e < 18)
  | .vecMul t e _ => decide (t < 8 ∧ e < 18)
  | .vecFma t e _ => decide (t < 8 ∧ e < 18)
  | .vecMin t e _ => decide (t < 8 ∧ e < 18)
  | .vecMax t e _ => decide (t < 8 ∧ e < 18)
  | .vecAbs t e _ => decide (t < 8 ∧ e < 18)
  | .vecNeg t e _ => decide (t < 8 ∧ e < 18)
  | .vecLess t e _ => decide (t < 8 ∧ e < 18)
  | .vecSelect t e _ => decide (t < 8 ∧ e < 18)
  | .vecExp2 t e _ => decide (t < 8 ∧ e < 18)
  | .vecLog2 t e _ => decide (t < 8 ∧ e < 18)
  | .vecRecip t e _ => decide (t < 8 ∧ e < 18)
  | .vecRsqrt t e _ => decide (t < 8 ∧ e < 18)
  | .cvt t e _ => decide (t < 8 ∧ e < 18)
  | .vecIadd t e _ => decide (t < 8 ∧ e < 18)
  | .vecImul t e _ => decide (t < 8 ∧ e < 18)
  | .vecShl t e _ => decide (t < 8 ∧ e < 18)
  | .vecShr t e _ => decide (t < 8 ∧ e < 18)
  | .vecAnd t e _ => decide (t < 8 ∧ e < 18)
  | .vecOr t e _ => decide (t < 8 ∧ e < 18)
  | .vecXor t e _ => decide (t < 8 ∧ e < 18)
  | .gather t e _ => decide (t < 8 ∧ e < 18)
  | .scatterStore t e _ => decide (t < 8 ∧ e < 18)
  | .scatterAdd t e _ => decide (t < 8 ∧ e < 18)
  | .scatterMax t e _ => decide (t < 8 ∧ e < 18)
  | .scatterMin t e _ => decide (t < 8 ∧ e < 18)
  | .segredSum t e _ => decide (t < 8 ∧ e < 18)
  | .segredMax t e _ => decide (t < 8 ∧ e < 18)
  | .segredMin t e _ => decide (t < 8 ∧ e < 18)
  | .segredMean t e _ => decide (t < 8 ∧ e < 18)
  | .segredNormExp t e _ => decide (t < 8 ∧ e < 18)
  | .hist t e _ => decide (t < 8 ∧ e < 18)
  | .dedup t e _ => decide (t < 8 ∧ e < 18)
  | .sort t e _ => decide (t < 8 ∧ e < 18)
  | .merge t e _ => decide (t < 8 ∧ e < 18)
  | .topk t e _ => decide (t < 8 ∧ e < 18)
  | .bin t e _ => decide (t < 8 ∧ e < 18)
  | .radius t e _ => decide (t < 8 ∧ e < 18)
  | .knn t e _ => decide (t < 8 ∧ e < 18)
  | .moveFill t e _ => decide (t < 8 ∧ e < 18)
  | .moveDrain t e _ => decide (t < 8 ∧ e < 18)
  | .splat t _ => decide (t < 8)
  | .sample t _ => decide (t < 8)
  | .testRun t e _ => decide (t < 8 ∧ e < 18)
  | .listCopyDone t e => decide (t < 8 ∧ e < 18)
  | .beaconSlotStart t i => decide (t < 8 ∧ i < 16)
  | .beaconDone t e _ => decide (t < 8 ∧ e < 18)
  | .beaconSlotEnd t i => decide (t < 8 ∧ i < 16)
  | .auditVerdict t _ => decide (t < 8)
  | .auditTimeout t _ => decide (t < 8)
  | .quarantineTestDone t e cols _ => decide (t < 8 ∧ e < 18 ∧ cols < 2 ^ 68)
  | .cleanRunsDone t e _ _ => decide (t < 8 ∧ e < 18)
  | .graphSubmit ecc _ _ => decide ((∀ x ∈ ecc, x < 4))
  | .admissionVerdict _ => true
  | .preemptRequest g => decide (g < 256)
  | .resumeRequest g => decide (g < 256)
  | .kvRingIndexWrite p _ _ => decide (p < 64)
  | .instantBoundary => true
  | .calSwapRequest => true
  | .calNextWrite n w v => decide (n < 64 ∧ w < 32 ∧ v < 2 ^ 32)
  | .calNextWriteApply => true
  | .pick _ _ => true
  | .trackUpdate _ => true
  | .gptpSync port _ _ _ _ _ => decide (port < 6)
  | .syncTimeout _ => true
  | .gmSyncTransmit => true
  | .time t _ => decide (t < 8)
  | .timeBeaconLoss t => decide (t < 8)
  | .triggerEdge n => decide (n < 16)
  | .triggerWidthEnd n => decide (n < 16)
  | .frameStart port vc _ _ _ => decide (port < 16 ∧ vc < 16)
  | .csi2LongPacket port vc _ _ _ _ _ _ => decide (port < 16 ∧ vc < 16)
  | .frameEnd port vc _ => decide (port < 16 ∧ vc < 16)
  | .sensorAbsent n => decide (n < 64)
  | .pictureDone _ _ _ view _ => decide (view < 8)
  | .decodePartStart core q _ view => decide (core < 16 ∧ q < 16 ∧ view < 8)
  | .sliceBoundary core => decide (core < 16)
  | .decodeHardStop core => decide (core < 16)
  | .decodePartEnd core _ _ _ _ _ => decide (core < 16)
  | .batchForm q => decide (q < 16)
  | .smplFetchWrite q _ _ => decide (q < 16)
  | .flitReceive m _ _ => decide (m < 48)
  | .retrainDone m _ _ _ => decide (m < 48)
  | .linkSilence m => decide (m < 48)
  | .read _ ecc => decide (ecc < 4)
  | .write _ ecc => decide (ecc < 4)
  | .writePart _ ecc => decide (ecc < 4)
  | .rdResp _ _ => true
  | .wrResp _ => true
  | .errResp _ _ => true
  | .fenceNotice t die => decide (t < 8 ∧ die < 8)
  | .unfenceNotice t die => decide (t < 8 ∧ die < 8)
  | .latencyEcho m _ => decide (m < 48)
  | .requestTimeout _ => true
  | .eyeSweep m _ _ => decide (m < 48)
  | .laneSwapDone m _ => decide (m < 48)
  | .ringRetrain t o => decide (t < 8 ∧ o.east ≤ 34 ∧ o.west ≤ 34)
  | .linkTrainingDone m _ tx rx => decide (m < 48 ∧ tx < 35 ∧ rx < 35)
  | .paramOffer word => decide (word < 2 ^ 64)
  | .partnerStepTimeout => true
  | .partnerRetry => true
  | .partnerRequest _ addr _ _ _ => decide (addr < 2 ^ 48)
  | .partnerIssue => true
  | .partnerResponseTimeout _ => true
  | .ethFrameReceive port _ _ _ sec _ _ _ _ => decide (port < 6 ∧ sec < 4)
  | .ethLinkChange port _ _ => decide (port < 6)
  | .gclSwitch port => decide (port < 6)
  | .gateIntervalEnd port => decide (port < 6)
  | .roleQuery _ => true
  | .csrRead _ => true
  | .csrWrite _ => true
  | .memRead ecc _ => decide ((∀ x ∈ ecc, x < 4))
  | .memWrite ecc _ _ => decide ((∀ x ∈ ecc, x < 4))
  | .modeReq _ => true
  | .preempt _ => true
  | .kvRing _ => true
  | .sampleRing _ => true
  | .eventStream _ => true
  | .shadowRefresh _ => true
  | .shadowStale isl => decide (isl < 2)
  | .statusRead addr _ => decide (addr < 256)
  | .logRead addr _ => decide (addr < 256)
  | .actionArm addr data => decide (addr < 256 ∧ data < 2 ^ 16)
  | .actionArmExpiry => true
  | .safeState arg data => decide (arg < 256 ∧ data < 2 ^ 16)
  | .appReset arg data => decide (arg < 256 ∧ data < 2 ^ 16)
  | .logFreeze arg data => decide (arg < 256 ∧ data < 2 ^ 16)
  | .smpModeReq arg data => decide (arg < 256 ∧ data < 2 ^ 16)
  | .safeReq _ => true
  | .faultNRelease => true
  | .bootSequence step => step.wf
  | .attestationStart dest => decide (dest < 2 ^ 48)
  | .attestationDone => true
  | .debugNewChallenge level => decide (level < 4)
  | .debugSubmit => true
  | .debugVerdict => true
  | .debugBlockEnd => true
  | .sakInstall => true
  | .otpProgram field index _ => decide (field < 256 ∧ index < 256)
  | .otpProgramDone => true
  | .lockstepMismatch isl => decide (isl < 2)
  | .asyncInput isl _ _ => decide (isl < 2)
  | .debugHalt isl => decide (isl < 2)
  | .islandStatus src _ _ => decide (src < 2)
  | .challenge _ _ => true
  | .answer v _ => decide (v < 2 ^ 32)
  | .answerTimeout => true
  | .islandEvent _ => true
  | .safeFrame src _ => decide (src < 2)
  | .inject src mech _ _ => decide (src < 2 ∧ mech < 38)
  | .heartbeatLoss => true
  | .channelSilence isl => decide (isl < 2)
  | .eventLogEntry _ => true
  | .handlerEnd => true
  | .handlerGuardExpiry => true
  | .watchClose g j i => decide (g < 256 ∧ j < 128 ∧ i < 4096)
  | .wdgKick v => decide (v < 2 ^ 32)
  | .hubWindowClose w => decide (w < 64)
  | .clockMonitorWindow _ => true
  | .railExcursion rail _ => decide (rail < 16)
  | .powerOnReset also => decide (also < 2 ^ 10)
  | .kystaPowerReset => true
  | .safetyReset _ also => decide (also < 2 ^ 10)
  | .resetPin _ also => decide (also < 2 ^ 10)
  | .brownOut _ also => decide (also < 2 ^ 10)
  | .brownOutRelease _ => true
  | .applicationResetRequest src v => decide (src < 4 ∧ v < 2 ^ 32)
  | .dieResetRequest src v => decide (src < 4 ∧ v < 2 ^ 32)
  | .syswdKick v => decide (v < 2 ^ 32)
  | .syswdExpiry also => decide (also < 2 ^ 10)
  | .lockup also => decide (also < 2 ^ 10)
  | .referenceLost => true
  | .referenceRestored => true
  | .clockFailure also => decide (also < 2 ^ 10)
  | .synthUnlock => true
  | .diePllUnlock t => decide (t < 8)
  | .dieHoldEnd t => decide (t < 8)
  | .dieReloadDone t chans _ _ => decide (t < 8 ∧ chans < 256)
  | .dieInjectionDone t _ => decide (t < 8)
  | .rejoinAttemptTimeout t => decide (t < 8)
  | .rejoinRetry t => decide (t < 8)
  | .domainWakeStart t e => decide (t < 8 ∧ e < 18)
  | .domainWakeDone t d => decide (t < 9 ∧ d < 24)
  | .domainWakeFailed t d => decide (t < 9 ∧ d < 24)
  | .standbyRequest v => decide (v < 2 ^ 32)
  | .healthUpdate => true
  | .canaryMeasure t _ => decide (t < 8)
  | .repairBurn => true
  | .arrive _ => true
  | .release => true
  | .barrierDrop _ g i => decide (g < 256 ∧ i < 4096)
  | .regionSendBlock ecc _ => decide ((∀ x ∈ ecc, x < 4))
  | .ckptAck => true
  | .twinReq _ => true
  | .twinData ecc _ _ => decide ((∀ x ∈ ecc, x < 4))
  | .twinRefusal => true
  | .twinTimeout => true
  | .joinReady _ => true
  | .joinReadyResponse => true
  | .withdraw => true
  | .handlerTrap => true
  | .islandSramEccError _ => true
  | .stewardSramEccError t _ => decide (t < 8)
  | .kystaPowerReturn => true
  | .powerLoss _ => true
  | .peerDelayRequest => true

end Sys2Proof
end

