-- ==== Sys2Proof/Laws/PerInstr.lean ====
section
/-! SUPPORT. A statement about every command as syntax, one lemma per constructor: a well-formed command names no die beyond the eight compute
dies and the hub side, which is numbered 8. -/

namespace Sys2Proof.Laws.Dies

/-- The dies that a command names by number. -/
def dies : Instr → List Nat
  | .registerWrite _ _ _ _ => []
  | .captureClear _ _ _ => []
  | .packageAccess _ _ _ _ _ _ _ _ _ => []
  | .heldBlockIssue _ => []
  | .channelServe die _ _ _ => [die]
  | .sliceServe t _ _ => [t]
  | .refresh die _ => [die]
  | .patrolScrub die _ _ => [die]
  | .rowMissWindow die _ => [die]
  | .wck2dqCheck die _ _ _ => [die]
  | .mr4Poll die _ _ => [die]
  | .eyeMeasurement die _ _ _ => [die]
  | .paceSample t _ => [t]
  | .paceAlarmClear t => [t]
  | .slowLayerUpdate t => [t]
  | .avsTransactionDone t _ _ => [t]
  | .railRaiseDone t => [t]
  | .engLmapWrite t _ _ _ => [t]
  | .engColFailWrite t _ _ _ => [t]
  | .planPeriodBoundary _ => []
  | .modeReqWrite _ _ _ => []
  | .instanceRelease _ _ => []
  | .walkDone _ _ _ _ => []
  | .taskRelease _ _ _ => []
  | .taskLateStart _ _ _ => []
  | .taskEnd _ _ _ _ _ => []
  | .instanceRetire _ _ _ _ => []
  | .barrierTimeout _ _ _ => []
  | .passStart t _ _ => [t]
  | .passAdd t _ _ => [t]
  | .passSingle t _ _ => [t]
  | .passAddNarrow t _ _ => [t]
  | .vecAdd t _ _ => [t]
  | .vecSub t _ _ => [t]
  | .vecMul t _ _ => [t]
  | .vecFma t _ _ => [t]
  | .vecMin t _ _ => [t]
  | .vecMax t _ _ => [t]
  | .vecAbs t _ _ => [t]
  | .vecNeg t _ _ => [t]
  | .vecLess t _ _ => [t]
  | .vecSelect t _ _ => [t]
  | .vecExp2 t _ _ => [t]
  | .vecLog2 t _ _ => [t]
  | .vecRecip t _ _ => [t]
  | .vecRsqrt t _ _ => [t]
  | .cvt t _ _ => [t]
  | .vecIadd t _ _ => [t]
  | .vecImul t _ _ => [t]
  | .vecShl t _ _ => [t]
  | .vecShr t _ _ => [t]
  | .vecAnd t _ _ => [t]
  | .vecOr t _ _ => [t]
  | .vecXor t _ _ => [t]
  | .gather t _ _ => [t]
  | .scatterStore t _ _ => [t]
  | .scatterAdd t _ _ => [t]
  | .scatterMax t _ _ => [t]
  | .scatterMin t _ _ => [t]
  | .segredSum t _ _ => [t]
  | .segredMax t _ _ => [t]
  | .segredMin t _ _ => [t]
  | .segredMean t _ _ => [t]
  | .segredNormExp t _ _ => [t]
  | .hist t _ _ => [t]
  | .dedup t _ _ => [t]
  | .sort t _ _ => [t]
  | .merge t _ _ => [t]
  | .topk t _ _ => [t]
  | .bin t _ _ => [t]
  | .radius t _ _ => [t]
  | .knn t _ _ => [t]
  | .moveFill t _ _ => [t]
  | .moveDrain t _ _ => [t]
  | .splat t _ => [t]
  | .sample t _ => [t]
  | .testRun t _ _ => [t]
  | .listCopyDone t _ => [t]
  | .beaconSlotStart t _ => [t]
  | .beaconDone t _ _ => [t]
  | .beaconSlotEnd t _ => [t]
  | .auditVerdict t _ => [t]
  | .auditTimeout t _ => [t]
  | .quarantineTestDone t _ _ _ => [t]
  | .cleanRunsDone t _ _ _ => [t]
  | .graphSubmit _ _ _ => []
  | .admissionVerdict _ => []
  | .preemptRequest _ => []
  | .resumeRequest _ => []
  | .kvRingIndexWrite _ _ _ => []
  | .instantBoundary => []
  | .calSwapRequest => []
  | .calNextWrite _ _ _ => []
  | .calNextWriteApply => []
  | .pick _ _ => []
  | .trackUpdate _ => []
  | .gptpSync _ _ _ _ _ _ => []
  | .syncTimeout _ => []
  | .gmSyncTransmit => []
  | .time t _ => [t]
  | .timeBeaconLoss t => [t]
  | .triggerEdge _ => []
  | .triggerWidthEnd _ => []
  | .frameStart _ _ _ _ _ => []
  | .csi2LongPacket _ _ _ _ _ _ _ _ => []
  | .frameEnd _ _ _ => []
  | .sensorAbsent _ => []
  | .pictureDone _ _ _ _ _ => []
  | .decodePartStart _ _ _ _ => []
  | .sliceBoundary _ => []
  | .decodeHardStop _ => []
  | .decodePartEnd _ _ _ _ _ _ => []
  | .batchForm _ => []
  | .smplFetchWrite _ _ _ => []
  | .flitReceive _ _ _ => []
  | .retrainDone _ _ _ _ => []
  | .linkSilence _ => []
  | .read _ _ => []
  | .write _ _ => []
  | .writePart _ _ => []
  | .rdResp _ _ => []
  | .wrResp _ => []
  | .errResp _ _ => []
  | .fenceNotice t die => [t, die]
  | .unfenceNotice t die => [t, die]
  | .latencyEcho _ _ => []
  | .requestTimeout _ => []
  | .eyeSweep _ _ _ => []
  | .laneSwapDone _ _ => []
  | .ringRetrain t _ => [t]
  | .linkTrainingDone _ _ _ _ => []
  | .paramOffer _ => []
  | .partnerStepTimeout => []
  | .partnerRetry => []
  | .partnerRequest _ _ _ _ _ => []
  | .partnerIssue => []
  | .partnerResponseTimeout _ => []
  | .ethFrameReceive _ _ _ _ _ _ _ _ _ => []
  | .ethLinkChange _ _ _ => []
  | .gclSwitch _ => []
  | .gateIntervalEnd _ => []
  | .roleQuery _ => []
  | .csrRead _ => []
  | .csrWrite _ => []
  | .memRead _ _ => []
  | .memWrite _ _ _ => []
  | .modeReq _ => []
  | .preempt _ => []
  | .kvRing _ => []
  | .sampleRing _ => []
  | .eventStream _ => []
  | .shadowRefresh _ => []
  | .shadowStale _ => []
  | .statusRead _ _ => []
  | .logRead _ _ => []
  | .actionArm _ _ => []
  | .actionArmExpiry => []
  | .safeState _ _ => []
  | .appReset _ _ => []
  | .logFreeze _ _ => []
  | .smpModeReq _ _ => []
  | .safeReq _ => []
  | .faultNRelease => []
  | .bootSequence _ => []
  | .attestationStart _ => []
  | .attestationDone => []
  | .debugNewChallenge _ => []
  | .debugSubmit => []
  | .debugVerdict => []
  | .debugBlockEnd => []
  | .sakInstall => []
  | .otpProgram _ _ _ => []
  | .otpProgramDone => []
  | .lockstepMismatch _ => []
  | .asyncInput _ _ _ => []
  | .debugHalt _ => []
  | .islandStatus _ _ _ => []
  | .challenge _ _ => []
  | .answer _ _ => []
  | .answerTimeout => []
  | .islandEvent _ => []
  | .safeFrame _ _ => []
  | .inject _ _ _ _ => []
  | .heartbeatLoss => []
  | .channelSilence _ => []
  | .eventLogEntry _ => []
  | .handlerEnd => []
  | .handlerGuardExpiry => []
  | .watchClose _ _ _ => []
  | .wdgKick _ => []
  | .hubWindowClose _ => []
  | .clockMonitorWindow _ => []
  | .railExcursion _ _ => []
  | .powerOnReset _ => []
  | .kystaPowerReset => []
  | .safetyReset _ _ => []
  | .resetPin _ _ => []
  | .brownOut _ _ => []
  | .brownOutRelease _ => []
  | .applicationResetRequest _ _ => []
  | .dieResetRequest _ _ => []
  | .syswdKick _ => []
  | .syswdExpiry _ => []
  | .lockup _ => []
  | .referenceLost => []
  | .referenceRestored => []
  | .clockFailure _ => []
  | .synthUnlock => []
  | .diePllUnlock t => [t]
  | .dieHoldEnd t => [t]
  | .dieReloadDone t _ _ _ => [t]
  | .dieInjectionDone t _ => [t]
  | .rejoinAttemptTimeout t => [t]
  | .rejoinRetry t => [t]
  | .domainWakeStart t _ => [t]
  | .domainWakeDone t _ => [t]
  | .domainWakeFailed t _ => [t]
  | .standbyRequest _ => []
  | .healthUpdate => []
  | .canaryMeasure t _ => [t]
  | .repairBurn => []
  | .arrive _ => []
  | .release => []
  | .barrierDrop _ _ _ => []
  | .regionSendBlock _ _ => []
  | .ckptAck => []
  | .twinReq _ => []
  | .twinData _ _ _ => []
  | .twinRefusal => []
  | .twinTimeout => []
  | .joinReady _ => []
  | .joinReadyResponse => []
  | .withdraw => []
  | .handlerTrap => []
  | .islandSramEccError _ => []
  | .stewardSramEccError t _ => [t]
  | .kystaPowerReturn => []
  | .powerLoss _ => []
  | .peerDelayRequest => []

theorem one {t : Nat} (h : t < 9) : ∀ d ∈ [t], d < 9 := fun _ hd => List.mem_singleton.mp hd ▸ h

theorem two {t die : Nat} (h : t < 9 ∧ die < 9) : ∀ d ∈ [t, die], d < 9 := fun _ hd =>
  (List.mem_cons.mp hd).elim (· ▸ h.1) fun hd => List.mem_singleton.mp hd ▸ h.2

/-- A well-formed command names only dies that some part has. -/
def Statement (i : Instr) : Prop := i.wf = true → ∀ d ∈ dies i, d < 9

theorem registerWrite (_src : Nat) (_agent : Nat) (_addr : Nat) (_v : Nat) : Statement (.registerWrite _src _agent _addr _v) := fun _ _ h => nomatch h
theorem captureClear (_src : Nat) (_agent : Nat) (_addr : Nat) : Statement (.captureClear _src _agent _addr) := fun _ _ h => nomatch h
theorem packageAccess (_src : Nat) (_agent : Nat) (_addr : Nat) (_len : Nat) (_data : Option (List Byte)) (_exec : Option Nat) (_comb : Option (Nat × Nat)) (_chk : Nat) (_ecc : Nat) : Statement (.packageAccess _src _agent _addr _len _data _exec _comb _chk _ecc) := fun _ _ h => nomatch h
theorem heldBlockIssue (_inst : Nat) : Statement (.heldBlockIssue _inst) := fun _ _ h => nomatch h
theorem channelServe (die : Nat) (_c : Nat) (_ecc : Nat) (_miss : Bool) : Statement (.channelServe die _c _ecc _miss) := fun h =>
  have := of_decide_eq_true h
  one (by omega)
theorem sliceServe (t : Nat) (_sl : Nat) (_ecc : Nat) : Statement (.sliceServe t _sl _ecc) := fun h =>
  have := of_decide_eq_true h
  one (by omega)
theorem refresh (die : Nat) (_c : Nat) : Statement (.refresh die _c) := fun h =>
  have := of_decide_eq_true h
  one (by omega)
theorem patrolScrub (die : Nat) (_c : Nat) (_ecc : Nat) : Statement (.patrolScrub die _c _ecc) := fun h =>
  have := of_decide_eq_true h
  one (by omega)
theorem rowMissWindow (die : Nat) (_c : Nat) : Statement (.rowMissWindow die _c) := fun h =>
  have := of_decide_eq_true h
  one (by omega)
theorem wck2dqCheck (die : Nat) (_c : Nat) (_steps : Int) (_ok : Bool) : Statement (.wck2dqCheck die _c _steps _ok) := fun h =>
  have := of_decide_eq_true h
  one (by omega)
theorem mr4Poll (die : Nat) (_c : Nat) (_mult : Nat) : Statement (.mr4Poll die _c _mult) := fun h =>
  have := of_decide_eq_true h
  one (by omega)
theorem eyeMeasurement (die : Nat) (_c : Nat) (_rd : Nat) (_wr : Nat) : Statement (.eyeMeasurement die _c _rd _wr) := fun h =>
  have := of_decide_eq_true h
  one (by omega)
theorem paceSample (t : Nat) (_obs : List PaceObs) : Statement (.paceSample t _obs) := fun h =>
  have := of_decide_eq_true h
  one (by omega)
theorem paceAlarmClear (t : Nat) : Statement (.paceAlarmClear t) := fun h =>
  have := of_decide_eq_true h
  one (by omega)
theorem slowLayerUpdate (t : Nat) : Statement (.slowLayerUpdate t) := fun h =>
  have := of_decide_eq_true h
  one (by omega)
theorem avsTransactionDone (t : Nat) (_ok : Bool) (_readback : Nat) : Statement (.avsTransactionDone t _ok _readback) := fun h =>
  have := of_decide_eq_true h
  one (by omega)
theorem railRaiseDone (t : Nat) : Statement (.railRaiseDone t) := fun h =>
  have := of_decide_eq_true h
  one (by omega)
theorem engLmapWrite (t : Nat) (_half : Nat) (_upper : Bool) (_v : Nat) : Statement (.engLmapWrite t _half _upper _v) := fun h =>
  have := of_decide_eq_true h
  one (by omega)
theorem engColFailWrite (t : Nat) (_e : Nat) (_word : Nat) (_v : Nat) : Statement (.engColFailWrite t _e _word _v) := fun h =>
  have := of_decide_eq_true h
  one (by omega)
theorem planPeriodBoundary (_copies : Bool) : Statement (.planPeriodBoundary _copies) := fun _ _ h => nomatch h
theorem modeReqWrite (_core : Option Nat) (_ohp : Option Nat) (_smp : Option Nat) : Statement (.modeReqWrite _core _ohp _smp) := fun _ _ h => nomatch h
theorem instanceRelease (_g : Nat) (_j : Nat) : Statement (.instanceRelease _g _j) := fun _ _ h => nomatch h
theorem walkDone (_g : Nat) (_j : Nat) (_copies : List Nat) (_digest : Bool) : Statement (.walkDone _g _j _copies _digest) := fun _ _ h => nomatch h
theorem taskRelease (_g : Nat) (_j : Nat) (_inst : Nat) : Statement (.taskRelease _g _j _inst) := fun _ _ h => nomatch h
theorem taskLateStart (_g : Nat) (_j : Nat) (_inst : Nat) : Statement (.taskLateStart _g _j _inst) := fun _ _ h => nomatch h
theorem taskEnd (_g : Nat) (_j : Nat) (_inst : Nat) (_beats : Nat) (_stalls : Nat) : Statement (.taskEnd _g _j _inst _beats _stalls) := fun _ _ h => nomatch h
theorem instanceRetire (_g : Nat) (_j : Nat) (_ecc : List Nat) (_copies : Bool) : Statement (.instanceRetire _g _j _ecc _copies) := fun _ _ h => nomatch h
theorem barrierTimeout (_g : Nat) (_j : Nat) (_inst : Nat) : Statement (.barrierTimeout _g _j _inst) := fun _ _ h => nomatch h
theorem passStart (t : Nat) (_e : Nat) (_o : UnitObs) : Statement (.passStart t _e _o) := fun h =>
  have := of_decide_eq_true h
  one (by omega)
theorem passAdd (t : Nat) (_e : Nat) (_o : UnitObs) : Statement (.passAdd t _e _o) := fun h =>
  have := of_decide_eq_true h
  one (by omega)
theorem passSingle (t : Nat) (_e : Nat) (_o : UnitObs) : Statement (.passSingle t _e _o) := fun h =>
  have := of_decide_eq_true h
  one (by omega)
theorem passAddNarrow (t : Nat) (_e : Nat) (_o : UnitObs) : Statement (.passAddNarrow t _e _o) := fun h =>
  have := of_decide_eq_true h
  one (by omega)
theorem vecAdd (t : Nat) (_e : Nat) (_o : UnitObs) : Statement (.vecAdd t _e _o) := fun h =>
  have := of_decide_eq_true h
  one (by omega)
theorem vecSub (t : Nat) (_e : Nat) (_o : UnitObs) : Statement (.vecSub t _e _o) := fun h =>
  have := of_decide_eq_true h
  one (by omega)
theorem vecMul (t : Nat) (_e : Nat) (_o : UnitObs) : Statement (.vecMul t _e _o) := fun h =>
  have := of_decide_eq_true h
  one (by omega)
theorem vecFma (t : Nat) (_e : Nat) (_o : UnitObs) : Statement (.vecFma t _e _o) := fun h =>
  have := of_decide_eq_true h
  one (by omega)
theorem vecMin (t : Nat) (_e : Nat) (_o : UnitObs) : Statement (.vecMin t _e _o) := fun h =>
  have := of_decide_eq_true h
  one (by omega)
theorem vecMax (t : Nat) (_e : Nat) (_o : UnitObs) : Statement (.vecMax t _e _o) := fun h =>
  have := of_decide_eq_true h
  one (by omega)
theorem vecAbs (t : Nat) (_e : Nat) (_o : UnitObs) : Statement (.vecAbs t _e _o) := fun h =>
  have := of_decide_eq_true h
  one (by omega)
theorem vecNeg (t : Nat) (_e : Nat) (_o : UnitObs) : Statement (.vecNeg t _e _o) := fun h =>
  have := of_decide_eq_true h
  one (by omega)
theorem vecLess (t : Nat) (_e : Nat) (_o : UnitObs) : Statement (.vecLess t _e _o) := fun h =>
  have := of_decide_eq_true h
  one (by omega)
theorem vecSelect (t : Nat) (_e : Nat) (_o : UnitObs) : Statement (.vecSelect t _e _o) := fun h =>
  have := of_decide_eq_true h
  one (by omega)
theorem vecExp2 (t : Nat) (_e : Nat) (_o : UnitObs) : Statement (.vecExp2 t _e _o) := fun h =>
  have := of_decide_eq_true h
  one (by omega)
theorem vecLog2 (t : Nat) (_e : Nat) (_o : UnitObs) : Statement (.vecLog2 t _e _o) := fun h =>
  have := of_decide_eq_true h
  one (by omega)
theorem vecRecip (t : Nat) (_e : Nat) (_o : UnitObs) : Statement (.vecRecip t _e _o) := fun h =>
  have := of_decide_eq_true h
  one (by omega)
theorem vecRsqrt (t : Nat) (_e : Nat) (_o : UnitObs) : Statement (.vecRsqrt t _e _o) := fun h =>
  have := of_decide_eq_true h
  one (by omega)
theorem cvt (t : Nat) (_e : Nat) (_o : UnitObs) : Statement (.cvt t _e _o) := fun h =>
  have := of_decide_eq_true h
  one (by omega)
theorem vecIadd (t : Nat) (_e : Nat) (_o : UnitObs) : Statement (.vecIadd t _e _o) := fun h =>
  have := of_decide_eq_true h
  one (by omega)
theorem vecImul (t : Nat) (_e : Nat) (_o : UnitObs) : Statement (.vecImul t _e _o) := fun h =>
  have := of_decide_eq_true h
  one (by omega)
theorem vecShl (t : Nat) (_e : Nat) (_o : UnitObs) : Statement (.vecShl t _e _o) := fun h =>
  have := of_decide_eq_true h
  one (by omega)
theorem vecShr (t : Nat) (_e : Nat) (_o : UnitObs) : Statement (.vecShr t _e _o) := fun h =>
  have := of_decide_eq_true h
  one (by omega)
theorem vecAnd (t : Nat) (_e : Nat) (_o : UnitObs) : Statement (.vecAnd t _e _o) := fun h =>
  have := of_decide_eq_true h
  one (by omega)
theorem vecOr (t : Nat) (_e : Nat) (_o : UnitObs) : Statement (.vecOr t _e _o) := fun h =>
  have := of_decide_eq_true h
  one (by omega)
theorem vecXor (t : Nat) (_e : Nat) (_o : UnitObs) : Statement (.vecXor t _e _o) := fun h =>
  have := of_decide_eq_true h
  one (by omega)
theorem gather (t : Nat) (_e : Nat) (_o : UnitObs) : Statement (.gather t _e _o) := fun h =>
  have := of_decide_eq_true h
  one (by omega)
theorem scatterStore (t : Nat) (_e : Nat) (_o : UnitObs) : Statement (.scatterStore t _e _o) := fun h =>
  have := of_decide_eq_true h
  one (by omega)
theorem scatterAdd (t : Nat) (_e : Nat) (_o : UnitObs) : Statement (.scatterAdd t _e _o) := fun h =>
  have := of_decide_eq_true h
  one (by omega)
theorem scatterMax (t : Nat) (_e : Nat) (_o : UnitObs) : Statement (.scatterMax t _e _o) := fun h =>
  have := of_decide_eq_true h
  one (by omega)
theorem scatterMin (t : Nat) (_e : Nat) (_o : UnitObs) : Statement (.scatterMin t _e _o) := fun h =>
  have := of_decide_eq_true h
  one (by omega)
theorem segredSum (t : Nat) (_e : Nat) (_o : UnitObs) : Statement (.segredSum t _e _o) := fun h =>
  have := of_decide_eq_true h
  one (by omega)
theorem segredMax (t : Nat) (_e : Nat) (_o : UnitObs) : Statement (.segredMax t _e _o) := fun h =>
  have := of_decide_eq_true h
  one (by omega)
theorem segredMin (t : Nat) (_e : Nat) (_o : UnitObs) : Statement (.segredMin t _e _o) := fun h =>
  have := of_decide_eq_true h
  one (by omega)
theorem segredMean (t : Nat) (_e : Nat) (_o : UnitObs) : Statement (.segredMean t _e _o) := fun h =>
  have := of_decide_eq_true h
  one (by omega)
theorem segredNormExp (t : Nat) (_e : Nat) (_o : UnitObs) : Statement (.segredNormExp t _e _o) := fun h =>
  have := of_decide_eq_true h
  one (by omega)
theorem hist (t : Nat) (_e : Nat) (_o : UnitObs) : Statement (.hist t _e _o) := fun h =>
  have := of_decide_eq_true h
  one (by omega)
theorem dedup (t : Nat) (_e : Nat) (_o : UnitObs) : Statement (.dedup t _e _o) := fun h =>
  have := of_decide_eq_true h
  one (by omega)
theorem sort (t : Nat) (_e : Nat) (_o : UnitObs) : Statement (.sort t _e _o) := fun h =>
  have := of_decide_eq_true h
  one (by omega)
theorem merge (t : Nat) (_e : Nat) (_o : UnitObs) : Statement (.merge t _e _o) := fun h =>
  have := of_decide_eq_true h
  one (by omega)
theorem topk (t : Nat) (_e : Nat) (_o : UnitObs) : Statement (.topk t _e _o) := fun h =>
  have := of_decide_eq_true h
  one (by omega)
theorem bin (t : Nat) (_e : Nat) (_o : UnitObs) : Statement (.bin t _e _o) := fun h =>
  have := of_decide_eq_true h
  one (by omega)
theorem radius (t : Nat) (_e : Nat) (_o : UnitObs) : Statement (.radius t _e _o) := fun h =>
  have := of_decide_eq_true h
  one (by omega)
theorem knn (t : Nat) (_e : Nat) (_o : UnitObs) : Statement (.knn t _e _o) := fun h =>
  have := of_decide_eq_true h
  one (by omega)
theorem moveFill (t : Nat) (_e : Nat) (_o : UnitObs) : Statement (.moveFill t _e _o) := fun h =>
  have := of_decide_eq_true h
  one (by omega)
theorem moveDrain (t : Nat) (_e : Nat) (_o : UnitObs) : Statement (.moveDrain t _e _o) := fun h =>
  have := of_decide_eq_true h
  one (by omega)
theorem splat (t : Nat) (_o : UnitObs) : Statement (.splat t _o) := fun h =>
  have := of_decide_eq_true h
  one (by omega)
theorem sample (t : Nat) (_o : UnitObs) : Statement (.sample t _o) := fun h =>
  have := of_decide_eq_true h
  one (by omega)
theorem testRun (t : Nat) (_e : Nat) (_passed : Bool) : Statement (.testRun t _e _passed) := fun h =>
  have := of_decide_eq_true h
  one (by omega)
theorem listCopyDone (t : Nat) (_e : Nat) : Statement (.listCopyDone t _e) := fun h =>
  have := of_decide_eq_true h
  one (by omega)
theorem beaconSlotStart (t : Nat) (_slot : Nat) : Statement (.beaconSlotStart t _slot) := fun h =>
  have := of_decide_eq_true h
  one (by omega)
theorem beaconDone (t : Nat) (_e : Nat) (_passed : Bool) : Statement (.beaconDone t _e _passed) := fun h =>
  have := of_decide_eq_true h
  one (by omega)
theorem beaconSlotEnd (t : Nat) (_slot : Nat) : Statement (.beaconSlotEnd t _slot) := fun h =>
  have := of_decide_eq_true h
  one (by omega)
theorem auditVerdict (t : Nat) (_crc : Nat) : Statement (.auditVerdict t _crc) := fun h =>
  have := of_decide_eq_true h
  one (by omega)
theorem auditTimeout (t : Nat) (_k : Nat) : Statement (.auditTimeout t _k) := fun h =>
  have := of_decide_eq_true h
  one (by omega)
theorem quarantineTestDone (t : Nat) (_e : Nat) (_cols : Nat) (_other : Bool) : Statement (.quarantineTestDone t _e _cols _other) := fun h =>
  have := of_decide_eq_true h
  one (by omega)
theorem cleanRunsDone (t : Nat) (_e : Nat) (_n : Nat) (_passed : Bool) : Statement (.cleanRunsDone t _e _n _passed) := fun h =>
  have := of_decide_eq_true h
  one (by omega)
theorem graphSubmit (_ecc : List Nat) (_lists : List (Nat × List Byte)) (_copies : Bool) : Statement (.graphSubmit _ecc _lists _copies) := fun _ _ h => nomatch h
theorem admissionVerdict (_copies : Bool) : Statement (.admissionVerdict _copies) := fun _ _ h => nomatch h
theorem preemptRequest (_g : Nat) : Statement (.preemptRequest _g) := fun _ _ h => nomatch h
theorem resumeRequest (_g : Nat) : Statement (.resumeRequest _g) := fun _ _ h => nomatch h
theorem kvRingIndexWrite (_p : Nat) (_tail : Option Nat) (_head : Option Nat) : Statement (.kvRingIndexWrite _p _tail _head) := fun _ _ h => nomatch h
theorem instantBoundary : Statement .instantBoundary := fun _ _ h => nomatch h
theorem calSwapRequest : Statement .calSwapRequest := fun _ _ h => nomatch h
theorem calNextWrite (_n : Nat) (_w : Nat) (_v : Nat) : Statement (.calNextWrite _n _w _v) := fun _ _ h => nomatch h
theorem calNextWriteApply : Statement .calNextWriteApply := fun _ _ h => nomatch h
theorem pick (_copies : Bool) (_gen : List Nat) : Statement (.pick _copies _gen) := fun _ _ h => nomatch h
theorem trackUpdate (_copies : Bool) : Statement (.trackUpdate _copies) := fun _ _ h => nomatch h
theorem gptpSync (_port : Nat) (_domain : Nat) (_gm : Nat) (_offset : Int) (_delay : Nat) (_interval : Nat) : Statement (.gptpSync _port _domain _gm _offset _delay _interval) := fun _ _ h => nomatch h
theorem syncTimeout (_lostCapable : Bool) : Statement (.syncTimeout _lostCapable) := fun _ _ h => nomatch h
theorem gmSyncTransmit : Statement .gmSyncTransmit := fun _ _ h => nomatch h
theorem time (t : Nat) (_d : Int) : Statement (.time t _d) := fun h =>
  have := of_decide_eq_true h
  one (by omega)
theorem timeBeaconLoss (t : Nat) : Statement (.timeBeaconLoss t) := fun h =>
  have := of_decide_eq_true h
  one (by omega)
theorem triggerEdge (_n : Nat) : Statement (.triggerEdge _n) := fun _ _ h => nomatch h
theorem triggerWidthEnd (_n : Nat) : Statement (.triggerWidthEnd _n) := fun _ _ h => nomatch h
theorem frameStart (_port : Nat) (_vc : Nat) (_hdr : Nat) (_dev : Int) (_emb : List Byte) : Statement (.frameStart _port _vc _hdr _dev _emb) := fun _ _ h => nomatch h
theorem csi2LongPacket (_port : Nat) (_vc : Nat) (_dt : Nat) (_hdr : Nat) (_fill : Nat) (_crcBad : Bool) (_gen : Bool) (_payload : List Byte) : Statement (.csi2LongPacket _port _vc _dt _hdr _fill _crcBad _gen _payload) := fun _ _ h => nomatch h
theorem frameEnd (_port : Nat) (_vc : Nat) (_hdr : Nat) : Statement (.frameEnd _port _vc _hdr) := fun _ _ h => nomatch h
theorem sensorAbsent (_n : Nat) : Statement (.sensorAbsent _n) := fun _ _ h => nomatch h
theorem pictureDone (_decoded : Bool) (_id : Nat) (_slot : Nat) (_view : Nat) (_o : UnitObs) : Statement (.pictureDone _decoded _id _slot _view _o) := fun _ _ h => nomatch h
theorem decodePartStart (_core : Nat) (_q : Nat) (_slot : Nat) (_view : Nat) : Statement (.decodePartStart _core _q _slot _view) := fun _ _ h => nomatch h
theorem sliceBoundary (_core : Nat) : Statement (.sliceBoundary _core) := fun _ _ h => nomatch h
theorem decodeHardStop (_core : Nat) : Statement (.decodeHardStop _core) := fun _ _ h => nomatch h
theorem decodePartEnd (_core : Nat) (_err : Option Nat) (_pic : Picture) (_npics : Nat) (_hold : Nat) (_gen : Bool) : Statement (.decodePartEnd _core _err _pic _npics _hold _gen) := fun _ _ h => nomatch h
theorem batchForm (_q : Nat) : Statement (.batchForm _q) := fun _ _ h => nomatch h
theorem smplFetchWrite (_q : Nat) (_done : Option Nat) (_batchDone : Option Nat) : Statement (.smplFetchWrite _q _done _batchDone) := fun _ _ h => nomatch h
theorem flitReceive (_m : Nat) (_flit : List Byte) (_aligned : Bool) : Statement (.flitReceive _m _flit _aligned) := fun _ _ h => nomatch h
theorem retrainDone (_m : Nat) (_ok : Bool) (_lanes : Nat) (_lat : Nat) : Statement (.retrainDone _m _ok _lanes _lat) := fun _ _ h => nomatch h
theorem linkSilence (_m : Nat) : Statement (.linkSilence _m) := fun _ _ h => nomatch h
theorem read (_id : Nat) (_ecc : Nat) : Statement (.read _id _ecc) := fun _ _ h => nomatch h
theorem write (_id : Nat) (_ecc : Nat) : Statement (.write _id _ecc) := fun _ _ h => nomatch h
theorem writePart (_id : Nat) (_ecc : Nat) : Statement (.writePart _id _ecc) := fun _ _ h => nomatch h
theorem rdResp (_id : Nat) (_resp : RespObs) : Statement (.rdResp _id _resp) := fun _ _ h => nomatch h
theorem wrResp (_id : Nat) : Statement (.wrResp _id) := fun _ _ h => nomatch h
theorem errResp (_id : Nat) (_kind : Nat) : Statement (.errResp _id _kind) := fun _ _ h => nomatch h
theorem fenceNotice (t : Nat) (die : Nat) : Statement (.fenceNotice t die) := fun h =>
  have := of_decide_eq_true h
  two (by omega)
theorem unfenceNotice (t : Nat) (die : Nat) : Statement (.unfenceNotice t die) := fun h =>
  have := of_decide_eq_true h
  two (by omega)
theorem latencyEcho (_m : Nat) (_lat : Nat) : Statement (.latencyEcho _m _lat) := fun _ _ h => nomatch h
theorem requestTimeout (_id : Nat) : Statement (.requestTimeout _id) := fun _ _ h => nomatch h
theorem eyeSweep (_m : Nat) (_centres : List Int) (_margin : Nat) : Statement (.eyeSweep _m _centres _margin) := fun _ _ h => nomatch h
theorem laneSwapDone (_m : Nat) (_same : Bool) : Statement (.laneSwapDone _m _same) := fun _ _ h => nomatch h
theorem ringRetrain (t : Nat) (_o : RingObs) : Statement (.ringRetrain t _o) := fun h =>
  have := of_decide_eq_true h
  one (by omega)
theorem linkTrainingDone (_m : Nat) (_ok : Bool) (_tx : Nat) (_rx : Nat) : Statement (.linkTrainingDone _m _ok _tx _rx) := fun _ _ h => nomatch h
theorem paramOffer (_word : Nat) : Statement (.paramOffer _word) := fun _ _ h => nomatch h
theorem partnerStepTimeout : Statement .partnerStepTimeout := fun _ _ h => nomatch h
theorem partnerRetry : Statement .partnerRetry := fun _ _ h => nomatch h
theorem partnerRequest (_tag : Nat) (_addr : Nat) (_len : Nat) (_data : Option (List Byte)) (_gen : Bool) : Statement (.partnerRequest _tag _addr _len _data _gen) := fun _ _ h => nomatch h
theorem partnerIssue : Statement .partnerIssue := fun _ _ h => nomatch h
theorem partnerResponseTimeout (_id : Nat) : Statement (.partnerResponseTimeout _id) := fun _ _ h => nomatch h
theorem ethFrameReceive (_port : Nat) (_frame : List Byte) (_stamp : Nat) (_fcsBad : Bool) (_sec : Nat) (_full : Bool) (_qci : Bool) (_dup : Bool) (_gen : Bool) : Statement (.ethFrameReceive _port _frame _stamp _fcsBad _sec _full _qci _dup _gen) := fun _ _ h => nomatch h
theorem ethLinkChange (_port : Nat) (_up : Bool) (_rate : Nat) : Statement (.ethLinkChange _port _up _rate) := fun _ _ h => nomatch h
theorem gclSwitch (_port : Nat) : Statement (.gclSwitch _port) := fun _ _ h => nomatch h
theorem gateIntervalEnd (_port : Nat) : Statement (.gateIntervalEnd _port) := fun _ _ h => nomatch h
theorem roleQuery (_copies : Bool) : Statement (.roleQuery _copies) := fun _ _ h => nomatch h
theorem csrRead (_copies : Bool) : Statement (.csrRead _copies) := fun _ _ h => nomatch h
theorem csrWrite (_copies : Bool) : Statement (.csrWrite _copies) := fun _ _ h => nomatch h
theorem memRead (_ecc : List Nat) (_copies : Bool) : Statement (.memRead _ecc _copies) := fun _ _ h => nomatch h
theorem memWrite (_ecc : List Nat) (_gen : Bool) (_copies : Bool) : Statement (.memWrite _ecc _gen _copies) := fun _ _ h => nomatch h
theorem modeReq (_copies : Bool) : Statement (.modeReq _copies) := fun _ _ h => nomatch h
theorem preempt (_copies : Bool) : Statement (.preempt _copies) := fun _ _ h => nomatch h
theorem kvRing (_copies : Bool) : Statement (.kvRing _copies) := fun _ _ h => nomatch h
theorem sampleRing (_copies : Bool) : Statement (.sampleRing _copies) := fun _ _ h => nomatch h
theorem eventStream (_copies : Bool) : Statement (.eventStream _copies) := fun _ _ h => nomatch h
theorem shadowRefresh (_writers : List Nat) : Statement (.shadowRefresh _writers) := fun _ _ h => nomatch h
theorem shadowStale (_isl : Nat) : Statement (.shadowStale _isl) := fun _ _ h => nomatch h
theorem statusRead (_addr : Nat) (_words : Nat) : Statement (.statusRead _addr _words) := fun _ _ h => nomatch h
theorem logRead (_addr : Nat) (_n : Nat) : Statement (.logRead _addr _n) := fun _ _ h => nomatch h
theorem actionArm (_addr : Nat) (_data : Nat) : Statement (.actionArm _addr _data) := fun _ _ h => nomatch h
theorem actionArmExpiry : Statement .actionArmExpiry := fun _ _ h => nomatch h
theorem safeState (_arg : Nat) (_data : Nat) : Statement (.safeState _arg _data) := fun _ _ h => nomatch h
theorem appReset (_arg : Nat) (_data : Nat) : Statement (.appReset _arg _data) := fun _ _ h => nomatch h
theorem logFreeze (_arg : Nat) (_data : Nat) : Statement (.logFreeze _arg _data) := fun _ _ h => nomatch h
theorem smpModeReq (_arg : Nat) (_data : Nat) : Statement (.smpModeReq _arg _data) := fun _ _ h => nomatch h
theorem safeReq (_lowNs : Nat) : Statement (.safeReq _lowNs) := fun _ _ h => nomatch h
theorem faultNRelease : Statement .faultNRelease := fun _ _ h => nomatch h
theorem bootSequence (_step : BootStep) : Statement (.bootSequence _step) := fun _ _ h => nomatch h
theorem attestationStart (_dest : Nat) : Statement (.attestationStart _dest) := fun _ _ h => nomatch h
theorem attestationDone : Statement .attestationDone := fun _ _ h => nomatch h
theorem debugNewChallenge (_level : Nat) : Statement (.debugNewChallenge _level) := fun _ _ h => nomatch h
theorem debugSubmit : Statement .debugSubmit := fun _ _ h => nomatch h
theorem debugVerdict : Statement .debugVerdict := fun _ _ h => nomatch h
theorem debugBlockEnd : Statement .debugBlockEnd := fun _ _ h => nomatch h
theorem sakInstall : Statement .sakInstall := fun _ _ h => nomatch h
theorem otpProgram (_field : Nat) (_index : Nat) (_core : Bool) : Statement (.otpProgram _field _index _core) := fun _ _ h => nomatch h
theorem otpProgramDone : Statement .otpProgramDone := fun _ _ h => nomatch h
theorem lockstepMismatch (_isl : Nat) : Statement (.lockstepMismatch _isl) := fun _ _ h => nomatch h
theorem asyncInput (_isl : Nat) (_input : Nat) (_agree : List Bool) : Statement (.asyncInput _isl _input _agree) := fun _ _ h => nomatch h
theorem debugHalt (_isl : Nat) : Statement (.debugHalt _isl) := fun _ _ h => nomatch h
theorem islandStatus (_src : Nat) (_loops : Nat) (_err : Nat) : Statement (.islandStatus _src _loops _err) := fun _ _ h => nomatch h
theorem challenge (_n : Nat) (_err : Nat) : Statement (.challenge _n _err) := fun _ _ h => nomatch h
theorem answer (_v : Nat) (_err : Nat) : Statement (.answer _v _err) := fun _ _ h => nomatch h
theorem answerTimeout : Statement .answerTimeout := fun _ _ h => nomatch h
theorem islandEvent (_err : Nat) : Statement (.islandEvent _err) := fun _ _ h => nomatch h
theorem safeFrame (_src : Nat) (_err : Nat) : Statement (.safeFrame _src _err) := fun _ _ h => nomatch h
theorem inject (_src : Nat) (_mech : Nat) (_ok : Bool) (_err : Nat) : Statement (.inject _src _mech _ok _err) := fun _ _ h => nomatch h
theorem heartbeatLoss : Statement .heartbeatLoss := fun _ _ h => nomatch h
theorem channelSilence (_isl : Nat) : Statement (.channelSilence _isl) := fun _ _ h => nomatch h
theorem eventLogEntry (_sel : List Nat) : Statement (.eventLogEntry _sel) := fun _ _ h => nomatch h
theorem handlerEnd : Statement .handlerEnd := fun _ _ h => nomatch h
theorem handlerGuardExpiry : Statement .handlerGuardExpiry := fun _ _ h => nomatch h
theorem watchClose (_g : Nat) (_j : Nat) (_inst : Nat) : Statement (.watchClose _g _j _inst) := fun _ _ h => nomatch h
theorem wdgKick (_v : Nat) : Statement (.wdgKick _v) := fun _ _ h => nomatch h
theorem hubWindowClose (_w : Nat) : Statement (.hubWindowClose _w) := fun _ _ h => nomatch h
theorem clockMonitorWindow (_khz : List Nat) : Statement (.clockMonitorWindow _khz) := fun _ _ h => nomatch h
theorem railExcursion (_rail : Nat) (_mv : Nat) : Statement (.railExcursion _rail _mv) := fun _ _ h => nomatch h
theorem powerOnReset (_also : Nat) : Statement (.powerOnReset _also) := fun _ _ h => nomatch h
theorem kystaPowerReset : Statement .kystaPowerReset := fun _ _ h => nomatch h
theorem safetyReset (_lowNs : Nat) (_also : Nat) : Statement (.safetyReset _lowNs _also) := fun _ _ h => nomatch h
theorem resetPin (_lowNs : Nat) (_also : Nat) : Statement (.resetPin _lowNs _also) := fun _ _ h => nomatch h
theorem brownOut (_lowNs : Nat) (_also : Nat) : Statement (.brownOut _lowNs _also) := fun _ _ h => nomatch h
theorem brownOutRelease (_goodNs : Nat) : Statement (.brownOutRelease _goodNs) := fun _ _ h => nomatch h
theorem applicationResetRequest (_src : Nat) (_v : Nat) : Statement (.applicationResetRequest _src _v) := fun _ _ h => nomatch h
theorem dieResetRequest (_src : Nat) (_v : Nat) : Statement (.dieResetRequest _src _v) := fun _ _ h => nomatch h
theorem syswdKick (_v : Nat) : Statement (.syswdKick _v) := fun _ _ h => nomatch h
theorem syswdExpiry (_also : Nat) : Statement (.syswdExpiry _also) := fun _ _ h => nomatch h
theorem lockup (_also : Nat) : Statement (.lockup _also) := fun _ _ h => nomatch h
theorem referenceLost : Statement .referenceLost := fun _ _ h => nomatch h
theorem referenceRestored : Statement .referenceRestored := fun _ _ h => nomatch h
theorem clockFailure (_also : Nat) : Statement (.clockFailure _also) := fun _ _ h => nomatch h
theorem synthUnlock : Statement .synthUnlock := fun _ _ h => nomatch h
theorem diePllUnlock (t : Nat) : Statement (.diePllUnlock t) := fun h =>
  have := of_decide_eq_true h
  one (by omega)
theorem dieHoldEnd (t : Nat) : Statement (.dieHoldEnd t) := fun h =>
  have := of_decide_eq_true h
  one (by omega)
theorem dieReloadDone (t : Nat) (_chans : Nat) (_data : List (List Byte)) (_o : ReloadObs) : Statement (.dieReloadDone t _chans _data _o) := fun h =>
  have := of_decide_eq_true h
  one (by omega)
theorem dieInjectionDone (t : Nat) (_failed : List Nat) : Statement (.dieInjectionDone t _failed) := fun h =>
  have := of_decide_eq_true h
  one (by omega)
theorem rejoinAttemptTimeout (t : Nat) : Statement (.rejoinAttemptTimeout t) := fun h =>
  have := of_decide_eq_true h
  one (by omega)
theorem rejoinRetry (t : Nat) : Statement (.rejoinRetry t) := fun h =>
  have := of_decide_eq_true h
  one (by omega)
theorem domainWakeStart (t : Nat) (_e : Nat) : Statement (.domainWakeStart t _e) := fun h =>
  have := of_decide_eq_true h
  one (by omega)
theorem domainWakeDone (t : Nat) (_d : Nat) : Statement (.domainWakeDone t _d) := fun h =>
  have := of_decide_eq_true h
  one (by omega)
theorem domainWakeFailed (t : Nat) (_d : Nat) : Statement (.domainWakeFailed t _d) := fun h =>
  have := of_decide_eq_true h
  one (by omega)
theorem standbyRequest (_v : Nat) : Statement (.standbyRequest _v) := fun _ _ h => nomatch h
theorem healthUpdate : Statement .healthUpdate := fun _ _ h => nomatch h
theorem canaryMeasure (t : Nat) (_held : Nat) : Statement (.canaryMeasure t _held) := fun h =>
  have := of_decide_eq_true h
  one (by omega)
theorem repairBurn : Statement .repairBurn := fun _ _ h => nomatch h
theorem arrive (_copies : Bool) : Statement (.arrive _copies) := fun _ _ h => nomatch h
theorem release : Statement .release := fun _ _ h => nomatch h
theorem barrierDrop (_step : Nat) (_g : Nat) (_inst : Nat) : Statement (.barrierDrop _step _g _inst) := fun _ _ h => nomatch h
theorem regionSendBlock (_ecc : List Nat) (_copies : Bool) : Statement (.regionSendBlock _ecc _copies) := fun _ _ h => nomatch h
theorem ckptAck : Statement .ckptAck := fun _ _ h => nomatch h
theorem twinReq (_copies : Bool) : Statement (.twinReq _copies) := fun _ _ h => nomatch h
theorem twinData (_ecc : List Nat) (_gen : Bool) (_copies : Bool) : Statement (.twinData _ecc _gen _copies) := fun _ _ h => nomatch h
theorem twinRefusal : Statement .twinRefusal := fun _ _ h => nomatch h
theorem twinTimeout : Statement .twinTimeout := fun _ _ h => nomatch h
theorem joinReady (_copies : Bool) : Statement (.joinReady _copies) := fun _ _ h => nomatch h
theorem joinReadyResponse : Statement .joinReadyResponse := fun _ _ h => nomatch h
theorem withdraw : Statement .withdraw := fun _ _ h => nomatch h
theorem handlerTrap : Statement .handlerTrap := fun _ _ h => nomatch h
theorem islandSramEccError (_corrected : Bool) : Statement (.islandSramEccError _corrected) := fun _ _ h => nomatch h
theorem stewardSramEccError (t : Nat) (_corrected : Bool) : Statement (.stewardSramEccError t _corrected) := fun h =>
  have := of_decide_eq_true h
  one (by omega)
theorem kystaPowerReturn : Statement .kystaPowerReturn := fun _ _ h => nomatch h
theorem powerLoss (_burnt : Nat) : Statement (.powerLoss _burnt) := fun _ _ h => nomatch h
theorem peerDelayRequest : Statement .peerDelayRequest := fun _ _ h => nomatch h

end Sys2Proof.Laws.Dies
end

