-- ==== Sys2Proof/Safety.lean ====
section
/-! DEFINITION. The terms claims are stated in: the canonical form of registers and memories, what a command must keep whatever it
does, and how a change of registers is written down. -/

namespace Sys2Proof.Machine

/-- The registers, the staged values, every memory of the part and the differences of its stored check values are in canonical form. -/
structure State.Canon (s : State) : Prop where
  regs : smWf (regReset s.part) s.regs = true
  staged : smWf (fun _ => {}) s.staged = true
  csr : smWf (fun _ => 0) s.csr = true
  csrErr : smWf (fun _ => 0) s.csrErr = true
  dram : smWf (fun _ => 0) s.dram = true
  dramErr : smWf (fun _ => 0) s.dramErr = true
  shared : smWf (fun _ => 0) s.shared = true
  sharedErr : smWf (fun _ => 0) s.sharedErr = true
  store : smWf (fun _ => 0) s.store = true
  storeErr : smWf (fun _ => 0) s.storeErr = true
  region : smWf (fun _ => none) s.region = true

/-- What is fixed per part stays, the queue of waiting commands stays, and the canonical form stays. -/
structure Keeps (s t : State) : Prop where
  part : t.part = s.part
  pending : t.pending = s.pending
  canon : s.Canon → t.Canon

/-- From `s` to `t`, the listed fields take the listed values, and every bit of every register that lies in none of them is as it was. -/
def Shows (s t : State) (l : List (Fld × Nat)) : Prop :=
  (∀ p ∈ l, t.fget p.1 = p.2) ∧
  ∀ a i, (∀ p ∈ l, p.1.addr = a → ¬ (p.1.lo ≤ i ∧ i ≤ p.1.hi)) → bit (t.rd a).toNat i = bit (s.rd a).toNat i

/-- `t` is `u` with the listed fields at the listed values and the listed events raised: nothing else differs. -/
def Becomes (u t : State) (l : List (Fld × Nat)) (es : List Event) : Prop :=
  Shows u t l ∧ t = { u with regs := t.regs, raised := u.raised ++ es }

/-- Registers whose write has a rule of its own beside its access codes: requests (R161, R186, R312, R455, R476, R477), rings (R253, R307), the
next calibration bank (R313), attestation, debug, keys and OTP (R401, R412, R413, R416), ADM_FB_CTRL, ING_DT_CTRL (R257), the engine map and the failed columns
(R63, R99), and the backup registers of the islands (R491). -/
def ownRule (a : Addr) : Bool :=
  [Reg.PLN_MODE_REQ, Reg.ADM_PREEMPT, Reg.ADM_FB_CTRL, Reg.ING_DT_CTRL, Reg.FUS_CAL_CTRL, Reg.WDG_KICK, Reg.RST_REQ, Reg.RST_SYSWD_KICK, Reg.BOOT_ATT_CTRL,
    Reg.BOOT_ATT_CTRL + 4, Reg.SEC_DBG_CTRL, Reg.SEC_SAK_CTRL, Reg.SEC_OTP_PROG].contains a
  || (wordIn (Reg.SEC_SAK_LOAD 0) 20 a).isSome || (wordIn (Reg.SEC_OTP_DATA 0) 16 a).isSome || (wordIn (Reg.KVW_RING 0) 128 a).isSome
  || (wordIn (Reg.FUS_CAL_NEXT 0 0) 2048 a).isSome
  || (List.range 16).any (fun q => a == Reg.SMPL_FETCH q || a == Reg.SMPL_FETCH q + 4)
  || (match csrPlace a with
      | some (.die _, 0x02, off) => decide (off < 0x10) || (decide (0x1000 ≤ off) && [8, 0xC, 0x10].contains (off % 0x100))
      | some (.kysta, 0x1A, _) => true
      | _ => false)

/-- A counter's value after `n` more occurrences: it saturates at its largest value (R550). -/
def State.counted (s : State) (f : Fld) (n : Nat) : Nat := min (s.fget f + n) (2 ^ (f.hi + 1 - f.lo) - 1)

/-- What a capture changes: nothing while the register is valid, else the whole register (R31, R35). -/
def State.captured (s : State) (a : Addr) (v : Nat) : List (Fld × Nat) :=
  if bit (s.rd a).toNat 63 then [] else [(⟨a, 63, 0⟩, v % 2 ^ 63 + 2 ^ 63)]

/-- From `s` to `t` an access by no task has met an address that does not decode (R29–R31): its event, its count, its capture where the register is
free or holds one of this Device Time by a higher source code, and the messages `out`; nothing else differs. -/
def Undecoded (s t : State) (src0 agent : Nat) (a : Addr) (kind : Nat) (out : List Msg) : Prop :=
  let src := if src0 = 0xD then 8 else src0
  let unit := src < 8 ∧ (agent < 18 ∨ agent = 0x21 ∨ agent = 0x22)
  let held := bit (s.rd Reg.PKG_DECODE_ERR).toNat 63 = true ∧
    ¬ (s.mem.decodeAt = some s.now ∧ src < s.fget Reg.PKG_DECODE_ERR_source)
  t.raised = s.raised ++ [{
    time := s.now, code := if unit then 0x2002 else 0x0001, origin := if src < 8 then src else if src = 9 then 9 else 8,
    unit := if src < 0xA then agent else 0xFF, detail := 0 }] ∧
  t.fget Reg.PKG_DECODE_CNT_count = min (s.fget Reg.PKG_DECODE_CNT_count + 1) (2 ^ 32 - 1) ∧
  (t.rd Reg.PKG_DECODE_ERR).toNat = (if held then (s.rd Reg.PKG_DECODE_ERR).toNat
    else a % 2 ^ 48 + agent / 16 % 16 * 2 ^ 48 + agent % 16 * 2 ^ 52 + src * 2 ^ 56 + kind % 8 * 2 ^ 60 + 2 ^ 63) ∧
  (∀ b, b ≠ Reg.PKG_DECODE_CNT → b ≠ Reg.PKG_DECODE_ERR → t.rd b = s.rd b) ∧
  t.mem = { s.mem with decodeAt := if held then s.mem.decodeAt else some s.now } ∧
  t = { s with regs := t.regs, raised := t.raised, mem := t.mem, out := s.out ++ out }

/-- The event that raising a code now appends to the events raised. -/
def State.event (s : State) (code origin unit detail : Nat) : Event :=
  { time := s.now, code := code, origin := origin, unit := unit, detail := detail }

/-- Every byte of the near memory, of the bulk tier, of the shared stores and of the register windows' memories is as it was, with the difference of
its block's check value. -/
def SameMemory (s t : State) : Prop :=
  t.dram = s.dram ∧ t.dramErr = s.dramErr ∧ t.shared = s.shared ∧ t.sharedErr = s.sharedErr ∧ t.csr = s.csr ∧ t.csrErr = s.csrErr

/-- Every byte of every local store is as it was. -/
def SameStores (s t : State) : Prop :=
  t.store = s.store ∧ t.storeErr = s.storeErr ∧ t.hazy = s.hazy ∧ t.region = s.region

/-- Of the link modules, module `m` alone has changed, to `x`. -/
def OneMod (s t : State) (m : Nat) (x : LinkMod) : Prop := t.lmod m = x ∧ ∀ k, k ≠ m → t.lmod k = s.lmod k

/-- An event that link module `m` raises now. -/
def State.linkEvent (s : State) (code m : Nat) : Event :=
  s.event code (if m < 16 then 8 else (m - 16) / 4) 0xFF (detLink (modReg m).2 (s.faces m))

/-- The state register's field of link module `m`. -/
def modField (m : Nat) : Fld := Reg.LNK_MOD_state (modReg m).1 (modReg m).2

/-- A task of a kind, its outputs not withheld, runs on the unit port of engine `e` of die `n` and has entries left. -/
def State.AtEntry (s : State) (n e kind : Nat) (r : TaskRun) (d : TaskDesc) : Prop :=
  n < 8 ∧ e < 18 ∧ s.unitTask n e kind = some (r, d) ∧ s.run? r.key = some r ∧ r.pos < d.listLen ∧ r.withheld = false

/-- No checker of the unit, of its stores or of the memories it reads finds anything, and no generator differs. -/
def CleanObs (o : UnitObs) : Prop :=
  o.eccFix = 0 ∧ o.eccBad = false ∧ o.copies = false ∧ o.redCopies = false ∧ o.gen = [] ∧ o.flips = [] ∧ ∀ x ∈ o.mem, x = 0

/-- Every block of a local store has its correct check value. -/
def State.Verified (s : State) (n e : Nat) : Prop := ∀ b, s.stErr n e b = 0

/-- Every byte of every local store is as it was, but for the listed ranges of one engine's. -/
def StoresBut (s t : State) (n e : Nat) (l : List (Nat × Nat)) : Prop :=
  ∀ n' e' off, e' < 32 → off < storeSize → (n' = n → e' = e → ∀ x ∈ l, ¬ (x.1 ≤ off ∧ off < x.1 + x.2)) →
    t.stByte n' e' off = s.stByte n' e' off

/-- Every register is as it was, but for the listed ones. -/
def RegsBut (s t : State) (l : List Addr) : Prop := ∀ a, a ∉ l → t.rd a = s.rd a

/-- The task has gone on to its next entry, its outputs still its own. -/
def MovedOn (t : State) (r : TaskRun) : Prop := ∃ r', t.run? r.key = some r' ∧ r'.pos = r.pos + 1 ∧ r'.st = r.st ∧ r'.withheld = false

/-- A request of a type stands at the head of the endpoint's queue, and `s1` is the state with it taken, counted, and its sender heard (R376, R377). -/
def State.Request (s : State) (typ : Nat) (q : OhpIn) (s1 : State) : Prop :=
  s.pow.phase = .running ∧ q.typ = typ ∧ q.flags = 0 ∧ ∃ rest, s.ohp.queue = q :: rest ∧
    s1 = ({ s with ohp := { s.ohp with queue := rest } }.count Reg.OHP_CNT_RX_count 1).hear q

/-- A message is current: its unit is present in the role epoch that it carries (R374, R375). -/
def State.Current (s : State) (q : OhpIn) : Prop := s.unitEpoch q.unit = some q.role

/-- A request repeats none that its sender's last one was (R377). -/
def State.Fresh (s : State) (q : OhpIn) : Prop := ∀ x, s.ohp.senders.find? q.sentBy = some x → x.seq ≠ q.seq

end Sys2Proof.Machine
end

