-- ==== Sys2Proof/Certificates/Slice0/Obligations.lean ====
section
/-! DEFINITION. The statements about the model, for the provers: one definition each, family by family. -/

open Sys2Proof Sys2Proof.Machine

/-- A step takes the command at the front of the queue and carries it out with the queue's rest. -/
def Obligations.StepTakesTheFront : Prop :=
  ∀ (c : Instr) (rest : List Instr) (s : State), step { s with pending := c :: rest } = exec c { s with pending := rest }

/-- On an empty queue a tick passes: Device Time advances by one tick of the clock that runs, and nothing else changes. The model's choice
(log entry 2); the clock in use follows R255 and Table 17.3. -/
def Obligations.EmptyQueueTicks : Prop :=
  ∀ s : State, s.pending = [] → ∃ t, step s = .next t ∧ t = { s with regs := t.regs } ∧
    t.rd Reg.ING_DT_NOW = s.rd Reg.ING_DT_NOW + (if s.pow.phase = .stopped then 0 else if s.pow.synthUp = true then 1
      else if s.fget Reg.CLK_STATUS_ref_ok = 1 then 40 else 0) ∧
    ∀ a, a ≠ Reg.ING_DT_NOW → t.rd a = s.rd a

/-- The registers after reset: the reset column of the tables, spelled out for a few of them. Which part it is, is log entry 1. -/
def Obligations.ResetRegisters : Prop :=
  (∀ a, State.reset.rd a = regReset State.reset.part a) ∧
  State.reset.fget Reg.PKG_ID_family = 0x4F56 ∧ State.reset.fget Reg.PKG_ID_tz_count = State.reset.part.tzCount ∧
  (∀ t < State.reset.part.tzCount, State.reset.dieState t = 1) ∧
  (∀ t < State.reset.part.tzCount, State.reset.fget (Reg.PACE_TARGET_target t) = 2000) ∧
  State.reset.now = 0 ∧ State.reset.pow.phase = .inReset ∧ State.reset.pending = []

/-- The canonical form holds after reset. -/
def Obligations.ResetIsCanonical : Prop := State.reset.Canon

/-- Whatever the command and the state, exec answers a next state that keeps what no command may change. -/
def Obligations.EveryCommandAnswers : Prop := ∀ (c : Instr) (s : State), ∃ t, exec c s = .next t ∧ Keeps s t

/-- The canonical form is an invariant of every step; a step takes the front of the queue and nothing else from it. -/
def Obligations.StepKeepsCanonicalForm : Prop :=
  ∀ s : State, s.Canon → ∃ t, step s = .next t ∧ t.Canon ∧ t.part = s.part ∧ t.pending = s.pending.tail

/-- R9: each field has one access code: in every register of the index no bit is claimed by two of them. -/
def Obligations.OneAccessCode : Prop :=
  ∀ (w : Win) (src : Nat), ∀ d ∈ winRegs w src,
    d.rw &&& d.stg = 0 ∧ d.rw &&& d.lck = 0 ∧ d.rw &&& d.w1c = 0 ∧ d.stg &&& d.lck = 0 ∧ d.stg &&& d.w1c = 0 ∧ d.lck &&& d.w1c = 0 ∧
    d.rw ||| d.stg ||| d.lck ||| d.w1c < 2 ^ (if d.wide = true then 64 else 32)

/-- R406, R408: what a write to a register does, bit by bit, by the access codes of the fields it reaches. -/
def Obligations.RegisterWriteByAccessCode : Prop :=
  ∀ (s : State) (src agent addr v : Nat) (d : RegDef) (key : Addr) (upper : Bool),
    s.target src (addr / 4 * 4) = .reg (addr / 4 * 4) → s.reaches ⟨src, agent⟩ (addr / 4 * 4) = true →
    regAt (addr / 4 * 4) = some (d, key, upper) → ownRule (addr / 4 * 4) = false →
    ∃ t, exec (.registerWrite src agent addr v) s = .next t ∧
      (∀ i < 64, bit (t.rd key).toNat i =
        if i / 32 = b2n upper ∧ (bit d.rw i = true ∨ (s.pow.committed = false ∧ bit d.lck i = true)) then bit v (i % 32)
        else if i / 32 = b2n upper ∧ bit d.w1c i = true then bit (s.rd key).toNat i && !bit v (i % 32)
        else bit (s.rd key).toNat i) ∧
      (∀ i < 64, bit (t.stagedValue key) i =
        if i / 32 = b2n upper ∧ bit d.stg i = true then bit v (i % 32)
        else if bit (smGet {} s.staged key).mask i = true then bit (smGet {} s.staged key).val i else bit (t.rd key).toNat i) ∧
      (∀ b, b ≠ key → smGet {} t.staged b = smGet {} s.staged b) ∧
      (∀ b, b ≠ key → (s.pow.committed = true → d.hitsLck upper = true → b ≠ Reg.BOOT_CNT_LCK ∧ b ≠ Reg.BOOT_LCK_ERR) → t.rd b = s.rd b) ∧
      (if s.pow.committed = true ∧ d.hitsLck upper = true then
        t.raised = s.raised ++ [s.event 0x0545 oHub uNone 0] ∧
        t.fget Reg.BOOT_CNT_LCK_count = s.counted Reg.BOOT_CNT_LCK_count 1 ∧
        (t.rd Reg.BOOT_LCK_ERR).toNat = (if bit (s.rd Reg.BOOT_LCK_ERR).toNat 63 = true then (s.rd Reg.BOOT_LCK_ERR).toNat
          else addr / 4 * 4 % 2 ^ 48 + (if src = 0xD then 8 else src) % 16 * 2 ^ 48 + 2 ^ 63)
       else t.raised = s.raised) ∧
      t = { s with regs := t.regs, staged := t.staged, raised := t.raised }

/-- R35: a capture is cleared by writing 1 to valid; the capture that follows is then not lost. -/
def Obligations.CaptureClearClears : Prop :=
  ∀ (s : State) (src agent addr v : Nat) (d : RegDef),
    s.reaches ⟨src, agent⟩ (addr / 8 * 8 + 4) = true → regAt (addr / 8 * 8) = some (d, addr / 8 * 8, false) →
    regAt (addr / 8 * 8 + 4) = some (d, addr / 8 * 8, true) → ownRule (addr / 8 * 8 + 4) = false →
    d.w1c = 2 ^ 63 → d.rw = 0 → d.stg = 0 → d.lck = 0 →
    ∃ t, exec (.captureClear src agent addr) s = .next t ∧
      Becomes s t [(⟨addr / 8 * 8, 63, 63⟩, 0)] [] ∧
      ((t.capture (addr / 8 * 8) v).rd (addr / 8 * 8)).toNat = v % 2 ^ 63 + 2 ^ 63

/-- R29–R31: what an access that does not decode does. -/
def Obligations.UndecodableAccess : Prop :=
  (∀ (s : State) (src agent addr v kind : Nat), src < 16 → src ≠ 10 → s.target src (addr / 4 * 4) = .undecodable kind →
    ∃ t, exec (.registerWrite src agent addr v) s = .next t ∧
      Undecoded s t src agent (addr / 4 * 4) kind [.done src agent (addr / 4 * 4) [] 0 (kind + 1)]) ∧
  (∀ (s : State) (agent addr v : Nat), exec (.registerWrite 10 agent addr v) s = .next s) ∧
  (∀ (s : State) (src agent addr n kind : Nat), src ≤ 13 → src ≠ 10 → (src = 13 → s.fget Reg.SEC_STATUS_debug_level ≠ 0) →
    0 < n → addr % 256 + n ≤ 256 → s.target src addr = .undecodable kind →
    ∃ t, exec (.packageAccess src agent addr n none none none 0 0) s = .next t ∧
      Undecoded s t src agent addr kind [.done src agent addr (List.replicate n 0) 0 (kind + 1)]) ∧
  (∀ (s : State) (src agent addr kind : Nat) (data : List Byte), src ≤ 13 → src ≠ 10 →
    (src = 13 → s.fget Reg.SEC_STATUS_debug_level ≠ 0) → data ≠ [] → addr % 256 + data.length ≤ 256 → s.target src addr = .undecodable kind →
    ∃ t, exec (.packageAccess src agent addr 0 (some data) none none 0 0) s = .next t ∧
      Undecoded s t src agent addr kind [.done src agent addr [] 0 (kind + 1)])

/-- R218, R221, R223: a request of a hub requester passes its system port in its time and waits at its channel of the bulk tier. -/
def Obligations.AccessWaitsAtItsChannel : Prop :=
  (∀ (s : State) (src agent addr len off key p share chk ecc : Nat) (data : Option (List Byte)) (comb : Option (Nat × Nat)),
    let n := match data with | some d => d.length | none => len
    8 ≤ src → src ≤ 13 → src ≠ 10 → (src = 13 → s.fget Reg.SEC_STATUS_debug_level ≠ 0) → 0 < n → addr % 256 + n ≤ 256 →
    s.target src addr = .bulk off → s.sysPort src agent (.bulk off) = some (key, p, share) →
    ∃ t, exec (.packageAccess src agent addr len data none comb chk ecc) s = .next t ∧
      let q : MemReq := { src := src, agent := agent, addr := addr, len := n, write := data.isSome, data := data.getD [], comb := comb,
                          chk := chk, sys := p, ready := s.now }
      let due := smGet 0 s.mem.sysFrom key + ceilDiv (smGet 0 s.mem.sysCnt key * 4000) (max 1 share)
      let paced : MemState := if due < s.now then
          { s.mem with sysFrom := smPut 0 s.mem.sysFrom key s.now, sysCnt := smPut 0 s.mem.sysCnt key 1 }
        else { s.mem with sysCnt := smPut 0 s.mem.sysCnt key (smGet 0 s.mem.sysCnt key + 1) }
      let waits (m : MemState) : MemState := { m with waiting := m.waiting ++ [{ q with issue := s.now, home := 8, arr := s.now }] }
      t = { s with mem := if s.pow.committed = false then waits s.mem
        else if s.heldOf none 4 key = [] ∧ share ≠ 0 ∧ due ≤ s.now then waits paced else { s.mem with held := s.mem.held ++ [q] } }) ∧
  (∀ (s : State) (i : Nat) (q : MemReq) (off key p share : Nat), s.mem.held[i]? = some q → q.run = none → q.link = none → 8 ≤ q.src →
    s.target q.src q.addr = .bulk off → s.sysPort q.src q.agent (.bulk off) = some (key, p, share) →
    let due := smGet 0 s.mem.sysFrom key + ceilDiv (smGet 0 s.mem.sysCnt key * 4000) (max 1 share)
    let first := ({ s with mem := { s.mem with held := s.mem.held.take i } } : State).heldOf none 4 key = []
    let m : MemState := { s.mem with held := s.mem.held.take i ++ s.mem.held.drop (i + 1),
                                     waiting := s.mem.waiting ++ [{ q with issue := s.now, home := 8, arr := s.now }] }
    (first → share ≠ 0 → due ≤ s.now → ∃ t, exec (.heldBlockIssue i) s = .next t ∧
      t = { s with mem := if due < s.now then { m with sysFrom := smPut 0 s.mem.sysFrom key s.now, sysCnt := smPut 0 s.mem.sysCnt key 1 }
        else { m with sysCnt := smPut 0 s.mem.sysCnt key (smGet 0 s.mem.sysCnt key + 1) } }) ∧
    (¬ first ∨ share = 0 ∨ s.now < due → exec (.heldBlockIssue i) s = .next s))

/-- R211, R212, R214, R554: what a channel does with a write, a combine and a read of one block, and which of two it serves. -/
def Obligations.ChannelServesBlock : Prop :=
  (∀ (s : State) (q : MemReq) (die c k ecc : Nat) (miss : Bool), s.mem.waiting = [q] → q.home = die → s.placeOf q = some (.dram die c k) →
    q.link = none → q.src ≠ 10 → ecc < 4 →
    let w := memWin die
    let at_ := dramKey die c k * 256 + q.addr % 256
    let one (f : Fld) (b : Bool) : List (Fld × Nat) := if b = true then [(f, s.counted f 1)] else []
    let missed := one (Reg.MEM_CH_CNT_MISS_count w c) miss
    let eccs := one (Reg.MEM_CH_CNT_LECC_count w c) (ecc == 1)
    let fixed := if ecc = 1 then [s.event 0x1201 die uNone (detChan c (die == 8))] else []
    let done (bs : List Byte) (chk err : Nat) : Msg := .done q.src q.agent q.addr bs chk err
    let u : State := { s with mem := { s.mem with waiting := [] } }
    let fails (kind : Nat) (bs : List Byte) (t : State) : Prop := ∃ v,
      Becomes u v (missed ++ s.captured (Reg.MEM_ERR w) (q.addr % 2 ^ 48 + c % 8 * 2 ^ 48 + kind * 2 ^ 51))
        [s.event (if kind = 0 then 0x2202 else 0x2203) die uNone (detChan c (die == 8))] ∧
      t = { v.withhold? q.run with out := (v.withhold? q.run).out ++ [done bs 0 6] }
    (q.comb = none → q.write = true → q.addr % 256 + q.data.length ≤ 256 →
      ¬ (s.chanFailed die c = true ∨ (q.data.length ≠ 256 ∧ ecc = 3)) →
      ∃ t, exec (.channelServe die c ecc miss) s = .next t ∧
        smGetBytes t.dram at_ q.data.length = q.data ∧
        (∀ b, b < at_ ∨ at_ + q.data.length ≤ b → smGet 0 t.dram b = smGet 0 s.dram b) ∧
        (∀ b, smGet 0 t.dramErr b = if b = dramKey die c k ∧ q.data.length = 256 then q.chk else smGet 0 s.dramErr b) ∧
        Shows s t (missed ++ one (Reg.MEM_CH_CNT_WR_blocks w c) true ++ one (Reg.MEM_CH_CNT_RD_blocks w c) (q.data.length != 256) ++ eccs) ∧
        t = { u with regs := t.regs, dram := t.dram, dramErr := t.dramErr, raised := s.raised ++ fixed, out := s.out ++ [done [] 0 0] }) ∧
    (∀ x, q.comb = some x → q.data.length % 4 = 0 → q.addr % 256 + q.data.length ≤ 256 → ¬ (s.chanFailed die c = true ∨ ecc = 3) →
      ∃ t, exec (.channelServe die c ecc miss) s = .next t ∧
        smGetBytes t.dram at_ q.data.length = combineBytes s.free x q.data (smGetBytes s.dram at_ q.data.length) ∧
        (∀ b, b < at_ ∨ at_ + q.data.length ≤ b → smGet 0 t.dram b = smGet 0 s.dram b) ∧
        Shows s t (missed ++ one (Reg.MEM_CH_CNT_WR_blocks w c) true ++ one (Reg.MEM_CH_CNT_RD_blocks w c) true ++ eccs) ∧
        t = { u with regs := t.regs, dram := t.dram, raised := s.raised ++ fixed, free := s.free + 1, out := s.out ++ [done [] 0 0] }) ∧
    (q.comb = none → q.write = false → ¬ (s.chanFailed die c = true ∨ ecc = 3) →
      ∃ t, exec (.channelServe die c ecc miss) s = .next t ∧
        Shows s t (missed ++ one (Reg.MEM_CH_CNT_RD_blocks w c) true ++ eccs) ∧
        t = { u with regs := t.regs, raised := s.raised ++ fixed,
                     out := s.out ++ [done (sliceB (smGetBytes s.dram (dramKey die c k * 256) 256) (q.addr % 256) q.len)
                       (smGet 0 s.dramErr (dramKey die c k)) 0] }) ∧
    (q.comb = none → q.write = true → s.chanFailed die c = true ∨ (q.data.length ≠ 256 ∧ ecc = 3) →
      ∃ t, exec (.channelServe die c ecc miss) s = .next t ∧ fails 1 [] t) ∧
    (q.comb = none → q.write = false → s.chanFailed die c = true ∨ ecc = 3 →
      ∃ t, exec (.channelServe die c ecc miss) s = .next t ∧ fails 0 (List.replicate q.len 0) t)) ∧
  (∀ (s : State) (a b : MemReq) (die c k l : Nat) (miss : Bool), s.mem.waiting = [a, b] → a.home = die → b.home = die →
    s.placeOf a = some (.dram die c k) → s.placeOf b = some (.dram die c l) → (∀ q ∈ [a, b], q.link = none ∧ q.src ≠ 10) →
    let same (x y : MemReq) : Prop := x.addr / 256 = y.addr / 256 ∧ x.arr = y.arr ∧ sameCycle x y = true
    ¬ (same a b ∧ same b a) →
    ∃ t, exec (.channelServe die c 0 miss) s = .next t ∧
      t.mem.waiting = if same b a ∨ (¬ same a b ∧ serveBefore b a = true) then [a] else [b])

/-- R200, R201: a shared-store slice serves one 64-byte access per beat and carries the request out with the last. -/
def Obligations.SliceServesByBeats : Prop :=
  ∀ (s : State) (q : MemReq) (v sl k ecc : Nat), s.mem.waiting = [q] → q.home = v → s.placeOf q = some (.shared v sl k) →
    q.link = none → q.src ≠ 10 → q.ecc < 4 → ecc < 4 →
    let e := max q.ecc ecc
    let at_ := k * 256 + q.addr % 256
    let fixed := if e = 1 then [s.event 0x1206 v uNone 0] else []
    let eccs := if e = 1 then [(Reg.MEM_SS_CNT_ECC_count v, s.counted (Reg.MEM_SS_CNT_ECC_count v) 1)] else []
    let done (bs : List Byte) (chk err : Nat) : Msg := .done q.src q.agent q.addr bs chk err
    let u : State := { s with mem := { s.mem with waiting := [] } }
    let fails (bs : List Byte) (t : State) : Prop := ∃ x,
      Becomes u x (s.captured (Reg.MEM_ERR (.die v)) (q.addr % 2 ^ 48 + 3 * 2 ^ 51)) [s.event 0x2207 v uNone 0] ∧
      t = { x.withhold? q.run with out := (x.withhold? q.run).out ++ [done bs 0 6] }
    (q.beat + 1 < q.beats → ∃ t, exec (.sliceServe v sl ecc) s = .next t ∧
      t = { s with mem := { s.mem with waiting := [{ q with beat := q.beat + 1, ecc := e }] } }) ∧
    (q.beats ≤ q.beat + 1 → q.comb = none → q.write = true → q.addr % 256 + q.data.length ≤ 256 → ¬ (q.data.length ≠ 256 ∧ e = 3) →
      ∃ t, exec (.sliceServe v sl ecc) s = .next t ∧
      smGetBytes t.shared at_ q.data.length = q.data ∧
      (∀ b, b < at_ ∨ at_ + q.data.length ≤ b → smGet 0 t.shared b = smGet 0 s.shared b) ∧
      (∀ b, smGet 0 t.sharedErr b = if b = k ∧ q.data.length = 256 then q.chk else smGet 0 s.sharedErr b) ∧
      Shows s t eccs ∧
      t = { u with regs := t.regs, shared := t.shared, sharedErr := t.sharedErr, raised := s.raised ++ fixed, out := s.out ++ [done [] 0 0] }) ∧
    (∀ x, q.beats ≤ q.beat + 1 → q.comb = some x → q.data.length % 4 = 0 → q.addr % 256 + q.data.length ≤ 256 → e ≠ 3 →
      ∃ t, exec (.sliceServe v sl ecc) s = .next t ∧
      smGetBytes t.shared at_ q.data.length = combineBytes s.free x q.data (smGetBytes s.shared at_ q.data.length) ∧
      (∀ b, b < at_ ∨ at_ + q.data.length ≤ b → smGet 0 t.shared b = smGet 0 s.shared b) ∧
      Shows s t eccs ∧
      t = { u with regs := t.regs, shared := t.shared, raised := s.raised ++ fixed, free := s.free + 1, out := s.out ++ [done [] 0 0] }) ∧
    (q.beats ≤ q.beat + 1 → q.comb = none → q.write = false → e ≠ 3 → ∃ t, exec (.sliceServe v sl ecc) s = .next t ∧ Shows s t eccs ∧
      t = { u with regs := t.regs, raised := s.raised ++ fixed,
                   out := s.out ++ [done (sliceB (smGetBytes s.shared (k * 256) 256) (q.addr % 256) q.len) (smGet 0 s.sharedErr k) 0] }) ∧
    (q.beats ≤ q.beat + 1 → q.comb = none → q.write = true → q.data.length ≠ 256 → e = 3 →
      ∃ t, exec (.sliceServe v sl ecc) s = .next t ∧ fails [] t) ∧
    (q.beats ≤ q.beat + 1 → q.comb = none → q.write = false → e = 3 →
      ∃ t, exec (.sliceServe v sl ecc) s = .next t ∧ fails (List.replicate q.len 0) t)

/-- R202, R209, R213, R215: the upkeep of a channel. -/
def Obligations.MemoryUpkeep : Prop :=
  (∀ (s : State) (die c : Nat), s.chanUp die c = true → ∃ t, exec (.refresh die c) s = .next t ∧
    t = { s with mem := { s.mem with refreshAt := smPut 0 s.mem.refreshAt (chanKey die c) s.now } }) ∧
  (∀ (s : State) (die c ecc : Nat), s.chanUp die c = true → s.flag (Reg.MEM_CTRL_scrub_en (memWin die)) = true → s.scrubDue die c ≤ s.now →
    ecc < 4 →
    let w := memWin die
    let g := smGet 0 s.mem.scrub (chanKey die c)
    let bad := smGet 0 s.dramErr (dramKey die c (chanBlock (s.key (if die = 8 then 16 else die)) g))
    let ev (code : Nat) : Event := s.event code die uNone (detChan c (die == 8))
    ∃ t a, exec (.patrolScrub die c ecc) s = .next t ∧ (∀ x, s.chanAddr die c g = some x → a = x) ∧
      Becomes { s with
          free := s.free + 1
          mem := { s.mem with
            scrub := smPut 0 s.mem.scrub (chanKey die c) ((g + 1) % max 1 (s.part.dataBlocks die))
            scrubFrom := if g = 0 then smPut none s.mem.scrubFrom (chanKey die c) (some s.now) else s.mem.scrubFrom } } t
        (if ecc = 3 then s.captured (Reg.MEM_ERR w) (a % 2 ^ 48 + c % 8 * 2 ^ 48)
         else (Reg.MEM_CH_CNT_RD_blocks w c, s.counted (Reg.MEM_CH_CNT_RD_blocks w c) 1) ::
           (if ecc = 1 then [(Reg.MEM_CH_CNT_LECC_count w c, s.counted (Reg.MEM_CH_CNT_LECC_count w c) 1)] else []) ++
           (if bad = 0 then [] else s.captured (Reg.MEM_ERR w) (a % 2 ^ 48 + c % 8 * 2 ^ 48 + 2 * 2 ^ 51)))
        (if ecc = 3 then [ev 0x2202] else (if ecc = 1 then [ev 0x1201] else []) ++ (if bad = 0 then [] else [ev 0x0204]))) ∧
  (∀ (s : State) (die c : Nat), s.chanUp die c = true → smGet 0 s.mem.winFrom (chanKey die c) + 10 ^ 9 ≤ s.now →
    let w := memWin die
    let acc := s.fget (Reg.MEM_CH_CNT_RD_blocks w c) + s.fget (Reg.MEM_CH_CNT_WR_blocks w c)
    let miss := s.fget (Reg.MEM_CH_CNT_MISS_count w c)
    let last := smGet 0 s.mem.missAt (chanKey die c)
    let told := min 1000 (s.fget (Reg.MEM_CTRL_miss_warn w)) * (acc - smGet 0 s.mem.winAcc (chanKey die c)) <
      1000 * (miss - smGet 0 s.mem.winMiss (chanKey die c)) ∧ (last = 0 ∨ last + 3600 * 10 ^ 9 ≤ s.now)
    ∃ t, exec (.rowMissWindow die c) s = .next t ∧
      t = { s with raised := s.raised ++ (if told then [s.event 0x0205 die uNone (detChan c (die == 8))] else [])
                   mem := { s.mem with
                     winFrom := smPut 0 s.mem.winFrom (chanKey die c) s.now, winAcc := smPut 0 s.mem.winAcc (chanKey die c) acc
                     winMiss := smPut 0 s.mem.winMiss (chanKey die c) miss
                     missAt := if told then smPut 0 s.mem.missAt (chanKey die c) s.now else s.mem.missAt } }) ∧
  (∀ (s : State) (die c : Nat) (steps : Int) (ok : Bool), s.chanUp die c = true → smGet 0 s.mem.wckAt (chanKey die c) + 10 ^ 8 ≤ s.now →
    let w := memWin die
    let fails := smGet 0 s.mem.retrainFail (chanKey die c)
    let u : State := { s with mem := { s.mem with
      wckAt := smPut 0 s.mem.wckAt (chanKey die c) s.now
      wckDelay := smPut 0 s.mem.wckDelay (chanKey die c) (smGet 0 s.mem.wckDelay (chanKey die c) + if ok = true then steps else 0)
      retrainFail := smPut 0 s.mem.retrainFail (chanKey die c) (if ok = true then 0 else fails + 1) } }
    ∃ t, exec (.wck2dqCheck die c steps ok) s = .next t ∧
      if ok = false ∧ 1 ≤ fails then
        Becomes u t [(Reg.MEM_STATUS_ch_failed w, setBit (s.fget (Reg.MEM_STATUS_ch_failed w)) c true),
            (Reg.MEM_STATUS_ch_trained w, setBit (s.fget (Reg.MEM_STATUS_ch_trained w)) c false)]
          [s.event (if die = 8 then 0x4209 else 0x3208) die uNone (detChan c (die == 8))] ∧
        t.chanFailed die c = true ∧ t.chanUp die c = false
      else t = u) ∧
  (∀ (s : State) (die c mult : Nat), s.chanUp die c = true → smGet 0 s.mem.mr4At (chanKey die c) + 16000000 ≤ s.now →
    ∃ t, exec (.mr4Poll die c mult) s = .next t ∧
      Becomes { s with mem := { s.mem with mr4At := smPut 0 s.mem.mr4At (chanKey die c) s.now } } t
        [(Reg.MEM_CH_EYE_refresh_mult (memWin die) c, mult % 16)] []) ∧
  (∀ (s : State) (die c rd wr : Nat), s.chanUp die c = true →
    (∀ a, smGet none s.mem.eyeAt (chanKey die c) = some a → a + 3600 * 10 ^ 9 ≤ s.now) →
    ∃ t, exec (.eyeMeasurement die c rd wr) s = .next t ∧
      Becomes { s with mem := { s.mem with eyeAt := smPut none s.mem.eyeAt (chanKey die c) (some s.now) } } t
        [(Reg.MEM_CH_EYE_wr_margin (memWin die) c, min 255 wr), (Reg.MEM_CH_EYE_rd_margin (memWin die) c, min 255 rd)] []) ∧
  (∀ (s : State) (die c n m : Nat) (steps : Int) (ok : Bool) (x : Instr) (at_ : Nat),
    (x, at_) ∈ [(Instr.refresh die c, 0), (Instr.patrolScrub die c n, s.scrubDue die c), (Instr.rowMissWindow die c,
      smGet 0 s.mem.winFrom (chanKey die c) + 10 ^ 9),
      (Instr.wck2dqCheck die c steps ok, smGet 0 s.mem.wckAt (chanKey die c) + 10 ^ 8), (Instr.mr4Poll die c n, smGet 0 s.mem.mr4At (chanKey die c) + 16000000),
      (Instr.eyeMeasurement die c n m, ((smGet none s.mem.eyeAt (chanKey die c)).map (· + 3600 * 10 ^ 9)).getD 0)] →
    s.chanUp die c = false ∨ s.now < at_ → exec x s = .next s)

/-- R43–R46, R51: one sample of every ON domain of a die, none of them bad in the sense of R44, and a sentinel that becomes faulty. -/
def Obligations.PaceSampleFilters : Prop :=
  (∀ (s : State) (n : Nat) (obs : List PaceObs), s.loopRuns n = true →
     (∀ d < 22, s.dom n d = 2 → (obs[d]?).all (fun o => !(paceConds o (s.paceOf n d o)).contains true && decide (o.slack < 64)) = true) →
     ∃ t, exec (.paceSample n obs) s = .next t ∧ SameMemory s t ∧ SameStores s t ∧
       (∀ d o, d < 22 → s.dom n d = 2 → obs[d]? = some o →
         let hist := (s.paceOf n d o :: (s.paceDomAt n d).hist).take 16
         let f := meanPace hist
         t.fget (Reg.PACE_DOM_pace n d) = min f 4095 ∧ t.fget (Reg.PACE_DOM_slack n d) = o.slack ∧
         t.fget (Reg.PACE_DOM_limiter n d) = b2n o.held ∧ (t.paceDomAt n d).hist = hist ∧
         t.fget (Reg.PACE_DOM_ldo n d) = if s.dieState n = 2 then s.fget (Reg.PACE_DOM_ldo n d) else
           (fastLayer (s.paceTarget n) f (s.paceDie n).rail (s.fget (Reg.PACE_DOM_ldo n d))
             (s.flag (Reg.PACE_DOM_sentinel_fault n d))).1 % 1024) ∧
       (∀ d < 22, s.dom n d ≠ 2 → t.rd (Reg.PACE_DOM n d) = s.rd (Reg.PACE_DOM n d)) ∧
       (let low := (s.onDoms n).any fun d => !s.flag (Reg.PACE_DOM_sentinel_fault n d) && decide (t.fget (Reg.PACE_DOM_pace n d) ≤ 1680)
        t.flag (Reg.PACE_STATUS_alarm n) = (s.flag (Reg.PACE_STATUS_alarm n) || low) ∧
        t.fget (Reg.PACE_CNT_ALARM_count n) =
          s.counted (Reg.PACE_CNT_ALARM_count n) (b2n (low && !s.flag (Reg.PACE_STATUS_alarm n))) ∧
        (s.event 0x0041 n uNone 0 ∈ t.raised ↔ s.event 0x0041 n uNone 0 ∈ s.raised ∨ (low && !s.flag (Reg.PACE_STATUS_alarm n)) = true))) ∧
  (∀ (s : State) (n d k m : Nat) (obs : List PaceObs) (o : PaceObs), s.loopRuns n = true → s.onDoms n = [d] → obs[d]? = some o →
     (paceConds o (s.paceOf n d o))[k]? = some true → (s.paceDomAt n d).bad[k]? = some m → 3 ≤ m →
     s.flag (Reg.PACE_DOM_sentinel_fault n d) = false →
     ∃ t, exec (.paceSample n obs) s = .next t ∧ t.flag (Reg.PACE_DOM_sentinel_fault n d) = true ∧
       (if d < 18 then s.event 0x2046 n d d else s.event 0x3047 n uNone d) ∈ t.raised) ∧
  (∀ (s : State) (n : Nat) (obs : List PaceObs), s.loopRuns n = false → exec (.paceSample n obs) s = .next s)

/-- R47–R52: the end of the pace alarm and the transactions of the rail. -/
def Obligations.VoltageLoop : Prop :=
  (∀ (s : State) (n since : Nat), s.hasDie n = true → s.flag (Reg.PACE_STATUS_alarm n) = true → (s.paceDie n).okSince = some since →
    since + 100000000 ≤ s.now → ∃ t u, exec (.paceAlarmClear n) s = .next t ∧
      Becomes s u [(Reg.PACE_STATUS_alarm n, 0)] [s.event 0x0042 n uNone 0] ∧ t = u.showAlarm ∧
      t.flag (Reg.PACE_STATUS_alarm n) = false ∧ t.raised = s.raised ++ [s.event 0x0042 n uNone 0] ∧
      t.fget Reg.PACE_ALARM_SUM_alarm = b2n (t.fget Reg.PACE_ALARM_SUM_alarm_die != 0)) ∧
  (∀ (s : State) (n : Nat), s.loopRuns n = true → (s.paceDie n).avs = none → (s.paceDie n).raising = false →
    (∀ v, s.railDue n = some v → v < 1024 → ∃ t, exec (.slowLayerUpdate n) s = .next t ∧
      let p : PaceDie := { s.paceDie n with avs := some { volt := some v }, raising := decide ((s.paceDie n).rail < v) }
      Becomes (s.setPaceDie n p) t [(Reg.PACE_RAIL_rail_cmd n, v)] []) ∧
    (s.railDue n = none → ∃ t, exec (.slowLayerUpdate n) s = .next t ∧
      t = if s.flag (Reg.PACE_RAIL_avs_fault n) = true then s.setPaceDie n { s.paceDie n with avs := some { volt := none } } else s)) ∧
  (∀ (s : State) (n v rb k : Nat), (s.paceDie n).avs = some { volt := some v, retries := k } → v ≤ rb + 25 → rb ≤ v + 25 → rb < 1024 →
    ∃ t, exec (.avsTransactionDone n true rb) s = .next t ∧
      let p : PaceDie := if (s.paceDie n).raising = true then { s.paceDie n with avs := none, acked := v }
        else { s.paceDie n with avs := none, acked := v, rail := v, lowSince := none }
      Becomes (s.setPaceDie n p) t [(Reg.PACE_RAIL_rail_read n, rb), (Reg.PACE_RAIL_avs_fault n, 0)] []) ∧
  (∀ (s : State) (n rb k : Nat), (s.paceDie n).avs = some { volt := none, retries := k } →
    ∃ t, exec (.avsTransactionDone n true rb) s = .next t ∧
      Becomes (s.setPaceDie n { s.paceDie n with avs := none }) t [(Reg.PACE_RAIL_avs_fault n, 0)] []) ∧
  (∀ (s : State) (n rb : Nat) (ok : Bool) (a : AvsTrans), (s.paceDie n).avs = some a → rb < 1024 →
    ok = false ∨ (∃ v, a.volt = some v ∧ ¬ (v ≤ rb + 25 ∧ rb ≤ v + 25)) →
    let fault := s.flag (Reg.PACE_RAIL_avs_fault n)
    let read : List (Fld × Nat) := if ok = true then [(Reg.PACE_RAIL_rail_read n, rb)] else []
    (a.retries < 3 →
      let say := limitSecond fault (s.paceDie n).lastRetry s.now
      ∃ t, exec (.avsTransactionDone n ok rb) s = .next t ∧
        let p : PaceDie := { s.paceDie n with avs := some { a with retries := a.retries + 1 },
                                              lastRetry := if say = true then some s.now else (s.paceDie n).lastRetry }
        Becomes (s.setPaceDie n p) t (read ++ [(Reg.PACE_CNT_AVS_RETRY_count n, s.counted (Reg.PACE_CNT_AVS_RETRY_count n) 1)])
          (if say = true then [s.event 0x1044 n uNone 0] else [])) ∧
    (3 ≤ a.retries → (s.paceDie n).acked < 1024 →
      let say := limitSecond fault (s.paceDie n).lastFail s.now
      ∃ t, exec (.avsTransactionDone n ok rb) s = .next t ∧
        let p : PaceDie := { s.paceDie n with avs := none, raising := false,
                                              lastFail := if say = true then some s.now else (s.paceDie n).lastFail }
        Becomes (s.setPaceDie n p) t (read ++ [(Reg.PACE_RAIL_rail_cmd n, (s.paceDie n).acked), (Reg.PACE_RAIL_avs_fault n, 1)])
          (if say = true then [s.event 0x1048 n uNone 0] else []))) ∧
  (∀ (s : State) (n : Nat), s.hasDie n = true → (s.paceDie n).raising = true → (s.paceDie n).avs = none →
    ∃ t, exec (.railRaiseDone n) s = .next t ∧ t = s.setPaceDie n { s.paceDie n with raising := false, rail := (s.paceDie n).acked }) ∧
  (∀ (s : State) (n rb : Nat) (ok : Bool),
    (s.loopRuns n = false ∨ (s.paceDie n).avs ≠ none ∨ (s.paceDie n).raising = true → exec (.slowLayerUpdate n) s = .next s) ∧
    (s.flag (Reg.PACE_STATUS_alarm n) = false ∨ (s.paceDie n).okSince = none → exec (.paceAlarmClear n) s = .next s) ∧
    ((s.paceDie n).avs = none → exec (.avsTransactionDone n ok rb) s = .next s) ∧
    ((s.paceDie n).raising = false ∨ (s.paceDie n).avs ≠ none → exec (.railRaiseDone n) s = .next s))

/-- R63, R494, R99: the two staged writes that put an engine or a column into or out of use. -/
def Obligations.EngineMapAndColumns : Prop :=
  (∀ (s : State) (n half v : Nat) (upper : Bool), n < 8 → half < 2 → s.dieUp n = true →
    ∃ t, exec (.engLmapWrite n half upper v) s = .next t ∧
      (∀ i < 16, t.stagedPhys n i = if i / 4 = 2 * half + b2n upper then bits v (8 * (i % 4) + 4) (8 * (i % 4)) else s.stagedPhys n i) ∧
      (∀ i < 16, t.physOf n i = s.physOf n i) ∧ smGet 0 t.chk.lmapAt n = s.now ∧
      (∀ e < 18, s.isSpare n e = true → t.named n e = true → t.dom n e = 2 ∨ t.dom n e = 3)) ∧
  (∀ (s : State) (n e word v : Nat), n < 8 → e < 18 → word < 3 → s.dieUp n = true →
    ∃ t, exec (.engColFailWrite n e word v) s = .next t ∧ t = { s with staged := t.staged } ∧
      (∀ c < 68, bit (t.stagedCols n e) c = if c / 32 = word then bit v (c % 32) || bit (s.cols n e) c else bit (s.stagedCols n e) c))

/-- R172, R183, R426–R429, R146, R558: beacons in their slots, a golden set that has run, an entry list that has been copied. -/
def Obligations.BeaconsTestsAndLists : Prop :=
  (∀ (s : State) (n i e : Nat), n < 8 → i < 16 → s.physOf n i = e → e < 18 → s.dieUp n = true → s.releases = true →
    s.planRec.isSome = true → s.engState n e ≠ 4 → s.engState n e ≠ 5 → s.slotAt i ≤ s.now → s.now < s.slotAt i + 32000 →
    engKey n e ∉ s.chk.beacon → s.unitRun? n e = none → s.moveRun? n e = none →
    (s.dom n e = 2 → ∃ t, exec (.beaconSlotStart n i) s = .next t ∧ t.chk = { s.chk with beacon := withOnce (engKey n e) s.chk.beacon } ∧
      (∀ off < beaconBase, t.stByte n e off = s.stByte n e off) ∧ SameMemory s t ∧ t.regs = s.regs ∧ t.raised = s.raised ∧
      t.runs = s.runs ∧ t.store = s.store) ∧
    (s.dom n e ≠ 2 → engKey n e ∉ s.pow.lateSeen → ∃ t, exec (.beaconSlotStart n i) s = .next t ∧
      Becomes { s with pow := { s.pow with lateSeen := engKey n e :: s.pow.lateSeen } } t
        [(Reg.PWR_CNT_LATE_count n, s.counted (Reg.PWR_CNT_LATE_count n) 1)] [s.event 0x1702 n e e])) ∧
  (∀ (s : State) (n i e : Nat) (r : TaskRun), n < 8 → i < 16 → s.physOf n i = e → e < 18 → s.dieUp n = true → s.releases = true →
    s.planRec.isSome = true → s.engState n e ≠ 4 → s.engState n e ≠ 5 → s.slotAt i ≤ s.now → s.now < s.slotAt i + 32000 →
    engKey n e ∉ s.chk.beacon → s.unitRun? n e = some r →
    ∃ t, exec (.beaconSlotStart n i) s = .next t ∧ s.event 0x21C6 n e r.detail ∈ t.raised ∧
      ∃ r', t.run? r.key = some r' ∧ r'.st = .aborted ∧ r'.withheld = true) ∧
  (∀ (s : State) (n e : Nat) (passed : Bool), n < 8 → e < 18 → engKey n e ∈ s.chk.beacon →
    ∃ t u, exec (.beaconDone n e passed) s = .next t ∧
      Becomes { s with chk := { s.chk with beacon := without (engKey n e) s.chk.beacon } } u
        [(Reg.CHK_ENG_last_pass n e, b2n passed), (Reg.CHK_ENG_last_set n e, s.fget Reg.PLN_PERIOD_CNT_count % 16)] [] ∧
      let x := u.settleCharge n passed
      let w : State := if s.auditEng? n = some e then { x with chk := { x.chk with selfPend := without n x.chk.selfPend } } else u
      t = if passed = true then (w.count (Reg.CHK_CNT_BEACON_count n) 1).regate n e else w.beaconFail n e) ∧
  (∀ (s : State) (n i e : Nat), n < 8 → i < 16 → s.physOf n i = e → e < 18 → engKey n e ∈ s.chk.beacon → s.slotAt i + 32000 ≤ s.now →
    ∃ t u, exec (.beaconSlotEnd n i) s = .next t ∧
      Becomes { s with chk := { s.chk with beacon := without (engKey n e) s.chk.beacon, lateNow := withOnce (engKey n e) s.chk.lateNow } } u
        [(Reg.CHK_CNT_BEACON_LATE_count n, s.counted (Reg.CHK_CNT_BEACON_LATE_count n) 1)] [s.event 0x05C7 n e 0] ∧
      t = if engKey n e ∈ s.chk.lateLast then u.beaconFail n e else u.regate n e) ∧
  (∀ (s : State) (n e : Nat) (r : TaskRun) (d : TaskDesc), n < 8 → e < 18 → s.unitRun? n e = some r → s.desc? r.graph r.task = some d →
    d.kind = 9 → r.pos < d.listLen →
    (∃ t, exec (.testRun n e true) s = .next t ∧ t = s.setRun { r with pos := r.pos + 1 }) ∧
    (∃ t, exec (.testRun n e false) s = .next t ∧ s.event 0x25C5 n e r.detail ∈ t.raised ∧
      ∃ r', t.run? r.key = some r' ∧ r'.withheld = true ∧ r'.pos = r.pos + 1)) ∧
  (∀ (s : State) (n e i off : Nat) (bs : List Byte), n < 8 → e < 18 → engKey n e ∈ s.pow.copying → s.dom n e = 2 → s.logicalOf n e = some i →
    s.listsOn n i = [(off, bs)] → ∃ t, exec (.listCopyDone n e) s = .next t ∧ engKey n e ∉ t.pow.copying ∧
      t.stGet n e off bs.length = bs)

/-- R432–R439: what a strike and a retirement do, the verdict on an audited tile, and the way out of quarantine. -/
def Obligations.StrikesAuditsAndQuarantine : Prop :=
  (∀ (s : State) (n e : Nat), n < 8 → e < 18 → s.engState n e ≠ 4 → s.engState n e ≠ 5 →
    (s.strike n e).engState n e = (if (s.rd (Reg.CHK_ENG_TIME n e)).toNat ≠ 0 ∧
      s.now < (s.rd (Reg.CHK_ENG_TIME n e)).toNat + 86400 * 10 ^ 9 then 5 else 4) ∧
    (s.strike n e).fget (Reg.CHK_ENG_strikes n e) = s.counted (Reg.CHK_ENG_strikes n e) 1 ∧
    ((s.strike n e).rd (Reg.CHK_ENG_TIME n e)).toNat = s.now) ∧
  (∀ (s : State) (n e : Nat), n < 8 → e < 18 → s.engState n e ≠ 5 →
    (s.retire n e).engState n e = 5 ∧ (s.retire n e).dom n e = 0 ∧ s.event 0x15C9 n e 0 ∈ (s.retire n e).raised ∧
    (s.retire n e).fget (Reg.CHK_CNT_RETIRE_count n) = s.counted (Reg.CHK_CNT_RETIRE_count n) 1 ∧
    (engKey n e, 0xFF) ∈ (s.retire n e).chk.burnPend) ∧
  (∀ (s : State) (n a crc : Nat) (tl : Tile) (rest : List Tile), n < 8 → s.tiles n = tl :: rest → s.auditEng? n = some a →
    n ∉ s.chk.selfPend → smGet none s.chk.charge n = none → engKey n a ∉ s.chk.beacon →
    (crc = tl.crc → ∃ t, exec (.auditVerdict n crc) s = .next t ∧
      Becomes (s.setTiles n rest) t [(Reg.CHK_CNT_AUDIT_count n, s.counted (Reg.CHK_CNT_AUDIT_count n) 1)] []) ∧
    (crc ≠ tl.crc → ∃ t, exec (.auditVerdict n crc) s = .next t ∧ t.tiles n = rest ∧
      s.event 0x25C6 n tl.eng (detTask tl.graph tl.inst tl.task
        (match s.run? (taskKey tl.graph tl.inst tl.task) with | some r => r.slot | none => 0)) ∈ t.raised ∧
      smGet none t.chk.charge n = some tl ∧ engKey n a ∈ t.chk.beacon ∧
      ((s.inst tl.graph tl.inst).retired = false → (t.inst tl.graph tl.inst).withheld = true))) ∧
  (∀ (s : State) (n k : Nat) (tl : Tile), n < 8 → (s.tiles n)[k]? = some tl →
    (∀ r, s.run? (taskKey tl.graph tl.inst tl.task) = some r → r.done = true ∧ r.ended + 100000 ≤ s.now) →
    ∃ t, exec (.auditTimeout n k) s = .next t ∧
      Becomes { s.setTiles n (dropAt (s.tiles n) k) with chk := { (s.setTiles n (dropAt (s.tiles n) k)).chk with skipSeen := withOnce n s.chk.skipSeen } } t
        [(Reg.CHK_CNT_AUD_SKIP_count n, s.counted (Reg.CHK_CNT_AUD_SKIP_count n) 1)]
        (if n ∈ s.chk.skipSeen then [] else [s.event 0x05CA n uNone 0])) ∧
  (∀ (s : State) (n e : Nat), n < 8 → e < 18 → s.fget (Reg.CHK_ENG_qstate n e) = 1 → s.engState n e = 4 → engKey n e ∉ s.chk.restart →
    (∃ t, exec (.quarantineTestDone n e 0 false) s = .next t ∧
      Becomes s t [(Reg.CHK_ENG_clean_runs n e, 0), (Reg.CHK_ENG_qstate n e, 2)] []) ∧
    (∀ c < 68, popcount 68 (s.stagedCols n e) < 3 → bit (s.stagedCols n e) c = false →
      ∃ t, exec (.quarantineTestDone n e (2 ^ c) false) s = .next t ∧ bit (t.stagedCols n e) c = true ∧ engKey n e ∈ t.chk.restart ∧
        t = { s with staged := t.staged, chk := t.chk }) ∧
    (∀ cols other, other = true ∨ 1 < (setBits 68 cols).length ∨
        (setBits 68 cols ≠ [] ∧ (3 ≤ popcount 68 (s.stagedCols n e) ∨ ∃ c ∈ setBits 68 cols, bit (s.stagedCols n e) c = true)) →
      exec (.quarantineTestDone n e cols other) s = .next (s.retire n e))) ∧
  (∀ (s : State) (n e k : Nat), n < 8 → e < 18 → s.fget (Reg.CHK_ENG_qstate n e) = 2 → s.engState n e = 4 →
    (∃ t, exec (.cleanRunsDone n e k true) s = .next t ∧ t.engState n e = 6 ∧ t.fget (Reg.CHK_ENG_clean_runs n e) = 1000 ∧
      t.fget (Reg.CHK_ENG_qstate n e) = 0 ∧ s.event 0x05C8 n e 0 ∈ t.raised) ∧
    (∃ t u, exec (.cleanRunsDone n e k false) s = .next t ∧ Becomes s u [(Reg.CHK_ENG_clean_runs n e, min k 999)] [] ∧ t = u.retire n e)) ∧
  (∀ (s : State) (n e k crc : Nat) (ok : Bool), n < 8 → e < 18 →
    (s.engState n e ≠ 4 → exec (.quarantineTestDone n e crc ok) s = .next s ∧ exec (.cleanRunsDone n e k ok) s = .next s) ∧
    (s.tiles n = [] ∨ s.auditEng? n = none → exec (.auditVerdict n crc) s = .next s) ∧
    (s.tiles n = [] → exec (.auditTimeout n k) s = .next s))

/-- R159, R308, R309: the two boundaries fall at their times, no earlier, and the times that follow count from them. -/
def Obligations.BoundariesFall : Prop :=
  (∀ (s : State) (copies : Bool), s.pow.phase = .running → s.plan.plans ≠ [] →
    (s.periodDue ≤ s.now → s.fget Reg.PWR_STBY_enter = 0 → ∃ t, exec (.planPeriodBoundary copies) s = .next t ∧
      t.plan.start = s.periodDue ∧ t.tim.everBoundary = true ∧ t.fus.start = s.periodDue ∧ t.fus.started = true) ∧
    (s.periodDue ≤ s.now → s.fget Reg.PWR_STBY_enter = 1 → ∃ t, exec (.planPeriodBoundary copies) s = .next t ∧
      t = s.enterStandby ∧ t.pow.phase = .standby) ∧
    (s.now < s.periodDue → exec (.planPeriodBoundary copies) s = .next s)) ∧
  (∀ s : State, s.pow.phase = .running → s.fus.started = true →
    (s.instantDue ≤ s.now → s.instantDue < s.periodDue → ∃ t, exec .instantBoundary s = .next t ∧ t.fus.start = s.instantDue ∧
      t.fus.started = true ∧ t.fget Reg.FUS_INSTANT_instant = (s.fget Reg.FUS_INSTANT_instant + 1) % 2 ^ 64) ∧
    (s.now < s.instantDue ∨ s.periodDue ≤ s.instantDue → exec .instantBoundary s = .next s))

/-- R161, R160: what a mode request does when it is written and when the boundary judges it. -/
def Obligations.ModeRequests : Prop :=
  (∀ (s : State) (core ohp smp : Option Nat) (m : Nat),
    (smp = some m ∨ (smp = none ∧ ohp = some m) ∨ (smp = none ∧ ohp = none ∧ core = some m)) →
    ∃ t, exec (.modeReqWrite core ohp smp) s = .next t ∧ t = { s with regs := t.regs, staged := t.staged } ∧
      bits (t.stagedValue Reg.PLN_MODE_REQ) 4 0 = m % 32 ∧ (∀ a, a ≠ Reg.PLN_MODE_REQ → smGet {} t.staged a = smGet {} s.staged a) ∧
      Shows s t [(Reg.PLN_STATUS_mode_pending, b2n (m % 32 != s.mode))]) ∧
  (∀ (s : State) (r : PlanRec) (copies : Bool) (m : Nat), s.planRec = some r → bits (s.stagedValue Reg.PLN_MODE_REQ) 4 0 = m →
    (m = s.mode → Becomes (s.unstage Reg.PLN_MODE_REQ) (s.judgeMode copies)
      [(Reg.PLN_STATUS_mode_pending, 0), (Reg.PLN_MODE_REQ_mode, m)] []) ∧
    (m ≠ s.mode → bit (nth 0 r.plan.trans s.mode) m = false → Becomes (s.unstage Reg.PLN_MODE_REQ) (s.judgeMode copies)
      [(Reg.PLN_STATUS_mode_pending, 0), (Reg.PLN_CNT_MODE_DISC_count, s.counted Reg.PLN_CNT_MODE_DISC_count 1),
       (Reg.PLN_MODE_REQ_mode, s.mode)] [s.event 0x0183 8 0xFF 0]) ∧
    (m ≠ s.mode → bit (nth 0 r.plan.trans s.mode) m = true → s.runs = [] → s.insts = [] →
      (∀ x ∈ r.plan.parts, nth 0xFF x.models m = nth 0xFF x.models s.mode) →
      Becomes (s.unstage Reg.PLN_MODE_REQ) (s.judgeMode copies)
        [(Reg.PLN_CNT_MODE_count, s.counted Reg.PLN_CNT_MODE_count 1), (Reg.PLN_STATUS_mode_pending, 0), (Reg.PLN_STATUS_mode, m),
         (Reg.PLN_MODE_REQ_mode, m)] [s.event 0x0184 8 0xFF 0]))

/-- R145, R182, R453, R433: the release of an instance, the end of a task, the close of its watch, the retirement of the instance. -/
def Obligations.InstancesAndTasks : Prop :=
  (∀ (s : State) (g : GraphRec) (j : Nat), s.graph? g.id = some g → g.gkind = 0 →
    (s.mayRelease g j = true → ∃ t, exec (.instanceRelease g.id j) s = .next t ∧ t = { s with insts := t.insts } ∧
      t.inst g.id j = { s.inst g.id j with released := true, at_ := s.plan.start + instRelease g j,
                                           period := s.fget Reg.PLN_PERIOD_CNT_count, step := 0 } ∧
      ∀ k, k ≠ instKey g.id j → smGet {} t.insts k = smGet {} s.insts k) ∧
    (s.mayRelease g j = false → exec (.instanceRelease g.id j) s = .next s)) ∧
  (∀ (s : State) (r : TaskRun) (beats stalls : Nat), s.run? r.key = some r → r.st = .running → s.isBarrier r = false →
    r.until_ ≤ s.now → r.started + r.minRun ≤ s.dieNow r.die → s.dieNow r.die ≤ s.baseOf r + r.bound → r.die < 8 →
    r.graph ∉ s.plan.preemptPend →
    let ended : TaskRun := { r with st := .ended, ended := s.dieNow r.die, close := none }
    (32 ≤ r.exec → ∃ t, exec (.taskEnd r.graph r.inst r.task beats stalls) s = .next t ∧
      Becomes (s.setRun ended) t
        ((if r.close.isSome = true then [(Reg.WDG_STATUS_armed r.die, s.fget (Reg.WDG_STATUS_armed r.die) - 1)] else []) ++
          [(Reg.PLN_INFLIGHT_now r.die, s.fget (Reg.PLN_INFLIGHT_now r.die) - 1)]) []) ∧
    (r.exec < 16 → r.phys < 18 → s.engState r.die r.phys = 2 → s.moveRun? r.die r.phys = none → r.gateAfter = false →
      (s.setRun ended).unitRun? r.die r.phys = none →
      ∃ t, exec (.taskEnd r.graph r.inst r.task beats stalls) s = .next t ∧
        Becomes (s.setRun ended) t
          ([(Reg.ENG_CNT_STALL_beats r.die r.phys, s.counted (Reg.ENG_CNT_STALL_beats r.die r.phys) stalls),
            (Reg.ENG_CNT_BUSY_beats r.die r.phys, s.counted (Reg.ENG_CNT_BUSY_beats r.die r.phys) beats),
            (Reg.ENG_STATUS_state r.die r.phys, 1)] ++
            (if r.close.isSome = true then [(Reg.WDG_STATUS_armed r.die, s.fget (Reg.WDG_STATUS_armed r.die) - 1)] else []) ++
            [(Reg.PLN_INFLIGHT_now r.die, s.fget (Reg.PLN_INFLIGHT_now r.die) - 1)]) [])) ∧
  (∀ (s : State) (r : TaskRun) (beats stalls : Nat), s.run? r.key = some r → r.st = .running → s.isBarrier r = false → r.die < 8 →
    (s.now < r.until_ → exec (.taskEnd r.graph r.inst r.task beats stalls) s = .next s) ∧
    (r.until_ ≤ s.now → s.baseOf r + r.bound < s.dieNow r.die → ∃ t, exec (.taskEnd r.graph r.inst r.task beats stalls) s = .next t ∧
      t.fget (Reg.ADM_CNT_OVERRUN_count r.die) = s.counted (Reg.ADM_CNT_OVERRUN_count r.die) 1 ∧
      (0x01C5 ∉ (s.inst r.graph r.inst).once → s.event 0x01C5 r.die r.unit r.detail ∈ t.raised)) ∧
    (r.until_ ≤ s.now → r.graph ∈ s.plan.preemptPend →
      (∀ x ∈ s.allRuns, x.graph = r.graph → x.inst = r.inst → x.key ≠ r.key → x.done = true) →
      ∃ t, exec (.taskEnd r.graph r.inst r.task beats stalls) s = .next t ∧
        r.graph ∈ t.plan.preempted ∧ r.graph ∉ t.plan.preemptPend ∧ s.event 0x01CC 8 0x10 0 ∈ t.raised)) ∧
  (∀ (s : State) (r : TaskRun) (c : Nat), s.run? r.key = some r → r.live = true → r.close = some c → c ≤ s.now → r.die < 8 → r.window < 64 →
    (s.fget (Reg.WDG_WIN_react r.die r.window) = 1 →
      ∃ t, exec (.watchClose r.graph r.inst r.task) s = .next t ∧
        Becomes (s.setRun { r with close := none }) t ([(Reg.WDG_STATUS_armed r.die, s.fget (Reg.WDG_STATUS_armed r.die) - 1)] ++
          s.captured (Reg.WDG_ERR r.die) (r.window + r.graph * 2 ^ 8 + r.inst % 64 * 2 ^ 16 + r.task * 2 ^ 24) ++
          [(Reg.WDG_CNT_LATE_count r.die, s.counted (Reg.WDG_CNT_LATE_count r.die) 1)]) [s.event 0x3642 r.die r.unit r.detail]) ∧
    (s.fget (Reg.WDG_WIN_react r.die r.window) = 0 →
      ∃ t u, exec (.watchClose r.graph r.inst r.task) s = .next t ∧
        Becomes s u (s.captured (Reg.WDG_ERR r.die) (r.window + r.graph * 2 ^ 8 + r.inst % 64 * 2 ^ 16 + r.task * 2 ^ 24) ++
          [(Reg.WDG_CNT_LATE_count r.die, s.counted (Reg.WDG_CNT_LATE_count r.die) 1)]) [s.event 0x2641 r.die r.unit r.detail] ∧
        t = u.abort r ∧ ∃ r', t.run? r.key = some r' ∧ r'.st = .aborted ∧ r'.withheld = true ∧ r'.ended = s.dieNow r.die)) ∧
  (∀ (s : State) (g j : Nat) (ecc : List Nat) (copies : Bool),
    (s.mayRetire g j = true → (s.inst g j).step = 0 → s.fget Reg.OHP_CTRL_en = 0 →
      ∃ t, exec (.instanceRetire g j ecc copies) s = .next t ∧
        t = (s.setInst g j { s.inst g j with retired := true, withheld := s.instHeld g j }).kvRetire g j (!s.instHeld g j) ∧
        (s.kv.steps = [] → t = s.setInst g j { s.inst g j with retired := true, withheld := s.instHeld g j })) ∧
    (s.mayRetire g j = false → exec (.instanceRetire g j ecc copies) s = .next s))

/-- R181: the release of a task and its late start. -/
def Obligations.TasksStart : Prop :=
  (∀ (s s1 : State) (r r1 : TaskRun), s.run? r.key = some r → r.st = .waiting → r.due = false → s.releases = true →
    (s.inst r.graph r.inst).released = true → s.baseOf r + r.release ≤ s.dieNow r.die → r.die < 8 → r.window < 64 → s.isBarrier r = false →
    s.walkHolds r = false → s.engUsable r = true → s.engReady r = true → (r.exec = 32 → bit s.saf.warpOff r.die = false) →
    (∀ k ∈ s.runDeps r, (s.depNow k).2 = false) → r.withheld = false →
    s.armWatch { r with due := true, relAt := s.baseOf r + r.release } = (s1, r1) →
    (s.execFree r = true → (∀ k ∈ s.runDeps r, (s.depNow k).1 = false) →
      ∃ t, exec (.taskRelease r.graph r.inst r.task) s = .next t ∧
        Becomes (s1.setRun { r1 with st := .running, started := s.dieNow r.die, phys := s.physOfRun r, bank := s.fget Reg.FUS_CAL_STATUS_bank }) t
          (if r.exec < 32 then [(Reg.ENG_STATUS_state r.die (s.physOfRun r), 2)] else []) []) ∧
    ((∃ k ∈ s.runDeps r, (s.depNow k).1 = true) ∨ s.execFree r = false →
      ∃ t, exec (.taskRelease r.graph r.inst r.task) s = .next t ∧ t = s1.setRun r1)) ∧
  (∀ (s : State) (r : TaskRun), s.run? r.key = some r → r.st = .waiting → r.due = false →
    (s.dieNow r.die < s.baseOf r + r.release ∨ s.releases = false → exec (.taskRelease r.graph r.inst r.task) s = .next s) ∧
    (s.releases = true → (s.inst r.graph r.inst).released = true → s.baseOf r + r.release ≤ s.dieNow r.die → r.die < 8 → r.window < 64 →
      s.engUsable r = false → ∃ t, exec (.taskRelease r.graph r.inst r.task) s = .next t ∧
        ∃ r', t.run? r.key = some r' ∧ r'.st = .aborted ∧ r'.withheld = true)) ∧
  (∀ (s : State) (r : TaskRun), s.run? r.key = some r → r.st ≠ .waiting →
    exec (.taskRelease r.graph r.inst r.task) s = .next s ∧ exec (.taskLateStart r.graph r.inst r.task) s = .next s) ∧
  (∀ (s : State) (r : TaskRun), r.die < 8 → r.window < 64 →
    (s.fget (Reg.WDG_WIN_en r.die r.window) = 0 → s.armWatch r = (s, r)) ∧
    (s.fget (Reg.WDG_WIN_en r.die r.window) = 1 → r.close = none →
      Becomes s (s.armWatch r).1 [(Reg.WDG_STATUS_armed r.die, (s.fget (Reg.WDG_STATUS_armed r.die) + 1) % 2 ^ 14)] [] ∧
      (s.armWatch r).2.close = some (min (s.baseOf r + r.bound + s.fget (Reg.WDG_WIN_grace_us r.die r.window) * 1000)
        (s.plan.start + s.periodNs)))) ∧
  (∀ (s : State) (r : TaskRun), s.run? r.key = some r → r.st = .waiting → r.due = true → s.releases = true → r.die < 8 →
    s.engUsable r = true → s.engReady r = true → s.isBarrier r = false → s.walkHolds r = false → s.execFree r = true → r.withheld = false →
    (∀ k ∈ s.runDeps r, s.depNow k = (false, false)) →
    ∃ t u, exec (.taskLateStart r.graph r.inst r.task) s = .next t ∧
      Becomes s u [(Reg.ADM_CNT_LATE_count r.die, s.counted (Reg.ADM_CNT_LATE_count r.die) 1)] [] ∧
      Becomes ((u.raiseOncePerInst 0x01C4 r).setRun { r with
        st := .running, started := s.dieNow r.die, phys := s.physOfRun r, due := true, bank := s.fget Reg.FUS_CAL_STATUS_bank }) t
        (if r.exec < 32 then [(Reg.ENG_STATUS_state r.die (s.physOfRun r), 2)] else []) [])

/-- R187, R186, R188, R189, R247, R253: requests about steps, their walks and their rings. -/
def Obligations.BarriersAndRequests : Prop :=
  (∀ (s : State) (r : TaskRun), s.run? r.key = some r → r.live = true → r.due = true → s.isBarrier r = true → s.stepGraph r.graph = true →
    r.relAt + max 1 (s.fget Reg.ADM_WAIT_barrier_us) * 1000 ≤ s.now →
    ∃ t, exec (.barrierTimeout r.graph r.inst r.task) s = .next t ∧ (∃ e ∈ t.raised, e = s.event 0x21C7 r.die r.unit r.detail) ∧
      t.fget Reg.ADM_CNT_STEP_ABORT_count = s.counted Reg.ADM_CNT_STEP_ABORT_count 1 ∧
      ∀ x, s.run? x.key = some x → x.live = true → x.graph = r.graph → x.inst = r.inst →
        ∃ x', t.run? x.key = some x' ∧ x'.st = .aborted ∧ x'.withheld = true) ∧
  (∀ (s : State) (g : Nat), g < 256 → s.stepGraph g = true → g ∉ s.plan.preempted →
    (s.stepInProgress g = false → g ∉ s.plan.resumePend → ∃ t, exec (.preemptRequest g) s = .next t ∧
      Becomes { s with plan := { s.plan with preemptPend := s.plan.preemptPend.filter (· != g), preempted := s.plan.preempted ++ [g] } } t
        [(Reg.ADM_PREEMPT_preempted, 1), (Reg.ADM_PREEMPT_pending, 0), (Reg.ADM_PREEMPT_op, 0), (Reg.ADM_PREEMPT_graph, g)]
        [s.event 0x01CC 8 0x10 0]) ∧
    (s.stepInProgress g = true → ∃ t, exec (.preemptRequest g) s = .next t ∧
      Becomes { s with plan := { s.plan with preemptPend := s.plan.preemptPend.filter (· != g) ++ [g] } } t
        [(Reg.ADM_PREEMPT_preempted, 0), (Reg.ADM_PREEMPT_pending, 1), (Reg.ADM_PREEMPT_op, 0), (Reg.ADM_PREEMPT_graph, g)] [])) ∧
  (∀ (s : State) (g : Nat), g < 256 → s.stepGraph g = false → g ∉ s.plan.preempted → g ∉ s.plan.preemptPend → g ∉ s.plan.resumePend →
    ∀ c ∈ [Instr.preemptRequest g, Instr.resumeRequest g], ∃ t, exec c s = .next t ∧
      Becomes s t [(Reg.ADM_PREEMPT_preempted, 0), (Reg.ADM_PREEMPT_pending, 0), (Reg.ADM_PREEMPT_op, 0), (Reg.ADM_PREEMPT_graph, g)]
        [s.event 0x01CD 8 0x10 0]) ∧
  (∀ (s : State) (g : Nat), g < 256 → s.stepGraph g = true → g ∈ s.plan.preempted → ∃ t, exec (.resumeRequest g) s = .next t ∧
    Becomes { s with plan := { s.plan with resumePend := s.plan.resumePend.filter (· != g) ++ [g] } } t
      [(Reg.ADM_PREEMPT_preempted, 1), (Reg.ADM_PREEMPT_pending, 1), (Reg.ADM_PREEMPT_op, 0), (Reg.ADM_PREEMPT_graph, g)] []) ∧
  (∀ (s : State) (x : KvStep), (s.kv.steps.find? fun y => y.graph == x.graph && y.inst == x.inst && !y.walked) = some x → x.bad = [] →
    ∃ t, exec (.walkDone x.graph x.inst [] false) s = .next t ∧ t = { s with kv := { s.kv with
      steps := s.kv.steps.map fun y => if y.graph == x.graph && y.inst == x.inst then { y with walked := true } else y } }) ∧
  (∀ (s : State) (p v : Nat), p < 64 → v < 65536 →
    (∃ t, exec (.kvRingIndexWrite p none (some v)) s = .next t ∧
      let fits := ringDist v (s.fget (Reg.KVW_RING_comp_head p)) ≤
        ringDist (s.fget (Reg.KVW_RING_comp_tail p)) (s.fget (Reg.KVW_RING_comp_head p))
      ∃ u, Becomes s u [if fits then (Reg.KVW_RING_comp_head p, v) else (Reg.KVW_CNT_REFUSE_count, s.counted Reg.KVW_CNT_REFUSE_count 1)] [] ∧
        t = (if fits then u.kvPay p else u) ∧ ((∀ x ∈ s.kv.owed, x.kv.part ≠ p) → t = u)) ∧
    (∀ r : KvRec, s.kvRec p = some r → ∃ t, exec (.kvRingIndexWrite p (some v) none) s = .next t ∧
      Becomes s t [if ringDist v (s.fget (Reg.KVW_RING_req_head p)) ≤ 2 ^ (r.reqLg + 4)
        then (Reg.KVW_RING_req_tail p, v) else (Reg.KVW_CNT_REFUSE_count, s.counted Reg.KVW_CNT_REFUSE_count 1)] []))

/-- R83: the checksum column of an integer pass holds exactly, and one wrong column shows. -/
def Obligations.ArrayChecksums : Prop :=
  ∀ (p : Pass) (x : PassIn) (eps tau seed pos n : Nat), p.int = true → p.mode = 0 ∨ p.mode = 2 →
    (∀ y ∈ p.compute x eps tau seed pos n [], y.ok = true) ∧
    ∀ m j f, m < p.rows → j < p.n → f % 2 ^ 32 ≠ 0 →
      ∀ i y, (p.compute x eps tau seed pos n [(m, j, f)])[i]? = some y → y.ok = decide (i ≠ m)

/-- R68, R77, R78, R86, R69: what a pass leaves behind. -/
def Obligations.ArrayPasses : Prop :=
  ∀ (s : State) (n e mode : Nat) (o : UnitObs) (c : Instr) (r : TaskRun) (d : TaskDesc) (p : Pass),
    (c, mode) ∈ [(Instr.passStart n e o, 0), (Instr.passAdd n e o, 1), (Instr.passSingle n e o, 2), (Instr.passAddNarrow n e o, 3)] →
    s.AtEntry n e 1 r d → CleanObs o → d.chained = false → readPass (s.entryBytes r d) = p → p.mode = mode →
    (p.valid d r.pos false = false → ∃ t, exec c s = .next t ∧ s.event 0x2083 n e r.detail ∈ t.raised ∧
      ∃ r', t.run? r.key = some r' ∧ r'.withheld = true ∧ r'.st = .ended) ∧
    (p.valid d r.pos false = true → s.Verified n e →
      Block.metaOk ⟨[], [], s.stGet n e (p.stat + p.statElems + p.statScales) p.statMeta⟩ p = true →
      (p.mode ≠ 2 → ∀ x ∈ p.reads none, overlap x p.accTile = false ∨ x = p.accTile) →
      (2 ≤ p.mode → ∀ x ∈ p.reads none, overlap x p.outTile = false ∨ x = p.outTile) → s.fget Reg.CHK_CTRL_audit_en = 0 →
      ∀ rows, rows = p.compute (s.passIn r p none) (s.tolEps n) (s.tolTau n) d.seed r.pos s.free [] →
      ((∀ x ∈ rows, x.ok = true) → ∃ t, exec c s = .next t ∧ MovedOn t r ∧ SameMemory s t ∧
        StoresBut s t n e ((if p.mode = 2 then [] else [p.accTile]) ++ (if 2 ≤ p.mode then [p.outTile] else [])) ∧
        RegsBut s t [Reg.ENG_CNT_SAT n e, Reg.ENG_CNT_NONFINITE n e] ∧
        (p.mode ≠ 2 → t.stGet n e p.acc (p.rows * p.n * 4) = rows.flatMap (fun x => words32Bytes x.ys) ∧
          t.stGet n e (p.acc + roundUp (p.rows * p.n * 4) 256) (p.rows * 4) = words32Bytes (rows.map fun x => x.yc)) ∧
        (2 ≤ p.mode → isMX p.fo = false →
          t.stGet n e p.out (elemBytes p.fo (p.rows * p.n)) = packElems p.fo (rows.flatMap fun x => x.nar.elems))) ∧
      ((∃ x ∈ rows, x.ok = false) → ∃ t, exec c s = .next t ∧ s.event 0x2081 n e r.detail ∈ t.raised ∧
        ∃ r', t.run? r.key = some r' ∧ r'.withheld = true))

/-- R89, R90, R91: what each vector operation writes. -/
def Obligations.VectorEntries : Prop :=
  ∀ (s : State) (n e op : Nat) (o : UnitObs) (c : Instr) (r : TaskRun) (d : TaskDesc) (v : VecEntry),
    (c, op) ∈ [(Instr.vecAdd n e o, 0x01), (Instr.vecSub n e o, 0x02), (Instr.vecMul n e o, 0x03), (Instr.vecFma n e o, 0x04),
      (Instr.vecMin n e o, 0x05), (Instr.vecMax n e o, 0x06), (Instr.vecAbs n e o, 0x07), (Instr.vecNeg n e o, 0x08),
      (Instr.vecLess n e o, 0x09), (Instr.vecSelect n e o, 0x0A), (Instr.vecExp2 n e o, 0x10), (Instr.vecLog2 n e o, 0x11),
      (Instr.vecRecip n e o, 0x12), (Instr.vecRsqrt n e o, 0x13), (Instr.cvt n e o, 0x20), (Instr.vecIadd n e o, 0x40),
      (Instr.vecImul n e o, 0x41), (Instr.vecShl n e o, 0x42), (Instr.vecShr n e o, 0x43), (Instr.vecAnd n e o, 0x44),
      (Instr.vecOr n e o, 0x45), (Instr.vecXor n e o, 0x46)] →
    s.AtEntry n e 2 r d → CleanObs o → readVec (s.entryBytes r d) = v →
    (v.valid = false → (vecListed v.op = true → v.op = op) → ∃ t, exec c s = .next t ∧ s.event 0x2083 n e r.detail ∈ t.raised ∧
      ∃ r', t.run? r.key = some r' ∧ r'.withheld = true ∧ r'.st = .ended) ∧
    (v.valid = true → v.op = op → s.Verified n e → (∀ x ∈ v.reads, overlap x v.dst = false ∨ x = v.dst) →
      ∃ t, exec c s = .next t ∧ MovedOn t r ∧ SameMemory s t ∧ StoresBut s t n e [v.dst] ∧
        RegsBut s t (if op = 0x20 then [Reg.ENG_CNT_SAT n e, Reg.ENG_CNT_NONFINITE n e] else []) ∧
        (0x40 ≤ op → ∀ i < v.elems, leNat (t.stGet n e (v.d + 4 * i) 4) = intOp op (leNat (s.stGet n e (v.a + 4 * i) 4))
          (if v.bImm then v.imm else leNat (s.stGet n e (v.b + 4 * i) 4))) ∧
        (op < 0x20 → t.stGet n e v.d (tensorBytes v.fmt v.elems) = packElems v.fmt (v.results d.seed r.pos s.free
          (s.stGet n e v.a (tensorBytes v.fmt v.elems))
          (if v.usesB && !v.bImm then s.stGet n e v.b (tensorBytes v.fmt v.elems) else [])
          (if v.usesC then s.stGet n e v.c (tensorBytes v.fmt v.elems) else []))) ∧
        (op = 0x20 → ∀ row, row = v.cvtRow d.seed r.pos s.free (s.stGet n e v.a (tensorBytes v.fmt v.elems)) →
          (∀ w ∈ v.converted row, t.stGet n e w.1 w.2.length = w.2) ∧
          t.fget (Reg.ENG_CNT_SAT_count n e) = s.counted (Reg.ENG_CNT_SAT_count n e) row.sat ∧
          t.fget (Reg.ENG_CNT_NONFINITE_count n e) = s.counted (Reg.ENG_CNT_NONFINITE_count n e) row.nonf))

/-- R102–R112: what the index unit reads and writes. -/
def Obligations.IndexEntries : Prop :=
  ∀ (s : State) (n e op sub : Nat) (o : UnitObs) (c : Instr) (r : TaskRun) (d : TaskDesc) (x : IdxEntry),
    (c, op, sub) ∈ [(Instr.gather n e o, 1, 0), (Instr.scatterStore n e o, 2, 0), (Instr.scatterAdd n e o, 2, 1),
      (Instr.scatterMax n e o, 2, 2), (Instr.scatterMin n e o, 2, 3), (Instr.segredSum n e o, 3, 0), (Instr.segredMax n e o, 3, 1),
      (Instr.segredMin n e o, 3, 2), (Instr.segredMean n e o, 3, 3), (Instr.segredNormExp n e o, 3, 4), (Instr.hist n e o, 4, 0),
      (Instr.dedup n e o, 5, 0)] →
    s.AtEntry n e 3 r d → CleanObs o → s.Verified n e → readIdx (s.entryBytes r d) = x →
    ∀ offs, offs = (if x.op = 3 then words32 (s.stGet n e x.off ((x.segs + 1) * 4)) (x.segs + 1) else []) →
    ∀ idx : Nat → Nat, (∀ i, idx i = if x.hasIdx then leNat (s.stGet n e (x.idx + 4 * i) 4) else i) →
    (x.valid n offs = false → (x.listed = true → x.op = op ∧ x.sub = sub) → ∃ t, exec c s = .next t ∧
      s.event 0x20C1 n e r.detail ∈ t.raised ∧ ∃ r', t.run? r.key = some r' ∧ r'.withheld = true ∧ r'.st = .ended) ∧
    (x.valid n offs = true → x.op = op → x.sub = sub → x.srcSs = false → x.dstSs = false →
      x.oob = false → (∃ i < x.count, x.rows ≤ idx i) → ∃ t, exec c s = .next t ∧
        s.event 0x20C2 n e r.detail ∈ t.raised ∧ ∃ r', t.run? r.key = some r' ∧ r'.withheld = true ∧ r'.st = .ended) ∧
    (x.valid n offs = true → x.op = op → x.sub = sub → (∀ i < x.count, x.oob = true ∨ idx i < x.rows) →
      (∃ t r', exec c s = .next t ∧ t.run? r.key = some r' ∧ r'.pos = r.pos + 1) ∧
      (x.srcSs = false → x.dstSs = false → ∃ t, exec c s = .next t ∧ MovedOn t r ∧ SameMemory s t ∧
        StoresBut s t n e ((x.dst, x.dstLen) :: (if x.op = 5 then [(x.off, x.count * 4), (x.src, x.srcLen)] else [])) ∧
        RegsBut s t [Reg.IDX_CNT_STALL n e, Reg.IDX_CNT_OOB n e, Reg.IDX_CNT_EMPTY n e, Reg.IDX_CNT_ROWS n e] ∧
        (op = 1 → ∀ i < x.count, t.stGet n e (x.dst + i * (64 * x.c)) (4 * x.w) =
          if idx i < x.rows then s.stGet n e (x.src + idx i * (64 * x.c)) (4 * x.w) else List.replicate (4 * x.w) 0) ∧
        (op = 4 → ∀ v < x.rows, leNat (t.stGet n e (x.dst + 4 * v) 4) = ((List.range x.count).filter fun i => idx i == v).length)))

/-- R116, R118: the results of the sort-and-merge unit, and that a sound unit never fails its own check. -/
def Obligations.SortIsRight : Prop :=
  ∀ (x : SortEntry) (ks : List (Nat × Nat)), ks.length = x.n → x.n ≤ 2 ^ 18 →
    (x.op = 1 → (x.result ks).Perm ks ∧ x.ordered (x.result ks) = true ∧ x.checks ks (x.result ks) = true) ∧
    (x.op = 3 → x.aux ≤ x.n → x.result ks = ({ x with op := 1 }.result ks).take x.aux ∧ x.checks ks (x.result ks) = true) ∧
    (x.op = 2 → x.ordered (ks.take x.aux) = true → x.ordered (ks.drop x.aux) = true →
      (x.result ks).Perm ks ∧ x.ordered (x.result ks) = true ∧ x.checks ks (x.result ks) = true)

/-- R116, R121, R123: what the sort-and-merge and the neighbour-search units write. -/
def Obligations.SortAndSeekEntries : Prop :=
  (∀ (s : State) (n e op : Nat) (o : UnitObs) (c : Instr) (r : TaskRun) (d : TaskDesc) (x : SortEntry),
    (c, op) ∈ [(Instr.sort n e o, 1), (Instr.merge n e o, 2), (Instr.topk n e o, 3)] →
    s.AtEntry n e 4 r d → CleanObs o → readSort (s.entryBytes r d) = x →
    (x.valid = false → (1 ≤ x.op → x.op ≤ 3 → x.op = op) → ∃ t, exec c s = .next t ∧ s.event 0x2101 n e r.detail ∈ t.raised ∧
      ∃ r', t.run? r.key = some r' ∧ r'.withheld = true ∧ r'.st = .ended) ∧
    (x.valid = true → x.op = op → s.Verified n e →
      ∀ ks, ks = (words64 (s.stGet n e x.key (x.n * 8)) x.n).zip
        (if x.payload then words32 (s.stGet n e x.pay (x.n * 4)) x.n else List.replicate x.n 0) →
      x.checks ks (x.result ks) = true →
      ∃ t, exec c s = .next t ∧ MovedOn t r ∧ SameMemory s t ∧ RegsBut s t [Reg.SRT_CNT_KEYS n e] ∧
        t.fget (Reg.SRT_CNT_KEYS_keys n e) = s.counted (Reg.SRT_CNT_KEYS_keys n e) x.n ∧
        StoresBut s t n e ([(x.dst, x.outN * 8)] ++ (if x.payload then [(x.dpay, x.outN * 4)] else []) ++
          (if x.usesScr then [x.scrTile] else [])) ∧
        t.stGet n e x.dst (x.outN * 8) = (x.result ks).flatMap (fun p => leBytes 8 p.1) ∧
        (x.payload = true → t.stGet n e x.dpay (x.outN * 4) = words32Bytes ((x.result ks).map Prod.snd)))) ∧
  (∀ (s : State) (n e op : Nat) (o : UnitObs) (c : Instr) (r : TaskRun) (d : TaskDesc) (x : SeekEntry) (g : Grid) (h : SeekHead),
    (c, op) ∈ [(Instr.bin n e o, 1), (Instr.radius n e o, 2), (Instr.knn n e o, 3)] →
    s.AtEntry n e 5 r d → CleanObs o → readSeek (s.entryBytes r d) = x →
    g = { o := vec3 (s.stGet n e x.grid 32) 0, v := vec3 (s.stGet n e x.grid 32) 12 } → h = readHead (s.stGet n e (x.cell - 256) 256) →
    (x.valid g h = false → (1 ≤ x.op → x.op ≤ 3 → x.op = op) → ∃ t, exec c s = .next t ∧ s.event 0x2141 n e r.detail ∈ t.raised ∧
      ∃ r', t.run? r.key = some r' ∧ r'.withheld = true ∧ r'.st = .ended) ∧
    (x.valid g h = true → x.op = op → s.Verified n e →
      (op = 1 → ∀ b, b = x.binned ((List.range x.n).map fun i => (g.voxel (s.point r x.pts i)).bind x.cellOf) →
        ∃ t, exec c s = .next t ∧ MovedOn t r ∧ SameMemory s t ∧ RegsBut s t [Reg.SEK_CNT_OUTSIDE n e, Reg.SEK_CNT_CAP n e] ∧
          StoresBut s t n e [(x.cell - 256, 256), (x.cell, (x.g + 1) * 4), (x.perm, x.n * 4)] ∧
          t.stGet n e (x.cell - 256) 256 = x.head b ∧ t.stGet n e x.cell ((x.g + 1) * 4) = words32Bytes b.cells ∧
          t.stGet n e x.perm (b.perm.length * 4) = words32Bytes b.perm) ∧
      (op ≠ 1 → ∃ t, exec c s = .next t ∧ MovedOn t r ∧ SameMemory s t ∧ RegsBut s t [Reg.SEK_CNT_TRUNC n e, Reg.SEK_CNT_QUERY n e] ∧
          t.fget (Reg.SEK_CNT_QUERY_count n e) = s.counted (Reg.SEK_CNT_QUERY_count n e) x.n ∧
          StoresBut s t n e [(x.out, x.n * x.capK * 4), (x.dist, x.n * x.capK * 4)] ∧
          ∀ ans, ans = ((List.range x.n).map fun i => x.answer (s.qualify r x g h (s.point r x.qry i))) →
            t.stGet n e x.out (x.n * x.capK * 4) = ans.flatMap Prod.fst ∧ t.stGet n e x.dist (x.n * x.capK * 4) = ans.flatMap Prod.snd)))

/-- R154, R155, R318, R322: the blocks of a MOVE entry, and the entries of the warp unit. -/
def Obligations.MoveAndWarpEntries : Prop :=
  (∀ (s : State) (n e : Nat) (o : UnitObs) (r : TaskRun) (m : MoveEntry), n < 8 → e < 18 → CleanObs o → s.moveAt n e = some (r, m) →
    s.run? r.key = some r → r.withheld = false →
    (m.ok = false → ∀ c drain, (c, drain) ∈ [(Instr.moveFill n e o, false), (Instr.moveDrain n e o, true)] → m.drain = drain →
      ∃ t, exec c s = .next t ∧ s.event 0x2186 n e r.detail ∈ t.raised ∧ ∃ r', t.run? r.key = some r' ∧ r'.withheld = true ∧ r'.st = .ended) ∧
    (m.drain = true → exec (.moveFill n e o) s = .next s) ∧ (m.drain = false → exec (.moveDrain n e o) s = .next s) ∧
    (m.ok = true → m.drain = false → ∃ t u r', exec (.moveFill n e o) s = .next t ∧ Becomes s u [] [] ∧
      t = ((List.range m.blocks).foldl (fun (s : State) (i : Nat) => s.fillBlock r m 0 i) u).nextEntry r.key ∧
      t.run? r.key = some r' ∧ r'.pos = r.pos + 1) ∧
    (m.ok = true → m.drain = true → ∃ t r', exec (.moveDrain n e o) s = .next t ∧
      Becomes (((List.range m.blocks).foldl (fun (s : State) (i : Nat) => s.drainBlock r m false 0 i) s).nextEntry r.key) t [] [] ∧
      t.run? r.key = some r' ∧ r'.pos = r.pos + 1)) ∧
  (∀ (s s1 : State) (r : TaskRun) (m : MoveEntry) (i : Nat) (bs : List Byte), s.portRead r.key r.phys (m.addr + 256 * i) 0 = (s1, some (bs, 0)) →
    s1.isWithheld r.key = false → r.phys < 18 → bs.length = 256 → (m.loc + i) * 256 + 256 ≤ storeSize →
    (s.fillBlock r m 0 i).stErr r.die r.phys (m.loc + i) = 0 ∧
      (s.fillBlock r m 0 i).stGet r.die r.phys ((m.loc + i) * 256) 256 = bs ∧
      StoresBut s1 (s.fillBlock r m 0 i) r.die r.phys [((m.loc + i) * 256, 256)]) ∧
  (∀ (s s1 : State) (n op : Nat) (o : UnitObs) (c : Instr) (r : TaskRun) (d : TaskDesc) (b : List Byte),
    (c, op) ∈ [(Instr.splat n o, 1), (Instr.sample n o, 2)] → n < 8 → CleanObs o → s.warpTask n = some (r, d) → s.run? r.key = some r →
    r.pos < d.listLen → s.warpEntry r d = (s1, b) → (readWarp b).op = op →
    (∀ f, s.fusion = some f → (readWarp b).ok f (readCal (s.calBytes r.bank (readWarp b).sensor)) = true →
      ∃ t r', exec c s = .next t ∧ t.run? r.key = some r' ∧ r'.pos = r.pos + 1) ∧
    ((∀ f, s.fusion = some f → (readWarp b).ok f (readCal (s.calBytes r.bank (readWarp b).sensor)) = false) →
      ∃ t, exec c s = .next t ∧ s.event 0x23C3 n 0x22 r.detail ∈ t.raised ∧
        ∃ r', t.run? r.key = some r' ∧ r'.withheld = true ∧ r'.st = .ended))

/-- R167, R190, R312, R313: the verdict of admission, and the calibration banks. -/
def Obligations.AdmissionAndCalibration : Prop :=
  (∀ (s : State) (r : PlanRec) (x : Submitted) (rest : List Submitted) (copies : Bool), s.planRec = some r → s.plan.queued = x :: rest →
    x.req.port < 6 →
    (∀ code, s.submitRefused r x.graph = some code → ∃ t, exec (.admissionVerdict copies) s = .next t ∧ t.plan.queued = rest ∧
      t.plan.accepted = s.plan.accepted ∧ t.fget Reg.ADM_LAST_code = code ∧ t.fget Reg.ADM_LAST_graph = x.graph.id % 256 ∧
      t.fget Reg.ADM_CNT_REJECT_count = s.counted Reg.ADM_CNT_REJECT_count 1 ∧ s.event 0x01C2 8 0x10 0 ∈ t.raised) ∧
    (s.submitRefused r x.graph = none →
      let kept (l : List Submitted) : List Submitted := l.filter fun y => y.graph.id != x.graph.id
      let before : State := { s with plan := { s.plan with entered := kept s.plan.entered, accepted := kept s.plan.accepted } }
      let others : List Submitted := kept ((s.plan.entered.filter fun y => !(s.plan.accepted.any fun z => z.graph.id == y.graph.id)) ++ s.plan.accepted)
      (∀ y, admitGraph s.admCfg before.tblUsed r others x = .ok y →
        ∃ t, exec (.admissionVerdict copies) s = .next t ∧ t.plan.queued = rest ∧ t.plan.accepted = kept s.plan.accepted ++ [y] ∧
          t.fget Reg.ADM_LAST_code = 0 ∧ t.fget Reg.ADM_CNT_ACCEPT_count = s.counted Reg.ADM_CNT_ACCEPT_count 1 ∧
          s.event 0x01C1 8 0x10 0 ∈ t.raised) ∧
      (∀ v, admitGraph s.admCfg before.tblUsed r others x = .error v → v.code ≠ 0 →
        ∃ t, exec (.admissionVerdict copies) s = .next t ∧ t.plan.queued = rest ∧ t.plan.accepted = s.plan.accepted ∧
          t.fget Reg.ADM_CNT_REJECT_count = s.counted Reg.ADM_CNT_REJECT_count 1 ∧ s.event 0x01C2 8 0x10 0 ∈ t.raised))) ∧
  (∀ (s : State) (copies : Bool), s.plan.queued = [] → exec (.admissionVerdict copies) s = .next s) ∧
  (∀ s : State, ∃ t, exec .calSwapRequest s = .next t ∧
    Becomes s t [(Reg.FUS_CAL_STATUS_swap_pending, 1), (Reg.FUS_CAL_CTRL_swap, 1)] []) ∧
  (∀ (s : State) (n w v : Nat), n < 64 → w < 32 → v < 2 ^ 32 →
    (s.nextBusy = false → s.fus.held = [] → ∃ t, exec (.calNextWrite n w v) s = .next t ∧
      Becomes s t [(⟨Reg.FUS_CAL_NEXT n (w / 2), 32 * (w % 2) + 31, 32 * (w % 2)⟩, v)] []) ∧
    (s.nextBusy = true ∨ s.fus.held ≠ [] → ∃ t, exec (.calNextWrite n w v) s = .next t ∧
      Becomes { s with fus := { s.fus with held := s.fus.held ++ [(n, w, v)] } } t [(Reg.FUS_CAL_STATUS_held, 1)] []) ∧
    Becomes s (s.putCal n w v) [(⟨Reg.FUS_CAL_NEXT n (w / 2), 32 * (w % 2) + 31, 32 * (w % 2)⟩, v)] []) ∧
  (∀ s : State, s.fus.held = [] ∨ s.nextBusy = true → exec .calNextWriteApply s = .next s) ∧
  (∀ s : State, s.fus.held ≠ [] → s.nextBusy = false → ∃ t u, exec .calNextWriteApply s = .next t ∧
    u = s.fus.held.foldl (fun (s : State) x => s.putCal x.1 x.2.1 x.2.2) s ∧
    Becomes { u with fus := { u.fus with held := [] } } t [(Reg.FUS_CAL_STATUS_held, 0)] []) ∧
  (∀ s : State, s.fget Reg.FUS_CAL_STATUS_swap_pending = 1 → s.badNext = none →
    (∀ n < 64, ∀ j < 16, s.calSwitch.rd (Reg.FUS_CAL_ACT n j) = s.rd (Reg.FUS_CAL_NEXT n j) ∧
      s.calSwitch.rd (Reg.FUS_CAL_NEXT n j) = s.rd (Reg.FUS_CAL_ACT n j)) ∧
    s.calSwitch.fget Reg.FUS_CAL_STATUS_bank = 1 - s.fget Reg.FUS_CAL_STATUS_bank ∧ s.calSwitch.fget Reg.FUS_CAL_STATUS_swap_pending = 0 ∧
    s.calSwitch.fget Reg.FUS_CNT_SWITCH_count = s.counted Reg.FUS_CNT_SWITCH_count 1 ∧
    s.calSwitch.raised = s.raised ++ [s.event 0x03C1 8 0xFF 0])

/-- R278, R280, R331, R338: the pick and the track update of an instant. -/
def Obligations.PickAndTracks : Prop :=
  ∀ (s : State) (n : Nat), s.pow.phase = .running → s.planRec.isSome = true → s.fus.started = true → (s.rd Reg.FUS_INSTANT).toNat = n →
    (∀ (copies : Bool) (gen : List Nat),
      (s.ing.picked ≠ n + 1 → s.tref ≤ s.now → ∃ t, exec (.pick copies gen) s = .next t ∧ t.ing.picked = n + 1 ∧
        ∀ k < 64, (t.sensor k).done = (s.sensor k).done.filter (fun f => decide (s.tref < f.done)) ∧
          (t.sensor k).named = ((match s.pickOf k s.tref with
            | (0, some f) => if s.hubLate 0 || copies || s.saf.setOff then [] else [f.buf]
            | _ => []) :: (s.sensor k).named).take 2) ∧
      (s.ing.picked = n + 1 ∨ s.now < s.tref → exec (.pick copies gen) s = .next s)) ∧
    (∀ copies : Bool,
      (s.trk.done ≠ n + 1 → s.fus.start + s.fget Reg.TRK_CTRL_trk_at_us * 1000 ≤ s.now → ∃ t, exec (.trackUpdate copies) s = .next t ∧
        t.trk.done = n + 1 ∧ t.fget Reg.TRK_STATUS_published = n % 2 ^ 32 ∧ t.fget Reg.TRK_STATUS_live = t.trk.tracks.length % 2 ^ 13 ∧
        (s.hubLate 1 = true ∨ copies = true → t.trk.tracks = s.trk.tracks) ∧
        (s.hubLate 1 = false → copies = true → ∃ e ∈ t.raised, e.code = 0x2408 ∧ e.time = s.now)) ∧
      (s.trk.done = n + 1 ∨ s.now < s.fus.start + s.fget Reg.TRK_CTRL_trk_at_us * 1000 → exec (.trackUpdate copies) s = .next s))

/-- R257–R263: Device Time and gPTP. -/
def Obligations.TimeAndSync : Prop :=
  (∀ (s : State) (port domain gm delay interval : Nat) (raw : Int),
    let myDom := s.fget Reg.ING_DT_CTRL_domain
    (s.fget Reg.ING_DT_CTRL_ptp_en = 0 ∨ port ≠ s.ptpPort ∨ domain ≠ (if 127 < myDom then 0 else myDom) ∨ interval ∉ syncIntervals →
      exec (.gptpSync port domain gm raw delay interval) s = .next s) ∧
    (s.fget Reg.ING_DT_CTRL_ptp_en = 1 → port = s.ptpPort → domain = (if 127 < myDom then 0 else myDom) → interval ∈ syncIntervals →
      gm < 2 ^ 64 → ∀ offset, offset = raw + (s.fget Reg.ING_PTP_LAT_rx_lat : Int) →
      (s.tim.gm ≠ 0 → s.tim.gm ≠ gm →
        ∃ t, exec (.gptpSync port domain gm raw delay interval) s = .next t ∧ t.rd Reg.ING_DT_OFFSET = BitVec.ofInt 64 offset ∧
          t.dtState = 1 ∧ t.rd Reg.ING_GM_ID = BitVec.ofNat 64 gm ∧ t.tim.near = 0 ∧ t.tim.gm = gm ∧ s.event 0x02C3 8 0xFF 0 ∈ t.raised ∧
          t.fget Reg.ING_DT_STATUS_gm_changes = s.counted Reg.ING_DT_STATUS_gm_changes 1) ∧
      (s.tim.gm = 0 ∨ s.tim.gm = gm → ∀ phase, phase = offset - i64Of (s.rd Reg.ING_DT_OFFSET) →
        (s.dtState = 2 → ∃ t, exec (.gptpSync port domain gm raw delay interval) s = .next t ∧ t.dtState = 2 ∧
          t.fget Reg.ING_DT_ERR_phase_err = sat32 phase ∧ t.rd Reg.ING_DT_OFFSET = s.rd Reg.ING_DT_OFFSET ∧ t.now = s.now ∧
          t.rd Reg.ING_GM_ID = BitVec.ofNat 64 gm ∧ t.fget Reg.ING_DT_STATUS_is_gm = 0) ∧
        (s.dtState ≠ 2 → (s.dtState = 1 ∧ 1000 < phase.natAbs) ∨ (s.dtState = 1 ∧ s.tim.near < 7) ∨ s.dtState ≠ 1 →
          ∃ t, exec (.gptpSync port domain gm raw delay interval) s = .next t ∧ t.dtState = 1 ∧ t.now = s.now ∧
            t.rd Reg.ING_DT_OFFSET = s.rd Reg.ING_DT_OFFSET ∧
            t.tim.near = if phase.natAbs ≤ 1000 then (if s.dtState = 1 then s.tim.near else 0) + 1 else 0) ∧
        (s.dtState = 1 → 7 ≤ s.tim.near → phase.natAbs ≤ 1000 →
          ∃ t, exec (.gptpSync port domain gm raw delay interval) s = .next t ∧ t.dtState = 2 ∧ s.event 0x02C1 8 0xFF 0 ∈ t.raised ∧
            t.tim.everLocked = true ∧
            (s.tim.everLocked = true → t.rd Reg.ING_DT_OFFSET = s.rd Reg.ING_DT_OFFSET ∧ t.now = s.now) ∧
            (s.tim.everLocked = false → s.tim.everBoundary = false → s.fget Reg.ING_DT_CTRL_step_en = 1 → 0 < offset →
              t.rd Reg.ING_DT_NOW = BitVec.ofInt 64 ((s.now : Int) + offset) ∧ t.rd Reg.ING_DT_OFFSET = 0 ∧
              t.fget Reg.ING_DT_STATUS_stepped = 1) ∧
            (s.tim.everLocked = false → s.tim.everBoundary = true ∨ s.fget Reg.ING_DT_CTRL_step_en = 0 ∨ offset ≤ 0 →
              t.now = s.now ∧ t.rd Reg.ING_DT_OFFSET = BitVec.ofInt 64 offset))))) ∧
  (∀ (s : State) (lost : Bool),
    ((s.dtState = 1 ∨ s.dtState = 2) → s.fget Reg.ING_DT_STATUS_is_gm = 0 → lost = true ∨ s.tim.syncAt + 3 * s.tim.syncNs ≤ s.now →
      ∃ t, exec (.syncTimeout lost) s = .next t ∧ Becomes s t [(Reg.ING_DT_STATUS_state, 3)] [s.event 0x02C2 8 0xFF 0]) ∧
    ((lost = false ∧ s.now < s.tim.syncAt + 3 * s.tim.syncNs) ∨ s.dtState = 0 ∨ s.dtState = 3 ∨ s.fget Reg.ING_DT_STATUS_is_gm = 1 →
      exec (.syncTimeout lost) s = .next s)) ∧
  (∀ s : State,
    let due := ∀ a, s.tim.sentAt = some a → a + 10 ^ 9 / 2 ^ min 7 (s.fget Reg.ING_DT_CTRL_sync_lg) ≤ s.now
    let tx := s.fget Reg.ING_PTP_LAT_tx_lat
    let pd := Msg.pdelay s.ptpPort (s.now + tx)
    let sync := Msg.sync s.ptpPort (((s.now : Int) + tx + i64Of (s.rd Reg.ING_DT_OFFSET)) % (2 ^ 64 : Nat)).toNat
    let sent := (Reg.ETH_CNT_TX_frames s.ptpPort, s.counted (Reg.ETH_CNT_TX_frames s.ptpPort) 1)
    let waits (m : Msg) : EthState := { s.eth with waiting := s.eth.waiting ++ [(s.ptpPort, m)] }
    (s.fget Reg.ING_DT_CTRL_ptp_en = 1 → ∃ t, exec .peerDelayRequest s = .next t ∧
      (s.gateOpen s.ptpPort pd = true → Becomes { s with out := s.out ++ [pd] } t [sent] []) ∧
      (s.gateOpen s.ptpPort pd = false → t = { s with eth := waits pd })) ∧
    (s.fget Reg.ING_DT_CTRL_ptp_en = 1 → s.fget Reg.ING_DT_CTRL_gm_capable = 1 → s.fget Reg.ING_DT_CTRL_ext_port = 0 → due →
      ∃ t, exec .gmSyncTransmit s = .next t ∧
        let u : State := { s with tim := { s.tim with sentAt := some s.now, gm := 2 ^ 64 } }
        (s.gateOpen s.ptpPort sync = true → Becomes { u with out := s.out ++ [sync] } t
          [sent, (Reg.ING_DT_STATUS_state, 2), (Reg.ING_DT_STATUS_is_gm, 1)] []) ∧
        (s.gateOpen s.ptpPort sync = false → Becomes { u with eth := waits sync } t
          [(Reg.ING_DT_STATUS_state, 2), (Reg.ING_DT_STATUS_is_gm, 1)] [])) ∧
    (s.fget Reg.ING_DT_CTRL_ptp_en = 0 → exec .peerDelayRequest s = .next s ∧ exec .gmSyncTransmit s = .next s) ∧
    (s.fget Reg.ING_DT_CTRL_gm_capable = 0 ∨ s.fget Reg.ING_DT_CTRL_ext_port = 1 ∨ ¬ due → exec .gmSyncTransmit s = .next s)) ∧
  (∀ (s : State) (n : Nat) (d : Int), n < 8 →
    let u := s.queueMsg n (timeSlot s.now)
    (s.beaconsTo n = false → s.dieUp n = true → n ∉ s.tim.stepDue → ∃ t, exec (.time n d) s = .next t ∧
      Becomes { u with tim := { s.tim with
        beaconAt := smPut 0 s.tim.beaconAt n s.now
        held := smPut 0 s.tim.held n (if 0 < d then s.now + d.toNat else 0) } } t
        (if 16 < d.natAbs then [(Reg.ING_CNT_TIME_CORR_count, s.counted Reg.ING_CNT_TIME_CORR_count 1)] else [])
        ((if 16 < d.natAbs then [s.event 0x12C5 n 0xFF 0] else []) ++ (if 64 < d.natAbs then [s.event 0x32C6 n 0xFF 0] else []))) ∧
    (s.beaconsTo n = false → s.dieUp n = true → n ∈ s.tim.stepDue → ∃ t, exec (.time n d) s = .next t ∧ t = { u with tim := { s.tim with
      beaconAt := smPut 0 s.tim.beaconAt n s.now, stepDue := without n s.tim.stepDue } }) ∧
    (s.beaconsTo n = true → ∃ t, exec (.time n d) s = .next t ∧ t = { u with tim := { s.tim with
      beaconAt := smPut 0 s.tim.beaconAt n s.now, held := smPut 0 s.tim.held n 0, stepDue := without n s.tim.stepDue } }) ∧
    (s.beaconsTo n = false → s.dieUp n = false → exec (.time n d) s = .next s) ∧
    (s.dieUp n = true → s.pow.phase = .running → smGet 0 s.tim.beaconAt n + 10000 ≤ s.now → ∃ t, exec (.timeBeaconLoss n) s = .next t ∧
      Becomes { s with tim := { s.tim with beaconAt := smPut 0 s.tim.beaconAt n s.now } } t [] [s.event 0x32C6 n 0xFF 0]) ∧
    (s.now < smGet 0 s.tim.beaconAt n + 10000 → exec (.timeBeaconLoss n) s = .next s))

/-- R264, R269–R271, R276, R458: trigger outputs and CSI-2 frames. -/
def Obligations.TriggersAndFrames : Prop :=
  (∀ (s : State) (n e : Nat), n < 16 → s.fget (Reg.ING_TRIG8_en n) = 1 → s.trigOk n = true → s.edgeBefore n s.now = e → s.now ≤ e + 10 →
    (∀ l, (s.trigAt n).seen = some l → l < e) →
    ((∀ l, (s.trigAt n).edges.head? = some l → (s.trigAt n).changed = true → l + s.fget (Reg.ING_TRIG8_width_us n) * 1000 + 1000 ≤ e) →
      ∃ t, exec (.triggerEdge n) s = .next t ∧
        Becomes { s.setTrig n { edges := (e :: (s.trigAt n).edges).take 128, seen := some e,
                                off := some (e + s.fget (Reg.ING_TRIG8_width_us n) * 1000), changed := false } with
          pins := { s.pins with trig := setBit s.pins.trig n true } } t
          [(Reg.ING_TRIG8_count n, (s.fget (Reg.ING_TRIG8_count n) + 1) % 2 ^ 32)] []) ∧
    (∀ l, (s.trigAt n).edges.head? = some l → (s.trigAt n).changed = true → e < l + s.fget (Reg.ING_TRIG8_width_us n) * 1000 + 1000 →
      ∃ t, exec (.triggerEdge n) s = .next t ∧ Becomes (s.setTrig n { s.trigAt n with seen := some e }) t
        [(Reg.ING_CNT_TRIG_SKIP_count, s.counted Reg.ING_CNT_TRIG_SKIP_count 1)] [s.event 0x02CF 8 0xFF (detTrig n)])) ∧
  (∀ (s : State) (n : Nat), s.fget (Reg.ING_TRIG8_en n) = 0 ∨ s.trigOk n = false ∨ (∃ l, (s.trigAt n).seen = some l ∧ s.now ≤ l) →
    exec (.triggerEdge n) s = .next s) ∧
  (∀ (s : State) (n off : Nat), (s.trigAt n).off = some off → off ≤ s.now → ∃ t, exec (.triggerWidthEnd n) s = .next t ∧
    t = { s.setTrig n { s.trigAt n with off := none } with pins := { s.pins with trig := setBit s.pins.trig n false } }) ∧
  (∀ (s : State) (port vc n hdr : Nat) (dev : Int) (emb : List Byte), s.csiSensor port vc = some n → n < 64 →
    ∃ t f, exec (.frameStart port vc hdr dev emb) s = .next t ∧ (t.sensor n).cur = some f ∧ f.stamp = s.csiStamp port dev ∧ f.data = [] ∧
      f.corrupt = (hdr == 2 || (s.flag (Reg.ING_SENSOR00_emb_en n) && (s.embedded n emb).isNone)) ∧
      t.rd (Reg.ING_STAT8 n) = BitVec.ofNat 64 (s.csiStamp port dev) ∧
      t.fget (Reg.ING_CNT_FRAMES_count n) = s.counted (Reg.ING_CNT_FRAMES_count n) 1 ∧
      ∀ m < 64, m ≠ n → t.sensor m = s.sensor m ∧ t.snState m = s.snState m) ∧
  (∀ (s : State) (port vc n dt fill : Nat) (crc gen : Bool) (f : Frame) (bs : List Byte), s.csiSensor port vc = some n → n < 64 →
    (s.sensor n).cur = some f → f.corrupt = false →
    let want := s.fget (Reg.ING_SENSOR08_dt n)
    let u : State := { s with ing := { s.ing with fill := smPut 0 s.ing.fill port (min 262144 fill) } }
    let told := if gen = true then [s.event 0x25C4 8 0xFF 0] else []
    (crc = false → fill ≤ 262144 → dt = want → ∃ t, exec (.csi2LongPacket port vc dt 0 fill crc gen bs) s = .next t ∧
      t = { u.setSensor n { s.sensor n with cur := some { f with data := f.data ++ bs, poisoned := f.poisoned || gen } } with
        raised := s.raised ++ told }) ∧
    (crc = false → fill ≤ 262144 → dt ≠ want → dt = 0x12 → ∃ t, exec (.csi2LongPacket port vc dt 0 fill crc gen bs) s = .next t ∧
      t = { u with raised := s.raised ++ told }) ∧
    (crc = true ∨ 262144 < fill ∨ (dt ≠ want ∧ dt ≠ 0x12) → ∃ t, exec (.csi2LongPacket port vc dt 0 fill crc gen bs) s = .next t ∧
      Becomes (u.setSensor n { s.sensor n with cur := some { f with corrupt := true } }) t
        [(Reg.ING_CNT_CORRUPT_count n, s.counted (Reg.ING_CNT_CORRUPT_count n) 1)] (s.event 0x22CA 8 0xFF n :: told))) ∧
  (∀ (s : State) (port vc n : Nat) (f : Frame), s.csiSensor port vc = some n → n < 64 → (s.sensor n).cur = some f →
    (f.corrupt = true → ∃ t, exec (.frameEnd port vc 0) s = .next t ∧
      t = (s.setSensor n { s.sensor n with cur := none }).setSensor n { s.sensor n with cur := none, prevCnt := some f.counter }) ∧
    (f.corrupt = false → f.dropped = false → s.fget Reg.SAF_FF_CTRL_ff_en = 0 → s.fget (Reg.ING_SENSOR00_src n) = 0 →
      lineBytes (s.fget (Reg.ING_SENSOR08_dt n)) (readProfile f.prof).inW * (readProfile f.prof).inH ≤ f.data.length →
      ∃ t, exec (.frameEnd port vc 0) s = .next t ∧ t = { s with ing := t.ing } ∧ (t.sensor n).cur = none ∧
        (t.sensor n).queue = (s.sensor n).queue ++ [f]) ∧
    (f.corrupt = false → s.fget Reg.SAF_FF_CTRL_ff_en = 1 → bit (s.fget Reg.SAF_FF_EN_en) n = true →
      s.fget (Reg.ING_SENSOR00_emb_en n) = 1 → (s.sensor n).prevCnt = some f.counter → n ∉ s.ing.frozen →
      ∃ t, exec (.frameEnd port vc 0) s = .next t ∧ (t.sensor n).cur = none ∧ (t.sensor n).queue = (s.sensor n).queue ∧
        (t.sensor n).done = (s.sensor n).done ∧ t.fget (Reg.SAF_CNT_FF_count n) = s.counted (Reg.SAF_CNT_FF_count n) 1 ∧
        t.raised = s.raised ++ [s.event 0x2608 8 0x20 n])) ∧
  (∀ (s : State) (n : Nat), n < 64 → s.snState n = 1 ∨ s.snState n = 2 ∨ s.snState n = 3 →
    (s.sensor n).since + 3 * s.fget (Reg.ING_SENSOR00_period_ns n) ≤ s.now → ∃ t, exec (.sensorAbsent n) s = .next t ∧
      Becomes (s.setSensor n { s.sensor n with prev := none }) t [(Reg.ING_STAT0_state n, 4)] [s.event 0x22CD 8 0xFF n]) ∧
  (∀ (s : State) (port vc dt hdr fill : Nat) (dev : Int) (crc gen : Bool) (bs : List Byte), s.csiSensor port vc = none →
    exec (.frameStart port vc hdr dev bs) s = .next s ∧ exec (.csi2LongPacket port vc dt hdr fill crc gen bs) s = .next s ∧
    exec (.frameEnd port vc hdr) s = .next s)

/-- R341–R349, R353: what arrives at a link module and leaves it, and what fences it. -/
def Obligations.LinkModules : Prop :=
  (∀ (s : State) (m : Nat) (flit : List Byte), s.hasMod m = true → m < 48 → s.modState m = 2 ∨ s.modState m = 3 → flit.length = 256 →
    let x := s.lmod m
    let w := u flit 0 8
    let h := x.heard w s.now
    let good := crc64 (flit.take 248) = u flit 248 8
    (∃ t, exec (.flitReceive m flit false) s = .next t ∧ t = s.retrain m) ∧
    (¬ good → ∃ t u, exec (.flitReceive m flit true) s = .next t ∧
      OneMod s u m { x with fails := x.fails + b2n (!x.discard), discard := true, lost := x.lost + 1, nak := true } ∧
      Becomes { s with lnk := { s.lnk with mods := u.lnk.mods } } u [(modField m, 3),
        (Reg.LNK_CNT_CRC_count (modReg m).1 (modReg m).2, s.counted (Reg.LNK_CNT_CRC_count (modReg m).1 (modReg m).2) 1)] [s.linkEvent 0x1441 m] ∧
      t = if 4 ≤ x.fails + b2n (!x.discard) then u.retrain m else u.transmit m) ∧
    (good → bits w 27 26 = 1 → bits w 11 0 = x.next → x.discard = false →
      ∃ t, exec (.flitReceive m flit true) s = .next t ∧
        let a := s.takeSlots x (sliceB flit 8 240)
        t = if a.first = bits w 31 28 then (s.setLmod m { h with
            next := (x.next + 1) % 4096, fails := 0, ack := some x.next, slots := sliceB flit 8 240, msgs := a.msgs, part := a.part,
              left := a.left }).transmit m
          else (s.setLmod m h).retrain m) ∧
    (good → bits w 27 26 = 2 → x.discard = true →
      ∀ rs, rs = ((s.now, x.lost) :: x.replays).filter (fun r => decide (s.now < r.1 + 10000 * flitNs m)) → sumBy Prod.snd rs ≤ 100 →
      ∃ t u, exec (.flitReceive m flit true) s = .next t ∧ OneMod s u m { h with discard := false, lost := 0, nak := false, replays := rs } ∧
        Becomes { s with lnk := { s.lnk with mods := u.lnk.mods } } u [(modField m, 2)] [] ∧ t = u.transmit m)) ∧
  (∀ (s : State) (m : Nat), s.modState m = 2 ∨ s.modState m = 3 →
    let x := s.lmod m
    let sends (y : LinkMod) (bytes : List Byte) : Prop := OneMod s (s.transmit m) m y ∧
      s.transmit m = { s with out := s.out ++ [.flit m bytes], lnk := { s.lnk with mods := (s.transmit m).lnk.mods } }
    (x.marker = true → sends { x with marker := false } (flitBytes x ((x.redo.head?.map TxFlit.seq).getD x.txNext) 2 15 [])) ∧
    (x.marker = false → ∀ f rest, x.redo = f :: rest → sends { x with redo := rest } (flitBytes x f.seq 1 f.first f.slots)) ∧
    (x.marker = false → x.redo = [] → x.txQueue = [] → sends x (flitBytes x x.txNext 0 15 [])) ∧
    (x.marker = false → x.redo = [] → x.txQueue ≠ [] → x.sent.length ≤ 63 →
      ∀ f : TxFlit, f = { seq := x.txNext, first := firstOf (x.txQueue.take 15), slots := (x.txQueue.take 15).flatMap Prod.fst } →
      sends { x with txQueue := x.txQueue.drop 15, txNext := (x.txNext + 1) % 4096, sent := x.sent ++ [f] }
        (flitBytes x f.seq 1 f.first f.slots))) ∧
  (∀ (s : State) (m : Nat), s.hasMod m = true → m < 48 → m ≠ 8 → s.hasMod (s.farEnd m) = true → s.farEnd m ≠ m →
    let both := s.modState (s.farEnd m) = 2 ∨ s.modState (s.farEnd m) = 3
    Becomes { s with lnk := { s.lnk with mods := (s.retrain m).lnk.mods } } (s.retrain m)
      ((modField m, 4) :: if both then [(modField (s.farEnd m), 4)] else []) [] ∧
    ∀ k, (s.retrain m).lmod k = if k = m ∨ (both ∧ k = s.farEnd m) then { s.lmod k with fails := 0, replays := [] } else s.lmod k) ∧
  (∀ (s : State) (m lanes lat : Nat), s.hasMod m = true → m < 48 → s.modState m = 4 → m = 8 ∨ (s.hasMod (s.farEnd m) = true ∧ s.farEnd m ≠ m) →
    ∀ w k, modReg m = (w, k) → ∀ fw fk, modReg (s.farEnd m) = (fw, fk) →
    (s.fget (Reg.LNK_MOD_rx_repaired w k) + lanes ≤ 4 → m ≠ 8 ∨ lanes = 0 → ∃ t, exec (.retrainDone m true lanes lat) s = .next t ∧
      OneMod s t m { s.lmod m with
        discard := false, lost := 0, nak := false, goodAt := s.now, marker := true, redo := (s.lmod m).after (s.lmod m).peerAck, redoAt := none } ∧
      Becomes { s with lnk := { s.lnk with mods := t.lnk.mods } } t
        ([(Reg.LNK_MOD_state w k, 2), (Reg.LNK_MOD_latency_ns w k, lat % 65536),
          (Reg.LNK_MOD_rx_repaired w k, s.fget (Reg.LNK_MOD_rx_repaired w k) + lanes),
          (Reg.LNK_MOD_tx_repaired w k, min 4 (s.fget (Reg.LNK_MOD_tx_repaired w k))),
          (Reg.LNK_CNT_LANE_count w k, s.counted (Reg.LNK_CNT_LANE_count w k) lanes),
          (Reg.LNK_CNT_RETRAIN_count w k, s.counted (Reg.LNK_CNT_RETRAIN_count w k) 1)] ++
          if m = 8 then [] else [(Reg.LNK_MOD_tx_repaired fw fk, min 4 (s.fget (Reg.LNK_MOD_tx_repaired fw fk) + lanes)),
            (Reg.LNK_MOD_rx_repaired fw fk, min 4 (s.fget (Reg.LNK_MOD_rx_repaired fw fk)))])
        (List.replicate lanes (s.linkEvent 0x1443 m) ++ [s.linkEvent 0x1442 m])) ∧
    (∀ ok, ok = false ∨ 4 < s.fget (Reg.LNK_MOD_rx_repaired w k) + lanes ∨ (m = 8 ∧ lanes ≠ 0) →
      ∃ t v, exec (.retrainDone m ok lanes lat) s = .next t ∧ t = v.fenceMod m ∧
      Becomes s v [(Reg.LNK_CNT_RETRAIN_count w k, s.counted (Reg.LNK_CNT_RETRAIN_count w k) 1)] [])) ∧
  (∀ (s : State) (m n : Nat) (ok : Bool) (flit : List Byte) (centres : List Int),
    (s.modState m ≠ 2 → s.modState m ≠ 3 → exec (.flitReceive m flit ok) s = .next s ∧ exec (.linkSilence m) s = .next s) ∧
    (s.modState m ≠ 4 → exec (.retrainDone m ok n n) s = .next s) ∧ (s.modState m ≠ 2 → exec (.eyeSweep m centres n) s = .next s) ∧
    (s.modState m ≠ 1 → s.modState m ≠ 2 → exec (.latencyEcho m n) s = .next s) ∧
    ((s.lmod m).copying = false → exec (.laneSwapDone m ok) s = .next s)) ∧
  (∀ (s : State) (m : Nat), s.hasMod m = true → s.modState m = 2 ∨ s.modState m = 3 →
    ((s.lmod m).goodAt + 256 ≤ s.now → ∃ t, exec (.linkSilence m) s = .next t ∧ t = s.fenceMod m) ∧
    (s.now < (s.lmod m).goodAt + 256 → exec (.linkSilence m) s = .next s)) ∧
  (∀ (s : State) (n m : Nat), m = 17 + 4 * n ∨ m = 18 + 4 * n → s.part.tzCount ∈ [2, 4, 8] → s.dieUp n = true → s.dieUp (s.faces m) = true →
    bit (s.fget Reg.LNK_FENCE_ring) (s.ringOf m) = false →
    Becomes { s with lnk := { s.lnk with ringTry := smPut 0 s.lnk.ringTry (s.ringOf m) s.now } } (s.fenceMod m)
      [(Reg.LNK_FENCE_ring, setBit (s.fget Reg.LNK_FENCE_ring) (s.ringOf m) true), (modField (s.farEnd m), 5), (modField m, 5)]
      [s.linkEvent 0x1445 m]) ∧
  (∀ (s : State) (m lat : Nat), s.hasMod m = true → s.modState m = 1 ∨ s.modState m = 2 → ∃ t, exec (.latencyEcho m lat) s = .next t ∧
    Becomes s t [(Reg.LNK_MOD_latency_ns (modReg m).1 (modReg m).2, lat % 65536)] []) ∧
  (∀ (s : State) (m margin : Nat) (centres : List Int), s.hasMod m = true → s.modState m = 2 → (s.lmod m).sweepAt + 1000000 ≤ s.now →
    ∀ w k, modReg m = (w, k) → ∀ sam, sam = ((List.range centres.length).map fun i => recentre (nth 0 (s.lmod m).samplers i) (nth 0 centres i)) →
    (s.fget Reg.LNK_CTRL_eye_warn ≤ min 63 margin → ∃ t, exec (.eyeSweep m centres margin) s = .next t ∧
      OneMod s t m { s.lmod m with sweepAt := s.now, samplers := sam } ∧
      Becomes { s with lnk := { s.lnk with mods := t.lnk.mods } } t [(Reg.LNK_MOD_eye_min w k, min 63 margin)] []) ∧
    (min 63 margin < s.fget Reg.LNK_CTRL_eye_warn → (s.lmod m).eyeAt = none → ∃ t, exec (.eyeSweep m centres margin) s = .next t ∧
      OneMod s t m { s.lmod m with
        sweepAt := s.now, samplers := sam, eyeAt := some s.now
        copying := (s.lmod m).copying || (m != 8 && decide (s.fget (Reg.LNK_MOD_rx_repaired w k) < 4)) } ∧
      Becomes { s with lnk := { s.lnk with mods := t.lnk.mods } } t [(Reg.LNK_MOD_eye_min w k, min 63 margin)] [s.linkEvent 0x0444 m])) ∧
  (∀ (s : State) (m : Nat) (same : Bool), s.hasMod m = true → m < 48 → m ≠ 8 → s.hasMod (s.farEnd m) = true → s.farEnd m ≠ m →
    (s.lmod m).copying = true → ∀ w k, modReg m = (w, k) → ∀ fw fk, modReg (s.farEnd m) = (fw, fk) →
    ∃ t, exec (.laneSwapDone m same) s = .next t ∧ OneMod s t m { s.lmod m with copying := false } ∧
      (same = true → s.modState m = 2 → Becomes { s with lnk := { s.lnk with mods := t.lnk.mods } } t
        [(Reg.LNK_MOD_rx_repaired w k, min 4 (s.fget (Reg.LNK_MOD_rx_repaired w k) + 1)),
         (Reg.LNK_MOD_tx_repaired w k, min 4 (s.fget (Reg.LNK_MOD_tx_repaired w k))),
         (Reg.LNK_MOD_tx_repaired fw fk, min 4 (s.fget (Reg.LNK_MOD_tx_repaired fw fk) + 1)),
         (Reg.LNK_MOD_rx_repaired fw fk, min 4 (s.fget (Reg.LNK_MOD_rx_repaired fw fk))),
         (Reg.LNK_CNT_LANE_count w k, s.counted (Reg.LNK_CNT_LANE_count w k) 1)] [s.linkEvent 0x1443 m]) ∧
      (same = false ∨ s.modState m ≠ 2 → t = { s with lnk := { s.lnk with mods := t.lnk.mods } }))

/-- R350–R357: fencing notices, training, and the partner link. -/
def Obligations.FencesAndTraining : Prop :=
  (∀ (s : State) (n die : Nat), n < 8 → s.dieUp n = true →
    (s.hasDie die = true → s.dieState die = 2 → ∃ t, exec (.fenceNotice n die) s = .next t ∧ t = { s with regs := t.regs } ∧
      (∀ m ∈ [17 + 4 * n, 18 + 4 * n], t.modState m = if s.faces m = die then 5 else s.modState m) ∧
      RegsBut s t [(modField (17 + 4 * n)).addr, (modField (18 + 4 * n)).addr]) ∧
    (s.dieState die ≠ 2 → exec (.fenceNotice n die) s = .next s) ∧
    (s.dieUp die = true → ∃ t, exec (.unfenceNotice n die) s = .next t ∧
      t = { s with lnk := { s.lnk with barred := s.lnk.barred.filter fun m => !((m == 17 + 4 * n || m == 18 + 4 * n) && s.faces m == die) } })) ∧
  (∀ (s : State) (n : Nat) (ok : Bool) (east west lat : Nat), n < 8 → s.part.tzCount ∈ [2, 4, 8] → s.dieUp n = true →
    s.dieUp (s.faces (17 + 4 * n)) = true →
    bit (s.fget Reg.LNK_FENCE_ring) n = true → n ∉ s.lnk.ringBack →
    let g := s.faces (17 + 4 * n)
    let rx (w : Nat) (k : Nat) : Nat := s.fget (Reg.LNK_MOD_rx_repaired (.die w) k)
    let tx (w : Nat) (k : Nat) : Nat := s.fget (Reg.LNK_MOD_tx_repaired (.die w) k)
    let u (back : List Nat) : State := { s with lnk := { s.lnk with ringTry := smPut 0 s.lnk.ringTry n s.now, ringBack := back } }
    let tried := (Reg.LNK_CNT_RETRAIN_count (.die n) 1, s.counted (Reg.LNK_CNT_RETRAIN_count (.die n) 1) 1)
    (s.now < smGet 0 s.lnk.ringTry n + 10 ^ 9 → exec (.ringRetrain n ⟨ok, east, west, lat⟩) s = .next s) ∧
    (smGet 0 s.lnk.ringTry n + 10 ^ 9 ≤ s.now →
      (ok = true → rx n 1 + east ≤ 4 → rx g 2 + west ≤ 4 → ∃ t, exec (.ringRetrain n ⟨ok, east, west, lat⟩) s = .next t ∧
        Becomes (u (s.lnk.ringBack ++ [n])) t
          [tried, (Reg.LNK_MOD_latency_ns (.die n) 1, lat % 65536), (Reg.LNK_MOD_latency_ns (.die g) 2, lat % 65536),
           (Reg.LNK_MOD_rx_repaired (.die n) 1, rx n 1 + east), (Reg.LNK_MOD_tx_repaired (.die n) 1, min 4 (min 4 (tx n 1) + west)),
           (Reg.LNK_MOD_rx_repaired (.die g) 2, min 4 (rx g 2) + west), (Reg.LNK_MOD_tx_repaired (.die g) 2, min 4 (tx g 2 + east)),
           (Reg.LNK_CNT_LANE_count (.die n) 1, s.counted (Reg.LNK_CNT_LANE_count (.die n) 1) east),
           (Reg.LNK_CNT_LANE_count (.die g) 2, s.counted (Reg.LNK_CNT_LANE_count (.die g) 2) west)]
          (List.replicate east (s.linkEvent 0x1443 (17 + 4 * n)) ++ List.replicate west (s.linkEvent 0x1443 (18 + 4 * g)))) ∧
      (ok = false ∨ 4 < rx n 1 + east ∨ 4 < rx g 2 + west → ∃ t, exec (.ringRetrain n ⟨ok, east, west, lat⟩) s = .next t ∧
        Becomes (u s.lnk.ringBack) t [tried] []))) ∧
  (∀ (s : State) (n : Nat), n < 8 → s.dieUp n = true → s.pow.phase = .booting → s.modState n = 1 → s.fget (Reg.RST_DIE_state n) ≠ 4 →
    (∃ t, exec (.linkTrainingDone n true 0 0) s = .next t ∧ t.modState n = 2 ∧ t.modState (16 + 4 * n) = 2 ∧ t.raised = s.raised) ∧
    (∃ t, exec (.linkTrainingDone n false 0 0) s = .next t ∧ t = s.fenceDie n)) ∧
  (∀ (s : State) (w : Nat), s.part.partner = true → s.fget Reg.LNK_PARTNER_STATUS_state = 2 → s.lnk.partner.step = 4 →
    s.lnk.partner.offer = w → ∃ t, exec (.linkTrainingDone 8 true 0 0) s = .next t ∧ OneMod s t 8 { goodAt := s.now } ∧
      Becomes { s with lnk := { s.lnk with mods := t.lnk.mods, partner := { s.lnk.partner with step := 0 } } } t
        [(Reg.LNK_MOD_state .hub 8, 2), (Reg.LNK_PARTNER_STATUS_state, 3), (Reg.LNK_PARTNER_STATUS_lat_ns, bits w 43 32),
         (Reg.LNK_PARTNER_STATUS_credits, if bit w 44 then min 32 (max 1 (s.fget Reg.LNK_CTRL_partner_credits)) else 0),
         (Reg.LNK_PARTNER_STATUS_win_mib, bits w 31 16), (Reg.LNK_PARTNER_STATUS_max_out, bits w 15 8)]
        [s.event 0x044D 8 0xFF (detLink 8 15)]) ∧
  (∀ (s : State) (ok : Bool) (tx rx : Nat), s.part.partner = true →
    (s.lnk.partner.step = 1 → ok = true → ∃ t, exec (.linkTrainingDone 8 ok tx rx) s = .next t ∧
      Becomes { s with lnk := { s.lnk with partner := { s.lnk.partner with step := 2, since := s.now } } } t
        [(Reg.LNK_PARTNER_STATUS_state, 2)] []) ∧
    (s.lnk.partner.step = 1 → ok = false → ∃ t, exec (.linkTrainingDone 8 ok tx rx) s = .next t ∧ t = s.partnerDown 0) ∧
    (s.lnk.partner.step = 4 → s.fget Reg.LNK_PARTNER_STATUS_state = 2 → ok = false ∨ tx + rx ≠ 0 →
      ∃ t, exec (.linkTrainingDone 8 ok tx rx) s = .next t ∧ t = s.partnerDown 0)) ∧
  (∀ (s : State) (w : Nat), s.lnk.partner.step ≠ 2 → exec (.paramOffer w) s = .next s) ∧
  (∀ (s : State) (w : Nat), w < 2 ^ 64 → s.lnk.partner.step = 2 →
    (offerOk w = true → ∃ t, exec (.paramOffer w) s = .next t ∧
      t = { s with
        out := s.out ++ [Msg.grant (1 + (if bit w 44 then min 32 (max 1 (s.fget Reg.LNK_CTRL_partner_credits)) else 0) * 2 ^ 8 +
          bits w 31 16 * 2 ^ 16 + 2 ^ 32)]
        lnk := { s.lnk with partner := { s.lnk.partner with step := 4, since := s.now, offer := w } } }) ∧
    (offerOk w = false → ∃ t, exec (.paramOffer w) s = .next t ∧ t = { s with out := s.out ++ [Msg.grant 1] }.partnerDown 0)) ∧
  (∀ s : State, (s.lnk.partner.step ≠ 0 → s.lnk.partner.since + 10000000 ≤ s.now →
      ∃ t, exec .partnerStepTimeout s = .next t ∧ t = s.partnerDown 0) ∧
    (s.lnk.partner.step = 0 ∨ s.now < s.lnk.partner.since + 10000000 → exec .partnerStepTimeout s = .next s)) ∧
  (∀ (s : State) (st : Nat), st < 8 → (∀ r ∈ s.lnk.reqs, r.dest ≠ 9) →
    Becomes { s with lnk := { s.lnk with partner := { s.lnk.partner with step := 0, queue := [], retryAt := some (s.now + 100000000) } } }
      (s.partnerDown st) [(Reg.LNK_MOD_state .hub 8, st), (Reg.LNK_PARTNER_STATUS_state, 4)] [s.event 0x044C 8 0xFF (detLink 8 15)]) ∧
  (∀ (s : State) (at_ : Nat), s.lnk.partner.retryAt = some at_ → at_ ≤ s.now → s.fget Reg.LNK_PARTNER_STATUS_state = 4 →
    s.fget Reg.LNK_CTRL_auto_retry = 1 → s.fget Reg.LNK_CTRL_partner_en = 1 → s.part.partner = true → s.saf.partnerOff = false →
    ∃ t, exec .partnerRetry s = .next t ∧
      Becomes { s with lnk := { s.lnk with partner := { s.lnk.partner with step := 1, since := s.now, retryAt := none } } } t
        [(Reg.LNK_MOD_state .hub 8, 1), (Reg.LNK_PARTNER_STATUS_state, 1)] []) ∧
  (∀ s : State, s.lnk.partner.retryAt = none ∨ s.fget Reg.LNK_CTRL_auto_retry = 0 ∨ s.fget Reg.LNK_PARTNER_STATUS_state ≠ 4 →
    exec .partnerRetry s = .next s)

/-- R343, R346, R358–R362: requests over the links. -/
def Obligations.RequestsAndResponses : Prop :=
  (∀ (s : State) (id ecc : Nat) (c : Instr) (ok : MemReq → Bool) (r : LinkReq),
    (c, ok) ∈ [(Instr.read id ecc, fun (q : MemReq) => !q.write),
      (Instr.write id ecc, fun (q : MemReq) => q.write && q.len == 256 && q.comb.isNone),
      (Instr.writePart id ecc, fun (q : MemReq) => q.write && !(q.len == 256 && q.comb.isNone))] →
    s.req? id = some r →
    (r.reached = true ∨ ok r.req = false ∨ s.nextReq r = false ∨ s.stalled r.die r.dest r.req.addr = true → exec c s = .next s) ∧
    (r.reached = false → ok r.req = true → s.nextReq r = true → s.stalled r.die r.dest r.req.addr = false →
      (r.dest = 9 → s.atPartner < s.fget Reg.LNK_PARTNER_STATUS_max_out → ∃ t, exec c s = .next t ∧
        t = s.setReq { r with reached := true, sent := some s.now }) ∧
      (r.dest = 9 → s.fget Reg.LNK_PARTNER_STATUS_max_out ≤ s.atPartner → exec c s = .next s) ∧
      (r.dest ≠ 9 → ∃ t, exec c s = .next t ∧ t = (s.setReq { r with reached := true }).arrive r.req ecc))) ∧
  (∀ (s : State) (id kind : Nat) (r : LinkReq) (data d : List Byte) (chk e : Nat) (gen : Bool) (c : Instr), s.req? id = some r →
    s.stalled r.dest r.die r.req.addr = false → r.dest ≠ 9 → r.resp = some (d, chk, e) →
    (c, r.req.write, decide (e = 0)) ∈
      [(Instr.rdResp id ⟨data, gen⟩, false, true), (Instr.wrResp id, true, true), (Instr.errResp id kind, r.req.write, false)] →
    (e = 0 ∧ r.req.write = false) ∨ chk = 0 → (e = 0 → r.req.write = true → d = []) →
    (r.late = false → r.gone = false → ∃ t, exec c s = .next t ∧
      t = { s.dropReq r.id with out := s.out ++ [Msg.done r.req.src r.req.agent r.req.addr d chk e] }) ∧
    (r.late = false → r.gone = true → ∃ t, exec c s = .next t ∧ t = s.dropReq r.id) ∧
    (r.late = true → ∃ t, exec c s = .next t ∧ ∀ w k, modReg (s.outModule r) = (w, k) →
      Becomes (s.dropReq r.id) t [(Reg.LNK_CNT_LATE_RESP_count w k, s.counted (Reg.LNK_CNT_LATE_RESP_count w k) 1)] [])) ∧
  (∀ (s : State) (id kind : Nat) (r : LinkReq) (data : List Byte) (gen : Bool), s.req? id = some r → s.stalled 9 r.die r.req.addr = false →
    r.dest = 9 → r.reached = true → r.late = false → r.gone = false →
    let done (d : List Byte) (chk e : Nat) : Msg := .done r.req.src r.req.agent r.req.addr d chk e
    (r.req.write = false → ∃ t, exec (.rdResp id ⟨data, gen⟩) s = .next t ∧
      t = { s.dropReq r.id with raised := s.raised ++ (if gen = true then [s.event 0x25C4 8 0xFF 0] else [])
                                out := s.out ++ [done (sliceB data 0 r.req.len) (if gen = true then 0xFFFFFFFF else 0) 0] }) ∧
    (r.req.write = true → ∃ t, exec (.wrResp id) s = .next t ∧ t = { s.dropReq r.id with out := s.out ++ [done [] 0 0] }) ∧
    (∃ t, exec (.errResp id kind) s = .next t ∧ t = { s.dropReq r.id with out := s.out ++ [done r.req.zeros 0 (kind % 8 + 1)] })) ∧
  (∀ (s : State) (id kind : Nat) (r : LinkReq) (data : List Byte) (gen : Bool), s.req? id = some r → s.stalled r.dest r.die r.req.addr = true →
    exec (.rdResp id ⟨data, gen⟩) s = .next s ∧ exec (.wrResp id) s = .next s ∧ exec (.errResp id kind) s = .next s) ∧
  (∀ (s : State) (id : Nat) (r : LinkReq), s.req? id = some r → r.late = false → r.gone = false →
    let ends (v : State) : State := { v with out := v.out ++ [Msg.done r.req.src r.req.agent r.req.addr r.req.zeros 0 5] }
    (s.now ≤ r.start + 2000 → exec (.requestTimeout id) s = .next s) ∧
    (r.start + 2000 < s.now → ∃ t v, exec (.requestTimeout id) s = .next t ∧
      (∀ w k, modReg (s.outModule r) = (w, k) → Becomes (s.setReq { r with late := true }) v
        [(Reg.LNK_CNT_TIMEOUT_count w k, s.counted (Reg.LNK_CNT_TIMEOUT_count w k) 1)] [s.linkEvent 0x2447 (s.outModule r)]) ∧
      t = ends (v.abortRun r.req.run)) ∧
    (r.sent = none → exec (.partnerResponseTimeout id) s = .next s) ∧
    (∀ sent, r.sent = some sent → (s.now ≤ sent + 1500 → exec (.partnerResponseTimeout id) s = .next s) ∧
      (sent + 1500 < s.now → ∃ t v, exec (.partnerResponseTimeout id) s = .next t ∧
        Becomes (s.setReq { r with late := true }) v
          [(Reg.LNK_CNT_TIMEOUT_count .hub 8, s.counted (Reg.LNK_CNT_TIMEOUT_count .hub 8) 1)] [s.linkEvent 0x244B 8] ∧
        t = ends (v.withhold? r.req.run)))) ∧
  (∀ (s : State) (tag addr len : Nat) (data : Option (List Byte)) (gen : Bool) (n : Nat), s.fget Reg.LNK_PARTNER_STATUS_state = 3 →
    s.partnerOut < s.fget Reg.LNK_PARTNER_STATUS_credits → n = (match data with | some d => d.length | none => len) → n ≠ 0 → addr % 256 + n ≤ 256 →
    (s.fwAllows addr n data.isSome = true → ∃ t q, exec (.partnerRequest tag addr len data gen) s = .next t ∧
      let bad := gen = true ∧ data.isSome = true ∧ n = 256
      t = { s with
        raised := s.raised ++ (if bad then [s.event 0x25C4 8 0xFF 0] else [])
        lnk := { s.lnk with partner := { s.lnk.partner with queue := s.lnk.partner.queue ++ [q] } } } ∧
      q.src = 0xA ∧ q.addr = addr ∧ q.len = n ∧ q.write = data.isSome ∧ q.data = data.getD [] ∧ q.tag = tag ∧
      q.chk = if bad then 0xFFFFFFFF else 0) ∧
    (s.fwAllows addr n data.isSome = false → ∃ t, exec (.partnerRequest tag addr len data gen) s = .next t ∧
      Becomes { s.queueMsg 8 (respHead 6 tag 5) with out := s.out ++ [Msg.pfp 8 6 (respHead 6 tag 5)] } t
        (s.captured Reg.LNK_PARTNER_ERR (bits addr 47 0 + 9 * 2 ^ 48) ++
          [(Reg.LNK_CNT_FW_REFUSE_count, s.counted Reg.LNK_CNT_FW_REFUSE_count 1)]) [s.linkEvent 0x0449 8])) ∧
  (∀ (s : State) (tag addr len : Nat) (data : Option (List Byte)) (gen : Bool),
    s.fget Reg.LNK_PARTNER_STATUS_state ≠ 3 ∨ s.fget Reg.LNK_PARTNER_STATUS_credits ≤ s.partnerOut →
    exec (.partnerRequest tag addr len data gen) s = .next s) ∧
  (∀ s : State, s.lnk.partner.queue = [] → exec .partnerIssue s = .next s) ∧
  (∀ (s : State) (q : MemReq) (rest : List MemReq), s.lnk.partner.queue = q :: rest →
    (s.sysPort 0xA 0 (s.target 0xA q.addr) = none → ∃ t, exec .partnerIssue s = .next t ∧
      t = ({ s with lnk := { s.lnk with partner := { s.lnk.partner with queue := rest } } } : State).send { q with issue := s.now } 0) ∧
    (∀ a b share, s.sysPort 0xA 0 (s.target 0xA q.addr) = some (a, b, share) →
      (share = 0 ∨ s.now < s.lnk.partner.next → exec .partnerIssue s = .next s) ∧
      (share ≠ 0 → s.lnk.partner.next ≤ s.now → ∃ t v, exec .partnerIssue s = .next t ∧ t = v.send { q with issue := s.now } 0 ∧
        Becomes { s with lnk := { s.lnk with partner := { s.lnk.partner with queue := rest, next := s.now + ceilDiv 4000 share } } } v
          [(Reg.LNK_CNT_P_BLK_blocks, s.counted Reg.LNK_CNT_P_BLK_blocks 1)] [])))

/-- Table 17.2, R476, R478, R479: the effect of each class of reset. -/
def Obligations.ResetsClear : Prop :=
  (∀ (s t : State) (causes src cs : Nat), s.part.tzCount ∈ [2, 4, 8] → t = s.appReset causes src →
    cs = causes ||| (if s.fget Reg.PWR_STBY_in_standby = 1 then 2 ^ 9 else 0) →
    (∀ a, keptByApp a = true → a ≠ Reg.RST_CAUSE → a ≠ Reg.SAF_STATUS → t.rd a = s.rd a) ∧
    (∀ i, i ≠ Reg.SAF_STATUS_start_done.lo → bit (t.rd Reg.SAF_STATUS).toNat i = bit (s.rd Reg.SAF_STATUS).toNat i) ∧
    t.fget Reg.SAF_STATUS_start_done = 0 ∧
    (∀ a, keptByApp a = false → a < 0x00F100000000 ∨ 0x00F200000000 ≤ a → a ∉ [Reg.HLT_SCORE, Reg.SEC_STATUS, Reg.MEM_STATUS .hub,
      Reg.CHK_ISL .hub, Reg.HLT_SPARES] → (∀ d, d < 8 → a ≠ Reg.RST_DIE d) → t.rd a = regReset s.part a) ∧
    t.rd Reg.RST_CAUSE = BitVec.ofNat 64 (cs % 2 ^ 10 + src % 4 * 2 ^ 12 + min 65535 (s.fget Reg.RST_CAUSE_app_count + 1) * 2 ^ 16) ∧
    t.fget Reg.HLT_SCORE_withdraw = s.fget Reg.HLT_SCORE_withdraw ∧ t.fget Reg.SEC_STATUS_debug_ever = s.fget Reg.SEC_STATUS_debug_ever ∧
    t.fget (Reg.CHK_ISL_fault .hub) = s.fget (Reg.CHK_ISL_fault .hub) ∧ t.fget (Reg.MEM_STATUS_key_epoch .hub) = s.fget (Reg.MEM_STATUS_key_epoch .hub) ∧
    (∀ d, d < 8 → t.fget (Reg.RST_DIE_rejoins d) = s.fget (Reg.RST_DIE_rejoins d) ∧
      t.fget (Reg.RST_DIE_state d) = wbits (regReset s.part (Reg.RST_DIE d)) 2 0) ∧
    t.dram = s.dram ∧ t.dramErr = s.dramErr ∧ t.otp = s.otp ∧ t.out = s.out ∧ t.part = s.part ∧ t.pending = s.pending ∧
    t.runs = [] ∧ t.insts = [] ∧ t.plan = {} ∧ t.staged = [] ∧ t.store = [] ∧ t.shared = [] ∧
    t.pow.phase = .inReset ∧ t.pow.committed = false ∧ t.pow.wdKick = none ∧ t.pow.wakes = [] ∧
    t.pins = { s.pins with phobosLow := true, deimosLow := true, trig := 0 } ∧
    t.raised = s.raised ++ List.replicate s.part.tzCount (s.event 0x0682 8 0xFF 0) ++ [s.event 0x0681 8 0xFF 0]) ∧
  (∀ (s : State) (causes src : Nat), ∃ v, s.safetyResetNow causes src = v.appReset causes src ∧
    Becomes { s with
      saf := { s.saf with pend := v.saf.pend, stack := [], chal := none, crcRun := [0, 0], chanFail := [], frames := [], loops := [0, 0],
                          loopCnt := 0, loopAt := s.now, hbTold := false, halted := [], monOut := 0, c3At := none }
      pins := { s.pins with faultLow := false } } v
      [(Reg.SAF_CR_fails, 0), (Reg.SAF_STATUS_deimos_ok, 0), (Reg.SAF_STATUS_chan_ok, 0), (Reg.SAF_STATUS_handling, 15), (Reg.SAF_STATUS_safe, 0)] []
      ∧ v.saf.pend = s.saf.pend.map fun (p : LogPend) => { p with started := false }) ∧
  (∀ (s : State) (also : Nat), s.part.tzCount ∈ [2, 4, 8] → ∃ t, exec (.powerOnReset also) s = .next t ∧
    t = { ({ part := s.part, pending := s.pending, otp := s.otp, out := s.out, free := s.free
             pow := { fuseFull := decide (64 ≤ s.otp.repair.length) } } : State) with regs := t.regs, chk := { retired := t.chk.retired } } ∧
    t.rd Reg.RST_CAUSE = BitVec.ofNat 64 ((also ||| 1) % 2 ^ 10) ∧
    (∀ a, a < 0x00F100000000 ∨ 0x00F200000000 ≤ a → a ≠ Reg.RST_CAUSE → a ≠ Reg.HLT_SPARES → t.rd a = regReset s.part a) ∧
    ∀ d e, d < s.part.tzCount → e < 18 → (engKey d e ∈ t.chk.retired ↔ s.bornRetired d e = true))

/-- R476–R478, R485, R486, R384, R395: what brings a reset. -/
def Obligations.ResetSources : Prop :=
  (∀ (s : State) (c : Instr) (also low m : Nat) (due : Bool), s.pow.phase ≠ .stopped →
    (c, m, due) ∈ [(Instr.safetyReset low also, 2, decide (10000 ≤ low)), (Instr.resetPin low also, 8, decide (1000 ≤ low)),
      (Instr.syswdExpiry also, 16, match s.pow.wdKick with
        | some k => decide (k + max 1 (s.fget Reg.RST_SYSWD_timeout_ms) * 1000000 ≤ s.now) | none => false),
      (Instr.lockup also, 256, decide (s.pow.phase = .booting ∨ s.pow.phase = .running)),
      (Instr.clockFailure also, 128, (match s.pow.refLost with | some f => decide (f + 100000 ≤ s.now) | none => false) ||
        (match s.pow.lockLost with | some f => decide (f + 100000 ≤ s.now) | none => false))] →
    (due = false → exec c s = .next s) ∧
    (due = true → ∃ t, exec c s = .next t ∧
      (bit (also ||| m) 0 = true → t = s.powerOn.wr Reg.RST_CAUSE (BitVec.ofNat 64 ((also ||| m) % 2 ^ 10))) ∧
      (bit (also ||| m) 0 = false → bit (also ||| m) 1 = true → t = s.safetyResetNow (also ||| m) 0) ∧
      (bit (also ||| m) 0 = false → bit (also ||| m) 1 = false → t = s.appReset (also ||| m) 0))) ∧
  (∀ (s : State) (also low good : Nat), s.pow.phase ≠ .stopped → bit also 0 = false → bit also 1 = false →
    (2000 ≤ low → ∃ t u, exec (.brownOut low also) s = .next t ∧ u = s.appReset (also ||| 4) 0 ∧ t = { u with pow := { u.pow with brownHeld := true } }) ∧
    (low < 2000 → exec (.brownOut low also) s = .next s) ∧
    (1000000 ≤ good → ∃ t, exec (.brownOutRelease good) s = .next t ∧ t = { s with pow := { s.pow with brownHeld := false } })) ∧
  (∀ (s : State) (c : Instr) (src v : Nat), s.pow.phase = .booting ∨ s.pow.phase = .running →
    c ∈ [Instr.applicationResetRequest src v, Instr.dieResetRequest src v] →
    src ∈ [0, 1] ∨ (src = 3 ∧ s.fget Reg.SEC_STATUS_debug_level ≠ 0) →
    (bits v 7 0 = 0xA5 → bits v 9 8 = 1 → ∃ t, exec c s = .next t ∧ t = s.appReset (if src = 3 then 64 else 32) (if src = 3 then 0 else src)) ∧
    (bits v 7 0 ≠ 0xA5 ∨ bits v 9 8 = 0 ∨ bits v 9 8 = 3 → ∃ t, exec c s = .next t ∧ t = { s with raised := s.raised ++ [s.event 0x0685 8 0xFF 0] }) ∧
    (∀ d, bits v 7 0 = 0xA5 → bits v 9 8 = 2 → bits v 12 10 = d →
      (s.hasDie d = true → s.fget (Reg.RST_DIE_state d) < 2 → ∃ t w, exec c s = .next t ∧ w = (s.fenceDie d).declareLost d ∧
        (w.fget (Reg.RST_DIE_state d) = 2 → t = w) ∧
        (w.fget (Reg.RST_DIE_state d) ≠ 2 → t = ((w.fset (Reg.RST_DIE_attempts d) 0).assertDieReset d).beginAttempt d)) ∧
      (s.hasDie d = false ∨ 2 ≤ s.fget (Reg.RST_DIE_state d) → ∃ t, exec c s = .next t ∧
        t = { s with raised := s.raised ++ [s.event 0x0685 8 0xFF 0] }))) ∧
  (∀ (s : State) (src v : Nat), s.pow.phase = .standby ∨ src = 2 ∨ 3 < src ∨ (src = 3 ∧ s.fget Reg.SEC_STATUS_debug_level = 0) →
    exec (.applicationResetRequest src v) s = .next s ∧ exec (.dieResetRequest src v) s = .next s) ∧
  (∀ (s : State) (v k : Nat), s.pow.wdKick = some k →
    (bits v 7 0 = 0x5A → ∃ t, exec (.syswdKick v) s = .next t ∧ t = { s with pow := { s.pow with wdKick := some s.now } }) ∧
    (bits v 7 0 ≠ 0x5A → exec (.syswdKick v) s = .next s)) ∧
  (∀ (s : State) (v : Nat), s.pow.wdKick = none → exec (.syswdKick v) s = .next s) ∧
  (∀ s : State, s.pow.phase ≠ .stopped →
    (s.pow.kyDown = false → ∃ t, exec .kystaPowerReset s = .next t ∧ t.pow = { s.pow with kyDown := true } ∧
      t.pins = { s.pins with deimosLow := true } ∧ t.raised = s.raised ∧ SameStores s t ∧ t.otp = s.otp ∧ t.plan = s.plan ∧ t.runs = s.runs ∧
      (∀ a, inKysta a = true → t.rd a = regReset s.part a) ∧ ∀ a, inKysta a = false → t.rd a = s.rd a) ∧
    (s.pow.kyDown = true → ∃ t, exec .kystaPowerReturn s = .next t ∧ t.regs = s.regs ∧ t.pow = { s.pow with kyDown := false })) ∧
  (∀ (s : State) (burnt i v : Nat), s.pow.phase ≠ .stopped → ∃ t, exec (.powerLoss burnt) s = .next t ∧
    t.pow = { s.pow with phase := .stopped, burns := [] } ∧ t.pins = { s.pins with highZ := true, trig := 0 } ∧ t.raised = [] ∧ t.regs = s.regs ∧
    (s.pow.burns = [] → s.trust.prog = none → t.otp = s.otp) ∧
    (s.pow.burns = [.arb i v] → s.trust.prog = none →
      t.otp = if bit burnt 0 = true then { s.otp with arb := smPut 0 s.otp.arb i v } else s.otp))

/-- R485: the reference and the locks. -/
def Obligations.ClocksAndLocks : Prop :=
  (∀ s : State, s.pow.phase ≠ .stopped → s.pow.refLost = none → s.fget Reg.CLK_STATUS_ref_ok = 1 →
    ∃ t, exec .referenceLost s = .next t ∧ Becomes { s with pow := { s.pow with refLost := some s.now } } t
      ((if s.fget Reg.CLK_STATUS_holdover = 0 then [(Reg.CLK_CNT_REF_LOSS_count, s.counted Reg.CLK_CNT_REF_LOSS_count 1)] else []) ++
        [(Reg.CLK_STATUS_holdover, 1), (Reg.CLK_STATUS_ref_ok, 0)]) [s.event 0x06C1 8 0xFF 0]) ∧
  (∀ (s : State) (d : Nat), (s.pow.refLost.isSome = true ∨ s.fget Reg.CLK_STATUS_ref_ok = 0 → exec .referenceLost s = .next s) ∧
    (s.fget Reg.CLK_STATUS_ref_ok = 0 ∨ s.fget Reg.CLK_STATUS_locked = 0 → exec .synthUnlock s = .next s) ∧
    (s.fget ⟨Reg.CLK_STATUS, 8 + d, 8 + d⟩ = 0 → exec (.diePllUnlock d) s = .next s)) ∧
  (∀ s : State, s.fget Reg.CLK_STATUS_ref_ok = 1 → s.fget Reg.CLK_STATUS_locked = 1 →
    ∃ t, exec .synthUnlock s = .next t ∧ Becomes { s with pow := { s.pow with lockLost := some s.now } } t
      [(Reg.CLK_CNT_REF_LOSS_count, s.counted Reg.CLK_CNT_REF_LOSS_count 1), (Reg.CLK_STATUS_holdover, 1), (Reg.CLK_STATUS_locked, 0),
       (Reg.CLK_CNT_UNLOCK_count, s.counted Reg.CLK_CNT_UNLOCK_count 1)] [s.event 0x06C3 8 0xFF 0]) ∧
  (∀ (s : State) (f : Nat), s.pow.refLost = some f ∨ (s.pow.refLost = none ∧ s.pow.lockLost = some f) →
    (s.now ≤ f + 100000 → ∃ t, exec .referenceRestored s = .next t ∧
      Becomes { s with pow := { s.pow with refLost := none, lockLost := if s.pow.refLost.isSome = true then s.pow.lockLost else none } } t
        [(Reg.CLK_STATUS_holdover, 0), (if s.pow.refLost.isSome = true then Reg.CLK_STATUS_ref_ok else Reg.CLK_STATUS_locked, 1)]
        [s.event 0x06C2 8 0xFF 0]) ∧
    (f + 100000 < s.now → exec .referenceRestored s = .next s)) ∧
  (∀ s : State, s.pow.phase ≠ .stopped → s.pow.refLost = none → s.pow.lockLost = none → ∃ t, exec .referenceRestored s = .next t ∧
    Becomes s t [(Reg.CLK_STATUS_ref_ok, 1)] []) ∧
  (∀ (s : State) (d : Nat), d < 8 → s.hasDie d = true → s.fget ⟨Reg.CLK_STATUS, 8 + d, 8 + d⟩ = 1 →
    ∃ t u, exec (.diePllUnlock d) s = .next t ∧ t = u.fenceDie d ∧
      Becomes s u [(⟨Reg.CLK_STATUS, 8 + d, 8 + d⟩, 0), (Reg.CLK_CNT_UNLOCK_count, s.counted Reg.CLK_CNT_UNLOCK_count 1)]
        [s.event 0x06C3 8 0xFF 0])

/-- R486–R490, R350: the reset and the rejoin of one die. -/
def Obligations.RejoinOfADie : Prop :=
  (∀ (s : State) (d : Nat), d < 8 → s.part.tzCount ∈ [2, 4, 8] → s.hasDie d = true → s.dieState d ≠ 2 →
    (s.fenceDie d).dieState d = 2 ∧ (s.fenceDie d).fget ⟨Reg.LNK_FENCE, d, d⟩ = 1 ∧ (s.fenceDie d).modState d = 5 ∧
    (s.fenceDie d).fget (Reg.RST_DIE_state d) = 1 ∧ s.event 0x3446 8 0xFF (detLink d d) ∈ (s.fenceDie d).raised ∧ SameMemory s (s.fenceDie d) ∧
    SameStores s (s.fenceDie d) ∧ (s.fenceDie d).runs = s.runs ∧ ∀ n, n < 8 → n ≠ d → (s.fenceDie d).dieState n = s.dieState n) ∧
  (∀ (s t : State) (d : Nat), d < 8 → t = s.assertDieReset d → t.fget (Reg.RST_DIE_state d) = 2 ∧ t.raised = s.raised ++ [s.event 0x0682 8 0xFF 0] ∧
    t.fget ⟨Reg.CLK_STATUS, 8 + d, 8 + d⟩ = 0 ∧ t.dram = s.dram ∧ t.otp = s.otp ∧ t.pins = s.pins ∧ t.runs = s.runs ∧
    (∀ e off, e < 32 → off < storeSize → t.stByte d e off = 0) ∧
    (∀ n e off, n ≠ d → e < 32 → off < storeSize → t.stByte n e off = s.stByte n e off) ∧
    (∀ x, x < 22 → t.dom d x = 0 ∧ t.fget (Reg.PACE_DOM_ldo d x) = 800) ∧
    t.fget (Reg.MEM_STATUS_key_epoch (.die d)) = s.fget (Reg.MEM_STATUS_key_epoch (.die d)) ∧
    ∀ a, inDieWin d a = false → a ≠ Reg.RST_DIE d → a ≠ Reg.CLK_STATUS → a ≠ Reg.HLT_SPARES → t.rd a = s.rd a) ∧
  (∀ (s : State) (d : Nat), d < 8 → Becomes { s with pow := (s.beginAttempt d).pow } (s.beginAttempt d)
      [(Reg.RST_DIE_attempts d, min 15 (s.fget (Reg.RST_DIE_attempts d) + 1))] [] ∧
    (s.beginAttempt d).pow = { s.pow with
      dieTimers := smPut {} s.pow.dieTimers d { holdEnd := s.now + max 10 (s.fget Reg.RST_DIE_CTRL_hold_us) * 1000 } }) ∧
  (∀ (s : State) (d : Nat), d < 8 → s.hasDie d = true → s.fget (Reg.RST_DIE_state d) = 2 → (s.dieTimer d).retryAt = none → (s.dieTimer d).holdEnd ≠ 0 →
    ((s.dieTimer d).holdEnd ≤ s.now → s.dieMonOk d = true → ∃ t, exec (.dieHoldEnd d) s = .next t ∧ t.fget (Reg.RST_DIE_state d) = 3 ∧
      (∀ x ∈ [18, 19, 20, 21], t.dom d x = 3 ∧ t.wakeOf d x = { since := s.now, fromOff := true, running := true }) ∧ t.waveAt d = some 20 ∧
      t.fget (Reg.PACE_RAIL_rail_cmd d) = 850 ∧ t.dieTimer d = {} ∧ t.fget ⟨Reg.CLK_STATUS, 8 + d, 8 + d⟩ = 1 ∧ t.raised = s.raised) ∧
    (s.dieMonOk d = false → exec (.dieHoldEnd d) s = .next s) ∧
    ((s.dieTimer d).holdEnd + 100000000 ≤ s.now → ∃ t, exec (.rejoinAttemptTimeout d) s = .next t ∧ t = s.failAttempt d) ∧
    (s.now < (s.dieTimer d).holdEnd → exec (.dieHoldEnd d) s = .next s ∧ exec (.rejoinAttemptTimeout d) s = .next s)) ∧
  (∀ (s : State) (d chans : Nat) (data : List (List Byte)) (failed gen : List Nat),
    (s.fget (Reg.RST_DIE_state d) ≠ 5 ∨ s.pow.ufsDie ≠ some d → exec (.dieReloadDone d chans data ⟨failed, gen⟩) s = .next s) ∧
    (s.hasDie d = true → s.fget (Reg.RST_DIE_state d) = 5 → s.pow.ufsDie = some d →
      ∀ r, r = s.reloadDie d chans data failed gen →
      (r.2 = true → ∃ t, exec (.dieReloadDone d chans data ⟨failed, gen⟩) s = .next t ∧ t = (r.1.fset (Reg.RST_DIE_state d) 6).ufsTurn) ∧
      (r.2 = false → ∃ t, exec (.dieReloadDone d chans data ⟨failed, gen⟩) s = .next t ∧ t = (r.1.raise 0x3547 d 0xFF 0).failAttempt d) ∧
      (sectsSound s.image = false → r.2 = false))) ∧
  (∀ (s : State) (d : Nat), d < 8 → s.hasDie d = true → s.fget (Reg.RST_DIE_state d) = 6 →
    (∃ t, exec (.dieInjectionDone d []) s = .next t ∧ t.dieState d = 1 ∧ t.fget ⟨Reg.LNK_FENCE, d, d⟩ = 0 ∧ t.fget (Reg.RST_DIE_state d) = 0 ∧
      t.fget (Reg.RST_DIE_rejoins d) = s.counted (Reg.RST_DIE_rejoins d) 1 ∧ t.raised = s.raised ++ [s.event 0x0683 8 0xFF 0] ∧
      t.out = s.out ++ [Msg.pfp ((d + 1) % s.part.tzCount) 8 (mgmtSlot 1 d),
        Msg.pfp ((d + s.part.tzCount - 1) % s.part.tzCount) 8 (mgmtSlot 1 d)] ∧ smGet 0 t.tim.beaconAt d = s.now ∧ SameMemory s t ∧ SameStores s t ∧
          d ∉ t.plan.lostDies) ∧
    (∀ m, m < 38 → ∃ t u, exec (.dieInjectionDone d [m]) s = .next t ∧ t = u.failAttempt d ∧ u = s.recordInjection m false)) ∧
  (∀ (s : State) (d : Nat) (ms : List Nat), s.fget (Reg.RST_DIE_state d) ≠ 6 → exec (.dieInjectionDone d ms) s = .next s) ∧
  (∀ (s t : State) (d : Nat), d < 8 → t = s.failAttempt d → t.dieState d = 2 ∧ t.fget ⟨Reg.LNK_FENCE, d, d⟩ = 1 ∧
    t.modState d = 5 ∧ t.fget (Reg.RST_DIE_state d) = 2 ∧ t.raised = s.raised ++ [s.event 0x0682 8 0xFF 0] ∧
    t.dieTimer d = { retryAt := some (s.now + s.fget Reg.RST_DIE_CTRL_retry_ms * 1000000) }) ∧
  (∀ (s : State) (d : Nat), (s.dieTimer d).retryAt = none → exec (.rejoinRetry d) s = .next s) ∧
  (∀ (s : State) (d at_ : Nat), d < 8 → (s.dieTimer d).retryAt = some at_ →
    (s.now < at_ → exec (.rejoinRetry d) s = .next s) ∧
    (at_ ≤ s.now → s.fget (Reg.RST_DIE_attempts d) < max 1 (s.fget Reg.RST_DIE_CTRL_rejoin_max) →
      ∃ t, exec (.rejoinRetry d) s = .next t ∧ t = s.beginAttempt d) ∧
    (at_ ≤ s.now → max 1 (s.fget Reg.RST_DIE_CTRL_rejoin_max) ≤ s.fget (Reg.RST_DIE_attempts d) →
      ∃ t, exec (.rejoinRetry d) s = .next t ∧ Becomes { s with pow := { s.pow with dieTimers := smPut {} s.pow.dieTimers d {} } } t
        [(Reg.RST_DIE_state d, 7)] [s.event 0x0684 8 0xFF 0]))

/-- R49, R185, R492–R497: the power domains. -/
def Obligations.PowerDomains : Prop :=
  (∀ (s : State) (d e i : Nat), s.logicalOf d e = some i → d < 8 → s.dieUp d = true → e < 18 → s.dom d e = 1 → s.pow.phase = .running →
    (s.nextUse d i ≤ s.now + 12000 → ∃ t, exec (.domainWakeStart d e) s = .next t ∧ t.dom d e = 3 ∧
      t.fget (Reg.PWR_CNT_WAKE_count d) = s.counted (Reg.PWR_CNT_WAKE_count d) 1 ∧
      t.wakeOf d e = { since := s.now, fromOff := false, running := true } ∧ t.raised = s.raised ∧ SameMemory s t ∧ SameStores s t ∧
      ∀ a, a ∉ [(Reg.PWR_DOM_dom d e).addr, (Reg.PWR_CNT_WAKE_count d).addr, (Reg.PWR_CNT_RET_US_us d).addr] → t.rd a = s.rd a) ∧
    (s.now + 12000 < s.nextUse d i → exec (.domainWakeStart d e) s = .next s)) ∧
  (∀ (s : State) (x : Nat), x < 24 → (s.wakeOf 8 x).running = true →
    (∃ t, exec (.domainWakeDone 8 x) s = .next t ∧ Becomes { s with pow := t.pow } t [(Reg.PWR_HUB_DOM_dom x, 2)] [] ∧ (t.wakeOf 8 x).running = false) ∧
    ∀ limit, limit = (if (s.wakeOf 8 x).fromOff = true then 40000 else 20000) →
      (s.now < (s.wakeOf 8 x).since + limit → exec (.domainWakeFailed 8 x) s = .next s) ∧
      ((s.wakeOf 8 x).since + limit ≤ s.now → ∃ t, exec (.domainWakeFailed 8 x) s = .next t ∧
        Becomes { s with pow := t.pow } t [] [s.event 0x4705 8 0xFF 0] ∧ (t.wakeOf 8 x).running = false)) ∧
  (∀ (s : State) (d e i : Nat), d < 8 → e < 18 → (s.wakeOf d e).running = true → s.logicalOf d e = some i → engKey d e ∉ s.pow.lateSeen →
    ∃ t, exec (.domainWakeDone d e) s = .next t ∧ t.dom d e = 2 ∧ t.wakeOf d e = {} ∧ t.raised = s.raised ∧
      (engKey d e ∈ t.pow.copying ↔ engKey d e ∈ s.pow.copying ∨ (s.wakeOf d e).fromOff = true)) ∧
  (∀ (s : State) (d e : Nat), d < 8 → e < 18 → (s.wakeOf d e).running = true → s.logicalOf d e = none → d ∉ s.chk.selfPend →
    ∃ t, exec (.domainWakeDone d e) s = .next t ∧ t = (s.endWake d e).setDom d e 2) ∧
  (∀ (s : State) (d x : Nat), d < 8 → 18 ≤ x → x < 22 → (s.wakeOf d x).running = true →
    (s.waveAt d ≠ some x → exec (.domainWakeDone d x) s = .next s) ∧
    (s.waveAt d = some x → ∃ t u, exec (.domainWakeDone d x) s = .next t ∧ u = (s.endWake d x).setDom d x 2 ∧ u.dom d x = 2 ∧
      t = if u.waveAt d = none then u.waveDone d else u)) ∧
  (∀ (s : State) (d : Nat), d < 8 →
    (∀ m ∈ [d, 16 + 4 * d, 17 + 4 * d, 18 + 4 * d], (s.waveDone d).modState m = 1) ∧
    (∀ e, e < 18 → (s.waveDone d).dom d e = if (s.logicalOf d e).isSome = true ∧ s.engState d e ≠ 5 then 2 else s.dom d e) ∧
    (s.fget (Reg.RST_DIE_state d) = 3 → (s.waveDone d).fget (Reg.RST_DIE_state d) = 4)) ∧
  (∀ (s : State) (d x : Nat), (s.wakeOf d x).running = false → exec (.domainWakeDone d x) s = .next s ∧ exec (.domainWakeFailed d x) s = .next s) ∧
  (∀ (s : State) (d x : Nat) (limit : Nat), d < 8 → x < 22 → (s.wakeOf d x).running = true →
    limit = (if (s.wakeOf d x).fromOff = false then 20000 else if x < 18 then 36000 else 10000) →
    (s.now < (s.wakeOf d x).since + limit → exec (.domainWakeFailed d x) s = .next s) ∧
    ((s.wakeOf d x).since + limit ≤ s.now → x < 18 → ∃ t u, exec (.domainWakeFailed d x) s = .next t ∧ t = (u.retire d x).remap d x ∧
      u = ((s.endWake d x).raise 0x2703 d x x).setDom d x 0) ∧
    ((s.wakeOf d x).since + limit ≤ s.now → 18 ≤ x → ∃ t u, exec (.domainWakeFailed d x) s = .next t ∧
      u = (s.endWake d x).raise 0x3704 d 0xFF x ∧
      t = if s.fget (Reg.RST_DIE_state d) = 3 then u.failAttempt d else u.fenceDie d)) ∧
  (∀ (s : State) (v : Nat), v < 2 → s.pow.phase = .running → ∃ t, exec (.standbyRequest v) s = .next t ∧ Becomes s t [(Reg.PWR_STBY_enter, v)] []) ∧
  (∀ (s : State) (v : Nat), s.pow.phase ≠ .running → exec (.standbyRequest v) s = .next s)

/-- R503, R505–R509: health. -/
def Obligations.HealthAndRepair : Prop :=
  (∀ s : State, s.pow.phase = .running →
    (s.now < s.hlt.scoreAt + 10 ^ 9 → exec .healthUpdate s = .next s) ∧
    (s.hlt.scoreAt + 10 ^ 9 ≤ s.now → ∃ t u, exec .healthUpdate s = .next t ∧
      u = { s with hlt := { s.hlt with scoreAt := s.now } }.takeBins ∧ t.hlt.scoreAt = s.now ∧ t.hlt.bins = u.hlt.bins ∧
      (∀ c, c < 5 → t.fget (Reg.HLT_COMP_comp c) = u.compValue c (u.windowWorst c)) ∧
      (∀ c, c < 5 → t.fget Reg.HLT_SCORE_score ≤ u.compValue c (u.windowWorst c)) ∧
      t.fget Reg.HLT_SCORE_worst < 5 ∧
      t.fget Reg.HLT_SCORE_score = u.compValue (t.fget Reg.HLT_SCORE_worst) (u.windowWorst (t.fget Reg.HLT_SCORE_worst)) ∧
      SameMemory s t ∧ SameStores s t ∧ t.runs = s.runs ∧ t.plan = s.plan)) ∧
  (∀ (s : State) (d held : Nat), d < 8 → s.pow.phase = .running → s.dieUp d = true →
    (∀ at_, smGet none s.hlt.canaryAt d = some at_ → s.now < at_ + 3600 * 10 ^ 9 → exec (.canaryMeasure d held) s = .next s) ∧
    ((∀ at_, smGet none s.hlt.canaryAt d = some at_ → at_ + 3600 * 10 ^ 9 ≤ s.now) → ∃ t, exec (.canaryMeasure d held) s = .next t ∧
      Becomes { s with hlt := { s.hlt with canaryAt := smPut none s.hlt.canaryAt d (some s.now) } } t
        [(Reg.HLT_VMIN_drift_mv d, min 255 (held - nth 0 s.part.vmin0 d))] [])) ∧
  (∀ (s : State) (k col : Nat) (rest : List (Nat × Nat)) (e : Nat), s.chk.burnPend = (k, col) :: rest →
    e = k / 32 + k % 32 * 2 ^ 3 + (if col = 0xFF then 0x7F else col) * 2 ^ 8 + 2 ^ 15 →
    (s.fget Reg.HLT_CTRL_burn_en = 0 → exec .repairBurn s = .next s) ∧
    (s.fget Reg.HLT_CTRL_burn_en = 1 → 64 ≤ s.otp.repair.length → ∃ t, exec .repairBurn s = .next t ∧
      t = { s with chk := { s.chk with burnPend := rest } }) ∧
    (s.fget Reg.HLT_CTRL_burn_en = 1 → s.otp.repair.length < 64 → ∃ t, exec .repairBurn s = .next t ∧
      Becomes { s with chk := { s.chk with burnPend := rest }, otp := { s.otp with repair := s.otp.repair ++ [e] } } t
        [(Reg.HLT_SPARES_fuses_used, s.otp.repair.length + 1)] (if s.otp.repair.length = 63 then [s.event 0x0744 8 0xFF 0] else []))) ∧
  (∀ (s : State) (d held : Nat), (s.chk.burnPend = [] → exec .repairBurn s = .next s) ∧
    (s.pow.phase ≠ .running → exec .healthUpdate s = .next s ∧ exec (.canaryMeasure d held) s = .next s) ∧
    (s.dieUp d = false → exec (.canaryMeasure d held) s = .next s))

/-- R372–R377, R467, R549: the endpoint's handling of what it takes, and of what it sends. -/
def Obligations.OhpMessages : Prop :=
  (∀ (s s1 : State) (q : OhpIn) (copies gen : Bool) (ecc : List Nat) (ls : List (Nat × List Byte)) (c : Instr) (typ : Nat) (kind : Option Nat)
      (write : Bool) (ok : OhpIn → Bool),
    (c, typ, kind, write, ok) ∈
      [(Instr.roleQuery copies, 1, none, false, fun q => q.payload.length % 2 == 0 && 2 ≤ q.payload.length && q.payload.length ≤ 128),
       (Instr.csrRead copies, 2, some 0, false, fun q => csrOk q false), (Instr.csrWrite copies, 3, some 0, true, fun q => csrOk q true),
       (Instr.memRead ecc copies, 4, some 0, false, fun q => memOk q false), (Instr.memWrite ecc gen copies, 5, some 0, true, fun q => memOk q true),
       (Instr.graphSubmit ecc ls copies, 6, some 1, true, fun q => q.payload.length == 12 && 32 ≤ u q.payload 8 4),
       (Instr.modeReq copies, 7, some 0, true, fun q => q.payload.length == 1 && u q.payload 0 1 < 32),
       (Instr.preempt copies, 8, some 1, true, fun q => q.payload.length == 2 && u q.payload 1 1 < 4),
       (Instr.kvRing copies, 9, some 1, true, fun q => q.payload.length == 5 && u q.payload 4 1 < 4),
       (Instr.sampleRing copies, 10, some 2, true, fun q => q.payload.length == 5 && u q.payload 4 1 < 4)] →
    s.Request typ q s1 →
    (ok q = false ∨ (∃ k, kind = some k ∧ unitKind q.unit ≠ k ∧ unitKind q.unit ≠ 4) → ∃ t, exec c s = .next t ∧
      t = s1.ohpBadMsg.sendOr copies (.ohp (s1.respMsg q 1 []))) ∧
    (ok q = true → kind.isSome = true → unitKind q.unit = 4 ∨ kind = some (unitKind q.unit) → s.unitEpoch q.unit = none → ∃ t, exec c s = .next t ∧
      t = s1.sendOr copies (.ohp (s1.respMsg q 2 []))) ∧
    (ok q = true → kind = some (unitKind q.unit) → ∀ e, s.unitEpoch q.unit = some e → q.role ≠ e → q.port < 6 → copies = true →
      bit (smGet {} s.eth.gate q.port).gates 7 = true →
      ∃ t m, exec c s = .next t ∧ t.out = s.out ++ [Msg.ohp m] ∧ m.typ = 0x7E ∧ m.flags = 0 ∧ m.role = e ∧ m.mac = q.mac ∧ m.port = q.port ∧
        m.payload = q.header ++ leBytes 4 e ∧ t.fget Reg.OHP_CNT_STALE_count = s.counted Reg.OHP_CNT_STALE_count 1 ∧ SameMemory s t ∧ SameStores s t ∧
        t.raised = s.raised ++ (if onceSec s.ohp.staleAt s.now then [s.event 0x04C2 8 0x14 0] else []) ∧
        RegsBut s t [Reg.OHP_CNT_STALE_count.addr, Reg.OHP_CNT_RX_count.addr, (Reg.ETH_CNT_TX_frames q.port).addr]) ∧
    (ok q = true → kind = some (unitKind q.unit) → s.Current q →
      (∀ x m, s.ohp.senders.find? q.sentBy = some x → x.seq = q.seq → x.resp = some m → ∃ t u, exec c s = .next t ∧ t = u.sendOr copies m ∧
        Becomes s1 u [(Reg.OHP_CNT_DUP_count, s.counted Reg.OHP_CNT_DUP_count 1)] []) ∧
      (s.Fresh q → write = true → s.safe = true → ∃ t, exec c s = .next t ∧ t = s1.answer q copies 3 []))) ∧
  (∀ (s : State) (q : OhpIn) (copies : Bool) (status : Nat) (payload : List Byte) (m : OhpMsg) (x : OhpSender), s.pow.phase = .running → q.port < 6 →
    payload.length ≤ s.ohpRoom q.port (q.ip != 0 || q.udp != 0) → m = s.stamped (q.reply status (s.roleOf q.unit) payload) →
    x = { mac := q.mac, part := q.srcPart, seq := q.seq, resp := some (.ohp m) } →
    m.port = q.port ∧ m.mac = q.mac ∧ m.vlan = q.vlan ∧ m.ip = q.ip ∧ m.udp = q.udp ∧ m.typ = q.typ ∧ m.flags = 1 ∧ m.seq = q.seq ∧ m.status = status ∧
    m.unit = q.unit ∧ m.payload = payload ∧ m.dstPart = q.srcPart ∧ m.txTime = s.now ∧ m.pcp = s.fget Reg.OHP_MAC_pcp ∧
    ∀ v, v = { s with ohp := { s.ohp with senders := (x :: s.ohp.senders.filter fun (y : OhpSender) => !q.sentBy y).take 16 } } →
      (copies = true → s.gateOpen q.port (.ohp m) = true → Becomes { v with out := s.out ++ [Msg.ohp m] } (s.answer q copies status payload)
        [(Reg.ETH_CNT_TX_frames q.port, s.counted (Reg.ETH_CNT_TX_frames q.port) 1)] []) ∧
      (copies = true → s.gateOpen q.port (.ohp m) = false → s.answer q copies status payload =
        { v with eth := { s.eth with waiting := s.eth.waiting ++ [(q.port, .ohp m)] } }) ∧
      (copies = false → Becomes v (s.answer q copies status payload) [] [s.event 0x24C5 8 0x14 0])) ∧
  (∀ (s : State) (q : OhpIn) (copies : Bool) (status : Nat) (payload : List Byte), s.pow.phase ≠ .running → s.answer q copies status payload = s) ∧
  (∀ (s : State) (bs : List Byte) (pos : Nat), s.fget Reg.OHP_CTRL_events = 1 → s.fget Reg.OHP_CTRL_en = 1 → s.saf.ohpOff = false →
    s.pow.phase = .running → s.streamRecs (s.fget Reg.OHP_EVT_DEST_min_class) 64 s.ohp.evtPos s.saf.ring = (bs, pos) →
    bs.length ≤ 1024 ∧ 16 ∣ bs.length ∧
    (bs = [] → ∃ t, exec (.eventStream true) s = .next t ∧ t = { s with ohp := { s.ohp with evtPos := pos } }) ∧
    (bs ≠ [] → bit (smGet {} s.eth.gate 0).gates 7 = true → ∃ t m, exec (.eventStream true) s = .next t ∧ m.typ = 0x11 ∧ m.payload = bs ∧
      m.mac = s.fget Reg.OHP_EVT_DEST_mac ∧ m.seq = s.ohp.seq ∧
      Becomes { s with ohp := { s.ohp with evtPos := pos, seq := (s.ohp.seq + 1) % 65536 }, out := s.out ++ [Msg.ohp m] } t
        [(Reg.ETH_CNT_TX_frames 0, s.counted (Reg.ETH_CNT_TX_frames 0) 1)] []))

/-- R373, R190: the effect of each request. -/
def Obligations.OhpRequests : Prop :=
  (∀ (s s1 : State) (q : OhpIn) (copies : Bool), s.Request 1 q s1 → s.Fresh q → q.payload.length % 2 = 0 → 2 ≤ q.payload.length → q.payload.length ≤ 128 →
    ∃ t, exec (.roleQuery copies) s = .next t ∧ t = s1.answer q copies 0
      ((List.range (q.payload.length / 2)).flatMap fun i => leBytes 4 (s.roleOf (u q.payload (2 * i) 2)))) ∧
  (∀ (s s1 : State) (q : OhpIn) (copies : Bool) (c : Instr) (typ : Nat) (write : Bool),
    (c, typ, write) ∈ [(Instr.csrRead copies, 2, false), (Instr.csrWrite copies, 3, true)] → s.Request typ q s1 → q.unit = 0 → s.Current q → s.Fresh q →
    csrOk q write = true → (write = true → s.safe = false) →
    ((∃ a ∈ csrWords q, csrWindow a = false ∨ (write = true ∧ hostBarred a = true)) → ∃ t u, exec c s = .next t ∧ t = u.answer q copies 3 [] ∧
      Becomes s1 u [(Reg.OHP_CNT_REFUSED_count, s.counted Reg.OHP_CNT_REFUSED_count 1)] []) ∧
    ((∀ a ∈ csrWords q, csrWindow a = true ∧ (write = true → hostBarred a = false)) →
      (∀ a k, s1.csrHole (csrWords q) = some (a, k) → ∃ t, exec c s = .next t ∧ t = (s1.decodeError 0xB 0 a k none).answer q copies 4 []) ∧
      (s1.csrHole (csrWords q) = none → write = false → ∃ t, exec c s = .next t ∧
        t = s1.answer q copies 0 ((csrWords q).flatMap fun a => leBytes 4 (s1.csrWord a))) ∧
      (s1.csrHole (csrWords q) = none → write = true → u q.payload 8 4 = 1 → ∃ t, exec c s = .next t ∧
        t = (s1.putCsrWord (u q.payload 0 8) (u q.payload 12 4)).answer q copies 0 []))) ∧
  (∀ (s s1 : State) (q : OhpIn) (copies gen : Bool) (ecc : List Nat) (c : Instr) (typ : Nat) (write : Bool),
    (c, typ, write) ∈ [(Instr.memRead ecc copies, 4, false), (Instr.memWrite ecc gen copies, 5, true)] → s.Request typ q s1 → q.unit = 0 → s.Current q →
    s.Fresh q → memOk q write = true → (write = true → s.safe = false) →
    (bulkWindow (u q.payload 0 8) (256 * u q.payload 8 4) = false → ∃ t u, exec c s = .next t ∧ t = u.answer q copies 3 [] ∧
      Becomes s1 u [(Reg.OHP_CNT_REFUSED_count, s.counted Reg.OHP_CNT_REFUSED_count 1)] []) ∧
    (bulkWindow (u q.payload 0 8) (256 * u q.payload 8 4) = true → ∀ a k, s1.csrHole (memBlocks q) = some (a, k) → ∃ t, exec c s = .next t ∧
      t = (s1.decodeError 0xB 0 a k none).answer q copies 4 [])) ∧
  (∀ (s s1 : State) (q : OhpIn) (copies : Bool) (ecc : List Nat), s.Request 4 q s1 → q.unit = 0 → s.Current q → s.Fresh q → memOk q false = true →
    bulkWindow (u q.payload 0 8) (256 * u q.payload 8 4) = true → s1.csrHole (memBlocks q) = none →
    (s1.ohpRoom q.port (q.ip != 0 || q.udp != 0) < 256 * u q.payload 8 4 → ∃ t, exec (.memRead ecc copies) s = .next t ∧
      t = s1.answer q copies 0 (List.replicate (256 * u q.payload 8 4) 0)) ∧
    (256 * u q.payload 8 4 ≤ s1.ohpRoom q.port (q.ip != 0 || q.udp != 0) → ∀ v r, s1.readBlocks (memBlocks q) ecc = (v, r) →
      (r = none → ∃ t, exec (.memRead ecc copies) s = .next t ∧ t = v.answer q copies 5 []) ∧
      (∀ bs, r = some (bs, false) → ∃ t, exec (.memRead ecc copies) s = .next t ∧ t = v.answer q copies 0 bs) ∧
      (∀ bs, r = some (bs, true) → ∃ t m, exec (.memRead ecc copies) s = .next t ∧ m = Msg.ohpBad (v.respMsg q 0 bs) ∧
        t = ((v.egressFail q.port).keepResp q (some m)).sendOr copies m))) ∧
  (∀ (s s1 : State) (q : OhpIn) (copies gen : Bool) (ecc : List Nat), s.Request 5 q s1 → q.unit = 0 → s.Current q → s.Fresh q → memOk q true = true →
    s.safe = false → bulkWindow (u q.payload 0 8) (256 * u q.payload 8 4) = true → s1.csrHole (memBlocks q) = none →
    ∀ w v ok, w = (if gen then s1.raise 0x25C4 8 255 0 else s1) → w.writeBlocks gen (memBlocks q) ecc (q.payload.drop 12) = (v, ok) →
      ∃ t, exec (.memWrite ecc gen copies) s = .next t ∧ t = v.answer q copies (if ok = true then 0 else 5) []) ∧
  (∀ (s s1 : State) (q : OhpIn) (copies : Bool), s.Current q → s.Fresh q → s.safe = false →
    (s.Request 7 q s1 → q.unit = 0 → q.payload.length = 1 → u q.payload 0 1 < 32 → ∃ t, exec (.modeReq copies) s = .next t ∧
      t = (s1.modeReq (u q.payload 0 1)).answer q copies 0 []) ∧
    (s.Request 8 q s1 → unitKind q.unit = 1 → q.payload.length = 2 → u q.payload 1 1 < 4 → ∃ t, exec (.preempt copies) s = .next t ∧
      t = (s1.preemptWrite (u q.payload 0 1 + u q.payload 1 1 * 256)).answer q copies 0 []) ∧
    (s.Request 9 q s1 → unitKind q.unit = 1 → q.payload.length = 5 → u q.payload 4 1 < 4 → ∃ t, exec (.kvRing copies) s = .next t ∧
      t = (s1.ringWrite (q.unit - 0x100) (maskField q 0 0) (maskField q 2 1)).answer q copies 0 []) ∧
    (s.Request 10 q s1 → unitKind q.unit = 2 → q.payload.length = 5 → u q.payload 4 1 < 4 → ∃ t, exec (.sampleRing copies) s = .next t ∧
      t = (s1.fetchWrite (q.unit - 0x200) (maskField q 0 0) (maskField q 2 1)).answer q copies 0 [])) ∧
  (∀ (s s1 : State) (q : OhpIn) (copies : Bool) (ecc : List Nat) (ls : List (Nat × List Byte)) (a n : Nat) (as_ : List Addr), s.Current q → s.Fresh q →
    s.safe = false → s.Request 6 q s1 → unitKind q.unit = 1 → q.payload.length = 12 → u q.payload 0 8 = a → u q.payload 8 4 = n → 32 ≤ n →
    as_ = ((List.range (ceilDiv (a % 256 + n) 256)).map fun i => a / 256 * 256 + 256 * i) →
    (bulkWindow a n = false → ∃ t u, exec (.graphSubmit ecc ls copies) s = .next t ∧ t = u.answer q copies 3 [] ∧
      Becomes s1 u [(Reg.OHP_CNT_REFUSED_count, s.counted Reg.OHP_CNT_REFUSED_count 1)] []) ∧
    (bulkWindow a n = true → ∀ b k, s1.csrHole as_ = some (b, k) → ∃ t, exec (.graphSubmit ecc ls copies) s = .next t ∧
      t = (s1.decodeError 0xB 0 b k none).answer q copies 4 []) ∧
    (bulkWindow a n = true → s1.csrHole as_ = none → ∀ v res, s1.readBlocks as_ ecc = (v, res) →
      (res = none ∨ (∃ bs, res = some (bs, true)) → ∃ t, exec (.graphSubmit ecc ls copies) s = .next t ∧ t = v.answer q copies 5 []) ∧
      ∀ bs r g, res = some (bs, false) → s1.planRec = some r → g = readGraph (sliceB bs (a % 256) n) 0 0 →
        (g.part ≠ q.unit - 0x100 → ∃ t, exec (.graphSubmit ecc ls copies) s = .next t ∧ t = v.ohpBadMsg.answer q copies 1 []) ∧
        (g.part = q.unit - 0x100 → ∀ e, validateGraph r.plan g = some e → ∃ (t u w : State), exec (.graphSubmit ecc ls copies) s = .next t ∧
          u = v.capturePln e r.plan.kind r.plan.lostDie ∧ Becomes (u.keepResp q none) w
            [(Reg.PLN_CNT_REJECT_count, u.counted Reg.PLN_CNT_REJECT_count 1)] [u.event 0x0182 8 0x10 0] ∧
          t = w.verdict q { code := 0x10, graph := g.id } copies) ∧
        (g.part = q.unit - 0x100 → validateGraph r.plan g = none → ∃ (t w : State), exec (.graphSubmit ecc ls copies) s = .next t ∧ t = w.showAdm ∧
          w = { v with
            ohp := (v.keepResp q none).ohp
            plan := { v.plan with
              queued := v.plan.queued ++ [{ graph := g, lists := ls.map fun l => { graph := g.id, task := l.1, bytes := l.2 }, req := q }] } })))

/-- R511, R516, R517: the barriers of a group. -/
def Obligations.GroupBarriers : Prop :=
  (∀ (s s1 : State) (q : OhpIn) (copies : Bool), s.Request 0x20 q s1 → q.unit = 0 → s.Current q → q.payload.length = 20 → u q.payload 11 1 = 0 →
    (s.isMaster = true → ∃ t, exec (.arrive copies) s = .next t ∧
      t = s1.arrival q.srcPart (u q.payload 0 8) (u q.payload 10 1) (u q.payload 8 2) (u q.payload 12 8)) ∧
    (s.isMaster = false → ∃ t, exec (.arrive copies) s = .next t ∧ Becomes s1 t [(Reg.JSY_CNT_IGNORED_count, s.counted Reg.JSY_CNT_IGNORED_count 1)] [])) ∧
  (∀ (s : State) (p step g i at_ : Nat),
    (s.member p = false ∨ (step, g, i, true) ∈ s.jsy.closed →
      Becomes s (s.arrival p step g i at_) [(Reg.JSY_CNT_IGNORED_count, s.counted Reg.JSY_CNT_IGNORED_count 1)] []) ∧
    (s.member p = true → (step, g, i, true) ∉ s.jsy.closed → (step, g, i, false) ∉ s.jsy.closed →
      ((∀ b ∈ s.jsy.barriers, ¬ (b.step = step ∧ b.graph = g ∧ b.task = i)) →
        (64 ≤ s.jsy.barriers.length → Becomes s (s.arrival p step g i at_) [(Reg.JSY_CNT_IGNORED_count, s.counted Reg.JSY_CNT_IGNORED_count 1)] []) ∧
        (s.jsy.barriers.length < 64 → ∀ b : Barrier, b = { step := step, graph := g, task := i, here := [p], first := s.now, latest := at_,
                                                           allowed := max 1 (s.fget Reg.ADM_WAIT_barrier_us) * 1000 } →
          s.arrival p step g i at_ = { s with jsy := { s.jsy with barriers := s.jsy.barriers ++ [b] } }.releaseBarrier b)) ∧
      (∀ b, s.jsy.barriers.find? (fun (x : Barrier) => x.step == step && x.graph == g && x.task == i) = some b → ∀ v, v = { b with
          here := if p ∈ b.here then b.here else b.here ++ [p], latest := if p ∈ b.here then b.latest else max b.latest at_ } →
        s.arrival p step g i at_ = { s with jsy := { s.jsy with
          barriers := s.jsy.barriers.map fun (x : Barrier) => if x.step == step && x.graph == g && x.task == i then v else x } }.releaseBarrier v)) ∧
    (s.member p = true → (step, g, i, true) ∉ s.jsy.closed → (step, g, i, false) ∈ s.jsy.closed → s.arrival p step g i at_ = s)) ∧
  (∀ (s : State) (b : Barrier), s.fget Reg.JSY_CKPT_port < 6 →
    ((∃ p ∈ s.members, p ∉ b.here) → s.releaseBarrier b = s) ∧
    ((∀ p ∈ s.members, p ∈ b.here) → bit (smGet {} s.eth.gate (s.fget Reg.JSY_CKPT_port)).gates 7 = true →
      ∃ v m, s.releaseBarrier b = v.endBarrier b.step b.graph b.task ∧ m.typ = 0x21 ∧ m.dstPart = 0xFFFF ∧
      m.mac = 2 ^ 48 - 1 ∧ m.payload = leBytes 8 b.step ++ leBytes 2 b.task ++ leBytes 1 b.graph ++ leBytes 1 0 ++ leBytes 2 b.here.length ++
        leBytes 2 0 ++ leBytes 8 b.latest ∧
      Becomes { s with
        ohp := { s.ohp with seq := (s.ohp.seq + 1) % 65536 }, out := s.out ++ [Msg.ohp m]
        jsy := { s.jsy with
          barriers := s.jsy.barriers.filter fun (x : Barrier) => !(x.step == b.step && x.graph == b.graph && x.task == b.task)
          closed := s.jsy.closed ++ [(b.step, b.graph, b.task, false)] } } v
        [(Reg.ETH_CNT_TX_frames (s.fget Reg.JSY_CKPT_port), s.counted (Reg.ETH_CNT_TX_frames (s.fget Reg.JSY_CKPT_port)) 1)] [])) ∧
  (∀ (s s1 : State) (q : OhpIn), q.unit = 0 → s.Current q →
    (s.Request 0x21 q s1 → q.payload.length = 24 → u q.payload 11 1 = 0 → u q.payload 14 2 = 0 → ∃ t, exec .release s = .next t ∧
      t = s1.endBarrier (u q.payload 0 8) (u q.payload 10 1) (u q.payload 8 2)) ∧
    (s.Request 0x27 q s1 → q.payload.length = 8 →
      (s.isMaster = false → ∃ t, exec .withdraw s = .next t ∧ t = s1) ∧
      (s.isMaster = true → ∃ t w, exec .withdraw s = .next t ∧ (∀ p, p ∈ w.jsy.withdrawn ↔ p = q.srcPart ∨ p ∈ s.jsy.withdrawn) ∧
        w = { s1 with jsy := { s1.jsy with withdrawn := w.jsy.withdrawn } } ∧ w.member q.srcPart = false ∧
        t = s.jsy.barriers.foldl (fun v b => v.releaseBarrier { b with here := without q.srcPart b.here }) w))) ∧
  (∀ (s : State) (step g i : Nat) (r : TaskRun), s.allRuns = [r] → r.graph = g → r.task = i → r.st = .running → s.isBarrier r = true →
    (s.inst g r.inst).step = step → s.endBarrier step g i = s.endRun r 0 0) ∧
  (∀ (s : State) (step g i : Nat), (∀ r ∈ s.allRuns, r.graph = g → r.task = i → r.st = .running → s.isBarrier r = true →
    (s.inst g r.inst).step ≠ step) → s.endBarrier step g i = s) ∧
  (∀ (s : State) (step g i : Nat),
    ((∀ b ∈ s.jsy.barriers, b.step = step → b.graph = g → b.task = i → s.now < b.first + b.allowed) → exec (.barrierDrop step g i) s = .next s) ∧
    (∀ b ∈ s.jsy.barriers, b.step = step → b.graph = g → b.task = i → b.first + b.allowed ≤ s.now → ∃ t, exec (.barrierDrop step g i) s = .next t ∧
      t = { s with
        jsy := { s.jsy with
          barriers := s.jsy.barriers.filter fun (x : Barrier) =>
            !(x.step == step && x.graph == g && x.task == i && decide (x.first + x.allowed ≤ s.now))
          closed := s.jsy.closed ++ [(step, g, i, true)] }
        raised := s.raised ++ [s.event 0x0785 8 0x1C 0] }))

/-- R518, R520–R522: checkpoints, twins and joining. -/
def Obligations.CheckpointsAndTwins : Prop :=
  (∀ (s : State) (ecc : List Nat) (copies : Bool), (∀ x, s.jsy.send = some x → s.ethShare = 0 ∨ s.now < x.next ∨ s.pow.phase ≠ .running) →
    exec (.regionSendBlock ecc copies) s = .next s) ∧
  (∀ (s v u : State) (x : RegionSend) (ecc : List Nat) (n left base port : Nat) (udp copies : Bool) (bs : List Byte) (bad last : Bool)
      (res : Option (List Byte × Bool)), s.jsy.send = some x → s.ethShare ≠ 0 → x.next ≤ s.now → s.pow.phase = .running →
    port = (match x.twin with | some q => q.port | none => s.fget Reg.JSY_CKPT_port) → port < 6 →
    udp = (match x.twin with | some q => q.ip != 0 || q.udp != 0 | none => false) → left = s.regionBlocks x.region - x.block →
    n = min left (min 32 ((s.ohpRoom port udp - 16) / 256)) → base = s.fget (Reg.JSY_REGION_base x.region) + x.block * 256 →
    s.readBlocks ((List.range n).map fun i => base + 256 * i) ecc = (v, res) → (bs, bad) = res.getD (List.replicate (256 * n) 0, true) →
    last = (decide (left ≤ n) && (s.regions.filter fun r => x.region < r).isEmpty) → u = { v with ohp := { v.ohp with seq := (v.ohp.seq + 1) % 65536 } } →
    ∃ t w m, exec (.regionSendBlock ecc copies) s = .next t ∧ m.seq = v.ohp.seq ∧
      m.payload = (leBytes 8 x.step ++ leBytes 1 x.region ++ leBytes 1 (b2n last) ++ leBytes 2 0 ++ leBytes 4 x.block) ++ bs ∧
      (x.twin = none → m.typ = 0x22 ∧ m.mac = v.fget Reg.JSY_CKPT_DEST_mac ∧ m.vlan = v.fget Reg.JSY_CKPT_DEST_vlan) ∧
      (∀ q, x.twin = some q → m.typ = 0x25 ∧ m.mac = q.mac ∧ m.vlan = q.vlan ∧ m.ip = q.ip ∧ m.udp = q.udp ∧ m.dstPart = q.srcPart ∧ m.port = q.port) ∧
      (bad = false → copies = true → v.gateOpen port (.ohp m) = true → m.port = port → Becomes { u with out := v.out ++ [Msg.ohp m] } w
        [(Reg.ETH_CNT_TX_frames port, v.counted (Reg.ETH_CNT_TX_frames port) 1)] []) ∧
      (bad = true → w = (u.egressFail port).sendOr copies (.ohpBad m)) ∧
      (last = true → t = w.endSend x) ∧
      (last = false → t = { w with jsy := { w.jsy with send := some { x with
        region := if left ≤ n then nth x.region (s.regions.filter fun r => x.region < r) 0 else x.region
        block := if left ≤ n then 0 else x.block + n, at_ := w.now, next := w.now + ceilDiv (n * 4000) s.ethShare } } })) ∧
  (∀ (s : State) (x : RegionSend), s.jsy.twinWait = none → Becomes { s with jsy := { s.jsy with send := none } } (s.endSend x)
    (if x.twin.isNone then [(Reg.JSY_CKPT_STATUS_sent, x.step % 2 ^ 32), (Reg.JSY_CKPT_STATUS_sending, 0)] else [(Reg.JSY_CKPT_STATUS_sending, 0)]) []) ∧
  (∀ (s s1 : State) (q : OhpIn), s.Request 0x23 q s1 → q.unit = 0 → s.Current q → q.payload.length = 8 → s.jsy.send = none →
    (s.jsy.ckpt = some (u q.payload 0 8) → ∃ t, exec .ckptAck s = .next t ∧
      Becomes s1 t [(Reg.JSY_CKPT_STATUS_acked, u q.payload 0 8 % 2 ^ 31)] []) ∧
    (s.jsy.ckpt ≠ some (u q.payload 0 8) → ∃ t, exec .ckptAck s = .next t ∧ t = s1)) ∧
  (∀ (s s1 : State) (q : OhpIn) (copies : Bool), s.Request 0x24 q s1 → q.unit = 0 → s.Current q → q.payload.length = 12 →
    ∀ step, u q.payload 0 8 = step →
    (u q.payload 8 4 ≠ s.fget Reg.BOOT_STATUS_image_id ∨ s.fget Reg.HLT_SCORE_withdraw = 1 ∨ (∃ c, s.jsy.ckpt = some c ∧ step < c) ∨
        s.jsy.twinWait ≠ none ∨ (∃ x, s.jsy.send = some x ∧ x.twin ≠ none) →
      ∃ t, exec (.twinReq copies) s = .next t ∧ t = s1.answer q copies 3 []) ∧
    (u q.payload 8 4 = s.fget Reg.BOOT_STATUS_image_id → s.fget Reg.HLT_SCORE_withdraw = 0 → s.jsy.twinWait = none →
      (s.jsy.send = none → s.jsy.ckpt = some step →
        ∃ t, exec (.twinReq copies) s = .next t ∧ Becomes { s1 with jsy := { s1.jsy with
          send := some { twin := some q, step := step, region := nth 0 s.regions 0, at_ := s.now, next := s.now } } } t [(Reg.JSY_CKPT_STATUS_sending, 1)] []) ∧
      ((∃ x, s.jsy.send = some x ∧ x.twin = none) ∨ (s.jsy.send = none ∧ s.jsy.ckpt ≠ some step) → (∀ c, s.jsy.ckpt = some c → c ≤ step) →
        ∃ t, exec (.twinReq copies) s = .next t ∧ t = { s1 with jsy := { s1.jsy with twinWait := some q } }))) ∧
  (∀ (s s1 : State) (q : OhpIn) (ecc : List Nat) (gen copies : Bool) (r o n : Nat), s.Request 0x25 q s1 → q.unit = 0 → s.Current q →
    r = u q.payload 8 1 → r < 16 → o = u q.payload 12 4 → 1 ≤ n → n ≤ 32 → q.payload.length = 16 + 256 * n → u q.payload 9 1 ≤ 1 → u q.payload 10 2 = 0 →
    (s.fget Reg.JSY_ROLE_role ≠ 2 ∨ s.jsy.joinAt = none ∨ s.jsy.ready = true ∨ s.safe = true ∨ s.regionBlocks r < o + n ∨
        u q.payload 0 8 + 1 ≠ s.fget Reg.JSY_JOIN_step → ∃ t, exec (.twinData ecc gen copies) s = .next t ∧ t = s1) ∧
    (s.fget Reg.JSY_ROLE_role = 2 → s.jsy.joinAt ≠ none → s.jsy.ready = false → s.safe = false → o + n ≤ s.regionBlocks r →
      u q.payload 0 8 + 1 = s.fget Reg.JSY_JOIN_step → ∀ s0 v ok, s0 = (if gen then s1.raise 0x25C4 8 255 0 else s1) →
      s0.writeBlocks gen ((List.range n).map fun i => s1.fget (Reg.JSY_REGION_base r) + (o + i) * 256) ecc (q.payload.drop 16) = (v, ok) →
      ∀ w, w = { v with jsy := { v.jsy with
          got := if ok then (List.range n).foldl (fun g i => withOnce (r * 2 ^ 24 + o + i) g) v.jsy.got else v.jsy.got, joinAt := some v.now } } →
        ∃ t, exec (.twinData ecc gen copies) s = .next t ∧ (w.gotAll = false → t = w) ∧
          (w.gotAll = true → ∃ x m, x = { w with jsy := { w.jsy with ready := true } } ∧
            t = x.sendOhp m ∧ m.typ = 0x26 ∧ m.mac = w.fget Reg.JSY_GROUP_master_mac ∧ m.payload = leBytes 8 (w.fget Reg.JSY_JOIN_step)))) ∧
  (∀ (s : State) (q : OhpIn) (rest : List OhpIn) (c : Instr) (typ : Nat), (c, typ) ∈ [(Instr.twinRefusal, 0x24), (Instr.joinReadyResponse, 0x26)] →
    s.ohp.queue = q :: rest → q.typ = typ → q.flags = 1 → s.pow.phase = .running → q.status = 3 →
    (c = .twinRefusal ∧ s.jsy.joinAt.isSome = true) ∨ (c = .joinReadyResponse ∧ s.jsy.ready = true) →
    ∃ t, exec c s = .next t ∧ t.jsy.joinAt = none ∧ Becomes { s with ohp := { s.ohp with queue := rest }, jsy := t.jsy } t
      [(Reg.OHP_CNT_RX_count, s.counted Reg.OHP_CNT_RX_count 1)] [s.event 0x0782 8 0x1C 0]) ∧
  (∀ (s : State) (q : OhpIn) (rest : List OhpIn), s.ohp.queue = q :: rest → q.typ = 0x26 → q.flags = 1 → s.pow.phase = .running → q.status = 0 →
    s.jsy.ready = true → ∃ t, exec .joinReadyResponse s = .next t ∧
      Becomes { s with ohp := { s.ohp with queue := rest }, jsy := { s.jsy with joinAt := none, ready := false, got := [] } } t
        [(Reg.JSY_STEP_step, (s.fget Reg.JSY_JOIN_step - 1)),
         (Reg.OHP_ROLE_PART_epoch, if (s.fget Reg.OHP_ROLE_PART_epoch + 1) % 2 ^ 32 = 0 then 1 else (s.fget Reg.OHP_ROLE_PART_epoch + 1) % 2 ^ 32),
         (Reg.JSY_ROLE_role, 1), (Reg.OHP_CNT_RX_count, s.counted Reg.OHP_CNT_RX_count 1)] [s.event 0x0781 8 0x1C 0]) ∧
  (∀ (s : State) (at_ : Nat), s.jsy.joinAt = some at_ → s.jsy.ready = false → s.jsy.got ≠ [] → s.jsy.send = none →
    (at_ + 100000000 ≤ s.now → ∃ t, exec .twinTimeout s = .next t ∧
      t = { s with jsy := { s.jsy with joinAt := none, got := [] }, raised := s.raised ++ [s.event 0x0786 8 0x1C 0] }) ∧
    (s.now < at_ + 100000000 → exec .twinTimeout s = .next s)) ∧
  (∀ (s : State) (x : RegionSend), s.jsy.joinAt = none → s.jsy.send = some x → x.twin ≠ none →
    (x.at_ + 100000000 ≤ s.now → ∃ t, exec .twinTimeout s = .next t ∧ Becomes { s with jsy := { s.jsy with send := none } } t
      [(Reg.JSY_CKPT_STATUS_sending, 0)] [s.event 0x0786 8 0x1C 0]) ∧
    (s.now < x.at_ + 100000000 → exec .twinTimeout s = .next s)) ∧
  (∀ (s s1 : State) (q : OhpIn) (copies : Bool), s.Request 0x26 q s1 → q.unit = 0 → s.Current q → q.payload.length = 8 → s.jsy.joins = [] →
    (s.isMaster = false → ∃ t, exec (.joinReady copies) s = .next t ∧ t = s1.answer q copies 3 []) ∧
    (s.isMaster = true → s.lowestStep < u q.payload 0 8 → ∃ t, exec (.joinReady copies) s = .next t ∧
      t = { s1 with jsy := { s1.jsy with joins := [q] } }) ∧
    (s.isMaster = true → u q.payload 0 8 < s.lowestStep → ∃ t, exec (.joinReady copies) s = .next t ∧ t = s1.answer q copies 3 []) ∧
    (s.isMaster = true → u q.payload 0 8 = s.lowestStep → ∃ t w a, exec (.joinReady copies) s = .next t ∧ t = w.answer q copies 0 [] ∧
      a = s.fget Reg.JSY_MEMBERS_base + q.srcPart / 8 ∧
      w = { s1.poke 8 0x1C a (leBytes 1 (setBit (u (s1.peek 8 a 1) 0 1) (q.srcPart % 8) true)) with jsy := { s1.jsy with
        withdrawn := without q.srcPart s1.jsy.withdrawn } }))

/-- R289–R307: video decode and sample streams. -/
def Obligations.DecodeAndBatches : Prop :=
  (∀ (s : State) (k q i v n st : Nat) (y : SmplSlot), k < 16 → q < 16 → v < 8 → s.slot? q i = some y → y.issued = some n → y.stage = some st →
    (s.streamOn q = false ∨ s.coreReady k = false ∨ y.bad = true ∨ y.empty = true ∨ s.nViews q ≤ v ∨ (∃ f ∈ (s.stream q).fetches, f.n = n) →
      exec (.decodePartStart k q i v) s = .next s) ∧
    (s.streamOn q = true → s.coreReady k = true → y.bad = false → y.empty = false → v < s.nViews q → (∀ f ∈ (s.stream q).fetches, f.n ≠ n) →
      (y.views = [] → (∃ x, x < s.nViews q ∧ (s.viewRec q st x).2.2.2 = false) → ∃ t, exec (.decodePartStart k q i v) s = .next t ∧
        t = ((s.meet 8 0x1A (s.stageAt q st) (16 * s.nViews q)).smplEvent 0x2384 q y.pos).markBad q i (some (Reg.SMPL_CNT_CORRUPT_count q))) ∧
      ((y.views = [] → ∀ x, x < s.nViews q → (s.viewRec q st x).2.2.2 = true) → ∀ vs r w,
        vs = (if y.views = [] then List.replicate (s.nViews q) ViewSt.todo else y.views) →
        r = { q := q, slot := i, view := v, start := s.now, prof := s.profWords (s.fget (Reg.SMPL_VIEW_profile q v)) } →
        w = (if y.views = [] then s.meet 8 0x1A (s.stageAt q st) (16 * s.nViews q) else s) →
        (nth .done vs v ≠ .todo → exec (.decodePartStart k q i v) s = .next s) ∧
        (nth .done vs v = .todo → ∃ t u, exec (.decodePartStart k q i v) s = .next t ∧
          u = (w.setSlot q i fun (y : SmplSlot) => { y with views := setNth vs v .busy }).setCore k (some r) ∧ t = { u with regs := t.regs } ∧
          t.rd (Reg.DEC_CORE k) = BitVec.ofNat 64 (2 + q * 2 ^ 2 + v * 2 ^ 6 + y.pos % 2 ^ 40 * 2 ^ 16) ∧ RegsBut w t [Reg.DEC_CORE k])))) ∧
  (∀ (s : State) (k : Nat) (r : CoreRun), k < 16 → s.core k = some r → r.q < 16 → r.view < 8 → r.stop = false → r.dropped = false →
    (s.elapsed r < s.partBudget r → exec (.sliceBoundary k) s = .next s) ∧
    (s.partBudget r ≤ s.elapsed r → ∃ t, exec (.sliceBoundary k) s = .next t ∧ t = s.abandon k 6 r) ∧
    (s.elapsed r < 2 * s.fget (Reg.SMPL_VIEW_ceil_us r.q r.view) → exec (.decodeHardStop k) s = .next s) ∧
    (2 * s.fget (Reg.SMPL_VIEW_ceil_us r.q r.view) ≤ s.elapsed r → ∃ t, exec (.decodeHardStop k) s = .next t ∧ t = s.abandon k 7 r) ∧
    ∀ reason, (s.abandon k reason r).core k = none ∧ (s.abandon k reason r).rd (Reg.DEC_CORE k) = 1 ∧
      (s.abandon k reason r).raised = s.raised ++ [s.event 0x2342 8 0x13 (detStream r.q r.view)] ∧
      (s.abandon k reason r).fget Reg.DEC_CNT_ABANDON_count = s.counted Reg.DEC_CNT_ABANDON_count 1 ∧
      ∀ y, (s.abandon k reason r).slot? r.q r.slot = some y → y.bad = true) ∧
  (∀ (s : State) (k : Nat), s.core k = none → exec (.sliceBoundary k) s = .next s ∧ exec (.decodeHardStop k) s = .next s) ∧
  (∀ (s : State) (k : Nat) (r : CoreRun), s.core k = some r → r.stop = true → ∃ t, exec (.sliceBoundary k) s = .next t ∧ t = s.freeCore k) ∧
  (∀ (s s0 w s1 : State) (k npics hold : Nat) (r : CoreRun) (err : Option Nat) (pic : Picture) (gen : Bool), k < 16 → s.core k = some r → r.q < 16 →
    r.view < 8 → s0 = (match (s.slot? r.q r.slot).bind (·.stage) with
      | some st => s.meet 8 0x13 (s.stageAt r.q st + (s.viewRec r.q st r.view).1) (s.viewRec r.q st r.view).2.1
      | none => s) → w = s0.keepPicture k pic → s1 = (w.count Reg.DEC_CNT_PICS_count npics).addDecHold hold →
    s1.fget Reg.DEC_CNT_PICS_count = w.counted Reg.DEC_CNT_PICS_count npics ∧
    (r.dropped = true → ∃ t, exec (.decodePartEnd k err pic npics hold gen) s = .next t ∧ t = s1.freeCore k) ∧
    (r.dropped = false →
      (∀ c, s1.corruptCause r err pic npics = some c → ∃ t, exec (.decodePartEnd k err pic npics hold gen) s = .next t ∧ t.core k = none ∧
        t.raised = s1.raised ++ [s1.event 0x2341 8 0x13 (detStream r.q r.view)] ∧
        t.fget Reg.DEC_CNT_CORRUPT_count = s1.counted Reg.DEC_CNT_CORRUPT_count 1 ∧ ∀ y, t.slot? r.q r.slot = some y → y.bad = true) ∧
      (s1.corruptCause r err pic npics = none → ∃ (t u : State), exec (.decodePartEnd k err pic npics hold gen) s = .next t ∧
        t = (if r.stop = true then u else u.pump r.q) ∧ u.core k = none ∧
        u.raised = s1.raised ++ (if gen = true then [s1.event 0x25C4 8 0x13 0] else []) ∧ u.rd (Reg.DEC_CORE k) = 1 ∧
        u.smpl.pics = s1.smpl.pics ++ (if r.stop = true then [] else [{ run := r, pic := pic, poisoned := gen }])))) ∧
  (∀ (s : State) (x : PicWait) (q i v : Nat) (o : UnitObs), (s.liveWaits ≠ [] → exec (.pictureDone true q i v o) s = .next s) ∧
    (s.liveWaits = [] → s.smpl.pics.find? (fun x => x.run.q == q && x.run.slot == i && x.run.view == v) = some x →
      ∃ t, exec (.pictureDone true q i v o) s = .next t ∧ t = s.decodedDone x o ∧ t.smpl.pics.length < s.smpl.pics.length ∧
        (x.poisoned = true ∨ o.eccBad = true ∨ o.copies = true ∨ s.saf.preOff = true → ∀ y, t.slot? q i = some y → y.bad = true) ∧
        (x.poisoned = false → o.eccBad = false → o.copies = false → s.saf.preOff = false → ∀ y, s.slot? q i = some y → ∃ y', t.slot? q i = some y' ∧
          y'.views = setNth y.views v .done ∧
          (y'.views.all (· == .done) = true → y'.outs = []) ∧
          (y'.views.all (· == .done) = false → y'.outs.length = y.outs.length + 1 ∧ SameMemory s t)))) ∧
  (∀ (s : State) (n slot view : Nat) (f : Frame) (rest : List Frame) (o : UnitObs), (s.sensor n).queue = f :: rest →
    ((∃ m ∈ s.liveWaits, s.fillOf n < s.fillOf m) → exec (.pictureDone false n slot view o) s = .next s) ∧
    ((∀ m ∈ s.liveWaits, s.fillOf m ≤ s.fillOf n) → ∃ t, exec (.pictureDone false n slot view o) s = .next t ∧ t = s.liveDone n f o ∧
      (t.sensor n).queue = rest)) ∧
  (∀ (s : State) (q f r1 b ahead : Nat), q < 16 → s.streamOn q = true → (s.stream q).batch = none → s.cursors q = (f, r1) →
    b = s.fget (Reg.SMPL_CFG_b_m1 q) + 1 →
    ahead = (s.fget (Reg.SMPL_FETCH_batch_ready q) + 65536 - s.fget (Reg.SMPL_FETCH_batch_done q)) % 65536 →
    ((s.stream q).ended = true ∨ s.fget (Reg.SMPL_CFG_nbatch_m1 q) < ahead → exec (.batchForm q) s = .next s) ∧
    ((s.stream q).ended = false → ahead ≤ s.fget (Reg.SMPL_CFG_nbatch_m1 q) →
      (r1 ≤ f ∨ (r1 - f < b ∧ s.fget (Reg.SMPL_CFG_part_last q) = 0) → ∃ t, exec (.batchForm q) s = .next t ∧ t = s.endEpoch q) ∧
      (f < r1 → (b ≤ r1 - f ∨ s.fget (Reg.SMPL_CFG_part_last q) = 1) → ∃ t u, exec (.batchForm q) s = .next t ∧ t = u.pump q ∧
        (u.stream q).batch = some { partialB := decide (r1 - f < b), slots := (List.range (min b (r1 - f))).map fun i => { pos := f + i } } ∧
        Becomes { s with smpl := u.smpl } u [(Reg.SMPL_POS_f q, f + min b (r1 - f))] []))) ∧
  (∀ (s : State) (q : Nat) (x : SmplBatch), q < 16 → s.streamOn q = true → (s.stream q).batch = some x →
    ((∃ i y, x.slots[i]? = some y ∧ s.slotSettled q i y = false) → exec (.batchForm q) s = .next s) ∧
    ((∀ i y, x.slots[i]? = some y → s.slotSettled q i y = true) →
      ((∃ y ∈ x.slots, y.bad = true) → ∃ t, exec (.batchForm q) s = .next t ∧
        t = ((List.range x.slots.length).foldl (fun v i => v.replaceSlot q i) s).pump q) ∧
      ((∀ y ∈ x.slots, y.bad = false) → ∃ t, exec (.batchForm q) s = .next t ∧ t = s.deliver q x ∧ (t.stream q).batch = none ∧
        t.fget (Reg.SMPL_FETCH_batch_ready q) = (s.fget (Reg.SMPL_FETCH_batch_ready q) + 1) % 2 ^ 16 ∧
        t.fget (Reg.SMPL_STATE_batch q) = (s.fget (Reg.SMPL_STATE_batch q) + 1) % 2 ^ 32))) ∧
  (∀ (s : State) (q v : Nat), q < 16 → v < 65536 →
    (within16 (s.fget (Reg.SMPL_FETCH_done q)) v (s.fget (Reg.SMPL_FETCH_issued q)) = true →
      ∃ t u, exec (.smplFetchWrite q (some v) none) s = .next t ∧ t = (if u.streamOn q = true then u.pump q else u) ∧ u.fget (Reg.SMPL_FETCH_done q) = v ∧
        (∀ f ∈ (u.stream q).fetches, f ∈ (s.stream q).fetches ∧
          (v + 65536 - s.fget (Reg.SMPL_FETCH_done q)) % 65536 ≤ (f.n + 65536 - s.fget (Reg.SMPL_FETCH_done q)) % 65536) ∧
        RegsBut s u [(Reg.SMPL_FETCH_done q).addr, (Reg.SMPL_CNT_WAIT_US_us q).addr] ∧ SameMemory s u ∧ u.raised = s.raised) ∧
    (within16 (s.fget (Reg.SMPL_FETCH_done q)) v (s.fget (Reg.SMPL_FETCH_issued q)) = false →
      ∃ t, exec (.smplFetchWrite q (some v) none) s = .next t ∧ t = (if s.streamOn q = true then s.pump q else s)) ∧
    (within16 (s.fget (Reg.SMPL_FETCH_batch_done q)) v (s.fget (Reg.SMPL_FETCH_batch_ready q)) = true →
      ∃ t u, exec (.smplFetchWrite q none (some v)) s = .next t ∧ t = (if u.streamOn q = true then u.pump q else u) ∧
        Becomes s u [(Reg.SMPL_FETCH_batch_done q, v)] []) ∧
    (within16 (s.fget (Reg.SMPL_FETCH_batch_done q)) v (s.fget (Reg.SMPL_FETCH_batch_ready q)) = false →
      ∃ t, exec (.smplFetchWrite q none (some v)) s = .next t ∧ t = (if s.streamOn q = true then s.pump q else s)))

/-- R366–R371, R386, R387: the Ethernet ports. -/
def Obligations.EthernetPorts : Prop :=
  (∀ (s s1 : State) (port stamp sec : Nat) (frame : List Byte) (bad full qci dup gen : Bool) (f : EthFrame), s.portOn port = true → f = readFrame port frame →
    s1 = s.count (Reg.ETH_CNT_RX_frames port) 1 →
    (bad = true → ∃ t u, exec (.ethFrameReceive port frame stamp bad sec full qci dup gen) s = .next t ∧
      Becomes s1 u [(Reg.ETH_CNT_FCS_count port, s.counted (Reg.ETH_CNT_FCS_count port) 1)] [] ∧ (s.ethSensor port f = none → t = u) ∧
      ∀ n payload, s.ethSensor port f = some (n, payload) → t = u.brokenPacket n (s.ethStamp stamp) payload) ∧
    (bad = false → full = true → f.typ ≠ 0x88F7 → ∃ t u, exec (.ethFrameReceive port frame stamp bad sec full qci dup gen) s = .next t ∧
      t = u.fullEvent port ∧ Becomes s1 u [(Reg.ETH_CNT_RX_DROP_count port, s.counted (Reg.ETH_CNT_RX_DROP_count port) 1)] []) ∧
    (bad = false → full = false ∨ f.typ = 0x88F7 →
      (sec = 2 → ∃ t u, exec (.ethFrameReceive port frame stamp bad sec full qci dup gen) s = .next t ∧ t = u.macsecEvent port ∧
        Becomes s1 u [(Reg.ETH_CNT_MACSEC_count port, s.counted (Reg.ETH_CNT_MACSEC_count port) 1)] []) ∧
      (sec ≠ 2 → s.vidOk port f.vlan = false → ∃ t, exec (.ethFrameReceive port frame stamp bad sec full qci dup gen) s = .next t ∧
        Becomes s1 t [(Reg.ETH_CNT_RX_DROP_count port, s.counted (Reg.ETH_CNT_RX_DROP_count port) 1)] []) ∧
      (sec ≠ 2 → s.vidOk port f.vlan = true →
        (qci = true → ∃ t, exec (.ethFrameReceive port frame stamp bad sec full qci dup gen) s = .next t ∧
          Becomes s1 t [(Reg.ETH_CNT_QCI_count port, s.counted (Reg.ETH_CNT_QCI_count port) 1)] []) ∧
        (qci = false → dup = true → ∃ t, exec (.ethFrameReceive port frame stamp bad sec full qci dup gen) s = .next t ∧
          Becomes s1 t [(Reg.ETH_CNT_FRER_count port, s.counted (Reg.ETH_CNT_FRER_count port) 1)] []) ∧
        (qci = false → dup = false → f.typ = 0x88F7 → ∃ t, exec (.ethFrameReceive port frame stamp bad sec full qci dup gen) s = .next t ∧ t = s1) ∧
        (qci = false → dup = false → f.typ ≠ 0x88F7 →
          (∀ b ip udp whole, s.ohpMatch f = some (b, ip, udp, whole) →
            (s.fget Reg.OHP_CTRL_secure_only = 1 → sec ≠ 1 → ∃ t, exec (.ethFrameReceive port frame stamp bad sec full qci dup gen) s = .next t ∧
              Becomes s1 t [(Reg.OHP_CNT_REFUSED_count, s.counted Reg.OHP_CNT_REFUSED_count 1)] []) ∧
            (s.fget Reg.OHP_CTRL_secure_only = 0 ∨ sec = 1 → ∃ t, exec (.ethFrameReceive port frame stamp bad sec full qci dup gen) s = .next t ∧
              t = s1.ohpIn port f b ip udp whole)) ∧
          (s.ohpMatch f = none → ∀ hw ip, s.arpFor f = some (hw, ip) → ∃ t, exec (.ethFrameReceive port frame stamp bad sec full qci dup gen) s = .next t ∧
            t = s1.arpReply port f.vlan hw ip) ∧
          (s.ohpMatch f = none → s.arpFor f = none → ∀ n payload, s.ethSensor port f = some (n, payload) →
            ∃ t, exec (.ethFrameReceive port frame stamp bad sec full qci dup gen) s = .next t ∧ t = s1.sensorPacket n (s.ethStamp stamp) gen payload) ∧
          (s.ohpMatch f = none → s.arpFor f = none → s.ethSensor port f = none →
            ∃ t, exec (.ethFrameReceive port frame stamp bad sec full qci dup gen) s = .next t ∧
              Becomes s1 t [(Reg.ETH_CNT_RX_DROP_count port, s.counted (Reg.ETH_CNT_RX_DROP_count port) 1)] []))))) ∧
  (∀ (s : State) (port : Nat) (frame : List Byte) (stamp sec : Nat) (bad full qci dup gen : Bool), s.portOn port = false →
    exec (.ethFrameReceive port frame stamp bad sec full qci dup gen) s = .next s) ∧
  (∀ (s : State) (port ip udp : Nat) (f : EthFrame) (b : List Byte) (whole fits good : Bool),
    (u b 8 2 ≠ 0xFFFF → u b 8 2 ≠ s.fget Reg.JSY_ROLE_part_index → s.ohpIn port f b ip udp whole = s) ∧
    (u b 8 2 = 0xFFFF ∨ u b 8 2 = s.fget Reg.JSY_ROLE_part_index →
      fits = (if whole then b.length == 32 + u b 6 2 else decide (32 + u b 6 2 ≤ b.length)) →
      good = (u b 0 1 == 1 && u b 0x14 4 == 0 && fits && (u b 2 2 == 1 || (u b 2 2 == 0 && ohpType (u b 1 1) && u b 0x0E 2 == 0))) →
      (good = false → ∃ q : OhpIn, s.ohpIn port f b ip udp whole = s.ohpBadMsg.sendReply (q.reply 1 (s.roleOf q.unit) []) ∧ q.port = port ∧ q.mac = f.src ∧
        q.seq = u b 4 2 ∧ q.unit = u b 0x0C 2) ∧
      (good = true → (u b 2 2 = 1 ∧ u b 1 1 ≠ 0x24 ∧ u b 1 1 ≠ 0x26) ∨ (u b 2 2 = 0 ∧ u b 1 1 = 0x22) → s.ohpIn port f b ip udp whole = s))) ∧
  (∀ (s : State) (port ip udp : Nat) (f : EthFrame) (b : List Byte), 32 ≤ b.length → u b 0 1 = 1 → u b 0x14 4 = 0 → b.length = 32 + u b 6 2 →
    (u b 2 2 = 0 ∧ ohpType (u b 1 1) = true ∧ u b 1 1 ≠ 0x22 ∧ u b 0x0E 2 = 0) ∨ (u b 2 2 = 1 ∧ (u b 1 1 = 0x24 ∨ u b 1 1 = 0x26)) →
    u b 8 2 = 0xFFFF ∨ u b 8 2 = s.fget Reg.JSY_ROLE_part_index →
    (s.ohp.queue.length < 256 → ∃ q, s.ohpIn port f b ip udp true = { s with ohp := { s.ohp with queue := s.ohp.queue ++ [q] } } ∧ q.port = port ∧
      q.mac = f.src ∧ q.typ = u b 1 1 ∧ q.seq = u b 4 2 ∧ q.unit = u b 0x0C 2 ∧ q.role = u b 0x10 4 ∧ q.payload = b.drop 32 ∧ q.srcPart = u b 0x0A 2) ∧
    (256 ≤ s.ohp.queue.length → (s.ohpIn port f b ip udp true).ohp.queue = s.ohp.queue ∧
      Becomes { s with ohp := { s.ohp with fullAt := if onceSec s.ohp.fullAt s.now = true then some s.now else s.ohp.fullAt } }
        (s.ohpIn port f b ip udp true) [(Reg.OHP_CNT_DROP_count, s.counted Reg.OHP_CNT_DROP_count 1)]
        (if onceSec s.ohp.fullAt s.now = true then [s.event 0x04C3 8 0x14 0] else []))) ∧
  (∀ (s : State) (port rate : Nat), port < 6 → s.fget (Reg.ETH_PORT_CTRL_en port) = 1 →
    (s.fget (Reg.ETH_PORT_STATUS_link_up port) = 0 → ∃ t, exec (.ethLinkChange port true rate) s = .next t ∧
      Becomes s t [(Reg.ETH_PORT_STATUS_rate port, s.portRate port rate), (Reg.ETH_PORT_STATUS_link_up port, 1)] [s.event 0x0481 8 0x14 0]) ∧
    (s.fget (Reg.ETH_PORT_STATUS_link_up port) = 0 → exec (.ethLinkChange port false rate) s = .next s) ∧
    (s.fget (Reg.ETH_PORT_STATUS_link_up port) = 1 → exec (.ethLinkChange port true rate) s = .next s ∧
      ∃ t u, exec (.ethLinkChange port false rate) s = .next t ∧ t = (if port = s.ptpPort then u.syncLost else u) ∧
        Becomes s u [(Reg.ETH_PORT_STATUS_link_up port, 0)] [s.event 0x0481 8 0x14 0])) ∧
  (∀ (s : State) (port : Nat) (l : GateList), (s.gateAt port).next = some l →
    (l.ok = false → ∃ t, exec (.gclSwitch port) s = .next t ∧
      t = { s.setGate port { s.gateAt port with next := none } with raised := s.raised ++ [s.event 0x0485 8 0x14 0] }) ∧
    (l.ok = true → s.gptpNow < l.base → exec (.gclSwitch port) s = .next s) ∧
    (l.ok = true → (l.base : Int) ≤ s.gptpNow → port < 6 → ∃ t u : State, exec (.gclSwitch port) s = .next t ∧ t = u.release port ∧
      u.gateAt port = { list := some l, idx := 0, until_ := l.base + (nth (0xFF, 0) l.live 0).2, gates := (nth (0xFF, 0) l.live 0).1, next := none } ∧
      u = { (s.showGcl port l) with eth := { s.eth with gate := u.eth.gate } } ∧ ∀ p, p ≠ port → u.gateAt p = s.gateAt p)) ∧
  (∀ (s : State) (port : Nat) (g : GatePort) (l : GateList), s.gateAt port = g → g.list = some l → l.live ≠ [] →
    (s.gptpNow < g.until_ → exec (.gateIntervalEnd port) s = .next s) ∧
    ((g.until_ : Int) ≤ s.gptpNow → ∀ i e, i = (g.idx + 1) % l.live.length → e = nth (0xFF, 0) l.live i → ∃ t, exec (.gateIntervalEnd port) s = .next t ∧
      t = (s.setGate port { g with idx := i, until_ := g.until_ + e.2, gates := e.1 }).release port)) ∧
  (∀ (s : State) (port : Nat), port < 6 →
    (s.release port).eth.waiting = s.eth.waiting.filter (fun x => !(x.1 == port && s.gateOpen port x.2)) ∧
    (s.release port).out = s.out ++ [7, 6, 5, 4, 3, 2, 1, 0].flatMap fun c =>
      (s.eth.waiting.filter fun x => x.1 == port && s.gateOpen port x.2 && s.classOf port x.2 == c).map fun x => x.2.sentAt s.now)

/-- R380–R383, R552: the side-band management port. -/
def Obligations.SideBandPort : Prop :=
  (∀ (s : State) (ws : List Nat), s.pow.phase ≠ .stopped →
    (s.now < s.smp.genAt + 1000 → exec (.shadowRefresh ws) s = .next s) ∧
    (s.smp.genAt + 1000 ≤ s.now → ∃ t, exec (.shadowRefresh ws) s = .next t ∧ t = { s with smp := t.smp } ∧
      t.smp.gen = (s.smp.gen + 1) % 2 ^ 32 ∧ t.smp.genAt = s.now ∧ t.shadow 1 = t.smp.gen ∧
      t.shadow 0xFF = crc32c ((List.range 0xFF).flatMap fun i => leBytes 4 (t.shadow i)) % 2 ^ 32 ∧
      (0 ∈ ws → s.islandUp 0 = true → (∀ w ∈ s.phobosWords, t.shadow w.1 = w.2 % 2 ^ 32) ∧ 0 ∉ t.smp.stale) ∧
      (1 ∈ ws → s.islandUp 1 = true → t.shadow 0x10 = s.fget ⟨Reg.SAF_MON, 31, 0⟩ ∧ 1 ∉ t.smp.stale) ∧
      t.shadow 2 % 4 = b2n (!t.smp.stale.contains 0) + b2n (!t.smp.stale.contains 1) * 2 ∧
      (∀ i, 0 ∉ ws → 3 ≤ i → i < 0x10 → t.shadow i = s.shadow i))) ∧
  (∀ (s : State) (isl : Nat), isl < 2 → isl ∉ s.smp.stale →
    (s.now < nth 0 s.smp.wroteAt isl + 10000 → exec (.shadowStale isl) s = .next s) ∧
    (nth 0 s.smp.wroteAt isl + 10000 ≤ s.now → ∃ t u, exec (.shadowStale isl) s = .next t ∧
      u = { s with smp := { s.smp with stale := s.smp.stale ++ [isl] } } ∧
      (isl = 0 → s.islandUp 1 = true → t = u.raiseKy 0x0505 0x15 0 0xFF) ∧ (isl = 1 ∨ s.islandUp 1 = false → t = u))) ∧
  (∀ (s : State) (addr n : Nat), (∃ t bs, exec (.statusRead addr n) s = .next t ∧ bs.length = 4 * n ∧
      t = { s with smp := { s.smp with arm := none }, out := s.out ++ [Msg.smp bs] } ∧
      ∀ i, i < n → u bs (4 * i) 4 = if addr ≤ 0xFF then s.shadow ((addr + i) % 256) % 2 ^ 32 else 0) ∧
    ∃ t, exec (.logRead addr n) s = .next t ∧
      t = { s with smp := { s.smp with arm := none }, out := s.out ++ [Msg.smp (sliceB s.frozenLog addr n)] }) ∧
  (∀ (s : State) (addr data : Nat), addr < 2 ^ 16 → data < 2 ^ 32 →
    ∃ t, exec (.actionArm addr data) s = .next t ∧ t = { s with smp := { s.smp with
      arm := if (s.smp.gen + 2 ^ 32 - data) % 2 ^ 32 < 1000 then some { addr := addr, data := data, at_ := s.now } else none } }) ∧
  (∀ (s : State) (a : SmpArm), s.smp.arm = some a →
    (s.now ≤ a.at_ + 1000000 → exec .actionArmExpiry s = .next s) ∧
    (a.at_ + 1000000 < s.now → ∃ t, exec .actionArmExpiry s = .next t ∧ t = { s with smp := { s.smp with arm := none } })) ∧
  (∀ (s : State) (c : Instr) (action arg data : Nat) (en good : Bool), s.pow.phase ≠ .stopped →
    (c, action, en) ∈ [(Instr.safeState arg data, 1, true), (Instr.appReset arg data, 2, s.pow.committed && s.flag Reg.SMP_CTRL_reset_en),
      (Instr.logFreeze arg data, 3, true), (Instr.smpModeReq arg data, 4, s.pow.committed && s.flag Reg.SMP_CTRL_mode_en)] →
    good = (match s.smp.arm with
      | some a => decide (a.addr = action + arg % 256 * 256 ∧ data % 2 ^ 32 = 0xFFFFFFFF - a.data ∧ s.now ≤ a.at_ + 1000000 ∧ (action = 4 ∨ arg % 256 = 0))
      | none => false) →
    (good = false ∨ en = false → ∃ t, exec c s = .next t ∧
      Becomes { s with smp := { s.smp with arm := none, action := action, result := if good = true then 2 else 3 } } t
        [(Reg.SMP_CNT_REJECT_count, s.counted Reg.SMP_CNT_REJECT_count 1)] [s.event 0x0502 8 0x15 0]) ∧
    (good = true → en = true → ∃ t v, exec c s = .next t ∧
      Becomes { s with smp := { v.smp with arm := none, action := action, result := 1 } } v
        [(Reg.SMP_CNT_ACTION_count, s.counted Reg.SMP_CNT_ACTION_count 1)] [s.event 0x0501 8 0x15 0] ∧
      (action = 1 → v.smp.words = s.smp.words ∧ ∃ w, w = (v.raise 0x4503 8 0x15 0).enterSafe 0x4503 ∧
        t = { w with pins := { w.pins with phobosLow := true, deimosLow := true } }) ∧
      (action = 2 → t = v.takeReset 32 2) ∧ (action = 4 → t = v.modeReq (arg % 256)) ∧
      (action = 3 → t = v ∧ t.smp.phobosLog = (if 0 ∈ s.smp.stale then [] else s.saf.ring.map fun r => s.logRecord r.1) ∧
        t.smp.frozen = some (b2n (!s.smp.stale.contains 0) + b2n (s.islandUp 1) * 2, s.now, s.fget Reg.SAF_STATUS_total, s.fget Reg.SAF_LOG_HEAD_head) ∧
        t.smp.deimosLog.length = if s.islandUp 1 = true then min 16 s.saf.dlogTotal else 0)))

/-- R384, R385, R440–R443, R447, R467: what drives the safe-state pins. -/
def Obligations.SafeStateAndLockstep : Prop :=
  (∀ (s : State) (code : Nat), (s.safe = true → s.enterSafe code = s) ∧
    (s.safe = false → (s.enterSafe code).safe = true ∧
      (s.enterSafe code).pins = { s.pins with phobosLow := true, deimosLow := true, faultLow := true } ∧
      (s.enterSafe code).saf.frames = s.saf.frames ++ [(0, 4, code)] ∧
      (∀ r, (s.enterSafe code).run? r.key = some r → r.live = false) ∧
      SameMemory s (s.enterSafe code) ∧ (s.enterSafe code).otp = s.otp ∧ (s.enterSafe code).out = s.out)) ∧
  (∀ (s : State) (low : Nat), (low < 1000 → exec (.safeReq low) s = .next s) ∧
    (1000 ≤ low → s.pow.phase ≠ .stopped → ∃ t u, exec (.safeReq low) s = .next t ∧
      u = ({ s with saf := { s.saf with safeReqSeen := true } }.raise 0x4504 8 0x20 0).enterSafe 0x4504 ∧
      t = { u with pins := { u.pins with phobosLow := true, deimosLow := true } })) ∧
  (∀ (s : State) (c : Nat), s.saf.c3At = some c →
    (s.safe = false → c + 10000000 ≤ s.now → ∃ t, exec .faultNRelease s = .next t ∧
      t = { s with pins := { s.pins with faultLow := false }, saf := { s.saf with c3At := none } }) ∧
    (s.safe = true ∨ s.now < c + 10000000 → exec .faultNRelease s = .next s)) ∧
  (∀ s : State, s.pow.phase ≠ .stopped →
    (s.fget (Reg.CHK_ISL_split .hub) = 0 → ∃ t, exec (.lockstepMismatch 0) s = .next t ∧
      Becomes { s with pins := { s.pins with phobosLow := true }, saf := { s.saf with frames := s.saf.frames ++ [(0, 4, 0x45CD)] } } t
        [(Reg.CHK_ISL_fault .hub, 1)] [s.event 0x45CD 8 0x20 0]) ∧
    (s.fget (Reg.CHK_ISL_split .hub) = 1 → exec (.lockstepMismatch 0) s = .next s) ∧
    (s.fget (Reg.CHK_ISL_split .kysta) = 0 → s.pow.kyDown = false → ∃ t u, exec (.lockstepMismatch 1) s = .next t ∧
      Becomes s u [(Reg.CHK_ISL_fault .kysta, 1)] [] ∧ t = (u.raiseKy 0x45CD 0x20 0 0xFF).islandSafe 1 0x45CD ∧ t.pins.deimosLow = true) ∧
    (s.fget (Reg.CHK_ISL_split .kysta) = 1 ∨ s.pow.kyDown = true → exec (.lockstepMismatch 1) s = .next s)) ∧
  (∀ (s : State) (input : Nat) (agree : List Bool) (n : Nat), s.islandUp 0 = true → s.fget (Reg.CHK_ISL_split .hub) = 0 → input < 256 →
    n = ((agree.take 3).takeWhile fun b => !b).length →
    (n < 3 → ∃ t, exec (.asyncInput 0 input agree) s = .next t ∧
      Becomes s t [(Reg.CHK_CNT_AGREE_RETRY_count .hub, s.counted (Reg.CHK_CNT_AGREE_RETRY_count .hub) n)] []) ∧
    (n = 3 → ∃ t, exec (.asyncInput 0 input agree) s = .next t ∧
      Becomes { s with pins := { s.pins with phobosLow := true }, saf := { s.saf with frames := s.saf.frames ++ [(0, 4, 0x45CE)] } } t
        [(Reg.CHK_ISL_fault .hub, 1), (Reg.CHK_ISL_input .hub, input),
         (Reg.CHK_CNT_AGREE_RETRY_count .hub, s.counted (Reg.CHK_CNT_AGREE_RETRY_count .hub) 3)] [s.event 0x45CE 8 0x20 0])) ∧
  (∀ (s : State) (input : Nat) (agree : List Bool) (n : Nat), s.islandUp 1 = true → s.fget (Reg.CHK_ISL_split .kysta) = 0 → input < 256 →
    n = ((agree.take 3).takeWhile fun b => !b).length → ∃ t u, exec (.asyncInput 1 input agree) s = .next t ∧
      Becomes s u ((Reg.CHK_CNT_AGREE_RETRY_count .kysta, s.counted (Reg.CHK_CNT_AGREE_RETRY_count .kysta) n) ::
        (if n = 3 then [(Reg.CHK_ISL_fault .kysta, 1), (Reg.CHK_ISL_input .kysta, input)] else [])) [] ∧
      t = (if n = 3 then (u.raiseKy 0x45CE 0x20 0 0xFF).islandSafe 1 0x45CE else u)) ∧
  (∀ (s : State) (isl input : Nat) (agree : List Bool), isl < 2 →
    s.islandUp isl = false ∨ s.fget (Reg.CHK_ISL_split (if isl = 0 then .hub else .kysta)) = 1 → exec (.asyncInput isl input agree) s = .next s) ∧
  (∀ s : State, s.islandUp 1 = true →
    (s.fget Reg.SEC_STATUS_debug_level = 2 → ∃ t u, exec (.debugHalt 1) s = .next t ∧ u = (s.raiseKy 0x45CF 0x20 0 0xFF).islandSafe 1 0x45CF ∧
      t = { u with
        pins := { u.pins with phobosLow := true }
        saf := { u.saf with halted := withOnce 1 s.saf.halted } }) ∧
    (s.fget Reg.SEC_STATUS_debug_level ≠ 2 → exec (.debugHalt 1) s = .next s)) ∧
  (∀ s : State, s.islandUp 0 = true →
    (s.fget Reg.SEC_STATUS_debug_level = 2 → ∃ t, exec (.debugHalt 0) s = .next t ∧ t = { s with
      pins := { s.pins with phobosLow := true, deimosLow := true }, raised := s.raised ++ [s.event 0x45CF 8 0x20 0]
      saf := { s.saf with frames := s.saf.frames ++ [(0, 4, 0x45CF)], halted := withOnce 0 s.saf.halted } }) ∧
    (s.fget Reg.SEC_STATUS_debug_level ≠ 2 → exec (.debugHalt 0) s = .next s))

/-- R446–R450, R462: the channel between Phobos and Deimos. -/
def Obligations.IslandChannel : Prop :=
  (∀ (s : State) (src typ p : Nat), src < 2 → typ < 16 → p < 2 ^ 40 → ∃ t, s.frameIn src typ p 0 = (t, some p) ∧
    Becomes { s with saf := { s.saf with
        seqs := setNth s.saf.seqs src ((nth 0 s.saf.seqs src + 1) % 16)
        rxAt := setNth s.saf.rxAt (1 - src) s.now, crcRun := setNth s.saf.crcRun (1 - src) 0 } } t
      (if s.saf.chanFail = [] then [(Reg.SAF_STATUS_chan_ok, 1)] else []) []) ∧
  (∀ (s : State) (src typ p err rx : Nat), src < 2 → typ < 16 → rx = islandFrame typ (nth 0 s.saf.seqs src) p ^^^ (err % 2 ^ 64) →
    crc16 (rx % 2 ^ 48) = rx / 2 ^ 48 → rx % 16 ≠ typ → ∃ t, s.frameIn src typ p err = (t, none) ∧
    Becomes { s with saf := { s.saf with
        seqs := setNth s.saf.seqs src ((nth 0 s.saf.seqs src + 1) % 16)
        rxAt := setNth s.saf.rxAt (1 - src) s.now, crcRun := setNth s.saf.crcRun (1 - src) 0 } } t
      (if s.saf.chanFail = [] then [(Reg.SAF_STATUS_chan_ok, 1)] else []) []) ∧
  (∀ (s : State) (src typ p err rx : Nat), src < 2 → rx = islandFrame typ (nth 0 s.saf.seqs src) p ^^^ (err % 2 ^ 64) →
    crc16 (rx % 2 ^ 48) ≠ rx / 2 ^ 48 → ∃ u v, (s.frameIn src typ p err).2 = none ∧
      u = { s with saf := { s.saf with
              seqs := setNth s.saf.seqs src ((nth 0 s.saf.seqs src + 1) % 16)
              crcRun := setNth s.saf.crcRun (1 - src) (nth 0 s.saf.crcRun (1 - src) + 1) } } ∧
      v = (u.raiseIsl (1 - src) 0x1606).count Reg.SAF_CNT_CHAN_count 1 ∧
      (s.frameIn src typ p err).1 = if 3 ≤ nth 0 s.saf.crcRun (1 - src) + 1 then v.channelFail (1 - src) else v) ∧
  (∀ (s : State) (code unit det about : Nat) (e : Event), e = { time := s.now, code := code, origin := 9, unit := unit, detail := det, about := about } →
    codeClass code ≠ 4 → ∃ t, t = s.raiseKy code unit det about ∧
      t.rd (Reg.SAF_DLOG (s.saf.dlogTotal % 16) 0) = BitVec.ofNat 64 e.words.1 ∧ t.rd (Reg.SAF_DLOG (s.saf.dlogTotal % 16) 1) = BitVec.ofNat 64 e.words.2 ∧
      RegsBut s t [Reg.SAF_DLOG (s.saf.dlogTotal % 16) 0, Reg.SAF_DLOG (s.saf.dlogTotal % 16) 1] ∧
      t = { s with
        regs := t.regs
        saf := { s.saf with dlogTotal := s.saf.dlogTotal + 1, dfwd := s.saf.dfwd ++ [e], frames := s.saf.frames ++ [(1, 3, code)] } }) ∧
  (∀ (s : State) (isl : Nat), isl < 2 → (isl ∈ s.saf.chanFail → s.channelFail isl = s) ∧
    (isl ∉ s.saf.chanFail → ∃ u, s.channelFail isl = u.raiseIsl isl 0x4603 ∧
      Becomes { s with saf := { s.saf with chanFail := s.saf.chanFail ++ [isl] } } u [(Reg.SAF_STATUS_chan_ok, 0)] [])) ∧
  (∀ (s : State) (isl : Nat), isl < 2 → s.islandUp isl = true → s.pow.phase ≠ .inReset →
    (nth 0 s.saf.rxAt isl + 10000 ≤ s.now → ∃ t, exec (.channelSilence isl) s = .next t ∧ t = s.channelFail isl) ∧
    (s.now < nth 0 s.saf.rxAt isl + 10000 → exec (.channelSilence isl) s = .next s)) ∧
  (∀ (s : State) (n : Nat), n < 2 ^ 32 → s.islandUp 1 = true → ∃ t, exec (.challenge n 0) s = .next t ∧ t.saf.chal = some { n := n, at_ := s.now } ∧
    t.fget Reg.SAF_CNT_CR_count = (if s.saf.chal.any (fun c => decide (c.at_ + 750000 ≤ s.now)) = true then s.counted Reg.SAF_CNT_CR_count 1
      else s.fget Reg.SAF_CNT_CR_count) ∧
    t.fget Reg.SAF_CR_sent = (s.fget Reg.SAF_CR_sent + 1) % 2 ^ (Reg.SAF_CR_sent.hi + 1 - Reg.SAF_CR_sent.lo) ∧ t.raised = s.raised) ∧
  (∀ (s : State) (v : Nat) (c : Challenge), v < 2 ^ 32 → s.islandUp 0 = true → s.islandUp 1 = true → s.saf.chal = some c →
    (v = expectAnswer c.n → c.at_ + 250000 ≤ s.now → s.now ≤ c.at_ + 750000 → ∃ t, exec (.answer v 0) s = .next t ∧ t.saf.chal = none ∧
      t.fget Reg.SAF_CR_fails = 0 ∧ t.raised = s.raised ∧ t.saf.dfwd = s.saf.dfwd) ∧
    (v ≠ expectAnswer c.n ∨ s.now < c.at_ + 250000 ∨ c.at_ + 750000 < s.now → ∃ t u, exec (.answer v 0) s = .next t ∧ (s.frameIn 0 2 v 0).1 = u ∧
      t = u.answerFail) ∧
    (c.at_ + 750000 ≤ s.now → ∃ t, exec .answerTimeout s = .next t ∧ t = s.answerFail) ∧
    (s.now < c.at_ + 750000 → exec .answerTimeout s = .next s)) ∧
  (∀ (s : State) (e : Event), e = { time := s.now, code := 0x0607, origin := 9, unit := 0x20, detail := 0 } →
    s.answerFail.saf.chal = none ∧ s.answerFail.fget Reg.SAF_CNT_CR_count = s.counted Reg.SAF_CNT_CR_count 1 ∧
    s.answerFail.fget Reg.SAF_CR_fails = min 3 (s.fget Reg.SAF_CR_fails + 1) ∧
    (s.fget Reg.SAF_CR_fails ≠ 1 → s.answerFail.saf.dfwd = s.saf.dfwd ++ [e] ∧ s.answerFail.pins = s.pins) ∧
    (s.fget Reg.SAF_CR_fails = 1 → s.answerFail.saf.dfwd = s.saf.dfwd ++ [e, { e with code := 0x4601 }] ∧ s.answerFail.pins.deimosLow = true)) ∧
  (∀ (s : State) (e : Event) (rest : List Event) (fs : List (Nat × Nat × Nat)), e.code < 65536 → s.saf.dfwd = e :: rest →
    s.saf.frames = (1, 3, e.code) :: fs → ∃ t, exec (.islandEvent 0) s = .next t ∧ t.raised = s.raised ++ [e] ∧ t.saf.dfwd = rest ∧ t.saf.frames = fs) ∧
  (∀ (s : State) (code : Nat) (fs : List (Nat × Nat × Nat)), code < 65536 → s.saf.frames = (0, 4, code) :: fs →
    ∃ t, exec (.safeFrame 0 0) s = .next t ∧ t.saf.frames = fs ∧ t.raised = s.raised ∧
      t.pins = if 1 ∈ s.saf.chanFail then s.pins else { s.pins with deimosLow := true }) ∧
  (∀ (s : State) (m : Nat) (ok : Bool), m < 38 → s.islandUp 1 = true → s.pow.phase = .booting → ∃ t u, exec (.inject 1 m ok 0) s = .next t ∧
    (s.frameIn 1 5 (m + b2n ok * 256) 0).1 = u ∧ t = u.recordInjection m ok) ∧
  (∀ (s : State) (m : Nat), m < 38 →
    Becomes s (s.recordInjection m true) [(⟨Reg.SAF_INJ_DONE, m, m⟩, 1)] [] ∧
    (m < 28 ∨ m = 37 → Becomes s (s.recordInjection m false) [(⟨Reg.SAF_INJ, m, m⟩, 1), (⟨Reg.SAF_INJ_DONE, m, m⟩, 1)] [s.event 0x060C 8 0x20 0]) ∧
    (28 ≤ m → m ≤ 36 → s.pow.phase = .booting → Becomes { s with saf := { s.saf with startFail := true } } (s.recordInjection m false)
      [(⟨Reg.SAF_INJ, m, m⟩, 1), (⟨Reg.SAF_INJ_DONE, m, m⟩, 1)] [s.event 0x060C 8 0x20 0, s.event 0x460B 8 0x20 0]))

/-- R451: the heartbeat of Deimos. -/
def Obligations.DeimosHeartbeat : Prop :=
  (∀ s : State, s.islandUp 0 = true →
    (s.saf.hbTold = false → s.saf.loopAt + 100000 ≤ s.now → ∃ t, exec .heartbeatLoss s = .next t ∧
      Becomes { s with saf := { s.saf with hbTold := true } } t [(Reg.SAF_STATUS_deimos_ok, 0)] [s.event 0x4602 8 0x20 0]) ∧
    (s.now < s.saf.loopAt + 100000 ∨ s.saf.hbTold = true → exec .heartbeatLoss s = .next s)) ∧
  (∀ (s : State) (loops n : Nat), s.islandUp 1 = true → n = (nth 0 s.saf.loops 1 + loops) % 65536 → ∃ t, exec (.islandStatus 1 loops 0) s = .next t ∧
    t.saf.loops = setNth s.saf.loops 1 n ∧ t.saf.rxAt = setNth s.saf.rxAt 0 s.now ∧ t.raised = s.raised ∧ t.pins = s.pins ∧
    RegsBut s t [Reg.SAF_STATUS] ∧
    (n ≠ s.saf.loopCnt → t.saf.loopCnt = n ∧ t.saf.loopAt = s.now ∧ t.saf.hbTold = false ∧ t.fget Reg.SAF_STATUS_deimos_ok = 1) ∧
    (n = s.saf.loopCnt → t.saf.loopAt = s.saf.loopAt ∧ t.saf.hbTold = s.saf.hbTold ∧ t.fget Reg.SAF_STATUS_deimos_ok = s.fget Reg.SAF_STATUS_deimos_ok))

/-- R465–R472: the log of Phobos and its handlers. -/
def Obligations.LogAndHandlers : Prop :=
  (∀ (s : State) (e : Event) (h : Nat), s.raised = [e] → codeClass e.code ≤ 2 →
    e.code ∉ [0x1088, 0x1443, 0x060C, 0x0684, 0x15C9] → s.saf.pend = [] → s.saf.stack = [] → s.hlt.unavailFrom = none →
    s.safe = false → s.plan.lost = [] → h = s.fget Reg.SAF_LOG_HEAD_head → h < 64 →
    ∃ t, exec (.eventLogEntry [0]) s = .next t ∧ t.raised = [] ∧ t.rd (Reg.SAF_LOG h 0) = BitVec.ofNat 64 e.words.1 ∧
      t.rd (Reg.SAF_LOG h 1) = BitVec.ofNat 64 e.words.2 ∧ t.fget Reg.SAF_LOG_HEAD_head = (h + 1) % 64 ∧
      t.fget Reg.SAF_STATUS_total = (s.fget Reg.SAF_STATUS_total + 1) % 2 ^ 32 ∧
      t.fget Reg.SAF_STATUS_highest = max (codeClass e.code) (s.fget Reg.SAF_STATUS_highest) ∧
      t.fget Reg.SAF_STATUS_handling = codeClass e.code ∧ t.fget Reg.SAF_STATUS_pending = 1 ∧ t.saf.stack = [h] ∧
      t.saf.pend = [{ slot := h, seq := s.fget Reg.SAF_STATUS_total, cls := codeClass e.code, started := true }] ∧ t.saf.lastCode = e.code ∧
      t = { s with regs := t.regs, raised := [], saf := t.saf } ∧ t.pins = s.pins ∧
      RegsBut s t [Reg.SAF_LOG h 0, Reg.SAF_LOG h 1, Reg.SAF_LOG_HEAD, Reg.SAF_STATUS]) ∧
  (∀ (s : State) (e : Event), s.raised = [e] → e.code ∈ [0x3047, 0x32C6, 0x360E, 0x3704] → s.saf.pend.length < 64 → s.safe = false →
    ∃ t v w, exec (.eventLogEntry [0]) s = .next t ∧ v = ({ s with raised := [] }.logOne e).runHandlers ∧
      w = { v with saf := { v.saf with c3At := some s.now }, pins := { v.pins with faultLow := true } } ∧ t = (w.declareLost e.origin).noteUnavail) ∧
  (∀ (s : State) (e : Event), s.raised = [e] → codeClass e.code = 4 → e.code ∉ [0x4209, 0x460B, 0x4503, 0x4504] → s.saf.pend.length < 64 →
    s.safe = false → ∃ t v w, exec (.eventLogEntry [0]) s = .next t ∧ v = ({ s with raised := [] }.logOne e).runHandlers ∧
      w = { v with saf := { v.saf with c3At := some s.now }, pins := { v.pins with faultLow := true } } ∧
      t = ((w.enterSafe e.code).withdrawNow 5 e.code).noteUnavail ∧ t.pins.phobosLow = true ∧ t.pins.deimosLow = true ∧ t.safe = true) ∧
  (∀ (s : State) (e : Event), 64 ≤ s.saf.pend.length → codeClass e.code ≤ 1 → Becomes s (s.logOne e)
    [(Reg.SAF_CNT_LOST_count, s.counted Reg.SAF_CNT_LOST_count 1)] []) ∧
  (∀ (s : State) (a b : LogPend) (rest : List Nat), s.saf.pend = [a, b] → s.saf.stack = a.slot :: rest → a.slot ≠ b.slot → a.started = true →
    b.started = false → (a.cls < b.cls → s.runHandlers.saf.stack = b.slot :: a.slot :: rest ∧
        s.runHandlers.fget Reg.SAF_STATUS_handling = b.cls % 16 ∧ s.runHandlers.raised = s.raised) ∧
      (b.cls ≤ a.cls → s.runHandlers.saf = s.saf ∧ s.runHandlers.fget Reg.SAF_STATUS_handling = a.cls % 16)) ∧
  (∀ (s : State) (a b : LogPend), s.saf.pend = [a, b] → s.saf.stack = [a.slot] → a.slot ≠ b.slot → b.started = false →
    ∃ t, exec .handlerEnd s = .next t ∧ t.saf.stack = [b.slot] ∧ t.saf.pend = [{ b with started := true }] ∧
      Becomes { s with saf := t.saf } t ((Reg.SAF_STATUS_pending, 1) :: (Reg.SAF_STATUS_handling, b.cls % 16) ::
        (if s.fget Reg.SAF_LOG_HEAD_head = b.slot then [(Reg.SAF_LOG_HEAD_head, (b.slot + 1) % 64)] else [])) []) ∧
  (∀ s : State, s.saf.stack = [] → exec .handlerEnd s = .next s) ∧
  (∀ (s : State) (c : Instr), c ∈ [Instr.handlerGuardExpiry, Instr.handlerTrap, Instr.islandSramEccError false] →
    (s.saf.stack ≠ [] ∨ c = .islandSramEccError false → ∃ t, exec c s = .next t ∧ t = { s with
      raised := s.raised ++ [s.event 0x4604 8 0x20 0], pins := { s.pins with phobosLow := true }
      saf := { s.saf with frames := s.saf.frames ++ [(0, 4, 0x4604)] } }) ∧
    (s.saf.stack = [] → c ≠ .islandSramEccError false → exec c s = .next s)) ∧
  (∀ (s : State) (n : Nat), (∃ t, exec (.islandSramEccError true) s = .next t ∧ t = { s with raised := s.raised ++ [s.event 0x160D 8 0x20 0] }) ∧
    (s.hasDie n = true → (∃ t, exec (.stewardSramEccError n true) s = .next t ∧ t = { s with raised := s.raised ++ [s.event 0x160D n 0x20 0] }) ∧
      ∃ t, exec (.stewardSramEccError n false) s = .next t ∧ t = { s with raised := s.raised ++ [s.event 0x360E n 0x20 0] }))

/-- R455, R459, R460, R475: windows and monitors. -/
def Obligations.WindowsAndMonitors : Prop :=
  (∀ (s : State) (w : Nat), 2 ≤ w → w < 64 →
    (s.hubJudged w = false → ∃ t, exec (.wdgKick w) s = .next t ∧ Becomes s t [(Reg.WDG_KICK_window, w)] []) ∧
    (s.hubJudged w = true → w ∉ s.saf.kicked → (s.hubWindow w).1 ≤ s.now → s.now ≤ (s.hubWindow w).2 → ∃ t, exec (.wdgKick w) s = .next t ∧
      Becomes { s with saf := { s.saf with kicked := s.saf.kicked ++ [w] } } t [(Reg.WDG_KICK_window, w)] []) ∧
    (s.hubJudged w = true → w ∉ s.saf.kicked → s.now < (s.hubWindow w).1 ∨ (s.hubWindow w).2 < s.now → ∃ t u, exec (.wdgKick w) s = .next t ∧
      Becomes { s with saf := { s.saf with kicked := s.saf.kicked ++ [w] } } u [(Reg.WDG_KICK_window, w)] [] ∧ t = u.hubFault w 1) ∧
    (s.hubJudged w = true → w ∈ s.saf.kicked → ∃ t u, exec (.wdgKick w) s = .next t ∧ Becomes s u [(Reg.WDG_KICK_window, w)] [] ∧
      t = u.hubFault w 2)) ∧
  (∀ (s : State) (w : Nat), w < 2 → exec (.wdgKick w) s = .next s) ∧
  (∀ (s : State) (w why : Nat), w < 64 → why < 3 → Becomes s (s.hubFault w why)
    (s.captured Reg.WDG_HUB_ERR (w + why * 2 ^ 6) ++ [(Reg.WDG_HUB_CNT_count, s.counted Reg.WDG_HUB_CNT_count 1)])
    [s.event (if s.fget (Reg.WDG_HUB_react w) = 1 then 0x4646 else 0x2645) 8 0xFF w]) ∧
  (∀ (s : State) (w : Nat), s.hubJudged w = true → w ∉ s.saf.closed →
    (s.now ≤ (s.hubWindow w).2 → exec (.hubWindowClose w) s = .next s) ∧
    ((s.hubWindow w).2 < s.now → w ∈ s.saf.kicked → ∃ t, exec (.hubWindowClose w) s = .next t ∧
      t = { s with saf := { s.saf with closed := s.saf.closed ++ [w] } }) ∧
    ((s.hubWindow w).2 < s.now → w ∉ s.saf.kicked → 2 ≤ w → ∃ t, exec (.hubWindowClose w) s = .next t ∧
      t = { s with saf := { s.saf with closed := s.saf.closed ++ [w] } }.hubFault w 0) ∧
    ((s.hubWindow w).2 < s.now → w ∉ s.saf.kicked → w < 2 → ∃ t, exec (.hubWindowClose w) s = .next t ∧
      t = ({ s with saf := { s.saf with closed := s.saf.closed ++ [w] } }.hubFault w 0).completeHub w)) ∧
  (∀ (s : State) (w : Nat), w < 64 → ∃ why, why < 4 ∧ Becomes { s with free := s.free + 1 } (s.windowUnsound w)
    (s.captured Reg.WDG_HUB_ERR (w + why * 2 ^ 6)) [s.event 0x2645 8 0xFF w]) ∧
  (∀ (s : State) (w : Nat), w ∈ s.saf.closed ∨ s.hubJudged w = false → exec (.hubWindowClose w) s = .next s) ∧
  (∀ (s : State) (rail mv lo hi : Nat) (good : Bool), rail < 16 → s.judged rail = true → (lo, hi) = railLimits rail → good = decide (lo ≤ mv ∧ mv ≤ hi) →
    (good = true → ∃ t, exec (.railExcursion rail mv) s = .next t ∧ Becomes { s with saf := { s.saf with monOut := setBit s.saf.monOut rail false } } t
      [(⟨Reg.SAF_MON, rail, rail⟩, 1)] []) ∧
    (good = false → bit s.saf.monOut rail = true → ∃ t, exec (.railExcursion rail mv) s = .next t ∧ Becomes s t [(⟨Reg.SAF_MON, rail, rail⟩, 0)] []) ∧
    (good = false → bit s.saf.monOut rail = false → ∃ t u, exec (.railExcursion rail mv) s = .next t ∧
      Becomes { s with saf := { s.saf with monOut := setBit s.saf.monOut rail true } } u
        (s.captured Reg.SAF_MON_ERR (rail + b2n (decide (hi < mv)) * 2 ^ 5 + mv % 2 ^ 32 * 2 ^ 16) ++ [(⟨Reg.SAF_MON, rail, rail⟩, 0)]) [] ∧
      t = if rail < 8 then u.raiseKy 0x3609 0x20 0 rail else if rail = 10 then u.raise 0x460A 8 0x20 0 else u.raiseKy 0x460A 0x20 0 0xFF)) ∧
  (∀ (s : State) (f : Nat), s.judged 16 = true →
    (900000 ≤ f → f ≤ 1100000 → ∃ t, exec (.clockMonitorWindow [f]) s = .next t ∧
      Becomes { s with saf := { s.saf with monOut := setBit s.saf.monOut 16 false } } t [(⟨Reg.SAF_MON, 16, 16⟩, 1)] []) ∧
    (f < 900000 ∨ 1100000 < f → bit s.saf.monOut 16 = false → ∃ t u, exec (.clockMonitorWindow [f]) s = .next t ∧ t = u.raiseKy 0x3609 0x20 0 0 ∧
      Becomes { s with saf := { s.saf with monOut := setBit s.saf.monOut 16 true } } u
        (s.captured Reg.SAF_MON_ERR (2 ^ 4 + b2n (decide (1000000 < f)) * 2 ^ 5 + f % 2 ^ 32 * 2 ^ 16) ++ [(⟨Reg.SAF_MON, 16, 16⟩, 0)]) []))

/-- R389–R395, R404, R461–R463: the boot sequence. -/
def Obligations.BootSteps : Prop :=
  (∀ s : State, s.pow.phase = .inReset → (s.pow.brownHeld = true → exec (.bootSequence .release) s = .next s) ∧
    (s.pow.brownHeld = false → ∃ t, exec (.bootSequence .release) s = .next t ∧
      Becomes { s with pow := { s.pow with phase := .booting, relAt := s.now } } t [(Reg.SAF_INJ_DONE_done, 0)] [])) ∧
  (∀ (s : State) (st : BootStep), s.pow.phase ≠ .booting → st ≠ .release → st ≠ .burn → exec (.bootSequence st) s = .next s) ∧
  (∀ s : State, s.pow.phase = .booting → s.hubDom 8 = 0 →
    (s.fget Reg.CLK_STATUS_ref_ok = 1 → s.part.tzCount ∈ [2, 4, 8] → ∃ t, exec (.bootSequence .clocks) s = .next t ∧
      t.fget Reg.CLK_STATUS_locked = 1 ∧ t.pow.synthUp = true ∧ t.hubDom 8 = 2 ∧ t.raised = s.raised ∧
      ∀ d, d < 8 → s.dieUp d = true → t.fget (Reg.PACE_RAIL_rail_cmd d) = 850 ∧ ∀ k, 18 ≤ k → k ≤ 21 → t.dom d k = 3) ∧
    (s.fget Reg.CLK_STATUS_ref_ok = 0 → exec (.bootSequence .clocks) s = .next s)) ∧
  (∀ (s : State) (d c : Nat), s.pow.phase = .booting → s.hubDom 8 = 2 → d < 9 → s.hasChan d c = true → s.chanUp d c = false → s.chanFailed d c = false →
    (∃ t, exec (.bootSequence (.memory d c true)) s = .next t ∧ Becomes { s with mem := t.mem } t
      [(Reg.MEM_STATUS_ch_trained (memWin d), setBit (s.fget (Reg.MEM_STATUS_ch_trained (memWin d))) c true)] []) ∧
    ∃ t, exec (.bootSequence (.memory d c false)) s = .next t ∧ t = s.failChannel d c) ∧
  (∀ (s : State) (m : Nat), s.pow.phase = .booting → s.hubDom 8 = 2 → m < 38 →
    (∃ t, exec (.bootSequence (.inject m [])) s = .next t ∧ t = s.recordInjection m true) ∧
    ∀ fails, fails ≠ [] → ∃ t, exec (.bootSequence (.inject m fails)) s = .next t ∧
      t = fails.foldl (fun v x => v.injFailed m x) (s.recordInjection m false)) ∧
  (∀ (s v : State) (b : List Byte) (puf : Bool) (gen : List Nat) (code i : Nat), s.pow.phase = .booting → s.hubDom 8 = 2 → s.fget Reg.BOOT_STATUS_stage ≤ 1 →
    256 ≤ b.length → b.length ≤ 2 ^ 26 → imgSize b = b.length → 
    v = (s.poke 8 0x20 s.part.imgBase b).poisonAt (gen.map fun i => s.part.imgBase + 256 * i) → v.verifyImage b = (code, i) → code < 16 → i < 64 →
    (code = 0 → ∃ t, exec (.bootSequence (.check b puf gen)) s = .next t ∧ t = v.verified b (decide (s.fget Reg.BOOT_STATUS_stage = 1)) puf ∧
      t.fget Reg.BOOT_STATUS_stage = 2 ∧ t.fget Reg.BOOT_STATUS_image_id = u b 0xC 4 ∧ t.trust.m = Config.sha3_512 (manifest b)) ∧
    (code ≠ 0 → s.fget Reg.BOOT_STATUS_stage = 0 → ∃ t, exec (.bootSequence (.check b puf gen)) s = .next t ∧ Becomes v t
      [(Reg.BOOT_STATUS_stage, 1), (Reg.BOOT_STATUS_fail_sect, i), (Reg.BOOT_STATUS_fail_a, code)] [v.event 0x0541 8 0xFF 0]) ∧
    (code ≠ 0 → s.fget Reg.BOOT_STATUS_stage = 1 → ∃ t, exec (.bootSequence (.check b puf gen)) s = .next t ∧ Becomes v t
      [(Reg.BOOT_STATUS_fail_sect, i), (Reg.BOOT_STATUS_fail_code, code), (Reg.BOOT_STATUS_stage, 15)] [v.event 0x4542 8 0xFF 0])) ∧
  (∀ s : State, s.pow.phase = .booting → s.hubDom 8 = 2 →
    (s.fget Reg.BOOT_STATUS_stage = 2 → ∃ t, exec (.bootSequence .configure) s = .next t ∧ t = s.configure) ∧
    (s.fget Reg.BOOT_STATUS_stage = 3 → ∀ ls data failed gen, ∃ t, exec (.bootSequence (.load ls data failed gen)) s = .next t ∧
      t = s.load ls data failed gen ∧ ∀ p, p < 64 → t.rd (Reg.KVW_RING p) = 0) ∧
    (s.fget Reg.BOOT_STATUS_stage = 4 →
      (s.startUpOk = false → ∃ t, exec (.bootSequence .commit) s = .next t ∧ Becomes s t
        [(Reg.BOOT_STATUS_fail_sect, 0), (Reg.BOOT_STATUS_fail_code, 0x21), (Reg.BOOT_STATUS_stage, 15)] [s.event 0x4543 8 0xFF 0]) ∧
      (s.startUpOk = true → s.part.tzCount ∈ [2, 4, 8] → ∃ t, exec (.bootSequence .commit) s = .next t ∧
        t.pins = (if s.safe then s.pins else { s.pins with phobosLow := false, deimosLow := false }) ∧ t.pow.phase = .running ∧ t.pow.committed = true ∧
        t.plan = { s.plan with start := s.now + 1000000 } ∧ t.fget Reg.BOOT_STATUS_stage = 5 ∧ t.fget Reg.SAF_STATUS_start_done = 1 ∧
        t.pow.wdKick = (if s.fget Reg.RST_SYSWD_en = 1 then some s.now else none) ∧
        (∃ es, t.raised = s.raised ++ es ++ [s.event 0x0544 8 0xFF 0]) ∧ t.otp = s.otp ∧ SameMemory s t ∧ SameStores s t))) ∧
  (∀ s : State, (s.part.countsOk s.image = false → s.configure = s.bootFail 0x10 0 0x4543 0xFF) ∧
    (s.part.countsOk s.image = true → ∀ v i, s.applyRecords s.image (fun _ => true) = (v, some i) → s.configure = v.bootFail 0x11 i 0x4543 0xFF)) ∧
  (∀ (s : State) (b : OtpBurn) (bs : List OtpBurn), s.pow.burns = b :: bs → ∃ t, exec (.bootSequence .burn) s = .next t ∧ t.pow.burns = bs ∧
    (∀ i v, b = .arb i v → smGet 0 t.otp.arb i = v ∧ t.raised = s.raised ++ [s.event 0x0581 8 0x19 0]) ∧
    (∀ i, b = .revokeEd i → t.otp = { s.otp with edRevoked := setBit s.otp.edRevoked i true } ∧ t.raised = s.raised ++ [s.event 0x0582 8 0x19 0]) ∧
    (∀ i, b = .revokeMl i → t.otp = { s.otp with mlRevoked := setBit s.otp.mlRevoked i true } ∧ t.raised = s.raised ++ [s.event 0x0582 8 0x19 0])) ∧
  (∀ s : State, s.pow.burns = [] → exec (.bootSequence .burn) s = .next s)

/-- R401, R411–R416: the trust block after boot. -/
def Obligations.TrustBlock : Prop :=
  (∀ (s : State) (e : List Byte), s.regBytes Reg.SEC_SAK_LOAD 10 = e →
    (sakOk e = false ∨ s.otp.kWrap = 0 ∨ Config.keyUnwrap s.otp.kWrap (sliceB e 0x20 40) = none → ∃ t, exec .sakInstall s = .next t ∧
      Becomes s t [(Reg.SEC_SAK_CTRL_refused, 1), (Reg.SEC_SAK_CTRL_done, 0)] [s.event 0x0586 8 0x19 0]) ∧
    (sakOk e = true → s.otp.kWrap ≠ 0 → ∀ k sas, Config.keyUnwrap s.otp.kWrap (sliceB e 0x20 40) = some k →
      sas = smPut none s.eth.sas (u e 0 1 * 64 + u e 1 1 * 32 + u e 2 1 * 8 + u e 3 1)
        (some { sci := u e 8 8, ssci := u e 0x10 4, salt := u e 0x14 12, key := k }) → ∃ t, exec .sakInstall s = .next t ∧
      Becomes { s with eth := { s.eth with sas := sas } } t
        [(Reg.SEC_SAK_CTRL_refused, 0), (Reg.SEC_SAK_CTRL_done, 1), (Reg.ETH_PORT_STATUS_macsec_on (u e 0 1), 1)] [])) ∧
  (∀ (s : State) (f i x : Nat) (core : Bool), f < 256 → i < 256 → x = leNat (s.regBytes Reg.SEC_OTP_DATA 8) % 2 ^ otpBits f →
    (core = true → 1 ≤ f → f ≤ 7 → (f ≤ 3 → i ≤ 3) → x ≠ 0 → s.otp.field f (if f ≤ 3 then i else 0) = 0 → s.trust.prog = none →
      ∃ t, exec (.otpProgram f i core) s = .next t ∧ Becomes { s with trust := { s.trust with prog := some (f, if f ≤ 3 then i else 0, x) } } t
        [(Reg.SEC_OTP_PROG_refused, 0), (Reg.SEC_OTP_PROG_done, 0), (Reg.SEC_OTP_PROG_index, i), (Reg.SEC_OTP_PROG_field, f)] []) ∧
    (core = false ∨ f = 0 ∨ 7 < f ∨ (f ≤ 3 ∧ 3 < i) ∨ x = 0 ∨ s.otp.field f (if f ≤ 3 then i else 0) ≠ 0 ∨ s.trust.prog ≠ none →
      ∃ t, exec (.otpProgram f i core) s = .next t ∧ Becomes s t
        [(Reg.SEC_OTP_PROG_refused, 1), (Reg.SEC_OTP_PROG_done, 0), (Reg.SEC_OTP_PROG_index, i), (Reg.SEC_OTP_PROG_field, f)]
        [s.event 0x0586 8 0x19 0])) ∧
  (∀ (s : State) (f i v : Nat), s.trust.prog = some (f, i, v) → ∃ t, exec .otpProgramDone s = .next t ∧ t.otp = s.otp.program f i v ∧
    t.trust.prog = none ∧ t.fget Reg.SEC_OTP_PROG_done = 1 ∧ t.raised = s.raised ∧ SameMemory s t ∧ SameStores s t ∧
    (f = 1 → i < 4 → 4 ≤ s.otp.edDigest.length → t.otp.field 1 i = v) ∧ (f = 7 → t.otp.field 7 0 = v)) ∧
  (∀ (s : State) (dest : Nat), s.trust.attest = none → dest % 256 = 0 → dest < 2 ^ 48 →
    (s.identity = true → 0x004000000000 ≤ dest → dest + 0x8000 ≤ s.bulkEnd → ∃ t, exec (.attestationStart dest) s = .next t ∧
      t.trust = { s.trust with attest := some dest } ∧ t.fget Reg.BOOT_ATT_CTRL_done = 0 ∧ t.fget Reg.BOOT_ATT_CTRL_error = 0 ∧
      RegsBut s t [Reg.BOOT_ATT_CTRL] ∧ t.raised = s.raised ∧ SameMemory s t) ∧
    (s.identity = false ∨ dest < 0x004000000000 ∨ s.bulkEnd < dest + 0x8000 → ∃ t, exec (.attestationStart dest) s = .next t ∧
      t.trust = s.trust ∧ t.fget Reg.BOOT_ATT_CTRL_error = 1 ∧ RegsBut s t [Reg.BOOT_ATT_CTRL] ∧ t.raised = s.raised ∧ SameMemory s t)) ∧
  (∀ (s v : State) (dest : Nat), s.trust.attest = some dest → v = { s with trust := { s.trust with attest := none } } →
    ∃ t, exec .attestationDone s = .next t ∧ Becomes (v.poke 8 0x19 dest v.evidence) t [(Reg.BOOT_ATT_CTRL_done, 1)] []) ∧
  (∀ s : State, (s.trust.attest = none → exec .attestationDone s = .next s) ∧ (s.trust.prog = none → exec .otpProgramDone s = .next s) ∧
    (s.trust.verify = none → exec .debugVerdict s = .next s) ∧ (s.trust.blocked = none → exec .debugBlockEnd s = .next s)) ∧
  (∀ (s : State) (level : Nat), level < 4 →
    ((∃ b, s.trust.blocked = some b ∧ s.now < b + 10 ^ 9) → ∃ t, exec (.debugNewChallenge level) s = .next t ∧ Becomes s t [(Reg.SEC_DBG_CTRL_level,
      level)] []) ∧
    ((∀ b, s.trust.blocked = some b → b + 10 ^ 9 ≤ s.now) → ∃ t, exec (.debugNewChallenge level) s = .next t ∧
      t.trust = { s.trust with chal := some { level := level, at_ := s.now } } ∧
      t.free = s.free + 1 ∧ (∀ i, i < 4 → t.rd (Reg.SEC_DBG_CHAL i) = BitVec.ofNat 64 (Config.trng s.free % 2 ^ 256 / 2 ^ (64 * i))) ∧
      t.fget Reg.SEC_DBG_CTRL_level = level ∧ t.raised = s.raised)) ∧
  (∀ s : State, s.trust.verify = none → ∃ t p, exec .debugSubmit s = .next t ∧ Becomes { s with trust := { s.trust with chal := none, verify := some p } } t
    [(Reg.SEC_DBG_CTRL_busy, 1)] [] ∧ (s.trust.chal = none ∨ s.fget Reg.SEC_STATUS_puf_ok = 0 → p.1 = false) ∧
    ∀ c, s.trust.chal = some c → p.2 = c.level ∧ (p.1 = true → s.now < c.at_ + 60 * 10 ^ 9 ∧ 1 ≤ c.level ∧ c.level ≤ 2 ∧ c.level ≤ s.otp.dbgMax)) ∧
  (∀ s : State, s.trust.verify ≠ none → ∃ t, exec .debugSubmit s = .next t ∧ Becomes s t [] []) ∧
  (∀ (s : State) (pass : Bool) (level : Nat), s.trust.verify = some (pass, level) → level < 4 →
    (pass = true → ∃ t, exec .debugVerdict s = .next t ∧ Becomes { s with trust := { s.trust with verify := none } } t
      [(Reg.SEC_STATUS_debug_ever, 1), (Reg.SEC_STATUS_debug_level, level), (Reg.SEC_DBG_CTRL_refused, 0), (Reg.SEC_DBG_CTRL_busy, 0)]
      [s.event 0x0584 8 0x19 0]) ∧
    (pass = false → ∃ t, exec .debugVerdict s = .next t ∧ Becomes { s with trust := { s.trust with verify := none, blocked := some s.now } } t
      [(Reg.SEC_CNT_DBG_REFUSE_count, s.counted Reg.SEC_CNT_DBG_REFUSE_count 1), (Reg.SEC_DBG_CTRL_refused, 1), (Reg.SEC_DBG_CTRL_busy, 0)]
      [s.event 0x0585 8 0x19 0])) ∧
  (∀ (s : State) (b : Nat), s.trust.blocked = some b →
    (s.now < b + 10 ^ 9 → exec .debugBlockEnd s = .next s) ∧
    (b + 10 ^ 9 ≤ s.now → ∃ t, exec .debugBlockEnd s = .next t ∧ t = { s with trust := { s.trust with blocked := none } }))

/-- R468: the reactions of one cycle, and those in the device safe state. -/
def Obligations.TheWorseReactionWins : Prop :=
  (∀ (s : State) (a b : Event), s.raised = [a, b] ∨ s.raised = [b, a] → a.code ∈ [0x3047, 0x32C6, 0x360E, 0x3704] → codeClass b.code = 4 →
    b.code ∉ [0x4209, 0x460B, 0x4503, 0x4504] → s.saf.pend.length < 63 → s.safe = false → s.fget Reg.SAF_LOG_HEAD_head < 64 →
    ∃ t v w, exec (.eventLogEntry [0, 1]) s = .next t ∧ v = (({ s with raised := [] }.logOne b).logOne a).runHandlers ∧
      w = { v with saf := { v.saf with c3At := some s.now }, pins := { v.pins with faultLow := true } } ∧
      t = ((w.enterSafe b.code).withdrawNow 5 b.code).noteUnavail ∧ t.safe = true ∧
      t.plan.lostDies = s.plan.lostDies ∧ t.plan.lossDue = s.plan.lossDue ∧ t.plan.lost = s.plan.lost ∧
      ∀ x ∈ [a, b], ∃ h, h < 64 ∧ v.rd (Reg.SAF_LOG h 0) = BitVec.ofNat 64 x.words.1 ∧ v.rd (Reg.SAF_LOG h 1) = BitVec.ofNat 64 x.words.2) ∧
  (∀ (s : State) (e : Event), s.raised = [e] → e.code ∈ [0x3047, 0x32C6, 0x360E, 0x3704, 0x4503, 0x4504] → s.safe = true → s.saf.pend.length < 64 →
    ∃ t h, exec (.eventLogEntry [0]) s = .next t ∧ h = s.fget Reg.SAF_LOG_HEAD_head ∧
      t.rd (Reg.SAF_LOG h 0) = BitVec.ofNat 64 e.words.1 ∧ t.rd (Reg.SAF_LOG h 1) = BitVec.ofNat 64 e.words.2 ∧
      t.plan = s.plan ∧ t.runs = s.runs ∧ t.insts = s.insts ∧ t.raised = [] ∧ t.pins = { s.pins with faultLow := true } ∧ t.pow = s.pow ∧
      RegsBut s t [Reg.SAF_LOG h 0, Reg.SAF_LOG h 1, Reg.SAF_LOG_HEAD, Reg.SAF_STATUS, Reg.HLT_CNT_UNAVAIL_US])

/-- R14, R15: dies are named by their fixed index, the hub side as 8. -/
def Obligations.WellFormedDies : Prop := ∀ i : Instr, Sys2Proof.Laws.Dies.Statement i
end

