-- ==== Sys2Proof/Laws/Bits.lean ====
section
/-! SUPPORT. Laws of bit fields: a field written reads back, and every other bit stays. -/

namespace Sys2Proof.Machine

theorem bit_eq_testBit (n i : Nat) : bit n i = n.testBit i := by
  simp only [bit, Nat.testBit_eq_decide_div_mod_eq]
  rfl

theorem testBit_bits (n hi lo i : Nat) : (bits n hi lo).testBit i = (decide (i < hi + 1 - lo) && n.testBit (lo + i)) := by
  simp only [bits, Nat.testBit_mod_two_pow, Nat.testBit_div_two_pow, Nat.add_comm]

/-- A number cut into the bits above a field, the field, and the bits below it. -/
theorem split_field (n lo w : Nat) : n = 2 ^ (lo + w) * (n / 2 ^ (lo + w)) + (2 ^ lo * (n / 2 ^ lo % 2 ^ w) + n % 2 ^ lo) := by
  have h1 := Nat.div_add_mod n (2 ^ lo)
  have h2 := Nat.div_add_mod (n / 2 ^ lo) (2 ^ w)
  have h3 : n / 2 ^ lo / 2 ^ w = n / 2 ^ (lo + w) := by rw [Nat.div_div_eq_div_mul, Nat.pow_add]
  rw [h3] at h2
  have h4 : 2 ^ lo * (n / 2 ^ lo) = 2 ^ (lo + w) * (n / 2 ^ (lo + w)) + 2 ^ lo * (n / 2 ^ lo % 2 ^ w) := by
    conv => lhs; rw [← h2]
    rw [Nat.mul_add, Nat.pow_add, Nat.mul_assoc]
  omega

/-- The field replaced, in the same cut. -/
theorem putBits_split (n lo w v : Nat) (h : 0 < w) :
    putBits n (lo + w - 1) lo v = 2 ^ (lo + w) * (n / 2 ^ (lo + w)) + (2 ^ lo * (v % 2 ^ w) + n % 2 ^ lo) := by
  have hw : lo + w - 1 + 1 - lo = w := by omega
  have hs := split_field n lo w
  simp only [putBits, bits, hw]
  rw [Nat.mul_comm (n / 2 ^ lo % 2 ^ w), Nat.mul_comm (v % 2 ^ w)]
  omega

theorem testBit_putBits (n hi lo v i : Nat) (h : lo ≤ hi) :
    (putBits n hi lo v).testBit i = if lo ≤ i ∧ i ≤ hi then v.testBit (i - lo) else n.testBit i := by
  obtain ⟨w, rfl⟩ : ∃ w, hi = lo + (w + 1) - 1 := ⟨hi - lo, by omega⟩
  have hw : 0 < w + 1 := by omega
  have hL : n % 2 ^ lo < 2 ^ lo := Nat.mod_lt _ (Nat.two_pow_pos _)
  have cut (m : Nat) (hm : m < 2 ^ (w + 1)) (i : Nat) :
      (2 ^ (lo + (w + 1)) * (n / 2 ^ (lo + (w + 1))) + (2 ^ lo * m + n % 2 ^ lo)).testBit i =
        if i < lo then n.testBit i else if i < lo + (w + 1) then m.testBit (i - lo) else n.testBit i := by
    have hlt : 2 ^ lo * m + n % 2 ^ lo < 2 ^ (lo + (w + 1)) := by
      have : 2 ^ lo * m + 2 ^ lo ≤ 2 ^ lo * 2 ^ (w + 1) := by
        rw [← Nat.mul_succ]; exact Nat.mul_le_mul_left _ hm
      rw [Nat.pow_add]; omega
    rw [Nat.testBit_two_pow_mul_add _ hlt]
    split
    · rw [Nat.testBit_two_pow_mul_add _ hL]
      split
      · simp [Nat.testBit_mod_two_pow, *]
      · simp [*]
    · next hi =>
      have : ¬ i < lo := by omega
      simp only [this, if_false, Nat.testBit_div_two_pow]
      congr 1; omega
  rw [putBits_split _ _ _ _ hw, cut _ (Nat.mod_lt _ (Nat.two_pow_pos _))]
  by_cases h1 : i < lo
  · rw [if_pos h1, if_neg (by omega)]
  · by_cases h2 : i < lo + (w + 1)
    · rw [if_neg h1, if_pos h2, if_pos (by omega), Nat.testBit_mod_two_pow]
      simp only [Bool.and_eq_right_iff_imp, decide_eq_true_eq]
      intro; omega
    · rw [if_neg h1, if_neg h2, if_neg (by omega)]

theorem testBit_toNat_ge (w : Word) {i : Nat} (h : 64 ≤ i) : w.toNat.testBit i = false :=
  Nat.testBit_lt_two_pow (Nat.lt_of_lt_of_le w.isLt (Nat.pow_le_pow_right (by omega) h))

/-- Bits of a register word with a field replaced. -/
theorem testBit_wput (w : Word) (hi lo v i : Nat) (h : lo ≤ hi) (h64 : hi < 64) :
    (wput w hi lo v).toNat.testBit i = if lo ≤ i ∧ i ≤ hi then v.testBit (i - lo) else w.toNat.testBit i := by
  simp only [wput, BitVec.toNat_ofNat, Nat.testBit_mod_two_pow]
  rw [testBit_putBits _ _ _ _ _ h]
  by_cases hi : i < 64
  · simp [hi]
  · have := testBit_toNat_ge w (Nat.not_lt.mp hi)
    rw [if_neg (by omega)]; simp [hi, this]

/-- A field written reads back, cut to its width. -/
theorem wbits_wput_same (w : Word) (hi lo v : Nat) (h : lo ≤ hi) (h64 : hi < 64) :
    wbits (wput w hi lo v) hi lo = v % 2 ^ (hi + 1 - lo) := by
  apply Nat.eq_of_testBit_eq
  intro i
  rw [wbits, testBit_bits, testBit_wput _ _ _ _ _ h h64, Nat.testBit_mod_two_pow]
  by_cases hi : i < hi + 1 - lo
  · rw [if_pos (by omega)]; simp [hi]
  · simp [hi]

/-- A field that shares no bit with the one written reads as before. -/
theorem wbits_wput_other (w : Word) (hi lo v hi' lo' : Nat) (h : lo ≤ hi) (h64 : hi < 64) (hd : hi < lo' ∨ hi' < lo) :
    wbits (wput w hi lo v) hi' lo' = wbits w hi' lo' := by
  apply Nat.eq_of_testBit_eq
  intro i
  rw [wbits, wbits, testBit_bits, testBit_bits, testBit_wput _ _ _ _ _ h h64]
  by_cases hi : i < hi' + 1 - lo'
  · rw [if_neg (by omega)]
  · simp [hi]

end Sys2Proof.Machine
end

