-- ==== Sys2Proof/Laws/SMap.lean ====
section
/-! SUPPORT. Laws of the sparse maps: a read after a write, and the canonical form kept by every operation. -/

namespace Sys2Proof.Machine

theorem smGet_filter_ne {α : Type} (d : α) (m : SMap α) (k j : Nat) (h : j ≠ k) :
    smGet d (m.filter fun e => decide (e.1 ≠ k)) j = smGet d m j := by
  induction m with
  | nil => rfl
  | cons x m ih =>
    obtain ⟨k', v⟩ := x
    by_cases hk : k' = k
    · subst hk; simpa [smGet, h] using ih
    · simp only [List.filter_cons, hk, ne_eq, not_false_eq_true, decide_true, if_true, smGet, ih]

theorem smGet_filter_self {α : Type} (d : α) (m : SMap α) (k : Nat) :
    smGet d (m.filter fun e => decide (e.1 ≠ k)) k = d := by
  induction m with
  | nil => rfl
  | cons x m ih =>
    obtain ⟨k', v⟩ := x
    by_cases hk : k' = k
    · simpa [hk] using ih
    · simpa [hk, smGet, Ne.symm hk] using ih

theorem smGet_ins_self {α : Type} (d : α) (m : SMap α) (k : Nat) (v : α) : smGet d (smIns m k v) k = v := by
  induction m with
  | nil => simp [smIns, smGet]
  | cons x m ih =>
    obtain ⟨k', w⟩ := x
    simp only [smIns]
    split
    · simp [smGet]
    · split
      · simp [smGet]
      · next h => simp [smGet, h, ih]

theorem smGet_ins_ne {α : Type} (d : α) (m : SMap α) (k j : Nat) (v : α) (h : j ≠ k) :
    smGet d (smIns m k v) j = smGet d m j := by
  induction m with
  | nil => simp [smIns, smGet, h]
  | cons x m ih =>
    obtain ⟨k', w⟩ := x
    simp only [smIns]
    split
    · simp [smGet, h]
    · split
      · next _ he => subst he; simp [smGet, h]
      · simp [smGet, ih]

/-- A read after a write to the same key gives the value written. -/
@[simp] theorem smGet_put_self {α : Type} [DecidableEq α] (d : α) (m : SMap α) (k : Nat) (v : α) :
    smGet d (smPut d m k v) k = v := by
  unfold smPut
  split
  · next h => rw [smGet_filter_self, h]
  · exact smGet_ins_self ..

/-- A write leaves every other key alone, whatever unlisted keys read as. -/
theorem smGet_put_ne {α : Type} [DecidableEq α] (d e : α) (m : SMap α) (k j : Nat) (v : α) (h : j ≠ k) :
    smGet e (smPut d m k v) j = smGet e m j := by
  unfold smPut
  split
  · exact smGet_filter_ne _ _ _ _ h
  · exact smGet_ins_ne _ _ _ _ _ h

theorem smWfFrom_lower {α : Type} [DecidableEq α] {d : Nat → α} {m : SMap α} {l : Nat} {lo : Option Nat}
    (h : smWfFrom d (some l) m = true) (hl : ∀ x, lo = some x → x ≤ l) : smWfFrom d lo m = true := by
  cases m with
  | nil => rfl
  | cons x m =>
    obtain ⟨k, v⟩ := x
    simp only [smWfFrom, Bool.and_eq_true, decide_eq_true_eq] at h ⊢
    refine ⟨⟨?_, h.1.2⟩, h.2⟩
    cases lo with
    | none => rfl
    | some y =>
      have h1 := h.1.1
      have h2 := hl y rfl
      simp only [smAfter, decide_eq_true_eq] at h1 ⊢
      omega

theorem smWfFrom_filter {α : Type} [DecidableEq α] (d : Nat → α) (p : Nat × α → Bool) (m : SMap α) (lo : Option Nat)
    (h : smWfFrom d lo m = true) : smWfFrom d lo (m.filter p) = true := by
  induction m generalizing lo with
  | nil => rfl
  | cons x m ih =>
    obtain ⟨k, v⟩ := x
    simp only [smWfFrom, Bool.and_eq_true] at h
    simp only [List.filter_cons]
    split
    · simp only [smWfFrom, Bool.and_eq_true]; exact ⟨h.1, ih _ h.2⟩
    · refine ih _ (smWfFrom_lower h.2 ?_)
      intro y hy; subst hy
      have := h.1.1; simp only [smAfter, decide_eq_true_eq] at this; omega

theorem smWfFrom_ins {α : Type} [DecidableEq α] (d : Nat → α) (m : SMap α) (lo : Option Nat) (k : Nat) (v : α)
    (h : smWfFrom d lo m = true) (hl : ∀ x, lo = some x → x < k) (hv : v ≠ d k) :
    smWfFrom d lo (smIns m k v) = true := by
  have head : smAfter lo k = true := by
    cases lo with
    | none => rfl
    | some y => simpa [smAfter] using hl y rfl
  induction m generalizing lo with
  | nil => simp only [smIns, smWfFrom, Bool.and_eq_true, decide_eq_true_eq]; exact ⟨⟨head, hv⟩, trivial⟩
  | cons x m ih =>
    obtain ⟨k', w⟩ := x
    simp only [smWfFrom, Bool.and_eq_true, decide_eq_true_eq] at h
    simp only [smIns]
    split
    · next hlt =>
      simp only [smWfFrom, Bool.and_eq_true, decide_eq_true_eq]
      exact ⟨⟨head, hv⟩, ⟨by simpa [smAfter] using hlt, h.1.2⟩, h.2⟩
    · split
      · next he =>
        subst he
        simp only [smWfFrom, Bool.and_eq_true, decide_eq_true_eq]
        exact ⟨⟨head, hv⟩, h.2⟩
      · simp only [smWfFrom, Bool.and_eq_true, decide_eq_true_eq]
        have hk : k' < k := by omega
        exact ⟨h.1, ih _ h.2 (by intro y hy; cases hy; exact hk) (by simpa [smAfter] using hk)⟩

/-- A write keeps the canonical form when it is told what its key reads as unlisted. -/
theorem smWf_put {α : Type} [DecidableEq α] (d : Nat → α) (m : SMap α) (k : Nat) (v : α) (h : smWf d m = true) :
    smWf d (smPut (d k) m k v) = true := by
  unfold smPut
  split
  · exact smWfFrom_filter _ _ _ _ h
  · next hv => exact smWfFrom_ins _ _ _ _ _ h (by intro x hx; cases hx) hv

/-- Dropping entries keeps the canonical form. -/
theorem smWf_keep {α : Type} [DecidableEq α] (d : Nat → α) (p : Nat → Bool) (m : SMap α) (h : smWf d m = true) :
    smWf d (smKeep p m) = true := smWfFrom_filter _ _ _ _ h

/-- A run of bytes written keeps the canonical form. -/
theorem smWf_putBytes (m : SMap Byte) (k : Nat) (bs : List Byte) (h : smWf (fun _ => 0) m = true) :
    smWf (fun _ => (0 : Byte)) (smPutBytes m k bs) = true := by
  induction bs generalizing m k with
  | nil => exact h
  | cons b bs ih => exact ih _ _ (smWf_put (fun _ => 0) m k b h)

/-- The empty map has the canonical form. -/
theorem smWf_nil {α : Type} [DecidableEq α] (d : Nat → α) : smWf d [] = true := rfl

/-- A byte outside a run that is written reads as before. -/
theorem smGet_putBytes_outside (m : SMap Byte) (k : Nat) (bs : List Byte) (j : Nat) (h : j < k ∨ k + bs.length ≤ j) :
    smGet 0 (smPutBytes m k bs) j = smGet 0 m j := by
  induction bs generalizing m k with
  | nil => rfl
  | cons b bs ih =>
    simp only [List.length_cons] at h
    rw [smPutBytes, ih _ _ (by omega), smGet_put_ne _ _ _ _ _ _ (by omega)]

/-- The bytes read back are those of the run written. -/
theorem smGetBytes_put (m : SMap Byte) (k : Nat) (bs : List Byte) :
    smGetBytes (smPutBytes m k bs) k bs.length = bs := by
  induction bs generalizing m k with
  | nil => rfl
  | cons b bs ih =>
    simp only [smPutBytes, List.length_cons, smGetBytes]
    rw [smGet_putBytes_outside _ _ _ _ (Or.inl (Nat.lt_succ_self k)), smGet_put_self, ih]

end Sys2Proof.Machine
end

