-- ==== Sys2Proof/Laws/State.lean ====
section
/-! SUPPORT. Laws of State: what each small operation leaves alone, field by field, and reads of registers after writes. -/

namespace Sys2Proof.Machine

/-! ### Registers after writes -/

/-- A register written reads back. -/
@[simp] theorem State.rd_wr_self (s : State) (a : Addr) (w : Word) : (s.wr a w).rd a = w := smGet_put_self ..

/-- Every other register reads as before. -/
theorem State.rd_wr_ne (s : State) (a b : Addr) (w : Word) (h : b ≠ a) : (s.wr a w).rd b = s.rd b := smGet_put_ne _ _ _ _ _ _ h

/-- A register that holds a field, after the field is set. -/
theorem State.rd_fset_self (s : State) (f : Fld) (v : Nat) : (s.fset f v).rd f.addr = wput (s.rd f.addr) f.hi f.lo v := s.rd_wr_self ..

/-- Every other register, after a field is set. -/
theorem State.rd_fset_ne (s : State) (f : Fld) (v : Nat) (b : Addr) (h : b ≠ f.addr) : (s.fset f v).rd b = s.rd b :=
  s.rd_wr_ne _ _ _ h

/-- A field set reads back, cut to its width. -/
theorem State.fget_fset_self (s : State) (f : Fld) (v : Nat) (h : f.lo ≤ f.hi) (h64 : f.hi < 64) :
    (s.fset f v).fget f = v % 2 ^ (f.hi + 1 - f.lo) := by
  rw [State.fget, State.rd_fset_self, wbits_wput_same _ _ _ _ h h64]

/-- A field of another register, or of the same register with no bit in common, reads as before. -/
theorem State.fget_fset_other (s : State) (f g : Fld) (v : Nat) (h : f.lo ≤ f.hi) (h64 : f.hi < 64)
    (hd : g.addr = f.addr → f.hi < g.lo ∨ g.hi < f.lo) : (s.fset f v).fget g = s.fget g := by
  by_cases ha : g.addr = f.addr
  · rw [State.fget, State.fget, ha, State.rd_fset_self, wbits_wput_other _ _ _ _ _ _ h h64 (hd ha)]
  · rw [State.fget, State.fget, State.rd_fset_ne _ _ _ _ ha]

/-- A read does not see what is raised. -/
@[simp] theorem State.rd_raise (s : State) (c o u d : Nat) (a : Addr) : (s.raise c o u d).rd a = s.rd a := rfl
@[simp] theorem State.fget_raise (s : State) (c o u d : Nat) (f : Fld) : (s.raise c o u d).fget f = s.fget f := rfl

/-- What raising an event appends. -/
theorem State.raised_raise (s : State) (c o u d : Nat) :
    (s.raise c o u d).raised = s.raised ++ [{ time := s.now, code := c, origin := o, unit := u, detail := d }] := rfl

/-- A capture leaves the state, or writes the one register. -/
theorem State.capture_cases (s : State) (a : Addr) (v : Nat) : s.capture a v = s ∨ ∃ w, s.capture a v = s.wr a w := by
  unfold State.capture
  split
  · exact .inl rfl
  · exact .inr ⟨_, rfl⟩

/-- What emitting does: the message leaves and is counted, or waits while its gate is closed. -/
theorem State.emit_cases (s : State) (p : Nat) (m : Msg) :
    s.emit p m = { s with out := s.out ++ [m] }.count (Reg.ETH_CNT_TX_frames p) 1 ∨
    s.emit p m = { s with eth := { s.eth with waiting := s.eth.waiting ++ [(p, m)] } } := by
  unfold State.emit
  split
  · exact .inl rfl
  · exact .inr rfl

/-! ### What each operation leaves alone -/

@[simp] theorem State.wr_part (s : State) (a : Addr) (w : Word) : (s.wr a w).part = s.part := rfl
@[simp] theorem State.wr_pending (s : State) (a : Addr) (w : Word) : (s.wr a w).pending = s.pending := rfl
@[simp] theorem State.wr_staged (s : State) (a : Addr) (w : Word) : (s.wr a w).staged = s.staged := rfl
@[simp] theorem State.wr_csr (s : State) (a : Addr) (w : Word) : (s.wr a w).csr = s.csr := rfl
@[simp] theorem State.wr_dram (s : State) (a : Addr) (w : Word) : (s.wr a w).dram = s.dram := rfl
@[simp] theorem State.wr_dramErr (s : State) (a : Addr) (w : Word) : (s.wr a w).dramErr = s.dramErr := rfl
@[simp] theorem State.wr_shared (s : State) (a : Addr) (w : Word) : (s.wr a w).shared = s.shared := rfl
@[simp] theorem State.wr_sharedErr (s : State) (a : Addr) (w : Word) : (s.wr a w).sharedErr = s.sharedErr := rfl
@[simp] theorem State.wr_csrErr (s : State) (a : Addr) (w : Word) : (s.wr a w).csrErr = s.csrErr := rfl
@[simp] theorem State.wr_store (s : State) (a : Addr) (w : Word) : (s.wr a w).store = s.store := rfl
@[simp] theorem State.wr_storeErr (s : State) (a : Addr) (w : Word) : (s.wr a w).storeErr = s.storeErr := rfl
@[simp] theorem State.wr_hazy (s : State) (a : Addr) (w : Word) : (s.wr a w).hazy = s.hazy := rfl
@[simp] theorem State.wr_region (s : State) (a : Addr) (w : Word) : (s.wr a w).region = s.region := rfl
@[simp] theorem State.wr_raised (s : State) (a : Addr) (w : Word) : (s.wr a w).raised = s.raised := rfl
@[simp] theorem State.wr_out (s : State) (a : Addr) (w : Word) : (s.wr a w).out = s.out := rfl
@[simp] theorem State.wr_free (s : State) (a : Addr) (w : Word) : (s.wr a w).free = s.free := rfl
@[simp] theorem State.wr_pace (s : State) (a : Addr) (w : Word) : (s.wr a w).pace = s.pace := rfl
@[simp] theorem State.wr_paceDom (s : State) (a : Addr) (w : Word) : (s.wr a w).paceDom = s.paceDom := rfl
@[simp] theorem State.wr_plan (s : State) (a : Addr) (w : Word) : (s.wr a w).plan = s.plan := rfl
@[simp] theorem State.wr_runs (s : State) (a : Addr) (w : Word) : (s.wr a w).runs = s.runs := rfl
@[simp] theorem State.wr_insts (s : State) (a : Addr) (w : Word) : (s.wr a w).insts = s.insts := rfl
@[simp] theorem State.wr_chk (s : State) (a : Addr) (w : Word) : (s.wr a w).chk = s.chk := rfl
@[simp] theorem State.wr_saf (s : State) (a : Addr) (w : Word) : (s.wr a w).saf = s.saf := rfl
@[simp] theorem State.wr_pow (s : State) (a : Addr) (w : Word) : (s.wr a w).pow = s.pow := rfl
@[simp] theorem State.wr_pins (s : State) (a : Addr) (w : Word) : (s.wr a w).pins = s.pins := rfl
@[simp] theorem State.wr_mem (s : State) (a : Addr) (w : Word) : (s.wr a w).mem = s.mem := rfl
@[simp] theorem State.wr_hlt (s : State) (a : Addr) (w : Word) : (s.wr a w).hlt = s.hlt := rfl
@[simp] theorem State.wr_kv (s : State) (a : Addr) (w : Word) : (s.wr a w).kv = s.kv := rfl
@[simp] theorem State.wr_tim (s : State) (a : Addr) (w : Word) : (s.wr a w).tim = s.tim := rfl
@[simp] theorem State.wr_ing (s : State) (a : Addr) (w : Word) : (s.wr a w).ing = s.ing := rfl
@[simp] theorem State.wr_smpl (s : State) (a : Addr) (w : Word) : (s.wr a w).smpl = s.smpl := rfl
@[simp] theorem State.wr_fus (s : State) (a : Addr) (w : Word) : (s.wr a w).fus = s.fus := rfl
@[simp] theorem State.wr_trk (s : State) (a : Addr) (w : Word) : (s.wr a w).trk = s.trk := rfl
@[simp] theorem State.wr_lnk (s : State) (a : Addr) (w : Word) : (s.wr a w).lnk = s.lnk := rfl
@[simp] theorem State.wr_otp (s : State) (a : Addr) (w : Word) : (s.wr a w).otp = s.otp := rfl
@[simp] theorem State.wr_trust (s : State) (a : Addr) (w : Word) : (s.wr a w).trust = s.trust := rfl
@[simp] theorem State.wr_eth (s : State) (a : Addr) (w : Word) : (s.wr a w).eth = s.eth := rfl
@[simp] theorem State.wr_ohp (s : State) (a : Addr) (w : Word) : (s.wr a w).ohp = s.ohp := rfl
@[simp] theorem State.wr_smp (s : State) (a : Addr) (w : Word) : (s.wr a w).smp = s.smp := rfl
@[simp] theorem State.wr_jsy (s : State) (a : Addr) (w : Word) : (s.wr a w).jsy = s.jsy := rfl

@[simp] theorem State.fset_part (s : State) (f : Fld) (v : Nat) : (s.fset f v).part = s.part := rfl
@[simp] theorem State.fset_pending (s : State) (f : Fld) (v : Nat) : (s.fset f v).pending = s.pending := rfl
@[simp] theorem State.fset_staged (s : State) (f : Fld) (v : Nat) : (s.fset f v).staged = s.staged := rfl
@[simp] theorem State.fset_csr (s : State) (f : Fld) (v : Nat) : (s.fset f v).csr = s.csr := rfl
@[simp] theorem State.fset_dram (s : State) (f : Fld) (v : Nat) : (s.fset f v).dram = s.dram := rfl
@[simp] theorem State.fset_dramErr (s : State) (f : Fld) (v : Nat) : (s.fset f v).dramErr = s.dramErr := rfl
@[simp] theorem State.fset_shared (s : State) (f : Fld) (v : Nat) : (s.fset f v).shared = s.shared := rfl
@[simp] theorem State.fset_sharedErr (s : State) (f : Fld) (v : Nat) : (s.fset f v).sharedErr = s.sharedErr := rfl
@[simp] theorem State.fset_csrErr (s : State) (f : Fld) (v : Nat) : (s.fset f v).csrErr = s.csrErr := rfl
@[simp] theorem State.fset_store (s : State) (f : Fld) (v : Nat) : (s.fset f v).store = s.store := rfl
@[simp] theorem State.fset_storeErr (s : State) (f : Fld) (v : Nat) : (s.fset f v).storeErr = s.storeErr := rfl
@[simp] theorem State.fset_hazy (s : State) (f : Fld) (v : Nat) : (s.fset f v).hazy = s.hazy := rfl
@[simp] theorem State.fset_region (s : State) (f : Fld) (v : Nat) : (s.fset f v).region = s.region := rfl
@[simp] theorem State.fset_raised (s : State) (f : Fld) (v : Nat) : (s.fset f v).raised = s.raised := rfl
@[simp] theorem State.fset_out (s : State) (f : Fld) (v : Nat) : (s.fset f v).out = s.out := rfl
@[simp] theorem State.fset_free (s : State) (f : Fld) (v : Nat) : (s.fset f v).free = s.free := rfl
@[simp] theorem State.fset_pace (s : State) (f : Fld) (v : Nat) : (s.fset f v).pace = s.pace := rfl
@[simp] theorem State.fset_paceDom (s : State) (f : Fld) (v : Nat) : (s.fset f v).paceDom = s.paceDom := rfl
@[simp] theorem State.fset_plan (s : State) (f : Fld) (v : Nat) : (s.fset f v).plan = s.plan := rfl
@[simp] theorem State.fset_runs (s : State) (f : Fld) (v : Nat) : (s.fset f v).runs = s.runs := rfl
@[simp] theorem State.fset_insts (s : State) (f : Fld) (v : Nat) : (s.fset f v).insts = s.insts := rfl
@[simp] theorem State.fset_chk (s : State) (f : Fld) (v : Nat) : (s.fset f v).chk = s.chk := rfl
@[simp] theorem State.fset_saf (s : State) (f : Fld) (v : Nat) : (s.fset f v).saf = s.saf := rfl
@[simp] theorem State.fset_pow (s : State) (f : Fld) (v : Nat) : (s.fset f v).pow = s.pow := rfl
@[simp] theorem State.fset_pins (s : State) (f : Fld) (v : Nat) : (s.fset f v).pins = s.pins := rfl
@[simp] theorem State.fset_mem (s : State) (f : Fld) (v : Nat) : (s.fset f v).mem = s.mem := rfl
@[simp] theorem State.fset_hlt (s : State) (f : Fld) (v : Nat) : (s.fset f v).hlt = s.hlt := rfl
@[simp] theorem State.fset_kv (s : State) (f : Fld) (v : Nat) : (s.fset f v).kv = s.kv := rfl
@[simp] theorem State.fset_tim (s : State) (f : Fld) (v : Nat) : (s.fset f v).tim = s.tim := rfl
@[simp] theorem State.fset_ing (s : State) (f : Fld) (v : Nat) : (s.fset f v).ing = s.ing := rfl
@[simp] theorem State.fset_smpl (s : State) (f : Fld) (v : Nat) : (s.fset f v).smpl = s.smpl := rfl
@[simp] theorem State.fset_fus (s : State) (f : Fld) (v : Nat) : (s.fset f v).fus = s.fus := rfl
@[simp] theorem State.fset_trk (s : State) (f : Fld) (v : Nat) : (s.fset f v).trk = s.trk := rfl
@[simp] theorem State.fset_lnk (s : State) (f : Fld) (v : Nat) : (s.fset f v).lnk = s.lnk := rfl
@[simp] theorem State.fset_otp (s : State) (f : Fld) (v : Nat) : (s.fset f v).otp = s.otp := rfl
@[simp] theorem State.fset_trust (s : State) (f : Fld) (v : Nat) : (s.fset f v).trust = s.trust := rfl
@[simp] theorem State.fset_eth (s : State) (f : Fld) (v : Nat) : (s.fset f v).eth = s.eth := rfl
@[simp] theorem State.fset_ohp (s : State) (f : Fld) (v : Nat) : (s.fset f v).ohp = s.ohp := rfl
@[simp] theorem State.fset_smp (s : State) (f : Fld) (v : Nat) : (s.fset f v).smp = s.smp := rfl
@[simp] theorem State.fset_jsy (s : State) (f : Fld) (v : Nat) : (s.fset f v).jsy = s.jsy := rfl

@[simp] theorem State.count_part (s : State) (f : Fld) (n : Nat) : (s.count f n).part = s.part := rfl
@[simp] theorem State.count_pending (s : State) (f : Fld) (n : Nat) : (s.count f n).pending = s.pending := rfl
@[simp] theorem State.count_staged (s : State) (f : Fld) (n : Nat) : (s.count f n).staged = s.staged := rfl
@[simp] theorem State.count_csr (s : State) (f : Fld) (n : Nat) : (s.count f n).csr = s.csr := rfl
@[simp] theorem State.count_dram (s : State) (f : Fld) (n : Nat) : (s.count f n).dram = s.dram := rfl
@[simp] theorem State.count_dramErr (s : State) (f : Fld) (n : Nat) : (s.count f n).dramErr = s.dramErr := rfl
@[simp] theorem State.count_shared (s : State) (f : Fld) (n : Nat) : (s.count f n).shared = s.shared := rfl
@[simp] theorem State.count_sharedErr (s : State) (f : Fld) (n : Nat) : (s.count f n).sharedErr = s.sharedErr := rfl
@[simp] theorem State.count_csrErr (s : State) (f : Fld) (n : Nat) : (s.count f n).csrErr = s.csrErr := rfl
@[simp] theorem State.count_store (s : State) (f : Fld) (n : Nat) : (s.count f n).store = s.store := rfl
@[simp] theorem State.count_storeErr (s : State) (f : Fld) (n : Nat) : (s.count f n).storeErr = s.storeErr := rfl
@[simp] theorem State.count_hazy (s : State) (f : Fld) (n : Nat) : (s.count f n).hazy = s.hazy := rfl
@[simp] theorem State.count_region (s : State) (f : Fld) (n : Nat) : (s.count f n).region = s.region := rfl
@[simp] theorem State.count_raised (s : State) (f : Fld) (n : Nat) : (s.count f n).raised = s.raised := rfl
@[simp] theorem State.count_out (s : State) (f : Fld) (n : Nat) : (s.count f n).out = s.out := rfl
@[simp] theorem State.count_free (s : State) (f : Fld) (n : Nat) : (s.count f n).free = s.free := rfl
@[simp] theorem State.count_pace (s : State) (f : Fld) (n : Nat) : (s.count f n).pace = s.pace := rfl
@[simp] theorem State.count_paceDom (s : State) (f : Fld) (n : Nat) : (s.count f n).paceDom = s.paceDom := rfl
@[simp] theorem State.count_plan (s : State) (f : Fld) (n : Nat) : (s.count f n).plan = s.plan := rfl
@[simp] theorem State.count_runs (s : State) (f : Fld) (n : Nat) : (s.count f n).runs = s.runs := rfl
@[simp] theorem State.count_insts (s : State) (f : Fld) (n : Nat) : (s.count f n).insts = s.insts := rfl
@[simp] theorem State.count_chk (s : State) (f : Fld) (n : Nat) : (s.count f n).chk = s.chk := rfl
@[simp] theorem State.count_saf (s : State) (f : Fld) (n : Nat) : (s.count f n).saf = s.saf := rfl
@[simp] theorem State.count_pow (s : State) (f : Fld) (n : Nat) : (s.count f n).pow = s.pow := rfl
@[simp] theorem State.count_pins (s : State) (f : Fld) (n : Nat) : (s.count f n).pins = s.pins := rfl
@[simp] theorem State.count_mem (s : State) (f : Fld) (n : Nat) : (s.count f n).mem = s.mem := rfl
@[simp] theorem State.count_hlt (s : State) (f : Fld) (n : Nat) : (s.count f n).hlt = s.hlt := rfl
@[simp] theorem State.count_kv (s : State) (f : Fld) (n : Nat) : (s.count f n).kv = s.kv := rfl
@[simp] theorem State.count_tim (s : State) (f : Fld) (n : Nat) : (s.count f n).tim = s.tim := rfl
@[simp] theorem State.count_ing (s : State) (f : Fld) (n : Nat) : (s.count f n).ing = s.ing := rfl
@[simp] theorem State.count_smpl (s : State) (f : Fld) (n : Nat) : (s.count f n).smpl = s.smpl := rfl
@[simp] theorem State.count_fus (s : State) (f : Fld) (n : Nat) : (s.count f n).fus = s.fus := rfl
@[simp] theorem State.count_trk (s : State) (f : Fld) (n : Nat) : (s.count f n).trk = s.trk := rfl
@[simp] theorem State.count_lnk (s : State) (f : Fld) (n : Nat) : (s.count f n).lnk = s.lnk := rfl
@[simp] theorem State.count_otp (s : State) (f : Fld) (n : Nat) : (s.count f n).otp = s.otp := rfl
@[simp] theorem State.count_trust (s : State) (f : Fld) (n : Nat) : (s.count f n).trust = s.trust := rfl
@[simp] theorem State.count_eth (s : State) (f : Fld) (n : Nat) : (s.count f n).eth = s.eth := rfl
@[simp] theorem State.count_ohp (s : State) (f : Fld) (n : Nat) : (s.count f n).ohp = s.ohp := rfl
@[simp] theorem State.count_smp (s : State) (f : Fld) (n : Nat) : (s.count f n).smp = s.smp := rfl
@[simp] theorem State.count_jsy (s : State) (f : Fld) (n : Nat) : (s.count f n).jsy = s.jsy := rfl

@[simp] theorem State.countWrap_part (s : State) (f : Fld) (n : Nat) : (s.countWrap f n).part = s.part := rfl
@[simp] theorem State.countWrap_pending (s : State) (f : Fld) (n : Nat) : (s.countWrap f n).pending = s.pending := rfl
@[simp] theorem State.countWrap_staged (s : State) (f : Fld) (n : Nat) : (s.countWrap f n).staged = s.staged := rfl
@[simp] theorem State.countWrap_csr (s : State) (f : Fld) (n : Nat) : (s.countWrap f n).csr = s.csr := rfl
@[simp] theorem State.countWrap_dram (s : State) (f : Fld) (n : Nat) : (s.countWrap f n).dram = s.dram := rfl
@[simp] theorem State.countWrap_dramErr (s : State) (f : Fld) (n : Nat) : (s.countWrap f n).dramErr = s.dramErr := rfl
@[simp] theorem State.countWrap_shared (s : State) (f : Fld) (n : Nat) : (s.countWrap f n).shared = s.shared := rfl
@[simp] theorem State.countWrap_sharedErr (s : State) (f : Fld) (n : Nat) : (s.countWrap f n).sharedErr = s.sharedErr := rfl
@[simp] theorem State.countWrap_csrErr (s : State) (f : Fld) (n : Nat) : (s.countWrap f n).csrErr = s.csrErr := rfl
@[simp] theorem State.countWrap_store (s : State) (f : Fld) (n : Nat) : (s.countWrap f n).store = s.store := rfl
@[simp] theorem State.countWrap_storeErr (s : State) (f : Fld) (n : Nat) : (s.countWrap f n).storeErr = s.storeErr := rfl
@[simp] theorem State.countWrap_hazy (s : State) (f : Fld) (n : Nat) : (s.countWrap f n).hazy = s.hazy := rfl
@[simp] theorem State.countWrap_region (s : State) (f : Fld) (n : Nat) : (s.countWrap f n).region = s.region := rfl
@[simp] theorem State.countWrap_raised (s : State) (f : Fld) (n : Nat) : (s.countWrap f n).raised = s.raised := rfl
@[simp] theorem State.countWrap_out (s : State) (f : Fld) (n : Nat) : (s.countWrap f n).out = s.out := rfl
@[simp] theorem State.countWrap_free (s : State) (f : Fld) (n : Nat) : (s.countWrap f n).free = s.free := rfl
@[simp] theorem State.countWrap_pace (s : State) (f : Fld) (n : Nat) : (s.countWrap f n).pace = s.pace := rfl
@[simp] theorem State.countWrap_paceDom (s : State) (f : Fld) (n : Nat) : (s.countWrap f n).paceDom = s.paceDom := rfl
@[simp] theorem State.countWrap_plan (s : State) (f : Fld) (n : Nat) : (s.countWrap f n).plan = s.plan := rfl
@[simp] theorem State.countWrap_runs (s : State) (f : Fld) (n : Nat) : (s.countWrap f n).runs = s.runs := rfl
@[simp] theorem State.countWrap_insts (s : State) (f : Fld) (n : Nat) : (s.countWrap f n).insts = s.insts := rfl
@[simp] theorem State.countWrap_chk (s : State) (f : Fld) (n : Nat) : (s.countWrap f n).chk = s.chk := rfl
@[simp] theorem State.countWrap_saf (s : State) (f : Fld) (n : Nat) : (s.countWrap f n).saf = s.saf := rfl
@[simp] theorem State.countWrap_pow (s : State) (f : Fld) (n : Nat) : (s.countWrap f n).pow = s.pow := rfl
@[simp] theorem State.countWrap_pins (s : State) (f : Fld) (n : Nat) : (s.countWrap f n).pins = s.pins := rfl
@[simp] theorem State.countWrap_mem (s : State) (f : Fld) (n : Nat) : (s.countWrap f n).mem = s.mem := rfl
@[simp] theorem State.countWrap_hlt (s : State) (f : Fld) (n : Nat) : (s.countWrap f n).hlt = s.hlt := rfl
@[simp] theorem State.countWrap_kv (s : State) (f : Fld) (n : Nat) : (s.countWrap f n).kv = s.kv := rfl
@[simp] theorem State.countWrap_tim (s : State) (f : Fld) (n : Nat) : (s.countWrap f n).tim = s.tim := rfl
@[simp] theorem State.countWrap_ing (s : State) (f : Fld) (n : Nat) : (s.countWrap f n).ing = s.ing := rfl
@[simp] theorem State.countWrap_smpl (s : State) (f : Fld) (n : Nat) : (s.countWrap f n).smpl = s.smpl := rfl
@[simp] theorem State.countWrap_fus (s : State) (f : Fld) (n : Nat) : (s.countWrap f n).fus = s.fus := rfl
@[simp] theorem State.countWrap_trk (s : State) (f : Fld) (n : Nat) : (s.countWrap f n).trk = s.trk := rfl
@[simp] theorem State.countWrap_lnk (s : State) (f : Fld) (n : Nat) : (s.countWrap f n).lnk = s.lnk := rfl
@[simp] theorem State.countWrap_otp (s : State) (f : Fld) (n : Nat) : (s.countWrap f n).otp = s.otp := rfl
@[simp] theorem State.countWrap_trust (s : State) (f : Fld) (n : Nat) : (s.countWrap f n).trust = s.trust := rfl
@[simp] theorem State.countWrap_eth (s : State) (f : Fld) (n : Nat) : (s.countWrap f n).eth = s.eth := rfl
@[simp] theorem State.countWrap_ohp (s : State) (f : Fld) (n : Nat) : (s.countWrap f n).ohp = s.ohp := rfl
@[simp] theorem State.countWrap_smp (s : State) (f : Fld) (n : Nat) : (s.countWrap f n).smp = s.smp := rfl
@[simp] theorem State.countWrap_jsy (s : State) (f : Fld) (n : Nat) : (s.countWrap f n).jsy = s.jsy := rfl

@[simp] theorem State.raise_part (s : State) (c o u d : Nat) : (s.raise c o u d).part = s.part := rfl
@[simp] theorem State.raise_pending (s : State) (c o u d : Nat) : (s.raise c o u d).pending = s.pending := rfl
@[simp] theorem State.raise_regs (s : State) (c o u d : Nat) : (s.raise c o u d).regs = s.regs := rfl
@[simp] theorem State.raise_staged (s : State) (c o u d : Nat) : (s.raise c o u d).staged = s.staged := rfl
@[simp] theorem State.raise_csr (s : State) (c o u d : Nat) : (s.raise c o u d).csr = s.csr := rfl
@[simp] theorem State.raise_dram (s : State) (c o u d : Nat) : (s.raise c o u d).dram = s.dram := rfl
@[simp] theorem State.raise_dramErr (s : State) (c o u d : Nat) : (s.raise c o u d).dramErr = s.dramErr := rfl
@[simp] theorem State.raise_shared (s : State) (c o u d : Nat) : (s.raise c o u d).shared = s.shared := rfl
@[simp] theorem State.raise_sharedErr (s : State) (c o u d : Nat) : (s.raise c o u d).sharedErr = s.sharedErr := rfl
@[simp] theorem State.raise_csrErr (s : State) (c o u d : Nat) : (s.raise c o u d).csrErr = s.csrErr := rfl
@[simp] theorem State.raise_store (s : State) (c o u d : Nat) : (s.raise c o u d).store = s.store := rfl
@[simp] theorem State.raise_storeErr (s : State) (c o u d : Nat) : (s.raise c o u d).storeErr = s.storeErr := rfl
@[simp] theorem State.raise_hazy (s : State) (c o u d : Nat) : (s.raise c o u d).hazy = s.hazy := rfl
@[simp] theorem State.raise_region (s : State) (c o u d : Nat) : (s.raise c o u d).region = s.region := rfl
@[simp] theorem State.raise_out (s : State) (c o u d : Nat) : (s.raise c o u d).out = s.out := rfl
@[simp] theorem State.raise_free (s : State) (c o u d : Nat) : (s.raise c o u d).free = s.free := rfl
@[simp] theorem State.raise_pace (s : State) (c o u d : Nat) : (s.raise c o u d).pace = s.pace := rfl
@[simp] theorem State.raise_paceDom (s : State) (c o u d : Nat) : (s.raise c o u d).paceDom = s.paceDom := rfl
@[simp] theorem State.raise_plan (s : State) (c o u d : Nat) : (s.raise c o u d).plan = s.plan := rfl
@[simp] theorem State.raise_runs (s : State) (c o u d : Nat) : (s.raise c o u d).runs = s.runs := rfl
@[simp] theorem State.raise_insts (s : State) (c o u d : Nat) : (s.raise c o u d).insts = s.insts := rfl
@[simp] theorem State.raise_chk (s : State) (c o u d : Nat) : (s.raise c o u d).chk = s.chk := rfl
@[simp] theorem State.raise_saf (s : State) (c o u d : Nat) : (s.raise c o u d).saf = s.saf := rfl
@[simp] theorem State.raise_pow (s : State) (c o u d : Nat) : (s.raise c o u d).pow = s.pow := rfl
@[simp] theorem State.raise_pins (s : State) (c o u d : Nat) : (s.raise c o u d).pins = s.pins := rfl
@[simp] theorem State.raise_mem (s : State) (c o u d : Nat) : (s.raise c o u d).mem = s.mem := rfl
@[simp] theorem State.raise_hlt (s : State) (c o u d : Nat) : (s.raise c o u d).hlt = s.hlt := rfl
@[simp] theorem State.raise_kv (s : State) (c o u d : Nat) : (s.raise c o u d).kv = s.kv := rfl
@[simp] theorem State.raise_tim (s : State) (c o u d : Nat) : (s.raise c o u d).tim = s.tim := rfl
@[simp] theorem State.raise_ing (s : State) (c o u d : Nat) : (s.raise c o u d).ing = s.ing := rfl
@[simp] theorem State.raise_smpl (s : State) (c o u d : Nat) : (s.raise c o u d).smpl = s.smpl := rfl
@[simp] theorem State.raise_fus (s : State) (c o u d : Nat) : (s.raise c o u d).fus = s.fus := rfl
@[simp] theorem State.raise_trk (s : State) (c o u d : Nat) : (s.raise c o u d).trk = s.trk := rfl
@[simp] theorem State.raise_lnk (s : State) (c o u d : Nat) : (s.raise c o u d).lnk = s.lnk := rfl
@[simp] theorem State.raise_otp (s : State) (c o u d : Nat) : (s.raise c o u d).otp = s.otp := rfl
@[simp] theorem State.raise_trust (s : State) (c o u d : Nat) : (s.raise c o u d).trust = s.trust := rfl
@[simp] theorem State.raise_eth (s : State) (c o u d : Nat) : (s.raise c o u d).eth = s.eth := rfl
@[simp] theorem State.raise_ohp (s : State) (c o u d : Nat) : (s.raise c o u d).ohp = s.ohp := rfl
@[simp] theorem State.raise_smp (s : State) (c o u d : Nat) : (s.raise c o u d).smp = s.smp := rfl
@[simp] theorem State.raise_jsy (s : State) (c o u d : Nat) : (s.raise c o u d).jsy = s.jsy := rfl

@[simp] theorem State.capture_part (s : State) (a : Addr) (v : Nat) : (s.capture a v).part = s.part := by rcases s.capture_cases a v with h | ⟨w, h⟩ <;> rw [h]; rfl
@[simp] theorem State.capture_pending (s : State) (a : Addr) (v : Nat) : (s.capture a v).pending = s.pending := by rcases s.capture_cases a v with h | ⟨w, h⟩ <;> rw [h]; rfl
@[simp] theorem State.capture_staged (s : State) (a : Addr) (v : Nat) : (s.capture a v).staged = s.staged := by rcases s.capture_cases a v with h | ⟨w, h⟩ <;> rw [h]; rfl
@[simp] theorem State.capture_csr (s : State) (a : Addr) (v : Nat) : (s.capture a v).csr = s.csr := by rcases s.capture_cases a v with h | ⟨w, h⟩ <;> rw [h]; rfl
@[simp] theorem State.capture_dram (s : State) (a : Addr) (v : Nat) : (s.capture a v).dram = s.dram := by rcases s.capture_cases a v with h | ⟨w, h⟩ <;> rw [h]; rfl
@[simp] theorem State.capture_dramErr (s : State) (a : Addr) (v : Nat) : (s.capture a v).dramErr = s.dramErr := by rcases s.capture_cases a v with h | ⟨w, h⟩ <;> rw [h]; rfl
@[simp] theorem State.capture_shared (s : State) (a : Addr) (v : Nat) : (s.capture a v).shared = s.shared := by rcases s.capture_cases a v with h | ⟨w, h⟩ <;> rw [h]; rfl
@[simp] theorem State.capture_sharedErr (s : State) (a : Addr) (v : Nat) : (s.capture a v).sharedErr = s.sharedErr := by rcases s.capture_cases a v with h | ⟨w, h⟩ <;> rw [h]; rfl
@[simp] theorem State.capture_csrErr (s : State) (a : Addr) (v : Nat) : (s.capture a v).csrErr = s.csrErr := by rcases s.capture_cases a v with h | ⟨w, h⟩ <;> rw [h]; rfl
@[simp] theorem State.capture_store (s : State) (a : Addr) (v : Nat) : (s.capture a v).store = s.store := by rcases s.capture_cases a v with h | ⟨w, h⟩ <;> rw [h]; rfl
@[simp] theorem State.capture_storeErr (s : State) (a : Addr) (v : Nat) : (s.capture a v).storeErr = s.storeErr := by rcases s.capture_cases a v with h | ⟨w, h⟩ <;> rw [h]; rfl
@[simp] theorem State.capture_hazy (s : State) (a : Addr) (v : Nat) : (s.capture a v).hazy = s.hazy := by rcases s.capture_cases a v with h | ⟨w, h⟩ <;> rw [h]; rfl
@[simp] theorem State.capture_region (s : State) (a : Addr) (v : Nat) : (s.capture a v).region = s.region := by rcases s.capture_cases a v with h | ⟨w, h⟩ <;> rw [h]; rfl
@[simp] theorem State.capture_raised (s : State) (a : Addr) (v : Nat) : (s.capture a v).raised = s.raised := by rcases s.capture_cases a v with h | ⟨w, h⟩ <;> rw [h]; rfl
@[simp] theorem State.capture_out (s : State) (a : Addr) (v : Nat) : (s.capture a v).out = s.out := by rcases s.capture_cases a v with h | ⟨w, h⟩ <;> rw [h]; rfl
@[simp] theorem State.capture_free (s : State) (a : Addr) (v : Nat) : (s.capture a v).free = s.free := by rcases s.capture_cases a v with h | ⟨w, h⟩ <;> rw [h]; rfl
@[simp] theorem State.capture_pace (s : State) (a : Addr) (v : Nat) : (s.capture a v).pace = s.pace := by rcases s.capture_cases a v with h | ⟨w, h⟩ <;> rw [h]; rfl
@[simp] theorem State.capture_paceDom (s : State) (a : Addr) (v : Nat) : (s.capture a v).paceDom = s.paceDom := by rcases s.capture_cases a v with h | ⟨w, h⟩ <;> rw [h]; rfl
@[simp] theorem State.capture_plan (s : State) (a : Addr) (v : Nat) : (s.capture a v).plan = s.plan := by rcases s.capture_cases a v with h | ⟨w, h⟩ <;> rw [h]; rfl
@[simp] theorem State.capture_runs (s : State) (a : Addr) (v : Nat) : (s.capture a v).runs = s.runs := by rcases s.capture_cases a v with h | ⟨w, h⟩ <;> rw [h]; rfl
@[simp] theorem State.capture_insts (s : State) (a : Addr) (v : Nat) : (s.capture a v).insts = s.insts := by rcases s.capture_cases a v with h | ⟨w, h⟩ <;> rw [h]; rfl
@[simp] theorem State.capture_chk (s : State) (a : Addr) (v : Nat) : (s.capture a v).chk = s.chk := by rcases s.capture_cases a v with h | ⟨w, h⟩ <;> rw [h]; rfl
@[simp] theorem State.capture_saf (s : State) (a : Addr) (v : Nat) : (s.capture a v).saf = s.saf := by rcases s.capture_cases a v with h | ⟨w, h⟩ <;> rw [h]; rfl
@[simp] theorem State.capture_pow (s : State) (a : Addr) (v : Nat) : (s.capture a v).pow = s.pow := by rcases s.capture_cases a v with h | ⟨w, h⟩ <;> rw [h]; rfl
@[simp] theorem State.capture_pins (s : State) (a : Addr) (v : Nat) : (s.capture a v).pins = s.pins := by rcases s.capture_cases a v with h | ⟨w, h⟩ <;> rw [h]; rfl
@[simp] theorem State.capture_mem (s : State) (a : Addr) (v : Nat) : (s.capture a v).mem = s.mem := by rcases s.capture_cases a v with h | ⟨w, h⟩ <;> rw [h]; rfl
@[simp] theorem State.capture_hlt (s : State) (a : Addr) (v : Nat) : (s.capture a v).hlt = s.hlt := by rcases s.capture_cases a v with h | ⟨w, h⟩ <;> rw [h]; rfl
@[simp] theorem State.capture_kv (s : State) (a : Addr) (v : Nat) : (s.capture a v).kv = s.kv := by rcases s.capture_cases a v with h | ⟨w, h⟩ <;> rw [h]; rfl
@[simp] theorem State.capture_tim (s : State) (a : Addr) (v : Nat) : (s.capture a v).tim = s.tim := by rcases s.capture_cases a v with h | ⟨w, h⟩ <;> rw [h]; rfl
@[simp] theorem State.capture_ing (s : State) (a : Addr) (v : Nat) : (s.capture a v).ing = s.ing := by rcases s.capture_cases a v with h | ⟨w, h⟩ <;> rw [h]; rfl
@[simp] theorem State.capture_smpl (s : State) (a : Addr) (v : Nat) : (s.capture a v).smpl = s.smpl := by rcases s.capture_cases a v with h | ⟨w, h⟩ <;> rw [h]; rfl
@[simp] theorem State.capture_fus (s : State) (a : Addr) (v : Nat) : (s.capture a v).fus = s.fus := by rcases s.capture_cases a v with h | ⟨w, h⟩ <;> rw [h]; rfl
@[simp] theorem State.capture_trk (s : State) (a : Addr) (v : Nat) : (s.capture a v).trk = s.trk := by rcases s.capture_cases a v with h | ⟨w, h⟩ <;> rw [h]; rfl
@[simp] theorem State.capture_lnk (s : State) (a : Addr) (v : Nat) : (s.capture a v).lnk = s.lnk := by rcases s.capture_cases a v with h | ⟨w, h⟩ <;> rw [h]; rfl
@[simp] theorem State.capture_otp (s : State) (a : Addr) (v : Nat) : (s.capture a v).otp = s.otp := by rcases s.capture_cases a v with h | ⟨w, h⟩ <;> rw [h]; rfl
@[simp] theorem State.capture_trust (s : State) (a : Addr) (v : Nat) : (s.capture a v).trust = s.trust := by rcases s.capture_cases a v with h | ⟨w, h⟩ <;> rw [h]; rfl
@[simp] theorem State.capture_eth (s : State) (a : Addr) (v : Nat) : (s.capture a v).eth = s.eth := by rcases s.capture_cases a v with h | ⟨w, h⟩ <;> rw [h]; rfl
@[simp] theorem State.capture_ohp (s : State) (a : Addr) (v : Nat) : (s.capture a v).ohp = s.ohp := by rcases s.capture_cases a v with h | ⟨w, h⟩ <;> rw [h]; rfl
@[simp] theorem State.capture_smp (s : State) (a : Addr) (v : Nat) : (s.capture a v).smp = s.smp := by rcases s.capture_cases a v with h | ⟨w, h⟩ <;> rw [h]; rfl
@[simp] theorem State.capture_jsy (s : State) (a : Addr) (v : Nat) : (s.capture a v).jsy = s.jsy := by rcases s.capture_cases a v with h | ⟨w, h⟩ <;> rw [h]; rfl

@[simp] theorem State.unstage_part (s : State) (a : Addr) : (s.unstage a).part = s.part := rfl
@[simp] theorem State.unstage_pending (s : State) (a : Addr) : (s.unstage a).pending = s.pending := rfl
@[simp] theorem State.unstage_regs (s : State) (a : Addr) : (s.unstage a).regs = s.regs := rfl
@[simp] theorem State.unstage_csr (s : State) (a : Addr) : (s.unstage a).csr = s.csr := rfl
@[simp] theorem State.unstage_dram (s : State) (a : Addr) : (s.unstage a).dram = s.dram := rfl
@[simp] theorem State.unstage_dramErr (s : State) (a : Addr) : (s.unstage a).dramErr = s.dramErr := rfl
@[simp] theorem State.unstage_shared (s : State) (a : Addr) : (s.unstage a).shared = s.shared := rfl
@[simp] theorem State.unstage_sharedErr (s : State) (a : Addr) : (s.unstage a).sharedErr = s.sharedErr := rfl
@[simp] theorem State.unstage_csrErr (s : State) (a : Addr) : (s.unstage a).csrErr = s.csrErr := rfl
@[simp] theorem State.unstage_store (s : State) (a : Addr) : (s.unstage a).store = s.store := rfl
@[simp] theorem State.unstage_storeErr (s : State) (a : Addr) : (s.unstage a).storeErr = s.storeErr := rfl
@[simp] theorem State.unstage_hazy (s : State) (a : Addr) : (s.unstage a).hazy = s.hazy := rfl
@[simp] theorem State.unstage_region (s : State) (a : Addr) : (s.unstage a).region = s.region := rfl
@[simp] theorem State.unstage_raised (s : State) (a : Addr) : (s.unstage a).raised = s.raised := rfl
@[simp] theorem State.unstage_out (s : State) (a : Addr) : (s.unstage a).out = s.out := rfl
@[simp] theorem State.unstage_free (s : State) (a : Addr) : (s.unstage a).free = s.free := rfl
@[simp] theorem State.unstage_pace (s : State) (a : Addr) : (s.unstage a).pace = s.pace := rfl
@[simp] theorem State.unstage_paceDom (s : State) (a : Addr) : (s.unstage a).paceDom = s.paceDom := rfl
@[simp] theorem State.unstage_plan (s : State) (a : Addr) : (s.unstage a).plan = s.plan := rfl
@[simp] theorem State.unstage_runs (s : State) (a : Addr) : (s.unstage a).runs = s.runs := rfl
@[simp] theorem State.unstage_insts (s : State) (a : Addr) : (s.unstage a).insts = s.insts := rfl
@[simp] theorem State.unstage_chk (s : State) (a : Addr) : (s.unstage a).chk = s.chk := rfl
@[simp] theorem State.unstage_saf (s : State) (a : Addr) : (s.unstage a).saf = s.saf := rfl
@[simp] theorem State.unstage_pow (s : State) (a : Addr) : (s.unstage a).pow = s.pow := rfl
@[simp] theorem State.unstage_pins (s : State) (a : Addr) : (s.unstage a).pins = s.pins := rfl
@[simp] theorem State.unstage_mem (s : State) (a : Addr) : (s.unstage a).mem = s.mem := rfl
@[simp] theorem State.unstage_hlt (s : State) (a : Addr) : (s.unstage a).hlt = s.hlt := rfl
@[simp] theorem State.unstage_kv (s : State) (a : Addr) : (s.unstage a).kv = s.kv := rfl
@[simp] theorem State.unstage_tim (s : State) (a : Addr) : (s.unstage a).tim = s.tim := rfl
@[simp] theorem State.unstage_ing (s : State) (a : Addr) : (s.unstage a).ing = s.ing := rfl
@[simp] theorem State.unstage_smpl (s : State) (a : Addr) : (s.unstage a).smpl = s.smpl := rfl
@[simp] theorem State.unstage_fus (s : State) (a : Addr) : (s.unstage a).fus = s.fus := rfl
@[simp] theorem State.unstage_trk (s : State) (a : Addr) : (s.unstage a).trk = s.trk := rfl
@[simp] theorem State.unstage_lnk (s : State) (a : Addr) : (s.unstage a).lnk = s.lnk := rfl
@[simp] theorem State.unstage_otp (s : State) (a : Addr) : (s.unstage a).otp = s.otp := rfl
@[simp] theorem State.unstage_trust (s : State) (a : Addr) : (s.unstage a).trust = s.trust := rfl
@[simp] theorem State.unstage_eth (s : State) (a : Addr) : (s.unstage a).eth = s.eth := rfl
@[simp] theorem State.unstage_ohp (s : State) (a : Addr) : (s.unstage a).ohp = s.ohp := rfl
@[simp] theorem State.unstage_smp (s : State) (a : Addr) : (s.unstage a).smp = s.smp := rfl
@[simp] theorem State.unstage_jsy (s : State) (a : Addr) : (s.unstage a).jsy = s.jsy := rfl

@[simp] theorem State.stageField_part (s : State) (f : Fld) (v : Nat) : (s.stageField f v).part = s.part := by simp only [State.stageField]
@[simp] theorem State.stageField_pending (s : State) (f : Fld) (v : Nat) : (s.stageField f v).pending = s.pending := by simp only [State.stageField]
@[simp] theorem State.stageField_regs (s : State) (f : Fld) (v : Nat) : (s.stageField f v).regs = s.regs := by simp only [State.stageField]
@[simp] theorem State.stageField_csr (s : State) (f : Fld) (v : Nat) : (s.stageField f v).csr = s.csr := by simp only [State.stageField]
@[simp] theorem State.stageField_dram (s : State) (f : Fld) (v : Nat) : (s.stageField f v).dram = s.dram := by simp only [State.stageField]
@[simp] theorem State.stageField_dramErr (s : State) (f : Fld) (v : Nat) : (s.stageField f v).dramErr = s.dramErr := by simp only [State.stageField]
@[simp] theorem State.stageField_shared (s : State) (f : Fld) (v : Nat) : (s.stageField f v).shared = s.shared := by simp only [State.stageField]
@[simp] theorem State.stageField_sharedErr (s : State) (f : Fld) (v : Nat) : (s.stageField f v).sharedErr = s.sharedErr := by simp only [State.stageField]
@[simp] theorem State.stageField_csrErr (s : State) (f : Fld) (v : Nat) : (s.stageField f v).csrErr = s.csrErr := by simp only [State.stageField]
@[simp] theorem State.stageField_store (s : State) (f : Fld) (v : Nat) : (s.stageField f v).store = s.store := by simp only [State.stageField]
@[simp] theorem State.stageField_storeErr (s : State) (f : Fld) (v : Nat) : (s.stageField f v).storeErr = s.storeErr := by simp only [State.stageField]
@[simp] theorem State.stageField_hazy (s : State) (f : Fld) (v : Nat) : (s.stageField f v).hazy = s.hazy := by simp only [State.stageField]
@[simp] theorem State.stageField_region (s : State) (f : Fld) (v : Nat) : (s.stageField f v).region = s.region := by simp only [State.stageField]
@[simp] theorem State.stageField_raised (s : State) (f : Fld) (v : Nat) : (s.stageField f v).raised = s.raised := by simp only [State.stageField]
@[simp] theorem State.stageField_out (s : State) (f : Fld) (v : Nat) : (s.stageField f v).out = s.out := by simp only [State.stageField]
@[simp] theorem State.stageField_free (s : State) (f : Fld) (v : Nat) : (s.stageField f v).free = s.free := by simp only [State.stageField]
@[simp] theorem State.stageField_pace (s : State) (f : Fld) (v : Nat) : (s.stageField f v).pace = s.pace := by simp only [State.stageField]
@[simp] theorem State.stageField_paceDom (s : State) (f : Fld) (v : Nat) : (s.stageField f v).paceDom = s.paceDom := by simp only [State.stageField]
@[simp] theorem State.stageField_plan (s : State) (f : Fld) (v : Nat) : (s.stageField f v).plan = s.plan := by simp only [State.stageField]
@[simp] theorem State.stageField_runs (s : State) (f : Fld) (v : Nat) : (s.stageField f v).runs = s.runs := by simp only [State.stageField]
@[simp] theorem State.stageField_insts (s : State) (f : Fld) (v : Nat) : (s.stageField f v).insts = s.insts := by simp only [State.stageField]
@[simp] theorem State.stageField_chk (s : State) (f : Fld) (v : Nat) : (s.stageField f v).chk = s.chk := by simp only [State.stageField]
@[simp] theorem State.stageField_saf (s : State) (f : Fld) (v : Nat) : (s.stageField f v).saf = s.saf := by simp only [State.stageField]
@[simp] theorem State.stageField_pow (s : State) (f : Fld) (v : Nat) : (s.stageField f v).pow = s.pow := by simp only [State.stageField]
@[simp] theorem State.stageField_pins (s : State) (f : Fld) (v : Nat) : (s.stageField f v).pins = s.pins := by simp only [State.stageField]
@[simp] theorem State.stageField_mem (s : State) (f : Fld) (v : Nat) : (s.stageField f v).mem = s.mem := by simp only [State.stageField]
@[simp] theorem State.stageField_hlt (s : State) (f : Fld) (v : Nat) : (s.stageField f v).hlt = s.hlt := by simp only [State.stageField]
@[simp] theorem State.stageField_kv (s : State) (f : Fld) (v : Nat) : (s.stageField f v).kv = s.kv := by simp only [State.stageField]
@[simp] theorem State.stageField_tim (s : State) (f : Fld) (v : Nat) : (s.stageField f v).tim = s.tim := by simp only [State.stageField]
@[simp] theorem State.stageField_ing (s : State) (f : Fld) (v : Nat) : (s.stageField f v).ing = s.ing := by simp only [State.stageField]
@[simp] theorem State.stageField_smpl (s : State) (f : Fld) (v : Nat) : (s.stageField f v).smpl = s.smpl := by simp only [State.stageField]
@[simp] theorem State.stageField_fus (s : State) (f : Fld) (v : Nat) : (s.stageField f v).fus = s.fus := by simp only [State.stageField]
@[simp] theorem State.stageField_trk (s : State) (f : Fld) (v : Nat) : (s.stageField f v).trk = s.trk := by simp only [State.stageField]
@[simp] theorem State.stageField_lnk (s : State) (f : Fld) (v : Nat) : (s.stageField f v).lnk = s.lnk := by simp only [State.stageField]
@[simp] theorem State.stageField_otp (s : State) (f : Fld) (v : Nat) : (s.stageField f v).otp = s.otp := by simp only [State.stageField]
@[simp] theorem State.stageField_trust (s : State) (f : Fld) (v : Nat) : (s.stageField f v).trust = s.trust := by simp only [State.stageField]
@[simp] theorem State.stageField_eth (s : State) (f : Fld) (v : Nat) : (s.stageField f v).eth = s.eth := by simp only [State.stageField]
@[simp] theorem State.stageField_ohp (s : State) (f : Fld) (v : Nat) : (s.stageField f v).ohp = s.ohp := by simp only [State.stageField]
@[simp] theorem State.stageField_smp (s : State) (f : Fld) (v : Nat) : (s.stageField f v).smp = s.smp := by simp only [State.stageField]
@[simp] theorem State.stageField_jsy (s : State) (f : Fld) (v : Nat) : (s.stageField f v).jsy = s.jsy := by simp only [State.stageField]

@[simp] theorem State.emit_part (s : State) (p : Nat) (m : Msg) : (s.emit p m).part = s.part := by rcases s.emit_cases p m with h | h <;> rw [h] <;> rfl
@[simp] theorem State.emit_pending (s : State) (p : Nat) (m : Msg) : (s.emit p m).pending = s.pending := by rcases s.emit_cases p m with h | h <;> rw [h] <;> rfl
@[simp] theorem State.emit_staged (s : State) (p : Nat) (m : Msg) : (s.emit p m).staged = s.staged := by rcases s.emit_cases p m with h | h <;> rw [h] <;> rfl
@[simp] theorem State.emit_csr (s : State) (p : Nat) (m : Msg) : (s.emit p m).csr = s.csr := by rcases s.emit_cases p m with h | h <;> rw [h] <;> rfl
@[simp] theorem State.emit_dram (s : State) (p : Nat) (m : Msg) : (s.emit p m).dram = s.dram := by rcases s.emit_cases p m with h | h <;> rw [h] <;> rfl
@[simp] theorem State.emit_dramErr (s : State) (p : Nat) (m : Msg) : (s.emit p m).dramErr = s.dramErr := by rcases s.emit_cases p m with h | h <;> rw [h] <;> rfl
@[simp] theorem State.emit_shared (s : State) (p : Nat) (m : Msg) : (s.emit p m).shared = s.shared := by rcases s.emit_cases p m with h | h <;> rw [h] <;> rfl
@[simp] theorem State.emit_sharedErr (s : State) (p : Nat) (m : Msg) : (s.emit p m).sharedErr = s.sharedErr := by rcases s.emit_cases p m with h | h <;> rw [h] <;> rfl
@[simp] theorem State.emit_csrErr (s : State) (p : Nat) (m : Msg) : (s.emit p m).csrErr = s.csrErr := by rcases s.emit_cases p m with h | h <;> rw [h] <;> rfl
@[simp] theorem State.emit_store (s : State) (p : Nat) (m : Msg) : (s.emit p m).store = s.store := by rcases s.emit_cases p m with h | h <;> rw [h] <;> rfl
@[simp] theorem State.emit_storeErr (s : State) (p : Nat) (m : Msg) : (s.emit p m).storeErr = s.storeErr := by rcases s.emit_cases p m with h | h <;> rw [h] <;> rfl
@[simp] theorem State.emit_hazy (s : State) (p : Nat) (m : Msg) : (s.emit p m).hazy = s.hazy := by rcases s.emit_cases p m with h | h <;> rw [h] <;> rfl
@[simp] theorem State.emit_region (s : State) (p : Nat) (m : Msg) : (s.emit p m).region = s.region := by rcases s.emit_cases p m with h | h <;> rw [h] <;> rfl
@[simp] theorem State.emit_raised (s : State) (p : Nat) (m : Msg) : (s.emit p m).raised = s.raised := by rcases s.emit_cases p m with h | h <;> rw [h] <;> rfl
@[simp] theorem State.emit_free (s : State) (p : Nat) (m : Msg) : (s.emit p m).free = s.free := by rcases s.emit_cases p m with h | h <;> rw [h] <;> rfl
@[simp] theorem State.emit_pace (s : State) (p : Nat) (m : Msg) : (s.emit p m).pace = s.pace := by rcases s.emit_cases p m with h | h <;> rw [h] <;> rfl
@[simp] theorem State.emit_paceDom (s : State) (p : Nat) (m : Msg) : (s.emit p m).paceDom = s.paceDom := by rcases s.emit_cases p m with h | h <;> rw [h] <;> rfl
@[simp] theorem State.emit_plan (s : State) (p : Nat) (m : Msg) : (s.emit p m).plan = s.plan := by rcases s.emit_cases p m with h | h <;> rw [h] <;> rfl
@[simp] theorem State.emit_runs (s : State) (p : Nat) (m : Msg) : (s.emit p m).runs = s.runs := by rcases s.emit_cases p m with h | h <;> rw [h] <;> rfl
@[simp] theorem State.emit_insts (s : State) (p : Nat) (m : Msg) : (s.emit p m).insts = s.insts := by rcases s.emit_cases p m with h | h <;> rw [h] <;> rfl
@[simp] theorem State.emit_chk (s : State) (p : Nat) (m : Msg) : (s.emit p m).chk = s.chk := by rcases s.emit_cases p m with h | h <;> rw [h] <;> rfl
@[simp] theorem State.emit_saf (s : State) (p : Nat) (m : Msg) : (s.emit p m).saf = s.saf := by rcases s.emit_cases p m with h | h <;> rw [h] <;> rfl
@[simp] theorem State.emit_pow (s : State) (p : Nat) (m : Msg) : (s.emit p m).pow = s.pow := by rcases s.emit_cases p m with h | h <;> rw [h] <;> rfl
@[simp] theorem State.emit_pins (s : State) (p : Nat) (m : Msg) : (s.emit p m).pins = s.pins := by rcases s.emit_cases p m with h | h <;> rw [h] <;> rfl
@[simp] theorem State.emit_mem (s : State) (p : Nat) (m : Msg) : (s.emit p m).mem = s.mem := by rcases s.emit_cases p m with h | h <;> rw [h] <;> rfl
@[simp] theorem State.emit_hlt (s : State) (p : Nat) (m : Msg) : (s.emit p m).hlt = s.hlt := by rcases s.emit_cases p m with h | h <;> rw [h] <;> rfl
@[simp] theorem State.emit_kv (s : State) (p : Nat) (m : Msg) : (s.emit p m).kv = s.kv := by rcases s.emit_cases p m with h | h <;> rw [h] <;> rfl
@[simp] theorem State.emit_tim (s : State) (p : Nat) (m : Msg) : (s.emit p m).tim = s.tim := by rcases s.emit_cases p m with h | h <;> rw [h] <;> rfl
@[simp] theorem State.emit_ing (s : State) (p : Nat) (m : Msg) : (s.emit p m).ing = s.ing := by rcases s.emit_cases p m with h | h <;> rw [h] <;> rfl
@[simp] theorem State.emit_smpl (s : State) (p : Nat) (m : Msg) : (s.emit p m).smpl = s.smpl := by rcases s.emit_cases p m with h | h <;> rw [h] <;> rfl
@[simp] theorem State.emit_fus (s : State) (p : Nat) (m : Msg) : (s.emit p m).fus = s.fus := by rcases s.emit_cases p m with h | h <;> rw [h] <;> rfl
@[simp] theorem State.emit_trk (s : State) (p : Nat) (m : Msg) : (s.emit p m).trk = s.trk := by rcases s.emit_cases p m with h | h <;> rw [h] <;> rfl
@[simp] theorem State.emit_lnk (s : State) (p : Nat) (m : Msg) : (s.emit p m).lnk = s.lnk := by rcases s.emit_cases p m with h | h <;> rw [h] <;> rfl
@[simp] theorem State.emit_otp (s : State) (p : Nat) (m : Msg) : (s.emit p m).otp = s.otp := by rcases s.emit_cases p m with h | h <;> rw [h] <;> rfl
@[simp] theorem State.emit_trust (s : State) (p : Nat) (m : Msg) : (s.emit p m).trust = s.trust := by rcases s.emit_cases p m with h | h <;> rw [h] <;> rfl
@[simp] theorem State.emit_ohp (s : State) (p : Nat) (m : Msg) : (s.emit p m).ohp = s.ohp := by rcases s.emit_cases p m with h | h <;> rw [h] <;> rfl
@[simp] theorem State.emit_smp (s : State) (p : Nat) (m : Msg) : (s.emit p m).smp = s.smp := by rcases s.emit_cases p m with h | h <;> rw [h] <;> rfl
@[simp] theorem State.emit_jsy (s : State) (p : Nat) (m : Msg) : (s.emit p m).jsy = s.jsy := by rcases s.emit_cases p m with h | h <;> rw [h] <;> rfl

end Sys2Proof.Machine
end

