-- ==== Sys2Proof/Laws/Shows.lean ====
section
/-! SUPPORT. Laws of Shows: how the description of a change of registers grows with each operation. -/

namespace Sys2Proof.Machine

/-- A field is a field: its bits lie in one 64-bit register, in order. -/
def Fld.ok (f : Fld) : Prop := f.lo ≤ f.hi ∧ f.hi < 64

theorem Shows.refl (s : State) : Shows s s [] := ⟨by simp, fun _ _ _ => rfl⟩

/-- Registers alone matter. -/
theorem Shows.of_rd {s t u : State} {l : List (Fld × Nat)} (h : Shows s t l) (hr : ∀ a, u.rd a = t.rd a) : Shows s u l := by
  refine ⟨fun p hp => ?_, fun a i ha => ?_⟩
  · have := h.1 p hp
    rw [State.fget] at this ⊢
    rw [hr, this]
  · rw [hr]; exact h.2 a i ha

/-- One more field set: its bits lie in none of the fields listed. -/
theorem Shows.fset {s t : State} {l : List (Fld × Nat)} (h : Shows s t l) (f : Fld) (v : Nat) (hf : f.ok)
    (hv : v < 2 ^ (f.hi + 1 - f.lo)) (hd : ∀ p ∈ l, p.1.addr = f.addr → f.hi < p.1.lo ∨ p.1.hi < f.lo) :
    Shows s (t.fset f v) ((f, v) :: l) := by
  refine ⟨?_, ?_⟩
  · intro p hp
    rcases List.mem_cons.mp hp with rfl | hp
    · simp only [State.fget_fset_self _ _ _ hf.1 hf.2, Nat.mod_eq_of_lt hv]
    · rw [State.fget_fset_other _ _ _ _ hf.1 hf.2 (hd p hp)]; exact h.1 p hp
  · intro a i ha
    have h1 := h.2 a i (fun p hp => ha p (List.mem_cons_of_mem _ hp))
    rw [← h1]
    by_cases hfa : a = f.addr
    · subst hfa
      have := ha (f, v) (List.mem_cons_self ..) rfl
      rw [State.rd_fset_self, bit_eq_testBit, bit_eq_testBit, testBit_wput _ _ _ _ _ hf.1 hf.2, if_neg this]
    · rw [State.rd_fset_ne _ _ _ _ hfa]

/-- A counter counts. -/
theorem Shows.count {s t : State} {l : List (Fld × Nat)} (h : Shows s t l) (f : Fld) (n : Nat) (hf : f.ok)
    (hd : ∀ p ∈ l, p.1.addr = f.addr → f.hi < p.1.lo ∨ p.1.hi < f.lo) (ht : t.fget f = s.fget f) :
    Shows s (t.count f n) ((f, s.counted f n) :: l) := by
  have : s.counted f n = min (t.fget f + n) (2 ^ (f.hi + 1 - f.lo) - 1) := by rw [ht]; rfl
  rw [this]
  refine Shows.fset h f _ hf ?_ hd
  have := Nat.two_pow_pos (f.hi + 1 - f.lo)
  omega

/-- A field that shares no bit with those listed reads as before. -/
theorem Shows.fget_other {s t : State} {l : List (Fld × Nat)} (h : Shows s t l) (g : Fld)
    (hd : ∀ p ∈ l, p.1.addr = g.addr → p.1.hi < g.lo ∨ g.hi < p.1.lo) : t.fget g = s.fget g := by
  apply Nat.eq_of_testBit_eq
  intro i
  simp only [State.fget, wbits, testBit_bits]
  by_cases hi : i < g.hi + 1 - g.lo
  · simp only [hi, decide_true, Bool.true_and]
    rw [← bit_eq_testBit, ← bit_eq_testBit]
    apply h.2
    intro p hp ha hc
    rcases hd p hp ha with h1 | h1 <;> omega
  · simp [hi]

/-- A register that holds none of the fields listed reads as before. -/
theorem Shows.rd_other {s t : State} {l : List (Fld × Nat)} (h : Shows s t l) (a : Addr) (ha : ∀ p ∈ l, p.1.addr ≠ a) :
    t.rd a = s.rd a := by
  apply BitVec.eq_of_toNat_eq
  apply Nat.eq_of_testBit_eq
  intro i
  rw [← bit_eq_testBit, ← bit_eq_testBit]
  exact h.2 a i fun p hp he => absurd he (ha p hp)

end Sys2Proof.Machine
end

