-- ==== Sys2Proof/Laws/Becomes.lean ====
section
/-! SUPPORT. Laws of Becomes: how the description of a state grows with each operation, and that a field which holds no register
goes along. -/

namespace Sys2Proof.Machine

theorem Becomes.refl (u : State) : Becomes u u [] [] := ⟨Shows.refl u, by simp⟩

/-- Device Time stands unless its register is listed. -/
theorem Becomes.now_eq {u t : State} {l : List (Fld × Nat)} {es : List Event} (h : Becomes u t l es)
    (hn : ∀ p ∈ l, p.1.addr ≠ Reg.ING_DT_NOW) : t.now = u.now := by
  rw [State.now, State.now, h.1.rd_other _ hn]

/-- One more field set. -/
theorem Becomes.fset {u t : State} {l : List (Fld × Nat)} {es : List Event} (h : Becomes u t l es) (f : Fld) (v : Nat) (hf : f.ok)
    (hv : v < 2 ^ (f.hi + 1 - f.lo)) (hd : ∀ p ∈ l, p.1.addr = f.addr → f.hi < p.1.lo ∨ p.1.hi < f.lo) :
    Becomes u (t.fset f v) ((f, v) :: l) es :=
  ⟨h.1.fset f v hf hv hd, by rw [State.fset, State.wr, h.2]⟩

/-- A counter counts. -/
theorem Becomes.count {u t : State} {l : List (Fld × Nat)} {es : List Event} (h : Becomes u t l es) (f : Fld) (n : Nat) (hf : f.ok)
    (hd : ∀ p ∈ l, p.1.addr = f.addr → f.hi < p.1.lo ∨ p.1.hi < f.lo) : Becomes u (t.count f n) ((f, u.counted f n) :: l) es :=
  ⟨h.1.count f n hf hd (h.1.fget_other f fun p hp e => (hd p hp e).symm), by rw [State.count, State.fset, State.wr, h.2]⟩

/-- An event raised, at the time of before. -/
theorem Becomes.raise {u t : State} {l : List (Fld × Nat)} {es : List Event} (h : Becomes u t l es) (c o n d : Nat)
    (hn : ∀ p ∈ l, p.1.addr ≠ Reg.ING_DT_NOW) : Becomes u (t.raise c o n d) l (es ++ [u.event c o n d]) := by
  refine ⟨h.1.of_rd fun _ => rfl, ?_⟩
  have e := h.now_eq hn
  rw [State.raise, State.event, e]
  conv => lhs; rw [h.2]
  simp

theorem Becomes.pending {u t : State} {l : List (Fld × Nat)} {es : List Event} (h : Becomes u t l es) (x : List Instr) :
    Becomes { u with pending := x } { t with pending := x } l es :=
  ⟨⟨h.1.1, h.1.2⟩, by rw [h.2]⟩

theorem Becomes.staged {u t : State} {l : List (Fld × Nat)} {es : List Event} (h : Becomes u t l es) (x : SMap Staged) :
    Becomes { u with staged := x } { t with staged := x } l es :=
  ⟨⟨h.1.1, h.1.2⟩, by rw [h.2]⟩

theorem Becomes.csr {u t : State} {l : List (Fld × Nat)} {es : List Event} (h : Becomes u t l es) (x : SMap Byte) :
    Becomes { u with csr := x } { t with csr := x } l es :=
  ⟨⟨h.1.1, h.1.2⟩, by rw [h.2]⟩

theorem Becomes.dram {u t : State} {l : List (Fld × Nat)} {es : List Event} (h : Becomes u t l es) (x : SMap Byte) :
    Becomes { u with dram := x } { t with dram := x } l es :=
  ⟨⟨h.1.1, h.1.2⟩, by rw [h.2]⟩

theorem Becomes.dramErr {u t : State} {l : List (Fld × Nat)} {es : List Event} (h : Becomes u t l es) (x : SMap Nat) :
    Becomes { u with dramErr := x } { t with dramErr := x } l es :=
  ⟨⟨h.1.1, h.1.2⟩, by rw [h.2]⟩

theorem Becomes.shared {u t : State} {l : List (Fld × Nat)} {es : List Event} (h : Becomes u t l es) (x : SMap Byte) :
    Becomes { u with shared := x } { t with shared := x } l es :=
  ⟨⟨h.1.1, h.1.2⟩, by rw [h.2]⟩

theorem Becomes.sharedErr {u t : State} {l : List (Fld × Nat)} {es : List Event} (h : Becomes u t l es) (x : SMap Nat) :
    Becomes { u with sharedErr := x } { t with sharedErr := x } l es :=
  ⟨⟨h.1.1, h.1.2⟩, by rw [h.2]⟩

theorem Becomes.csrErr {u t : State} {l : List (Fld × Nat)} {es : List Event} (h : Becomes u t l es) (x : SMap Nat) :
    Becomes { u with csrErr := x } { t with csrErr := x } l es :=
  ⟨⟨h.1.1, h.1.2⟩, by rw [h.2]⟩

theorem Becomes.store {u t : State} {l : List (Fld × Nat)} {es : List Event} (h : Becomes u t l es) (x : SMap Byte) :
    Becomes { u with store := x } { t with store := x } l es :=
  ⟨⟨h.1.1, h.1.2⟩, by rw [h.2]⟩

theorem Becomes.storeErr {u t : State} {l : List (Fld × Nat)} {es : List Event} (h : Becomes u t l es) (x : SMap Nat) :
    Becomes { u with storeErr := x } { t with storeErr := x } l es :=
  ⟨⟨h.1.1, h.1.2⟩, by rw [h.2]⟩

theorem Becomes.hazy {u t : State} {l : List (Fld × Nat)} {es : List Event} (h : Becomes u t l es) (x : List Hazy) :
    Becomes { u with hazy := x } { t with hazy := x } l es :=
  ⟨⟨h.1.1, h.1.2⟩, by rw [h.2]⟩

theorem Becomes.region {u t : State} {l : List (Fld × Nat)} {es : List Event} (h : Becomes u t l es) (x : SMap (Option Byte)) :
    Becomes { u with region := x } { t with region := x } l es :=
  ⟨⟨h.1.1, h.1.2⟩, by rw [h.2]⟩

theorem Becomes.out {u t : State} {l : List (Fld × Nat)} {es : List Event} (h : Becomes u t l es) (x : List Msg) :
    Becomes { u with out := x } { t with out := x } l es :=
  ⟨⟨h.1.1, h.1.2⟩, by rw [h.2]⟩

theorem Becomes.free {u t : State} {l : List (Fld × Nat)} {es : List Event} (h : Becomes u t l es) (x : Nat) :
    Becomes { u with free := x } { t with free := x } l es :=
  ⟨⟨h.1.1, h.1.2⟩, by rw [h.2]⟩

theorem Becomes.pace {u t : State} {l : List (Fld × Nat)} {es : List Event} (h : Becomes u t l es) (x : SMap PaceDie) :
    Becomes { u with pace := x } { t with pace := x } l es :=
  ⟨⟨h.1.1, h.1.2⟩, by rw [h.2]⟩

theorem Becomes.paceDom {u t : State} {l : List (Fld × Nat)} {es : List Event} (h : Becomes u t l es) (x : SMap PaceDom) :
    Becomes { u with paceDom := x } { t with paceDom := x } l es :=
  ⟨⟨h.1.1, h.1.2⟩, by rw [h.2]⟩

theorem Becomes.plan {u t : State} {l : List (Fld × Nat)} {es : List Event} (h : Becomes u t l es) (x : PlanState) :
    Becomes { u with plan := x } { t with plan := x } l es :=
  ⟨⟨h.1.1, h.1.2⟩, by rw [h.2]⟩

theorem Becomes.runs {u t : State} {l : List (Fld × Nat)} {es : List Event} (h : Becomes u t l es) (x : SMap (Option TaskRun)) :
    Becomes { u with runs := x } { t with runs := x } l es :=
  ⟨⟨h.1.1, h.1.2⟩, by rw [h.2]⟩

theorem Becomes.insts {u t : State} {l : List (Fld × Nat)} {es : List Event} (h : Becomes u t l es) (x : SMap InstRun) :
    Becomes { u with insts := x } { t with insts := x } l es :=
  ⟨⟨h.1.1, h.1.2⟩, by rw [h.2]⟩

theorem Becomes.chk {u t : State} {l : List (Fld × Nat)} {es : List Event} (h : Becomes u t l es) (x : ChkState) :
    Becomes { u with chk := x } { t with chk := x } l es :=
  ⟨⟨h.1.1, h.1.2⟩, by rw [h.2]⟩

theorem Becomes.saf {u t : State} {l : List (Fld × Nat)} {es : List Event} (h : Becomes u t l es) (x : SafState) :
    Becomes { u with saf := x } { t with saf := x } l es :=
  ⟨⟨h.1.1, h.1.2⟩, by rw [h.2]⟩

theorem Becomes.pow {u t : State} {l : List (Fld × Nat)} {es : List Event} (h : Becomes u t l es) (x : PowState) :
    Becomes { u with pow := x } { t with pow := x } l es :=
  ⟨⟨h.1.1, h.1.2⟩, by rw [h.2]⟩

theorem Becomes.pins {u t : State} {l : List (Fld × Nat)} {es : List Event} (h : Becomes u t l es) (x : Pins) :
    Becomes { u with pins := x } { t with pins := x } l es :=
  ⟨⟨h.1.1, h.1.2⟩, by rw [h.2]⟩

theorem Becomes.mem {u t : State} {l : List (Fld × Nat)} {es : List Event} (h : Becomes u t l es) (x : MemState) :
    Becomes { u with mem := x } { t with mem := x } l es :=
  ⟨⟨h.1.1, h.1.2⟩, by rw [h.2]⟩

theorem Becomes.hlt {u t : State} {l : List (Fld × Nat)} {es : List Event} (h : Becomes u t l es) (x : HltState) :
    Becomes { u with hlt := x } { t with hlt := x } l es :=
  ⟨⟨h.1.1, h.1.2⟩, by rw [h.2]⟩

theorem Becomes.kv {u t : State} {l : List (Fld × Nat)} {es : List Event} (h : Becomes u t l es) (x : KvState) :
    Becomes { u with kv := x } { t with kv := x } l es :=
  ⟨⟨h.1.1, h.1.2⟩, by rw [h.2]⟩

theorem Becomes.tim {u t : State} {l : List (Fld × Nat)} {es : List Event} (h : Becomes u t l es) (x : TimeState) :
    Becomes { u with tim := x } { t with tim := x } l es :=
  ⟨⟨h.1.1, h.1.2⟩, by rw [h.2]⟩

theorem Becomes.ing {u t : State} {l : List (Fld × Nat)} {es : List Event} (h : Becomes u t l es) (x : IngState) :
    Becomes { u with ing := x } { t with ing := x } l es :=
  ⟨⟨h.1.1, h.1.2⟩, by rw [h.2]⟩

theorem Becomes.smpl {u t : State} {l : List (Fld × Nat)} {es : List Event} (h : Becomes u t l es) (x : SmplState) :
    Becomes { u with smpl := x } { t with smpl := x } l es :=
  ⟨⟨h.1.1, h.1.2⟩, by rw [h.2]⟩

theorem Becomes.fus {u t : State} {l : List (Fld × Nat)} {es : List Event} (h : Becomes u t l es) (x : FusState) :
    Becomes { u with fus := x } { t with fus := x } l es :=
  ⟨⟨h.1.1, h.1.2⟩, by rw [h.2]⟩

theorem Becomes.trk {u t : State} {l : List (Fld × Nat)} {es : List Event} (h : Becomes u t l es) (x : TrkState) :
    Becomes { u with trk := x } { t with trk := x } l es :=
  ⟨⟨h.1.1, h.1.2⟩, by rw [h.2]⟩

theorem Becomes.lnk {u t : State} {l : List (Fld × Nat)} {es : List Event} (h : Becomes u t l es) (x : LnkState) :
    Becomes { u with lnk := x } { t with lnk := x } l es :=
  ⟨⟨h.1.1, h.1.2⟩, by rw [h.2]⟩

theorem Becomes.otp {u t : State} {l : List (Fld × Nat)} {es : List Event} (h : Becomes u t l es) (x : Otp) :
    Becomes { u with otp := x } { t with otp := x } l es :=
  ⟨⟨h.1.1, h.1.2⟩, by rw [h.2]⟩

theorem Becomes.trust {u t : State} {l : List (Fld × Nat)} {es : List Event} (h : Becomes u t l es) (x : TrustState) :
    Becomes { u with trust := x } { t with trust := x } l es :=
  ⟨⟨h.1.1, h.1.2⟩, by rw [h.2]⟩

theorem Becomes.eth {u t : State} {l : List (Fld × Nat)} {es : List Event} (h : Becomes u t l es) (x : EthState) :
    Becomes { u with eth := x } { t with eth := x } l es :=
  ⟨⟨h.1.1, h.1.2⟩, by rw [h.2]⟩

theorem Becomes.ohp {u t : State} {l : List (Fld × Nat)} {es : List Event} (h : Becomes u t l es) (x : OhpState) :
    Becomes { u with ohp := x } { t with ohp := x } l es :=
  ⟨⟨h.1.1, h.1.2⟩, by rw [h.2]⟩

theorem Becomes.smp {u t : State} {l : List (Fld × Nat)} {es : List Event} (h : Becomes u t l es) (x : SmpState) :
    Becomes { u with smp := x } { t with smp := x } l es :=
  ⟨⟨h.1.1, h.1.2⟩, by rw [h.2]⟩

theorem Becomes.jsy {u t : State} {l : List (Fld × Nat)} {es : List Event} (h : Becomes u t l es) (x : JsyState) :
    Becomes { u with jsy := x } { t with jsy := x } l es :=
  ⟨⟨h.1.1, h.1.2⟩, by rw [h.2]⟩

end Sys2Proof.Machine
end

