-- ==== Sys2Proof/Laws/Keeps.lean ====
section
/-! SUPPORT. Laws of Keeps: it holds from a state to itself, it chains, and an update of the state keeps it when every map it writes stays in
canonical form. -/

namespace Sys2Proof.Machine

theorem Keeps.refl (s : State) : Keeps s s := ⟨rfl, rfl, id⟩

theorem Keeps.trans {s t u : State} (h : Keeps s t) (g : Keeps t u) : Keeps s u :=
  ⟨g.part.trans h.part, g.pending.trans h.pending, fun c => g.canon (h.canon c)⟩

/-- An update of a state that is kept, map by map. -/
theorem Keeps.upd {s t : State}
    {regs : SMap Word} {staged : SMap Staged} {csr : SMap Byte} {dram : SMap Byte} {dramErr : SMap Nat} {shared : SMap Byte} {sharedErr :
    SMap Nat} {csrErr : SMap Nat} {store : SMap Byte} {storeErr : SMap Nat} {hazy : List Hazy} {region : SMap (Option Byte)} {raised : List
    Event} {out : List Msg} {free : Nat} {pace : SMap PaceDie} {paceDom : SMap PaceDom} {plan : PlanState} {runs : SMap (Option TaskRun)}
    {insts : SMap InstRun} {chk : ChkState} {saf : SafState} {pow : PowState} {pins : Pins} {mem : MemState} {hlt : HltState} {kv : KvState}
    {tim : TimeState} {ing : IngState} {smpl : SmplState} {fus : FusState} {trk : TrkState} {lnk : LnkState} {otp : Otp} {trust :
    TrustState} {eth : EthState} {ohp : OhpState} {smp : SmpState} {jsy : JsyState}
    (h : Keeps s t)
    (hRegs : smWf (regReset t.part) t.regs = true → smWf (regReset t.part) regs = true)
    (hStaged : smWf (fun _ => ({} : Staged)) t.staged = true → smWf (fun _ => ({} : Staged)) staged = true)
    (hCsr : smWf (fun _ => (0 : Byte)) t.csr = true → smWf (fun _ => (0 : Byte)) csr = true)
    (hCsrerr : smWf (fun _ => 0) t.csrErr = true → smWf (fun _ => 0) csrErr = true)
    (hDram : smWf (fun _ => (0 : Byte)) t.dram = true → smWf (fun _ => (0 : Byte)) dram = true)
    (hDramerr : smWf (fun _ => 0) t.dramErr = true → smWf (fun _ => 0) dramErr = true)
    (hShared : smWf (fun _ => (0 : Byte)) t.shared = true → smWf (fun _ => (0 : Byte)) shared = true)
    (hSharederr : smWf (fun _ => 0) t.sharedErr = true → smWf (fun _ => 0) sharedErr = true)
    (hStore : smWf (fun _ => (0 : Byte)) t.store = true → smWf (fun _ => (0 : Byte)) store = true)
    (hStoreerr : smWf (fun _ => 0) t.storeErr = true → smWf (fun _ => 0) storeErr = true)
    (hRegion : smWf (fun _ => (none : Option Byte)) t.region = true → smWf (fun _ => (none : Option Byte)) region = true) :
    Keeps s
      ⟨t.part, t.pending, regs, staged, csr, dram, dramErr, shared, sharedErr, csrErr, store, storeErr, hazy, region, raised, out, free,
      pace, paceDom, plan, runs, insts, chk, saf, pow, pins, mem, hlt, kv, tim, ing, smpl, fus, trk, lnk, otp, trust, eth, ohp, smp, jsy⟩ :=
  h.trans ⟨rfl, rfl, fun c => ⟨hRegs c.regs, hStaged c.staged, hCsr c.csr, hCsrerr c.csrErr, hDram c.dram, hDramerr c.dramErr, hShared c.shared, hSharederr c.sharedErr, hStore c.store, hStoreerr c.storeErr, hRegion c.region⟩⟩

/-- An update that touches none of those maps. -/
theorem Keeps.same {s t : State}
    {hazy : List Hazy} {raised : List Event} {out : List Msg} {free : Nat} {pace : SMap PaceDie} {paceDom : SMap PaceDom} {plan : PlanState}
    {runs : SMap (Option TaskRun)} {insts : SMap InstRun} {chk : ChkState} {saf : SafState} {pow : PowState} {pins : Pins} {mem : MemState}
    {hlt : HltState} {kv : KvState} {tim : TimeState} {ing : IngState} {smpl : SmplState} {fus : FusState} {trk : TrkState} {lnk : LnkState}
    {otp : Otp} {trust : TrustState} {eth : EthState} {ohp : OhpState} {smp : SmpState} {jsy : JsyState}
    (h : Keeps s t) :
    Keeps s
      ⟨t.part, t.pending, t.regs, t.staged, t.csr, t.dram, t.dramErr, t.shared, t.sharedErr, t.csrErr, t.store, t.storeErr, hazy, t.region,
      raised, out, free, pace, paceDom, plan, runs, insts, chk, saf, pow, pins, mem, hlt, kv, tim, ing, smpl, fus, trk, lnk, otp, trust,
      eth, ohp, smp, jsy⟩ :=
  h.upd id id id id id id id id id id id

theorem Keeps.ite {s a b : State} {c : Prop} [Decidable c] (ha : Keeps s a) (hb : Keeps s b) : Keeps s (if c then a else b) := by
  split
  · exact ha
  · exact hb

theorem Keeps.foldl {α : Type} {s a : State} {f : State → α → State} {l : List α} (ha : Keeps s a)
    (hf : ∀ t x, Keeps s t → Keeps s (f t x)) : Keeps s (l.foldl f a) := by
  induction l generalizing a with
  | nil => exact ha
  | cons x l ih => exact ih (hf _ _ ha)

theorem Keeps.foldl1 {α β : Type} {s : State} {a : State × β} {f : State × β → α → State × β} {l : List α} (ha : Keeps s a.1)
    (hf : ∀ t x, Keeps s t.1 → Keeps s (f t x).1) : Keeps s (l.foldl f a).1 := by
  induction l generalizing a with
  | nil => exact ha
  | cons x l ih => exact ih (hf _ _ ha)

/-- A fold of an operation that also carries a list or a count. -/
theorem Keeps.foldlPair {α β : Type} {s : State} {a : State × β} {g : State → α → β → State × β} {l : List α} (ha : Keeps s a.1)
    (hg : ∀ t x b, Keeps s t → Keeps s (g t x b).1) : Keeps s (l.foldl (fun acc x => g acc.1 x acc.2) a).1 := by
  induction l generalizing a with
  | nil => exact ha
  | cons x l ih => exact ih (hg _ _ _ ha)

theorem Keeps.pair {α β : Type} {s : State} {x : State × α} {y : β} (h : Keeps s x.1) : Keeps s (x.1, y).1 := h

/-- A register written. -/
theorem State.wr_keeps {r s : State} (h : Keeps r s) (a : Addr) (w : Word) : Keeps r (s.wr a w) :=
  h.trans ((Keeps.refl s).upd (smWf_put _ _ _ _) id id id id id id id id id id)

end Sys2Proof.Machine
end

