-- ==== Sys2Proof/Laws/Keeps/Regs.lean ====
section
/-! SUPPORT. Every operation of Machine/Regs.lean that answers a state keeps the part, the queue and the canonical form. -/

namespace Sys2Proof.Machine

theorem State.fset_keeps {r0 s : State} (hk : Keeps r0 s) (f : Fld) (v : Nat) : Keeps r0 (State.fset s f v) := by
  rw [State.fset]
  repeat' first
    | (conv => enter [2, 41]); with_reducible refine Keeps.same ?_
    | (conv => enter [2, 41]); with_reducible refine Keeps.upd ?_ ?_ ?_ ?_ ?_ ?_ ?_ ?_ ?_ ?_ ?_ ?_
    | dsimp only
    | with_reducible assumption
    | with_reducible exact Keeps.refl _
    | with_reducible refine Keeps.ite ?_ ?_
    | with_reducible refine Keeps.foldl ?_ (fun _ _ _ => ?_)
    | with_reducible apply State.wr_keeps
    | split
    | exact id
    | exact smWf_put _ _ _ _
    | exact smWf_put (fun _ => _) _ _ _
    | exact smWf_keep _ _ _
    | exact smWf_putBytes _ _ _
    | exact smWfFrom_filter _ _ _ _
    | exact fun _ => smWf_nil _

theorem State.count_keeps {r0 s : State} (hk : Keeps r0 s) (f : Fld) (n : Nat) : Keeps r0 (State.count s f n) := by
  rw [State.count]
  repeat' first
    | (conv => enter [2, 41]); with_reducible refine Keeps.same ?_
    | (conv => enter [2, 41]); with_reducible refine Keeps.upd ?_ ?_ ?_ ?_ ?_ ?_ ?_ ?_ ?_ ?_ ?_ ?_
    | dsimp only
    | with_reducible assumption
    | with_reducible exact Keeps.refl _
    | with_reducible refine Keeps.ite ?_ ?_
    | with_reducible refine Keeps.foldl ?_ (fun _ _ _ => ?_)
    | with_reducible apply State.fset_keeps
    | split
    | exact id
    | exact smWf_put _ _ _ _
    | exact smWf_put (fun _ => _) _ _ _
    | exact smWf_keep _ _ _
    | exact smWf_putBytes _ _ _
    | exact smWfFrom_filter _ _ _ _
    | exact fun _ => smWf_nil _

theorem State.countWrap_keeps {r0 s : State} (hk : Keeps r0 s) (f : Fld) (n : Nat) : Keeps r0 (State.countWrap s f n) := by
  rw [State.countWrap]
  repeat' first
    | (conv => enter [2, 41]); with_reducible refine Keeps.same ?_
    | (conv => enter [2, 41]); with_reducible refine Keeps.upd ?_ ?_ ?_ ?_ ?_ ?_ ?_ ?_ ?_ ?_ ?_ ?_
    | dsimp only
    | with_reducible assumption
    | with_reducible exact Keeps.refl _
    | with_reducible refine Keeps.ite ?_ ?_
    | with_reducible refine Keeps.foldl ?_ (fun _ _ _ => ?_)
    | with_reducible apply State.fset_keeps
    | split
    | exact id
    | exact smWf_put _ _ _ _
    | exact smWf_put (fun _ => _) _ _ _
    | exact smWf_keep _ _ _
    | exact smWf_putBytes _ _ _
    | exact smWfFrom_filter _ _ _ _
    | exact fun _ => smWf_nil _

theorem State.capture_keeps {r0 s : State} (hk : Keeps r0 s) (a : Addr) (v : Nat) : Keeps r0 (State.capture s a v) := by
  rw [State.capture]
  repeat' first
    | (conv => enter [2, 41]); with_reducible refine Keeps.same ?_
    | (conv => enter [2, 41]); with_reducible refine Keeps.upd ?_ ?_ ?_ ?_ ?_ ?_ ?_ ?_ ?_ ?_ ?_ ?_
    | dsimp only
    | with_reducible assumption
    | with_reducible exact Keeps.refl _
    | with_reducible refine Keeps.ite ?_ ?_
    | with_reducible refine Keeps.foldl ?_ (fun _ _ _ => ?_)
    | with_reducible apply State.wr_keeps
    | split
    | exact id
    | exact smWf_put _ _ _ _
    | exact smWf_put (fun _ => _) _ _ _
    | exact smWf_keep _ _ _
    | exact smWf_putBytes _ _ _
    | exact smWfFrom_filter _ _ _ _
    | exact fun _ => smWf_nil _

theorem State.raise_keeps {r0 s : State} (hk : Keeps r0 s) (code origin unit detail : Nat) : Keeps r0 (State.raise s code origin unit detail) := by
  rw [State.raise]
  repeat' first
    | (conv => enter [2, 41]); with_reducible refine Keeps.same ?_
    | (conv => enter [2, 41]); with_reducible refine Keeps.upd ?_ ?_ ?_ ?_ ?_ ?_ ?_ ?_ ?_ ?_ ?_ ?_
    | dsimp only
    | with_reducible assumption
    | with_reducible exact Keeps.refl _
    | with_reducible refine Keeps.ite ?_ ?_
    | with_reducible refine Keeps.foldl ?_ (fun _ _ _ => ?_)
    | split
    | exact id
    | exact smWf_put _ _ _ _
    | exact smWf_put (fun _ => _) _ _ _
    | exact smWf_keep _ _ _
    | exact smWf_putBytes _ _ _
    | exact smWfFrom_filter _ _ _ _
    | exact fun _ => smWf_nil _

theorem State.writeReg_keeps {r0 s : State} (hk : Keeps r0 s) (d : RegDef) (key : Addr) (upper : Bool) (v : Nat) : Keeps r0 (State.writeReg s d key upper v) := by
  rw [State.writeReg]
  repeat' first
    | (conv => enter [2, 41]); with_reducible refine Keeps.same ?_
    | (conv => enter [2, 41]); with_reducible refine Keeps.upd ?_ ?_ ?_ ?_ ?_ ?_ ?_ ?_ ?_ ?_ ?_ ?_
    | dsimp only
    | with_reducible assumption
    | with_reducible exact Keeps.refl _
    | with_reducible refine Keeps.ite ?_ ?_
    | with_reducible refine Keeps.foldl ?_ (fun _ _ _ => ?_)
    | with_reducible apply State.wr_keeps
    | split
    | exact id
    | exact smWf_put _ _ _ _
    | exact smWf_put (fun _ => _) _ _ _
    | exact smWf_keep _ _ _
    | exact smWf_putBytes _ _ _
    | exact smWfFrom_filter _ _ _ _
    | exact fun _ => smWf_nil _

theorem State.flagLck_keeps {r0 s : State} (hk : Keeps r0 s) (a : Addr) (source : Nat) : Keeps r0 (State.flagLck s a source) := by
  rw [State.flagLck]
  repeat' first
    | (conv => enter [2, 41]); with_reducible refine Keeps.same ?_
    | (conv => enter [2, 41]); with_reducible refine Keeps.upd ?_ ?_ ?_ ?_ ?_ ?_ ?_ ?_ ?_ ?_ ?_ ?_
    | dsimp only
    | with_reducible assumption
    | with_reducible exact Keeps.refl _
    | with_reducible refine Keeps.ite ?_ ?_
    | with_reducible refine Keeps.foldl ?_ (fun _ _ _ => ?_)
    | with_reducible apply State.raise_keeps
    | with_reducible apply State.count_keeps
    | with_reducible apply State.capture_keeps
    | split
    | exact id
    | exact smWf_put _ _ _ _
    | exact smWf_put (fun _ => _) _ _ _
    | exact smWf_keep _ _ _
    | exact smWf_putBytes _ _ _
    | exact smWfFrom_filter _ _ _ _
    | exact fun _ => smWf_nil _

theorem State.swWrite_keeps {r0 s : State} (hk : Keeps r0 s) (a : Addr) (v source : Nat) : Keeps r0 (State.swWrite s a v source) := by
  rw [State.swWrite]
  repeat' first
    | (conv => enter [2, 41]); with_reducible refine Keeps.same ?_
    | (conv => enter [2, 41]); with_reducible refine Keeps.upd ?_ ?_ ?_ ?_ ?_ ?_ ?_ ?_ ?_ ?_ ?_ ?_
    | dsimp only
    | with_reducible assumption
    | with_reducible exact Keeps.refl _
    | with_reducible refine Keeps.ite ?_ ?_
    | with_reducible refine Keeps.foldl ?_ (fun _ _ _ => ?_)
    | with_reducible apply State.writeReg_keeps
    | with_reducible apply State.flagLck_keeps
    | split
    | exact id
    | exact smWf_put _ _ _ _
    | exact smWf_put (fun _ => _) _ _ _
    | exact smWf_keep _ _ _
    | exact smWf_putBytes _ _ _
    | exact smWfFrom_filter _ _ _ _
    | exact fun _ => smWf_nil _

theorem State.stageField_keeps {r0 s : State} (hk : Keeps r0 s) (f : Fld) (v : Nat) : Keeps r0 (State.stageField s f v) := by
  rw [State.stageField]
  repeat' first
    | (conv => enter [2, 41]); with_reducible refine Keeps.same ?_
    | (conv => enter [2, 41]); with_reducible refine Keeps.upd ?_ ?_ ?_ ?_ ?_ ?_ ?_ ?_ ?_ ?_ ?_ ?_
    | dsimp only
    | with_reducible assumption
    | with_reducible exact Keeps.refl _
    | with_reducible refine Keeps.ite ?_ ?_
    | with_reducible refine Keeps.foldl ?_ (fun _ _ _ => ?_)
    | split
    | exact id
    | exact smWf_put _ _ _ _
    | exact smWf_put (fun _ => _) _ _ _
    | exact smWf_keep _ _ _
    | exact smWf_putBytes _ _ _
    | exact smWfFrom_filter _ _ _ _
    | exact fun _ => smWf_nil _

theorem State.unstage_keeps {r0 s : State} (hk : Keeps r0 s) (a : Addr) : Keeps r0 (State.unstage s a) := by
  rw [State.unstage]
  repeat' first
    | (conv => enter [2, 41]); with_reducible refine Keeps.same ?_
    | (conv => enter [2, 41]); with_reducible refine Keeps.upd ?_ ?_ ?_ ?_ ?_ ?_ ?_ ?_ ?_ ?_ ?_ ?_
    | dsimp only
    | with_reducible assumption
    | with_reducible exact Keeps.refl _
    | with_reducible refine Keeps.ite ?_ ?_
    | with_reducible refine Keeps.foldl ?_ (fun _ _ _ => ?_)
    | split
    | exact id
    | exact smWf_put _ _ _ _
    | exact smWf_put (fun _ => _) _ _ _
    | exact smWf_keep _ _ _
    | exact smWf_putBytes _ _ _
    | exact smWfFrom_filter _ _ _ _
    | exact fun _ => smWf_nil _

theorem State.applyStaged_keeps {r0 s : State} (hk : Keeps r0 s) (a : Addr) : Keeps r0 (State.applyStaged s a) := by
  rw [State.applyStaged]
  repeat' first
    | (conv => enter [2, 41]); with_reducible refine Keeps.same ?_
    | (conv => enter [2, 41]); with_reducible refine Keeps.upd ?_ ?_ ?_ ?_ ?_ ?_ ?_ ?_ ?_ ?_ ?_ ?_
    | dsimp only
    | with_reducible assumption
    | with_reducible exact Keeps.refl _
    | with_reducible refine Keeps.ite ?_ ?_
    | with_reducible refine Keeps.foldl ?_ (fun _ _ _ => ?_)
    | with_reducible apply State.wr_keeps
    | with_reducible apply State.unstage_keeps
    | split
    | exact id
    | exact smWf_put _ _ _ _
    | exact smWf_put (fun _ => _) _ _ _
    | exact smWf_keep _ _ _
    | exact smWf_putBytes _ _ _
    | exact smWfFrom_filter _ _ _ _
    | exact fun _ => smWf_nil _

theorem State.applyBlocks_keeps {r0 s : State} (hk : Keeps r0 s) (p : Nat → Bool) : Keeps r0 (State.applyBlocks s p) := by
  rw [State.applyBlocks]
  repeat' first
    | (conv => enter [2, 41]); with_reducible refine Keeps.same ?_
    | (conv => enter [2, 41]); with_reducible refine Keeps.upd ?_ ?_ ?_ ?_ ?_ ?_ ?_ ?_ ?_ ?_ ?_ ?_
    | dsimp only
    | with_reducible assumption
    | with_reducible exact Keeps.refl _
    | with_reducible refine Keeps.ite ?_ ?_
    | with_reducible refine Keeps.foldl ?_ (fun _ _ _ => ?_)
    | with_reducible refine Keeps.foldl1 ?_ (fun _ _ _ => ?_)
    | with_reducible apply State.applyStaged_keeps
    | split
    | exact id
    | exact smWf_put _ _ _ _
    | exact smWf_put (fun _ => _) _ _ _
    | exact smWf_keep _ _ _
    | exact smWf_putBytes _ _ _
    | exact smWfFrom_filter _ _ _ _
    | exact fun _ => smWf_nil _

theorem State.freeTime_keeps {r0 s : State} (hk : Keeps r0 s)  : Keeps r0 (State.freeTime s) := by
  rw [State.freeTime]
  repeat' first
    | (conv => enter [2, 41]); with_reducible refine Keeps.same ?_
    | (conv => enter [2, 41]); with_reducible refine Keeps.upd ?_ ?_ ?_ ?_ ?_ ?_ ?_ ?_ ?_ ?_ ?_ ?_
    | dsimp only
    | with_reducible assumption
    | with_reducible exact Keeps.refl _
    | with_reducible refine Keeps.ite ?_ ?_
    | with_reducible refine Keeps.foldl ?_ (fun _ _ _ => ?_)
    | with_reducible apply State.fset_keeps
    | with_reducible apply State.wr_keeps
    | split
    | exact id
    | exact smWf_put _ _ _ _
    | exact smWf_put (fun _ => _) _ _ _
    | exact smWf_keep _ _ _
    | exact smWf_putBytes _ _ _
    | exact smWfFrom_filter _ _ _ _
    | exact fun _ => smWf_nil _

theorem State.emit_keeps {r0 s : State} (hk : Keeps r0 s) (port : Nat) (m : Msg) : Keeps r0 (State.emit s port m) := by
  rw [State.emit]
  repeat' first
    | (conv => enter [2, 41]); with_reducible refine Keeps.same ?_
    | (conv => enter [2, 41]); with_reducible refine Keeps.upd ?_ ?_ ?_ ?_ ?_ ?_ ?_ ?_ ?_ ?_ ?_ ?_
    | dsimp only
    | with_reducible assumption
    | with_reducible exact Keeps.refl _
    | with_reducible refine Keeps.ite ?_ ?_
    | with_reducible refine Keeps.foldl ?_ (fun _ _ _ => ?_)
    | with_reducible apply State.count_keeps
    | split
    | exact id
    | exact smWf_put _ _ _ _
    | exact smWf_put (fun _ => _) _ _ _
    | exact smWf_keep _ _ _
    | exact smWf_putBytes _ _ _
    | exact smWfFrom_filter _ _ _ _
    | exact fun _ => smWf_nil _

theorem State.sendOhp_keeps {r0 s : State} (hk : Keeps r0 s) (m : OhpMsg) : Keeps r0 (State.sendOhp s m) := by
  rw [State.sendOhp]
  repeat' first
    | (conv => enter [2, 41]); with_reducible refine Keeps.same ?_
    | (conv => enter [2, 41]); with_reducible refine Keeps.upd ?_ ?_ ?_ ?_ ?_ ?_ ?_ ?_ ?_ ?_ ?_ ?_
    | dsimp only
    | with_reducible assumption
    | with_reducible exact Keeps.refl _
    | with_reducible refine Keeps.ite ?_ ?_
    | with_reducible refine Keeps.foldl ?_ (fun _ _ _ => ?_)
    | with_reducible apply State.emit_keeps
    | split
    | exact id
    | exact smWf_put _ _ _ _
    | exact smWf_put (fun _ => _) _ _ _
    | exact smWf_keep _ _ _
    | exact smWf_putBytes _ _ _
    | exact smWfFrom_filter _ _ _ _
    | exact fun _ => smWf_nil _

theorem State.draw_keeps2 {r s : State} (h : Keeps r s) : Keeps r s.draw.2 := Keeps.same h
theorem State.draw_keepsE {r s t : State} {n : Nat} (h : Keeps r s) (e : s.draw = (n, t)) : Keeps r t := by
  cases e
  exact Keeps.same h

end Sys2Proof.Machine
end

