-- ==== Sys2Proof/Laws/Keeps/Store.lean ====
section
/-! SUPPORT. Every operation of Machine/Store.lean that answers a state keeps the part, the queue and the canonical form. -/

namespace Sys2Proof.Machine

theorem State.stPut1_keeps {r0 s : State} (hk : Keeps r0 s) (t e off : Nat) (b : Byte) : Keeps r0 (State.stPut1 s t e off b) := by
  rw [State.stPut1]
  repeat' first
    | (conv => enter [2, 41]); with_reducible refine Keeps.same ?_
    | (conv => enter [2, 41]); with_reducible refine Keeps.upd ?_ ?_ ?_ ?_ ?_ ?_ ?_ ?_ ?_ ?_ ?_ ?_
    | dsimp only
    | with_reducible assumption
    | with_reducible exact Keeps.refl _
    | with_reducible refine Keeps.ite ?_ ?_
    | with_reducible refine Keeps.foldl ?_ (fun _ _ _ => ?_)
    | split
    | exact id
    | exact smWf_put _ _ _ _
    | exact smWf_put (fun _ => _) _ _ _
    | exact smWf_keep _ _ _
    | exact smWf_putBytes _ _ _
    | exact smWfFrom_filter _ _ _ _
    | exact fun _ => smWf_nil _

theorem State.makeHazy_keeps {r0 s : State} (hk : Keeps r0 s) (t e off len : Nat) : Keeps r0 (State.makeHazy s t e off len) := by
  rw [State.makeHazy]
  repeat' first
    | (conv => enter [2, 41]); with_reducible refine Keeps.same ?_
    | (conv => enter [2, 41]); with_reducible refine Keeps.upd ?_ ?_ ?_ ?_ ?_ ?_ ?_ ?_ ?_ ?_ ?_ ?_
    | dsimp only
    | with_reducible assumption
    | with_reducible exact Keeps.refl _
    | with_reducible refine Keeps.ite ?_ ?_
    | with_reducible refine Keeps.foldl ?_ (fun _ _ _ => ?_)
    | with_reducible apply State.draw_keeps2
    | with_reducible refine State.draw_keepsE ?_ (by with_reducible assumption)
    | split
    | exact id
    | exact smWf_put _ _ _ _
    | exact smWf_put (fun _ => _) _ _ _
    | exact smWf_keep _ _ _
    | exact smWf_putBytes _ _ _
    | exact smWfFrom_filter _ _ _ _
    | exact fun _ => smWf_nil _

theorem State.stPut_keeps {r0 s : State} (hk : Keeps r0 s) (t e off : Nat) (bs : List Byte) : Keeps r0 (State.stPut s t e off bs) := by
  induction bs generalizing s off with
  | nil => exact hk
  | cons b bs ih => exact ih (State.stPut1_keeps hk t e off b) _

theorem State.setStErr_keeps {r0 s : State} (hk : Keeps r0 s) (t e blk v : Nat) : Keeps r0 (State.setStErr s t e blk v) := by
  rw [State.setStErr]
  repeat' first
    | (conv => enter [2, 41]); with_reducible refine Keeps.same ?_
    | (conv => enter [2, 41]); with_reducible refine Keeps.upd ?_ ?_ ?_ ?_ ?_ ?_ ?_ ?_ ?_ ?_ ?_ ?_
    | dsimp only
    | with_reducible assumption
    | with_reducible exact Keeps.refl _
    | with_reducible refine Keeps.ite ?_ ?_
    | with_reducible refine Keeps.foldl ?_ (fun _ _ _ => ?_)
    | split
    | exact id
    | exact smWf_put _ _ _ _
    | exact smWf_put (fun _ => _) _ _ _
    | exact smWf_keep _ _ _
    | exact smWf_putBytes _ _ _
    | exact smWfFrom_filter _ _ _ _
    | exact fun _ => smWf_nil _

theorem State.stLose_keeps {r0 s : State} (hk : Keeps r0 s) (t e : Nat) : Keeps r0 (State.stLose s t e) := by
  rw [State.stLose]
  repeat' first
    | (conv => enter [2, 41]); with_reducible refine Keeps.same ?_
    | (conv => enter [2, 41]); with_reducible refine Keeps.upd ?_ ?_ ?_ ?_ ?_ ?_ ?_ ?_ ?_ ?_ ?_ ?_
    | dsimp only
    | with_reducible assumption
    | with_reducible exact Keeps.refl _
    | with_reducible refine Keeps.ite ?_ ?_
    | with_reducible refine Keeps.foldl ?_ (fun _ _ _ => ?_)
    | split
    | exact id
    | exact smWf_put _ _ _ _
    | exact smWf_put (fun _ => _) _ _ _
    | exact smWf_keep _ _ _
    | exact smWf_putBytes _ _ _
    | exact smWfFrom_filter _ _ _ _
    | exact fun _ => smWf_nil _

theorem State.startBeacon_keeps {r0 s : State} (hk : Keeps r0 s) (t e : Nat) : Keeps r0 (State.startBeacon s t e) := by
  rw [State.startBeacon]
  repeat' first
    | (conv => enter [2, 41]); with_reducible refine Keeps.same ?_
    | (conv => enter [2, 41]); with_reducible refine Keeps.upd ?_ ?_ ?_ ?_ ?_ ?_ ?_ ?_ ?_ ?_ ?_ ?_
    | dsimp only
    | with_reducible assumption
    | with_reducible exact Keeps.refl _
    | with_reducible refine Keeps.ite ?_ ?_
    | with_reducible refine Keeps.foldl ?_ (fun _ _ _ => ?_)
    | with_reducible apply State.makeHazy_keeps
    | split
    | exact id
    | exact smWf_put _ _ _ _
    | exact smWf_put (fun _ => _) _ _ _
    | exact smWf_keep _ _ _
    | exact smWf_putBytes _ _ _
    | exact smWfFrom_filter _ _ _ _
    | exact fun _ => smWf_nil _

end Sys2Proof.Machine
end

