-- ==== Sys2Proof/Laws/Keeps/Tasks.lean ====
section
/-! SUPPORT. Every operation of Machine/Tasks.lean that answers a state keeps the part, the queue and the canonical form. -/

namespace Sys2Proof.Machine

theorem State.setRun_keeps {r0 s : State} (hk : Keeps r0 s) (r : TaskRun) : Keeps r0 (State.setRun s r) := by
  rw [State.setRun]
  repeat' first
    | (conv => enter [2, 41]); with_reducible refine Keeps.same ?_
    | (conv => enter [2, 41]); with_reducible refine Keeps.upd ?_ ?_ ?_ ?_ ?_ ?_ ?_ ?_ ?_ ?_ ?_ ?_
    | dsimp only
    | with_reducible assumption
    | with_reducible exact Keeps.refl _
    | with_reducible refine Keeps.ite ?_ ?_
    | with_reducible refine Keeps.foldl ?_ (fun _ _ _ => ?_)
    | split
    | exact id
    | exact smWf_put _ _ _ _
    | exact smWf_put (fun _ => _) _ _ _
    | exact smWf_keep _ _ _
    | exact smWf_putBytes _ _ _
    | exact smWfFrom_filter _ _ _ _
    | exact fun _ => smWf_nil _

theorem State.setInst_keeps {r0 s : State} (hk : Keeps r0 s) (g j : Nat) (x : InstRun) : Keeps r0 (State.setInst s g j x) := by
  rw [State.setInst]
  repeat' first
    | (conv => enter [2, 41]); with_reducible refine Keeps.same ?_
    | (conv => enter [2, 41]); with_reducible refine Keeps.upd ?_ ?_ ?_ ?_ ?_ ?_ ?_ ?_ ?_ ?_ ?_ ?_
    | dsimp only
    | with_reducible assumption
    | with_reducible exact Keeps.refl _
    | with_reducible refine Keeps.ite ?_ ?_
    | with_reducible refine Keeps.foldl ?_ (fun _ _ _ => ?_)
    | split
    | exact id
    | exact smWf_put _ _ _ _
    | exact smWf_put (fun _ => _) _ _ _
    | exact smWf_keep _ _ _
    | exact smWf_putBytes _ _ _
    | exact smWfFrom_filter _ _ _ _
    | exact fun _ => smWf_nil _

theorem State.showDue_keeps {r0 s : State} (hk : Keeps r0 s)  : Keeps r0 (State.showDue s) := by
  rw [State.showDue]
  repeat' first
    | (conv => enter [2, 41]); with_reducible refine Keeps.same ?_
    | (conv => enter [2, 41]); with_reducible refine Keeps.upd ?_ ?_ ?_ ?_ ?_ ?_ ?_ ?_ ?_ ?_ ?_ ?_
    | dsimp only
    | with_reducible assumption
    | with_reducible exact Keeps.refl _
    | with_reducible refine Keeps.ite ?_ ?_
    | with_reducible refine Keeps.foldl ?_ (fun _ _ _ => ?_)
    | with_reducible apply State.fset_keeps
    | split
    | exact id
    | exact smWf_put _ _ _ _
    | exact smWf_put (fun _ => _) _ _ _
    | exact smWf_keep _ _ _
    | exact smWf_putBytes _ _ _
    | exact smWfFrom_filter _ _ _ _
    | exact fun _ => smWf_nil _

theorem State.raiseTask_keeps {r0 s : State} (hk : Keeps r0 s) (code : Nat) (r : TaskRun) : Keeps r0 (State.raiseTask s code r) := by
  rw [State.raiseTask]
  repeat' first
    | (conv => enter [2, 41]); with_reducible refine Keeps.same ?_
    | (conv => enter [2, 41]); with_reducible refine Keeps.upd ?_ ?_ ?_ ?_ ?_ ?_ ?_ ?_ ?_ ?_ ?_ ?_
    | dsimp only
    | with_reducible assumption
    | with_reducible exact Keeps.refl _
    | with_reducible refine Keeps.ite ?_ ?_
    | with_reducible refine Keeps.foldl ?_ (fun _ _ _ => ?_)
    | with_reducible apply State.raise_keeps
    | split
    | exact id
    | exact smWf_put _ _ _ _
    | exact smWf_put (fun _ => _) _ _ _
    | exact smWf_keep _ _ _
    | exact smWf_putBytes _ _ _
    | exact smWfFrom_filter _ _ _ _
    | exact fun _ => smWf_nil _

theorem State.raiseOncePerTask_keeps {r0 s : State} (hk : Keeps r0 s) (code k : Nat) : Keeps r0 (State.raiseOncePerTask s code k) := by
  rw [State.raiseOncePerTask]
  repeat' first
    | (conv => enter [2, 41]); with_reducible refine Keeps.same ?_
    | (conv => enter [2, 41]); with_reducible refine Keeps.upd ?_ ?_ ?_ ?_ ?_ ?_ ?_ ?_ ?_ ?_ ?_ ?_
    | dsimp only
    | with_reducible assumption
    | with_reducible exact Keeps.refl _
    | with_reducible refine Keeps.ite ?_ ?_
    | with_reducible refine Keeps.foldl ?_ (fun _ _ _ => ?_)
    | with_reducible apply State.setRun_keeps
    | with_reducible apply State.raiseTask_keeps
    | split
    | exact id
    | exact smWf_put _ _ _ _
    | exact smWf_put (fun _ => _) _ _ _
    | exact smWf_keep _ _ _
    | exact smWf_putBytes _ _ _
    | exact smWfFrom_filter _ _ _ _
    | exact fun _ => smWf_nil _

theorem State.raiseOncePerInst_keeps {r0 s : State} (hk : Keeps r0 s) (code : Nat) (r : TaskRun) : Keeps r0 (State.raiseOncePerInst s code r) := by
  rw [State.raiseOncePerInst]
  repeat' first
    | (conv => enter [2, 41]); with_reducible refine Keeps.same ?_
    | (conv => enter [2, 41]); with_reducible refine Keeps.upd ?_ ?_ ?_ ?_ ?_ ?_ ?_ ?_ ?_ ?_ ?_ ?_
    | dsimp only
    | with_reducible assumption
    | with_reducible exact Keeps.refl _
    | with_reducible refine Keeps.ite ?_ ?_
    | with_reducible refine Keeps.foldl ?_ (fun _ _ _ => ?_)
    | with_reducible apply State.setInst_keeps
    | with_reducible apply State.raiseTask_keeps
    | split
    | exact id
    | exact smWf_put _ _ _ _
    | exact smWf_put (fun _ => _) _ _ _
    | exact smWf_keep _ _ _
    | exact smWf_putBytes _ _ _
    | exact smWfFrom_filter _ _ _ _
    | exact fun _ => smWf_nil _

theorem State.withhold_keeps {r0 s : State} (hk : Keeps r0 s) (k : Nat) : Keeps r0 (State.withhold s k) := by
  rw [State.withhold]
  repeat' first
    | (conv => enter [2, 41]); with_reducible refine Keeps.same ?_
    | (conv => enter [2, 41]); with_reducible refine Keeps.upd ?_ ?_ ?_ ?_ ?_ ?_ ?_ ?_ ?_ ?_ ?_ ?_
    | dsimp only
    | with_reducible assumption
    | with_reducible exact Keeps.refl _
    | with_reducible refine Keeps.ite ?_ ?_
    | with_reducible refine Keeps.foldl ?_ (fun _ _ _ => ?_)
    | with_reducible apply State.setRun_keeps
    | split
    | exact id
    | exact smWf_put _ _ _ _
    | exact smWf_put (fun _ => _) _ _ _
    | exact smWf_keep _ _ _
    | exact smWf_putBytes _ _ _
    | exact smWfFrom_filter _ _ _ _
    | exact fun _ => smWf_nil _

theorem State.withholdInst_keeps {r0 s : State} (hk : Keeps r0 s) (g j : Nat) : Keeps r0 (State.withholdInst s g j) := by
  rw [State.withholdInst]
  repeat' first
    | (conv => enter [2, 41]); with_reducible refine Keeps.same ?_
    | (conv => enter [2, 41]); with_reducible refine Keeps.upd ?_ ?_ ?_ ?_ ?_ ?_ ?_ ?_ ?_ ?_ ?_ ?_
    | dsimp only
    | with_reducible assumption
    | with_reducible exact Keeps.refl _
    | with_reducible refine Keeps.ite ?_ ?_
    | with_reducible refine Keeps.foldl ?_ (fun _ _ _ => ?_)
    | with_reducible refine Keeps.foldl1 ?_ (fun _ _ _ => ?_)
    | with_reducible apply State.setInst_keeps
    | with_reducible apply State.withhold_keeps
    | split
    | exact id
    | exact smWf_put _ _ _ _
    | exact smWf_put (fun _ => _) _ _ _
    | exact smWf_keep _ _ _
    | exact smWf_putBytes _ _ _
    | exact smWfFrom_filter _ _ _ _
    | exact fun _ => smWf_nil _

theorem State.setEng_keeps {r0 s : State} (hk : Keeps r0 s) (t e v : Nat) : Keeps r0 (State.setEng s t e v) := by
  rw [State.setEng]
  repeat' first
    | (conv => enter [2, 41]); with_reducible refine Keeps.same ?_
    | (conv => enter [2, 41]); with_reducible refine Keeps.upd ?_ ?_ ?_ ?_ ?_ ?_ ?_ ?_ ?_ ?_ ?_ ?_
    | dsimp only
    | with_reducible assumption
    | with_reducible exact Keeps.refl _
    | with_reducible refine Keeps.ite ?_ ?_
    | with_reducible refine Keeps.foldl ?_ (fun _ _ _ => ?_)
    | with_reducible apply State.fset_keeps
    | split
    | exact id
    | exact smWf_put _ _ _ _
    | exact smWf_put (fun _ => _) _ _ _
    | exact smWf_keep _ _ _
    | exact smWf_putBytes _ _ _
    | exact smWfFrom_filter _ _ _ _
    | exact fun _ => smWf_nil _

theorem State.settleRet_keeps {r0 s : State} (hk : Keeps r0 s) (t d : Nat) : Keeps r0 (State.settleRet s t d) := by
  rw [State.settleRet]
  repeat' first
    | (conv => enter [2, 41]); with_reducible refine Keeps.same ?_
    | (conv => enter [2, 41]); with_reducible refine Keeps.upd ?_ ?_ ?_ ?_ ?_ ?_ ?_ ?_ ?_ ?_ ?_ ?_
    | dsimp only
    | with_reducible assumption
    | with_reducible exact Keeps.refl _
    | with_reducible refine Keeps.ite ?_ ?_
    | with_reducible refine Keeps.foldl ?_ (fun _ _ _ => ?_)
    | with_reducible apply State.count_keeps
    | split
    | exact id
    | exact smWf_put _ _ _ _
    | exact smWf_put (fun _ => _) _ _ _
    | exact smWf_keep _ _ _
    | exact smWf_putBytes _ _ _
    | exact smWfFrom_filter _ _ _ _
    | exact fun _ => smWf_nil _

theorem State.setDom_keeps {r0 s : State} (hk : Keeps r0 s) (t d v : Nat) : Keeps r0 (State.setDom s t d v) := by
  rw [State.setDom]
  repeat' first
    | (conv => enter [2, 41]); with_reducible refine Keeps.same ?_
    | (conv => enter [2, 41]); with_reducible refine Keeps.upd ?_ ?_ ?_ ?_ ?_ ?_ ?_ ?_ ?_ ?_ ?_ ?_
    | dsimp only
    | with_reducible assumption
    | with_reducible exact Keeps.refl _
    | with_reducible refine Keeps.ite ?_ ?_
    | with_reducible refine Keeps.foldl ?_ (fun _ _ _ => ?_)
    | with_reducible apply State.settleRet_keeps
    | with_reducible apply State.stLose_keeps
    | with_reducible apply State.fset_keeps
    | with_reducible apply State.setEng_keeps
    | split
    | exact id
    | exact smWf_put _ _ _ _
    | exact smWf_put (fun _ => _) _ _ _
    | exact smWf_keep _ _ _
    | exact smWf_putBytes _ _ _
    | exact smWfFrom_filter _ _ _ _
    | exact fun _ => smWf_nil _

theorem State.startWake_keeps {r0 s : State} (hk : Keeps r0 s) (t d : Nat) : Keeps r0 (State.startWake s t d) := by
  rw [State.startWake]
  repeat' first
    | (conv => enter [2, 41]); with_reducible refine Keeps.same ?_
    | (conv => enter [2, 41]); with_reducible refine Keeps.upd ?_ ?_ ?_ ?_ ?_ ?_ ?_ ?_ ?_ ?_ ?_ ?_
    | dsimp only
    | with_reducible assumption
    | with_reducible exact Keeps.refl _
    | with_reducible refine Keeps.ite ?_ ?_
    | with_reducible refine Keeps.foldl ?_ (fun _ _ _ => ?_)
    | with_reducible apply State.settleRet_keeps
    | with_reducible apply State.fset_keeps
    | with_reducible apply State.count_keeps
    | split
    | exact id
    | exact smWf_put _ _ _ _
    | exact smWf_put (fun _ => _) _ _ _
    | exact smWf_keep _ _ _
    | exact smWf_putBytes _ _ _
    | exact smWfFrom_filter _ _ _ _
    | exact fun _ => smWf_nil _

theorem State.showSpares_keeps {r0 s : State} (hk : Keeps r0 s) (t : Nat) : Keeps r0 (State.showSpares s t) := by
  rw [State.showSpares]
  repeat' first
    | (conv => enter [2, 41]); with_reducible refine Keeps.same ?_
    | (conv => enter [2, 41]); with_reducible refine Keeps.upd ?_ ?_ ?_ ?_ ?_ ?_ ?_ ?_ ?_ ?_ ?_ ?_
    | dsimp only
    | with_reducible assumption
    | with_reducible exact Keeps.refl _
    | with_reducible refine Keeps.ite ?_ ?_
    | with_reducible refine Keeps.foldl ?_ (fun _ _ _ => ?_)
    | with_reducible apply State.fset_keeps
    | split
    | exact id
    | exact smWf_put _ _ _ _
    | exact smWf_put (fun _ => _) _ _ _
    | exact smWf_keep _ _ _
    | exact smWf_putBytes _ _ _
    | exact smWfFrom_filter _ _ _ _
    | exact fun _ => smWf_nil _

theorem State.stageMap_keeps {r0 s : State} (hk : Keeps r0 s) (t i e : Nat) : Keeps r0 (State.stageMap s t i e) := by
  rw [State.stageMap]
  repeat' first
    | (conv => enter [2, 41]); with_reducible refine Keeps.same ?_
    | (conv => enter [2, 41]); with_reducible refine Keeps.upd ?_ ?_ ?_ ?_ ?_ ?_ ?_ ?_ ?_ ?_ ?_ ?_
    | dsimp only
    | with_reducible assumption
    | with_reducible exact Keeps.refl _
    | with_reducible refine Keeps.ite ?_ ?_
    | with_reducible refine Keeps.foldl ?_ (fun _ _ _ => ?_)
    | with_reducible apply State.stageField_keeps
    | with_reducible apply State.startWake_keeps
    | split
    | exact id
    | exact smWf_put _ _ _ _
    | exact smWf_put (fun _ => _) _ _ _
    | exact smWf_keep _ _ _
    | exact smWf_putBytes _ _ _
    | exact smWfFrom_filter _ _ _ _
    | exact fun _ => smWf_nil _

theorem State.captureChk_keeps {r0 s : State} (hk : Keeps r0 s) (t code e g j i : Nat) : Keeps r0 (State.captureChk s t code e g j i) := by
  rw [State.captureChk]
  repeat' first
    | (conv => enter [2, 41]); with_reducible refine Keeps.same ?_
    | (conv => enter [2, 41]); with_reducible refine Keeps.upd ?_ ?_ ?_ ?_ ?_ ?_ ?_ ?_ ?_ ?_ ?_ ?_
    | dsimp only
    | with_reducible assumption
    | with_reducible exact Keeps.refl _
    | with_reducible refine Keeps.ite ?_ ?_
    | with_reducible refine Keeps.foldl ?_ (fun _ _ _ => ?_)
    | with_reducible apply State.capture_keeps
    | split
    | exact id
    | exact smWf_put _ _ _ _
    | exact smWf_put (fun _ => _) _ _ _
    | exact smWf_keep _ _ _
    | exact smWf_putBytes _ _ _
    | exact smWfFrom_filter _ _ _ _
    | exact fun _ => smWf_nil _

theorem State.raiseChk_keeps {r0 s : State} (hk : Keeps r0 s) (code e : Nat) (r : TaskRun) : Keeps r0 (State.raiseChk s code e r) := by
  rw [State.raiseChk]
  repeat' first
    | (conv => enter [2, 41]); with_reducible refine Keeps.same ?_
    | (conv => enter [2, 41]); with_reducible refine Keeps.upd ?_ ?_ ?_ ?_ ?_ ?_ ?_ ?_ ?_ ?_ ?_ ?_
    | dsimp only
    | with_reducible assumption
    | with_reducible exact Keeps.refl _
    | with_reducible refine Keeps.ite ?_ ?_
    | with_reducible refine Keeps.foldl ?_ (fun _ _ _ => ?_)
    | with_reducible apply State.raiseTask_keeps
    | with_reducible apply State.captureChk_keeps
    | split
    | exact id
    | exact smWf_put _ _ _ _
    | exact smWf_put (fun _ => _) _ _ _
    | exact smWf_keep _ _ _
    | exact smWf_putBytes _ _ _
    | exact smWfFrom_filter _ _ _ _
    | exact fun _ => smWf_nil _

theorem State.remap_keeps {r0 s : State} (hk : Keeps r0 s) (t e : Nat) : Keeps r0 (State.remap s t e) := by
  rw [State.remap]
  repeat' first
    | (conv => enter [2, 41]); with_reducible refine Keeps.same ?_
    | (conv => enter [2, 41]); with_reducible refine Keeps.upd ?_ ?_ ?_ ?_ ?_ ?_ ?_ ?_ ?_ ?_ ?_ ?_
    | dsimp only
    | with_reducible assumption
    | with_reducible exact Keeps.refl _
    | with_reducible refine Keeps.ite ?_ ?_
    | with_reducible refine Keeps.foldl ?_ (fun _ _ _ => ?_)
    | with_reducible apply State.stageMap_keeps
    | split
    | exact id
    | exact smWf_put _ _ _ _
    | exact smWf_put (fun _ => _) _ _ _
    | exact smWf_keep _ _ _
    | exact smWf_putBytes _ _ _
    | exact smWfFrom_filter _ _ _ _
    | exact fun _ => smWf_nil _

theorem State.retire_keeps {r0 s : State} (hk : Keeps r0 s) (t e : Nat) : Keeps r0 (State.retire s t e) := by
  rw [State.retire]
  repeat' first
    | (conv => enter [2, 41]); with_reducible refine Keeps.same ?_
    | (conv => enter [2, 41]); with_reducible refine Keeps.upd ?_ ?_ ?_ ?_ ?_ ?_ ?_ ?_ ?_ ?_ ?_ ?_
    | dsimp only
    | with_reducible assumption
    | with_reducible exact Keeps.refl _
    | with_reducible refine Keeps.ite ?_ ?_
    | with_reducible refine Keeps.foldl ?_ (fun _ _ _ => ?_)
    | with_reducible apply State.setDom_keeps
    | with_reducible apply State.setEng_keeps
    | with_reducible apply State.fset_keeps
    | with_reducible apply State.raise_keeps
    | with_reducible apply State.count_keeps
    | with_reducible apply State.showSpares_keeps
    | split
    | exact id
    | exact smWf_put _ _ _ _
    | exact smWf_put (fun _ => _) _ _ _
    | exact smWf_keep _ _ _
    | exact smWf_putBytes _ _ _
    | exact smWfFrom_filter _ _ _ _
    | exact fun _ => smWf_nil _

theorem State.quarantine_keeps {r0 s : State} (hk : Keeps r0 s) (t e : Nat) : Keeps r0 (State.quarantine s t e) := by
  rw [State.quarantine]
  repeat' first
    | (conv => enter [2, 41]); with_reducible refine Keeps.same ?_
    | (conv => enter [2, 41]); with_reducible refine Keeps.upd ?_ ?_ ?_ ?_ ?_ ?_ ?_ ?_ ?_ ?_ ?_ ?_
    | dsimp only
    | with_reducible assumption
    | with_reducible exact Keeps.refl _
    | with_reducible refine Keeps.ite ?_ ?_
    | with_reducible refine Keeps.foldl ?_ (fun _ _ _ => ?_)
    | with_reducible refine Keeps.foldl1 ?_ (fun _ _ _ => ?_)
    | with_reducible apply State.startWake_keeps
    | with_reducible apply State.setEng_keeps
    | with_reducible apply State.fset_keeps
    | with_reducible apply State.count_keeps
    | with_reducible apply State.withholdInst_keeps
    | with_reducible apply State.remap_keeps
    | with_reducible apply State.showSpares_keeps
    | split
    | exact id
    | exact smWf_put _ _ _ _
    | exact smWf_put (fun _ => _) _ _ _
    | exact smWf_keep _ _ _
    | exact smWf_putBytes _ _ _
    | exact smWfFrom_filter _ _ _ _
    | exact fun _ => smWf_nil _

theorem State.advise_keeps {r0 s : State} (hk : Keeps r0 s) (cause : Nat) : Keeps r0 (State.advise s cause) := by
  rw [State.advise]
  repeat' first
    | (conv => enter [2, 41]); with_reducible refine Keeps.same ?_
    | (conv => enter [2, 41]); with_reducible refine Keeps.upd ?_ ?_ ?_ ?_ ?_ ?_ ?_ ?_ ?_ ?_ ?_ ?_
    | dsimp only
    | with_reducible assumption
    | with_reducible exact Keeps.refl _
    | with_reducible refine Keeps.ite ?_ ?_
    | with_reducible refine Keeps.foldl ?_ (fun _ _ _ => ?_)
    | with_reducible apply State.count_keeps
    | with_reducible apply State.raise_keeps
    | with_reducible apply State.fset_keeps
    | split
    | exact id
    | exact smWf_put _ _ _ _
    | exact smWf_put (fun _ => _) _ _ _
    | exact smWf_keep _ _ _
    | exact smWf_putBytes _ _ _
    | exact smWfFrom_filter _ _ _ _
    | exact fun _ => smWf_nil _

theorem State.strike_keeps {r0 s : State} (hk : Keeps r0 s) (t e : Nat) : Keeps r0 (State.strike s t e) := by
  rw [State.strike]
  repeat' first
    | (conv => enter [2, 41]); with_reducible refine Keeps.same ?_
    | (conv => enter [2, 41]); with_reducible refine Keeps.upd ?_ ?_ ?_ ?_ ?_ ?_ ?_ ?_ ?_ ?_ ?_ ?_
    | dsimp only
    | with_reducible assumption
    | with_reducible exact Keeps.refl _
    | with_reducible refine Keeps.ite ?_ ?_
    | with_reducible refine Keeps.foldl ?_ (fun _ _ _ => ?_)
    | with_reducible apply State.count_keeps
    | with_reducible apply State.wr_keeps
    | with_reducible apply State.advise_keeps
    | with_reducible apply State.quarantine_keeps
    | with_reducible apply State.retire_keeps
    | split
    | exact id
    | exact smWf_put _ _ _ _
    | exact smWf_put (fun _ => _) _ _ _
    | exact smWf_keep _ _ _
    | exact smWf_putBytes _ _ _
    | exact smWfFrom_filter _ _ _ _
    | exact fun _ => smWf_nil _

theorem State.strikeTask_keeps {r0 s : State} (hk : Keeps r0 s) (k : Nat) : Keeps r0 (State.strikeTask s k) := by
  rw [State.strikeTask]
  repeat' first
    | (conv => enter [2, 41]); with_reducible refine Keeps.same ?_
    | (conv => enter [2, 41]); with_reducible refine Keeps.upd ?_ ?_ ?_ ?_ ?_ ?_ ?_ ?_ ?_ ?_ ?_ ?_
    | dsimp only
    | with_reducible assumption
    | with_reducible exact Keeps.refl _
    | with_reducible refine Keeps.ite ?_ ?_
    | with_reducible refine Keeps.foldl ?_ (fun _ _ _ => ?_)
    | with_reducible apply State.setRun_keeps
    | with_reducible apply State.strike_keeps
    | split
    | exact id
    | exact smWf_put _ _ _ _
    | exact smWf_put (fun _ => _) _ _ _
    | exact smWf_keep _ _ _
    | exact smWf_putBytes _ _ _
    | exact smWfFrom_filter _ _ _ _
    | exact fun _ => smWf_nil _

theorem State.showPreempt_keeps {r0 s : State} (hk : Keeps r0 s)  : Keeps r0 (State.showPreempt s) := by
  rw [State.showPreempt]
  repeat' first
    | (conv => enter [2, 41]); with_reducible refine Keeps.same ?_
    | (conv => enter [2, 41]); with_reducible refine Keeps.upd ?_ ?_ ?_ ?_ ?_ ?_ ?_ ?_ ?_ ?_ ?_ ?_
    | dsimp only
    | with_reducible assumption
    | with_reducible exact Keeps.refl _
    | with_reducible refine Keeps.ite ?_ ?_
    | with_reducible refine Keeps.foldl ?_ (fun _ _ _ => ?_)
    | with_reducible apply State.fset_keeps
    | split
    | exact id
    | exact smWf_put _ _ _ _
    | exact smWf_put (fun _ => _) _ _ _
    | exact smWf_keep _ _ _
    | exact smWf_putBytes _ _ _
    | exact smWfFrom_filter _ _ _ _
    | exact fun _ => smWf_nil _

theorem State.takePreempt_keeps {r0 s : State} (hk : Keeps r0 s) (g : Nat) : Keeps r0 (State.takePreempt s g) := by
  rw [State.takePreempt]
  repeat' first
    | (conv => enter [2, 41]); with_reducible refine Keeps.same ?_
    | (conv => enter [2, 41]); with_reducible refine Keeps.upd ?_ ?_ ?_ ?_ ?_ ?_ ?_ ?_ ?_ ?_ ?_ ?_
    | dsimp only
    | with_reducible assumption
    | with_reducible exact Keeps.refl _
    | with_reducible refine Keeps.ite ?_ ?_
    | with_reducible refine Keeps.foldl ?_ (fun _ _ _ => ?_)
    | with_reducible apply State.raise_keeps
    | with_reducible apply State.showPreempt_keeps
    | split
    | exact id
    | exact smWf_put _ _ _ _
    | exact smWf_put (fun _ => _) _ _ _
    | exact smWf_keep _ _ _
    | exact smWf_putBytes _ _ _
    | exact smWfFrom_filter _ _ _ _
    | exact fun _ => smWf_nil _

theorem State.stepBoundary_keeps {r0 s : State} (hk : Keeps r0 s) (g j : Nat) : Keeps r0 (State.stepBoundary s g j) := by
  rw [State.stepBoundary]
  repeat' first
    | (conv => enter [2, 41]); with_reducible refine Keeps.same ?_
    | (conv => enter [2, 41]); with_reducible refine Keeps.upd ?_ ?_ ?_ ?_ ?_ ?_ ?_ ?_ ?_ ?_ ?_ ?_
    | dsimp only
    | with_reducible assumption
    | with_reducible exact Keeps.refl _
    | with_reducible refine Keeps.ite ?_ ?_
    | with_reducible refine Keeps.foldl ?_ (fun _ _ _ => ?_)
    | with_reducible apply State.takePreempt_keeps
    | split
    | exact id
    | exact smWf_put _ _ _ _
    | exact smWf_put (fun _ => _) _ _ _
    | exact smWf_keep _ _ _
    | exact smWf_putBytes _ _ _
    | exact smWfFrom_filter _ _ _ _
    | exact fun _ => smWf_nil _

theorem State.finish_keeps {r0 s : State} (hk : Keeps r0 s) (r : TaskRun) (st : RunSt) (withheld : Bool) : Keeps r0 (State.finish s r st withheld) := by
  rw [State.finish]
  repeat' first
    | (conv => enter [2, 41]); with_reducible refine Keeps.same ?_
    | (conv => enter [2, 41]); with_reducible refine Keeps.upd ?_ ?_ ?_ ?_ ?_ ?_ ?_ ?_ ?_ ?_ ?_ ?_
    | dsimp only
    | with_reducible assumption
    | with_reducible exact Keeps.refl _
    | with_reducible refine Keeps.ite ?_ ?_
    | with_reducible refine Keeps.foldl ?_ (fun _ _ _ => ?_)
    | with_reducible apply State.setRun_keeps
    | with_reducible apply State.fset_keeps
    | with_reducible apply State.setEng_keeps
    | with_reducible apply State.stepBoundary_keeps
    | split
    | exact id
    | exact smWf_put _ _ _ _
    | exact smWf_put (fun _ => _) _ _ _
    | exact smWf_keep _ _ _
    | exact smWf_putBytes _ _ _
    | exact smWfFrom_filter _ _ _ _
    | exact fun _ => smWf_nil _

theorem State.countAborted_keeps {r0 s : State} (hk : Keeps r0 s) (r : TaskRun) : Keeps r0 (State.countAborted s r) := by
  rw [State.countAborted]
  repeat' first
    | (conv => enter [2, 41]); with_reducible refine Keeps.same ?_
    | (conv => enter [2, 41]); with_reducible refine Keeps.upd ?_ ?_ ?_ ?_ ?_ ?_ ?_ ?_ ?_ ?_ ?_ ?_
    | dsimp only
    | with_reducible assumption
    | with_reducible exact Keeps.refl _
    | with_reducible refine Keeps.ite ?_ ?_
    | with_reducible refine Keeps.foldl ?_ (fun _ _ _ => ?_)
    | with_reducible apply State.draw_keeps2
    | with_reducible refine State.draw_keepsE ?_ (by with_reducible assumption)
    | with_reducible apply State.count_keeps
    | split
    | exact id
    | exact smWf_put _ _ _ _
    | exact smWf_put (fun _ => _) _ _ _
    | exact smWf_keep _ _ _
    | exact smWf_putBytes _ _ _
    | exact smWfFrom_filter _ _ _ _
    | exact fun _ => smWf_nil _

theorem State.abort_keeps {r0 s : State} (hk : Keeps r0 s) (r : TaskRun) : Keeps r0 (State.abort s r) := by
  rw [State.abort]
  repeat' first
    | (conv => enter [2, 41]); with_reducible refine Keeps.same ?_
    | (conv => enter [2, 41]); with_reducible refine Keeps.upd ?_ ?_ ?_ ?_ ?_ ?_ ?_ ?_ ?_ ?_ ?_ ?_
    | dsimp only
    | with_reducible assumption
    | with_reducible exact Keeps.refl _
    | with_reducible refine Keeps.ite ?_ ?_
    | with_reducible refine Keeps.foldl ?_ (fun _ _ _ => ?_)
    | with_reducible apply State.countAborted_keeps
    | with_reducible apply State.finish_keeps
    | split
    | exact id
    | exact smWf_put _ _ _ _
    | exact smWf_put (fun _ => _) _ _ _
    | exact smWf_keep _ _ _
    | exact smWf_putBytes _ _ _
    | exact smWfFrom_filter _ _ _ _
    | exact fun _ => smWf_nil _

theorem State.advanceRole_keeps {r0 s : State} (hk : Keeps r0 s) (f : Fld) : Keeps r0 (State.advanceRole s f) := by
  rw [State.advanceRole]
  repeat' first
    | (conv => enter [2, 41]); with_reducible refine Keeps.same ?_
    | (conv => enter [2, 41]); with_reducible refine Keeps.upd ?_ ?_ ?_ ?_ ?_ ?_ ?_ ?_ ?_ ?_ ?_ ?_
    | dsimp only
    | with_reducible assumption
    | with_reducible exact Keeps.refl _
    | with_reducible refine Keeps.ite ?_ ?_
    | with_reducible refine Keeps.foldl ?_ (fun _ _ _ => ?_)
    | with_reducible apply State.fset_keeps
    | split
    | exact id
    | exact smWf_put _ _ _ _
    | exact smWf_put (fun _ => _) _ _ _
    | exact smWf_keep _ _ _
    | exact smWf_putBytes _ _ _
    | exact smWfFrom_filter _ _ _ _
    | exact fun _ => smWf_nil _

theorem State.losePart_keeps {r0 s : State} (hk : Keeps r0 s) (p : Nat) : Keeps r0 (State.losePart s p) := by
  rw [State.losePart]
  repeat' first
    | (conv => enter [2, 41]); with_reducible refine Keeps.same ?_
    | (conv => enter [2, 41]); with_reducible refine Keeps.upd ?_ ?_ ?_ ?_ ?_ ?_ ?_ ?_ ?_ ?_ ?_ ?_
    | dsimp only
    | with_reducible assumption
    | with_reducible exact Keeps.refl _
    | with_reducible refine Keeps.ite ?_ ?_
    | with_reducible refine Keeps.foldl ?_ (fun _ _ _ => ?_)
    | with_reducible refine Keeps.foldl1 ?_ (fun _ _ _ => ?_)
    | with_reducible apply State.fset_keeps
    | with_reducible apply State.abort_keeps
    | with_reducible apply State.withholdInst_keeps
    | with_reducible apply State.advanceRole_keeps
    | split
    | exact id
    | exact smWf_put _ _ _ _
    | exact smWf_put (fun _ => _) _ _ _
    | exact smWf_keep _ _ _
    | exact smWf_putBytes _ _ _
    | exact smWfFrom_filter _ _ _ _
    | exact fun _ => smWf_nil _

theorem State.losePartsOn_keeps {r0 s : State} (hk : Keeps r0 s) (t : Nat) : Keeps r0 (State.losePartsOn s t) := by
  rw [State.losePartsOn]
  repeat' first
    | (conv => enter [2, 41]); with_reducible refine Keeps.same ?_
    | (conv => enter [2, 41]); with_reducible refine Keeps.upd ?_ ?_ ?_ ?_ ?_ ?_ ?_ ?_ ?_ ?_ ?_ ?_
    | dsimp only
    | with_reducible assumption
    | with_reducible exact Keeps.refl _
    | with_reducible refine Keeps.ite ?_ ?_
    | with_reducible refine Keeps.foldl ?_ (fun _ _ _ => ?_)
    | with_reducible refine Keeps.foldl1 ?_ (fun _ _ _ => ?_)
    | with_reducible apply State.losePart_keeps
    | split
    | exact id
    | exact smWf_put _ _ _ _
    | exact smWf_put (fun _ => _) _ _ _
    | exact smWf_keep _ _ _
    | exact smWf_putBytes _ _ _
    | exact smWfFrom_filter _ _ _ _
    | exact fun _ => smWf_nil _

theorem State.strikeEvent_keeps {r0 s : State} (hk : Keeps r0 s) (code : Nat) (r : TaskRun) : Keeps r0 (State.strikeEvent s code r) := by
  rw [State.strikeEvent]
  repeat' first
    | (conv => enter [2, 41]); with_reducible refine Keeps.same ?_
    | (conv => enter [2, 41]); with_reducible refine Keeps.upd ?_ ?_ ?_ ?_ ?_ ?_ ?_ ?_ ?_ ?_ ?_ ?_
    | dsimp only
    | with_reducible assumption
    | with_reducible exact Keeps.refl _
    | with_reducible refine Keeps.ite ?_ ?_
    | with_reducible refine Keeps.foldl ?_ (fun _ _ _ => ?_)
    | with_reducible apply State.raiseTask_keeps
    | with_reducible apply State.withhold_keeps
    | with_reducible apply State.strikeTask_keeps
    | split
    | exact id
    | exact smWf_put _ _ _ _
    | exact smWf_put (fun _ => _) _ _ _
    | exact smWf_keep _ _ _
    | exact smWf_putBytes _ _ _
    | exact smWfFrom_filter _ _ _ _
    | exact fun _ => smWf_nil _

theorem State.withholdEvent_keeps {r0 s : State} (hk : Keeps r0 s) (code : Nat) (r : TaskRun) : Keeps r0 (State.withholdEvent s code r) := by
  rw [State.withholdEvent]
  repeat' first
    | (conv => enter [2, 41]); with_reducible refine Keeps.same ?_
    | (conv => enter [2, 41]); with_reducible refine Keeps.upd ?_ ?_ ?_ ?_ ?_ ?_ ?_ ?_ ?_ ?_ ?_ ?_
    | dsimp only
    | with_reducible assumption
    | with_reducible exact Keeps.refl _
    | with_reducible refine Keeps.ite ?_ ?_
    | with_reducible refine Keeps.foldl ?_ (fun _ _ _ => ?_)
    | with_reducible apply State.raiseTask_keeps
    | with_reducible apply State.withhold_keeps
    | split
    | exact id
    | exact smWf_put _ _ _ _
    | exact smWf_put (fun _ => _) _ _ _
    | exact smWf_keep _ _ _
    | exact smWf_putBytes _ _ _
    | exact smWfFrom_filter _ _ _ _
    | exact fun _ => smWf_nil _

end Sys2Proof.Machine
end

