-- ==== Sys2Proof/Laws/Keeps/Plan.lean ====
section
/-! SUPPORT. Every operation of Machine/Plan.lean that answers a state keeps the part, the queue and the canonical form. -/

namespace Sys2Proof.Machine

theorem State.capturePln_keeps {r0 s : State} (hk : Keeps r0 s) (f : VFail) (kind lostDie : Nat) : Keeps r0 (State.capturePln s f kind lostDie) := by
  rw [State.capturePln]
  repeat' first
    | (conv => enter [2, 41]); with_reducible refine Keeps.same ?_
    | (conv => enter [2, 41]); with_reducible refine Keeps.upd ?_ ?_ ?_ ?_ ?_ ?_ ?_ ?_ ?_ ?_ ?_ ?_
    | dsimp only
    | with_reducible assumption
    | with_reducible exact Keeps.refl _
    | with_reducible refine Keeps.ite ?_ ?_
    | with_reducible refine Keeps.foldl ?_ (fun _ _ _ => ?_)
    | with_reducible apply State.capture_keeps
    | split
    | exact id
    | exact smWf_put _ _ _ _
    | exact smWf_put (fun _ => _) _ _ _
    | exact smWf_keep _ _ _
    | exact smWf_putBytes _ _ _
    | exact smWfFrom_filter _ _ _ _
    | exact fun _ => smWf_nil _

end Sys2Proof.Machine
end

