-- ==== Sys2Proof/Laws/Keeps/Admission.lean ====
section
/-! SUPPORT. Every operation of Machine/Admission.lean that answers a state keeps the part, the queue and the canonical form. -/

namespace Sys2Proof.Machine

theorem State.setLast_keeps {r0 s : State} (hk : Keeps r0 s) (v : Verdict) : Keeps r0 (State.setLast s v) := by
  rw [State.setLast]
  repeat' first
    | (conv => enter [2, 41]); with_reducible refine Keeps.same ?_
    | (conv => enter [2, 41]); with_reducible refine Keeps.upd ?_ ?_ ?_ ?_ ?_ ?_ ?_ ?_ ?_ ?_ ?_ ?_
    | dsimp only
    | with_reducible assumption
    | with_reducible exact Keeps.refl _
    | with_reducible refine Keeps.ite ?_ ?_
    | with_reducible refine Keeps.foldl ?_ (fun _ _ _ => ?_)
    | with_reducible apply State.wr_keeps
    | split
    | exact id
    | exact smWf_put _ _ _ _
    | exact smWf_put (fun _ => _) _ _ _
    | exact smWf_keep _ _ _
    | exact smWf_putBytes _ _ _
    | exact smWfFrom_filter _ _ _ _
    | exact fun _ => smWf_nil _

theorem State.showAdm_keeps {r0 s : State} (hk : Keeps r0 s)  : Keeps r0 (State.showAdm s) := by
  rw [State.showAdm]
  repeat' first
    | (conv => enter [2, 41]); with_reducible refine Keeps.same ?_
    | (conv => enter [2, 41]); with_reducible refine Keeps.upd ?_ ?_ ?_ ?_ ?_ ?_ ?_ ?_ ?_ ?_ ?_ ?_
    | dsimp only
    | with_reducible assumption
    | with_reducible exact Keeps.refl _
    | with_reducible refine Keeps.ite ?_ ?_
    | with_reducible refine Keeps.foldl ?_ (fun _ _ _ => ?_)
    | with_reducible refine Keeps.foldl1 ?_ (fun _ _ _ => ?_)
    | with_reducible apply State.fset_keeps
    | with_reducible apply State.showDue_keeps
    | split
    | exact id
    | exact smWf_put _ _ _ _
    | exact smWf_put (fun _ => _) _ _ _
    | exact smWf_keep _ _ _
    | exact smWf_putBytes _ _ _
    | exact smWfFrom_filter _ _ _ _
    | exact fun _ => smWf_nil _

end Sys2Proof.Machine
end

