-- ==== Sys2Proof/Laws/Keeps/Mem.lean ====
section
/-! SUPPORT. Every operation of Machine/Mem.lean that answers a state keeps the part, the queue and the canonical form. -/

namespace Sys2Proof.Machine

theorem State.withhold?_keeps {r0 s : State} (hk : Keeps r0 s) (k : Option Nat) : Keeps r0 (State.withhold? s k) := by
  unfold State.withhold?
  repeat' first
    | (conv => enter [2, 41]); with_reducible refine Keeps.same ?_
    | (conv => enter [2, 41]); with_reducible refine Keeps.upd ?_ ?_ ?_ ?_ ?_ ?_ ?_ ?_ ?_ ?_ ?_ ?_
    | dsimp only
    | with_reducible assumption
    | with_reducible exact Keeps.refl _
    | with_reducible refine Keeps.ite ?_ ?_
    | with_reducible refine Keeps.foldl ?_ (fun _ _ _ => ?_)
    | with_reducible apply State.withhold_keeps
    | split
    | exact id
    | exact smWf_put _ _ _ _
    | exact smWf_put (fun _ => _) _ _ _
    | exact smWf_keep _ _ _
    | exact smWf_putBytes _ _ _
    | exact smWfFrom_filter _ _ _ _
    | exact fun _ => smWf_nil _

theorem State.decodeError_keeps {r0 s : State} (hk : Keeps r0 s) (src0 agent : Nat) (a : Addr) (kind : Nat) (run : Option Nat) : Keeps r0 (State.decodeError s src0 agent a kind run) := by
  rw [State.decodeError]
  repeat' first
    | (conv => enter [2, 41]); with_reducible refine Keeps.same ?_
    | (conv => enter [2, 41]); with_reducible refine Keeps.upd ?_ ?_ ?_ ?_ ?_ ?_ ?_ ?_ ?_ ?_ ?_ ?_
    | dsimp only
    | with_reducible assumption
    | with_reducible exact Keeps.refl _
    | with_reducible refine Keeps.ite ?_ ?_
    | with_reducible refine Keeps.foldl ?_ (fun _ _ _ => ?_)
    | with_reducible apply State.raise_keeps
    | with_reducible apply State.withhold?_keeps
    | with_reducible apply State.count_keeps
    | with_reducible apply State.wr_keeps
    | split
    | exact id
    | exact smWf_put _ _ _ _
    | exact smWf_put (fun _ => _) _ _ _
    | exact smWf_keep _ _ _
    | exact smWf_putBytes _ _ _
    | exact smWfFrom_filter _ _ _ _
    | exact fun _ => smWf_nil _

theorem State.locWrite_keeps {r0 s : State} (hk : Keeps r0 s) (l : Loc) (o : Nat) (bs : List Byte) : Keeps r0 (State.locWrite s l o bs) := by
  unfold State.locWrite
  repeat' first
    | (conv => enter [2, 41]); with_reducible refine Keeps.same ?_
    | (conv => enter [2, 41]); with_reducible refine Keeps.upd ?_ ?_ ?_ ?_ ?_ ?_ ?_ ?_ ?_ ?_ ?_ ?_
    | dsimp only
    | with_reducible assumption
    | with_reducible exact Keeps.refl _
    | with_reducible refine Keeps.ite ?_ ?_
    | with_reducible refine Keeps.foldl ?_ (fun _ _ _ => ?_)
    | split
    | exact id
    | exact smWf_put _ _ _ _
    | exact smWf_put (fun _ => _) _ _ _
    | exact smWf_keep _ _ _
    | exact smWf_putBytes _ _ _
    | exact smWfFrom_filter _ _ _ _
    | exact fun _ => smWf_nil _

theorem State.locSetChk_keeps {r0 s : State} (hk : Keeps r0 s) (l : Loc) (chk : Nat) : Keeps r0 (State.locSetChk s l chk) := by
  unfold State.locSetChk
  repeat' first
    | (conv => enter [2, 41]); with_reducible refine Keeps.same ?_
    | (conv => enter [2, 41]); with_reducible refine Keeps.upd ?_ ?_ ?_ ?_ ?_ ?_ ?_ ?_ ?_ ?_ ?_ ?_
    | dsimp only
    | with_reducible assumption
    | with_reducible exact Keeps.refl _
    | with_reducible refine Keeps.ite ?_ ?_
    | with_reducible refine Keeps.foldl ?_ (fun _ _ _ => ?_)
    | split
    | exact id
    | exact smWf_put _ _ _ _
    | exact smWf_put (fun _ => _) _ _ _
    | exact smWf_keep _ _ _
    | exact smWf_putBytes _ _ _
    | exact smWfFrom_filter _ _ _ _
    | exact fun _ => smWf_nil _

theorem State.memEvent_keeps {r0 s : State} (hk : Keeps r0 s) (code die c : Nat) (a : Addr) (kind : Nat) : Keeps r0 (State.memEvent s code die c a kind) := by
  rw [State.memEvent]
  repeat' first
    | (conv => enter [2, 41]); with_reducible refine Keeps.same ?_
    | (conv => enter [2, 41]); with_reducible refine Keeps.upd ?_ ?_ ?_ ?_ ?_ ?_ ?_ ?_ ?_ ?_ ?_ ?_
    | dsimp only
    | with_reducible assumption
    | with_reducible exact Keeps.refl _
    | with_reducible refine Keeps.ite ?_ ?_
    | with_reducible refine Keeps.foldl ?_ (fun _ _ _ => ?_)
    | with_reducible apply State.raise_keeps
    | with_reducible apply State.capture_keeps
    | split
    | exact id
    | exact smWf_put _ _ _ _
    | exact smWf_put (fun _ => _) _ _ _
    | exact smWf_keep _ _ _
    | exact smWf_putBytes _ _ _
    | exact smWfFrom_filter _ _ _ _
    | exact fun _ => smWf_nil _

theorem State.countMiss_keeps {r0 s : State} (hk : Keeps r0 s) (d c : Nat) (ecc : Ecc) : Keeps r0 (State.countMiss s d c ecc) := by
  rw [State.countMiss]
  repeat' first
    | (conv => enter [2, 41]); with_reducible refine Keeps.same ?_
    | (conv => enter [2, 41]); with_reducible refine Keeps.upd ?_ ?_ ?_ ?_ ?_ ?_ ?_ ?_ ?_ ?_ ?_ ?_
    | dsimp only
    | with_reducible assumption
    | with_reducible exact Keeps.refl _
    | with_reducible refine Keeps.ite ?_ ?_
    | with_reducible refine Keeps.foldl ?_ (fun _ _ _ => ?_)
    | with_reducible apply State.count_keeps
    | split
    | exact id
    | exact smWf_put _ _ _ _
    | exact smWf_put (fun _ => _) _ _ _
    | exact smWf_keep _ _ _
    | exact smWf_putBytes _ _ _
    | exact smWfFrom_filter _ _ _ _
    | exact fun _ => smWf_nil _

theorem State.memRead_keeps {r0 s : State} (hk : Keeps r0 s) (l : Loc) (a : Addr) (ecc : Ecc) (run : Option Nat) : Keeps r0 (State.memRead s l a ecc run).1 := by
  unfold State.memRead
  repeat' first
    | (conv => enter [2, 41]); with_reducible refine Keeps.same ?_
    | (conv => enter [2, 41]); with_reducible refine Keeps.upd ?_ ?_ ?_ ?_ ?_ ?_ ?_ ?_ ?_ ?_ ?_ ?_
    | dsimp only
    | with_reducible assumption
    | with_reducible exact Keeps.refl _
    | with_reducible refine Keeps.ite ?_ ?_
    | with_reducible refine Keeps.foldl ?_ (fun _ _ _ => ?_)
    | with_reducible apply State.countMiss_keeps
    | with_reducible apply State.memEvent_keeps
    | with_reducible apply State.withhold?_keeps
    | with_reducible apply State.count_keeps
    | with_reducible apply State.raise_keeps
    | with_reducible apply State.capture_keeps
    | split
    | exact id
    | exact smWf_put _ _ _ _
    | exact smWf_put (fun _ => _) _ _ _
    | exact smWf_keep _ _ _
    | exact smWf_putBytes _ _ _
    | exact smWfFrom_filter _ _ _ _
    | exact fun _ => smWf_nil _

theorem State.memRead_keepsE {r0 : State} {s : State} (hk : Keeps r0 s) {l : Loc} {a : Addr} {ecc : Ecc} {run : Option Nat} {t_ : State} {x_ : Option (List Byte × Nat)} (e_ : State.memRead s l a ecc run = (t_, x_)) : Keeps r0 t_ := by
  have g := State.memRead_keeps hk l a ecc run
  rw [e_] at g
  exact g

theorem State.memWrite_keeps {r0 s : State} (hk : Keeps r0 s) (l : Loc) (a : Addr) (bs : List Byte) (chk : Nat) (ecc : Ecc) (run : Option Nat) (part : Bool) : Keeps r0 (State.memWrite s l a bs chk ecc run part).1 := by
  unfold State.memWrite
  repeat' first
    | (conv => enter [2, 41]); with_reducible refine Keeps.same ?_
    | (conv => enter [2, 41]); with_reducible refine Keeps.upd ?_ ?_ ?_ ?_ ?_ ?_ ?_ ?_ ?_ ?_ ?_ ?_
    | dsimp only
    | with_reducible assumption
    | with_reducible exact Keeps.refl _
    | with_reducible refine Keeps.ite ?_ ?_
    | with_reducible refine Keeps.foldl ?_ (fun _ _ _ => ?_)
    | with_reducible apply State.countMiss_keeps
    | with_reducible apply State.memEvent_keeps
    | with_reducible apply State.withhold?_keeps
    | with_reducible apply State.count_keeps
    | with_reducible apply State.raise_keeps
    | with_reducible apply State.locWrite_keeps
    | with_reducible apply State.locSetChk_keeps
    | with_reducible apply State.capture_keeps
    | split
    | exact id
    | exact smWf_put _ _ _ _
    | exact smWf_put (fun _ => _) _ _ _
    | exact smWf_keep _ _ _
    | exact smWf_putBytes _ _ _
    | exact smWfFrom_filter _ _ _ _
    | exact fun _ => smWf_nil _

theorem State.memWrite_keepsE {r0 : State} {s : State} (hk : Keeps r0 s) {l : Loc} {a : Addr} {bs : List Byte} {chk : Nat} {ecc : Ecc} {run : Option Nat} {part : Bool} {t_ : State} {x_ : Bool} (e_ : State.memWrite s l a bs chk ecc run part = (t_, x_)) : Keeps r0 t_ := by
  have g := State.memWrite_keeps hk l a bs chk ecc run part
  rw [e_] at g
  exact g

theorem State.refusePort_keeps {r0 s : State} (hk : Keeps r0 s) (r : TaskRun) (a : Addr) (why : Nat) : Keeps r0 (State.refusePort s r a why) := by
  rw [State.refusePort]
  repeat' first
    | (conv => enter [2, 41]); with_reducible refine Keeps.same ?_
    | (conv => enter [2, 41]); with_reducible refine Keeps.upd ?_ ?_ ?_ ?_ ?_ ?_ ?_ ?_ ?_ ?_ ?_ ?_
    | dsimp only
    | with_reducible assumption
    | with_reducible exact Keeps.refl _
    | with_reducible refine Keeps.ite ?_ ?_
    | with_reducible refine Keeps.foldl ?_ (fun _ _ _ => ?_)
    | with_reducible apply State.raiseTask_keeps
    | with_reducible apply State.withhold_keeps
    | with_reducible apply State.capture_keeps
    | split
    | exact id
    | exact smWf_put _ _ _ _
    | exact smWf_put (fun _ => _) _ _ _
    | exact smWf_keep _ _ _
    | exact smWf_putBytes _ _ _
    | exact smWfFrom_filter _ _ _ _
    | exact fun _ => smWf_nil _

theorem State.port_keeps {r0 s t : State} (hk : Keeps r0 s) {k agent : Nat} {a : Addr} {write : Bool} {err : Nat}
    (e : State.port s k agent a write = .stop t err) : Keeps r0 t := by
  unfold State.port at e
  repeat' split at e
  all_goals first | (injection e with e1 e2; subst e1) | cases e
  repeat' first
    | (conv => enter [2, 41]); with_reducible refine Keeps.same ?_
    | (conv => enter [2, 41]); with_reducible refine Keeps.upd ?_ ?_ ?_ ?_ ?_ ?_ ?_ ?_ ?_ ?_ ?_ ?_
    | dsimp only
    | with_reducible assumption
    | with_reducible exact Keeps.refl _
    | with_reducible refine Keeps.ite ?_ ?_
    | with_reducible refine Keeps.foldl ?_ (fun _ _ _ => ?_)
    | with_reducible apply State.decodeError_keeps
    | with_reducible apply State.refusePort_keeps
    | with_reducible apply State.raiseTask_keeps
    | with_reducible apply State.withhold_keeps
    | with_reducible apply State.count_keeps
    | split
    | exact id
    | exact smWf_put _ _ _ _
    | exact smWf_put (fun _ => _) _ _ _
    | exact smWf_keep _ _ _
    | exact smWf_putBytes _ _ _
    | exact smWfFrom_filter _ _ _ _
    | exact fun _ => smWf_nil _

theorem State.addHold_keeps {r0 s : State} (hk : Keeps r0 s) (t p x ns : Nat) : Keeps r0 (State.addHold s t p x ns) := by
  rw [State.addHold]
  repeat' first
    | (conv => enter [2, 41]); with_reducible refine Keeps.same ?_
    | (conv => enter [2, 41]); with_reducible refine Keeps.upd ?_ ?_ ?_ ?_ ?_ ?_ ?_ ?_ ?_ ?_ ?_ ?_
    | dsimp only
    | with_reducible assumption
    | with_reducible exact Keeps.refl _
    | with_reducible refine Keeps.ite ?_ ?_
    | with_reducible refine Keeps.foldl ?_ (fun _ _ _ => ?_)
    | with_reducible apply State.count_keeps
    | split
    | exact id
    | exact smWf_put _ _ _ _
    | exact smWf_put (fun _ => _) _ _ _
    | exact smWf_keep _ _ _
    | exact smWf_putBytes _ _ _
    | exact smWfFrom_filter _ _ _ _
    | exact fun _ => smWf_nil _

theorem State.issueBlock_keeps {r0 s : State} (hk : Keeps r0 s) (k x : Nat) : Keeps r0 (State.issueBlock s k x) := by
  rw [State.issueBlock]
  repeat' first
    | (conv => enter [2, 41]); with_reducible refine Keeps.same ?_
    | (conv => enter [2, 41]); with_reducible refine Keeps.upd ?_ ?_ ?_ ?_ ?_ ?_ ?_ ?_ ?_ ?_ ?_ ?_
    | dsimp only
    | with_reducible assumption
    | with_reducible exact Keeps.refl _
    | with_reducible refine Keeps.ite ?_ ?_
    | with_reducible refine Keeps.foldl ?_ (fun _ _ _ => ?_)
    | with_reducible apply State.setRun_keeps
    | with_reducible apply State.count_keeps
    | with_reducible apply State.raiseOncePerTask_keeps
    | split
    | exact id
    | exact smWf_put _ _ _ _
    | exact smWf_put (fun _ => _) _ _ _
    | exact smWf_keep _ _ _
    | exact smWf_putBytes _ _ _
    | exact smWfFrom_filter _ _ _ _
    | exact fun _ => smWf_nil _

theorem State.issueOwn_keeps {r0 s : State} (hk : Keeps r0 s) (k x : Nat) : Keeps r0 (State.issueOwn s k x) := by
  rw [State.issueOwn]
  repeat' first
    | (conv => enter [2, 41]); with_reducible refine Keeps.same ?_
    | (conv => enter [2, 41]); with_reducible refine Keeps.upd ?_ ?_ ?_ ?_ ?_ ?_ ?_ ?_ ?_ ?_ ?_ ?_
    | dsimp only
    | with_reducible assumption
    | with_reducible exact Keeps.refl _
    | with_reducible refine Keeps.ite ?_ ?_
    | with_reducible refine Keeps.foldl ?_ (fun _ _ _ => ?_)
    | with_reducible apply State.setRun_keeps
    | with_reducible apply State.addHold_keeps
    | with_reducible apply State.issueBlock_keeps
    | split
    | exact id
    | exact smWf_put _ _ _ _
    | exact smWf_put (fun _ => _) _ _ _
    | exact smWf_keep _ _ _
    | exact smWf_putBytes _ _ _
    | exact smWfFrom_filter _ _ _ _
    | exact fun _ => smWf_nil _

theorem State.portRead_keeps {r0 s : State} (hk : Keeps r0 s) (k agent : Nat) (a : Addr) (ecc : Ecc) : Keeps r0 (State.portRead s k agent a ecc).1 := by
  rw [State.portRead]
  repeat' first
    | (conv => enter [2, 41]); with_reducible refine Keeps.same ?_
    | (conv => enter [2, 41]); with_reducible refine Keeps.upd ?_ ?_ ?_ ?_ ?_ ?_ ?_ ?_ ?_ ?_ ?_ ?_
    | dsimp only
    | with_reducible assumption
    | with_reducible exact Keeps.refl _
    | with_reducible refine Keeps.ite ?_ ?_
    | with_reducible refine Keeps.foldl ?_ (fun _ _ _ => ?_)
    | with_reducible refine State.port_keeps ?_ (by with_reducible assumption)
    | with_reducible apply State.issueOwn_keeps
    | with_reducible apply State.memRead_keeps
    | with_reducible refine State.memRead_keepsE ?_ (by with_reducible assumption)
    | split
    | exact id
    | exact smWf_put _ _ _ _
    | exact smWf_put (fun _ => _) _ _ _
    | exact smWf_keep _ _ _
    | exact smWf_putBytes _ _ _
    | exact smWfFrom_filter _ _ _ _
    | exact fun _ => smWf_nil _

theorem State.portRead_keepsE {r0 : State} {s : State} (hk : Keeps r0 s) {k agent : Nat} {a : Addr} {ecc : Ecc} {t_ : State} {x_ : Option (List Byte × Nat)} (e_ : State.portRead s k agent a ecc = (t_, x_)) : Keeps r0 t_ := by
  have g := State.portRead_keeps hk k agent a ecc
  rw [e_] at g
  exact g

theorem State.portWrite_keeps {r0 s : State} (hk : Keeps r0 s) (k agent : Nat) (a : Addr) (bs : List Byte) (chk : Nat) (ecc : Ecc) (must : Bool) : Keeps r0 (State.portWrite s k agent a bs chk ecc must).1 := by
  rw [State.portWrite]
  repeat' first
    | (conv => enter [2, 41]); with_reducible refine Keeps.same ?_
    | (conv => enter [2, 41]); with_reducible refine Keeps.upd ?_ ?_ ?_ ?_ ?_ ?_ ?_ ?_ ?_ ?_ ?_ ?_
    | dsimp only
    | with_reducible assumption
    | with_reducible exact Keeps.refl _
    | with_reducible refine Keeps.ite ?_ ?_
    | with_reducible refine Keeps.foldl ?_ (fun _ _ _ => ?_)
    | with_reducible refine State.port_keeps ?_ (by with_reducible assumption)
    | with_reducible apply State.issueOwn_keeps
    | with_reducible apply State.memWrite_keeps
    | with_reducible refine State.memWrite_keepsE ?_ (by with_reducible assumption)
    | split
    | exact id
    | exact smWf_put _ _ _ _
    | exact smWf_put (fun _ => _) _ _ _
    | exact smWf_keep _ _ _
    | exact smWf_putBytes _ _ _
    | exact smWfFrom_filter _ _ _ _
    | exact fun _ => smWf_nil _

theorem State.portWrite_keepsE {r0 : State} {s : State} (hk : Keeps r0 s) {k agent : Nat} {a : Addr} {bs : List Byte} {chk : Nat} {ecc : Ecc} {must : Bool} {t_ : State} {x_ : Bool} (e_ : State.portWrite s k agent a bs chk ecc must = (t_, x_)) : Keeps r0 t_ := by
  have g := State.portWrite_keeps hk k agent a bs chk ecc must
  rw [e_] at g
  exact g

theorem State.portCombine_keeps {r0 s : State} (hk : Keeps r0 s) (k agent : Nat) (a : Addr) (n : Nat) (f : List Byte → List Byte) (ecc : Ecc) : Keeps r0 (State.portCombine s k agent a n f ecc) := by
  rw [State.portCombine]
  repeat' first
    | (conv => enter [2, 41]); with_reducible refine Keeps.same ?_
    | (conv => enter [2, 41]); with_reducible refine Keeps.upd ?_ ?_ ?_ ?_ ?_ ?_ ?_ ?_ ?_ ?_ ?_ ?_
    | dsimp only
    | with_reducible assumption
    | with_reducible exact Keeps.refl _
    | with_reducible refine Keeps.ite ?_ ?_
    | with_reducible refine Keeps.foldl ?_ (fun _ _ _ => ?_)
    | with_reducible refine State.port_keeps ?_ (by with_reducible assumption)
    | with_reducible apply State.issueOwn_keeps
    | with_reducible apply State.memWrite_keeps
    | with_reducible refine State.memWrite_keepsE ?_ (by with_reducible assumption)
    | split
    | exact id
    | exact smWf_put _ _ _ _
    | exact smWf_put (fun _ => _) _ _ _
    | exact smWf_keep _ _ _
    | exact smWf_putBytes _ _ _
    | exact smWfFrom_filter _ _ _ _
    | exact fun _ => smWf_nil _

theorem State.sysCharge_keeps {r0 s : State} (hk : Keeps r0 s) (key b : Nat) : Keeps r0 (State.sysCharge s key b) := by
  rw [State.sysCharge]
  repeat' first
    | (conv => enter [2, 41]); with_reducible refine Keeps.same ?_
    | (conv => enter [2, 41]); with_reducible refine Keeps.upd ?_ ?_ ?_ ?_ ?_ ?_ ?_ ?_ ?_ ?_ ?_ ?_
    | dsimp only
    | with_reducible assumption
    | with_reducible exact Keeps.refl _
    | with_reducible refine Keeps.ite ?_ ?_
    | with_reducible refine Keeps.foldl ?_ (fun _ _ _ => ?_)
    | split
    | exact id
    | exact smWf_put _ _ _ _
    | exact smWf_put (fun _ => _) _ _ _
    | exact smWf_keep _ _ _
    | exact smWf_putBytes _ _ _
    | exact smWfFrom_filter _ _ _ _
    | exact fun _ => smWf_nil _

theorem State.unitIssue_keeps {r0 s : State} (hk : Keeps r0 s) (src agent : Nat) (tg : Target) : Keeps r0 (State.unitIssue s src agent tg) := by
  rw [State.unitIssue]
  repeat' first
    | (conv => enter [2, 41]); with_reducible refine Keeps.same ?_
    | (conv => enter [2, 41]); with_reducible refine Keeps.upd ?_ ?_ ?_ ?_ ?_ ?_ ?_ ?_ ?_ ?_ ?_ ?_
    | dsimp only
    | with_reducible assumption
    | with_reducible exact Keeps.refl _
    | with_reducible refine Keeps.ite ?_ ?_
    | with_reducible refine Keeps.foldl ?_ (fun _ _ _ => ?_)
    | with_reducible apply State.sysCharge_keeps
    | split
    | exact id
    | exact smWf_put _ _ _ _
    | exact smWf_put (fun _ => _) _ _ _
    | exact smWf_keep _ _ _
    | exact smWf_putBytes _ _ _
    | exact smWfFrom_filter _ _ _ _
    | exact fun _ => smWf_nil _

theorem State.meet_keeps {r0 s : State} (hk : Keeps r0 s) (src agent a n : Nat) : Keeps r0 (State.meet s src agent a n) := by
  rw [State.meet]
  repeat' first
    | (conv => enter [2, 41]); with_reducible refine Keeps.same ?_
    | (conv => enter [2, 41]); with_reducible refine Keeps.upd ?_ ?_ ?_ ?_ ?_ ?_ ?_ ?_ ?_ ?_ ?_ ?_
    | dsimp only
    | with_reducible assumption
    | with_reducible exact Keeps.refl _
    | with_reducible refine Keeps.ite ?_ ?_
    | with_reducible refine Keeps.foldl ?_ (fun _ _ _ => ?_)
    | with_reducible refine Keeps.foldl1 ?_ (fun _ _ _ => ?_)
    | with_reducible apply State.decodeError_keeps
    | with_reducible apply State.unitIssue_keeps
    | with_reducible apply State.memRead_keeps
    | with_reducible refine State.memRead_keepsE ?_ (by with_reducible assumption)
    | split
    | exact id
    | exact smWf_put _ _ _ _
    | exact smWf_put (fun _ => _) _ _ _
    | exact smWf_keep _ _ _
    | exact smWf_putBytes _ _ _
    | exact smWfFrom_filter _ _ _ _
    | exact fun _ => smWf_nil _

theorem State.poke_keeps {r0 s : State} (hk : Keeps r0 s) (src agent a : Nat) (bs : List Byte) : Keeps r0 (State.poke s src agent a bs) := by
  rw [State.poke]
  repeat' first
    | (conv => enter [2, 41]); with_reducible refine Keeps.same ?_
    | (conv => enter [2, 41]); with_reducible refine Keeps.upd ?_ ?_ ?_ ?_ ?_ ?_ ?_ ?_ ?_ ?_ ?_ ?_
    | dsimp only
    | with_reducible assumption
    | with_reducible exact Keeps.refl _
    | with_reducible refine Keeps.ite ?_ ?_
    | with_reducible refine Keeps.foldl ?_ (fun _ _ _ => ?_)
    | with_reducible refine Keeps.foldl1 ?_ (fun _ _ _ => ?_)
    | with_reducible apply State.decodeError_keeps
    | with_reducible apply State.unitIssue_keeps
    | with_reducible apply State.memWrite_keeps
    | with_reducible refine State.memWrite_keepsE ?_ (by with_reducible assumption)
    | split
    | exact id
    | exact smWf_put _ _ _ _
    | exact smWf_put (fun _ => _) _ _ _
    | exact smWf_keep _ _ _
    | exact smWf_putBytes _ _ _
    | exact smWfFrom_filter _ _ _ _
    | exact fun _ => smWf_nil _

end Sys2Proof.Machine
end

