-- ==== Sys2Proof/Laws/Keeps/Kv.lean ====
section
/-! SUPPORT. Every operation of Machine/Kv.lean that answers a state keeps the part, the queue and the canonical form. -/

namespace Sys2Proof.Machine

theorem Keeps.foldlFormer {α : Type} {s : State} {a : Former} {f : Former → α → Former} {l : List α} (ha : Keeps s a.s)
    (hf : ∀ t x, Keeps s t.s → Keeps s (f t x).s) : Keeps s (l.foldl f a).s := by
  induction l generalizing a with
  | nil => exact ha
  | cons x l ih => exact ih (hf _ _ ha)

theorem State.walkerPut_keeps {r0 s : State} (hk : Keeps r0 s) (t a : Nat) (bs : List Byte) : Keeps r0 (State.walkerPut s t a bs) := by
  rw [State.walkerPut]
  repeat' first
    | (conv => enter [2, 41]); with_reducible refine Keeps.same ?_
    | (conv => enter [2, 41]); with_reducible refine Keeps.upd ?_ ?_ ?_ ?_ ?_ ?_ ?_ ?_ ?_ ?_ ?_ ?_
    | dsimp only
    | with_reducible assumption
    | with_reducible exact Keeps.refl _
    | with_reducible refine Keeps.ite ?_ ?_
    | with_reducible refine Keeps.foldl ?_ (fun _ _ _ => ?_)
    | with_reducible apply State.poke_keeps
    | split
    | exact id
    | exact smWf_put _ _ _ _
    | exact smWf_put (fun _ => _) _ _ _
    | exact smWf_keep _ _ _
    | exact smWf_putBytes _ _ _
    | exact smWfFrom_filter _ _ _ _
    | exact fun _ => smWf_nil _

theorem State.putSeq_keeps {r0 s : State} (hk : Keeps r0 s) (r : KvRec) (d : KvDie) (q : Nat) (x : SeqEnt) : Keeps r0 (State.putSeq s r d q x) := by
  rw [State.putSeq]
  repeat' first
    | (conv => enter [2, 41]); with_reducible refine Keeps.same ?_
    | (conv => enter [2, 41]); with_reducible refine Keeps.upd ?_ ?_ ?_ ?_ ?_ ?_ ?_ ?_ ?_ ?_ ?_ ?_
    | dsimp only
    | with_reducible assumption
    | with_reducible exact Keeps.refl _
    | with_reducible refine Keeps.ite ?_ ?_
    | with_reducible refine Keeps.foldl ?_ (fun _ _ _ => ?_)
    | with_reducible apply State.walkerPut_keeps
    | split
    | exact id
    | exact smWf_put _ _ _ _
    | exact smWf_put (fun _ => _) _ _ _
    | exact smWf_keep _ _ _
    | exact smWf_putBytes _ _ _
    | exact smWfFrom_filter _ _ _ _
    | exact fun _ => smWf_nil _

theorem State.putPte_keeps {r0 s : State} (hk : Keeps r0 s) (r : KvRec) (d : KvDie) (q i : Nat) (x : Pte) : Keeps r0 (State.putPte s r d q i x) := by
  rw [State.putPte]
  repeat' first
    | (conv => enter [2, 41]); with_reducible refine Keeps.same ?_
    | (conv => enter [2, 41]); with_reducible refine Keeps.upd ?_ ?_ ?_ ?_ ?_ ?_ ?_ ?_ ?_ ?_ ?_ ?_
    | dsimp only
    | with_reducible assumption
    | with_reducible exact Keeps.refl _
    | with_reducible refine Keeps.ite ?_ ?_
    | with_reducible refine Keeps.foldl ?_ (fun _ _ _ => ?_)
    | with_reducible apply State.walkerPut_keeps
    | split
    | exact id
    | exact smWf_put _ _ _ _
    | exact smWf_put (fun _ => _) _ _ _
    | exact smWf_keep _ _ _
    | exact smWf_putBytes _ _ _
    | exact smWfFrom_filter _ _ _ _
    | exact fun _ => smWf_nil _

theorem State.putFte_keeps {r0 s : State} (hk : Keeps r0 s) (r : KvRec) (d : KvDie) (tier f : Nat) (x : Fte) : Keeps r0 (State.putFte s r d tier f x) := by
  rw [State.putFte]
  repeat' first
    | (conv => enter [2, 41]); with_reducible refine Keeps.same ?_
    | (conv => enter [2, 41]); with_reducible refine Keeps.upd ?_ ?_ ?_ ?_ ?_ ?_ ?_ ?_ ?_ ?_ ?_ ?_
    | dsimp only
    | with_reducible assumption
    | with_reducible exact Keeps.refl _
    | with_reducible refine Keeps.ite ?_ ?_
    | with_reducible refine Keeps.foldl ?_ (fun _ _ _ => ?_)
    | with_reducible apply State.walkerPut_keeps
    | split
    | exact id
    | exact smWf_put _ _ _ _
    | exact smWf_put (fun _ => _) _ _ _
    | exact smWf_keep _ _ _
    | exact smWf_putBytes _ _ _
    | exact smWfFrom_filter _ _ _ _
    | exact fun _ => smWf_nil _

theorem State.dropRef_keeps {r0 s : State} (hk : Keeps r0 s) (r : KvRec) (d : KvDie) (tier f n : Nat) : Keeps r0 (State.dropRef s r d tier f n) := by
  rw [State.dropRef]
  repeat' first
    | (conv => enter [2, 41]); with_reducible refine Keeps.same ?_
    | (conv => enter [2, 41]); with_reducible refine Keeps.upd ?_ ?_ ?_ ?_ ?_ ?_ ?_ ?_ ?_ ?_ ?_ ?_
    | dsimp only
    | with_reducible assumption
    | with_reducible exact Keeps.refl _
    | with_reducible refine Keeps.ite ?_ ?_
    | with_reducible refine Keeps.foldl ?_ (fun _ _ _ => ?_)
    | with_reducible apply State.putFte_keeps
    | split
    | exact id
    | exact smWf_put _ _ _ _
    | exact smWf_put (fun _ => _) _ _ _
    | exact smWf_keep _ _ _
    | exact smWf_putBytes _ _ _
    | exact smWfFrom_filter _ _ _ _
    | exact fun _ => smWf_nil _

theorem State.addRef_keeps {r0 s : State} (hk : Keeps r0 s) (r : KvRec) (d : KvDie) (tier f : Nat) : Keeps r0 (State.addRef s r d tier f) := by
  rw [State.addRef]
  repeat' first
    | (conv => enter [2, 41]); with_reducible refine Keeps.same ?_
    | (conv => enter [2, 41]); with_reducible refine Keeps.upd ?_ ?_ ?_ ?_ ?_ ?_ ?_ ?_ ?_ ?_ ?_ ?_
    | dsimp only
    | with_reducible assumption
    | with_reducible exact Keeps.refl _
    | with_reducible refine Keeps.ite ?_ ?_
    | with_reducible refine Keeps.foldl ?_ (fun _ _ _ => ?_)
    | with_reducible apply State.putFte_keeps
    | split
    | exact id
    | exact smWf_put _ _ _ _
    | exact smWf_put (fun _ => _) _ _ _
    | exact smWf_keep _ _ _
    | exact smWf_putBytes _ _ _
    | exact smWfFrom_filter _ _ _ _
    | exact fun _ => smWf_nil _

theorem State.frameState_keeps {r0 s : State} (hk : Keeps r0 s) (r : KvRec) (d : KvDie) (tier f st : Nat) : Keeps r0 (State.frameState s r d tier f st) := by
  rw [State.frameState]
  repeat' first
    | (conv => enter [2, 41]); with_reducible refine Keeps.same ?_
    | (conv => enter [2, 41]); with_reducible refine Keeps.upd ?_ ?_ ?_ ?_ ?_ ?_ ?_ ?_ ?_ ?_ ?_ ?_
    | dsimp only
    | with_reducible assumption
    | with_reducible exact Keeps.refl _
    | with_reducible refine Keeps.ite ?_ ?_
    | with_reducible refine Keeps.foldl ?_ (fun _ _ _ => ?_)
    | with_reducible apply State.putFte_keeps
    | split
    | exact id
    | exact smWf_put _ _ _ _
    | exact smWf_put (fun _ => _) _ _ _
    | exact smWf_keep _ _ _
    | exact smWf_putBytes _ _ _
    | exact smWfFrom_filter _ _ _ _
    | exact fun _ => smWf_nil _

theorem State.reclaim_keeps {r0 s : State} (hk : Keeps r0 s) (r : KvRec) (floor : Nat) : Keeps r0 (State.reclaim s r floor) := by
  rw [State.reclaim]
  repeat' first
    | (conv => enter [2, 41]); with_reducible refine Keeps.same ?_
    | (conv => enter [2, 41]); with_reducible refine Keeps.upd ?_ ?_ ?_ ?_ ?_ ?_ ?_ ?_ ?_ ?_ ?_ ?_
    | dsimp only
    | with_reducible assumption
    | with_reducible exact Keeps.refl _
    | with_reducible refine Keeps.ite ?_ ?_
    | with_reducible refine Keeps.foldl ?_ (fun _ _ _ => ?_)
    | with_reducible refine Keeps.foldl1 ?_ (fun _ _ _ => ?_)
    | with_reducible refine Keeps.foldlFormer ?_ (fun _ _ _ => ?_)
    | with_reducible apply State.putFte_keeps
    | split
    | exact id
    | exact smWf_put _ _ _ _
    | exact smWf_put (fun _ => _) _ _ _
    | exact smWf_keep _ _ _
    | exact smWf_putBytes _ _ _
    | exact smWfFrom_filter _ _ _ _
    | exact fun _ => smWf_nil _

theorem State.complete_keeps {r0 s : State} (hk : Keeps r0 s) (r : KvRec) (seq status len reason tag epoch : Nat) : Keeps r0 (State.complete s r seq status len reason tag epoch) := by
  rw [State.complete]
  repeat' first
    | (conv => enter [2, 41]); with_reducible refine Keeps.same ?_
    | (conv => enter [2, 41]); with_reducible refine Keeps.upd ?_ ?_ ?_ ?_ ?_ ?_ ?_ ?_ ?_ ?_ ?_ ?_
    | dsimp only
    | with_reducible assumption
    | with_reducible exact Keeps.refl _
    | with_reducible refine Keeps.ite ?_ ?_
    | with_reducible refine Keeps.foldl ?_ (fun _ _ _ => ?_)
    | with_reducible apply State.poke_keeps
    | with_reducible apply State.fset_keeps
    | split
    | exact id
    | exact smWf_put _ _ _ _
    | exact smWf_put (fun _ => _) _ _ _
    | exact smWf_keep _ _ _
    | exact smWf_putBytes _ _ _
    | exact smWfFrom_filter _ _ _ _
    | exact fun _ => smWf_nil _

theorem State.kvHub_keeps {r0 s : State} (hk : Keeps r0 s) (code p : Nat) : Keeps r0 (State.kvHub s code p) := by
  rw [State.kvHub]
  repeat' first
    | (conv => enter [2, 41]); with_reducible refine Keeps.same ?_
    | (conv => enter [2, 41]); with_reducible refine Keeps.upd ?_ ?_ ?_ ?_ ?_ ?_ ?_ ?_ ?_ ?_ ?_ ?_
    | dsimp only
    | with_reducible assumption
    | with_reducible exact Keeps.refl _
    | with_reducible refine Keeps.ite ?_ ?_
    | with_reducible refine Keeps.foldl ?_ (fun _ _ _ => ?_)
    | with_reducible apply State.raise_keeps
    | split
    | exact id
    | exact smWf_put _ _ _ _
    | exact smWf_put (fun _ => _) _ _ _
    | exact smWf_keep _ _ _
    | exact smWf_putBytes _ _ _
    | exact smWfFrom_filter _ _ _ _
    | exact fun _ => smWf_nil _

theorem State.kvDie_keeps {r0 s : State} (hk : Keeps r0 s) (code t p epoch : Nat) : Keeps r0 (State.kvDie s code t p epoch) := by
  rw [State.kvDie]
  repeat' first
    | (conv => enter [2, 41]); with_reducible refine Keeps.same ?_
    | (conv => enter [2, 41]); with_reducible refine Keeps.upd ?_ ?_ ?_ ?_ ?_ ?_ ?_ ?_ ?_ ?_ ?_ ?_
    | dsimp only
    | with_reducible assumption
    | with_reducible exact Keeps.refl _
    | with_reducible refine Keeps.ite ?_ ?_
    | with_reducible refine Keeps.foldl ?_ (fun _ _ _ => ?_)
    | with_reducible apply State.raise_keeps
    | with_reducible apply State.capture_keeps
    | split
    | exact id
    | exact smWf_put _ _ _ _
    | exact smWf_put (fun _ => _) _ _ _
    | exact smWf_keep _ _ _
    | exact smWf_putBytes _ _ _
    | exact smWfFrom_filter _ _ _ _
    | exact fun _ => smWf_nil _

theorem State.clearTable_keeps {r0 s : State} (hk : Keeps r0 s) (r : KvRec) (d : KvDie) (q : Nat) : Keeps r0 (State.clearTable s r d q) := by
  rw [State.clearTable]
  repeat' first
    | (conv => enter [2, 41]); with_reducible refine Keeps.same ?_
    | (conv => enter [2, 41]); with_reducible refine Keeps.upd ?_ ?_ ?_ ?_ ?_ ?_ ?_ ?_ ?_ ?_ ?_ ?_
    | dsimp only
    | with_reducible assumption
    | with_reducible exact Keeps.refl _
    | with_reducible refine Keeps.ite ?_ ?_
    | with_reducible refine Keeps.foldl ?_ (fun _ _ _ => ?_)
    | with_reducible refine Keeps.foldl1 ?_ (fun _ _ _ => ?_)
    | with_reducible refine Keeps.foldlFormer ?_ (fun _ _ _ => ?_)
    | with_reducible apply State.dropRef_keeps
    | with_reducible apply State.putPte_keeps
    | split
    | exact id
    | exact smWf_put _ _ _ _
    | exact smWf_put (fun _ => _) _ _ _
    | exact smWf_keep _ _ _
    | exact smWf_putBytes _ _ _
    | exact smWfFrom_filter _ _ _ _
    | exact fun _ => smWf_nil _

theorem State.reqOn_keeps {r0 s : State} (hk : Keeps r0 s) (r : KvRec) (q : KvReq) (inStep : Bool) (d : KvDie) : Keeps r0 (State.reqOn s r q inStep d) := by
  rw [State.reqOn]
  repeat' first
    | (conv => enter [2, 41]); with_reducible refine Keeps.same ?_
    | (conv => enter [2, 41]); with_reducible refine Keeps.upd ?_ ?_ ?_ ?_ ?_ ?_ ?_ ?_ ?_ ?_ ?_ ?_
    | dsimp only
    | with_reducible assumption
    | with_reducible exact Keeps.refl _
    | with_reducible refine Keeps.ite ?_ ?_
    | with_reducible refine Keeps.foldl ?_ (fun _ _ _ => ?_)
    | with_reducible refine Keeps.foldl1 ?_ (fun _ _ _ => ?_)
    | with_reducible refine Keeps.foldlFormer ?_ (fun _ _ _ => ?_)
    | with_reducible apply State.putSeq_keeps
    | with_reducible apply State.count_keeps
    | with_reducible apply State.putPte_keeps
    | with_reducible apply State.addRef_keeps
    | with_reducible apply State.clearTable_keeps
    | split
    | exact id
    | exact smWf_put _ _ _ _
    | exact smWf_put (fun _ => _) _ _ _
    | exact smWf_keep _ _ _
    | exact smWf_putBytes _ _ _
    | exact smWfFrom_filter _ _ _ _
    | exact fun _ => smWf_nil _

theorem State.kvRequest_keeps {r0 s : State} (hk : Keeps r0 s) (r : KvRec) (epoch : Nat) (q : KvReq) : Keeps r0 (State.kvRequest s r epoch q) := by
  rw [State.kvRequest]
  repeat' first
    | (conv => enter [2, 41]); with_reducible refine Keeps.same ?_
    | (conv => enter [2, 41]); with_reducible refine Keeps.upd ?_ ?_ ?_ ?_ ?_ ?_ ?_ ?_ ?_ ?_ ?_ ?_
    | dsimp only
    | with_reducible assumption
    | with_reducible exact Keeps.refl _
    | with_reducible refine Keeps.ite ?_ ?_
    | with_reducible refine Keeps.foldl ?_ (fun _ _ _ => ?_)
    | with_reducible refine Keeps.foldl1 ?_ (fun _ _ _ => ?_)
    | with_reducible refine Keeps.foldlFormer ?_ (fun _ _ _ => ?_)
    | with_reducible apply State.complete_keeps
    | with_reducible apply State.kvHub_keeps
    | with_reducible apply State.count_keeps
    | with_reducible apply State.reqOn_keeps
    | split
    | exact id
    | exact smWf_put _ _ _ _
    | exact smWf_put (fun _ => _) _ _ _
    | exact smWf_keep _ _ _
    | exact smWf_putBytes _ _ _
    | exact smWfFrom_filter _ _ _ _
    | exact fun _ => smWf_nil _

theorem State.kvTake_keeps {r0 s : State} (hk : Keeps r0 s) (r : KvRec) (epoch n : Nat) : Keeps r0 (State.kvTake s r epoch n) := by
  induction n generalizing s with
  | zero => exact hk
  | succ n ih =>
    unfold State.kvTake
    dsimp only
    split
    · exact hk
    · exact ih (State.kvRequest_keeps (State.fset_keeps (State.meet_keeps hk _ _ _ _) _ _) _ _ _)

theorem State.takeFrameFor_keeps {r0 s : State} (hk : Keeps r0 s) (r : KvRec) (d : KvDie) (q : Nat) (ts : List KvTarget) (i : Nat) (own free : Option Nat) : Keeps r0 (State.takeFrameFor s r d q ts i own free).1 := by
  unfold State.takeFrameFor
  repeat' first
    | (conv => enter [2, 41]); with_reducible refine Keeps.same ?_
    | (conv => enter [2, 41]); with_reducible refine Keeps.upd ?_ ?_ ?_ ?_ ?_ ?_ ?_ ?_ ?_ ?_ ?_ ?_
    | dsimp only
    | with_reducible assumption
    | with_reducible exact Keeps.refl _
    | with_reducible refine Keeps.ite ?_ ?_
    | with_reducible refine Keeps.foldl ?_ (fun _ _ _ => ?_)
    | with_reducible apply State.putFte_keeps
    | with_reducible apply State.count_keeps
    | split
    | exact id
    | exact smWf_put _ _ _ _
    | exact smWf_put (fun _ => _) _ _ _
    | exact smWf_keep _ _ _
    | exact smWf_putBytes _ _ _
    | exact smWfFrom_filter _ _ _ _
    | exact fun _ => smWf_nil _

theorem State.takeFrameFor_keepsE {r0 : State} {s : State} (hk : Keeps r0 s) {r : KvRec} {d : KvDie} {q : Nat} {ts : List KvTarget} {i : Nat} {own free : Option Nat} {t_ : State} {x_ : List KvTarget} (e_ : State.takeFrameFor s r d q ts i own free = (t_, x_)) : Keeps r0 t_ := by
  have g := State.takeFrameFor_keeps hk r d q ts i own free
  rw [e_] at g
  exact g

theorem State.takeTarget_keeps {r0 s : State} (hk : Keeps r0 s) (r : KvRec) (d : KvDie) (floor q : Nat) (i : Nat) (ts : List KvTarget) : Keeps r0 (State.takeTarget r d floor q s i ts).1 := by
  rw [State.takeTarget]
  repeat' first
    | (conv => enter [2, 41]); with_reducible refine Keeps.same ?_
    | (conv => enter [2, 41]); with_reducible refine Keeps.upd ?_ ?_ ?_ ?_ ?_ ?_ ?_ ?_ ?_ ?_ ?_ ?_
    | dsimp only
    | with_reducible assumption
    | with_reducible exact Keeps.refl _
    | with_reducible refine Keeps.ite ?_ ?_
    | with_reducible refine Keeps.foldl ?_ (fun _ _ _ => ?_)
    | with_reducible apply State.takeFrameFor_keeps
    | with_reducible refine State.takeFrameFor_keepsE ?_ (by with_reducible assumption)
    | split
    | exact id
    | exact smWf_put _ _ _ _
    | exact smWf_put (fun _ => _) _ _ _
    | exact smWf_keep _ _ _
    | exact smWf_putBytes _ _ _
    | exact smWfFrom_filter _ _ _ _
    | exact fun _ => smWf_nil _

theorem State.takeTarget_keepsE {r0 : State} {s : State} (hk : Keeps r0 s) {r : KvRec} {d : KvDie} {floor q : Nat} {i : Nat} {ts : List KvTarget} {t_ : State} {x_ : List KvTarget} (e_ : State.takeTarget r d floor q s i ts = (t_, x_)) : Keeps r0 t_ := by
  have g := State.takeTarget_keeps hk r d floor q i ts
  rw [e_] at g
  exact g

theorem State.takeTargets_keeps {r0 s : State} (hk : Keeps r0 s) (r : KvRec) (d : KvDie) (floor q len a : Nat) : Keeps r0 (State.takeTargets s r d floor q len a).1 := by
  rw [State.takeTargets]
  with_reducible exact Keeps.foldlPair (g := State.takeTarget r d floor q) hk (fun _ _ _ h => State.takeTarget_keeps h _ _ _ _ _ _)

theorem State.takeTargets_keepsE {r0 : State} {s : State} (hk : Keeps r0 s) {r : KvRec} {d : KvDie} {floor q len a : Nat} {t_ : State} {x_ : List KvTarget} (e_ : State.takeTargets s r d floor q len a = (t_, x_)) : Keeps r0 t_ := by
  have g := State.takeTargets_keeps hk r d floor q len a
  rw [e_] at g
  exact g

theorem State.takeDie_keeps {r0 s : State} (hk : Keeps r0 s) (r : KvRec) (floor q len a : Nat) (d : KvDie) (ts : List KvTarget) : Keeps r0 (State.takeDie r floor q len a s d ts).1 := by
  rw [State.takeDie]
  with_reducible exact Keeps.pair (State.takeTargets_keeps hk _ _ _ _ _ _)

theorem State.takeDie_keepsE {r0 : State} {s : State} (hk : Keeps r0 s) {r : KvRec} {floor q len a : Nat} {d : KvDie} {ts : List KvTarget} {t_ : State} {x_ : List KvTarget} (e_ : State.takeDie r floor q len a s d ts = (t_, x_)) : Keeps r0 t_ := by
  have g := State.takeDie_keeps hk r floor q len a d ts
  rw [e_] at g
  exact g

theorem Former.take_keeps {r0 : State} {z : Former} (hk : Keeps r0 z.s) (r : KvRec) (floor free0 q : Nat) : Keeps r0 (Former.take z r floor free0 q).s := by
  rw [Former.take]
  have h : ∀ n k, Keeps r0 (r.dies.foldl (fun (acc : State × List KvTarget) d => State.takeDie r floor q n k acc.1 d acc.2) (z.s, [])).1 :=
    fun n k => by
      with_reducible exact Keeps.foldlPair (g := State.takeDie r floor q n k) hk (fun _ _ _ h => State.takeDie_keeps h _ _ _ _ _ _ _)
  split
  · exact hk
  · extract_lets e a
    split
    · exact hk
    · split
      · exact hk
      · extract_lets bulkOf used nf near acc
        split
        · exact hk
        · with_reducible exact h _ _

theorem State.formStep_keeps {r0 s : State} (hk : Keeps r0 s) (r : KvRec) (floor : Nat) : Keeps r0 (State.formStep s r floor).s := by
  rw [State.formStep]
  repeat' first
    | (conv => enter [2, 41]); with_reducible refine Keeps.same ?_
    | (conv => enter [2, 41]); with_reducible refine Keeps.upd ?_ ?_ ?_ ?_ ?_ ?_ ?_ ?_ ?_ ?_ ?_ ?_
    | dsimp only
    | with_reducible assumption
    | with_reducible exact Keeps.refl _
    | with_reducible refine Keeps.ite ?_ ?_
    | with_reducible refine Keeps.foldl ?_ (fun _ _ _ => ?_)
    | with_reducible refine Keeps.foldl1 ?_ (fun _ _ _ => ?_)
    | with_reducible refine Keeps.foldlFormer ?_ (fun _ _ _ => ?_)
    | with_reducible apply Former.take_keeps
    | split
    | exact id
    | exact smWf_put _ _ _ _
    | exact smWf_put (fun _ => _) _ _ _
    | exact smWf_keep _ _ _
    | exact smWf_putBytes _ _ _
    | exact smWfFrom_filter _ _ _ _
    | exact fun _ => smWf_nil _

theorem State.endSlot_keeps {r0 s : State} (hk : Keeps r0 s) (r : KvRec) (epoch : Nat) (ok : Bool) (y : KvSlot) : Keeps r0 (State.endSlot s r epoch ok y) := by
  rw [State.endSlot]
  repeat' first
    | (conv => enter [2, 41]); with_reducible refine Keeps.same ?_
    | (conv => enter [2, 41]); with_reducible refine Keeps.upd ?_ ?_ ?_ ?_ ?_ ?_ ?_ ?_ ?_ ?_ ?_ ?_
    | dsimp only
    | with_reducible assumption
    | with_reducible exact Keeps.refl _
    | with_reducible refine Keeps.ite ?_ ?_
    | with_reducible refine Keeps.foldl ?_ (fun _ _ _ => ?_)
    | with_reducible refine Keeps.foldl1 ?_ (fun _ _ _ => ?_)
    | with_reducible refine Keeps.foldlFormer ?_ (fun _ _ _ => ?_)
    | with_reducible apply State.putFte_keeps
    | with_reducible apply State.putPte_keeps
    | with_reducible apply State.dropRef_keeps
    | with_reducible apply State.frameState_keeps
    | with_reducible apply State.putSeq_keeps
    | with_reducible apply State.complete_keeps
    | split
    | exact id
    | exact smWf_put _ _ _ _
    | exact smWf_put (fun _ => _) _ _ _
    | exact smWf_keep _ _ _
    | exact smWf_putBytes _ _ _
    | exact smWfFrom_filter _ _ _ _
    | exact fun _ => smWf_nil _

theorem State.planMoves_keeps {r0 s : State} (hk : Keeps r0 s) (r : KvRec) (d : KvDie) (slots : List KvSlot) (future : List (List Nat)) : Keeps r0 (State.planMoves s r d slots future).1 := by
  rw [State.planMoves]
  repeat' first
    | (conv => enter [2, 41]); with_reducible refine Keeps.same ?_
    | (conv => enter [2, 41]); with_reducible refine Keeps.upd ?_ ?_ ?_ ?_ ?_ ?_ ?_ ?_ ?_ ?_ ?_ ?_
    | dsimp only
    | with_reducible assumption
    | with_reducible exact Keeps.refl _
    | with_reducible refine Keeps.ite ?_ ?_
    | with_reducible refine Keeps.foldl ?_ (fun _ _ _ => ?_)
    | with_reducible refine Keeps.foldl1 ?_ (fun _ _ _ => ?_)
    | with_reducible refine Keeps.foldlFormer ?_ (fun _ _ _ => ?_)
    | with_reducible apply State.putFte_keeps
    | split
    | exact id
    | exact smWf_put _ _ _ _
    | exact smWf_put (fun _ => _) _ _ _
    | exact smWf_keep _ _ _
    | exact smWf_putBytes _ _ _
    | exact smWfFrom_filter _ _ _ _
    | exact fun _ => smWf_nil _

theorem State.planMoves_keepsE {r0 : State} {s : State} (hk : Keeps r0 s) {r : KvRec} {d : KvDie} {slots : List KvSlot} {future : List (List Nat)} {t_ : State} {x_ : List KvMove} (e_ : State.planMoves s r d slots future = (t_, x_)) : Keeps r0 t_ := by
  have g := State.planMoves_keeps hk r d slots future
  rw [e_] at g
  exact g

theorem State.putShared_keeps {r0 s : State} (hk : Keeps r0 s) (t blk : Nat) (bs : List Byte) : Keeps r0 (State.putShared s t blk bs) := by
  rw [State.putShared]
  repeat' first
    | (conv => enter [2, 41]); with_reducible refine Keeps.same ?_
    | (conv => enter [2, 41]); with_reducible refine Keeps.upd ?_ ?_ ?_ ?_ ?_ ?_ ?_ ?_ ?_ ?_ ?_ ?_
    | dsimp only
    | with_reducible assumption
    | with_reducible exact Keeps.refl _
    | with_reducible refine Keeps.ite ?_ ?_
    | with_reducible refine Keeps.foldl ?_ (fun _ _ _ => ?_)
    | with_reducible apply State.walkerPut_keeps
    | split
    | exact id
    | exact smWf_put _ _ _ _
    | exact smWf_put (fun _ => _) _ _ _
    | exact smWf_keep _ _ _
    | exact smWf_putBytes _ _ _
    | exact smWfFrom_filter _ _ _ _
    | exact fun _ => smWf_nil _

theorem State.bucketLists_keeps {r0 s : State} (hk : Keeps r0 s) (r : KvRec) (d : KvDie) (epoch : Nat) (slots : List KvSlot) (b : Nat) (x : KvBucket) : Keeps r0 (State.bucketLists s r d epoch slots b x) := by
  rw [State.bucketLists]
  repeat' first
    | (conv => enter [2, 41]); with_reducible refine Keeps.same ?_
    | (conv => enter [2, 41]); with_reducible refine Keeps.upd ?_ ?_ ?_ ?_ ?_ ?_ ?_ ?_ ?_ ?_ ?_ ?_
    | dsimp only
    | with_reducible assumption
    | with_reducible exact Keeps.refl _
    | with_reducible refine Keeps.ite ?_ ?_
    | with_reducible refine Keeps.foldl ?_ (fun _ _ _ => ?_)
    | with_reducible apply State.putShared_keeps
    | split
    | exact id
    | exact smWf_put _ _ _ _
    | exact smWf_put (fun _ => _) _ _ _
    | exact smWf_keep _ _ _
    | exact smWf_putBytes _ _ _
    | exact smWfFrom_filter _ _ _ _
    | exact fun _ => smWf_nil _

theorem State.hkList_keeps {r0 s : State} (hk : Keeps r0 s) (r : KvRec) (d : KvDie) (ms : List KvMove) : Keeps r0 (State.hkList s r d ms) := by
  rw [State.hkList]
  repeat' first
    | (conv => enter [2, 41]); with_reducible refine Keeps.same ?_
    | (conv => enter [2, 41]); with_reducible refine Keeps.upd ?_ ?_ ?_ ?_ ?_ ?_ ?_ ?_ ?_ ?_ ?_ ?_
    | dsimp only
    | with_reducible assumption
    | with_reducible exact Keeps.refl _
    | with_reducible refine Keeps.ite ?_ ?_
    | with_reducible refine Keeps.foldl ?_ (fun _ _ _ => ?_)
    | with_reducible apply State.putShared_keeps
    | split
    | exact id
    | exact smWf_put _ _ _ _
    | exact smWf_put (fun _ => _) _ _ _
    | exact smWf_keep _ _ _
    | exact smWf_putBytes _ _ _
    | exact smWfFrom_filter _ _ _ _
    | exact fun _ => smWf_nil _

theorem State.lookUps_keeps {r0 s : State} (hk : Keeps r0 s) (r : KvRec) (d : KvDie) (slots : List KvSlot) (b : Nat) (x : KvBucket) : Keeps r0 (State.lookUps s r d slots b x) := by
  rw [State.lookUps]
  repeat' first
    | (conv => enter [2, 41]); with_reducible refine Keeps.same ?_
    | (conv => enter [2, 41]); with_reducible refine Keeps.upd ?_ ?_ ?_ ?_ ?_ ?_ ?_ ?_ ?_ ?_ ?_ ?_
    | dsimp only
    | with_reducible assumption
    | with_reducible exact Keeps.refl _
    | with_reducible refine Keeps.ite ?_ ?_
    | with_reducible refine Keeps.foldl ?_ (fun _ _ _ => ?_)
    | with_reducible refine Keeps.foldl1 ?_ (fun _ _ _ => ?_)
    | with_reducible refine Keeps.foldlFormer ?_ (fun _ _ _ => ?_)
    | with_reducible apply Former.take_keeps
    | with_reducible apply State.count_keeps
    | split
    | exact id
    | exact smWf_put _ _ _ _
    | exact smWf_put (fun _ => _) _ _ _
    | exact smWf_keep _ _ _
    | exact smWf_putBytes _ _ _
    | exact smWfFrom_filter _ _ _ _
    | exact fun _ => smWf_nil _

theorem State.showKv_keeps {r0 s : State} (hk : Keeps r0 s) (r : KvRec) : Keeps r0 (State.showKv s r) := by
  rw [State.showKv]
  repeat' first
    | (conv => enter [2, 41]); with_reducible refine Keeps.same ?_
    | (conv => enter [2, 41]); with_reducible refine Keeps.upd ?_ ?_ ?_ ?_ ?_ ?_ ?_ ?_ ?_ ?_ ?_ ?_
    | dsimp only
    | with_reducible assumption
    | with_reducible exact Keeps.refl _
    | with_reducible refine Keeps.ite ?_ ?_
    | with_reducible refine Keeps.foldl ?_ (fun _ _ _ => ?_)
    | with_reducible refine Keeps.foldl1 ?_ (fun _ _ _ => ?_)
    | with_reducible refine Keeps.foldlFormer ?_ (fun _ _ _ => ?_)
    | with_reducible apply State.fset_keeps
    | split
    | exact id
    | exact smWf_put _ _ _ _
    | exact smWf_put (fun _ => _) _ _ _
    | exact smWf_keep _ _ _
    | exact smWf_putBytes _ _ _
    | exact smWfFrom_filter _ _ _ _
    | exact fun _ => smWf_nil _

theorem State.markUse_keeps {r0 s : State} (hk : Keeps r0 s) (r : KvRec) (epoch : Nat) (slots : List KvSlot) (ms : List KvMove) : Keeps r0 (State.markUse s r epoch slots ms) := by
  rw [State.markUse]
  repeat' first
    | (conv => enter [2, 41]); with_reducible refine Keeps.same ?_
    | (conv => enter [2, 41]); with_reducible refine Keeps.upd ?_ ?_ ?_ ?_ ?_ ?_ ?_ ?_ ?_ ?_ ?_ ?_
    | dsimp only
    | with_reducible assumption
    | with_reducible exact Keeps.refl _
    | with_reducible refine Keeps.ite ?_ ?_
    | with_reducible refine Keeps.foldl ?_ (fun _ _ _ => ?_)
    | with_reducible refine Keeps.foldl1 ?_ (fun _ _ _ => ?_)
    | with_reducible refine Keeps.foldlFormer ?_ (fun _ _ _ => ?_)
    | with_reducible apply State.putFte_keeps
    | split
    | exact id
    | exact smWf_put _ _ _ _
    | exact smWf_put (fun _ => _) _ _ _
    | exact smWf_keep _ _ _
    | exact smWf_putBytes _ _ _
    | exact smWfFrom_filter _ _ _ _
    | exact fun _ => smWf_nil _

theorem State.stewardWalks_keeps {r0 s : State} (hk : Keeps r0 s) (p epoch t : Nat) : Keeps r0 (State.stewardWalks s p epoch t) := by
  rw [State.stewardWalks]
  repeat' first
    | (conv => enter [2, 41]); with_reducible refine Keeps.same ?_
    | (conv => enter [2, 41]); with_reducible refine Keeps.upd ?_ ?_ ?_ ?_ ?_ ?_ ?_ ?_ ?_ ?_ ?_ ?_
    | dsimp only
    | with_reducible assumption
    | with_reducible exact Keeps.refl _
    | with_reducible refine Keeps.ite ?_ ?_
    | with_reducible refine Keeps.foldl ?_ (fun _ _ _ => ?_)
    | with_reducible apply State.fset_keeps
    | with_reducible apply State.kvDie_keeps
    | split
    | exact id
    | exact smWf_put _ _ _ _
    | exact smWf_put (fun _ => _) _ _ _
    | exact smWf_keep _ _ _
    | exact smWf_putBytes _ _ _
    | exact smWfFrom_filter _ _ _ _
    | exact fun _ => smWf_nil _

theorem State.kvRelease_keeps {r0 s : State} (hk : Keeps r0 s) (r : KvRec) (g j : Nat) : Keeps r0 (State.kvRelease s r g j) := by
  rw [State.kvRelease]
  repeat' first
    | (conv => enter [2, 41]); with_reducible refine Keeps.same ?_
    | (conv => enter [2, 41]); with_reducible refine Keeps.upd ?_ ?_ ?_ ?_ ?_ ?_ ?_ ?_ ?_ ?_ ?_ ?_
    | dsimp only
    | with_reducible assumption
    | with_reducible exact Keeps.refl _
    | with_reducible refine Keeps.ite ?_ ?_
    | with_reducible refine Keeps.foldl ?_ (fun _ _ _ => ?_)
    | with_reducible refine Keeps.foldl1 ?_ (fun _ _ _ => ?_)
    | with_reducible refine Keeps.foldlFormer ?_ (fun _ _ _ => ?_)
    | with_reducible apply State.fset_keeps
    | with_reducible apply State.stewardWalks_keeps
    | with_reducible apply State.kvTake_keeps
    | with_reducible apply State.reclaim_keeps
    | with_reducible apply State.kvHub_keeps
    | with_reducible apply State.formStep_keeps
    | with_reducible apply State.count_keeps
    | with_reducible apply State.kvDie_keeps
    | with_reducible apply State.planMoves_keeps
    | with_reducible refine State.planMoves_keepsE ?_ (by with_reducible assumption)
    | with_reducible apply State.markUse_keeps
    | with_reducible apply State.lookUps_keeps
    | with_reducible apply State.bucketLists_keeps
    | with_reducible apply State.hkList_keeps
    | with_reducible apply State.showKv_keeps
    | split
    | exact id
    | exact smWf_put _ _ _ _
    | exact smWf_put (fun _ => _) _ _ _
    | exact smWf_keep _ _ _
    | exact smWf_putBytes _ _ _
    | exact smWfFrom_filter _ _ _ _
    | exact fun _ => smWf_nil _

theorem State.endMove_keeps {r0 s : State} (hk : Keeps r0 s) (r : KvRec) (ok : Bool) (m : KvMove) : Keeps r0 (State.endMove s r ok m) := by
  rw [State.endMove]
  repeat' first
    | (conv => enter [2, 41]); with_reducible refine Keeps.same ?_
    | (conv => enter [2, 41]); with_reducible refine Keeps.upd ?_ ?_ ?_ ?_ ?_ ?_ ?_ ?_ ?_ ?_ ?_ ?_
    | dsimp only
    | with_reducible assumption
    | with_reducible exact Keeps.refl _
    | with_reducible refine Keeps.ite ?_ ?_
    | with_reducible refine Keeps.foldl ?_ (fun _ _ _ => ?_)
    | with_reducible refine Keeps.foldl1 ?_ (fun _ _ _ => ?_)
    | with_reducible refine Keeps.foldlFormer ?_ (fun _ _ _ => ?_)
    | with_reducible apply State.putFte_keeps
    | with_reducible apply State.frameState_keeps
    | with_reducible apply State.putPte_keeps
    | with_reducible apply State.dropRef_keeps
    | with_reducible apply State.count_keeps
    | split
    | exact id
    | exact smWf_put _ _ _ _
    | exact smWf_put (fun _ => _) _ _ _
    | exact smWf_keep _ _ _
    | exact smWf_putBytes _ _ _
    | exact smWfFrom_filter _ _ _ _
    | exact fun _ => smWf_nil _

theorem State.kvRetire_keeps {r0 s : State} (hk : Keeps r0 s) (g j : Nat) (ok : Bool) : Keeps r0 (State.kvRetire s g j ok) := by
  rw [State.kvRetire]
  repeat' first
    | (conv => enter [2, 41]); with_reducible refine Keeps.same ?_
    | (conv => enter [2, 41]); with_reducible refine Keeps.upd ?_ ?_ ?_ ?_ ?_ ?_ ?_ ?_ ?_ ?_ ?_ ?_
    | dsimp only
    | with_reducible assumption
    | with_reducible exact Keeps.refl _
    | with_reducible refine Keeps.ite ?_ ?_
    | with_reducible refine Keeps.foldl ?_ (fun _ _ _ => ?_)
    | with_reducible refine Keeps.foldl1 ?_ (fun _ _ _ => ?_)
    | with_reducible refine Keeps.foldlFormer ?_ (fun _ _ _ => ?_)
    | with_reducible apply State.endSlot_keeps
    | with_reducible apply State.endMove_keeps
    | with_reducible apply State.kvHub_keeps
    | with_reducible apply State.reclaim_keeps
    | with_reducible apply State.showKv_keeps
    | split
    | exact id
    | exact smWf_put _ _ _ _
    | exact smWf_put (fun _ => _) _ _ _
    | exact smWf_keep _ _ _
    | exact smWf_putBytes _ _ _
    | exact smWfFrom_filter _ _ _ _
    | exact fun _ => smWf_nil _

theorem State.kvClear_keeps {r0 s : State} (hk : Keeps r0 s) (r : KvRec) : Keeps r0 (State.kvClear s r) := by
  rw [State.kvClear]
  repeat' first
    | (conv => enter [2, 41]); with_reducible refine Keeps.same ?_
    | (conv => enter [2, 41]); with_reducible refine Keeps.upd ?_ ?_ ?_ ?_ ?_ ?_ ?_ ?_ ?_ ?_ ?_ ?_
    | dsimp only
    | with_reducible assumption
    | with_reducible exact Keeps.refl _
    | with_reducible refine Keeps.ite ?_ ?_
    | with_reducible refine Keeps.foldl ?_ (fun _ _ _ => ?_)
    | with_reducible refine Keeps.foldl1 ?_ (fun _ _ _ => ?_)
    | with_reducible refine Keeps.foldlFormer ?_ (fun _ _ _ => ?_)
    | with_reducible apply State.walkerPut_keeps
    | with_reducible apply State.showKv_keeps
    | split
    | exact id
    | exact smWf_put _ _ _ _
    | exact smWf_put (fun _ => _) _ _ _
    | exact smWf_keep _ _ _
    | exact smWf_putBytes _ _ _
    | exact smWfFrom_filter _ _ _ _
    | exact fun _ => smWf_nil _

theorem State.kvOwe_keeps {r0 s : State} (hk : Keeps r0 s) (x : KvOwed) : Keeps r0 (State.kvOwe s x) := by
  rw [State.kvOwe]
  repeat' first
    | (conv => enter [2, 41]); with_reducible refine Keeps.same ?_
    | (conv => enter [2, 41]); with_reducible refine Keeps.upd ?_ ?_ ?_ ?_ ?_ ?_ ?_ ?_ ?_ ?_ ?_ ?_
    | dsimp only
    | with_reducible assumption
    | with_reducible exact Keeps.refl _
    | with_reducible refine Keeps.ite ?_ ?_
    | with_reducible refine Keeps.foldl ?_ (fun _ _ _ => ?_)
    | with_reducible apply State.complete_keeps
    | split
    | exact id
    | exact smWf_put _ _ _ _
    | exact smWf_put (fun _ => _) _ _ _
    | exact smWf_keep _ _ _
    | exact smWf_putBytes _ _ _
    | exact smWfFrom_filter _ _ _ _
    | exact fun _ => smWf_nil _

theorem State.kvPay_keeps {r0 s : State} (hk : Keeps r0 s) (p : Nat) : Keeps r0 (State.kvPay s p) := by
  rw [State.kvPay]
  repeat' first
    | (conv => enter [2, 41]); with_reducible refine Keeps.same ?_
    | (conv => enter [2, 41]); with_reducible refine Keeps.upd ?_ ?_ ?_ ?_ ?_ ?_ ?_ ?_ ?_ ?_ ?_ ?_
    | dsimp only
    | with_reducible assumption
    | with_reducible exact Keeps.refl _
    | with_reducible refine Keeps.ite ?_ ?_
    | with_reducible refine Keeps.foldl ?_ (fun _ _ _ => ?_)
    | with_reducible refine Keeps.foldl1 ?_ (fun _ _ _ => ?_)
    | with_reducible refine Keeps.foldlFormer ?_ (fun _ _ _ => ?_)
    | with_reducible apply State.kvOwe_keeps
    | split
    | exact id
    | exact smWf_put _ _ _ _
    | exact smWf_put (fun _ => _) _ _ _
    | exact smWf_keep _ _ _
    | exact smWf_putBytes _ _ _
    | exact smWfFrom_filter _ _ _ _
    | exact fun _ => smWf_nil _

theorem State.kvDiscard_keeps {r0 s : State} (hk : Keeps r0 s) (r : KvRec) : Keeps r0 (State.kvDiscard s r) := by
  rw [State.kvDiscard]
  repeat' first
    | (conv => enter [2, 41]); with_reducible refine Keeps.same ?_
    | (conv => enter [2, 41]); with_reducible refine Keeps.upd ?_ ?_ ?_ ?_ ?_ ?_ ?_ ?_ ?_ ?_ ?_ ?_
    | dsimp only
    | with_reducible assumption
    | with_reducible exact Keeps.refl _
    | with_reducible refine Keeps.ite ?_ ?_
    | with_reducible refine Keeps.foldl ?_ (fun _ _ _ => ?_)
    | with_reducible refine Keeps.foldl1 ?_ (fun _ _ _ => ?_)
    | with_reducible refine Keeps.foldlFormer ?_ (fun _ _ _ => ?_)
    | with_reducible apply State.kvOwe_keeps
    | with_reducible apply State.kvClear_keeps
    | with_reducible apply State.kvHub_keeps
    | split
    | exact id
    | exact smWf_put _ _ _ _
    | exact smWf_put (fun _ => _) _ _ _
    | exact smWf_keep _ _ _
    | exact smWf_putBytes _ _ _
    | exact smWfFrom_filter _ _ _ _
    | exact fun _ => smWf_nil _

theorem State.kvInit_keeps {r0 s : State} (hk : Keeps r0 s) (r : KvRec) : Keeps r0 (State.kvInit s r) := by
  rw [State.kvInit]
  repeat' first
    | (conv => enter [2, 41]); with_reducible refine Keeps.same ?_
    | (conv => enter [2, 41]); with_reducible refine Keeps.upd ?_ ?_ ?_ ?_ ?_ ?_ ?_ ?_ ?_ ?_ ?_ ?_
    | dsimp only
    | with_reducible assumption
    | with_reducible exact Keeps.refl _
    | with_reducible refine Keeps.ite ?_ ?_
    | with_reducible refine Keeps.foldl ?_ (fun _ _ _ => ?_)
    | with_reducible refine Keeps.foldl1 ?_ (fun _ _ _ => ?_)
    | with_reducible refine Keeps.foldlFormer ?_ (fun _ _ _ => ?_)
    | with_reducible apply State.walkerPut_keeps
    | with_reducible apply State.fset_keeps
    | with_reducible apply State.kvClear_keeps
    | split
    | exact id
    | exact smWf_put _ _ _ _
    | exact smWf_put (fun _ => _) _ _ _
    | exact smWf_keep _ _ _
    | exact smWf_putBytes _ _ _
    | exact smWfFrom_filter _ _ _ _
    | exact fun _ => smWf_nil _

theorem State.kvNone_keeps {r0 s : State} (hk : Keeps r0 s)  : Keeps r0 (State.kvNone s) := by
  rw [State.kvNone]
  repeat' first
    | (conv => enter [2, 41]); with_reducible refine Keeps.same ?_
    | (conv => enter [2, 41]); with_reducible refine Keeps.upd ?_ ?_ ?_ ?_ ?_ ?_ ?_ ?_ ?_ ?_ ?_ ?_
    | dsimp only
    | with_reducible assumption
    | with_reducible exact Keeps.refl _
    | with_reducible refine Keeps.ite ?_ ?_
    | with_reducible refine Keeps.foldl ?_ (fun _ _ _ => ?_)
    | with_reducible refine Keeps.foldl1 ?_ (fun _ _ _ => ?_)
    | with_reducible refine Keeps.foldlFormer ?_ (fun _ _ _ => ?_)
    | with_reducible apply State.wr_keeps
    | with_reducible apply State.fset_keeps
    | split
    | exact id
    | exact smWf_put _ _ _ _
    | exact smWf_put (fun _ => _) _ _ _
    | exact smWf_keep _ _ _
    | exact smWf_putBytes _ _ _
    | exact smWfFrom_filter _ _ _ _
    | exact fun _ => smWf_nil _

theorem State.ringWrite_keeps {r0 s : State} (hk : Keeps r0 s) (p : Nat) (tail head : Option Nat) : Keeps r0 (State.ringWrite s p tail head) := by
  unfold State.ringWrite
  repeat' first
    | (conv => enter [2, 41]); with_reducible refine Keeps.same ?_
    | (conv => enter [2, 41]); with_reducible refine Keeps.upd ?_ ?_ ?_ ?_ ?_ ?_ ?_ ?_ ?_ ?_ ?_ ?_
    | dsimp only
    | with_reducible assumption
    | with_reducible exact Keeps.refl _
    | with_reducible refine Keeps.ite ?_ ?_
    | with_reducible refine Keeps.foldl ?_ (fun _ _ _ => ?_)
    | with_reducible apply State.fset_keeps
    | with_reducible apply State.count_keeps
    | with_reducible apply State.kvPay_keeps
    | split
    | exact id
    | exact smWf_put _ _ _ _
    | exact smWf_put (fun _ => _) _ _ _
    | exact smWf_keep _ _ _
    | exact smWf_putBytes _ _ _
    | exact smWfFrom_filter _ _ _ _
    | exact fun _ => smWf_nil _

end Sys2Proof.Machine
end

