-- ==== Sys2Proof/Laws/Keeps/Units.lean ====
section
/-! SUPPORT. Every operation of Machine/Units.lean that answers a state keeps the part, the queue and the canonical form. -/

namespace Sys2Proof.Machine

theorem Keeps.foldlIo {α : Type} {s : State} {a : Io} {f : Io → α → Io} {l : List α} (ha : Keeps s a.s)
    (hf : ∀ t x, Keeps s t.s → Keeps s (f t x).s) : Keeps s (l.foldl f a).s := by
  induction l generalizing a with
  | nil => exact ha
  | cons x l ih => exact ih (hf _ _ ha)

theorem Keeps.foldlIo1 {α β : Type} {s : State} {a : Io × β} {f : Io × β → α → Io × β} {l : List α} (ha : Keeps s a.1.s)
    (hf : ∀ t x, Keeps s t.1.s → Keeps s (f t x).1.s) : Keeps s (l.foldl f a).1.s := by
  induction l generalizing a with
  | nil => exact ha
  | cons x l ih => exact ih (hf _ _ ha)

theorem State.nextEntry_keeps {r0 s : State} (hk : Keeps r0 s) (k : Nat) : Keeps r0 (State.nextEntry s k) := by
  rw [State.nextEntry]
  repeat' first
    | (conv => enter [2, 41]); with_reducible refine Keeps.same ?_
    | (conv => enter [2, 41]); with_reducible refine Keeps.upd ?_ ?_ ?_ ?_ ?_ ?_ ?_ ?_ ?_ ?_ ?_ ?_
    | dsimp only
    | with_reducible assumption
    | with_reducible exact Keeps.refl _
    | with_reducible refine Keeps.ite ?_ ?_
    | with_reducible refine Keeps.foldl ?_ (fun _ _ _ => ?_)
    | with_reducible apply State.setRun_keeps
    | split
    | exact id
    | exact smWf_put _ _ _ _
    | exact smWf_put (fun _ => _) _ _ _
    | exact smWf_keep _ _ _
    | exact smWf_putBytes _ _ _
    | exact smWfFrom_filter _ _ _ _
    | exact fun _ => smWf_nil _

theorem State.endHere_keeps {r0 s : State} (hk : Keeps r0 s) (k beats stalls : Nat) : Keeps r0 (State.endHere s k beats stalls) := by
  rw [State.endHere]
  repeat' first
    | (conv => enter [2, 41]); with_reducible refine Keeps.same ?_
    | (conv => enter [2, 41]); with_reducible refine Keeps.upd ?_ ?_ ?_ ?_ ?_ ?_ ?_ ?_ ?_ ?_ ?_ ?_
    | dsimp only
    | with_reducible assumption
    | with_reducible exact Keeps.refl _
    | with_reducible refine Keeps.ite ?_ ?_
    | with_reducible refine Keeps.foldl ?_ (fun _ _ _ => ?_)
    | with_reducible apply State.endRun_keeps
    | split
    | exact id
    | exact smWf_put _ _ _ _
    | exact smWf_put (fun _ => _) _ _ _
    | exact smWf_keep _ _ _
    | exact smWf_putBytes _ _ _
    | exact smWfFrom_filter _ _ _ _
    | exact fun _ => smWf_nil _

theorem State.captureUnit_keeps {r0 s : State} (hk : Keeps r0 s) (a : Addr) (code pos item : Nat) : Keeps r0 (State.captureUnit s a code pos item) := by
  rw [State.captureUnit]
  repeat' first
    | (conv => enter [2, 41]); with_reducible refine Keeps.same ?_
    | (conv => enter [2, 41]); with_reducible refine Keeps.upd ?_ ?_ ?_ ?_ ?_ ?_ ?_ ?_ ?_ ?_ ?_ ?_
    | dsimp only
    | with_reducible assumption
    | with_reducible exact Keeps.refl _
    | with_reducible refine Keeps.ite ?_ ?_
    | with_reducible refine Keeps.foldl ?_ (fun _ _ _ => ?_)
    | with_reducible apply State.capture_keeps
    | split
    | exact id
    | exact smWf_put _ _ _ _
    | exact smWf_put (fun _ => _) _ _ _
    | exact smWf_keep _ _ _
    | exact smWf_putBytes _ _ _
    | exact smWfFrom_filter _ _ _ _
    | exact fun _ => smWf_nil _

theorem State.badEntry_keeps {r0 s : State} (hk : Keeps r0 s) (r : TaskRun) (o : UnitObs) (code : Nat) (a : Addr) (pos item : Nat) : Keeps r0 (State.badEntry s r o code a pos item) := by
  rw [State.badEntry]
  repeat' first
    | (conv => enter [2, 41]); with_reducible refine Keeps.same ?_
    | (conv => enter [2, 41]); with_reducible refine Keeps.upd ?_ ?_ ?_ ?_ ?_ ?_ ?_ ?_ ?_ ?_ ?_ ?_
    | dsimp only
    | with_reducible assumption
    | with_reducible exact Keeps.refl _
    | with_reducible refine Keeps.ite ?_ ?_
    | with_reducible refine Keeps.foldl ?_ (fun _ _ _ => ?_)
    | with_reducible apply State.raiseTask_keeps
    | with_reducible apply State.captureUnit_keeps
    | with_reducible apply State.withhold_keeps
    | with_reducible apply State.endHere_keeps
    | split
    | exact id
    | exact smWf_put _ _ _ _
    | exact smWf_put (fun _ => _) _ _ _
    | exact smWf_keep _ _ _
    | exact smWf_putBytes _ _ _
    | exact smWfFrom_filter _ _ _ _
    | exact fun _ => smWf_nil _

theorem State.checkerFault_keeps {r0 s : State} (hk : Keeps r0 s) (r : TaskRun) (code : Nat) (a : Addr) (pos item : Nat) : Keeps r0 (State.checkerFault s r code a pos item) := by
  rw [State.checkerFault]
  repeat' first
    | (conv => enter [2, 41]); with_reducible refine Keeps.same ?_
    | (conv => enter [2, 41]); with_reducible refine Keeps.upd ?_ ?_ ?_ ?_ ?_ ?_ ?_ ?_ ?_ ?_ ?_ ?_
    | dsimp only
    | with_reducible assumption
    | with_reducible exact Keeps.refl _
    | with_reducible refine Keeps.ite ?_ ?_
    | with_reducible refine Keeps.foldl ?_ (fun _ _ _ => ?_)
    | with_reducible apply State.raiseTask_keeps
    | with_reducible apply State.captureUnit_keeps
    | with_reducible apply State.withhold_keeps
    | with_reducible apply State.strikeTask_keeps
    | split
    | exact id
    | exact smWf_put _ _ _ _
    | exact smWf_put (fun _ => _) _ _ _
    | exact smWf_keep _ _ _
    | exact smWf_putBytes _ _ _
    | exact smWfFrom_filter _ _ _ _
    | exact fun _ => smWf_nil _

theorem State.storeEcc_keeps {r0 s : State} (hk : Keeps r0 s) (r : TaskRun) (o : UnitObs) : Keeps r0 (State.storeEcc s r o) := by
  rw [State.storeEcc]
  repeat' first
    | (conv => enter [2, 41]); with_reducible refine Keeps.same ?_
    | (conv => enter [2, 41]); with_reducible refine Keeps.upd ?_ ?_ ?_ ?_ ?_ ?_ ?_ ?_ ?_ ?_ ?_ ?_
    | dsimp only
    | with_reducible assumption
    | with_reducible exact Keeps.refl _
    | with_reducible refine Keeps.ite ?_ ?_
    | with_reducible refine Keeps.foldl ?_ (fun _ _ _ => ?_)
    | with_reducible refine Keeps.foldl1 ?_ (fun _ _ _ => ?_)
    | with_reducible refine Keeps.foldlIo ?_ (fun _ _ _ => ?_)
    | with_reducible refine Keeps.foldlIo1 ?_ (fun _ _ _ => ?_)
    | with_reducible apply State.raiseTask_keeps
    | with_reducible apply State.count_keeps
    | with_reducible apply State.captureUnit_keeps
    | with_reducible apply State.withhold_keeps
    | split
    | exact id
    | exact smWf_put _ _ _ _
    | exact smWf_put (fun _ => _) _ _ _
    | exact smWf_keep _ _ _
    | exact smWf_putBytes _ _ _
    | exact smWfFrom_filter _ _ _ _
    | exact fun _ => smWf_nil _

theorem State.countOnce_keeps {r0 s : State} (hk : Keeps r0 s) (r : TaskRun) (code : Nat) (f : Fld) (n : Nat) : Keeps r0 (State.countOnce s r code f n) := by
  rw [State.countOnce]
  repeat' first
    | (conv => enter [2, 41]); with_reducible refine Keeps.same ?_
    | (conv => enter [2, 41]); with_reducible refine Keeps.upd ?_ ?_ ?_ ?_ ?_ ?_ ?_ ?_ ?_ ?_ ?_ ?_
    | dsimp only
    | with_reducible assumption
    | with_reducible exact Keeps.refl _
    | with_reducible refine Keeps.ite ?_ ?_
    | with_reducible refine Keeps.foldl ?_ (fun _ _ _ => ?_)
    | with_reducible apply State.count_keeps
    | with_reducible apply State.raiseOncePerTask_keeps
    | split
    | exact id
    | exact smWf_put _ _ _ _
    | exact smWf_put (fun _ => _) _ _ _
    | exact smWf_keep _ _ _
    | exact smWf_putBytes _ _ _
    | exact smWfFrom_filter _ _ _ _
    | exact fun _ => smWf_nil _

theorem State.chkFail_keeps {r0 s : State} (hk : Keeps r0 s) (r : TaskRun) (code : Nat) : Keeps r0 (State.chkFail s r code) := by
  rw [State.chkFail]
  repeat' first
    | (conv => enter [2, 41]); with_reducible refine Keeps.same ?_
    | (conv => enter [2, 41]); with_reducible refine Keeps.upd ?_ ?_ ?_ ?_ ?_ ?_ ?_ ?_ ?_ ?_ ?_ ?_
    | dsimp only
    | with_reducible assumption
    | with_reducible exact Keeps.refl _
    | with_reducible refine Keeps.ite ?_ ?_
    | with_reducible refine Keeps.foldl ?_ (fun _ _ _ => ?_)
    | with_reducible apply State.raiseChk_keeps
    | with_reducible apply State.count_keeps
    | with_reducible apply State.withhold_keeps
    | split
    | exact id
    | exact smWf_put _ _ _ _
    | exact smWf_put (fun _ => _) _ _ _
    | exact smWf_keep _ _ _
    | exact smWf_putBytes _ _ _
    | exact smWfFrom_filter _ _ _ _
    | exact fun _ => smWf_nil _

theorem State.verify_keeps {r0 s : State} (hk : Keeps r0 s) (r : TaskRun) (ranges : List (Nat × Nat)) : Keeps r0 (State.verify s r ranges) := by
  rw [State.verify]
  repeat' first
    | (conv => enter [2, 41]); with_reducible refine Keeps.same ?_
    | (conv => enter [2, 41]); with_reducible refine Keeps.upd ?_ ?_ ?_ ?_ ?_ ?_ ?_ ?_ ?_ ?_ ?_ ?_
    | dsimp only
    | with_reducible assumption
    | with_reducible exact Keeps.refl _
    | with_reducible refine Keeps.ite ?_ ?_
    | with_reducible refine Keeps.foldl ?_ (fun _ _ _ => ?_)
    | with_reducible refine Keeps.foldl1 ?_ (fun _ _ _ => ?_)
    | with_reducible refine Keeps.foldlIo ?_ (fun _ _ _ => ?_)
    | with_reducible refine Keeps.foldlIo1 ?_ (fun _ _ _ => ?_)
    | with_reducible apply State.chkFail_keeps
    | split
    | exact id
    | exact smWf_put _ _ _ _
    | exact smWf_put (fun _ => _) _ _ _
    | exact smWf_keep _ _ _
    | exact smWf_putBytes _ _ _
    | exact smWfFrom_filter _ _ _ _
    | exact fun _ => smWf_nil _

theorem State.freshBlocks_keeps {r0 s : State} (hk : Keeps r0 s) (r : TaskRun) (off n : Nat) : Keeps r0 (State.freshBlocks s r off n) := by
  rw [State.freshBlocks]
  repeat' first
    | (conv => enter [2, 41]); with_reducible refine Keeps.same ?_
    | (conv => enter [2, 41]); with_reducible refine Keeps.upd ?_ ?_ ?_ ?_ ?_ ?_ ?_ ?_ ?_ ?_ ?_ ?_
    | dsimp only
    | with_reducible assumption
    | with_reducible exact Keeps.refl _
    | with_reducible refine Keeps.ite ?_ ?_
    | with_reducible refine Keeps.foldl ?_ (fun _ _ _ => ?_)
    | with_reducible refine Keeps.foldl1 ?_ (fun _ _ _ => ?_)
    | with_reducible refine Keeps.foldlIo ?_ (fun _ _ _ => ?_)
    | with_reducible refine Keeps.foldlIo1 ?_ (fun _ _ _ => ?_)
    | with_reducible apply State.setStErr_keeps
    | split
    | exact id
    | exact smWf_put _ _ _ _
    | exact smWf_put (fun _ => _) _ _ _
    | exact smWf_keep _ _ _
    | exact smWf_putBytes _ _ _
    | exact smWfFrom_filter _ _ _ _
    | exact fun _ => smWf_nil _

theorem State.unitWrite_keeps {r0 s : State} (hk : Keeps r0 s) (r : TaskRun) (off : Nat) (bs : List Byte) : Keeps r0 (State.unitWrite s r off bs) := by
  rw [State.unitWrite]
  repeat' first
    | (conv => enter [2, 41]); with_reducible refine Keeps.same ?_
    | (conv => enter [2, 41]); with_reducible refine Keeps.upd ?_ ?_ ?_ ?_ ?_ ?_ ?_ ?_ ?_ ?_ ?_ ?_
    | dsimp only
    | with_reducible assumption
    | with_reducible exact Keeps.refl _
    | with_reducible refine Keeps.ite ?_ ?_
    | with_reducible refine Keeps.foldl ?_ (fun _ _ _ => ?_)
    | with_reducible apply State.stPut_keeps
    | with_reducible apply State.freshBlocks_keeps
    | split
    | exact id
    | exact smWf_put _ _ _ _
    | exact smWf_put (fun _ => _) _ _ _
    | exact smWf_keep _ _ _
    | exact smWf_putBytes _ _ _
    | exact smWfFrom_filter _ _ _ _
    | exact fun _ => smWf_nil _

theorem State.poisonBlocks_keeps {r0 s : State} (hk : Keeps r0 s) (r : TaskRun) (off n : Nat) (gen : List Nat) : Keeps r0 (State.poisonBlocks s r off n gen) := by
  rw [State.poisonBlocks]
  repeat' first
    | (conv => enter [2, 41]); with_reducible refine Keeps.same ?_
    | (conv => enter [2, 41]); with_reducible refine Keeps.upd ?_ ?_ ?_ ?_ ?_ ?_ ?_ ?_ ?_ ?_ ?_ ?_
    | dsimp only
    | with_reducible assumption
    | with_reducible exact Keeps.refl _
    | with_reducible refine Keeps.ite ?_ ?_
    | with_reducible refine Keeps.foldl ?_ (fun _ _ _ => ?_)
    | with_reducible refine Keeps.foldl1 ?_ (fun _ _ _ => ?_)
    | with_reducible refine Keeps.foldlIo ?_ (fun _ _ _ => ?_)
    | with_reducible refine Keeps.foldlIo1 ?_ (fun _ _ _ => ?_)
    | with_reducible apply State.raiseChk_keeps
    | with_reducible apply State.setStErr_keeps
    | with_reducible apply State.withhold_keeps
    | split
    | exact id
    | exact smWf_put _ _ _ _
    | exact smWf_put (fun _ => _) _ _ _
    | exact smWf_keep _ _ _
    | exact smWf_putBytes _ _ _
    | exact smWfFrom_filter _ _ _ _
    | exact fun _ => smWf_nil _

theorem Io.get_keeps {r0 : State} {x : Io} (hk : Keeps r0 x.s) (k e a n : Nat) : Keeps r0 (Io.get x k e a n).1.s := by
  rw [Io.get]
  repeat' first
    | (conv => enter [2, 41]); with_reducible refine Keeps.same ?_
    | (conv => enter [2, 41]); with_reducible refine Keeps.upd ?_ ?_ ?_ ?_ ?_ ?_ ?_ ?_ ?_ ?_ ?_ ?_
    | dsimp only
    | with_reducible assumption
    | with_reducible exact Keeps.refl _
    | with_reducible refine Keeps.ite ?_ ?_
    | with_reducible refine Keeps.foldl ?_ (fun _ _ _ => ?_)
    | with_reducible refine Keeps.foldl1 ?_ (fun _ _ _ => ?_)
    | with_reducible refine Keeps.foldlIo ?_ (fun _ _ _ => ?_)
    | with_reducible refine Keeps.foldlIo1 ?_ (fun _ _ _ => ?_)
    | with_reducible apply State.portRead_keeps
    | with_reducible refine State.portRead_keepsE ?_ (by with_reducible assumption)
    | with_reducible apply Former.take_keeps
    | split
    | exact id
    | exact smWf_put _ _ _ _
    | exact smWf_put (fun _ => _) _ _ _
    | exact smWf_keep _ _ _
    | exact smWf_putBytes _ _ _
    | exact smWfFrom_filter _ _ _ _
    | exact fun _ => smWf_nil _

theorem Io.get_keepsE {r0 : State} {x : Io} (hk : Keeps r0 x.s) {k e a n : Nat} {t_ : Io} {x_ : List Byte} (e_ : Io.get x k e a n = (t_, x_)) : Keeps r0 t_.s := by
  have g := Io.get_keeps hk k e a n
  rw [e_] at g
  exact g

theorem Io.put_keeps {r0 : State} {x : Io} (hk : Keeps r0 x.s) (k e a : Nat) (bs : List Byte) : Keeps r0 (Io.put x k e a bs).s := by
  rw [Io.put]
  repeat' first
    | (conv => enter [2, 41]); with_reducible refine Keeps.same ?_
    | (conv => enter [2, 41]); with_reducible refine Keeps.upd ?_ ?_ ?_ ?_ ?_ ?_ ?_ ?_ ?_ ?_ ?_ ?_
    | dsimp only
    | with_reducible assumption
    | with_reducible exact Keeps.refl _
    | with_reducible refine Keeps.ite ?_ ?_
    | with_reducible refine Keeps.foldl ?_ (fun _ _ _ => ?_)
    | with_reducible refine Keeps.foldl1 ?_ (fun _ _ _ => ?_)
    | with_reducible refine Keeps.foldlIo ?_ (fun _ _ _ => ?_)
    | with_reducible refine Keeps.foldlIo1 ?_ (fun _ _ _ => ?_)
    | with_reducible apply State.portWrite_keeps
    | with_reducible refine State.portWrite_keepsE ?_ (by with_reducible assumption)
    | with_reducible apply Former.take_keeps
    | split
    | exact id
    | exact smWf_put _ _ _ _
    | exact smWf_put (fun _ => _) _ _ _
    | exact smWf_keep _ _ _
    | exact smWf_putBytes _ _ _
    | exact smWfFrom_filter _ _ _ _
    | exact fun _ => smWf_nil _

theorem Io.combine_keeps {r0 : State} {x : Io} (hk : Keeps r0 x.s) (k e a n : Nat) (f : Nat → List Byte → List Byte) : Keeps r0 (Io.combine x k e a n f).s := by
  rw [Io.combine]
  repeat' first
    | (conv => enter [2, 41]); with_reducible refine Keeps.same ?_
    | (conv => enter [2, 41]); with_reducible refine Keeps.upd ?_ ?_ ?_ ?_ ?_ ?_ ?_ ?_ ?_ ?_ ?_ ?_
    | dsimp only
    | with_reducible assumption
    | with_reducible exact Keeps.refl _
    | with_reducible refine Keeps.ite ?_ ?_
    | with_reducible refine Keeps.foldl ?_ (fun _ _ _ => ?_)
    | with_reducible refine Keeps.foldl1 ?_ (fun _ _ _ => ?_)
    | with_reducible refine Keeps.foldlIo ?_ (fun _ _ _ => ?_)
    | with_reducible refine Keeps.foldlIo1 ?_ (fun _ _ _ => ?_)
    | with_reducible apply State.portCombine_keeps
    | split
    | exact id
    | exact smWf_put _ _ _ _
    | exact smWf_put (fun _ => _) _ _ _
    | exact smWf_keep _ _ _
    | exact smWf_putBytes _ _ _
    | exact smWfFrom_filter _ _ _ _
    | exact fun _ => smWf_nil _

end Sys2Proof.Machine
end

