-- ==== Sys2Proof/Laws/Keeps/Pre.lean ====
section
/-! SUPPORT. Every operation of Machine/Pre.lean that answers a state keeps the part, the queue and the canonical form. -/

namespace Sys2Proof.Machine

theorem State.preEvent_keeps {r0 s : State} (hk : Keeps r0 s) (code : Nat) (decoded : Bool) (id view : Nat) : Keeps r0 (State.preEvent s code decoded id view) := by
  rw [State.preEvent]
  repeat' first
    | (conv => enter [2, 41]); with_reducible refine Keeps.same ?_
    | (conv => enter [2, 41]); with_reducible refine Keeps.upd ?_ ?_ ?_ ?_ ?_ ?_ ?_ ?_ ?_ ?_ ?_ ?_
    | dsimp only
    | with_reducible assumption
    | with_reducible exact Keeps.refl _
    | with_reducible refine Keeps.ite ?_ ?_
    | with_reducible refine Keeps.foldl ?_ (fun _ _ _ => ?_)
    | with_reducible apply State.raise_keeps
    | with_reducible apply State.capture_keeps
    | split
    | exact id
    | exact smWf_put _ _ _ _
    | exact smWf_put (fun _ => _) _ _ _
    | exact smWf_keep _ _ _
    | exact smWf_putBytes _ _ _
    | exact smWfFrom_filter _ _ _ _
    | exact fun _ => smWf_nil _

theorem State.render_keeps {r0 s : State} (hk : Keeps r0 s) (p : Profile) (ws : List Nat) (img : Nat → Nat → Nat → Nat) (crops : List (Nat × Nat × Nat × Nat)) (base capture source id view ref : Nat) : Keeps r0 (State.render s p ws img crops base capture source id view ref).1 := by
  rw [State.render]
  repeat' first
    | (conv => enter [2, 41]); with_reducible refine Keeps.same ?_
    | (conv => enter [2, 41]); with_reducible refine Keeps.upd ?_ ?_ ?_ ?_ ?_ ?_ ?_ ?_ ?_ ?_ ?_ ?_
    | dsimp only
    | with_reducible assumption
    | with_reducible exact Keeps.refl _
    | with_reducible refine Keeps.ite ?_ ?_
    | with_reducible refine Keeps.foldl ?_ (fun _ _ _ => ?_)
    | with_reducible refine Keeps.foldl1 ?_ (fun _ _ _ => ?_)
    | with_reducible apply State.draw_keeps2
    | with_reducible refine State.draw_keepsE ?_ (by with_reducible assumption)
    | with_reducible apply State.count_keeps
    | with_reducible apply State.preEvent_keeps
    | with_reducible apply State.capture_keeps
    | split
    | exact id
    | exact smWf_put _ _ _ _
    | exact smWf_put (fun _ => _) _ _ _
    | exact smWf_keep _ _ _
    | exact smWf_putBytes _ _ _
    | exact smWfFrom_filter _ _ _ _
    | exact fun _ => smWf_nil _

theorem State.render_keepsE {r0 : State} {s : State} (hk : Keeps r0 s) {p : Profile} {ws : List Nat} {img : Nat → Nat → Nat → Nat} {crops : List (Nat × Nat × Nat × Nat)} {base capture source id view ref : Nat} {t_ : State} {x_ : List Byte} (e_ : State.render s p ws img crops base capture source id view ref = (t_, x_)) : Keeps r0 t_ := by
  have g := State.render_keeps hk p ws img crops base capture source id view ref
  rw [e_] at g
  exact g

theorem State.storeOut_keeps {r0 s : State} (hk : Keeps r0 s) (x : PicOut) : Keeps r0 (State.storeOut s x) := by
  rw [State.storeOut]
  repeat' first
    | (conv => enter [2, 41]); with_reducible refine Keeps.same ?_
    | (conv => enter [2, 41]); with_reducible refine Keeps.upd ?_ ?_ ?_ ?_ ?_ ?_ ?_ ?_ ?_ ?_ ?_ ?_
    | dsimp only
    | with_reducible assumption
    | with_reducible exact Keeps.refl _
    | with_reducible refine Keeps.ite ?_ ?_
    | with_reducible refine Keeps.foldl ?_ (fun _ _ _ => ?_)
    | with_reducible refine Keeps.foldl1 ?_ (fun _ _ _ => ?_)
    | with_reducible apply State.poke_keeps
    | with_reducible apply Former.take_keeps
    | with_reducible apply State.raise_keeps
    | with_reducible apply State.locSetChk_keeps
    | split
    | exact id
    | exact smWf_put _ _ _ _
    | exact smWf_put (fun _ => _) _ _ _
    | exact smWf_keep _ _ _
    | exact smWf_putBytes _ _ _
    | exact smWfFrom_filter _ _ _ _
    | exact fun _ => smWf_nil _

theorem State.pipeFaults_keeps {r0 s : State} (hk : Keeps r0 s) (decoded : Bool) (id view : Nat) (poisoned : Bool) (eccFix : Nat) (eccBad copies : Bool) : Keeps r0 (State.pipeFaults s decoded id view poisoned eccFix eccBad copies).1 := by
  rw [State.pipeFaults]
  repeat' first
    | (conv => enter [2, 41]); with_reducible refine Keeps.same ?_
    | (conv => enter [2, 41]); with_reducible refine Keeps.upd ?_ ?_ ?_ ?_ ?_ ?_ ?_ ?_ ?_ ?_ ?_ ?_
    | dsimp only
    | with_reducible assumption
    | with_reducible exact Keeps.refl _
    | with_reducible refine Keeps.ite ?_ ?_
    | with_reducible refine Keeps.foldl ?_ (fun _ _ _ => ?_)
    | with_reducible refine Keeps.foldl1 ?_ (fun _ _ _ => ?_)
    | with_reducible apply State.preEvent_keeps
    | with_reducible apply State.count_keeps
    | split
    | exact id
    | exact smWf_put _ _ _ _
    | exact smWf_put (fun _ => _) _ _ _
    | exact smWf_keep _ _ _
    | exact smWf_putBytes _ _ _
    | exact smWfFrom_filter _ _ _ _
    | exact fun _ => smWf_nil _

theorem State.pipeFaults_keepsE {r0 : State} {s : State} (hk : Keeps r0 s) {decoded : Bool} {id view : Nat} {poisoned : Bool} {eccFix : Nat} {eccBad copies : Bool} {t_ : State} {x_ : Bool} (e_ : State.pipeFaults s decoded id view poisoned eccFix eccBad copies = (t_, x_)) : Keeps r0 t_ := by
  have g := State.pipeFaults_keeps hk decoded id view poisoned eccFix eccBad copies
  rw [e_] at g
  exact g

theorem State.showLoad_keeps {r0 s : State} (hk : Keeps r0 s)  : Keeps r0 (State.showLoad s) := by
  rw [State.showLoad]
  repeat' first
    | (conv => enter [2, 41]); with_reducible refine Keeps.same ?_
    | (conv => enter [2, 41]); with_reducible refine Keeps.upd ?_ ?_ ?_ ?_ ?_ ?_ ?_ ?_ ?_ ?_ ?_ ?_
    | dsimp only
    | with_reducible assumption
    | with_reducible exact Keeps.refl _
    | with_reducible refine Keeps.ite ?_ ?_
    | with_reducible refine Keeps.foldl ?_ (fun _ _ _ => ?_)
    | with_reducible apply State.fset_keeps
    | with_reducible apply State.raise_keeps
    | split
    | exact id
    | exact smWf_put _ _ _ _
    | exact smWf_put (fun _ => _) _ _ _
    | exact smWf_keep _ _ _
    | exact smWf_putBytes _ _ _
    | exact smWfFrom_filter _ _ _ _
    | exact fun _ => smWf_nil _

end Sys2Proof.Machine
end

