-- ==== Sys2Proof/Laws/Keeps/Track.lean ====
section
/-! SUPPORT. Every operation of Machine/Track.lean that answers a state keeps the part, the queue and the canonical form. -/

namespace Sys2Proof.Machine

theorem Keeps.foldlUpd {α : Type} {s : State} {a : Upd} {f : Upd → α → Upd} {l : List α} (ha : Keeps s a.s)
    (hf : ∀ t x, Keeps s t.s → Keeps s (f t x).s) : Keeps s (l.foldl f a).s := by
  induction l generalizing a with
  | nil => exact ha
  | cons x l ih => exact ih (hf _ _ ha)

theorem Keeps.foldlUpd1 {α β : Type} {s : State} {a : Upd × β} {f : Upd × β → α → Upd × β} {l : List α} (ha : Keeps s a.1.s)
    (hf : ∀ t x, Keeps s t.1.s → Keeps s (f t x).1.s) : Keeps s (l.foldl f a).1.s := by
  induction l generalizing a with
  | nil => exact ha
  | cons x l ih => exact ih (hf _ _ ha)

theorem State.trkEvent_keeps {r0 s : State} (hk : Keeps r0 s) (code k : Nat) : Keeps r0 (State.trkEvent s code k) := by
  rw [State.trkEvent]
  repeat' first
    | (conv => enter [2, 41]); with_reducible refine Keeps.same ?_
    | (conv => enter [2, 41]); with_reducible refine Keeps.upd ?_ ?_ ?_ ?_ ?_ ?_ ?_ ?_ ?_ ?_ ?_ ?_
    | dsimp only
    | with_reducible assumption
    | with_reducible exact Keeps.refl _
    | with_reducible refine Keeps.ite ?_ ?_
    | with_reducible refine Keeps.foldl ?_ (fun _ _ _ => ?_)
    | with_reducible apply State.raise_keeps
    | with_reducible apply State.capture_keeps
    | split
    | exact id
    | exact smWf_put _ _ _ _
    | exact smWf_put (fun _ => _) _ _ _
    | exact smWf_keep _ _ _
    | exact smWf_putBytes _ _ _
    | exact smWfFrom_filter _ _ _ _
    | exact fun _ => smWf_nil _

theorem State.trkPut_keeps {r0 s : State} (hk : Keeps r0 s) (off : Nat) (bs : List Byte) : Keeps r0 (State.trkPut s off bs) := by
  rw [State.trkPut]
  repeat' first
    | (conv => enter [2, 41]); with_reducible refine Keeps.same ?_
    | (conv => enter [2, 41]); with_reducible refine Keeps.upd ?_ ?_ ?_ ?_ ?_ ?_ ?_ ?_ ?_ ?_ ?_ ?_
    | dsimp only
    | with_reducible assumption
    | with_reducible exact Keeps.refl _
    | with_reducible refine Keeps.ite ?_ ?_
    | with_reducible refine Keeps.foldl ?_ (fun _ _ _ => ?_)
    | split
    | exact id
    | exact smWf_put _ _ _ _
    | exact smWf_put (fun _ => _) _ _ _
    | exact smWf_keep _ _ _
    | exact smWf_putBytes _ _ _
    | exact smWfFrom_filter _ _ _ _
    | exact fun _ => smWf_nil _

theorem Upd.once__keeps {r0 : State} {z : Upd} (hk : Keeps r0 z.s) (code : Nat) : Keeps r0 (Upd.once_ z code).s := by
  rw [Upd.once_]
  repeat' first
    | (conv => enter [2, 41]); with_reducible refine Keeps.same ?_
    | (conv => enter [2, 41]); with_reducible refine Keeps.upd ?_ ?_ ?_ ?_ ?_ ?_ ?_ ?_ ?_ ?_ ?_ ?_
    | dsimp only
    | with_reducible assumption
    | with_reducible exact Keeps.refl _
    | with_reducible refine Keeps.ite ?_ ?_
    | with_reducible refine Keeps.foldl ?_ (fun _ _ _ => ?_)
    | with_reducible apply State.trkEvent_keeps
    | split
    | exact id
    | exact smWf_put _ _ _ _
    | exact smWf_put (fun _ => _) _ _ _
    | exact smWf_keep _ _ _
    | exact smWf_putBytes _ _ _
    | exact smWfFrom_filter _ _ _ _
    | exact fun _ => smWf_nil _

theorem State.putTrack_keeps {r0 s : State} (hk : Keeps r0 s) (t : Track) : Keeps r0 (State.putTrack s t) := by
  rw [State.putTrack]
  repeat' first
    | (conv => enter [2, 41]); with_reducible refine Keeps.same ?_
    | (conv => enter [2, 41]); with_reducible refine Keeps.upd ?_ ?_ ?_ ?_ ?_ ?_ ?_ ?_ ?_ ?_ ?_ ?_
    | dsimp only
    | with_reducible assumption
    | with_reducible exact Keeps.refl _
    | with_reducible refine Keeps.ite ?_ ?_
    | with_reducible refine Keeps.foldl ?_ (fun _ _ _ => ?_)
    | split
    | exact id
    | exact smWf_put _ _ _ _
    | exact smWf_put (fun _ => _) _ _ _
    | exact smWf_keep _ _ _
    | exact smWf_putBytes _ _ _
    | exact smWfFrom_filter _ _ _ _
    | exact fun _ => smWf_nil _

theorem Upd.delete_keeps {r0 : State} {z : Upd} (hk : Keeps r0 z.s) (slot : Nat) : Keeps r0 (Upd.delete z slot).s := by
  rw [Upd.delete]
  repeat' first
    | (conv => enter [2, 41]); with_reducible refine Keeps.same ?_
    | (conv => enter [2, 41]); with_reducible refine Keeps.upd ?_ ?_ ?_ ?_ ?_ ?_ ?_ ?_ ?_ ?_ ?_ ?_
    | dsimp only
    | with_reducible assumption
    | with_reducible exact Keeps.refl _
    | with_reducible refine Keeps.ite ?_ ?_
    | with_reducible refine Keeps.foldl ?_ (fun _ _ _ => ?_)
    | with_reducible apply State.count_keeps
    | split
    | exact id
    | exact smWf_put _ _ _ _
    | exact smWf_put (fun _ => _) _ _ _
    | exact smWf_keep _ _ _
    | exact smWf_putBytes _ _ _
    | exact smWfFrom_filter _ _ _ _
    | exact fun _ => smWf_nil _

theorem Upd.setFilt_keeps {r0 : State} {z : Upd} (hk : Keeps r0 z.s) (t : Track) (f : Filt) : Keeps r0 (Upd.setFilt z t f).s := by
  rw [Upd.setFilt]
  repeat' first
    | (conv => enter [2, 41]); with_reducible refine Keeps.same ?_
    | (conv => enter [2, 41]); with_reducible refine Keeps.upd ?_ ?_ ?_ ?_ ?_ ?_ ?_ ?_ ?_ ?_ ?_ ?_
    | dsimp only
    | with_reducible assumption
    | with_reducible exact Keeps.refl _
    | with_reducible refine Keeps.ite ?_ ?_
    | with_reducible refine Keeps.foldl ?_ (fun _ _ _ => ?_)
    | with_reducible apply State.putTrack_keeps
    | with_reducible apply Upd.delete_keeps
    | with_reducible apply Upd.once__keeps
    | split
    | exact id
    | exact smWf_put _ _ _ _
    | exact smWf_put (fun _ => _) _ _ _
    | exact smWf_keep _ _ _
    | exact smWf_putBytes _ _ _
    | exact smWfFrom_filter _ _ _ _
    | exact fun _ => smWf_nil _

theorem State.putPast_keeps {r0 s : State} (hk : Keeps r0 s) (n : Nat) (x : TrackPast) : Keeps r0 (State.putPast s n x) := by
  rw [State.putPast]
  repeat' first
    | (conv => enter [2, 41]); with_reducible refine Keeps.same ?_
    | (conv => enter [2, 41]); with_reducible refine Keeps.upd ?_ ?_ ?_ ?_ ?_ ?_ ?_ ?_ ?_ ?_ ?_ ?_
    | dsimp only
    | with_reducible assumption
    | with_reducible exact Keeps.refl _
    | with_reducible refine Keeps.ite ?_ ?_
    | with_reducible refine Keeps.foldl ?_ (fun _ _ _ => ?_)
    | split
    | exact id
    | exact smWf_put _ _ _ _
    | exact smWf_put (fun _ => _) _ _ _
    | exact smWf_keep _ _ _
    | exact smWf_putBytes _ _ _
    | exact smWfFrom_filter _ _ _ _
    | exact fun _ => smWf_nil _

theorem Upd.applyLate_keeps {r0 : State} {z : Upd} (hk : Keeps r0 z.s) (n nl slot : Nat) (d : Detection) : Keeps r0 (Upd.applyLate z n nl slot d).s := by
  rw [Upd.applyLate]
  repeat' first
    | (conv => enter [2, 41]); with_reducible refine Keeps.same ?_
    | (conv => enter [2, 41]); with_reducible refine Keeps.upd ?_ ?_ ?_ ?_ ?_ ?_ ?_ ?_ ?_ ?_ ?_ ?_
    | dsimp only
    | with_reducible assumption
    | with_reducible exact Keeps.refl _
    | with_reducible refine Keeps.ite ?_ ?_
    | with_reducible refine Keeps.foldl ?_ (fun _ _ _ => ?_)
    | with_reducible refine Keeps.foldl1 ?_ (fun _ _ _ => ?_)
    | with_reducible refine Keeps.foldlUpd ?_ (fun _ _ _ => ?_)
    | with_reducible refine Keeps.foldlUpd1 ?_ (fun _ _ _ => ?_)
    | with_reducible apply State.putPast_keeps
    | with_reducible apply Upd.setFilt_keeps
    | split
    | exact id
    | exact smWf_put _ _ _ _
    | exact smWf_put (fun _ => _) _ _ _
    | exact smWf_keep _ _ _
    | exact smWf_putBytes _ _ _
    | exact smWfFrom_filter _ _ _ _
    | exact fun _ => smWf_nil _

theorem Upd.tally_keeps {r0 : State} {z : Upd} (hk : Keeps r0 z.s) (excess : Nat) (capped : Bool) : Keeps r0 (Upd.tally z excess capped).s := by
  rw [Upd.tally]
  repeat' first
    | (conv => enter [2, 41]); with_reducible refine Keeps.same ?_
    | (conv => enter [2, 41]); with_reducible refine Keeps.upd ?_ ?_ ?_ ?_ ?_ ?_ ?_ ?_ ?_ ?_ ?_ ?_
    | dsimp only
    | with_reducible assumption
    | with_reducible exact Keeps.refl _
    | with_reducible refine Keeps.ite ?_ ?_
    | with_reducible refine Keeps.foldl ?_ (fun _ _ _ => ?_)
    | with_reducible apply Upd.once__keeps
    | with_reducible apply State.count_keeps
    | split
    | exact id
    | exact smWf_put _ _ _ _
    | exact smWf_put (fun _ => _) _ _ _
    | exact smWf_keep _ _ _
    | exact smWf_putBytes _ _ _
    | exact smWfFrom_filter _ _ _ _
    | exact fun _ => smWf_nil _

theorem Upd.lateInstant_keeps {r0 : State} {z : Upd} (hk : Keeps r0 z.s) (n nl : Nat) (ls : List TakenList) (room : Nat) : Keeps r0 (Upd.lateInstant z n nl ls room).1.s := by
  rw [Upd.lateInstant]
  have h1 : Keeps r0 (ls.foldl (fun s l => (s.trkEvent 0x0401 l.k).count Reg.TRK_CNT_LATE_USED_count 1) z.s) :=
    Keeps.foldl hk (fun _ _ h => State.count_keeps (State.trkEvent_keeps h _ _) _ _)
  generalize ls.foldl (fun s l => (s.trkEvent 0x0401 l.k).count Reg.TRK_CNT_LATE_USED_count 1) z.s = s1 at h1 ⊢
  split
  with_reducible apply Keeps.foldlUpd
  · exact Upd.tally_keeps (State.count_keeps (State.count_keeps h1 _ _) _ _) _ _
  intro t x h
  split
  · exact Upd.applyLate_keeps h _ _ _ _
  · exact h

theorem Upd.lateInstant_keepsE {r0 : State} {z : Upd} (hk : Keeps r0 z.s) {n nl : Nat} {ls : List TakenList} {room : Nat} {t_ : Upd} {x_ : Nat} (e_ : Upd.lateInstant z n nl ls room = (t_, x_)) : Keeps r0 t_.s := by
  have g := Upd.lateInstant_keeps hk n nl ls room
  rw [e_] at g
  exact g

theorem Upd.late_keeps {r0 : State} {z : Upd} (hk : Keeps r0 z.s) (n : Nat) (ls : List TakenList) : Keeps r0 (Upd.late z n ls).s := by
  rw [Upd.late]
  repeat' first
    | (conv => enter [2, 41]); with_reducible refine Keeps.same ?_
    | (conv => enter [2, 41]); with_reducible refine Keeps.upd ?_ ?_ ?_ ?_ ?_ ?_ ?_ ?_ ?_ ?_ ?_ ?_
    | dsimp only
    | with_reducible assumption
    | with_reducible exact Keeps.refl _
    | with_reducible refine Keeps.ite ?_ ?_
    | with_reducible refine Keeps.foldl ?_ (fun _ _ _ => ?_)
    | with_reducible refine Keeps.foldl1 ?_ (fun _ _ _ => ?_)
    | with_reducible refine Keeps.foldlUpd ?_ (fun _ _ _ => ?_)
    | with_reducible refine Keeps.foldlUpd1 ?_ (fun _ _ _ => ?_)
    | with_reducible apply Upd.lateInstant_keeps
    | with_reducible refine Upd.lateInstant_keepsE ?_ (by with_reducible assumption)
    | split
    | exact id
    | exact smWf_put _ _ _ _
    | exact smWf_put (fun _ => _) _ _ _
    | exact smWf_keep _ _ _
    | exact smWf_putBytes _ _ _
    | exact smWfFrom_filter _ _ _ _
    | exact fun _ => smWf_nil _

theorem Upd.take_keeps {r0 : State} {z : Upd} (hk : Keeps r0 z.s) (ds : List Detection) (as_ : List (Nat × Nat)) : Keeps r0 (Upd.take z ds as_).s := by
  rw [Upd.take]
  repeat' first
    | (conv => enter [2, 41]); with_reducible refine Keeps.same ?_
    | (conv => enter [2, 41]); with_reducible refine Keeps.upd ?_ ?_ ?_ ?_ ?_ ?_ ?_ ?_ ?_ ?_ ?_ ?_
    | dsimp only
    | with_reducible assumption
    | with_reducible exact Keeps.refl _
    | with_reducible refine Keeps.ite ?_ ?_
    | with_reducible refine Keeps.foldl ?_ (fun _ _ _ => ?_)
    | with_reducible refine Keeps.foldl1 ?_ (fun _ _ _ => ?_)
    | with_reducible refine Keeps.foldlUpd ?_ (fun _ _ _ => ?_)
    | with_reducible refine Keeps.foldlUpd1 ?_ (fun _ _ _ => ?_)
    | with_reducible apply Upd.setFilt_keeps
    | split
    | exact id
    | exact smWf_put _ _ _ _
    | exact smWf_put (fun _ => _) _ _ _
    | exact smWf_keep _ _ _
    | exact smWf_putBytes _ _ _
    | exact smWfFrom_filter _ _ _ _
    | exact fun _ => smWf_nil _

theorem Upd.toRef_keeps {r0 : State} {z : Upd} (hk : Keeps r0 z.s) (tref : Time) : Keeps r0 (Upd.toRef z tref).s := by
  rw [Upd.toRef]
  repeat' first
    | (conv => enter [2, 41]); with_reducible refine Keeps.same ?_
    | (conv => enter [2, 41]); with_reducible refine Keeps.upd ?_ ?_ ?_ ?_ ?_ ?_ ?_ ?_ ?_ ?_ ?_ ?_
    | dsimp only
    | with_reducible assumption
    | with_reducible exact Keeps.refl _
    | with_reducible refine Keeps.ite ?_ ?_
    | with_reducible refine Keeps.foldl ?_ (fun _ _ _ => ?_)
    | with_reducible refine Keeps.foldl1 ?_ (fun _ _ _ => ?_)
    | with_reducible refine Keeps.foldlUpd ?_ (fun _ _ _ => ?_)
    | with_reducible refine Keeps.foldlUpd1 ?_ (fun _ _ _ => ?_)
    | with_reducible apply Upd.setFilt_keeps
    | split
    | exact id
    | exact smWf_put _ _ _ _
    | exact smWf_put (fun _ => _) _ _ _
    | exact smWf_keep _ _ _
    | exact smWf_putBytes _ _ _
    | exact smWfFrom_filter _ _ _ _
    | exact fun _ => smWf_nil _

theorem Upd.lives_keeps {r0 : State} {z : Upd} (hk : Keeps r0 z.s) (hits : List Nat) : Keeps r0 (Upd.lives z hits).s := by
  rw [Upd.lives]
  repeat' first
    | (conv => enter [2, 41]); with_reducible refine Keeps.same ?_
    | (conv => enter [2, 41]); with_reducible refine Keeps.upd ?_ ?_ ?_ ?_ ?_ ?_ ?_ ?_ ?_ ?_ ?_ ?_
    | dsimp only
    | with_reducible assumption
    | with_reducible exact Keeps.refl _
    | with_reducible refine Keeps.ite ?_ ?_
    | with_reducible refine Keeps.foldl ?_ (fun _ _ _ => ?_)
    | with_reducible refine Keeps.foldl1 ?_ (fun _ _ _ => ?_)
    | with_reducible refine Keeps.foldlUpd ?_ (fun _ _ _ => ?_)
    | with_reducible refine Keeps.foldlUpd1 ?_ (fun _ _ _ => ?_)
    | with_reducible apply State.putTrack_keeps
    | with_reducible apply Upd.delete_keeps
    | split
    | exact id
    | exact smWf_put _ _ _ _
    | exact smWf_put (fun _ => _) _ _ _
    | exact smWf_keep _ _ _
    | exact smWf_putBytes _ _ _
    | exact smWfFrom_filter _ _ _ _
    | exact fun _ => smWf_nil _

theorem Upd.births_keeps {r0 : State} {z : Upd} (hk : Keeps r0 z.s) (ds : List Detection) (tref : Time) : Keeps r0 (Upd.births z ds tref).s := by
  rw [Upd.births]
  repeat' first
    | (conv => enter [2, 41]); with_reducible refine Keeps.same ?_
    | (conv => enter [2, 41]); with_reducible refine Keeps.upd ?_ ?_ ?_ ?_ ?_ ?_ ?_ ?_ ?_ ?_ ?_ ?_
    | dsimp only
    | with_reducible assumption
    | with_reducible exact Keeps.refl _
    | with_reducible refine Keeps.ite ?_ ?_
    | with_reducible refine Keeps.foldl ?_ (fun _ _ _ => ?_)
    | with_reducible refine Keeps.foldl1 ?_ (fun _ _ _ => ?_)
    | with_reducible refine Keeps.foldlUpd ?_ (fun _ _ _ => ?_)
    | with_reducible refine Keeps.foldlUpd1 ?_ (fun _ _ _ => ?_)
    | with_reducible apply State.count_keeps
    | with_reducible apply Upd.once__keeps
    | with_reducible apply State.putTrack_keeps
    | with_reducible apply Upd.setFilt_keeps
    | split
    | exact id
    | exact smWf_put _ _ _ _
    | exact smWf_put (fun _ => _) _ _ _
    | exact smWf_keep _ _ _
    | exact smWf_putBytes _ _ _
    | exact smWfFrom_filter _ _ _ _
    | exact fun _ => smWf_nil _

theorem State.retain_keeps {r0 s : State} (hk : Keeps r0 s) (n : Nat) (tref : Time) (ds : List Detection) (as_ : List (Nat × Nat)) : Keeps r0 (State.retain s n tref ds as_) := by
  rw [State.retain]
  repeat' first
    | (conv => enter [2, 41]); with_reducible refine Keeps.same ?_
    | (conv => enter [2, 41]); with_reducible refine Keeps.upd ?_ ?_ ?_ ?_ ?_ ?_ ?_ ?_ ?_ ?_ ?_ ?_
    | dsimp only
    | with_reducible assumption
    | with_reducible exact Keeps.refl _
    | with_reducible refine Keeps.ite ?_ ?_
    | with_reducible refine Keeps.foldl ?_ (fun _ _ _ => ?_)
    | with_reducible apply Upd.take_keeps
    | split
    | exact id
    | exact smWf_put _ _ _ _
    | exact smWf_put (fun _ => _) _ _ _
    | exact smWf_keep _ _ _
    | exact smWf_putBytes _ _ _
    | exact smWfFrom_filter _ _ _ _
    | exact fun _ => smWf_nil _

theorem State.publish_keeps {r0 s : State} (hk : Keeps r0 s) (n : Nat) (tref : Time) (withheld late noList : Bool) : Keeps r0 (State.publish s n tref withheld late noList) := by
  rw [State.publish]
  repeat' first
    | (conv => enter [2, 41]); with_reducible refine Keeps.same ?_
    | (conv => enter [2, 41]); with_reducible refine Keeps.upd ?_ ?_ ?_ ?_ ?_ ?_ ?_ ?_ ?_ ?_ ?_ ?_
    | dsimp only
    | with_reducible assumption
    | with_reducible exact Keeps.refl _
    | with_reducible refine Keeps.ite ?_ ?_
    | with_reducible refine Keeps.foldl ?_ (fun _ _ _ => ?_)
    | with_reducible apply State.trkPut_keeps
    | with_reducible apply State.fset_keeps
    | with_reducible apply Upd.late_keeps
    | split
    | exact id
    | exact smWf_put _ _ _ _
    | exact smWf_put (fun _ => _) _ _ _
    | exact smWf_keep _ _ _
    | exact smWf_putBytes _ _ _
    | exact smWfFrom_filter _ _ _ _
    | exact fun _ => smWf_nil _

theorem State.regionSets_keeps {r0 s : State} (hk : Keeps r0 s) (n : Nat) : Keeps r0 (State.regionSets s n) := by
  rw [State.regionSets]
  repeat' first
    | (conv => enter [2, 41]); with_reducible refine Keeps.same ?_
    | (conv => enter [2, 41]); with_reducible refine Keeps.upd ?_ ?_ ?_ ?_ ?_ ?_ ?_ ?_ ?_ ?_ ?_ ?_
    | dsimp only
    | with_reducible assumption
    | with_reducible exact Keeps.refl _
    | with_reducible refine Keeps.ite ?_ ?_
    | with_reducible refine Keeps.foldl ?_ (fun _ _ _ => ?_)
    | with_reducible refine Keeps.foldl1 ?_ (fun _ _ _ => ?_)
    | with_reducible refine Keeps.foldlUpd ?_ (fun _ _ _ => ?_)
    | with_reducible refine Keeps.foldlUpd1 ?_ (fun _ _ _ => ?_)
    | with_reducible apply Upd.take_keeps
    | with_reducible apply State.wr_keeps
    | split
    | exact id
    | exact smWf_put _ _ _ _
    | exact smWf_put (fun _ => _) _ _ _
    | exact smWf_keep _ _ _
    | exact smWf_putBytes _ _ _
    | exact smWfFrom_filter _ _ _ _
    | exact fun _ => smWf_nil _

theorem Upd.onTimeDets_keeps {r0 : State} {z : Upd} (hk : Keeps r0 z.s) (ls : List TakenList) : Keeps r0 (Upd.onTimeDets z ls).1.s := by
  rw [Upd.onTimeDets]
  repeat' first
    | (conv => enter [2, 41]); with_reducible refine Keeps.same ?_
    | (conv => enter [2, 41]); with_reducible refine Keeps.upd ?_ ?_ ?_ ?_ ?_ ?_ ?_ ?_ ?_ ?_ ?_ ?_
    | dsimp only
    | with_reducible assumption
    | with_reducible exact Keeps.refl _
    | with_reducible refine Keeps.ite ?_ ?_
    | with_reducible refine Keeps.foldl ?_ (fun _ _ _ => ?_)
    | with_reducible apply State.count_keeps
    | with_reducible apply Upd.once__keeps
    | with_reducible apply Upd.take_keeps
    | split
    | exact id
    | exact smWf_put _ _ _ _
    | exact smWf_put (fun _ => _) _ _ _
    | exact smWf_keep _ _ _
    | exact smWf_putBytes _ _ _
    | exact smWfFrom_filter _ _ _ _
    | exact fun _ => smWf_nil _

theorem Upd.onTimeDets_keepsE {r0 : State} {z : Upd} (hk : Keeps r0 z.s) {ls : List TakenList} {t_ : Upd} {x_ : List Detection} (e_ : Upd.onTimeDets z ls = (t_, x_)) : Keeps r0 t_.s := by
  have g := Upd.onTimeDets_keeps hk ls
  rw [e_] at g
  exact g

end Sys2Proof.Machine
end

