-- ==== Sys2Proof/Laws/Keeps/RegWrite.lean ====
section
/-! SUPPORT. Every operation of Machine/RegWrite.lean that answers a state keeps the part, the queue and the canonical form. -/

namespace Sys2Proof.Machine

theorem State.dieWrite_keeps {r0 s : State} (hk : Keeps r0 s) (t off v src : Nat) (a : Addr) : Keeps r0 (State.dieWrite s t off v src a) := by
  rw [State.dieWrite]
  repeat' first
    | (conv => enter [2, 41]); with_reducible refine Keeps.same ?_
    | (conv => enter [2, 41]); with_reducible refine Keeps.upd ?_ ?_ ?_ ?_ ?_ ?_ ?_ ?_ ?_ ?_ ?_ ?_
    | dsimp only
    | with_reducible assumption
    | with_reducible exact Keeps.refl _
    | with_reducible refine Keeps.ite ?_ ?_
    | with_reducible refine Keeps.foldl ?_ (fun _ _ _ => ?_)
    | with_reducible apply State.lmapWrite_keeps
    | with_reducible apply State.colWrite_keeps
    | with_reducible apply State.swWrite_keeps
    | split
    | exact id
    | exact smWf_put _ _ _ _
    | exact smWf_put (fun _ => _) _ _ _
    | exact smWf_keep _ _ _
    | exact smWf_putBytes _ _ _
    | exact smWfFrom_filter _ _ _ _
    | exact fun _ => smWf_nil _

theorem State.ringHalf_keeps {r0 s : State} (hk : Keeps r0 s) (p i v : Nat) : Keeps r0 (State.ringHalf s p i v) := by
  rw [State.ringHalf]
  repeat' first
    | (conv => enter [2, 41]); with_reducible refine Keeps.same ?_
    | (conv => enter [2, 41]); with_reducible refine Keeps.upd ?_ ?_ ?_ ?_ ?_ ?_ ?_ ?_ ?_ ?_ ?_ ?_
    | dsimp only
    | with_reducible assumption
    | with_reducible exact Keeps.refl _
    | with_reducible refine Keeps.ite ?_ ?_
    | with_reducible refine Keeps.foldl ?_ (fun _ _ _ => ?_)
    | with_reducible apply State.ringWrite_keeps
    | split
    | exact id
    | exact smWf_put _ _ _ _
    | exact smWf_put (fun _ => _) _ _ _
    | exact smWf_keep _ _ _
    | exact smWf_putBytes _ _ _
    | exact smWfFrom_filter _ _ _ _
    | exact fun _ => smWf_nil _

theorem State.fetchHalf_keeps {r0 s : State} (hk : Keeps r0 s) (q i v : Nat) : Keeps r0 (State.fetchHalf s q i v) := by
  rw [State.fetchHalf]
  repeat' first
    | (conv => enter [2, 41]); with_reducible refine Keeps.same ?_
    | (conv => enter [2, 41]); with_reducible refine Keeps.upd ?_ ?_ ?_ ?_ ?_ ?_ ?_ ?_ ?_ ?_ ?_ ?_
    | dsimp only
    | with_reducible assumption
    | with_reducible exact Keeps.refl _
    | with_reducible refine Keeps.ite ?_ ?_
    | with_reducible refine Keeps.foldl ?_ (fun _ _ _ => ?_)
    | with_reducible apply State.fetchWrite_keeps
    | split
    | exact id
    | exact smWf_put _ _ _ _
    | exact smWf_put (fun _ => _) _ _ _
    | exact smWf_keep _ _ _
    | exact smWf_putBytes _ _ _
    | exact smWfFrom_filter _ _ _ _
    | exact fun _ => smWf_nil _

theorem State.secWrite_keeps {r0 s : State} (hk : Keeps r0 s) (w : Who) (a : Addr) (v src : Nat) : Keeps r0 (State.secWrite s w a v src) := by
  rw [State.secWrite]
  repeat' first
    | (conv => enter [2, 41]); with_reducible refine Keeps.same ?_
    | (conv => enter [2, 41]); with_reducible refine Keeps.upd ?_ ?_ ?_ ?_ ?_ ?_ ?_ ?_ ?_ ?_ ?_ ?_
    | dsimp only
    | with_reducible assumption
    | with_reducible exact Keeps.refl _
    | with_reducible refine Keeps.ite ?_ ?_
    | with_reducible refine Keeps.foldl ?_ (fun _ _ _ => ?_)
    | with_reducible apply State.attWrite_keeps
    | with_reducible apply State.dbgWrite_keeps
    | with_reducible apply State.sakWrite_keeps
    | with_reducible apply State.otpWrite_keeps
    | with_reducible apply State.swWrite_keeps
    | split
    | exact id
    | exact smWf_put _ _ _ _
    | exact smWf_put (fun _ => _) _ _ _
    | exact smWf_keep _ _ _
    | exact smWf_putBytes _ _ _
    | exact smWfFrom_filter _ _ _ _
    | exact fun _ => smWf_nil _

theorem State.hubWrite_keeps {r0 s : State} (hk : Keeps r0 s) (w : Who) (a : Addr) (v src : Nat) : Keeps r0 (State.hubWrite s w a v src) := by
  rw [State.hubWrite]
  repeat' first
    | (conv => enter [2, 41]); with_reducible refine Keeps.same ?_
    | (conv => enter [2, 41]); with_reducible refine Keeps.upd ?_ ?_ ?_ ?_ ?_ ?_ ?_ ?_ ?_ ?_ ?_ ?_
    | dsimp only
    | with_reducible assumption
    | with_reducible exact Keeps.refl _
    | with_reducible refine Keeps.ite ?_ ?_
    | with_reducible refine Keeps.foldl ?_ (fun _ _ _ => ?_)
    | with_reducible apply State.modeReq_keeps
    | with_reducible apply State.preemptWrite_keeps
    | with_reducible apply State.swWrite_keeps
    | with_reducible apply State.showDue_keeps
    | with_reducible apply State.freeTime_keeps
    | with_reducible apply State.swapWrite_keeps
    | with_reducible apply State.wdgKick_keeps
    | with_reducible apply State.rstReqWrite_keeps
    | with_reducible apply State.syswdKick_keeps
    | with_reducible apply State.secWrite_keeps
    | with_reducible apply State.ringHalf_keeps
    | with_reducible apply State.calWrite_keeps
    | with_reducible apply State.fetchHalf_keeps
    | split
    | exact id
    | exact smWf_put _ _ _ _
    | exact smWf_put (fun _ => _) _ _ _
    | exact smWf_keep _ _ _
    | exact smWf_putBytes _ _ _
    | exact smWfFrom_filter _ _ _ _
    | exact fun _ => smWf_nil _

theorem State.regWrite_keeps {r0 s : State} (hk : Keeps r0 s) (w : Who) (a : Addr) (v : Nat) : Keeps r0 (State.regWrite s w a v) := by
  rw [State.regWrite]
  repeat' first
    | (conv => enter [2, 41]); with_reducible refine Keeps.same ?_
    | (conv => enter [2, 41]); with_reducible refine Keeps.upd ?_ ?_ ?_ ?_ ?_ ?_ ?_ ?_ ?_ ?_ ?_ ?_
    | dsimp only
    | with_reducible assumption
    | with_reducible exact Keeps.refl _
    | with_reducible refine Keeps.ite ?_ ?_
    | with_reducible refine Keeps.foldl ?_ (fun _ _ _ => ?_)
    | with_reducible apply State.hubWrite_keeps
    | with_reducible apply State.dieWrite_keeps
    | with_reducible apply State.swWrite_keeps
    | split
    | exact id
    | exact smWf_put _ _ _ _
    | exact smWf_put (fun _ => _) _ _ _
    | exact smWf_keep _ _ _
    | exact smWf_putBytes _ _ _
    | exact smWfFrom_filter _ _ _ _
    | exact fun _ => smWf_nil _

end Sys2Proof.Machine
end

