-- ==== Sys2Proof/Laws/Keeps/Index.lean ====
section
/-! SUPPORT. Every operation of Machine/Index.lean that answers a state keeps the part, the queue and the canonical form. -/

namespace Sys2Proof.Machine

theorem Io.row_keeps {r0 : State} {x : Io} (hk : Keeps r0 x.s) (r : TaskRun) (ss : Bool) (a n : Nat) : Keeps r0 (Io.row x r ss a n).1.s := by
  rw [Io.row]
  repeat' first
    | (conv => enter [2, 41]); with_reducible refine Keeps.same ?_
    | (conv => enter [2, 41]); with_reducible refine Keeps.upd ?_ ?_ ?_ ?_ ?_ ?_ ?_ ?_ ?_ ?_ ?_ ?_
    | dsimp only
    | with_reducible assumption
    | with_reducible exact Keeps.refl _
    | with_reducible refine Keeps.ite ?_ ?_
    | with_reducible refine Keeps.foldl ?_ (fun _ _ _ => ?_)
    | with_reducible apply Io.get_keeps
    | with_reducible refine Io.get_keepsE ?_ (by with_reducible assumption)
    | split
    | exact id
    | exact smWf_put _ _ _ _
    | exact smWf_put (fun _ => _) _ _ _
    | exact smWf_keep _ _ _
    | exact smWf_putBytes _ _ _
    | exact smWfFrom_filter _ _ _ _
    | exact fun _ => smWf_nil _

theorem Io.row_keepsE {r0 : State} {x : Io} (hk : Keeps r0 x.s) {r : TaskRun} {ss : Bool} {a n : Nat} {t_ : Io} {x_ : List Byte} (e_ : Io.row x r ss a n = (t_, x_)) : Keeps r0 t_.s := by
  have g := Io.row_keeps hk r ss a n
  rw [e_] at g
  exact g

theorem Io.out_keeps {r0 : State} {x : Io} (hk : Keeps r0 x.s) (r : TaskRun) (ss : Bool) (a : Nat) (bs : List Byte) : Keeps r0 (Io.out x r ss a bs).s := by
  rw [Io.out]
  repeat' first
    | (conv => enter [2, 41]); with_reducible refine Keeps.same ?_
    | (conv => enter [2, 41]); with_reducible refine Keeps.upd ?_ ?_ ?_ ?_ ?_ ?_ ?_ ?_ ?_ ?_ ?_ ?_
    | dsimp only
    | with_reducible assumption
    | with_reducible exact Keeps.refl _
    | with_reducible refine Keeps.ite ?_ ?_
    | with_reducible refine Keeps.foldl ?_ (fun _ _ _ => ?_)
    | with_reducible apply Io.put_keeps
    | with_reducible apply State.unitWrite_keeps
    | split
    | exact id
    | exact smWf_put _ _ _ _
    | exact smWf_put (fun _ => _) _ _ _
    | exact smWf_keep _ _ _
    | exact smWf_putBytes _ _ _
    | exact smWfFrom_filter _ _ _ _
    | exact fun _ => smWf_nil _

theorem Io.outRows_keeps {r0 : State} {x : Io} (hk : Keeps r0 x.s) (r : TaskRun) (ss : Bool) (a pitch : Nat) (rows : List (Nat × List Byte)) : Keeps r0 (Io.outRows x r ss a pitch rows).s := by
  rw [Io.outRows]
  repeat' first
    | (conv => enter [2, 41]); with_reducible refine Keeps.same ?_
    | (conv => enter [2, 41]); with_reducible refine Keeps.upd ?_ ?_ ?_ ?_ ?_ ?_ ?_ ?_ ?_ ?_ ?_ ?_
    | dsimp only
    | with_reducible assumption
    | with_reducible exact Keeps.refl _
    | with_reducible refine Keeps.ite ?_ ?_
    | with_reducible refine Keeps.foldl ?_ (fun _ _ _ => ?_)
    | with_reducible refine Keeps.foldl1 ?_ (fun _ _ _ => ?_)
    | with_reducible refine Keeps.foldlIo ?_ (fun _ _ _ => ?_)
    | with_reducible refine Keeps.foldlIo1 ?_ (fun _ _ _ => ?_)
    | with_reducible apply Io.out_keeps
    | split
    | exact id
    | exact smWf_put _ _ _ _
    | exact smWf_put (fun _ => _) _ _ _
    | exact smWf_keep _ _ _
    | exact smWf_putBytes _ _ _
    | exact smWfFrom_filter _ _ _ _
    | exact fun _ => smWf_nil _

theorem Io.rowsOf_keeps {r0 : State} {x : Io} (hk : Keeps r0 x.s) (r : TaskRun) (ss : Bool) (a pitch n : Nat) (vs : List (Nat × Nat)) : Keeps r0 (Io.rowsOf x r ss a pitch n vs).1.s := by
  rw [Io.rowsOf]
  repeat' first
    | (conv => enter [2, 41]); with_reducible refine Keeps.same ?_
    | (conv => enter [2, 41]); with_reducible refine Keeps.upd ?_ ?_ ?_ ?_ ?_ ?_ ?_ ?_ ?_ ?_ ?_ ?_
    | dsimp only
    | with_reducible assumption
    | with_reducible exact Keeps.refl _
    | with_reducible refine Keeps.ite ?_ ?_
    | with_reducible refine Keeps.foldl ?_ (fun _ _ _ => ?_)
    | with_reducible refine Keeps.foldl1 ?_ (fun _ _ _ => ?_)
    | with_reducible refine Keeps.foldlIo ?_ (fun _ _ _ => ?_)
    | with_reducible refine Keeps.foldlIo1 ?_ (fun _ _ _ => ?_)
    | with_reducible apply Io.row_keeps
    | with_reducible refine Io.row_keepsE ?_ (by with_reducible assumption)
    | split
    | exact id
    | exact smWf_put _ _ _ _
    | exact smWf_put (fun _ => _) _ _ _
    | exact smWf_keep _ _ _
    | exact smWf_putBytes _ _ _
    | exact smWfFrom_filter _ _ _ _
    | exact fun _ => smWf_nil _

theorem Io.rowsOf_keepsE {r0 : State} {x : Io} (hk : Keeps r0 x.s) {r : TaskRun} {ss : Bool} {a pitch n : Nat} {vs : List (Nat × Nat)} {t_ : Io} {x_ : List (Nat × List Byte)} (e_ : Io.rowsOf x r ss a pitch n vs = (t_, x_)) : Keeps r0 t_.s := by
  have g := Io.rowsOf_keeps hk r ss a pitch n vs
  rw [e_] at g
  exact g

theorem Io.gather_keeps {r0 : State} {x : Io} (hk : Keeps r0 x.s) (r : TaskRun) (d : IdxEntry) (vs : List (Nat × Nat)) : Keeps r0 (Io.gather x r d vs).s := by
  rw [Io.gather]
  repeat' first
    | (conv => enter [2, 41]); with_reducible refine Keeps.same ?_
    | (conv => enter [2, 41]); with_reducible refine Keeps.upd ?_ ?_ ?_ ?_ ?_ ?_ ?_ ?_ ?_ ?_ ?_ ?_
    | dsimp only
    | with_reducible assumption
    | with_reducible exact Keeps.refl _
    | with_reducible refine Keeps.ite ?_ ?_
    | with_reducible refine Keeps.foldl ?_ (fun _ _ _ => ?_)
    | with_reducible refine Keeps.foldl1 ?_ (fun _ _ _ => ?_)
    | with_reducible refine Keeps.foldlIo ?_ (fun _ _ _ => ?_)
    | with_reducible refine Keeps.foldlIo1 ?_ (fun _ _ _ => ?_)
    | with_reducible apply Io.row_keeps
    | with_reducible refine Io.row_keepsE ?_ (by with_reducible assumption)
    | with_reducible apply Io.outRows_keeps
    | split
    | exact id
    | exact smWf_put _ _ _ _
    | exact smWf_put (fun _ => _) _ _ _
    | exact smWf_keep _ _ _
    | exact smWf_putBytes _ _ _
    | exact smWfFrom_filter _ _ _ _
    | exact fun _ => smWf_nil _

theorem Io.scatter_keeps {r0 : State} {x : Io} (hk : Keeps r0 x.s) (r : TaskRun) (d : IdxEntry) (n : Nat) (vs : List (Nat × Nat)) : Keeps r0 (Io.scatter x r d n vs).s := by
  rw [Io.scatter]
  repeat' first
    | (conv => enter [2, 41]); with_reducible refine Keeps.same ?_
    | (conv => enter [2, 41]); with_reducible refine Keeps.upd ?_ ?_ ?_ ?_ ?_ ?_ ?_ ?_ ?_ ?_ ?_ ?_
    | dsimp only
    | with_reducible assumption
    | with_reducible exact Keeps.refl _
    | with_reducible refine Keeps.ite ?_ ?_
    | with_reducible refine Keeps.foldl ?_ (fun _ _ _ => ?_)
    | with_reducible refine Keeps.foldl1 ?_ (fun _ _ _ => ?_)
    | with_reducible refine Keeps.foldlIo ?_ (fun _ _ _ => ?_)
    | with_reducible refine Keeps.foldlIo1 ?_ (fun _ _ _ => ?_)
    | with_reducible apply Io.row_keeps
    | with_reducible refine Io.row_keepsE ?_ (by with_reducible assumption)
    | with_reducible apply Io.out_keeps
    | with_reducible apply Io.combine_keeps
    | with_reducible apply State.unitWrite_keeps
    | split
    | exact id
    | exact smWf_put _ _ _ _
    | exact smWf_put (fun _ => _) _ _ _
    | exact smWf_keep _ _ _
    | exact smWf_putBytes _ _ _
    | exact smWfFrom_filter _ _ _ _
    | exact fun _ => smWf_nil _

theorem Io.segred_keeps {r0 : State} {x : Io} (hk : Keeps r0 x.s) (r : TaskRun) (d : IdxEntry) (n : Nat) (offs : List Nat) (from_ : Option Nat) (upTo : Nat) (vs : List (Nat × Nat)) : Keeps r0 (Io.segred x r d n offs from_ upTo vs).s := by
  rw [Io.segred]
  repeat' first
    | (conv => enter [2, 41]); with_reducible refine Keeps.same ?_
    | (conv => enter [2, 41]); with_reducible refine Keeps.upd ?_ ?_ ?_ ?_ ?_ ?_ ?_ ?_ ?_ ?_ ?_ ?_
    | dsimp only
    | with_reducible assumption
    | with_reducible exact Keeps.refl _
    | with_reducible refine Keeps.ite ?_ ?_
    | with_reducible refine Keeps.foldl ?_ (fun _ _ _ => ?_)
    | with_reducible refine Keeps.foldl1 ?_ (fun _ _ _ => ?_)
    | with_reducible refine Keeps.foldlIo ?_ (fun _ _ _ => ?_)
    | with_reducible refine Keeps.foldlIo1 ?_ (fun _ _ _ => ?_)
    | with_reducible apply Io.rowsOf_keeps
    | with_reducible refine Io.rowsOf_keepsE ?_ (by with_reducible assumption)
    | with_reducible apply Io.outRows_keeps
    | with_reducible apply Io.out_keeps
    | split
    | exact id
    | exact smWf_put _ _ _ _
    | exact smWf_put (fun _ => _) _ _ _
    | exact smWf_keep _ _ _
    | exact smWf_putBytes _ _ _
    | exact smWfFrom_filter _ _ _ _
    | exact fun _ => smWf_nil _

theorem Io.hist_keeps {r0 : State} {x : Io} (hk : Keeps r0 x.s) (r : TaskRun) (d : IdxEntry) (vs : List (Nat × Nat)) : Keeps r0 (Io.hist x r d vs).s := by
  rw [Io.hist]
  repeat' first
    | (conv => enter [2, 41]); with_reducible refine Keeps.same ?_
    | (conv => enter [2, 41]); with_reducible refine Keeps.upd ?_ ?_ ?_ ?_ ?_ ?_ ?_ ?_ ?_ ?_ ?_ ?_
    | dsimp only
    | with_reducible assumption
    | with_reducible exact Keeps.refl _
    | with_reducible refine Keeps.ite ?_ ?_
    | with_reducible refine Keeps.foldl ?_ (fun _ _ _ => ?_)
    | with_reducible refine Keeps.foldl1 ?_ (fun _ _ _ => ?_)
    | with_reducible refine Keeps.foldlIo ?_ (fun _ _ _ => ?_)
    | with_reducible refine Keeps.foldlIo1 ?_ (fun _ _ _ => ?_)
    | with_reducible apply Io.combine_keeps
    | with_reducible apply State.unitWrite_keeps
    | split
    | exact id
    | exact smWf_put _ _ _ _
    | exact smWf_put (fun _ => _) _ _ _
    | exact smWf_keep _ _ _
    | exact smWf_putBytes _ _ _
    | exact smWfFrom_filter _ _ _ _
    | exact fun _ => smWf_nil _

theorem Io.dedup_keeps {r0 : State} {x : Io} (hk : Keeps r0 x.s) (r : TaskRun) (d : IdxEntry) (all : Bool) (vs : List (Nat × Nat)) : Keeps r0 (Io.dedup x r d all vs).s := by
  rw [Io.dedup]
  repeat' first
    | (conv => enter [2, 41]); with_reducible refine Keeps.same ?_
    | (conv => enter [2, 41]); with_reducible refine Keeps.upd ?_ ?_ ?_ ?_ ?_ ?_ ?_ ?_ ?_ ?_ ?_ ?_
    | dsimp only
    | with_reducible assumption
    | with_reducible exact Keeps.refl _
    | with_reducible refine Keeps.ite ?_ ?_
    | with_reducible refine Keeps.foldl ?_ (fun _ _ _ => ?_)
    | with_reducible refine Keeps.foldl1 ?_ (fun _ _ _ => ?_)
    | with_reducible refine Keeps.foldlIo ?_ (fun _ _ _ => ?_)
    | with_reducible refine Keeps.foldlIo1 ?_ (fun _ _ _ => ?_)
    | with_reducible apply State.makeHazy_keeps
    | with_reducible apply State.unitWrite_keeps
    | split
    | exact id
    | exact smWf_put _ _ _ _
    | exact smWf_put (fun _ => _) _ _ _
    | exact smWf_keep _ _ _
    | exact smWf_putBytes _ _ _
    | exact smWfFrom_filter _ _ _ _
    | exact fun _ => smWf_nil _

theorem Io.indexItems_keeps {r0 : State} {x : Io} (hk : Keeps r0 x.s) (r : TaskRun) (d : IdxEntry) (n : Nat) (offs : List Nat) (from_ : Option Nat) (upTo : Nat) (all : Bool) (vs : List (Nat × Nat)) : Keeps r0 (Io.indexItems x r d n offs from_ upTo all vs).s := by
  rw [Io.indexItems]
  repeat' first
    | (conv => enter [2, 41]); with_reducible refine Keeps.same ?_
    | (conv => enter [2, 41]); with_reducible refine Keeps.upd ?_ ?_ ?_ ?_ ?_ ?_ ?_ ?_ ?_ ?_ ?_ ?_
    | dsimp only
    | with_reducible assumption
    | with_reducible exact Keeps.refl _
    | with_reducible refine Keeps.ite ?_ ?_
    | with_reducible refine Keeps.foldl ?_ (fun _ _ _ => ?_)
    | with_reducible apply Upd.take_keeps
    | with_reducible apply Io.gather_keeps
    | with_reducible apply Io.scatter_keeps
    | with_reducible apply Io.segred_keeps
    | with_reducible apply Io.hist_keeps
    | with_reducible apply Io.dedup_keeps
    | split
    | exact id
    | exact smWf_put _ _ _ _
    | exact smWf_put (fun _ => _) _ _ _
    | exact smWf_keep _ _ _
    | exact smWf_putBytes _ _ _
    | exact smWfFrom_filter _ _ _ _
    | exact fun _ => smWf_nil _

theorem State.indexEntry_keeps {r0 s : State} (hk : Keeps r0 s) (r : TaskRun) (d : IdxEntry) (o : UnitObs) : Keeps r0 (State.indexEntry s r d o) := by
  rw [State.indexEntry]
  repeat' first
    | (conv => enter [2, 41]); with_reducible refine Keeps.same ?_
    | (conv => enter [2, 41]); with_reducible refine Keeps.upd ?_ ?_ ?_ ?_ ?_ ?_ ?_ ?_ ?_ ?_ ?_ ?_
    | dsimp only
    | with_reducible assumption
    | with_reducible exact Keeps.refl _
    | with_reducible refine Keeps.ite ?_ ?_
    | with_reducible refine Keeps.foldl ?_ (fun _ _ _ => ?_)
    | with_reducible refine Keeps.foldl1 ?_ (fun _ _ _ => ?_)
    | with_reducible refine Keeps.foldlIo ?_ (fun _ _ _ => ?_)
    | with_reducible refine Keeps.foldlIo1 ?_ (fun _ _ _ => ?_)
    | with_reducible apply State.storeEcc_keeps
    | with_reducible apply State.count_keeps
    | with_reducible apply State.badEntry_keeps
    | with_reducible apply State.verify_keeps
    | with_reducible apply State.draw_keeps2
    | with_reducible refine State.draw_keepsE ?_ (by with_reducible assumption)
    | with_reducible apply Io.indexItems_keeps
    | with_reducible apply State.checkerFault_keeps
    | with_reducible apply State.poisonBlocks_keeps
    | with_reducible apply State.countOnce_keeps
    | with_reducible apply State.nextEntry_keeps
    | split
    | exact id
    | exact smWf_put _ _ _ _
    | exact smWf_put (fun _ => _) _ _ _
    | exact smWf_keep _ _ _
    | exact smWf_putBytes _ _ _
    | exact smWfFrom_filter _ _ _ _
    | exact fun _ => smWf_nil _

theorem State.runIndex_keeps {r0 s : State} (hk : Keeps r0 s) (t e op sub : Nat) (o : UnitObs) : Keeps r0 (State.runIndex s t e op sub o) := by
  rw [State.runIndex]
  repeat' first
    | (conv => enter [2, 41]); with_reducible refine Keeps.same ?_
    | (conv => enter [2, 41]); with_reducible refine Keeps.upd ?_ ?_ ?_ ?_ ?_ ?_ ?_ ?_ ?_ ?_ ?_ ?_
    | dsimp only
    | with_reducible assumption
    | with_reducible exact Keeps.refl _
    | with_reducible refine Keeps.ite ?_ ?_
    | with_reducible refine Keeps.foldl ?_ (fun _ _ _ => ?_)
    | with_reducible apply State.indexEntry_keeps
    | split
    | exact id
    | exact smWf_put _ _ _ _
    | exact smWf_put (fun _ => _) _ _ _
    | exact smWf_keep _ _ _
    | exact smWf_putBytes _ _ _
    | exact smWfFrom_filter _ _ _ _
    | exact fun _ => smWf_nil _

end Sys2Proof.Machine
end

