-- ==== Sys2Proof/Laws/Keeps/Move.lean ====
section
/-! SUPPORT. Every operation of Machine/Move.lean that answers a state keeps the part, the queue and the canonical form. -/

namespace Sys2Proof.Machine

theorem State.fillBlock_keeps {r0 s : State} (hk : Keeps r0 s) (r : TaskRun) (m : MoveEntry) (ecc i : Nat) : Keeps r0 (State.fillBlock s r m ecc i) := by
  rw [State.fillBlock]
  repeat' first
    | (conv => enter [2, 41]); with_reducible refine Keeps.same ?_
    | (conv => enter [2, 41]); with_reducible refine Keeps.upd ?_ ?_ ?_ ?_ ?_ ?_ ?_ ?_ ?_ ?_ ?_ ?_
    | dsimp only
    | with_reducible assumption
    | with_reducible exact Keeps.refl _
    | with_reducible refine Keeps.ite ?_ ?_
    | with_reducible refine Keeps.foldl ?_ (fun _ _ _ => ?_)
    | with_reducible apply State.portRead_keeps
    | with_reducible refine State.portRead_keepsE ?_ (by with_reducible assumption)
    | with_reducible apply State.chkFail_keeps
    | with_reducible apply State.stPut_keeps
    | with_reducible apply State.setStErr_keeps
    | split
    | exact id
    | exact smWf_put _ _ _ _
    | exact smWf_put (fun _ => _) _ _ _
    | exact smWf_keep _ _ _
    | exact smWf_putBytes _ _ _
    | exact smWfFrom_filter _ _ _ _
    | exact fun _ => smWf_nil _

theorem State.drainBlock_keeps {r0 s : State} (hk : Keeps r0 s) (r : TaskRun) (m : MoveEntry) (bad : Bool) (ecc i : Nat) : Keeps r0 (State.drainBlock s r m bad ecc i) := by
  rw [State.drainBlock]
  repeat' first
    | (conv => enter [2, 41]); with_reducible refine Keeps.same ?_
    | (conv => enter [2, 41]); with_reducible refine Keeps.upd ?_ ?_ ?_ ?_ ?_ ?_ ?_ ?_ ?_ ?_ ?_ ?_
    | dsimp only
    | with_reducible assumption
    | with_reducible exact Keeps.refl _
    | with_reducible refine Keeps.ite ?_ ?_
    | with_reducible refine Keeps.foldl ?_ (fun _ _ _ => ?_)
    | with_reducible apply State.portWrite_keeps
    | with_reducible refine State.portWrite_keepsE ?_ (by with_reducible assumption)
    | split
    | exact id
    | exact smWf_put _ _ _ _
    | exact smWf_put (fun _ => _) _ _ _
    | exact smWf_keep _ _ _
    | exact smWf_putBytes _ _ _
    | exact smWfFrom_filter _ _ _ _
    | exact fun _ => smWf_nil _

theorem State.badMove_keeps {r0 s : State} (hk : Keeps r0 s) (r : TaskRun) (o : UnitObs) : Keeps r0 (State.badMove s r o) := by
  rw [State.badMove]
  repeat' first
    | (conv => enter [2, 41]); with_reducible refine Keeps.same ?_
    | (conv => enter [2, 41]); with_reducible refine Keeps.upd ?_ ?_ ?_ ?_ ?_ ?_ ?_ ?_ ?_ ?_ ?_ ?_
    | dsimp only
    | with_reducible assumption
    | with_reducible exact Keeps.refl _
    | with_reducible refine Keeps.ite ?_ ?_
    | with_reducible refine Keeps.foldl ?_ (fun _ _ _ => ?_)
    | with_reducible apply State.raiseTask_keeps
    | with_reducible apply State.withhold_keeps
    | with_reducible apply State.endHere_keeps
    | split
    | exact id
    | exact smWf_put _ _ _ _
    | exact smWf_put (fun _ => _) _ _ _
    | exact smWf_keep _ _ _
    | exact smWf_putBytes _ _ _
    | exact smWfFrom_filter _ _ _ _
    | exact fun _ => smWf_nil _

end Sys2Proof.Machine
end

