-- ==== Sys2Proof/Laws/Keeps/Ohp.lean ====
section
/-! SUPPORT. Every operation of Machine/Ohp.lean that answers a state keeps the part, the queue and the canonical form. -/

namespace Sys2Proof.Machine

theorem State.sendOr_keeps {r0 s : State} (hk : Keeps r0 s) (copies : Bool) (m : Msg) : Keeps r0 (State.sendOr s copies m) := by
  unfold State.sendOr
  repeat' first
    | (conv => enter [2, 41]); with_reducible refine Keeps.same ?_
    | (conv => enter [2, 41]); with_reducible refine Keeps.upd ?_ ?_ ?_ ?_ ?_ ?_ ?_ ?_ ?_ ?_ ?_ ?_
    | dsimp only
    | with_reducible assumption
    | with_reducible exact Keeps.refl _
    | with_reducible refine Keeps.ite ?_ ?_
    | with_reducible refine Keeps.foldl ?_ (fun _ _ _ => ?_)
    | with_reducible refine State.port_keeps ?_ (by with_reducible assumption)
    | with_reducible apply State.emit_keeps
    | with_reducible apply State.raise_keeps
    | split
    | exact id
    | exact smWf_put _ _ _ _
    | exact smWf_put (fun _ => _) _ _ _
    | exact smWf_keep _ _ _
    | exact smWf_putBytes _ _ _
    | exact smWfFrom_filter _ _ _ _
    | exact fun _ => smWf_nil _

theorem State.takeOhp_keeps {r0 s t : State} (hk : Keeps r0 s) {typ want : Nat} {q : OhpIn} (e : State.takeOhp s typ want = some (q, t)) : Keeps r0 t := by
  unfold State.takeOhp at e
  repeat' split at e
  all_goals first | (injection e with e1; injection e1 with e2 e3; subst e3) | cases e
  repeat' first
    | (conv => enter [2, 41]); with_reducible refine Keeps.same ?_
    | (conv => enter [2, 41]); with_reducible refine Keeps.upd ?_ ?_ ?_ ?_ ?_ ?_ ?_ ?_ ?_ ?_ ?_ ?_
    | dsimp only
    | with_reducible assumption
    | with_reducible exact Keeps.refl _
    | with_reducible refine Keeps.ite ?_ ?_
    | with_reducible refine Keeps.foldl ?_ (fun _ _ _ => ?_)
    | with_reducible apply State.count_keeps
    | split
    | exact id
    | exact smWf_put _ _ _ _
    | exact smWf_put (fun _ => _) _ _ _
    | exact smWf_keep _ _ _
    | exact smWf_putBytes _ _ _
    | exact smWfFrom_filter _ _ _ _
    | exact fun _ => smWf_nil _

theorem State.hear_keeps {r0 s : State} (hk : Keeps r0 s) (q : OhpIn) : Keeps r0 (State.hear s q) := by
  rw [State.hear]
  repeat' first
    | (conv => enter [2, 41]); with_reducible refine Keeps.same ?_
    | (conv => enter [2, 41]); with_reducible refine Keeps.upd ?_ ?_ ?_ ?_ ?_ ?_ ?_ ?_ ?_ ?_ ?_ ?_
    | dsimp only
    | with_reducible assumption
    | with_reducible exact Keeps.refl _
    | with_reducible refine Keeps.ite ?_ ?_
    | with_reducible refine Keeps.foldl ?_ (fun _ _ _ => ?_)
    | split
    | exact id
    | exact smWf_put _ _ _ _
    | exact smWf_put (fun _ => _) _ _ _
    | exact smWf_keep _ _ _
    | exact smWf_putBytes _ _ _
    | exact smWfFrom_filter _ _ _ _
    | exact fun _ => smWf_nil _

theorem State.keepResp_keeps {r0 s : State} (hk : Keeps r0 s) (q : OhpIn) (m : Option Msg) : Keeps r0 (State.keepResp s q m) := by
  rw [State.keepResp]
  repeat' first
    | (conv => enter [2, 41]); with_reducible refine Keeps.same ?_
    | (conv => enter [2, 41]); with_reducible refine Keeps.upd ?_ ?_ ?_ ?_ ?_ ?_ ?_ ?_ ?_ ?_ ?_ ?_
    | dsimp only
    | with_reducible assumption
    | with_reducible exact Keeps.refl _
    | with_reducible refine Keeps.ite ?_ ?_
    | with_reducible refine Keeps.foldl ?_ (fun _ _ _ => ?_)
    | with_reducible apply Upd.take_keeps
    | split
    | exact id
    | exact smWf_put _ _ _ _
    | exact smWf_put (fun _ => _) _ _ _
    | exact smWf_keep _ _ _
    | exact smWf_putBytes _ _ _
    | exact smWfFrom_filter _ _ _ _
    | exact fun _ => smWf_nil _

theorem State.fillResp_keeps {r0 s : State} (hk : Keeps r0 s) (q : OhpIn) (m : Msg) : Keeps r0 (State.fillResp s q m) := by
  rw [State.fillResp]
  repeat' first
    | (conv => enter [2, 41]); with_reducible refine Keeps.same ?_
    | (conv => enter [2, 41]); with_reducible refine Keeps.upd ?_ ?_ ?_ ?_ ?_ ?_ ?_ ?_ ?_ ?_ ?_ ?_
    | dsimp only
    | with_reducible assumption
    | with_reducible exact Keeps.refl _
    | with_reducible refine Keeps.ite ?_ ?_
    | with_reducible refine Keeps.foldl ?_ (fun _ _ _ => ?_)
    | split
    | exact id
    | exact smWf_put _ _ _ _
    | exact smWf_put (fun _ => _) _ _ _
    | exact smWf_keep _ _ _
    | exact smWf_putBytes _ _ _
    | exact smWfFrom_filter _ _ _ _
    | exact fun _ => smWf_nil _

theorem State.answer_keeps {r0 s : State} (hk : Keeps r0 s) (q : OhpIn) (copies : Bool) (status : Nat) (payload : List Byte) : Keeps r0 (State.answer s q copies status payload) := by
  rw [State.answer]
  repeat' first
    | (conv => enter [2, 41]); with_reducible refine Keeps.same ?_
    | (conv => enter [2, 41]); with_reducible refine Keeps.upd ?_ ?_ ?_ ?_ ?_ ?_ ?_ ?_ ?_ ?_ ?_ ?_
    | dsimp only
    | with_reducible assumption
    | with_reducible exact Keeps.refl _
    | with_reducible refine Keeps.ite ?_ ?_
    | with_reducible refine Keeps.foldl ?_ (fun _ _ _ => ?_)
    | with_reducible apply State.keepResp_keeps
    | with_reducible apply State.sendOr_keeps
    | split
    | exact id
    | exact smWf_put _ _ _ _
    | exact smWf_put (fun _ => _) _ _ _
    | exact smWf_keep _ _ _
    | exact smWf_putBytes _ _ _
    | exact smWfFrom_filter _ _ _ _
    | exact fun _ => smWf_nil _

theorem State.screen_keeps {r0 s t : State} (hk : Keeps r0 s) {q : OhpIn} {copies a b : Bool} (e : State.screen s q copies a b = some t) : Keeps r0 t := by
  unfold State.screen at e
  dsimp only at e
  repeat' split at e
  all_goals first | (injection e with e1; subst e1) | cases e
  repeat' first
    | (conv => enter [2, 41]); with_reducible refine Keeps.same ?_
    | (conv => enter [2, 41]); with_reducible refine Keeps.upd ?_ ?_ ?_ ?_ ?_ ?_ ?_ ?_ ?_ ?_ ?_ ?_
    | dsimp only
    | with_reducible assumption
    | with_reducible exact Keeps.refl _
    | with_reducible refine Keeps.ite ?_ ?_
    | with_reducible refine Keeps.foldl ?_ (fun _ _ _ => ?_)
    | with_reducible apply State.hear_keeps
    | with_reducible apply State.ohpBadMsg_keeps
    | with_reducible apply State.sendOr_keeps
    | with_reducible apply State.count_keeps
    | with_reducible apply State.raise_keeps
    | split
    | exact id
    | exact smWf_put _ _ _ _
    | exact smWf_put (fun _ => _) _ _ _
    | exact smWf_keep _ _ _
    | exact smWf_putBytes _ _ _
    | exact smWfFrom_filter _ _ _ _
    | exact fun _ => smWf_nil _

theorem State.duplicate_keeps {r0 s t : State} (hk : Keeps r0 s) {q : OhpIn} {copies : Bool} (e : State.duplicate s q copies = some t) : Keeps r0 t := by
  unfold State.duplicate at e
  dsimp only at e
  repeat' split at e
  all_goals first | (injection e with e1; subst e1) | cases e
  repeat' first
    | (conv => enter [2, 41]); with_reducible refine Keeps.same ?_
    | (conv => enter [2, 41]); with_reducible refine Keeps.upd ?_ ?_ ?_ ?_ ?_ ?_ ?_ ?_ ?_ ?_ ?_ ?_
    | dsimp only
    | with_reducible assumption
    | with_reducible exact Keeps.refl _
    | with_reducible refine Keeps.ite ?_ ?_
    | with_reducible refine Keeps.foldl ?_ (fun _ _ _ => ?_)
    | with_reducible apply State.count_keeps
    | with_reducible apply State.sendOr_keeps
    | split
    | exact id
    | exact smWf_put _ _ _ _
    | exact smWf_put (fun _ => _) _ _ _
    | exact smWf_keep _ _ _
    | exact smWf_putBytes _ _ _
    | exact smWfFrom_filter _ _ _ _
    | exact fun _ => smWf_nil _

theorem State.request_keeps {r0 s : State} (hk : Keeps r0 s) (typ : Nat) (copies : Bool) (kind : Option Nat) (write : Bool) (ok : OhpIn → Bool)
    (run : OhpIn → State → State) (hr : ∀ q t, Keeps r0 t → Keeps r0 (run q t)) : Keeps r0 (State.request s typ copies kind write ok run) := by
  unfold State.request
  dsimp only
  split
  · exact hk
  · next e =>
    have h1 := State.takeOhp_keeps hk e
    split
    · next e2 => exact State.screen_keeps h1 e2
    · split
      · next e3 => exact State.duplicate_keeps (State.hear_keeps h1 _) e3
      · split
        · exact State.answer_keeps (State.hear_keeps h1 _) _ _ _ _
        · exact hr _ _ (State.hear_keeps h1 _)

theorem State.refuse_keeps {r0 s : State} (hk : Keeps r0 s) (q : OhpIn) (copies : Bool) : Keeps r0 (State.refuse s q copies) := by
  rw [State.refuse]
  repeat' first
    | (conv => enter [2, 41]); with_reducible refine Keeps.same ?_
    | (conv => enter [2, 41]); with_reducible refine Keeps.upd ?_ ?_ ?_ ?_ ?_ ?_ ?_ ?_ ?_ ?_ ?_ ?_
    | dsimp only
    | with_reducible assumption
    | with_reducible exact Keeps.refl _
    | with_reducible refine Keeps.ite ?_ ?_
    | with_reducible refine Keeps.foldl ?_ (fun _ _ _ => ?_)
    | with_reducible apply State.count_keeps
    | with_reducible apply State.answer_keeps
    | split
    | exact id
    | exact smWf_put _ _ _ _
    | exact smWf_put (fun _ => _) _ _ _
    | exact smWf_keep _ _ _
    | exact smWf_putBytes _ _ _
    | exact smWfFrom_filter _ _ _ _
    | exact fun _ => smWf_nil _

theorem State.putCsrWord_keeps {r0 s : State} (hk : Keeps r0 s) (a : Addr) (v : Nat) : Keeps r0 (State.putCsrWord s a v) := by
  rw [State.putCsrWord]
  repeat' first
    | (conv => enter [2, 41]); with_reducible refine Keeps.same ?_
    | (conv => enter [2, 41]); with_reducible refine Keeps.upd ?_ ?_ ?_ ?_ ?_ ?_ ?_ ?_ ?_ ?_ ?_ ?_
    | dsimp only
    | with_reducible assumption
    | with_reducible exact Keeps.refl _
    | with_reducible refine Keeps.ite ?_ ?_
    | with_reducible refine Keeps.foldl ?_ (fun _ _ _ => ?_)
    | with_reducible apply State.regWrite_keeps
    | with_reducible apply State.locWrite_keeps
    | split
    | exact id
    | exact smWf_put _ _ _ _
    | exact smWf_put (fun _ => _) _ _ _
    | exact smWf_keep _ _ _
    | exact smWf_putBytes _ _ _
    | exact smWfFrom_filter _ _ _ _
    | exact fun _ => smWf_nil _

theorem State.readBlocks_keeps {r0 s : State} (hk : Keeps r0 s) (as_ : List Addr) (ecc : List Nat) : Keeps r0 (State.readBlocks s as_ ecc).1 := by
  induction as_ generalizing s ecc with
  | nil => exact hk
  | cons a as_ ih =>
    unfold State.readBlocks
    split
    · exact hk
    · split
      · next e => exact State.memRead_keepsE hk e
      · next e =>
        have h1 := ih (State.memRead_keepsE hk e) (ecc.drop 1)
        split <;> (next e2 => rw [e2] at h1; exact h1)
theorem State.readBlocks_keepsE {r0 s t : State} (hk : Keeps r0 s) {as_ : List Addr} {ecc : List Nat} {x : Option (List Byte × Bool)}
    (e : State.readBlocks s as_ ecc = (t, x)) : Keeps r0 t := by
  have g := State.readBlocks_keeps hk as_ ecc
  rw [e] at g
  exact g

theorem State.writeBlocks_keeps {r0 s : State} (hk : Keeps r0 s) (gen : Bool) (as_ : List Addr) (ecc : List Nat) (bs : List Byte) :
    Keeps r0 (State.writeBlocks s gen as_ ecc bs).1 := by
  induction as_ generalizing s ecc bs with
  | nil => exact hk
  | cons a as_ ih =>
    unfold State.writeBlocks
    split
    · exact hk
    · split
      · next e => exact ih (State.memWrite_keepsE hk e) _ _
      · next e => exact State.memWrite_keepsE hk e
theorem State.writeBlocks_keepsE {r0 s t : State} (hk : Keeps r0 s) {gen : Bool} {as_ : List Addr} {ecc : List Nat} {bs : List Byte} {x : Bool}
    (e : State.writeBlocks s gen as_ ecc bs = (t, x)) : Keeps r0 t := by
  have g := State.writeBlocks_keeps hk gen as_ ecc bs
  rw [e] at g
  exact g

theorem State.egressFail_keeps {r0 s : State} (hk : Keeps r0 s) (port : Nat) : Keeps r0 (State.egressFail s port) := by
  rw [State.egressFail]
  repeat' first
    | (conv => enter [2, 41]); with_reducible refine Keeps.same ?_
    | (conv => enter [2, 41]); with_reducible refine Keeps.upd ?_ ?_ ?_ ?_ ?_ ?_ ?_ ?_ ?_ ?_ ?_ ?_
    | dsimp only
    | with_reducible assumption
    | with_reducible exact Keeps.refl _
    | with_reducible refine Keeps.ite ?_ ?_
    | with_reducible refine Keeps.foldl ?_ (fun _ _ _ => ?_)
    | with_reducible apply State.raise_keeps
    | with_reducible apply State.count_keeps
    | with_reducible refine State.port_keeps ?_ (by with_reducible assumption)
    | split
    | exact id
    | exact smWf_put _ _ _ _
    | exact smWf_put (fun _ => _) _ _ _
    | exact smWf_keep _ _ _
    | exact smWf_putBytes _ _ _
    | exact smWfFrom_filter _ _ _ _
    | exact fun _ => smWf_nil _

theorem State.verdict_keeps {r0 s : State} (hk : Keeps r0 s) (q : OhpIn) (v : Verdict) (copies : Bool) : Keeps r0 (State.verdict s q v copies) := by
  rw [State.verdict]
  repeat' first
    | (conv => enter [2, 41]); with_reducible refine Keeps.same ?_
    | (conv => enter [2, 41]); with_reducible refine Keeps.upd ?_ ?_ ?_ ?_ ?_ ?_ ?_ ?_ ?_ ?_ ?_ ?_
    | dsimp only
    | with_reducible assumption
    | with_reducible exact Keeps.refl _
    | with_reducible refine Keeps.ite ?_ ?_
    | with_reducible refine Keeps.foldl ?_ (fun _ _ _ => ?_)
    | with_reducible apply State.setLast_keeps
    | with_reducible apply State.count_keeps
    | with_reducible apply State.raise_keeps
    | with_reducible apply State.fillResp_keeps
    | with_reducible apply State.sendOr_keeps
    | split
    | exact id
    | exact smWf_put _ _ _ _
    | exact smWf_put (fun _ => _) _ _ _
    | exact smWf_keep _ _ _
    | exact smWf_putBytes _ _ _
    | exact smWfFrom_filter _ _ _ _
    | exact fun _ => smWf_nil _

end Sys2Proof.Machine
end

