-- ==== Sys2Proof/Laws/Keeps/Instance.lean ====
section
/-! SUPPORT. Every operation of Machine/Instance.lean that answers a state keeps the part, the queue and the canonical form. -/

namespace Sys2Proof.Machine

theorem State.releaseInst_keeps {r0 s : State} (hk : Keeps r0 s) (g : GraphRec) (j : Nat) : Keeps r0 (State.releaseInst s g j) := by
  rw [State.releaseInst]
  repeat' first
    | (conv => enter [2, 41]); with_reducible refine Keeps.same ?_
    | (conv => enter [2, 41]); with_reducible refine Keeps.upd ?_ ?_ ?_ ?_ ?_ ?_ ?_ ?_ ?_ ?_ ?_ ?_
    | dsimp only
    | with_reducible assumption
    | with_reducible exact Keeps.refl _
    | with_reducible refine Keeps.ite ?_ ?_
    | with_reducible refine Keeps.foldl ?_ (fun _ _ _ => ?_)
    | with_reducible apply State.fset_keeps
    | with_reducible apply State.setInst_keeps
    | with_reducible apply State.kvRelease_keeps
    | split
    | exact id
    | exact smWf_put _ _ _ _
    | exact smWf_put (fun _ => _) _ _ _
    | exact smWf_keep _ _ _
    | exact smWf_putBytes _ _ _
    | exact smWfFrom_filter _ _ _ _
    | exact fun _ => smWf_nil _

theorem State.entryBlock_keeps {r0 s : State} (hk : Keeps r0 s) (a : Addr) (ecc : Nat) : Keeps r0 (State.entryBlock s a ecc).1 := by
  rw [State.entryBlock]
  repeat' first
    | (conv => enter [2, 41]); with_reducible refine Keeps.same ?_
    | (conv => enter [2, 41]); with_reducible refine Keeps.upd ?_ ?_ ?_ ?_ ?_ ?_ ?_ ?_ ?_ ?_ ?_ ?_
    | dsimp only
    | with_reducible assumption
    | with_reducible exact Keeps.refl _
    | with_reducible refine Keeps.ite ?_ ?_
    | with_reducible refine Keeps.foldl ?_ (fun _ _ _ => ?_)
    | with_reducible apply State.readBlocks_keeps
    | with_reducible refine State.readBlocks_keepsE ?_ (by with_reducible assumption)
    | split
    | exact id
    | exact smWf_put _ _ _ _
    | exact smWf_put (fun _ => _) _ _ _
    | exact smWf_keep _ _ _
    | exact smWf_putBytes _ _ _
    | exact smWfFrom_filter _ _ _ _
    | exact fun _ => smWf_nil _

theorem State.entryBlock_keepsE {r0 : State} {s : State} (hk : Keeps r0 s) {a : Addr} {ecc : Nat} {t_ : State} {x_ : (List Byte × Bool)} (e_ : State.entryBlock s a ecc = (t_, x_)) : Keeps r0 t_ := by
  have g := State.entryBlock_keeps hk a ecc
  rw [e_] at g
  exact g

theorem State.entryBlocks_keeps {r0 s : State} (hk : Keeps r0 s) (a : Addr) (ecc : List Nat) (n : Nat) :
    Keeps r0 (State.entryBlocks s a ecc n).1 := by
  induction n generalizing s a ecc with
  | zero => exact hk
  | succ n ih => exact ih (State.entryBlock_keeps hk a _) _ _
theorem State.entryBlocks_keepsE {r0 s t : State} (hk : Keeps r0 s) {a : Addr} {ecc : List Nat} {n : Nat} {x : List (List Byte × Bool)}
    (e : State.entryBlocks s a ecc n = (t, x)) : Keeps r0 t := by
  have g := State.entryBlocks_keeps hk a ecc n
  rw [e] at g
  exact g

theorem State.sendOn_keeps {r0 s : State} (hk : Keeps r0 s) (ports : List Nat) (m : OhpMsg) (pcp : Nat) (bad copies : Bool) : Keeps r0 (State.sendOn s ports m pcp bad copies) := by
  rw [State.sendOn]
  repeat' first
    | (conv => enter [2, 41]); with_reducible refine Keeps.same ?_
    | (conv => enter [2, 41]); with_reducible refine Keeps.upd ?_ ?_ ?_ ?_ ?_ ?_ ?_ ?_ ?_ ?_ ?_ ?_
    | dsimp only
    | with_reducible assumption
    | with_reducible exact Keeps.refl _
    | with_reducible refine Keeps.ite ?_ ?_
    | with_reducible refine Keeps.foldl ?_ (fun _ _ _ => ?_)
    | with_reducible refine Keeps.foldl1 ?_ (fun _ _ _ => ?_)
    | with_reducible apply State.egressFail_keeps
    | with_reducible apply State.sendOr_keeps
    | with_reducible refine State.port_keeps ?_ (by with_reducible assumption)
    | split
    | exact id
    | exact smWf_put _ _ _ _
    | exact smWf_put (fun _ => _) _ _ _
    | exact smWf_keep _ _ _
    | exact smWf_putBytes _ _ _
    | exact smWfFrom_filter _ _ _ _
    | exact fun _ => smWf_nil _

theorem State.sendFrags_keeps {r0 s : State} (hk : Keeps r0 s) (send : State → Nat → Nat → List Byte → Bool → State)
    (hs : ∀ t a b c d, Keeps r0 t → Keeps r0 (send t a b c d)) (data : List Byte) (bad : List Bool) (room : Nat) (failed : Bool) (n off : Nat) :
    Keeps r0 (State.sendFrags s send data bad room failed n off) := by
  induction n generalizing s failed off with
  | zero => exact hk
  | succ n ih =>
    refine ih ?_ _ _
    split
    · exact hs _ _ _ _ _ hk
    · exact hs _ _ _ _ _ hk

theorem State.sendResult_keeps {r0 s : State} (hk : Keeps r0 s) (k g j : Nat) (x : InstRun) (held : Bool) (ecc : List Nat) (copies : Bool) : Keeps r0 (State.sendResult s k g j x held ecc copies) := by
  unfold State.sendResult
  dsimp only
  split
  · exact State.sendOn_keeps hk _ _ _ _ _
  · exact State.sendFrags_keeps (State.entryBlocks_keeps hk _ _ _) _ (fun _ _ _ _ _ h => State.sendOn_keeps h _ _ _ _ _) _ _ _ _ _ _

theorem State.sendResults_keeps {r0 s : State} (hk : Keeps r0 s) (g j : Nat) (x : InstRun) (held : Bool) (ecc : List Nat) (copies : Bool) : Keeps r0 (State.sendResults s g j x held ecc copies) := by
  rw [State.sendResults]
  repeat' first
    | (conv => enter [2, 41]); with_reducible refine Keeps.same ?_
    | (conv => enter [2, 41]); with_reducible refine Keeps.upd ?_ ?_ ?_ ?_ ?_ ?_ ?_ ?_ ?_ ?_ ?_ ?_
    | dsimp only
    | with_reducible assumption
    | with_reducible exact Keeps.refl _
    | with_reducible refine Keeps.ite ?_ ?_
    | with_reducible refine Keeps.foldl ?_ (fun _ _ _ => ?_)
    | with_reducible refine Keeps.foldl1 ?_ (fun _ _ _ => ?_)
    | with_reducible apply State.sendResult_keeps
    | split
    | exact id
    | exact smWf_put _ _ _ _
    | exact smWf_put (fun _ => _) _ _ _
    | exact smWf_keep _ _ _
    | exact smWf_putBytes _ _ _
    | exact smWfFrom_filter _ _ _ _
    | exact fun _ => smWf_nil _

theorem State.retireInst_keeps {r0 s : State} (hk : Keeps r0 s) (g j : Nat) (ecc : List Nat) (copies : Bool) : Keeps r0 (State.retireInst s g j ecc copies) := by
  rw [State.retireInst]
  repeat' first
    | (conv => enter [2, 41]); with_reducible refine Keeps.same ?_
    | (conv => enter [2, 41]); with_reducible refine Keeps.upd ?_ ?_ ?_ ?_ ?_ ?_ ?_ ?_ ?_ ?_ ?_ ?_
    | dsimp only
    | with_reducible assumption
    | with_reducible exact Keeps.refl _
    | with_reducible refine Keeps.ite ?_ ?_
    | with_reducible refine Keeps.foldl ?_ (fun _ _ _ => ?_)
    | with_reducible apply State.setInst_keeps
    | with_reducible apply State.kvRetire_keeps
    | with_reducible apply State.checkpoint_keeps
    | with_reducible apply State.judgeJoins_keeps
    | with_reducible apply State.sendResults_keeps
    | split
    | exact id
    | exact smWf_put _ _ _ _
    | exact smWf_put (fun _ => _) _ _ _
    | exact smWf_keep _ _ _
    | exact smWf_putBytes _ _ _
    | exact smWfFrom_filter _ _ _ _
    | exact fun _ => smWf_nil _

end Sys2Proof.Machine
end

