-- ==== Sys2Proof/Laws/Keeps/Boot.lean ====
section
/-! SUPPORT. Every operation of Machine/Boot.lean that answers a state keeps the part, the queue and the canonical form. -/

namespace Sys2Proof.Machine

theorem State.bootFail_keeps {r0 s : State} (hk : Keeps r0 s) (code sect ev unit : Nat) : Keeps r0 (State.bootFail s code sect ev unit) := by
  rw [State.bootFail]
  repeat' first
    | (conv => enter [2, 41]); with_reducible refine Keeps.same ?_
    | (conv => enter [2, 41]); with_reducible refine Keeps.upd ?_ ?_ ?_ ?_ ?_ ?_ ?_ ?_ ?_ ?_ ?_ ?_
    | dsimp only
    | with_reducible assumption
    | with_reducible exact Keeps.refl _
    | with_reducible refine Keeps.ite ?_ ?_
    | with_reducible refine Keeps.foldl ?_ (fun _ _ _ => ?_)
    | with_reducible apply State.fset_keeps
    | with_reducible apply State.raise_keeps
    | split
    | exact id
    | exact smWf_put _ _ _ _
    | exact smWf_put (fun _ => _) _ _ _
    | exact smWf_keep _ _ _
    | exact smWf_putBytes _ _ _
    | exact smWfFrom_filter _ _ _ _
    | exact fun _ => smWf_nil _

theorem State.verified_keeps {r0 s : State} (hk : Keeps r0 s) (b : List Byte) (second puf : Bool) : Keeps r0 (State.verified s b second puf) := by
  rw [State.verified]
  repeat' first
    | (conv => enter [2, 41]); with_reducible refine Keeps.same ?_
    | (conv => enter [2, 41]); with_reducible refine Keeps.upd ?_ ?_ ?_ ?_ ?_ ?_ ?_ ?_ ?_ ?_ ?_ ?_
    | dsimp only
    | with_reducible assumption
    | with_reducible exact Keeps.refl _
    | with_reducible refine Keeps.ite ?_ ?_
    | with_reducible refine Keeps.foldl ?_ (fun _ _ _ => ?_)
    | with_reducible apply State.fset_keeps
    | with_reducible apply State.showOtp_keeps
    | with_reducible apply State.raise_keeps
    | split
    | exact id
    | exact smWf_put _ _ _ _
    | exact smWf_put (fun _ => _) _ _ _
    | exact smWf_keep _ _ _
    | exact smWf_putBytes _ _ _
    | exact smWfFrom_filter _ _ _ _
    | exact fun _ => smWf_nil _

theorem State.poisonAt_keeps {r0 s : State} (hk : Keeps r0 s) (as_ : List Addr) : Keeps r0 (State.poisonAt s as_) := by
  rw [State.poisonAt]
  repeat' first
    | (conv => enter [2, 41]); with_reducible refine Keeps.same ?_
    | (conv => enter [2, 41]); with_reducible refine Keeps.upd ?_ ?_ ?_ ?_ ?_ ?_ ?_ ?_ ?_ ?_ ?_ ?_
    | dsimp only
    | with_reducible assumption
    | with_reducible exact Keeps.refl _
    | with_reducible refine Keeps.ite ?_ ?_
    | with_reducible refine Keeps.foldl ?_ (fun _ _ _ => ?_)
    | with_reducible refine Keeps.foldl1 ?_ (fun _ _ _ => ?_)
    | with_reducible apply State.raise_keeps
    | with_reducible apply State.locSetChk_keeps
    | split
    | exact id
    | exact smWf_put _ _ _ _
    | exact smWf_put (fun _ => _) _ _ _
    | exact smWf_keep _ _ _
    | exact smWf_putBytes _ _ _
    | exact smWfFrom_filter _ _ _ _
    | exact fun _ => smWf_nil _

theorem State.checkImage_keeps {r0 s : State} (hk : Keeps r0 s) (flash : List Byte) (puf : Bool) (gen : List Nat) : Keeps r0 (State.checkImage s flash puf gen) := by
  unfold State.checkImage
  repeat' first
    | (conv => enter [2, 41]); with_reducible refine Keeps.same ?_
    | (conv => enter [2, 41]); with_reducible refine Keeps.upd ?_ ?_ ?_ ?_ ?_ ?_ ?_ ?_ ?_ ?_ ?_ ?_
    | dsimp only
    | with_reducible assumption
    | with_reducible exact Keeps.refl _
    | with_reducible refine Keeps.ite ?_ ?_
    | with_reducible refine Keeps.foldl ?_ (fun _ _ _ => ?_)
    | with_reducible apply State.poke_keeps
    | with_reducible apply State.poisonAt_keeps
    | with_reducible apply State.verified_keeps
    | with_reducible apply State.bootFail_keeps
    | with_reducible apply State.fset_keeps
    | with_reducible apply State.raise_keeps
    | split
    | exact id
    | exact smWf_put _ _ _ _
    | exact smWf_put (fun _ => _) _ _ _
    | exact smWf_keep _ _ _
    | exact smWf_putBytes _ _ _
    | exact smWfFrom_filter _ _ _ _
    | exact fun _ => smWf_nil _

theorem State.drawKey_keeps {r0 s : State} (hk : Keeps r0 s) (i : Nat) : Keeps r0 (State.drawKey s i) := by
  rw [State.drawKey]
  repeat' first
    | (conv => enter [2, 41]); with_reducible refine Keeps.same ?_
    | (conv => enter [2, 41]); with_reducible refine Keeps.upd ?_ ?_ ?_ ?_ ?_ ?_ ?_ ?_ ?_ ?_ ?_ ?_
    | dsimp only
    | with_reducible assumption
    | with_reducible exact Keeps.refl _
    | with_reducible refine Keeps.ite ?_ ?_
    | with_reducible refine Keeps.foldl ?_ (fun _ _ _ => ?_)
    | with_reducible apply State.draw_keeps2
    | with_reducible refine State.draw_keepsE ?_ (by with_reducible assumption)
    | split
    | exact id
    | exact smWf_put _ _ _ _
    | exact smWf_put (fun _ => _) _ _ _
    | exact smWf_keep _ _ _
    | exact smWf_putBytes _ _ _
    | exact smWfFrom_filter _ _ _ _
    | exact fun _ => smWf_nil _

/-- A map whose form is kept at every put keeps it through a run of puts. -/
theorem smWf_foldl_put {α β : Type} [DecidableEq α] (d : α) (k : β → Nat) (v : β → α) (l : List β) (m : SMap α) (h : smWf (fun _ => d) m = true) :
    smWf (fun _ => d) (l.foldl (fun m p => smPut d m (k p) (v p)) m) = true := by
  induction l generalizing m with
  | nil => exact h
  | cons x l ih => exact ih _ (smWf_put (fun _ => d) _ _ _ h)

theorem State.rekey_keeps {r0 s : State} (hk : Keeps r0 s) (die old new : Nat) : Keeps r0 (State.rekey s die old new) := by
  rw [State.rekey]
  (conv => enter [2, 41])
  refine Keeps.upd ?_ ?_ ?_ ?_ ?_ ?_ ?_ ?_ ?_ ?_ ?_ ?_
  all_goals first | exact hk | exact id | exact fun h => smWf_foldl_put _ _ _ _ _ h

theorem State.drawDramKey_keeps {r0 s : State} (hk : Keeps r0 s) (i die : Nat) : Keeps r0 (State.drawDramKey s i die) := by
  rw [State.drawDramKey]
  repeat' first
    | (conv => enter [2, 41]); with_reducible refine Keeps.same ?_
    | (conv => enter [2, 41]); with_reducible refine Keeps.upd ?_ ?_ ?_ ?_ ?_ ?_ ?_ ?_ ?_ ?_ ?_ ?_
    | dsimp only
    | with_reducible assumption
    | with_reducible exact Keeps.refl _
    | with_reducible refine Keeps.ite ?_ ?_
    | with_reducible refine Keeps.foldl ?_ (fun _ _ _ => ?_)
    | with_reducible apply State.drawKey_keeps
    | with_reducible apply State.rekey_keeps
    | split
    | exact id
    | exact smWf_put _ _ _ _
    | exact smWf_put (fun _ => _) _ _ _
    | exact smWf_keep _ _ _
    | exact smWf_putBytes _ _ _
    | exact smWfFrom_filter _ _ _ _
    | exact fun _ => smWf_nil _

theorem State.drawDieKeys_keeps {r0 s : State} (hk : Keeps r0 s) (t : Nat) : Keeps r0 (State.drawDieKeys s t) := by
  rw [State.drawDieKeys]
  repeat' first
    | (conv => enter [2, 41]); with_reducible refine Keeps.same ?_
    | (conv => enter [2, 41]); with_reducible refine Keeps.upd ?_ ?_ ?_ ?_ ?_ ?_ ?_ ?_ ?_ ?_ ?_ ?_
    | dsimp only
    | with_reducible assumption
    | with_reducible exact Keeps.refl _
    | with_reducible refine Keeps.ite ?_ ?_
    | with_reducible refine Keeps.foldl ?_ (fun _ _ _ => ?_)
    | with_reducible apply State.drawDramKey_keeps
    | with_reducible apply State.drawKey_keeps
    | with_reducible apply State.countWrap_keeps
    | split
    | exact id
    | exact smWf_put _ _ _ _
    | exact smWf_put (fun _ => _) _ _ _
    | exact smWf_keep _ _ _
    | exact smWf_putBytes _ _ _
    | exact smWfFrom_filter _ _ _ _
    | exact fun _ => smWf_nil _

theorem State.drawKeys_keeps {r0 s : State} (hk : Keeps r0 s) (img : List Byte) : Keeps r0 (State.drawKeys s img) := by
  rw [State.drawKeys]
  repeat' first
    | (conv => enter [2, 41]); with_reducible refine Keeps.same ?_
    | (conv => enter [2, 41]); with_reducible refine Keeps.upd ?_ ?_ ?_ ?_ ?_ ?_ ?_ ?_ ?_ ?_ ?_ ?_
    | dsimp only
    | with_reducible assumption
    | with_reducible exact Keeps.refl _
    | with_reducible refine Keeps.ite ?_ ?_
    | with_reducible refine Keeps.foldl ?_ (fun _ _ _ => ?_)
    | with_reducible refine Keeps.foldl1 ?_ (fun _ _ _ => ?_)
    | with_reducible apply State.drawDieKeys_keeps
    | with_reducible apply State.drawDramKey_keeps
    | with_reducible apply State.countWrap_keeps
    | with_reducible apply State.poke_keeps
    | split
    | exact id
    | exact smWf_put _ _ _ _
    | exact smWf_put (fun _ => _) _ _ _
    | exact smWf_keep _ _ _
    | exact smWf_putBytes _ _ _
    | exact smWfFrom_filter _ _ _ _
    | exact fun _ => smWf_nil _

theorem State.putRecord_keeps {r0 s : State} (hk : Keeps r0 s) (x : Addr × RegDef × Nat) : Keeps r0 (State.putRecord s x) := by
  rw [State.putRecord]
  repeat' first
    | (conv => enter [2, 41]); with_reducible refine Keeps.same ?_
    | (conv => enter [2, 41]); with_reducible refine Keeps.upd ?_ ?_ ?_ ?_ ?_ ?_ ?_ ?_ ?_ ?_ ?_ ?_
    | dsimp only
    | with_reducible assumption
    | with_reducible exact Keeps.refl _
    | with_reducible refine Keeps.ite ?_ ?_
    | with_reducible refine Keeps.foldl ?_ (fun _ _ _ => ?_)
    | with_reducible apply State.wr_keeps
    | with_reducible apply State.freeTime_keeps
    | split
    | exact id
    | exact smWf_put _ _ _ _
    | exact smWf_put (fun _ => _) _ _ _
    | exact smWf_keep _ _ _
    | exact smWf_putBytes _ _ _
    | exact smWfFrom_filter _ _ _ _
    | exact fun _ => smWf_nil _

theorem State.applyRecords_keeps {r0 s : State} (hk : Keeps r0 s) (img : List Byte) (f : Addr → Bool) : Keeps r0 (State.applyRecords s img f).1 := by
  rw [State.applyRecords]
  repeat' first
    | (conv => enter [2, 41]); with_reducible refine Keeps.same ?_
    | (conv => enter [2, 41]); with_reducible refine Keeps.upd ?_ ?_ ?_ ?_ ?_ ?_ ?_ ?_ ?_ ?_ ?_ ?_
    | dsimp only
    | with_reducible assumption
    | with_reducible exact Keeps.refl _
    | with_reducible refine Keeps.ite ?_ ?_
    | with_reducible refine Keeps.foldl ?_ (fun _ _ _ => ?_)
    | with_reducible refine Keeps.foldl1 ?_ (fun _ _ _ => ?_)
    | with_reducible apply State.putRecord_keeps
    | split
    | exact id
    | exact smWf_put _ _ _ _
    | exact smWf_put (fun _ => _) _ _ _
    | exact smWf_keep _ _ _
    | exact smWf_putBytes _ _ _
    | exact smWfFrom_filter _ _ _ _
    | exact fun _ => smWf_nil _

theorem State.applyRecords_keepsE {r0 : State} {s : State} (hk : Keeps r0 s) {img : List Byte} {f : Addr → Bool} {t_ : State} {x_ : Option Nat} (e_ : State.applyRecords s img f = (t_, x_)) : Keeps r0 t_ := by
  have g := State.applyRecords_keeps hk img f
  rw [e_] at g
  exact g

theorem State.settle_keeps {r0 s : State} (hk : Keeps r0 s)  : Keeps r0 (State.settle s) := by
  rw [State.settle]
  repeat' first
    | (conv => enter [2, 41]); with_reducible refine Keeps.same ?_
    | (conv => enter [2, 41]); with_reducible refine Keeps.upd ?_ ?_ ?_ ?_ ?_ ?_ ?_ ?_ ?_ ?_ ?_ ?_
    | dsimp only
    | with_reducible assumption
    | with_reducible exact Keeps.refl _
    | with_reducible refine Keeps.ite ?_ ?_
    | with_reducible refine Keeps.foldl ?_ (fun _ _ _ => ?_)
    | with_reducible refine Keeps.foldl1 ?_ (fun _ _ _ => ?_)
    | with_reducible apply State.startWake_keeps
    | with_reducible apply State.setDom_keeps
    | with_reducible apply State.showEng_keeps
    | with_reducible apply State.fset_keeps
    | with_reducible apply State.setGate_keeps
    | split
    | exact id
    | exact smWf_put _ _ _ _
    | exact smWf_put (fun _ => _) _ _ _
    | exact smWf_keep _ _ _
    | exact smWf_putBytes _ _ _
    | exact smWfFrom_filter _ _ _ _
    | exact fun _ => smWf_nil _

theorem State.loadCal_keeps {r0 s t : State} (hk : Keeps r0 s) {img : List Byte} (e : State.loadCal s img = some t) : Keeps r0 t := by
  unfold State.loadCal at e
  dsimp only at e
  repeat' split at e
  all_goals first | (injection e with e1; subst e1) | cases e
  repeat' first
    | (conv => enter [2, 41]); with_reducible refine Keeps.same ?_
    | (conv => enter [2, 41]); with_reducible refine Keeps.upd ?_ ?_ ?_ ?_ ?_ ?_ ?_ ?_ ?_ ?_ ?_ ?_
    | dsimp only
    | with_reducible assumption
    | with_reducible exact Keeps.refl _
    | with_reducible refine Keeps.ite ?_ ?_
    | with_reducible refine Keeps.foldl ?_ (fun _ _ _ => ?_)
    | with_reducible refine Keeps.foldl1 ?_ (fun _ _ _ => ?_)
    | with_reducible apply State.wr_keeps
    | split
    | exact id
    | exact smWf_put _ _ _ _
    | exact smWf_put (fun _ => _) _ _ _
    | exact smWf_keep _ _ _
    | exact smWf_putBytes _ _ _
    | exact smWfFrom_filter _ _ _ _
    | exact fun _ => smWf_nil _

theorem State.capturePlnOf_keeps {r0 s : State} (hk : Keeps r0 s) (c : Option (VFail × Nat × Nat)) : Keeps r0 (State.capturePlnOf s c) := by
  unfold State.capturePlnOf
  repeat' first
    | (conv => enter [2, 41]); with_reducible refine Keeps.same ?_
    | (conv => enter [2, 41]); with_reducible refine Keeps.upd ?_ ?_ ?_ ?_ ?_ ?_ ?_ ?_ ?_ ?_ ?_ ?_
    | dsimp only
    | with_reducible assumption
    | with_reducible exact Keeps.refl _
    | with_reducible refine Keeps.ite ?_ ?_
    | with_reducible refine Keeps.foldl ?_ (fun _ _ _ => ?_)
    | with_reducible apply State.capturePln_keeps
    | split
    | exact id
    | exact smWf_put _ _ _ _
    | exact smWf_put (fun _ => _) _ _ _
    | exact smWf_keep _ _ _
    | exact smWf_putBytes _ _ _
    | exact smWfFrom_filter _ _ _ _
    | exact fun _ => smWf_nil _

theorem State.captureFusion_keeps {r0 s : State} (hk : Keeps r0 s) (ev : Nat) : Keeps r0 (State.captureFusion s ev) := by
  rw [State.captureFusion]
  repeat' first
    | (conv => enter [2, 41]); with_reducible refine Keeps.same ?_
    | (conv => enter [2, 41]); with_reducible refine Keeps.upd ?_ ?_ ?_ ?_ ?_ ?_ ?_ ?_ ?_ ?_ ?_ ?_
    | dsimp only
    | with_reducible assumption
    | with_reducible exact Keeps.refl _
    | with_reducible refine Keeps.ite ?_ ?_
    | with_reducible refine Keeps.foldl ?_ (fun _ _ _ => ?_)
    | with_reducible apply State.captureFus_keeps
    | split
    | exact id
    | exact smWf_put _ _ _ _
    | exact smWf_put (fun _ => _) _ _ _
    | exact smWf_keep _ _ _
    | exact smWf_putBytes _ _ _
    | exact smWfFrom_filter _ _ _ _
    | exact fun _ => smWf_nil _

theorem State.configFail_keeps {r0 s : State} (hk : Keeps r0 s) (code sect : Nat) : Keeps r0 (State.configFail s code sect) := by
  rw [State.configFail]
  repeat' first
    | (conv => enter [2, 41]); with_reducible refine Keeps.same ?_
    | (conv => enter [2, 41]); with_reducible refine Keeps.upd ?_ ?_ ?_ ?_ ?_ ?_ ?_ ?_ ?_ ?_ ?_ ?_
    | dsimp only
    | with_reducible assumption
    | with_reducible exact Keeps.refl _
    | with_reducible refine Keeps.ite ?_ ?_
    | with_reducible refine Keeps.foldl ?_ (fun _ _ _ => ?_)
    | with_reducible apply State.bootFail_keeps
    | split
    | exact id
    | exact smWf_put _ _ _ _
    | exact smWf_put (fun _ => _) _ _ _
    | exact smWf_keep _ _ _
    | exact smWf_putBytes _ _ _
    | exact smWfFrom_filter _ _ _ _
    | exact fun _ => smWf_nil _

theorem State.configPlans_keeps {r0 s : State} (hk : Keeps r0 s) (o : Option (Nat × Nat × Option (VFail × Nat × Nat))) : Keeps r0 (s.configPlans o) := by
  match o with
  | none => exact State.fset_keeps (State.startPartner_keeps hk) _ _
  | some (ev, i, c) => exact State.bootFail_keeps (State.captureFusion_keeps (State.capturePlnOf_keeps hk _) _) _ _ _ _

theorem State.configCal_keeps {r0 s : State} (hk : Keeps r0 s) (img : List Byte) {o : Option State} (h : ∀ t, o = some t → Keeps r0 t) :
    Keeps r0 (s.configCal img o) := by
  match o with
  | none => exact State.configFail_keeps hk _ _
  | some t => exact State.configPlans_keeps (h t rfl) _

theorem Keeps.installAll {r0 : State} {es : List (List Byte)} {o : Option State} {t : State} (ho : ∀ s, o = some s → Keeps r0 s)
    (e : es.foldl (fun (o : Option State) e => o.bind fun s => s.installKey e) o = some t) : Keeps r0 t := by
  induction es generalizing o with
  | nil => exact ho t e
  | cons x es ih =>
    refine ih (fun s hs => ?_) e
    rw [Option.bind_eq_some_iff] at hs
    obtain ⟨u, hu, h⟩ := hs
    exact State.installKey_keeps (ho u hu) h

theorem State.configKeys_keeps {r0 s : State} (hk : Keeps r0 s) (img : List Byte) {o : Option State} (h : ∀ t, o = some t → Keeps r0 t) :
    Keeps r0 (s.configKeys img o) := by
  match o with
  | none => exact State.configFail_keeps hk _ _
  | some t => exact State.configCal_keeps (h t rfl) _ fun _ e => State.loadCal_keeps (h t rfl) e

theorem State.configRecords_keeps {r0 : State} (img : List Byte) {x : State × Option Nat} (hk : Keeps r0 x.1) :
    Keeps r0 (State.configRecords img x) := by
  match x, hk with
  | (s, some i), hk => exact State.configFail_keeps hk _ _
  | (s, none), hk =>
    simp only [State.configRecords]
    have h1 := State.settle_keeps hk
    split
    · exact State.configFail_keeps h1 _ _
    · have h2 := State.drawKeys_keeps h1 img
      exact State.configKeys_keeps h2 _ fun _ e => Keeps.installAll (fun s hs => by cases hs; exact h2) e

theorem State.configure_keeps {r0 s : State} (hk : Keeps r0 s)  : Keeps r0 (State.configure s) := by
  rw [State.configure]
  split
  · exact State.configFail_keeps hk _ _
  · exact State.configRecords_keeps _ (State.applyRecords_keeps hk _ _)

theorem State.loadBlocks_keeps {r0 s : State} (hk : Keeps r0 s) (a : Addr) (bs : List Byte) (gen : List Addr) (loc : Addr → Option Loc) : Keeps r0 (State.loadBlocks s a bs gen loc) := by
  rw [State.loadBlocks]
  repeat' first
    | (conv => enter [2, 41]); with_reducible refine Keeps.same ?_
    | (conv => enter [2, 41]); with_reducible refine Keeps.upd ?_ ?_ ?_ ?_ ?_ ?_ ?_ ?_ ?_ ?_ ?_ ?_
    | dsimp only
    | with_reducible assumption
    | with_reducible exact Keeps.refl _
    | with_reducible refine Keeps.ite ?_ ?_
    | with_reducible refine Keeps.foldl ?_ (fun _ _ _ => ?_)
    | with_reducible refine Keeps.foldl1 ?_ (fun _ _ _ => ?_)
    | with_reducible apply State.raise_keeps
    | with_reducible apply State.memWrite_keeps
    | with_reducible refine State.memWrite_keepsE ?_ (by with_reducible assumption)
    | split
    | exact id
    | exact smWf_put _ _ _ _
    | exact smWf_put (fun _ => _) _ _ _
    | exact smWf_keep _ _ _
    | exact smWf_putBytes _ _ _
    | exact smWfFrom_filter _ _ _ _
    | exact fun _ => smWf_nil _

theorem State.loadRef_keeps {r0 s : State} (hk : Keeps r0 s) (plans : List Plan) (i : Nat) (r : WRef) (bs : List Byte) (gen : List Addr) : Keeps r0 (State.loadRef s plans i r bs gen) := by
  rw [State.loadRef]
  repeat' first
    | (conv => enter [2, 41]); with_reducible refine Keeps.same ?_
    | (conv => enter [2, 41]); with_reducible refine Keeps.upd ?_ ?_ ?_ ?_ ?_ ?_ ?_ ?_ ?_ ?_ ?_ ?_
    | dsimp only
    | with_reducible assumption
    | with_reducible exact Keeps.refl _
    | with_reducible refine Keeps.ite ?_ ?_
    | with_reducible refine Keeps.foldl ?_ (fun _ _ _ => ?_)
    | with_reducible refine Keeps.foldl1 ?_ (fun _ _ _ => ?_)
    | with_reducible apply State.loadBlocks_keeps
    | split
    | exact id
    | exact smWf_put _ _ _ _
    | exact smWf_put (fun _ => _) _ _ _
    | exact smWf_keep _ _ _
    | exact smWf_putBytes _ _ _
    | exact smWfFrom_filter _ _ _ _
    | exact fun _ => smWf_nil _

theorem State.loadRefs_keeps {r0 s : State} (hk : Keeps r0 s) (img : List Byte) (data : List (List Byte)) (failed gen : List Nat) (f : WRef → Bool) : Keeps r0 (State.loadRefs s img data failed gen f).1 := by
  rw [State.loadRefs]
  repeat' first
    | (conv => enter [2, 41]); with_reducible refine Keeps.same ?_
    | (conv => enter [2, 41]); with_reducible refine Keeps.upd ?_ ?_ ?_ ?_ ?_ ?_ ?_ ?_ ?_ ?_ ?_ ?_
    | dsimp only
    | with_reducible assumption
    | with_reducible exact Keeps.refl _
    | with_reducible refine Keeps.ite ?_ ?_
    | with_reducible refine Keeps.foldl ?_ (fun _ _ _ => ?_)
    | with_reducible refine Keeps.foldl1 ?_ (fun _ _ _ => ?_)
    | with_reducible apply State.raise_keeps
    | with_reducible apply State.count_keeps
    | with_reducible apply State.loadRef_keeps
    | split
    | exact id
    | exact smWf_put _ _ _ _
    | exact smWf_put (fun _ => _) _ _ _
    | exact smWf_keep _ _ _
    | exact smWf_putBytes _ _ _
    | exact smWfFrom_filter _ _ _ _
    | exact fun _ => smWf_nil _

theorem State.loadRefs_keepsE {r0 : State} {s : State} (hk : Keeps r0 s) {img : List Byte} {data : List (List Byte)} {failed gen : List Nat} {f : WRef → Bool} {t_ : State} {x_ : Bool} (e_ : State.loadRefs s img data failed gen f = (t_, x_)) : Keeps r0 t_ := by
  have g := State.loadRefs_keeps hk img data failed gen f
  rw [e_] at g
  exact g

theorem State.acceptGraph_keeps {r0 s : State} (hk : Keeps r0 s) (r : PlanRec) (g : GraphRec) : Keeps r0 (State.acceptGraph s r g) := by
  rw [State.acceptGraph]
  repeat' first
    | (conv => enter [2, 41]); with_reducible refine Keeps.same ?_
    | (conv => enter [2, 41]); with_reducible refine Keeps.upd ?_ ?_ ?_ ?_ ?_ ?_ ?_ ?_ ?_ ?_ ?_ ?_
    | dsimp only
    | with_reducible assumption
    | with_reducible exact Keeps.refl _
    | with_reducible refine Keeps.ite ?_ ?_
    | with_reducible refine Keeps.foldl ?_ (fun _ _ _ => ?_)
    | with_reducible apply State.setLast_keeps
    | with_reducible apply State.count_keeps
    | with_reducible apply State.raise_keeps
    | split
    | exact id
    | exact smWf_put _ _ _ _
    | exact smWf_put (fun _ => _) _ _ _
    | exact smWf_keep _ _ _
    | exact smWf_putBytes _ _ _
    | exact smWfFrom_filter _ _ _ _
    | exact fun _ => smWf_nil _

theorem State.admitAll_keeps {r0 s : State} (hk : Keeps r0 s) (img : List Byte) (lists : List (List (Nat × Nat × List Byte))) : Keeps r0 (State.admitAll s img lists).1 := by
  rw [State.admitAll]
  repeat' first
    | (conv => enter [2, 41]); with_reducible refine Keeps.same ?_
    | (conv => enter [2, 41]); with_reducible refine Keeps.upd ?_ ?_ ?_ ?_ ?_ ?_ ?_ ?_ ?_ ?_ ?_ ?_
    | dsimp only
    | with_reducible assumption
    | with_reducible exact Keeps.refl _
    | with_reducible refine Keeps.ite ?_ ?_
    | with_reducible refine Keeps.foldl ?_ (fun _ _ _ => ?_)
    | with_reducible refine Keeps.foldl1 ?_ (fun _ _ _ => ?_)
    | with_reducible apply State.setLast_keeps
    | with_reducible apply State.count_keeps
    | with_reducible apply State.raise_keeps
    | with_reducible apply State.acceptGraph_keeps
    | with_reducible apply State.layLists_keeps
    | split
    | exact id
    | exact smWf_put _ _ _ _
    | exact smWf_put (fun _ => _) _ _ _
    | exact smWf_keep _ _ _
    | exact smWf_putBytes _ _ _
    | exact smWfFrom_filter _ _ _ _
    | exact fun _ => smWf_nil _

theorem State.admitAll_keepsE {r0 : State} {s : State} (hk : Keeps r0 s) {img : List Byte} {lists : List (List (Nat × Nat × List Byte))} {t_ : State} {x_ : Option Nat} (e_ : State.admitAll s img lists = (t_, x_)) : Keeps r0 t_ := by
  have g := State.admitAll_keeps hk img lists
  rw [e_] at g
  exact g

theorem State.loadPlans_keeps {r0 : State} {x : State × Option Nat} (hk : Keeps r0 x.1) : Keeps r0 (State.loadPlans x) := by
  match x, hk with
  | (s, some i), hk =>
    exact State.fset_keeps (State.fset_keeps (State.fset_keeps (Keeps.same hk) _ _) _ _) _ _
  | (s, none), hk => exact State.showAdm_keeps hk

theorem State.loadWeights_keeps {r0 : State} (img : List Byte) (lists : List (List (Nat × Nat × List Byte))) {x : State × Bool} (hk : Keeps r0 x.1) :
    Keeps r0 (State.loadWeights img lists x) := by
  match x, hk with
  | (s, false), hk => exact State.configFail_keeps hk _ _
  | (s, true), hk => exact State.loadPlans_keeps (State.admitAll_keeps hk _ _)

theorem State.load_keeps {r0 s : State} (hk : Keeps r0 s) (lists : List (List (Nat × Nat × List Byte))) (data : List (List Byte)) (failed gen : List Nat) : Keeps r0 (State.load s lists data failed gen) := by
  rw [State.load]
  exact State.loadWeights_keeps _ _ (State.loadRefs_keeps (State.fset_keeps (Keeps.foldl hk fun _ _ h => State.wr_keeps h _ _) _ _) _ _ _ _ _)

theorem State.judgeFirewall_keeps {r0 s : State} (hk : Keeps r0 s)  : Keeps r0 (State.judgeFirewall s) := by
  rw [State.judgeFirewall]
  repeat' first
    | (conv => enter [2, 41]); with_reducible refine Keeps.same ?_
    | (conv => enter [2, 41]); with_reducible refine Keeps.upd ?_ ?_ ?_ ?_ ?_ ?_ ?_ ?_ ?_ ?_ ?_ ?_
    | dsimp only
    | with_reducible assumption
    | with_reducible exact Keeps.refl _
    | with_reducible refine Keeps.ite ?_ ?_
    | with_reducible refine Keeps.foldl ?_ (fun _ _ _ => ?_)
    | with_reducible refine Keeps.foldl1 ?_ (fun _ _ _ => ?_)
    | with_reducible apply State.fset_keeps
    | with_reducible apply State.raise_keeps
    | split
    | exact id
    | exact smWf_put _ _ _ _
    | exact smWf_put (fun _ => _) _ _ _
    | exact smWf_keep _ _ _
    | exact smWf_putBytes _ _ _
    | exact smWfFrom_filter _ _ _ _
    | exact fun _ => smWf_nil _

theorem State.walkersOff_keeps {r0 s : State} (hk : Keeps r0 s)  : Keeps r0 (State.walkersOff s) := by
  rw [State.walkersOff]
  repeat' first
    | (conv => enter [2, 41]); with_reducible refine Keeps.same ?_
    | (conv => enter [2, 41]); with_reducible refine Keeps.upd ?_ ?_ ?_ ?_ ?_ ?_ ?_ ?_ ?_ ?_ ?_ ?_
    | dsimp only
    | with_reducible assumption
    | with_reducible exact Keeps.refl _
    | with_reducible refine Keeps.ite ?_ ?_
    | with_reducible refine Keeps.foldl ?_ (fun _ _ _ => ?_)
    | with_reducible refine Keeps.foldl1 ?_ (fun _ _ _ => ?_)
    | with_reducible apply State.fset_keeps
    | split
    | exact id
    | exact smWf_put _ _ _ _
    | exact smWf_put (fun _ => _) _ _ _
    | exact smWf_keep _ _ _
    | exact smWf_putBytes _ _ _
    | exact smWfFrom_filter _ _ _ _
    | exact fun _ => smWf_nil _

theorem State.commit_keeps {r0 s : State} (hk : Keeps r0 s)  : Keeps r0 (State.commit s) := by
  rw [State.commit]
  repeat' first
    | (conv => enter [2, 41]); with_reducible refine Keeps.same ?_
    | (conv => enter [2, 41]); with_reducible refine Keeps.upd ?_ ?_ ?_ ?_ ?_ ?_ ?_ ?_ ?_ ?_ ?_ ?_
    | dsimp only
    | with_reducible assumption
    | with_reducible exact Keeps.refl _
    | with_reducible refine Keeps.ite ?_ ?_
    | with_reducible refine Keeps.foldl ?_ (fun _ _ _ => ?_)
    | with_reducible refine Keeps.foldl1 ?_ (fun _ _ _ => ?_)
    | with_reducible apply State.fset_keeps
    | with_reducible apply State.raise_keeps
    | with_reducible apply State.judgeFirewall_keeps
    | with_reducible apply State.walkersOff_keeps
    | with_reducible apply State.capture_keeps
    | split
    | exact id
    | exact smWf_put _ _ _ _
    | exact smWf_put (fun _ => _) _ _ _
    | exact smWf_keep _ _ _
    | exact smWf_putBytes _ _ _
    | exact smWfFrom_filter _ _ _ _
    | exact fun _ => smWf_nil _

theorem State.burnNext_keeps {r0 s : State} (hk : Keeps r0 s)  : Keeps r0 (State.burnNext s) := by
  rw [State.burnNext]
  repeat' first
    | (conv => enter [2, 41]); with_reducible refine Keeps.same ?_
    | (conv => enter [2, 41]); with_reducible refine Keeps.upd ?_ ?_ ?_ ?_ ?_ ?_ ?_ ?_ ?_ ?_ ?_ ?_
    | dsimp only
    | with_reducible assumption
    | with_reducible exact Keeps.refl _
    | with_reducible refine Keeps.ite ?_ ?_
    | with_reducible refine Keeps.foldl ?_ (fun _ _ _ => ?_)
    | with_reducible apply State.showOtp_keeps
    | with_reducible apply State.raise_keeps
    | split
    | exact id
    | exact smWf_put _ _ _ _
    | exact smWf_put (fun _ => _) _ _ _
    | exact smWf_keep _ _ _
    | exact smWf_putBytes _ _ _
    | exact smWfFrom_filter _ _ _ _
    | exact fun _ => smWf_nil _

theorem State.startClocks_keeps {r0 s : State} (hk : Keeps r0 s)  : Keeps r0 (State.startClocks s) := by
  rw [State.startClocks]
  repeat' first
    | (conv => enter [2, 41]); with_reducible refine Keeps.same ?_
    | (conv => enter [2, 41]); with_reducible refine Keeps.upd ?_ ?_ ?_ ?_ ?_ ?_ ?_ ?_ ?_ ?_ ?_ ?_
    | dsimp only
    | with_reducible assumption
    | with_reducible exact Keeps.refl _
    | with_reducible refine Keeps.ite ?_ ?_
    | with_reducible refine Keeps.foldl ?_ (fun _ _ _ => ?_)
    | with_reducible refine Keeps.foldl1 ?_ (fun _ _ _ => ?_)
    | with_reducible apply State.fset_keeps
    | with_reducible apply State.wave_keeps
    | with_reducible apply State.showAllSpares_keeps
    | split
    | exact id
    | exact smWf_put _ _ _ _
    | exact smWf_put (fun _ => _) _ _ _
    | exact smWf_keep _ _ _
    | exact smWf_putBytes _ _ _
    | exact smWfFrom_filter _ _ _ _
    | exact fun _ => smWf_nil _

theorem State.memTrained_keeps {r0 s : State} (hk : Keeps r0 s) (die c : Nat) (ok : Bool) : Keeps r0 (State.memTrained s die c ok) := by
  rw [State.memTrained]
  repeat' first
    | (conv => enter [2, 41]); with_reducible refine Keeps.same ?_
    | (conv => enter [2, 41]); with_reducible refine Keeps.upd ?_ ?_ ?_ ?_ ?_ ?_ ?_ ?_ ?_ ?_ ?_ ?_
    | dsimp only
    | with_reducible assumption
    | with_reducible exact Keeps.refl _
    | with_reducible refine Keeps.ite ?_ ?_
    | with_reducible refine Keeps.foldl ?_ (fun _ _ _ => ?_)
    | with_reducible apply State.failChannel_keeps
    | with_reducible apply State.fset_keeps
    | split
    | exact id
    | exact smWf_put _ _ _ _
    | exact smWf_put (fun _ => _) _ _ _
    | exact smWf_keep _ _ _
    | exact smWf_putBytes _ _ _
    | exact smWfFrom_filter _ _ _ _
    | exact fun _ => smWf_nil _

theorem State.retireInj_keeps {r0 s : State} (hk : Keeps r0 s) (t e : Nat) : Keeps r0 (State.retireInj s t e) := by
  rw [State.retireInj]
  repeat' first
    | (conv => enter [2, 41]); with_reducible refine Keeps.same ?_
    | (conv => enter [2, 41]); with_reducible refine Keeps.upd ?_ ?_ ?_ ?_ ?_ ?_ ?_ ?_ ?_ ?_ ?_ ?_
    | dsimp only
    | with_reducible assumption
    | with_reducible exact Keeps.refl _
    | with_reducible refine Keeps.ite ?_ ?_
    | with_reducible refine Keeps.foldl ?_ (fun _ _ _ => ?_)
    | with_reducible apply State.retire_keeps
    | with_reducible apply State.remap_keeps
    | split
    | exact id
    | exact smWf_put _ _ _ _
    | exact smWf_put (fun _ => _) _ _ _
    | exact smWf_keep _ _ _
    | exact smWf_putBytes _ _ _
    | exact smWfFrom_filter _ _ _ _
    | exact fun _ => smWf_nil _

theorem State.genFailed_keeps {r0 s : State} (hk : Keeps r0 s) (x : InjPlace) : Keeps r0 (State.genFailed s x) := by
  unfold State.genFailed
  repeat' first
    | (conv => enter [2, 41]); with_reducible refine Keeps.same ?_
    | (conv => enter [2, 41]); with_reducible refine Keeps.upd ?_ ?_ ?_ ?_ ?_ ?_ ?_ ?_ ?_ ?_ ?_ ?_
    | dsimp only
    | with_reducible assumption
    | with_reducible exact Keeps.refl _
    | with_reducible refine Keeps.ite ?_ ?_
    | with_reducible refine Keeps.foldl ?_ (fun _ _ _ => ?_)
    | with_reducible apply State.retireInj_keeps
    | with_reducible apply State.failStart_keeps
    | with_reducible apply State.fset_keeps
    | split
    | exact id
    | exact smWf_put _ _ _ _
    | exact smWf_put (fun _ => _) _ _ _
    | exact smWf_keep _ _ _
    | exact smWf_putBytes _ _ _
    | exact smWfFrom_filter _ _ _ _
    | exact fun _ => smWf_nil _

theorem State.injFailed_keeps {r0 s : State} (hk : Keeps r0 s) (m : Nat) (x : InjPlace) : Keeps r0 (State.injFailed s m x) := by
  unfold State.injFailed
  repeat' first
    | (conv => enter [2, 41]); with_reducible refine Keeps.same ?_
    | (conv => enter [2, 41]); with_reducible refine Keeps.upd ?_ ?_ ?_ ?_ ?_ ?_ ?_ ?_ ?_ ?_ ?_ ?_
    | dsimp only
    | with_reducible assumption
    | with_reducible exact Keeps.refl _
    | with_reducible refine Keeps.ite ?_ ?_
    | with_reducible refine Keeps.foldl ?_ (fun _ _ _ => ?_)
    | with_reducible apply State.genFailed_keeps
    | with_reducible apply State.retireInj_keeps
    | with_reducible apply State.fenceDie_keeps
    | with_reducible apply State.failChannel_keeps
    | with_reducible apply State.fenceMod_keeps
    | split
    | exact id
    | exact smWf_put _ _ _ _
    | exact smWf_put (fun _ => _) _ _ _
    | exact smWf_keep _ _ _
    | exact smWf_putBytes _ _ _
    | exact smWfFrom_filter _ _ _ _
    | exact fun _ => smWf_nil _

theorem State.reloadLists_keeps {r0 : State} (t : Nat) {x : State × Bool} (hk : Keeps r0 x.1) : Keeps r0 (State.reloadLists t x).1 := by
  match x, hk with
  | (s, false), hk => exact hk
  | (s, true), hk =>
    exact State.walkersOff_keeps (Keeps.foldl (Keeps.foldl hk fun _ _ h => State.layLists_keeps h _ _ _) fun _ _ h => State.layLists_keeps h _ _ _)

theorem State.reloadRecords_keeps {r0 s : State} (hk : Keeps r0 s) (t chans : Nat) : Keeps r0 (State.reloadRecords s t chans) := by
  rw [State.reloadRecords]
  exact State.drawDieKeys_keeps (Keeps.foldl (State.settle_keeps (State.applyRecords_keeps hk _ _)) fun _ _ h => State.memTrained_keeps h _ _ _) _

theorem State.reloadDie_keeps {r0 s : State} (hk : Keeps r0 s) (t chans : Nat) (data : List (List Byte)) (failed gen : List Nat) : Keeps r0 (State.reloadDie s t chans data failed gen).1 := by
  rw [State.reloadDie]
  by_cases h : (!sectsSound s.image) = true
  · rw [if_pos h]; exact hk
  · rw [if_neg h]; exact State.reloadLists_keeps _ (State.loadRefs_keeps (State.reloadRecords_keeps hk _ _) _ _ _ _ _)

theorem State.reloadDie_keepsE {r0 : State} {s : State} (hk : Keeps r0 s) {t chans : Nat} {data : List (List Byte)} {failed gen : List Nat} {t_ : State} {x_ : Bool} (e_ : State.reloadDie s t chans data failed gen = (t_, x_)) : Keeps r0 t_ := by
  have g := State.reloadDie_keeps hk t chans data failed gen
  rw [e_] at g
  exact g

end Sys2Proof.Machine
end

