-- ==== Sys2Proof/Laws/Keeps/Seek.lean ====
section
/-! SUPPORT. Every operation of Machine/Seek.lean that answers a state keeps the part, the queue and the canonical form. -/

namespace Sys2Proof.Machine

theorem State.binEntry_keeps {r0 s : State} (hk : Keeps r0 s) (r : TaskRun) (x : SeekEntry) (g : Grid) (o : UnitObs) : Keeps r0 (State.binEntry s r x g o) := by
  rw [State.binEntry]
  repeat' first
    | (conv => enter [2, 41]); with_reducible refine Keeps.same ?_
    | (conv => enter [2, 41]); with_reducible refine Keeps.upd ?_ ?_ ?_ ?_ ?_ ?_ ?_ ?_ ?_ ?_ ?_ ?_
    | dsimp only
    | with_reducible assumption
    | with_reducible exact Keeps.refl _
    | with_reducible refine Keeps.ite ?_ ?_
    | with_reducible refine Keeps.foldl ?_ (fun _ _ _ => ?_)
    | with_reducible refine Keeps.foldl1 ?_ (fun _ _ _ => ?_)
    | with_reducible apply State.verify_keeps
    | with_reducible apply State.unitWrite_keeps
    | with_reducible apply State.poisonBlocks_keeps
    | with_reducible apply State.countOnce_keeps
    | split
    | exact id
    | exact smWf_put _ _ _ _
    | exact smWf_put (fun _ => _) _ _ _
    | exact smWf_keep _ _ _
    | exact smWf_putBytes _ _ _
    | exact smWfFrom_filter _ _ _ _
    | exact fun _ => smWf_nil _

theorem State.queryEntry_keeps {r0 s : State} (hk : Keeps r0 s) (r : TaskRun) (x : SeekEntry) (g : Grid) (h : SeekHead) (o : UnitObs) : Keeps r0 (State.queryEntry s r x g h o) := by
  rw [State.queryEntry]
  repeat' first
    | (conv => enter [2, 41]); with_reducible refine Keeps.same ?_
    | (conv => enter [2, 41]); with_reducible refine Keeps.upd ?_ ?_ ?_ ?_ ?_ ?_ ?_ ?_ ?_ ?_ ?_ ?_
    | dsimp only
    | with_reducible assumption
    | with_reducible exact Keeps.refl _
    | with_reducible refine Keeps.ite ?_ ?_
    | with_reducible refine Keeps.foldl ?_ (fun _ _ _ => ?_)
    | with_reducible refine Keeps.foldl1 ?_ (fun _ _ _ => ?_)
    | with_reducible apply State.verify_keeps
    | with_reducible apply State.answer_keeps
    | with_reducible apply Upd.take_keeps
    | with_reducible apply State.unitWrite_keeps
    | with_reducible apply Io.out_keeps
    | with_reducible apply State.checkerFault_keeps
    | with_reducible apply State.poisonBlocks_keeps
    | with_reducible apply State.countOnce_keeps
    | with_reducible apply State.count_keeps
    | split
    | exact id
    | exact smWf_put _ _ _ _
    | exact smWf_put (fun _ => _) _ _ _
    | exact smWf_keep _ _ _
    | exact smWf_putBytes _ _ _
    | exact smWfFrom_filter _ _ _ _
    | exact fun _ => smWf_nil _

theorem State.seekEntry_keeps {r0 s : State} (hk : Keeps r0 s) (r : TaskRun) (x : SeekEntry) (o : UnitObs) : Keeps r0 (State.seekEntry s r x o) := by
  rw [State.seekEntry]
  repeat' first
    | (conv => enter [2, 41]); with_reducible refine Keeps.same ?_
    | (conv => enter [2, 41]); with_reducible refine Keeps.upd ?_ ?_ ?_ ?_ ?_ ?_ ?_ ?_ ?_ ?_ ?_ ?_
    | dsimp only
    | with_reducible assumption
    | with_reducible exact Keeps.refl _
    | with_reducible refine Keeps.ite ?_ ?_
    | with_reducible refine Keeps.foldl ?_ (fun _ _ _ => ?_)
    | with_reducible apply State.storeEcc_keeps
    | with_reducible apply State.badEntry_keeps
    | with_reducible apply State.checkerFault_keeps
    | with_reducible apply State.binEntry_keeps
    | with_reducible apply State.queryEntry_keeps
    | with_reducible apply State.nextEntry_keeps
    | split
    | exact id
    | exact smWf_put _ _ _ _
    | exact smWf_put (fun _ => _) _ _ _
    | exact smWf_keep _ _ _
    | exact smWf_putBytes _ _ _
    | exact smWfFrom_filter _ _ _ _
    | exact fun _ => smWf_nil _

theorem State.runSeek_keeps {r0 s : State} (hk : Keeps r0 s) (t e op : Nat) (o : UnitObs) : Keeps r0 (State.runSeek s t e op o) := by
  rw [State.runSeek]
  repeat' first
    | (conv => enter [2, 41]); with_reducible refine Keeps.same ?_
    | (conv => enter [2, 41]); with_reducible refine Keeps.upd ?_ ?_ ?_ ?_ ?_ ?_ ?_ ?_ ?_ ?_ ?_ ?_
    | dsimp only
    | with_reducible assumption
    | with_reducible exact Keeps.refl _
    | with_reducible refine Keeps.ite ?_ ?_
    | with_reducible refine Keeps.foldl ?_ (fun _ _ _ => ?_)
    | with_reducible apply State.seekEntry_keeps
    | split
    | exact id
    | exact smWf_put _ _ _ _
    | exact smWf_put (fun _ => _) _ _ _
    | exact smWf_keep _ _ _
    | exact smWf_putBytes _ _ _
    | exact smWfFrom_filter _ _ _ _
    | exact fun _ => smWf_nil _

end Sys2Proof.Machine
end

