-- ==== Sys2Proof/Laws/Keeps/Smp.lean ====
section
/-! SUPPORT. Every operation of Machine/Smp.lean that answers a state keeps the part, the queue and the canonical form. -/

namespace Sys2Proof.Machine

theorem State.disarm_keeps {r0 s : State} (hk : Keeps r0 s)  : Keeps r0 (State.disarm s) := by
  rw [State.disarm]
  repeat' first
    | (conv => enter [2, 41]); with_reducible refine Keeps.same ?_
    | (conv => enter [2, 41]); with_reducible refine Keeps.upd ?_ ?_ ?_ ?_ ?_ ?_ ?_ ?_ ?_ ?_ ?_ ?_
    | dsimp only
    | with_reducible assumption
    | with_reducible exact Keeps.refl _
    | with_reducible refine Keeps.ite ?_ ?_
    | with_reducible refine Keeps.foldl ?_ (fun _ _ _ => ?_)
    | split
    | exact id
    | exact smWf_put _ _ _ _
    | exact smWf_put (fun _ => _) _ _ _
    | exact smWf_keep _ _ _
    | exact smWf_putBytes _ _ _
    | exact smWfFrom_filter _ _ _ _
    | exact fun _ => smWf_nil _

theorem State.smpReject_keeps {r0 s : State} (hk : Keeps r0 s) (result : Nat) : Keeps r0 (State.smpReject s result) := by
  rw [State.smpReject]
  repeat' first
    | (conv => enter [2, 41]); with_reducible refine Keeps.same ?_
    | (conv => enter [2, 41]); with_reducible refine Keeps.upd ?_ ?_ ?_ ?_ ?_ ?_ ?_ ?_ ?_ ?_ ?_ ?_
    | dsimp only
    | with_reducible assumption
    | with_reducible exact Keeps.refl _
    | with_reducible refine Keeps.ite ?_ ?_
    | with_reducible refine Keeps.foldl ?_ (fun _ _ _ => ?_)
    | with_reducible apply State.raise_keeps
    | with_reducible apply State.count_keeps
    | split
    | exact id
    | exact smWf_put _ _ _ _
    | exact smWf_put (fun _ => _) _ _ _
    | exact smWf_keep _ _ _
    | exact smWf_putBytes _ _ _
    | exact smWfFrom_filter _ _ _ _
    | exact fun _ => smWf_nil _

theorem State.smpDone_keeps {r0 s : State} (hk : Keeps r0 s)  : Keeps r0 (State.smpDone s) := by
  rw [State.smpDone]
  repeat' first
    | (conv => enter [2, 41]); with_reducible refine Keeps.same ?_
    | (conv => enter [2, 41]); with_reducible refine Keeps.upd ?_ ?_ ?_ ?_ ?_ ?_ ?_ ?_ ?_ ?_ ?_ ?_
    | dsimp only
    | with_reducible assumption
    | with_reducible exact Keeps.refl _
    | with_reducible refine Keeps.ite ?_ ?_
    | with_reducible refine Keeps.foldl ?_ (fun _ _ _ => ?_)
    | with_reducible apply State.raise_keeps
    | with_reducible apply State.count_keeps
    | split
    | exact id
    | exact smWf_put _ _ _ _
    | exact smWf_put (fun _ => _) _ _ _
    | exact smWf_keep _ _ _
    | exact smWf_putBytes _ _ _
    | exact smWfFrom_filter _ _ _ _
    | exact fun _ => smWf_nil _

theorem State.smpConfirm_keeps {r0 s : State} (hk : Keeps r0 s) (action arg data : Nat) (enabled : Bool) (act : State → State)
    (ha : ∀ t, Keeps r0 t → Keeps r0 (act t)) : Keeps r0 (State.smpConfirm s action arg data enabled act) := by
  have h1 : Keeps r0 { s.disarm with smp := { s.disarm.smp with action := action } } := Keeps.same (State.disarm_keeps hk)
  unfold State.smpConfirm
  dsimp only
  repeat' split
  all_goals first
    | exact hk
    | exact State.smpReject_keeps h1 _
    | exact ha _ h1

end Sys2Proof.Machine
end

