-- ==== Sys2Proof/Laws/Keeps/Vector.lean ====
section
/-! SUPPORT. Every operation of Machine/Vector.lean that answers a state keeps the part, the queue and the canonical form. -/

namespace Sys2Proof.Machine

theorem State.vectorEntry_keeps {r0 s : State} (hk : Keeps r0 s) (r : TaskRun) (seed : Nat) (v : VecEntry) (o : UnitObs) : Keeps r0 (State.vectorEntry s r seed v o) := by
  rw [State.vectorEntry]
  repeat' first
    | (conv => enter [2, 41]); with_reducible refine Keeps.same ?_
    | (conv => enter [2, 41]); with_reducible refine Keeps.upd ?_ ?_ ?_ ?_ ?_ ?_ ?_ ?_ ?_ ?_ ?_ ?_
    | dsimp only
    | with_reducible assumption
    | with_reducible exact Keeps.refl _
    | with_reducible refine Keeps.ite ?_ ?_
    | with_reducible refine Keeps.foldl ?_ (fun _ _ _ => ?_)
    | with_reducible refine Keeps.foldl1 ?_ (fun _ _ _ => ?_)
    | with_reducible apply State.storeEcc_keeps
    | with_reducible apply State.badEntry_keeps
    | with_reducible apply State.verify_keeps
    | with_reducible apply State.draw_keeps2
    | with_reducible refine State.draw_keepsE ?_ (by with_reducible assumption)
    | with_reducible apply Upd.take_keeps
    | with_reducible apply State.unitWrite_keeps
    | with_reducible apply State.raiseChk_keeps
    | with_reducible apply State.withhold_keeps
    | with_reducible apply State.strikeTask_keeps
    | with_reducible apply State.makeHazy_keeps
    | with_reducible apply State.countOnce_keeps
    | with_reducible apply State.poisonBlocks_keeps
    | with_reducible apply State.nextEntry_keeps
    | with_reducible apply Io.row_keeps
    | with_reducible refine Io.row_keepsE ?_ (by with_reducible assumption)
    | with_reducible apply Io.out_keeps
    | split
    | exact id
    | exact smWf_put _ _ _ _
    | exact smWf_put (fun _ => _) _ _ _
    | exact smWf_keep _ _ _
    | exact smWf_putBytes _ _ _
    | exact smWfFrom_filter _ _ _ _
    | exact fun _ => smWf_nil _

theorem State.runVector_keeps {r0 s : State} (hk : Keeps r0 s) (t e op : Nat) (o : UnitObs) : Keeps r0 (State.runVector s t e op o) := by
  rw [State.runVector]
  repeat' first
    | (conv => enter [2, 41]); with_reducible refine Keeps.same ?_
    | (conv => enter [2, 41]); with_reducible refine Keeps.upd ?_ ?_ ?_ ?_ ?_ ?_ ?_ ?_ ?_ ?_ ?_ ?_
    | dsimp only
    | with_reducible assumption
    | with_reducible exact Keeps.refl _
    | with_reducible refine Keeps.ite ?_ ?_
    | with_reducible refine Keeps.foldl ?_ (fun _ _ _ => ?_)
    | with_reducible apply State.vectorEntry_keeps
    | split
    | exact id
    | exact smWf_put _ _ _ _
    | exact smWf_put (fun _ => _) _ _ _
    | exact smWf_keep _ _ _
    | exact smWf_putBytes _ _ _
    | exact smWfFrom_filter _ _ _ _
    | exact fun _ => smWf_nil _

end Sys2Proof.Machine
end

