-- ==== Sys2Proof/Laws/Keeps/Warp.lean ====
section
/-! SUPPORT. Every operation of Machine/Warp.lean that answers a state keeps the part, the queue and the canonical form. -/

namespace Sys2Proof.Machine

theorem Io.warpGet_keeps {r0 : State} {x : Io} (hk : Keeps r0 x.s) (r : TaskRun) (a n : Nat) : Keeps r0 (Io.warpGet x r a n).1.s := by
  rw [Io.warpGet]
  repeat' first
    | (conv => enter [2, 41]); with_reducible refine Keeps.same ?_
    | (conv => enter [2, 41]); with_reducible refine Keeps.upd ?_ ?_ ?_ ?_ ?_ ?_ ?_ ?_ ?_ ?_ ?_ ?_
    | dsimp only
    | with_reducible assumption
    | with_reducible exact Keeps.refl _
    | with_reducible refine Keeps.ite ?_ ?_
    | with_reducible refine Keeps.foldl ?_ (fun _ _ _ => ?_)
    | with_reducible refine Keeps.foldl1 ?_ (fun _ _ _ => ?_)
    | with_reducible refine Keeps.foldlIo ?_ (fun _ _ _ => ?_)
    | with_reducible refine Keeps.foldlIo1 ?_ (fun _ _ _ => ?_)
    | with_reducible apply State.portRead_keeps
    | with_reducible refine State.portRead_keepsE ?_ (by with_reducible assumption)
    | with_reducible apply State.chkFail_keeps
    | with_reducible apply Upd.take_keeps
    | split
    | exact id
    | exact smWf_put _ _ _ _
    | exact smWf_put (fun _ => _) _ _ _
    | exact smWf_keep _ _ _
    | exact smWf_putBytes _ _ _
    | exact smWfFrom_filter _ _ _ _
    | exact fun _ => smWf_nil _

theorem Io.warpGet_keepsE {r0 : State} {x : Io} (hk : Keeps r0 x.s) {r : TaskRun} {a n : Nat} {t_ : Io} {x_ : List Byte} (e_ : Io.warpGet x r a n = (t_, x_)) : Keeps r0 t_.s := by
  have g := Io.warpGet_keeps hk r a n
  rw [e_] at g
  exact g

theorem Io.warpPut_keeps {r0 : State} {x : Io} (hk : Keeps r0 x.s) (r : TaskRun) (a : Nat) (bs : List Byte) (from_ : Nat) (gen : List Nat) : Keeps r0 (Io.warpPut x r a bs from_ gen).s := by
  rw [Io.warpPut]
  repeat' first
    | (conv => enter [2, 41]); with_reducible refine Keeps.same ?_
    | (conv => enter [2, 41]); with_reducible refine Keeps.upd ?_ ?_ ?_ ?_ ?_ ?_ ?_ ?_ ?_ ?_ ?_ ?_
    | dsimp only
    | with_reducible assumption
    | with_reducible exact Keeps.refl _
    | with_reducible refine Keeps.ite ?_ ?_
    | with_reducible refine Keeps.foldl ?_ (fun _ _ _ => ?_)
    | with_reducible refine Keeps.foldl1 ?_ (fun _ _ _ => ?_)
    | with_reducible refine Keeps.foldlIo ?_ (fun _ _ _ => ?_)
    | with_reducible refine Keeps.foldlIo1 ?_ (fun _ _ _ => ?_)
    | with_reducible apply State.raiseChk_keeps
    | with_reducible apply State.withhold_keeps
    | with_reducible apply State.portWrite_keeps
    | with_reducible refine State.portWrite_keepsE ?_ (by with_reducible assumption)
    | with_reducible apply Upd.take_keeps
    | split
    | exact id
    | exact smWf_put _ _ _ _
    | exact smWf_put (fun _ => _) _ _ _
    | exact smWf_keep _ _ _
    | exact smWf_putBytes _ _ _
    | exact smWfFrom_filter _ _ _ _
    | exact fun _ => smWf_nil _

theorem State.warpRun_keeps {r0 s : State} (hk : Keeps r0 s) (r : TaskRun) (f : FusSec) (c : Cal) (x : WarpEntry) (o : UnitObs) : Keeps r0 (State.warpRun s r f c x o) := by
  rw [State.warpRun]
  repeat' first
    | (conv => enter [2, 41]); with_reducible refine Keeps.same ?_
    | (conv => enter [2, 41]); with_reducible refine Keeps.upd ?_ ?_ ?_ ?_ ?_ ?_ ?_ ?_ ?_ ?_ ?_ ?_
    | dsimp only
    | with_reducible assumption
    | with_reducible exact Keeps.refl _
    | with_reducible refine Keeps.ite ?_ ?_
    | with_reducible refine Keeps.foldl ?_ (fun _ _ _ => ?_)
    | with_reducible refine Keeps.foldl1 ?_ (fun _ _ _ => ?_)
    | with_reducible refine Keeps.foldlIo ?_ (fun _ _ _ => ?_)
    | with_reducible refine Keeps.foldlIo1 ?_ (fun _ _ _ => ?_)
    | with_reducible apply Io.warpGet_keeps
    | with_reducible refine Io.warpGet_keepsE ?_ (by with_reducible assumption)
    | with_reducible apply State.draw_keeps2
    | with_reducible refine State.draw_keepsE ?_ (by with_reducible assumption)
    | with_reducible apply State.raiseTask_keeps
    | with_reducible apply State.capture_keeps
    | with_reducible apply State.withhold_keeps
    | with_reducible apply Io.warpPut_keeps
    | with_reducible apply State.count_keeps
    | with_reducible apply State.raiseOncePerTask_keeps
    | with_reducible apply State.nextEntry_keeps
    | with_reducible apply Io.out_keeps
    | split
    | exact id
    | exact smWf_put _ _ _ _
    | exact smWf_put (fun _ => _) _ _ _
    | exact smWf_keep _ _ _
    | exact smWf_putBytes _ _ _
    | exact smWfFrom_filter _ _ _ _
    | exact fun _ => smWf_nil _

theorem State.badWarp_keeps {r0 s : State} (hk : Keeps r0 s) (r : TaskRun) (o : UnitObs) : Keeps r0 (State.badWarp s r o) := by
  rw [State.badWarp]
  repeat' first
    | (conv => enter [2, 41]); with_reducible refine Keeps.same ?_
    | (conv => enter [2, 41]); with_reducible refine Keeps.upd ?_ ?_ ?_ ?_ ?_ ?_ ?_ ?_ ?_ ?_ ?_ ?_
    | dsimp only
    | with_reducible assumption
    | with_reducible exact Keeps.refl _
    | with_reducible refine Keeps.ite ?_ ?_
    | with_reducible refine Keeps.foldl ?_ (fun _ _ _ => ?_)
    | with_reducible apply State.raiseTask_keeps
    | with_reducible apply State.capture_keeps
    | with_reducible apply State.withhold_keeps
    | with_reducible apply State.endHere_keeps
    | split
    | exact id
    | exact smWf_put _ _ _ _
    | exact smWf_put (fun _ => _) _ _ _
    | exact smWf_keep _ _ _
    | exact smWf_putBytes _ _ _
    | exact smWfFrom_filter _ _ _ _
    | exact fun _ => smWf_nil _

theorem State.warpEntry_keeps {r0 s : State} (hk : Keeps r0 s) (r : TaskRun) (d : TaskDesc) : Keeps r0 (State.warpEntry s r d).1 := by
  rw [State.warpEntry]
  repeat' first
    | (conv => enter [2, 41]); with_reducible refine Keeps.same ?_
    | (conv => enter [2, 41]); with_reducible refine Keeps.upd ?_ ?_ ?_ ?_ ?_ ?_ ?_ ?_ ?_ ?_ ?_ ?_
    | dsimp only
    | with_reducible assumption
    | with_reducible exact Keeps.refl _
    | with_reducible refine Keeps.ite ?_ ?_
    | with_reducible refine Keeps.foldl ?_ (fun _ _ _ => ?_)
    | with_reducible apply State.chkFail_keeps
    | split
    | exact id
    | exact smWf_put _ _ _ _
    | exact smWf_put (fun _ => _) _ _ _
    | exact smWf_keep _ _ _
    | exact smWf_putBytes _ _ _
    | exact smWfFrom_filter _ _ _ _
    | exact fun _ => smWf_nil _

theorem State.warpEntry_keepsE {r0 : State} {s : State} (hk : Keeps r0 s) {r : TaskRun} {d : TaskDesc} {t_ : State} {x_ : List Byte} (e_ : State.warpEntry s r d = (t_, x_)) : Keeps r0 t_ := by
  have g := State.warpEntry_keeps hk r d
  rw [e_] at g
  exact g

theorem State.warp_keeps {r0 s : State} (hk : Keeps r0 s) (t op : Nat) (o : UnitObs) : Keeps r0 (State.warp s t op o) := by
  rw [State.warp]
  repeat' first
    | (conv => enter [2, 41]); with_reducible refine Keeps.same ?_
    | (conv => enter [2, 41]); with_reducible refine Keeps.upd ?_ ?_ ?_ ?_ ?_ ?_ ?_ ?_ ?_ ?_ ?_ ?_
    | dsimp only
    | with_reducible assumption
    | with_reducible exact Keeps.refl _
    | with_reducible refine Keeps.ite ?_ ?_
    | with_reducible refine Keeps.foldl ?_ (fun _ _ _ => ?_)
    | with_reducible apply State.warpEntry_keeps
    | with_reducible refine State.warpEntry_keepsE ?_ (by with_reducible assumption)
    | with_reducible apply State.badWarp_keeps
    | with_reducible apply State.warpRun_keeps
    | split
    | exact id
    | exact smWf_put _ _ _ _
    | exact smWf_put (fun _ => _) _ _ _
    | exact smWf_keep _ _ _
    | exact smWf_putBytes _ _ _
    | exact smWfFrom_filter _ _ _ _
    | exact fun _ => smWf_nil _

end Sys2Proof.Machine
end

