-- ==== Sys2Proof/Tests/Slice0.lean ====
section
/-! SUPPORT. The model's own tests: ill-formed commands, worked examples of the spec, single steps, and for every statement with
hypotheses one theorem `wit_<statement>` that gives, clause by clause, a state and operands that meet the hypotheses together (at the
ends of their ranges where the clause has a range). Numbers before a clause are its place in the statement. -/

namespace Sys2Proof.Machine

set_option Elab.async false

/-! ### Ill-formed commands are refused by the check -/

theorem test_wf_refuses_memory : ([
    .registerWrite 16 0 0 0, .registerWrite 0 256 0 0, .registerWrite 0 0 (2 ^ 48) 0, .registerWrite 0 0 0 (2 ^ 32), .captureClear 16 0 0,
    .captureClear 0 256 0, .captureClear 0 0 (2 ^ 48), .packageAccess 16 0 0 0 none none none 0 0, .packageAccess 0 256 0 0 none none none 0 0,
    .packageAccess 0 0 (2 ^ 48) 0 none none none 0 0, .packageAccess 0 0 0 0 none none none 0 4, .channelServe 9 0 0 false,
    .channelServe 0 8 0 false, .channelServe 0 0 4 false, .sliceServe 8 0 0, .sliceServe 0 32 0, .sliceServe 0 0 4, .refresh 9 0, .refresh 0 8,
    .patrolScrub 9 0 0, .patrolScrub 0 8 0, .patrolScrub 0 0 4, .rowMissWindow 9 0, .rowMissWindow 0 8, .wck2dqCheck 9 0 0 false,
    .wck2dqCheck 0 8 0 false, .mr4Poll 9 0 0, .mr4Poll 0 8 0, .eyeMeasurement 9 0 0 0, .eyeMeasurement 0 8 0 0] :
    List Instr).all (fun i => !i.wf) = true := by
  decide

theorem test_wf_refuses_pace : ([
    .paceSample 8 [], .paceAlarmClear 8, .slowLayerUpdate 8, .avsTransactionDone 8 false 0, .railRaiseDone 8, .engLmapWrite 8 0 false 0,
    .engLmapWrite 0 2 false 0, .engLmapWrite 0 0 false (2 ^ 32), .engColFailWrite 8 0 0 0, .engColFailWrite 0 18 0 0, .engColFailWrite 0 0 3 0,
    .engColFailWrite 0 0 0 (2 ^ 32)] :
    List Instr).all (fun i => !i.wf) = true := by
  decide

theorem test_wf_refuses_plan : ([
    .instanceRelease 256 0, .instanceRelease 0 128, .walkDone 256 0 [] false, .walkDone 0 128 [] false, .taskRelease 256 0 0,
    .taskRelease 0 128 0, .taskRelease 0 0 4096, .taskLateStart 256 0 0, .taskLateStart 0 128 0, .taskLateStart 0 0 4096, .taskEnd 256 0 0 0 0,
    .taskEnd 0 128 0 0 0, .taskEnd 0 0 4096 0 0, .instanceRetire 256 0 [] false, .instanceRetire 0 128 [] false, .instanceRetire 0 0 [4] false,
    .barrierTimeout 256 0 0, .barrierTimeout 0 128 0, .barrierTimeout 0 0 4096] :
    List Instr).all (fun i => !i.wf) = true := by
  decide

theorem test_wf_refuses_array : ([
    .passStart 8 0 {}, .passStart 0 18 {}, .passAdd 8 0 {}, .passAdd 0 18 {}, .passSingle 8 0 {}, .passSingle 0 18 {}, .passAddNarrow 8 0 {},
    .passAddNarrow 0 18 {}] :
    List Instr).all (fun i => !i.wf) = true := by
  decide

theorem test_wf_refuses_vector : ([
    .vecAdd 8 0 {}, .vecAdd 0 18 {}, .vecSub 8 0 {}, .vecSub 0 18 {}, .vecMul 8 0 {}, .vecMul 0 18 {}, .vecFma 8 0 {}, .vecFma 0 18 {},
    .vecMin 8 0 {}, .vecMin 0 18 {}, .vecMax 8 0 {}, .vecMax 0 18 {}, .vecAbs 8 0 {}, .vecAbs 0 18 {}, .vecNeg 8 0 {}, .vecNeg 0 18 {},
    .vecLess 8 0 {}, .vecLess 0 18 {}, .vecSelect 8 0 {}, .vecSelect 0 18 {}, .vecExp2 8 0 {}, .vecExp2 0 18 {}, .vecLog2 8 0 {},
    .vecLog2 0 18 {}, .vecRecip 8 0 {}, .vecRecip 0 18 {}, .vecRsqrt 8 0 {}, .vecRsqrt 0 18 {}, .cvt 8 0 {}, .cvt 0 18 {}, .vecIadd 8 0 {},
    .vecIadd 0 18 {}, .vecImul 8 0 {}, .vecImul 0 18 {}, .vecShl 8 0 {}, .vecShl 0 18 {}, .vecShr 8 0 {}, .vecShr 0 18 {}, .vecAnd 8 0 {},
    .vecAnd 0 18 {}, .vecOr 8 0 {}, .vecOr 0 18 {}, .vecXor 8 0 {}, .vecXor 0 18 {}] :
    List Instr).all (fun i => !i.wf) = true := by
  decide

theorem test_wf_refuses_index : ([
    .gather 8 0 {}, .gather 0 18 {}, .scatterStore 8 0 {}, .scatterStore 0 18 {}, .scatterAdd 8 0 {}, .scatterAdd 0 18 {}, .scatterMax 8 0 {},
    .scatterMax 0 18 {}, .scatterMin 8 0 {}, .scatterMin 0 18 {}, .segredSum 8 0 {}, .segredSum 0 18 {}, .segredMax 8 0 {}, .segredMax 0 18 {},
    .segredMin 8 0 {}, .segredMin 0 18 {}, .segredMean 8 0 {}, .segredMean 0 18 {}, .segredNormExp 8 0 {}, .segredNormExp 0 18 {}, .hist 8 0 {},
    .hist 0 18 {}, .dedup 8 0 {}, .dedup 0 18 {}] :
    List Instr).all (fun i => !i.wf) = true := by
  decide

theorem test_wf_refuses_sort : ([
    .sort 8 0 {}, .sort 0 18 {}, .merge 8 0 {}, .merge 0 18 {}, .topk 8 0 {}, .topk 0 18 {}, .bin 8 0 {}, .bin 0 18 {}, .radius 8 0 {},
    .radius 0 18 {}, .knn 8 0 {}, .knn 0 18 {}] :
    List Instr).all (fun i => !i.wf) = true := by
  decide

theorem test_wf_refuses_move : ([
    .moveFill 8 0 {}, .moveFill 0 18 {}, .moveDrain 8 0 {}, .moveDrain 0 18 {}, .splat 8 {}, .sample 8 {}] :
    List Instr).all (fun i => !i.wf) = true := by
  decide

theorem test_wf_refuses_checks : ([
    .testRun 8 0 false, .testRun 0 18 false, .listCopyDone 8 0, .listCopyDone 0 18, .beaconSlotStart 8 0, .beaconSlotStart 0 16,
    .beaconDone 8 0 false, .beaconDone 0 18 false, .beaconSlotEnd 8 0, .beaconSlotEnd 0 16, .auditVerdict 8 0, .auditTimeout 8 0,
    .quarantineTestDone 8 0 0 false, .quarantineTestDone 0 18 0 false, .quarantineTestDone 0 0 (2 ^ 68) false, .cleanRunsDone 8 0 0 false,
    .cleanRunsDone 0 18 0 false] :
    List Instr).all (fun i => !i.wf) = true := by
  decide

theorem test_wf_refuses_admission : ([
    .graphSubmit [4] [] false, .preemptRequest 256, .resumeRequest 256, .kvRingIndexWrite 64 none none] :
    List Instr).all (fun i => !i.wf) = true := by
  decide

theorem test_wf_refuses_fusion : ([
    .calNextWrite 64 0 0, .calNextWrite 0 32 0, .calNextWrite 0 0 (2 ^ 32)] :
    List Instr).all (fun i => !i.wf) = true := by
  decide

theorem test_wf_refuses_time : ([
    .gptpSync 6 0 0 0 0 0, .time 8 0, .timeBeaconLoss 8] :
    List Instr).all (fun i => !i.wf) = true := by
  decide

theorem test_wf_refuses_sensors : ([
    .triggerEdge 16, .triggerWidthEnd 16, .frameStart 16 0 0 0 [], .frameStart 0 16 0 0 [], .csi2LongPacket 16 0 0 0 0 false false [],
    .csi2LongPacket 0 16 0 0 0 false false [], .frameEnd 16 0 0, .frameEnd 0 16 0, .sensorAbsent 64] :
    List Instr).all (fun i => !i.wf) = true := by
  decide

theorem test_wf_refuses_frames : ([
    .pictureDone false 0 0 8 {}, .decodePartStart 16 0 0 0, .decodePartStart 0 16 0 0, .decodePartStart 0 0 0 8, .sliceBoundary 16,
    .decodeHardStop 16, .decodePartEnd 16 none { w := 0, h := 0, depth := 8, y := [] } 0 0 false, .batchForm 16, .smplFetchWrite 16 none none] :
    List Instr).all (fun i => !i.wf) = true := by
  decide

theorem test_wf_refuses_links : ([
    .flitReceive 48 [] false, .retrainDone 48 false 0 0, .linkSilence 48, .read 0 4, .write 0 4, .writePart 0 4, .fenceNotice 8 0,
    .fenceNotice 0 8, .unfenceNotice 8 0, .unfenceNotice 0 8, .latencyEcho 48 0, .eyeSweep 48 [] 0, .laneSwapDone 48 false, .ringRetrain 8 {},
    .linkTrainingDone 48 false 0 0, .linkTrainingDone 0 false 35 0, .linkTrainingDone 0 false 0 35, .ringRetrain 0 { east := 35 },
    .ringRetrain 0 { west := 35 }] :
    List Instr).all (fun i => !i.wf) = true := by
  decide

theorem test_wf_refuses_partner : ([
    .paramOffer (2 ^ 64), .partnerRequest 0 (2 ^ 48) 0 none false] :
    List Instr).all (fun i => !i.wf) = true := by
  decide

theorem test_wf_refuses_ether : ([
    .ethFrameReceive 6 [] 0 false 0 false false false false, .ethFrameReceive 0 [] 0 false 4 false false false false, .ethLinkChange 6 false 0,
    .gclSwitch 6, .gateIntervalEnd 6] :
    List Instr).all (fun i => !i.wf) = true := by
  decide

theorem test_wf_refuses_messages : ([
    .memRead [4] false, .memWrite [4] false false] :
    List Instr).all (fun i => !i.wf) = true := by
  decide

theorem test_wf_refuses_sideband : ([
    .shadowStale 2, .statusRead 256 0, .logRead 256 0, .actionArm 256 0, .actionArm 0 (2 ^ 16), .safeState 256 0, .safeState 0 (2 ^ 16),
    .appReset 256 0, .appReset 0 (2 ^ 16), .logFreeze 256 0, .logFreeze 0 (2 ^ 16), .smpModeReq 256 0, .smpModeReq 0 (2 ^ 16)] :
    List Instr).all (fun i => !i.wf) = true := by
  decide

theorem test_wf_refuses_boot : ([
    .attestationStart (2 ^ 48), .debugNewChallenge 4, .otpProgram 256 0 false, .otpProgram 0 256 false, .bootSequence (.memory 9 0 true),
    .bootSequence (.memory 0 8 true), .bootSequence (.inject 38 []), .bootSequence (.inject 0 [.engine 8 0]),
    .bootSequence (.inject 0 [.engine 0 22]), .bootSequence (.inject 0 [.die 8]), .bootSequence (.inject 0 [.channel 9 0]),
    .bootSequence (.inject 0 [.channel 0 8]), .bootSequence (.inject 0 [.linkModule 48]), .bootSequence (.inject 0 [.csiPort 16]),
    .bootSequence (.inject 0 [.etherPort 6]), .bootSequence (.inject 0 [.warp 8]), .bootSequence (.inject 0 [.walker 8]),
    .bootSequence (.inject 0 [.core 16])] :
    List Instr).all (fun i => !i.wf) = true := by
  decide

theorem test_wf_refuses_islands : ([
    .lockstepMismatch 2, .asyncInput 2 0 [], .debugHalt 2, .islandStatus 2 0 0, .answer (2 ^ 32) 0, .safeFrame 2 0, .inject 2 0 false 0,
    .inject 0 38 false 0, .channelSilence 2, .watchClose 256 0 0, .watchClose 0 128 0, .watchClose 0 0 4096, .wdgKick (2 ^ 32),
    .hubWindowClose 64, .railExcursion 16 0] :
    List Instr).all (fun i => !i.wf) = true := by
  decide

theorem test_wf_refuses_resets : ([
    .powerOnReset (2 ^ 10), .safetyReset 0 (2 ^ 10), .resetPin 0 (2 ^ 10), .brownOut 0 (2 ^ 10), .applicationResetRequest 4 0,
    .applicationResetRequest 0 (2 ^ 32), .dieResetRequest 4 0, .dieResetRequest 0 (2 ^ 32), .syswdKick (2 ^ 32), .syswdExpiry (2 ^ 10),
    .lockup (2 ^ 10), .clockFailure (2 ^ 10), .diePllUnlock 8, .dieHoldEnd 8, .dieReloadDone 8 0 [] {}, .dieReloadDone 0 256 [] {},
    .dieInjectionDone 8 [], .rejoinAttemptTimeout 8, .rejoinRetry 8, .domainWakeStart 8 0, .domainWakeStart 0 18, .domainWakeDone 9 0,
    .domainWakeDone 0 24, .domainWakeFailed 9 0, .domainWakeFailed 0 24, .standbyRequest (2 ^ 32), .canaryMeasure 8 0] :
    List Instr).all (fun i => !i.wf) = true := by
  decide

theorem test_wf_refuses_joined : ([
    .barrierDrop 0 256 0, .barrierDrop 0 0 4096, .regionSendBlock [4] false, .twinData [4] false false, .stewardSramEccError 8 false] :
    List Instr).all (fun i => !i.wf) = true := by
  decide

/-! ### States and operands that the tests share -/

theorem wSome {α : Type} {o : Option α} {P : α → Prop} (b : α) (h : o = some b) (hp : P b) : ∀ a, o = some a → P a := by
  intro a ha
  rw [h] at ha
  cases ha
  exact hp

theorem wNone {α : Type} {o : Option α} {P : α → Prop} (h : o = none) : ∀ a, o = some a → P a := by
  intro a ha
  rw [h] at ha
  cases ha

/-- A state with fields set. -/
def wOn (s : State) (l : List (Fld × Nat)) : State := l.foldl (fun s p => s.fset p.1 p.2) s

/-- One task of a kind, its entry list of 4 entries at block 8 of its store. -/
def wTask (kind : Nat) : TaskDesc := { kind := kind, listBlk := 8, listLen := 4, cost := 1000 }

/-- A partition 0 on die 0, in slot 0, with every engine and channel and 1 GiB of near memory. -/
def wPart : PartRec where
  part := 0
  dieMask := 1
  models := List.replicate 32 0
  dies := [{ die := 0, slot := 0, engMask := 0xFFFF, chanMask := 0xFF, wayMask := 0xFFFF, wdgBase := 0, nearBase := 0, nearSize := 1024,
             wdgCount := 64, budNear := 40, budShared := 40, budRemote := 10, budBulk := 10 }]

/-- A graph of partition 0, of period kind or step kind. -/
def wGraph (id gkind : Nat) (tasks : List TaskDesc) : GraphRec where
  id := id
  model := 0
  gkind := gkind
  part := 0
  reps := 1
  offset := 0
  interval := 0
  nTasks := tasks.length
  nDeps := 0
  tasks := tasks
  deps := []

/-- A plan of partition 0. -/
def wPlan (graphs : List GraphRec) : PlanRec where
  plan := { headOk := true, inside := true, kind := 0, lostDie := 0, planId := 7, periodUs := 10000, nModes := 2, initMode := 0, nPart := 1,
            nModels := 1, nGraphs := graphs.length, margin := 0, trans := [2, 1], parts := [wPart],
            models := [{ idx := 0, first := 0, count := 0 }], graphs := graphs }
  placed := []
  table := []
  lists := []

/-- The part after boot commit, at 1 s of Device Time, with nothing admitted. -/
def wUp : State :=
  { wOn State.reset [(⟨Reg.ING_DT_NOW, 63, 0⟩, 1000000000)] with pow := { State.reset.pow with phase := .running, committed := true, synthUp := true } }

/-- The part running a plan whose period began 1 ms ago, every die domain and channel in service. -/
def wGo (graphs : List GraphRec) : State :=
  { wOn wUp [(⟨Reg.PWR_DOM 0, 43, 0⟩, 0xAAAAAAAAAAA), (Reg.MEM_STATUS_ch_trained (.die 0), 0xFF), (Reg.MEM_STATUS_ch_trained .hub, 0xF),
      (Reg.PLN_PERIOD_period_us, 10000), (Reg.PLN_PERIOD_CNT_count, 5), (Reg.PLN_STATUS_running, 1), (Reg.PLN_STATUS_plan_id, 7)] with
    plan := { State.reset.plan with plans := [wPlan graphs], cur := some 0, start := 999000000 } }

/-- A running task 0 of graph 1, instance 0, on a port of die 0. -/
def wRunT (exec : Nat) : TaskRun where
  graph := 1
  inst := 0
  task := 0
  die := 0
  exec := exec
  slot := 0
  window := 0
  release := 0
  bound := 5000000
  st := .running
  due := true
  relAt := 999000000
  started := 999000000

/-- The part with one task of a kind running on a port of engine 0, or on the warp unit, of die 0. -/
def wBusy (kind exec : Nat) : State :=
  (wGo [wGraph 1 0 [wTask kind]]).setRun (wRunT exec)

theorem wAt {s : State} {n e k : Nat} {r : TaskRun} {d : TaskDesc}
    (h : n < 8 ∧ e < 18 ∧ s.unitTask n e k = some (r, d) ∧ s.run? r.key = some r ∧ r.pos < d.listLen ∧ r.withheld = false) :
    s.AtEntry n e k r d := h

theorem wClean : CleanObs {} := by unfold CleanObs; decide +kernel

theorem wVer {s : State} {n e : Nat} (h : s.storeErr = []) : s.Verified n e := by
  intro b
  rw [State.stErr, h]
  rfl

theorem wReq {s : State} {typ : Nat} {q : OhpIn} {rest : List OhpIn}
    (h : s.pow.phase = .running ∧ q.typ = typ ∧ q.flags = 0 ∧ s.ohp.queue = q :: rest) :
    s.Request typ q (({ s with ohp := { s.ohp with queue := rest } }.count Reg.OHP_CNT_RX_count 1).hear q) :=
  ⟨h.1, h.2.1, h.2.2.1, rest, h.2.2.2, rfl⟩

theorem wCur {s : State} {q : OhpIn} (h : s.unitEpoch q.unit = some q.role) : s.Current q := h

theorem wFresh {s : State} {q : OhpIn} (h : s.ohp.senders.find? q.sentBy = none) : s.Fresh q := by
  intro x hx
  rw [h] at hx
  cases hx

/-- Engine 0 of die 0 at an entry of a task of a kind: the entry's words. -/
def wEntry (kind : Nat) (ws : List Nat) : State := (wBusy kind 0).stPut 0 0 2048 (ws.flatMap (leBytes 8))

/-! ### Worked examples of the spec and published check values -/

/-- The worked admission (chapter 6): partition 2 on die 1 with logical engines 0 and 1, channels 0 and 1, and B_NEAR = 200. -/
def wAdmPart : PartRec where
  part := 2
  dieMask := 2
  models := List.replicate 32 0
  dies := [{ die := 1, slot := 2, engMask := 3, chanMask := 3, wayMask := 0, wdgBase := 0, nearBase := 0, nearSize := 0, wdgCount := 8,
             budNear := 200, budShared := 0, budRemote := 0, budBulk := 0 }]

/-- Table 6.6: the tasks of graph 7. -/
def wAdmGraph : GraphRec where
  id := 7
  model := 0
  gkind := 0
  part := 2
  reps := 1
  offset := 20000
  interval := 0
  nTasks := 6
  nDeps := 5
  tasks := [{ kind := 7, cost := 24, deadline := 80000, rdNear := 32768 }, { kind := 7, cost := 20, deadline := 80000, rdNear := 16384 },
            { kind := 1, cost := 16000, deadline := 80000, depFirst := 0, depCount := 1 },
            { kind := 2, cost := 4800, deadline := 80000, depFirst := 1, depCount := 1 },
            { kind := 4, cost := 3157, deadline := 80000, depFirst := 2, depCount := 2 },
            { kind := 7, cost := 17, deadline := 80000, wrNear := 1024, depFirst := 4, depCount := 1, pin := true, pinEngine := 0 }]
  deps := [{ task := 0, graph := 7, ext := false, inst := 0 }, { task := 1, graph := 7, ext := false, inst := 0 },
           { task := 2, graph := 7, ext := false, inst := 0 }, { task := 3, graph := 7, ext := false, inst := 0 },
           { task := 4, graph := 7, ext := false, inst := 0 }]

def wAdmPlan (g : GraphRec) : Plan := { (wPlan [g]).plan with kind := 0, nModes := 1, parts := [wAdmPart] }

def wAdmTable : List (Nat × Nat × Nat × Nat × Bool) :=
  match scheduleMode { barrierUs := 1, beaconOff := 0, tzCount := 2 } (wAdmPlan wAdmGraph) 0 [wAdmGraph] [wAdmGraph]
      (placeAll { barrierUs := 1, beaconOff := 0, tzCount := 2 } (wAdmPlan wAdmGraph) [wAdmGraph] [wAdmGraph] []) [] with
  | .ok es => es.map fun e => (e.release, e.exec, e.task, e.bound, e.gateAfter)
  | .error _ => []

/-- Table 6.7. -/
theorem test_worked_admission : wAdmTable =
    [(20000, 17, 1, 26863, false), (26863, 1, 3, 29913, false), (32000, 16, 0, 45265, false), (45265, 0, 2, 55315, false),
     (64000, 1, 4, 66024, true), (66024, 16, 5, 66885, true)] := by
  decide +kernel

/-- R12: an event of class C2 from source block 0x0C with code 5. -/
theorem test_event_code : codeClass 0x2305 = 2 := by decide

/-- R72: the elements 0x5, 0xB and 0x1 of an MXFP4 block of scale byte 0x7C are 3, −1.5 and 0.5 times 2 to the −3. -/
theorem test_mxfp4 : mxExp 0x7C = some (-3) ∧ decFlt fmtE2M1 0x5 = .fin false 3 0 ∧ decFlt fmtE2M1 0xB = .fin true 3 (-1) ∧
    decFlt fmtE2M1 0x1 = .fin false 1 (-1) := by decide

/-- R205: in the worked placement the block of offset 0x1234_5600 has g 198,841 and its channel is that of the key's hash. -/
theorem test_near_place (key : Nat) (h : kh key 198841 % 6 = 4) : nearPlace key 0x3F 0 0x12345600 = (4, 198841) := by
  have hp : setBits 8 0x3F = [0, 1, 2, 3, 4, 5] := by decide
  simp [nearPlace, hp, h, nth]

/-- The check values of CRC-32C and CRC-64 in the catalogue of CRCs, over the digits 1 to 9. -/
theorem test_crc_check_values :
    crc32c [0x31, 0x32, 0x33, 0x34, 0x35, 0x36, 0x37, 0x38, 0x39] = 0xE3069283 ∧
    crc64 [0x31, 0x32, 0x33, 0x34, 0x35, 0x36, 0x37, 0x38, 0x39] = 0x62EC59E3F1A4F00A := by decide +kernel

/-! ### Steps -/

/-- A step takes the command at the front. -/
theorem test_step_takes_front : (match step { wUp with pending := [.hubWindowClose 3, .withdraw] } with
    | .next t => t.pending | _ => []) = [.withdraw] := by decide +kernel

/-- With no command waiting, Device Time advances. -/
theorem test_step_ticks : (match step wUp with | .next t => t.now | _ => 0) = 1000000001 := by decide +kernel

/-- The table gives no bits: no word spells a command. -/
theorem test_no_word : decodeTableWord 32 0 = none ∧ State.reset.withFetchWord 32 0 = State.reset := ⟨rfl, rfl⟩

/-! ### Witnesses of the statements' hypotheses -/

theorem wit_EmptyQueueTicks :
    -- 
    (∃ (s : State), s.pending = []) ∧
    -- b
    (∃ (s : State), s.pending = []) :=
  ⟨⟨wUp, by decide +kernel⟩,
    ⟨State.reset, by decide +kernel⟩⟩

theorem wit_StepKeepsCanonicalForm :
    ∃ (s : State), s.Canon :=
  ⟨State.reset, by exact ⟨rfl, rfl, rfl, rfl, rfl, rfl, rfl, rfl, rfl, rfl, rfl⟩⟩

/-- The definition of a register of the index. -/
def wDef (a : Addr) : RegDef := match regAt a with
  | some (d, _, _) => d
  | none => { name := "", off := 0, dims := [], wide := false, rst := 0, rw := 0, stg := 0, lck := 0, w1c := 0 }

theorem wit_RegisterWriteByAccessCode :
    -- 
    (∃ (s : State) (src : Nat) (agent : Nat) (addr : Nat) (d : RegDef) (key : Addr) (upper : Bool), s.target src (addr / 4 * 4) = .reg (addr / 4 * 4) ∧
    s.reaches ⟨src, agent⟩ (addr / 4 * 4) = true ∧ regAt (addr / 4 * 4) = some (d, key, upper) ∧ ownRule (addr / 4 * 4) = false) ∧
    -- b
    (∃ (s : State) (src : Nat) (agent : Nat) (addr : Nat) (d : RegDef) (key : Addr) (upper : Bool), s.target src (addr / 4 * 4) = .reg (addr / 4 * 4) ∧
    s.reaches ⟨src, agent⟩ (addr / 4 * 4) = true ∧ regAt (addr / 4 * 4) = some (d, key, upper) ∧ ownRule (addr / 4 * 4) = false) ∧
    -- c
    (∃ (s : State) (src : Nat) (agent : Nat) (addr : Nat) (d : RegDef) (key : Addr) (upper : Bool), s.target src (addr / 4 * 4) = .reg (addr / 4 * 4) ∧
    s.reaches ⟨src, agent⟩ (addr / 4 * 4) = true ∧ regAt (addr / 4 * 4) = some (d, key, upper) ∧ ownRule (addr / 4 * 4) = false) ∧
    -- d
    (∃ (s : State) (src : Nat) (agent : Nat) (addr : Nat) (d : RegDef) (key : Addr) (upper : Bool), s.target src (addr / 4 * 4) = .reg (addr / 4 * 4) ∧
    s.reaches ⟨src, agent⟩ (addr / 4 * 4) = true ∧ regAt (addr / 4 * 4) = some (d, key, upper) ∧ ownRule (addr / 4 * 4) = false) :=
  ⟨⟨wUp, 8, 0, Reg.PACE_TARGET 0, wDef (Reg.PACE_TARGET 0), Reg.PACE_TARGET 0, false, by decide +kernel⟩,
    ⟨wUp, 0xC, 0, Reg.PKG_DECODE_ERR + 7, wDef Reg.PKG_DECODE_ERR, Reg.PKG_DECODE_ERR, true, by decide +kernel⟩,
    ⟨wUp, 8, 0, Reg.ING_SET_BASE, wDef Reg.ING_SET_BASE, Reg.ING_SET_BASE, false, by decide +kernel⟩,
    ⟨wUp, 8, 0, Reg.OHP_MAC + 4, wDef Reg.OHP_MAC, Reg.OHP_MAC, true, by decide +kernel⟩⟩

theorem wit_CaptureClearClears :
    ∃ (s : State) (src : Nat) (agent : Nat) (addr : Nat) (d : RegDef), s.reaches ⟨src, agent⟩ (addr / 8 * 8 + 4) = true ∧ regAt (addr / 8 * 8) = some (d,
    addr / 8 * 8, false) ∧ regAt (addr / 8 * 8 + 4) = some (d, addr / 8 * 8, true) ∧ ownRule (addr / 8 * 8 + 4) = false ∧ d.w1c = 2 ^ 63 ∧ d.rw = 0 ∧
    d.stg = 0 ∧ d.lck = 0 :=
  ⟨wUp.capture Reg.PKG_DECODE_ERR 5, 8, 0, Reg.PKG_DECODE_ERR, wDef Reg.PKG_DECODE_ERR, by decide +kernel⟩

theorem wit_UndecodableAccess :
    -- 1
    (∃ (s : State) (src : Nat) (addr : Nat) (kind : Nat), src < 16 ∧ src ≠ 10 ∧ s.target src (addr / 4 * 4) = .undecodable kind) ∧
    -- 1 (b)
    (∃ (s : State) (src : Nat) (addr : Nat) (kind : Nat), src < 16 ∧ src ≠ 10 ∧ s.target src (addr / 4 * 4) = .undecodable kind) ∧
    -- 3
    (∃ (s : State) (src : Nat) (addr : Nat) (n : Nat) (kind : Nat), src ≤ 13 ∧ src ≠ 10 ∧ (src = 13 → s.fget Reg.SEC_STATUS_debug_level ≠ 0) ∧ 0 < n ∧ addr
    % 256 + n ≤ 256 ∧ s.target src addr = .undecodable kind) ∧
    -- 3 (b)
    (∃ (s : State) (src : Nat) (addr : Nat) (n : Nat) (kind : Nat), src ≤ 13 ∧ src ≠ 10 ∧ (src = 13 → s.fget Reg.SEC_STATUS_debug_level ≠ 0) ∧ 0 < n ∧ addr
    % 256 + n ≤ 256 ∧ s.target src addr = .undecodable kind) ∧
    -- 4
    (∃ (s : State) (src : Nat) (addr : Nat) (kind : Nat) (data : List Byte), src ≤ 13 ∧ src ≠ 10 ∧ (src = 13 → s.fget Reg.SEC_STATUS_debug_level ≠ 0) ∧
    data ≠ [] ∧ addr % 256 + data.length ≤ 256 ∧ s.target src addr = .undecodable kind) :=
  ⟨⟨wUp, 8, 0x00FFFFFFFFFC, 0, by decide +kernel⟩,
    ⟨wUp, 15, 0x001000000003, 1, by decide +kernel⟩,
    ⟨wUp, 8, 0x004000000000 + 16 * 2 ^ 24 * 63, 256, 3, by decide +kernel⟩,
    ⟨wUp.fset (Reg.PKG_DIE_STATE_die 1) 2, 12, 0x0080100000FF, 1, 2, by decide +kernel⟩,
    ⟨wUp, 8, 0x00FFFFFFFF00, 0, [1, 2], by decide +kernel⟩⟩

def wBulkQ : MemReq := { src := 8, agent := 0, addr := 0x004000000100, len := 256 }
def wHeldS : State := { wUp with mem := { wUp.mem with held := [wBulkQ] } }
/-- A write of 4 bytes, and a read, waiting at their channel of the bulk tier or slice. -/
def wWait (q : MemReq) : State := { wGo [] with mem := { wUp.mem with waiting := [q] } }
def wWriteQ : MemReq := { src := 8, agent := 0, addr := 0x0040000000FC, len := 4, write := true, data := [1, 2, 3, 4] }
def wReadQ : MemReq := { src := 8, agent := 0, addr := 0x004000000000, len := 256 }
/-- Place of a waiting request's block. -/
def wPlace (q : MemReq) : Nat × Nat := match (wWait q).placeOf q with
  | some (.dram _ c k) => (c, k)
  | some (.shared _ sl k) => (sl, k)
  | _ => (0, 0)
def wSliceW : MemReq := { src := 0, agent := 0, addr := 0x008000000000, len := 256, write := true, data := List.replicate 256 7, home := 0, beat := 3 }
def wSliceR : MemReq := { src := 0, agent := 0, addr := 0x0080000000FF, len := 1, home := 0 }
def wSlice0 : MemReq := { src := 0, agent := 0, addr := 0x008000000000, len := 256, home := 0 }
def wLate : State := wOn (wGo []) [(⟨Reg.ING_DT_NOW, 63, 0⟩, 4000000000000)]
/-- A combine of 4 bytes, waiting at its channel or slice. -/
def wCombQ (a : Nat) : MemReq := { src := 8, agent := 0, addr := a, len := 4, write := true, data := [1, 0, 0, 0], comb := some (0, 0) }
def wPart3 (q : MemReq) : MemReq := { q with home := 0, beat := 3 }

theorem wit_AccessWaitsAtItsChannel :
    -- 1
    (∃ (s : State) (src : Nat) (agent : Nat) (addr : Nat) (len : Nat) (off : Nat) (key : Nat) (p : Nat) (share : Nat) (data : Option (List Byte)), 8 ≤ src
      ∧ src ≤ 13 ∧ src ≠ 10 ∧ (src = 13 → s.fget Reg.SEC_STATUS_debug_level ≠ 0) ∧ 0 < (match data with
    | some d => d.length
    | none => len) ∧ addr % 256 + (match data with
    | some d => d.length
    | none => len) ≤ 256 ∧ s.target src addr = .bulk off ∧ s.sysPort src agent (.bulk off) = some (key, p, share)) ∧
    -- 1 (b)
    (∃ (s : State) (src : Nat) (agent : Nat) (addr : Nat) (len : Nat) (off : Nat) (key : Nat) (p : Nat) (share : Nat) (data : Option (List Byte)), 8 ≤ src
      ∧ src ≤ 13 ∧ src ≠ 10 ∧ (src = 13 → s.fget Reg.SEC_STATUS_debug_level ≠ 0) ∧ 0 < (match data with
    | some d => d.length
    | none => len) ∧ addr % 256 + (match data with
    | some d => d.length
    | none => len) ≤ 256 ∧ s.target src addr = .bulk off ∧ s.sysPort src agent (.bulk off) = some (key, p, share)) ∧
    -- 2.1
    (∃ (s : State) (i : Nat) (q : MemReq) (off : Nat) (key : Nat) (p : Nat) (share : Nat), s.mem.held[i]? = some q ∧ q.run = none ∧ q.link = none ∧ 8 ≤
    q.src ∧ s.target q.src q.addr = .bulk off ∧ s.sysPort q.src q.agent (.bulk off) = some (key, p, share) ∧
    (({ s with mem := { s.mem with held := s.mem.held.take i } } : State).heldOf none 4 key = []) ∧ share ≠ 0 ∧ (smGet 0 s.mem.sysFrom key + ceilDiv
    (smGet 0 s.mem.sysCnt key * 4000) (max 1 share)) ≤ s.now) ∧
    -- 2.2
    (∃ (s : State) (i : Nat) (q : MemReq) (off : Nat) (key : Nat) (p : Nat) (share : Nat), s.mem.held[i]? = some q ∧ q.run = none ∧ q.link = none ∧ 8 ≤
    q.src ∧ s.target q.src q.addr = .bulk off ∧ s.sysPort q.src q.agent (.bulk off) = some (key, p, share) ∧ (¬
    (({ s with mem := { s.mem with held := s.mem.held.take i } } : State).heldOf none 4 key = []) ∨ share = 0 ∨ s.now < (smGet 0 s.mem.sysFrom key +
    ceilDiv (smGet 0 s.mem.sysCnt key * 4000) (max 1 share)))) :=
  ⟨⟨wUp, 8, 0, 0x0040000000FF, 1, 0xFF, 512, 0, wUp.fget Reg.BWR_HUB_BUD_control, none, by decide +kernel⟩,
    ⟨{ wUp with mem := { wUp.mem with sysFrom := [(512, 2000000000)] } }, 8, 0, 0x004000000000, 0, 0, 512, 0, wUp.fget Reg.BWR_HUB_BUD_control, some
    (List.replicate 256 1), by decide +kernel⟩,
    ⟨wHeldS, 0, wBulkQ, 0x100, 512, 0, wUp.fget Reg.BWR_HUB_BUD_control, by decide +kernel⟩,
    ⟨{ wHeldS with mem := { wHeldS.mem with sysFrom := [(512, 2000000000)] } }, 0, wBulkQ, 0x100, 512, 0, wUp.fget Reg.BWR_HUB_BUD_control, by
    decide +kernel⟩⟩

theorem wit_ChannelServesBlock :
    -- 1.1
    (∃ (s : State) (q : MemReq) (die : Nat) (c : Nat) (k : Nat) (ecc : Nat), s.mem.waiting = [q] ∧ q.home = die ∧ s.placeOf q = some (.dram die c k) ∧
    q.link = none ∧ q.src ≠ 10 ∧ ecc < 4 ∧ q.comb = none ∧ q.write = true ∧ q.addr % 256 + q.data.length ≤ 256 ∧ (¬ (s.chanFailed die c = true ∨
    (q.data.length ≠ 256 ∧ ecc = 3)))) ∧
    -- 1.2
    (∃ (s : State) (q : MemReq) (die : Nat) (c : Nat) (k : Nat) (ecc : Nat) (x : _), s.mem.waiting = [q] ∧ q.home = die ∧ s.placeOf q = some (.dram die c
    k) ∧ q.link = none ∧ q.src ≠ 10 ∧ ecc < 4 ∧ q.comb = some x ∧ q.data.length % 4 = 0 ∧ q.addr % 256 + q.data.length ≤ 256 ∧ (¬ (s.chanFailed die c
    = true ∨ ecc = 3))) ∧
    -- 1.3
    (∃ (s : State) (q : MemReq) (die : Nat) (c : Nat) (k : Nat) (ecc : Nat), s.mem.waiting = [q] ∧ q.home = die ∧ s.placeOf q = some (.dram die c k) ∧
    q.link = none ∧ q.src ≠ 10 ∧ ecc < 4 ∧ q.comb = none ∧ q.write = false ∧ (¬ (s.chanFailed die c = true ∨ ecc = 3))) ∧
    -- 1.4
    (∃ (s : State) (q : MemReq) (die : Nat) (c : Nat) (k : Nat) (ecc : Nat), s.mem.waiting = [q] ∧ q.home = die ∧ s.placeOf q = some (.dram die c k) ∧
    q.link = none ∧ q.src ≠ 10 ∧ ecc < 4 ∧ q.comb = none ∧ q.write = true ∧ (s.chanFailed die c = true ∨ (q.data.length ≠ 256 ∧ ecc = 3))) ∧
    -- 1.5
    (∃ (s : State) (q : MemReq) (die : Nat) (c : Nat) (k : Nat) (ecc : Nat), s.mem.waiting = [q] ∧ q.home = die ∧ s.placeOf q = some (.dram die c k) ∧
    q.link = none ∧ q.src ≠ 10 ∧ ecc < 4 ∧ q.comb = none ∧ q.write = false ∧ (s.chanFailed die c = true ∨ ecc = 3)) ∧
    -- 2
    (∃ (s : State) (a : MemReq) (b : MemReq) (die : Nat) (c : Nat) (k : Nat) (l : Nat), s.mem.waiting = [a, b] ∧ a.home = die ∧ b.home = die ∧ s.placeOf a
    = some (.dram die c k) ∧ s.placeOf b = some (.dram die c l) ∧ (∀ q ∈ [a, b], q.link = none ∧ q.src ≠ 10) ∧ ¬ (((a).addr / 256 = (b).addr / 256 ∧
    (a).arr = (b).arr ∧ sameCycle (a) (b) = true) ∧ ((b).addr / 256 = (a).addr / 256 ∧ (b).arr = (a).arr ∧ sameCycle (b) (a) = true))) :=
  ⟨⟨wWait wWriteQ, wWriteQ, 8, (wPlace wWriteQ).1, (wPlace wWriteQ).2, 0, by decide +kernel⟩,
    ⟨wWait (wCombQ 0x004000000100), (wCombQ 0x004000000100), 8, (wPlace (wCombQ 0x004000000100)).1, (wPlace (wCombQ 0x004000000100)).2, 1, (0, 0), by
    decide +kernel⟩,
    ⟨wWait wReadQ, wReadQ, 8, (wPlace wReadQ).1, (wPlace wReadQ).2, 1, by decide +kernel⟩,
    ⟨wWait wWriteQ, wWriteQ, 8, (wPlace wWriteQ).1, (wPlace wWriteQ).2, 3, by decide +kernel⟩,
    ⟨wWait wReadQ, wReadQ, 8, (wPlace wReadQ).1, (wPlace wReadQ).2, 3, by decide +kernel⟩,
    ⟨{ wWait wReadQ with mem := { wUp.mem with waiting := [wWriteQ, wReadQ] } }, wWriteQ, wReadQ, 8, (wPlace wReadQ).1, (wPlace wWriteQ).2,
    (wPlace wReadQ).2, by decide +kernel⟩⟩

theorem wit_SliceServesByBeats :
    -- 1
    (∃ (s : State) (q : MemReq) (v : Nat) (sl : Nat) (k : Nat) (ecc : Nat), s.mem.waiting = [q] ∧ q.home = v ∧ s.placeOf q = some (.shared v sl k) ∧ q.link
    = none ∧ q.src ≠ 10 ∧ q.ecc < 4 ∧ ecc < 4 ∧ q.beat + 1 < q.beats) ∧
    -- 2
    (∃ (s : State) (q : MemReq) (v : Nat) (sl : Nat) (k : Nat) (ecc : Nat), s.mem.waiting = [q] ∧ q.home = v ∧ s.placeOf q = some (.shared v sl k) ∧ q.link
    = none ∧ q.src ≠ 10 ∧ q.ecc < 4 ∧ ecc < 4 ∧ q.beats ≤ q.beat + 1 ∧ q.comb = none ∧ q.write = true ∧ q.addr % 256 + q.data.length ≤ 256 ∧ ¬
    (q.data.length ≠ 256 ∧ (max q.ecc ecc) = 3)) ∧
    -- 3
    (∃ (s : State) (q : MemReq) (v : Nat) (sl : Nat) (k : Nat) (ecc : Nat) (x : _), s.mem.waiting = [q] ∧ q.home = v ∧ s.placeOf q = some (.shared v sl k)
    ∧ q.link = none ∧ q.src ≠ 10 ∧ q.ecc < 4 ∧ ecc < 4 ∧ q.beats ≤ q.beat + 1 ∧ q.comb = some x ∧ q.data.length % 4 = 0 ∧ q.addr % 256 + q.data.length
    ≤ 256 ∧ (max q.ecc ecc) ≠ 3) ∧
    -- 4
    (∃ (s : State) (q : MemReq) (v : Nat) (sl : Nat) (k : Nat) (ecc : Nat), s.mem.waiting = [q] ∧ q.home = v ∧ s.placeOf q = some (.shared v sl k) ∧ q.link
    = none ∧ q.src ≠ 10 ∧ q.ecc < 4 ∧ ecc < 4 ∧ q.beats ≤ q.beat + 1 ∧ q.comb = none ∧ q.write = false ∧ (max q.ecc ecc) ≠ 3) ∧
    -- 5
    (∃ (s : State) (q : MemReq) (v : Nat) (sl : Nat) (k : Nat) (ecc : Nat), s.mem.waiting = [q] ∧ q.home = v ∧ s.placeOf q = some (.shared v sl k) ∧ q.link
    = none ∧ q.src ≠ 10 ∧ q.ecc < 4 ∧ ecc < 4 ∧ q.beats ≤ q.beat + 1 ∧ q.comb = none ∧ q.write = true ∧ q.data.length ≠ 256 ∧ (max q.ecc ecc) = 3) ∧
    -- 6
    (∃ (s : State) (q : MemReq) (v : Nat) (sl : Nat) (k : Nat) (ecc : Nat), s.mem.waiting = [q] ∧ q.home = v ∧ s.placeOf q = some (.shared v sl k) ∧ q.link
    = none ∧ q.src ≠ 10 ∧ q.ecc < 4 ∧ ecc < 4 ∧ q.beats ≤ q.beat + 1 ∧ q.comb = none ∧ q.write = false ∧ (max q.ecc ecc) = 3) :=
  ⟨⟨wWait wSlice0, wSlice0, 0, (wPlace wSlice0).1, (wPlace wSlice0).2, 0, by decide +kernel⟩,
    ⟨wWait wSliceW, wSliceW, 0, (wPlace wSliceW).1, (wPlace wSliceW).2, 0, by decide +kernel⟩,
    ⟨wWait (wPart3 (wCombQ 0x008000000000)), (wPart3 (wCombQ 0x008000000000)), 0, (wPlace (wPart3 (wCombQ 0x008000000000))).1,
    (wPlace (wPart3 (wCombQ 0x008000000000))).2, 1, (0, 0), by decide +kernel⟩,
    ⟨wWait wSliceR, wSliceR, 0, (wPlace wSliceR).1, (wPlace wSliceR).2, 1, by decide +kernel⟩,
    ⟨wWait (wPart3 { wSliceW with data := [7], len := 1 }), (wPart3 { wSliceW with data := [7], len := 1 }), 0,
    (wPlace (wPart3 { wSliceW with data := [7], len := 1 })).1, (wPlace (wPart3 { wSliceW with data := [7], len := 1 })).2, 3, by decide +kernel⟩,
    ⟨wWait wSliceR, wSliceR, 0, (wPlace wSliceR).1, (wPlace wSliceR).2, 3, by decide +kernel⟩⟩

theorem wit_MemoryUpkeep :
    -- 1
    (∃ (s : State) (die : Nat) (c : Nat), s.chanUp die c = true) ∧
    -- 4
    (∃ (s : State) (die : Nat) (c : Nat), s.chanUp die c = true ∧ smGet 0 s.mem.wckAt (chanKey die c) + 10 ^ 8 ≤ s.now) ∧
    -- 5
    (∃ (s : State) (die : Nat) (c : Nat), s.chanUp die c = true ∧ smGet 0 s.mem.mr4At (chanKey die c) + 16000000 ≤ s.now) ∧
    -- 2
    (∃ (s : State) (die : Nat) (c : Nat) (ecc : Nat), s.chanUp die c = true ∧ s.flag (Reg.MEM_CTRL_scrub_en (memWin die)) = true ∧ s.scrubDue die c ≤ s.now
    ∧ ecc < 4) ∧
    -- 2 (b)
    (∃ (s : State) (die : Nat) (c : Nat) (ecc : Nat), s.chanUp die c = true ∧ s.flag (Reg.MEM_CTRL_scrub_en (memWin die)) = true ∧ s.scrubDue die c ≤ s.now
    ∧ ecc < 4) ∧
    -- 3
    (∃ (s : State) (die : Nat) (c : Nat), s.chanUp die c = true ∧ smGet 0 s.mem.winFrom (chanKey die c) + 10 ^ 9 ≤ s.now) ∧
    -- 3 (b)
    (∃ (s : State) (die : Nat) (c : Nat), s.chanUp die c = true ∧ smGet 0 s.mem.winFrom (chanKey die c) + 10 ^ 9 ≤ s.now) ∧
    -- 4 (b)
    (∃ (s : State) (die : Nat) (c : Nat), s.chanUp die c = true ∧ smGet 0 s.mem.wckAt (chanKey die c) + 10 ^ 8 ≤ s.now) ∧
    -- 4 (c)
    (∃ (s : State) (die : Nat) (c : Nat), s.chanUp die c = true ∧ smGet 0 s.mem.wckAt (chanKey die c) + 10 ^ 8 ≤ s.now) ∧
    -- 6
    (∃ (s : State) (die : Nat) (c : Nat), s.chanUp die c = true ∧ (∀ a, smGet none s.mem.eyeAt (chanKey die c) = some a → a + 3600 * 10 ^ 9 ≤ s.now)) ∧
    -- 7
    (∃ (s : State) (die : Nat) (c : Nat) (n : Nat) (m : Nat) (steps : Int) (ok : Bool) (x : Instr) (at_ : Nat), (x, at_) ∈ [(Instr.refresh die c, 0),
    (Instr.patrolScrub die c n, s.scrubDue die c), (Instr.rowMissWindow die c, smGet 0 s.mem.winFrom (chanKey die c) + 10 ^ 9), (Instr.wck2dqCheck die
    c steps ok, smGet 0 s.mem.wckAt (chanKey die c) + 10 ^ 8), (Instr.mr4Poll die c n, smGet 0 s.mem.mr4At (chanKey die c) + 16000000),
    (Instr.eyeMeasurement die c n m, ((smGet none s.mem.eyeAt (chanKey die c)).map (· + 3600 * 10 ^ 9)).getD 0)] ∧ (s.chanUp die c = false ∨ s.now <
    at_)) :=
  ⟨⟨wLate, 8, 3, by decide +kernel⟩,
    ⟨wLate, 8, 3, by decide +kernel⟩,
    ⟨wLate, 8, 3, by decide +kernel⟩,
    ⟨{ wLate.fset (Reg.MEM_CTRL_scrub_en (memWin 0)) 1 with dramErr := [(dramKey 0 7 (chanBlock 0 0), 3)] }, 0, 7, 0, by decide +kernel⟩,
    ⟨wLate.fset (Reg.MEM_CTRL_scrub_en (memWin 0)) 1, 0, 0, 3, by decide +kernel⟩,
    ⟨wOn wLate [(Reg.MEM_CH_CNT_RD_blocks (memWin 0) 0, 1000), (Reg.MEM_CH_CNT_MISS_count (memWin 0) 0, 1000)], 0, 0, by decide +kernel⟩,
    ⟨wLate, 8, 3, by decide +kernel⟩,
    ⟨{ wLate with mem := { wLate.mem with retrainFail := [(chanKey 8 0, 1)] } }, 8, 0, by decide +kernel⟩,
    ⟨{ wLate with mem := { wLate.mem with retrainFail := [(chanKey 0 7, 1)] } }, 0, 7, by decide +kernel⟩,
    ⟨{ wLate with mem := { wLate.mem with eyeAt := [(chanKey 0 7, some 0)] } }, 0, 7, by decide +kernel, wSome 0 (by decide +kernel) (by decide +kernel)⟩,
    ⟨wUp, 0, 0, 0, 0, 0, true, .refresh 0 0, 0, by decide +kernel⟩⟩

def wObs : List PaceObs := List.replicate 22 { count := 1680, slack := 20, held := true }
def wPaceDie (p : PaceDie) : State := { wGo [] with pace := [(0, p)] }
/-- Only domain 19 of die 0 is ON, its sentinel at three bad samples. -/
def wOneOn : State := { wOn (wGo []) ((List.range 22).map fun d => (Reg.PWR_DOM_dom 0 d, if d = 19 then 2 else 0)) with
  paceDom := [(engKey 0 19, { bad := [3, 0, 0] })] }

theorem wit_PaceSampleFilters :
    -- 1
    (∃ (s : State) (n : Nat) (obs : List PaceObs), s.loopRuns n = true ∧ (∀ d < 22, s.dom n d = 2 → (obs[d]?).all (fun o => !(paceConds o (s.paceOf n d
    o)).contains true && decide (o.slack < 64)) = true)) ∧
    -- 1 (b)
    (∃ (s : State) (n : Nat) (obs : List PaceObs), s.loopRuns n = true ∧ (∀ d < 22, s.dom n d = 2 → (obs[d]?).all (fun o => !(paceConds o (s.paceOf n d
    o)).contains true && decide (o.slack < 64)) = true)) ∧
    -- 2
    (∃ (s : State) (n : Nat) (d : Nat) (k : Nat) (m : Nat) (obs : List PaceObs) (o : PaceObs), s.loopRuns n = true ∧ s.onDoms n = [d] ∧ obs[d]? = some o ∧
    (paceConds o (s.paceOf n d o))[k]? = some true ∧ (s.paceDomAt n d).bad[k]? = some m ∧ 3 ≤ m ∧ s.flag (Reg.PACE_DOM_sentinel_fault n d) = false) ∧
    -- 3
    (∃ (s : State) (n : Nat), s.loopRuns n = false) :=
  ⟨⟨wGo [], 0, wObs, by decide +kernel⟩,
    ⟨(wGo []).fset (Reg.PACE_STATUS_alarm 0) 1, 0, List.replicate 3 { count := 2000, slack := 63, held := false }, by decide +kernel⟩,
    ⟨wOneOn, 0, 19, 0, 3, List.replicate 22 { count := 0, slack := 0, held := false }, { count := 0, slack := 0, held := false }, by decide +kernel⟩,
    ⟨State.reset, 0, by decide +kernel⟩⟩

theorem wit_VoltageLoop :
    -- 1
    (∃ (s : State) (n : Nat) (since : Nat), s.hasDie n = true ∧ s.flag (Reg.PACE_STATUS_alarm n) = true ∧ (s.paceDie n).okSince = some since ∧ since +
    100000000 ≤ s.now) ∧
    -- 2.1
    (∃ (s : State) (n : Nat) (v : Nat), s.loopRuns n = true ∧ (s.paceDie n).avs = none ∧ (s.paceDie n).raising = false ∧ s.railDue n = some v ∧ v < 1024) ∧
    -- 3
    (∃ (s : State) (n : Nat) (v : Nat) (rb : Nat) (k : Nat), ((s.paceDie n).avs = some { volt := some v, retries := k }) ∧ v ≤ rb + 25 ∧ rb ≤ v + 25 ∧ rb <
    1024) ∧
    -- 3 (b)
    (∃ (s : State) (n : Nat) (v : Nat) (rb : Nat) (k : Nat), ((s.paceDie n).avs = some { volt := some v, retries := k }) ∧ v ≤ rb + 25 ∧ rb ≤ v + 25 ∧ rb <
    1024) ∧
    -- 4
    (∃ (s : State) (n : Nat) (k : Nat), (s.paceDie n).avs = some { volt := none, retries := k }) ∧
    -- 5.1
    (∃ (s : State) (n : Nat) (rb : Nat) (ok : Bool) (a : AvsTrans), (s.paceDie n).avs = some a ∧ rb < 1024 ∧ (ok = false ∨ (∃ v, a.volt = some v ∧ ¬ (v ≤
    rb + 25 ∧ rb ≤ v + 25))) ∧ a.retries < 3) ∧
    -- 5.2
    (∃ (s : State) (n : Nat) (rb : Nat) (ok : Bool) (a : AvsTrans), (s.paceDie n).avs = some a ∧ rb < 1024 ∧ (ok = false ∨ (∃ v, a.volt = some v ∧ ¬ (v ≤
    rb + 25 ∧ rb ≤ v + 25))) ∧ 3 ≤ a.retries ∧ (s.paceDie n).acked < 1024) ∧
    -- 6
    (∃ (s : State) (n : Nat), s.hasDie n = true ∧ (s.paceDie n).raising = true ∧ (s.paceDie n).avs = none) ∧
    -- 2.2
    (∃ (s : State) (n : Nat), s.loopRuns n = true ∧ (s.paceDie n).avs = none ∧ (s.paceDie n).raising = false ∧ s.railDue n = none) ∧
    -- 7.1
    (∃ (s : State) (n : Nat), s.loopRuns n = false ∨ (s.paceDie n).avs ≠ none ∨ (s.paceDie n).raising = true) ∧
    -- 7.2
    (∃ (s : State) (n : Nat), s.flag (Reg.PACE_STATUS_alarm n) = false ∨ (s.paceDie n).okSince = none) ∧
    -- 7.3
    (∃ (s : State) (n : Nat), (s.paceDie n).avs = none) ∧
    -- 7.4
    (∃ (s : State) (n : Nat), (s.paceDie n).raising = false ∨ (s.paceDie n).avs ≠ none) :=
  ⟨⟨(wPaceDie { okSince := some 900000000 }).fset (Reg.PACE_STATUS_alarm 0) 1, 0, 900000000, by decide +kernel⟩,
    ⟨wOn (wPaceDie { rail := 700, acked := 700 }) ((List.range 22).map fun d => (Reg.PACE_DOM_ldo 0 d, 850)), 0,
    ((wOn (wPaceDie { rail := 700, acked := 700 }) ((List.range 22).map fun d => (Reg.PACE_DOM_ldo 0 d, 850))).railDue 0).getD 0, by decide +kernel⟩,
    ⟨wPaceDie { avs := some { volt := some 900, retries := 2 } }, 0, 900, 925, 2, by decide +kernel⟩,
    ⟨wPaceDie { avs := some { volt := some 900, retries := 2 }, raising := true }, 0, 900, 875, 2, by decide +kernel⟩,
    ⟨wPaceDie { avs := some { volt := none, retries := 3 } }, 0, 3, by decide +kernel⟩,
    ⟨wPaceDie { avs := some { volt := some 900, retries := 2 } }, 0, 0, false, { volt := some 900, retries := 2 }, by decide +kernel⟩,
    ⟨wPaceDie { avs := some { volt := some 900, retries := 3 } }, 0, 0, true, { volt := some 900, retries := 3 }, by decide +kernel⟩,
    ⟨wPaceDie { raising := true, rail := 800, acked := 850 }, 0, by decide +kernel⟩,
    ⟨wPaceDie { rail := 850 }, 0, by decide +kernel⟩,
    ⟨wPaceDie { raising := true }, 0, by decide +kernel⟩,
    ⟨wPaceDie { raising := true }, 0, by decide +kernel⟩,
    ⟨wPaceDie { raising := true }, 0, by decide +kernel⟩,
    ⟨wPaceDie {}, 0, by decide +kernel⟩⟩

/-- At the first beacon slot of engine 3. -/
def wSlot : State := let s := wGo []; { s with plan := { s.plan with start := 1000000000 - (s.fget Reg.ADM_CTRL_beacon_off_us + 32 * 3) * 1000 } }
/-- A task of a kind on the unit port of engine 3 at its slot. -/
def wSlotBusy : State := { (wSlot.setRun { wRunT 3 with phys := 3 }) with plan := { wSlot.plan with plans := [wPlan [wGraph 1 0 [wTask 1]]] } }
/-- The beacon of engine 3 runs, its slot past. -/
def wBeacon : State := { wSlot with chk := { wSlot.chk with beacon := [engKey 0 3] }, plan := { wSlot.plan with start := 900000000 } }
/-- Engine 15's entry lists are being copied. -/
def wCopy : State := { wGo [] with pow := { wUp.pow with copying := [engKey 0 15] }, plan := { wUp.plan with cur := some 0, plans := [{ wPlan [wGraph 1 0 [wTask 1]] with
  placed := [{ graph := 1, task := 0, die := 0, exec := 15 }], lists := [{ graph := 1, task := 0, bytes := List.replicate 64 9 }] }] } }
def wAudit (ts : List Tile) : State := { wOn (wGo [wGraph 1 0 [wTask 1]]) [(Reg.CHK_STATUS_audit_on 0, 1), (Reg.CHK_STATUS_audit_eng 0, 17)] with
  chk := { wUp.chk with queue := [(0, ts)] } }
def wTile : Tile := { graph := 1, inst := 0, task := 0, pass := 0, j := 0, eng := 5, crc := 0x1234 }
def wEnded : TaskRun := { wRunT 5 with phys := 5, st := .ended, ended := 999900000 }
def wQuar (q : Nat) : State := wOn (wGo []) [(Reg.CHK_ENG_qstate 0 17, q), (Reg.ENG_STATUS_state 0 17, 4), (Reg.CHK_ENG_strikes 0 17, 1)]

theorem wit_EngineMapAndColumns :
    -- 1
    (∃ (s : State) (n : Nat) (half : Nat), n < 8 ∧ half < 2 ∧ s.dieUp n = true) ∧
    -- 1 (b)
    (∃ (s : State) (n : Nat) (half : Nat), n < 8 ∧ half < 2 ∧ s.dieUp n = true) ∧
    -- 2
    (∃ (s : State) (n : Nat) (e : Nat) (word : Nat), n < 8 ∧ e < 18 ∧ word < 3 ∧ s.dieUp n = true) ∧
    -- 2 (b)
    (∃ (s : State) (n : Nat) (e : Nat) (word : Nat), n < 8 ∧ e < 18 ∧ word < 3 ∧ s.dieUp n = true) :=
  ⟨⟨wGo [], 0, 1, by decide +kernel⟩,
    ⟨wGo [], 1, 0, by decide +kernel⟩,
    ⟨(wGo []).fset (Reg.ENG_COL_FAIL_HI_fail_hi 1 17) 1, 1, 17, 2, by decide +kernel⟩,
    ⟨(wGo []).fset (Reg.ENG_COL_FAIL_fail_lo 0 0) 1, 0, 0, 0, by decide +kernel⟩⟩

theorem wit_BeaconsTestsAndLists :
    -- 1.1
    (∃ (s : State) (n : Nat) (i : Nat) (e : Nat), n < 8 ∧ i < 16 ∧ s.physOf n i = e ∧ e < 18 ∧ s.dieUp n = true ∧ s.releases = true ∧ s.planRec.isSome =
    true ∧ s.engState n e ≠ 4 ∧ s.engState n e ≠ 5 ∧ s.slotAt i ≤ s.now ∧ s.now < s.slotAt i + 32000 ∧ engKey n e ∉ s.chk.beacon ∧ s.unitRun? n e =
    none ∧ s.moveRun? n e = none ∧ s.dom n e = 2) ∧
    -- 1.2
    (∃ (s : State) (n : Nat) (i : Nat) (e : Nat), n < 8 ∧ i < 16 ∧ s.physOf n i = e ∧ e < 18 ∧ s.dieUp n = true ∧ s.releases = true ∧ s.planRec.isSome =
    true ∧ s.engState n e ≠ 4 ∧ s.engState n e ≠ 5 ∧ s.slotAt i ≤ s.now ∧ s.now < s.slotAt i + 32000 ∧ engKey n e ∉ s.chk.beacon ∧ s.unitRun? n e =
    none ∧ s.moveRun? n e = none ∧ s.dom n e ≠ 2 ∧ engKey n e ∉ s.pow.lateSeen) ∧
    -- 2
    (∃ (s : State) (n : Nat) (i : Nat) (e : Nat) (r : TaskRun), n < 8 ∧ i < 16 ∧ s.physOf n i = e ∧ e < 18 ∧ s.dieUp n = true ∧ s.releases = true ∧
    s.planRec.isSome = true ∧ s.engState n e ≠ 4 ∧ s.engState n e ≠ 5 ∧ s.slotAt i ≤ s.now ∧ s.now < s.slotAt i + 32000 ∧ engKey n e ∉ s.chk.beacon ∧
    s.unitRun? n e = some r) ∧
    -- 3
    (∃ (s : State) (n : Nat) (e : Nat), n < 8 ∧ e < 18 ∧ engKey n e ∈ s.chk.beacon) ∧
    -- 4
    (∃ (s : State) (n : Nat) (i : Nat) (e : Nat), n < 8 ∧ i < 16 ∧ s.physOf n i = e ∧ e < 18 ∧ engKey n e ∈ s.chk.beacon ∧ s.slotAt i + 32000 ≤ s.now) ∧
    -- 4 (b)
    (∃ (s : State) (n : Nat) (i : Nat) (e : Nat), n < 8 ∧ i < 16 ∧ s.physOf n i = e ∧ e < 18 ∧ engKey n e ∈ s.chk.beacon ∧ s.slotAt i + 32000 ≤ s.now) ∧
    -- 5.1
    (∃ (s : State) (n : Nat) (e : Nat) (r : TaskRun) (d : TaskDesc), n < 8 ∧ e < 18 ∧ s.unitRun? n e = some r ∧ s.desc? r.graph r.task = some d ∧ d.kind =
    9 ∧ r.pos < d.listLen) ∧
    -- 6
    (∃ (s : State) (n : Nat) (e : Nat) (i : Nat) (off : Nat) (bs : List Byte), n < 8 ∧ e < 18 ∧ engKey n e ∈ s.pow.copying ∧ s.dom n e = 2 ∧ s.logicalOf n
    e = some i ∧ s.listsOn n i = [(off, bs)]) :=
  ⟨⟨wSlot, 0, 3, 3, by decide +kernel⟩,
    ⟨wSlot.fset (Reg.PWR_DOM_dom 0 3) 1, 0, 3, 3, by decide +kernel⟩,
    ⟨wSlotBusy, 0, 3, 3, { wRunT 3 with phys := 3 }, by decide +kernel⟩,
    ⟨wBeacon, 0, 3, by decide +kernel⟩,
    ⟨wBeacon, 0, 3, 3, by decide +kernel⟩,
    ⟨{ wBeacon with chk := { wBeacon.chk with lateLast := [engKey 0 3] } }, 0, 3, 3, by decide +kernel⟩,
    ⟨wBusy 9 0, 0, 0, wRunT 0, wTask 9, by decide +kernel⟩,
    ⟨wCopy, 0, 15, 15, 2048, List.replicate 64 9, by decide +kernel⟩⟩

theorem wit_StrikesAuditsAndQuarantine :
    -- 1
    (∃ (s : State) (n : Nat) (e : Nat), n < 8 ∧ e < 18 ∧ s.engState n e ≠ 4 ∧ s.engState n e ≠ 5) ∧
    -- 1 (b)
    (∃ (s : State) (n : Nat) (e : Nat), n < 8 ∧ e < 18 ∧ s.engState n e ≠ 4 ∧ s.engState n e ≠ 5) ∧
    -- 2
    (∃ (s : State) (n : Nat) (e : Nat), n < 8 ∧ e < 18 ∧ s.engState n e ≠ 5) ∧
    -- 2 (b)
    (∃ (s : State) (n : Nat) (e : Nat), n < 8 ∧ e < 18 ∧ s.engState n e ≠ 5) ∧
    -- 3.1
    (∃ (s : State) (n : Nat) (a : Nat) (crc : Nat) (tl : Tile) (rest : List Tile), n < 8 ∧ s.tiles n = tl :: rest ∧ s.auditEng? n = some a ∧ n ∉
    s.chk.selfPend ∧ smGet none s.chk.charge n = none ∧ engKey n a ∉ s.chk.beacon ∧ crc = tl.crc) ∧
    -- 3.2
    (∃ (s : State) (n : Nat) (a : Nat) (crc : Nat) (tl : Tile) (rest : List Tile), n < 8 ∧ s.tiles n = tl :: rest ∧ s.auditEng? n = some a ∧ n ∉
    s.chk.selfPend ∧ smGet none s.chk.charge n = none ∧ engKey n a ∉ s.chk.beacon ∧ crc ≠ tl.crc) ∧
    -- 4
    (∃ (s : State) (n : Nat) (k : Nat) (tl : Tile), n < 8 ∧ (s.tiles n)[k]? = some tl ∧ (∀ r, s.run? (taskKey tl.graph tl.inst tl.task) = some r → r.done =
    true ∧ r.ended + 100000 ≤ s.now)) ∧
    -- 4 (b)
    (∃ (s : State) (n : Nat) (k : Nat) (tl : Tile), n < 8 ∧ (s.tiles n)[k]? = some tl ∧ (∀ r, s.run? (taskKey tl.graph tl.inst tl.task) = some r → r.done =
    true ∧ r.ended + 100000 ≤ s.now)) ∧
    -- 5.1
    (∃ (s : State) (n : Nat) (e : Nat), n < 8 ∧ e < 18 ∧ s.fget (Reg.CHK_ENG_qstate n e) = 1 ∧ s.engState n e = 4 ∧ engKey n e ∉ s.chk.restart) ∧
    -- 5.2
    (∃ (s : State) (n : Nat) (e : Nat) (c : Nat), n < 8 ∧ e < 18 ∧ s.fget (Reg.CHK_ENG_qstate n e) = 1 ∧ s.engState n e = 4 ∧ engKey n e ∉ s.chk.restart ∧
    c < 68 ∧ popcount 68 (s.stagedCols n e) < 3 ∧ bit (s.stagedCols n e) c = false) ∧
    -- 6.1
    (∃ (s : State) (n : Nat) (e : Nat), n < 8 ∧ e < 18 ∧ s.fget (Reg.CHK_ENG_qstate n e) = 2 ∧ s.engState n e = 4) ∧
    -- 5.3
    (∃ (s : State) (n : Nat) (e : Nat) (cols : _) (other : _), n < 8 ∧ e < 18 ∧ s.fget (Reg.CHK_ENG_qstate n e) = 1 ∧ s.engState n e = 4 ∧ engKey n e ∉
    s.chk.restart ∧ (other = true ∨ 1 < (setBits 68 cols).length ∨ (setBits 68 cols ≠ [] ∧ (3 ≤ popcount 68 (s.stagedCols n e) ∨ ∃ c ∈ setBits 68
    cols, bit (s.stagedCols n e) c = true)))) ∧
    -- 5.3 (b)
    (∃ (s : State) (n : Nat) (e : Nat) (cols : _) (other : _), n < 8 ∧ e < 18 ∧ s.fget (Reg.CHK_ENG_qstate n e) = 1 ∧ s.engState n e = 4 ∧ engKey n e ∉
    s.chk.restart ∧ (other = true ∨ 1 < (setBits 68 cols).length ∨ (setBits 68 cols ≠ [] ∧ (3 ≤ popcount 68 (s.stagedCols n e) ∨ ∃ c ∈ setBits 68
    cols, bit (s.stagedCols n e) c = true)))) ∧
    -- 7.1
    (∃ (s : State) (n : Nat) (e : Nat), n < 8 ∧ e < 18 ∧ s.engState n e ≠ 4) ∧
    -- 7.2
    (∃ (s : State) (n : Nat) (e : Nat), n < 8 ∧ e < 18 ∧ (s.tiles n = [] ∨ s.auditEng? n = none)) ∧
    -- 7.3
    (∃ (s : State) (n : Nat) (e : Nat), n < 8 ∧ e < 18 ∧ s.tiles n = []) :=
  ⟨⟨wGo [], 0, 17, by decide +kernel⟩,
    ⟨wOn (wGo []) [(⟨Reg.CHK_ENG_TIME 0 0, 63, 0⟩, 5)], 0, 0, by decide +kernel⟩,
    ⟨wGo [], 0, 0, by decide +kernel⟩,
    ⟨wQuar 1, 0, 17, by decide +kernel⟩,
    ⟨wAudit [wTile], 0, 17, 0x1234, wTile, [], by decide +kernel⟩,
    ⟨(wAudit [wTile, wTile]).setRun wEnded, 0, 17, 0x1235, wTile, [wTile], by decide +kernel⟩,
    ⟨(wAudit [wTile, wTile]).setRun wEnded, 0, 1, wTile, by decide +kernel⟩,
    ⟨{ (wAudit [wTile]).setRun wEnded with chk := { wUp.chk with queue := [(0, [wTile])], skipSeen := [0] } }, 0, 0, wTile, by decide +kernel⟩,
    ⟨wQuar 1, 0, 17, by decide +kernel⟩,
    ⟨wQuar 1, 0, 17, 67, by decide +kernel⟩,
    ⟨wQuar 2, 0, 17, by decide +kernel⟩,
    ⟨wQuar 1, 0, 17, 7, false, by decide +kernel⟩,
    ⟨wQuar 1, 0, 17, 0, true, by decide +kernel⟩,
    ⟨wGo [], 7, 17, by decide +kernel⟩,
    ⟨wGo [], 7, 17, by decide +kernel⟩,
    ⟨wGo [], 7, 17, by decide +kernel⟩⟩

def wG1 : GraphRec := wGraph 1 0 [wTask 1]
/-- A step graph of one barrier task, as a serving or a job graph. -/
def wBarrierG (k : Nat) : GraphRec := wGraph 2 k [{ wTask 8 with syncKind := 1 }]
def wBarrierRun : TaskRun := { wRunT 63 with graph := 2, relAt := 0, started := 0 }
def wStepGo : State := wGo [wG1, wBarrierG 1]
/-- Its step in progress, the barrier waiting. -/
def wStepRun : State := ((wStepGo.setRun wBarrierRun).setInst 2 0 { released := true }).fset Reg.ADM_WAIT_barrier_us 1000
def wWaiting (exec : Nat) : TaskRun := { wRunT exec with st := .waiting, due := false, relAt := 0, started := 0 }
/-- A task of graph 1 waiting, its instance released. -/
def wHold (deps : List Dep) (exec : Nat) (en : Nat := 0) : State :=
  let g := { wGraph 1 0 [{ wTask 1 with depCount := deps.length }, wTask 1] with deps := deps, nDeps := deps.length }
  (((wGo [g]).setRun (wWaiting exec)).setInst 1 0 { released := true }).fset (Reg.WDG_WIN_en 0 0) en
def wMode (m : Nat) : State := { wGo [wG1] with staged := [(Reg.PLN_MODE_REQ, { mask := 0x1F, val := m })] }
def wWatched (c : Nat) : State := wOn ((wGo [wG1]).setRun { wRunT 0 with close := some c, window := 63 }) [(Reg.WDG_STATUS_armed 0, 1)]
def wKv : State := { wStepGo with kv := { wStepGo.kv with steps := [{ graph := 2, inst := 0, part := 0, epoch := 5, slots := [], moves := [] }] } }
def wRec : KvRec := { part := 63, layout := 0, walkSafe := true, highPct := 90, prefetch := 0, maxSeqs := 1, pageBlocks := 1, stepTokens := 1, hkPages := 0, reqMax := 1, reqBlk := 0, reqLg := 4, compBlk := 0, compLg := 4, buckets := [], dies := [] }
def wServe : State := { wGo [] with plan := { (wGo []).plan with plans := [{ wPlan [] with serving := [wRec] }] } }

theorem wit_BoundariesFall :
    -- 1.1
    (∃ (s : State), s.pow.phase = .running ∧ s.plan.plans ≠ [] ∧ s.periodDue ≤ s.now ∧ s.fget Reg.PWR_STBY_enter = 0) ∧
    -- 1.1 (b)
    (∃ (s : State), s.pow.phase = .running ∧ s.plan.plans ≠ [] ∧ s.periodDue ≤ s.now ∧ s.fget Reg.PWR_STBY_enter = 0) ∧
    -- 1.2
    (∃ (s : State), s.pow.phase = .running ∧ s.plan.plans ≠ [] ∧ s.periodDue ≤ s.now ∧ s.fget Reg.PWR_STBY_enter = 1) ∧
    -- 1.3
    (∃ (s : State), s.pow.phase = .running ∧ s.plan.plans ≠ [] ∧ s.now < s.periodDue) ∧
    -- 2.1
    (∃ (s : State), s.pow.phase = .running ∧ s.fus.started = true ∧ s.instantDue ≤ s.now ∧ s.instantDue < s.periodDue) ∧
    -- 2.2
    (∃ (s : State), s.pow.phase = .running ∧ s.fus.started = true ∧ (s.now < s.instantDue ∨ s.periodDue ≤ s.instantDue)) :=
  ⟨⟨{ wGo [wG1] with plan := { (wGo [wG1]).plan with start := 990000000 } }, by decide +kernel⟩,
    ⟨{ wGo [wG1] with plan := { (wGo [wG1]).plan with start := 1000000000, cur := none } }, by decide +kernel⟩,
    ⟨{ (wGo [wG1]).fset Reg.PWR_STBY_enter 1 with plan := { (wGo [wG1]).plan with start := 990000000 } }, by decide +kernel⟩,
    ⟨{ wGo [wG1] with plan := { (wGo [wG1]).plan with start := 990000001 } }, by decide +kernel⟩,
    ⟨{ (wGo [wG1]).fset Reg.FUS_CTRL_instant_us 10000 with fus := { started := true, start := 990000000 } }, by decide +kernel⟩,
    ⟨{ (wGo [wG1]).fset Reg.FUS_CTRL_instant_us 10000 with fus := { started := true, start := 990000001 } }, by decide +kernel⟩⟩

theorem wit_ModeRequests :
    -- 1
    (∃ (core : Option Nat) (ohp : Option Nat) (smp : Option Nat) (m : Nat), (smp = some m ∨ (smp = none ∧ ohp = some m) ∨ (smp = none ∧ ohp = none ∧ core =
    some m))) ∧
    -- 1 (b)
    (∃ (core : Option Nat) (ohp : Option Nat) (smp : Option Nat) (m : Nat), (smp = some m ∨ (smp = none ∧ ohp = some m) ∨ (smp = none ∧ ohp = none ∧ core =
    some m))) ∧
    -- 1 (c)
    (∃ (core : Option Nat) (ohp : Option Nat) (smp : Option Nat) (m : Nat), (smp = some m ∨ (smp = none ∧ ohp = some m) ∨ (smp = none ∧ ohp = none ∧ core =
    some m))) ∧
    -- 2.1
    (∃ (s : State) (r : PlanRec) (m : Nat), s.planRec = some r ∧ bits (s.stagedValue Reg.PLN_MODE_REQ) 4 0 = m ∧ m = s.mode) ∧
    -- 2.2
    (∃ (s : State) (r : PlanRec) (m : Nat), s.planRec = some r ∧ bits (s.stagedValue Reg.PLN_MODE_REQ) 4 0 = m ∧ m ≠ s.mode ∧ bit (nth 0 r.plan.trans
    s.mode) m = false) ∧
    -- 2.3
    (∃ (s : State) (r : PlanRec) (m : Nat), s.planRec = some r ∧ bits (s.stagedValue Reg.PLN_MODE_REQ) 4 0 = m ∧ m ≠ s.mode ∧ bit (nth 0 r.plan.trans
    s.mode) m = true ∧ s.runs = [] ∧ s.insts = [] ∧ (∀ x ∈ r.plan.parts, nth 0xFF x.models m = nth 0xFF x.models s.mode)) :=
  ⟨⟨some 2, some 3, some 33, 33, by decide +kernel⟩,
    ⟨some 2, some 0, none, 0, by decide +kernel⟩,
    ⟨some 31, none, none, 31, by decide +kernel⟩,
    ⟨wMode 0, wPlan [wG1], 0, by decide +kernel⟩,
    ⟨wMode 31, wPlan [wG1], 31, by decide +kernel⟩,
    ⟨wMode 1, wPlan [wG1], 1, by decide +kernel⟩⟩

theorem wit_InstancesAndTasks :
    -- 1.1
    (∃ (s : State) (g : GraphRec) (j : Nat), s.graph? g.id = some g ∧ g.gkind = 0 ∧ s.mayRelease g j = true) ∧
    -- 1.2
    (∃ (s : State) (g : GraphRec) (j : Nat), s.graph? g.id = some g ∧ g.gkind = 0 ∧ s.mayRelease g j = false) ∧
    -- 2.1
    (∃ (s : State) (r : TaskRun), s.run? r.key = some r ∧ r.st = .running ∧ s.isBarrier r = false ∧ r.until_ ≤ s.now ∧ r.started + r.minRun ≤ s.dieNow
    r.die ∧ s.dieNow r.die ≤ s.baseOf r + r.bound ∧ r.die < 8 ∧ r.graph ∉ s.plan.preemptPend ∧ 32 ≤ r.exec) ∧
    -- 2.1 (b)
    (∃ (s : State) (r : TaskRun), s.run? r.key = some r ∧ r.st = .running ∧ s.isBarrier r = false ∧ r.until_ ≤ s.now ∧ r.started + r.minRun ≤ s.dieNow
    r.die ∧ s.dieNow r.die ≤ s.baseOf r + r.bound ∧ r.die < 8 ∧ r.graph ∉ s.plan.preemptPend ∧ 32 ≤ r.exec) ∧
    -- 2.2
    (∃ (s : State) (r : TaskRun), s.run? r.key = some r ∧ r.st = .running ∧ s.isBarrier r = false ∧ r.until_ ≤ s.now ∧ r.started + r.minRun ≤ s.dieNow
    r.die ∧ s.dieNow r.die ≤ s.baseOf r + r.bound ∧ r.die < 8 ∧ r.graph ∉ s.plan.preemptPend ∧ r.exec < 16 ∧ r.phys < 18 ∧ s.engState r.die r.phys = 2
    ∧ s.moveRun? r.die r.phys = none ∧ r.gateAfter = false ∧ ((s.setRun ({ r with st := .ended, ended := s.dieNow r.die, close := none })).unitRun?
    r.die r.phys = none)) ∧
    -- 3.1
    (∃ (s : State) (r : TaskRun), s.run? r.key = some r ∧ r.st = .running ∧ s.isBarrier r = false ∧ r.die < 8 ∧ s.now < r.until_) ∧
    -- 3.2
    (∃ (s : State) (r : TaskRun), s.run? r.key = some r ∧ r.st = .running ∧ s.isBarrier r = false ∧ r.die < 8 ∧ r.until_ ≤ s.now ∧ s.baseOf r + r.bound <
    s.dieNow r.die) ∧
    -- 3.3
    (∃ (s : State) (r : TaskRun), s.run? r.key = some r ∧ r.st = .running ∧ s.isBarrier r = false ∧ r.die < 8 ∧ r.until_ ≤ s.now ∧ r.graph ∈
    s.plan.preemptPend ∧ (∀ x ∈ s.allRuns, x.graph = r.graph → x.inst = r.inst → x.key ≠ r.key → x.done = true)) ∧
    -- 4.1
    (∃ (s : State) (r : TaskRun) (c : Nat), s.run? r.key = some r ∧ r.live = true ∧ r.close = some c ∧ c ≤ s.now ∧ r.die < 8 ∧ r.window < 64 ∧ s.fget
    (Reg.WDG_WIN_react r.die r.window) = 1) ∧
    -- 4.2
    (∃ (s : State) (r : TaskRun) (c : Nat), s.run? r.key = some r ∧ r.live = true ∧ r.close = some c ∧ c ≤ s.now ∧ r.die < 8 ∧ r.window < 64 ∧ s.fget
    (Reg.WDG_WIN_react r.die r.window) = 0) ∧
    -- 5.1
    (∃ (s : State) (g : Nat) (j : Nat), s.mayRetire g j = true ∧ (s.inst g j).step = 0 ∧ s.fget Reg.OHP_CTRL_en = 0) ∧
    -- 5.2
    (∃ (s : State) (g : Nat) (j : Nat), s.mayRetire g j = false) :=
  ⟨⟨wGo [wG1], wG1, 0, by decide +kernel⟩,
    ⟨wGo [wG1], wG1, 1, by decide +kernel⟩,
    ⟨{ (wGo [wG1]).setRun { wRunT 32 with close := some 2000000000, minRun := 1000000, bound := 1000000 } with part := partReset }.fset
    (Reg.PLN_INFLIGHT_now 0) 1, { wRunT 32 with close := some 2000000000, minRun := 1000000, bound := 1000000 }, by decide +kernel⟩,
    ⟨(wGo [wG1]).setRun (wRunT 63), wRunT 63, by decide +kernel⟩,
    ⟨((wGo [wG1]).setRun { wRunT 15 with phys := 17 }).fset (Reg.ENG_STATUS_state 0 17) 2, { wRunT 15 with phys := 17 }, by decide +kernel⟩,
    ⟨(wGo [wG1]).setRun { wRunT 32 with until_ := 1000000001 }, { wRunT 32 with until_ := 1000000001 }, by decide +kernel⟩,
    ⟨(wGo [wG1]).setRun { wRunT 32 with bound := 999999 }, { wRunT 32 with bound := 999999 }, by decide +kernel⟩,
    ⟨{ (wGo [wG1]).setRun (wRunT 32) with plan := { (wGo [wG1]).plan with preemptPend := [1] } }, wRunT 32, by decide +kernel⟩,
    ⟨(wWatched 1000000000).fset (Reg.WDG_WIN_react 0 63) 1, { wRunT 0 with close := some 1000000000, window := 63 }, 1000000000, by decide +kernel⟩,
    ⟨wWatched 1000000000, { wRunT 0 with close := some 1000000000, window := 63 }, 1000000000, by decide +kernel⟩,
    ⟨(((wGo [wG1]).setRun { wRunT 0 with st := .aborted }).setInst 1 0 { released := true }).fset Reg.OHP_CTRL_en 0, 1, 0, by decide +kernel⟩,
    ⟨(wGo [wG1]).setRun (wRunT 0), 1, 0, by decide +kernel⟩⟩

theorem wit_TasksStart :
    -- 1.1
    (∃ (s : State) (s1 : State) (r : TaskRun) (r1 : TaskRun), s.run? r.key = some r ∧ r.st = .waiting ∧ r.due = false ∧ s.releases = true ∧ (s.inst r.graph
    r.inst).released = true ∧ s.baseOf r + r.release ≤ s.dieNow r.die ∧ r.die < 8 ∧ r.window < 64 ∧ s.isBarrier r = false ∧ s.walkHolds r = false ∧
    s.engUsable r = true ∧ s.engReady r = true ∧ (r.exec = 32 → bit s.saf.warpOff r.die = false) ∧ (∀ k ∈ s.runDeps r, (s.depNow k).2 = false) ∧
    r.withheld = false ∧ (s.armWatch { r with due := true, relAt := s.baseOf r + r.release } = (s1, r1)) ∧ s.execFree r = true ∧ (∀ k ∈ s.runDeps r,
    (s.depNow k).1 = false)) ∧
    -- 1.1 (b)
    (∃ (s : State) (s1 : State) (r : TaskRun) (r1 : TaskRun), s.run? r.key = some r ∧ r.st = .waiting ∧ r.due = false ∧ s.releases = true ∧ (s.inst r.graph
    r.inst).released = true ∧ s.baseOf r + r.release ≤ s.dieNow r.die ∧ r.die < 8 ∧ r.window < 64 ∧ s.isBarrier r = false ∧ s.walkHolds r = false ∧
    s.engUsable r = true ∧ s.engReady r = true ∧ (r.exec = 32 → bit s.saf.warpOff r.die = false) ∧ (∀ k ∈ s.runDeps r, (s.depNow k).2 = false) ∧
    r.withheld = false ∧ (s.armWatch { r with due := true, relAt := s.baseOf r + r.release } = (s1, r1)) ∧ s.execFree r = true ∧ (∀ k ∈ s.runDeps r,
    (s.depNow k).1 = false)) ∧
    -- 1.2
    (∃ (s : State) (s1 : State) (r : TaskRun) (r1 : TaskRun), s.run? r.key = some r ∧ r.st = .waiting ∧ r.due = false ∧ s.releases = true ∧ (s.inst r.graph
    r.inst).released = true ∧ s.baseOf r + r.release ≤ s.dieNow r.die ∧ r.die < 8 ∧ r.window < 64 ∧ s.isBarrier r = false ∧ s.walkHolds r = false ∧
    s.engUsable r = true ∧ s.engReady r = true ∧ (r.exec = 32 → bit s.saf.warpOff r.die = false) ∧ (∀ k ∈ s.runDeps r, (s.depNow k).2 = false) ∧
    r.withheld = false ∧ (s.armWatch { r with due := true, relAt := s.baseOf r + r.release } = (s1, r1)) ∧ ((∃ k ∈ s.runDeps r, (s.depNow k).1 = true)
    ∨ s.execFree r = false)) ∧
    -- 4.1
    (∃ (s : State) (r : TaskRun), r.die < 8 ∧ r.window < 64 ∧ s.fget (Reg.WDG_WIN_en r.die r.window) = 0) ∧
    -- 4.2
    (∃ (s : State) (r : TaskRun), r.die < 8 ∧ r.window < 64 ∧ s.fget (Reg.WDG_WIN_en r.die r.window) = 1 ∧ r.close = none) ∧
    -- 5
    (∃ (s : State) (r : TaskRun), s.run? r.key = some r ∧ r.st = .waiting ∧ r.due = true ∧ s.releases = true ∧ r.die < 8 ∧ s.engUsable r = true ∧
    s.engReady r = true ∧ s.isBarrier r = false ∧ s.walkHolds r = false ∧ s.execFree r = true ∧ r.withheld = false ∧ (∀ k ∈ s.runDeps r, s.depNow k =
    (false, false))) ∧
    -- 5 (b)
    (∃ (s : State) (r : TaskRun), s.run? r.key = some r ∧ r.st = .waiting ∧ r.due = true ∧ s.releases = true ∧ r.die < 8 ∧ s.engUsable r = true ∧
    s.engReady r = true ∧ s.isBarrier r = false ∧ s.walkHolds r = false ∧ s.execFree r = true ∧ r.withheld = false ∧ (∀ k ∈ s.runDeps r, s.depNow k =
    (false, false))) ∧
    -- 2.1
    (∃ (s : State) (r : TaskRun), s.run? r.key = some r ∧ r.st = .waiting ∧ r.due = false ∧ (s.dieNow r.die < s.baseOf r + r.release ∨ s.releases = false)) ∧
    -- 2.2
    (∃ (s : State) (r : TaskRun), s.run? r.key = some r ∧ r.st = .waiting ∧ r.due = false ∧ s.releases = true ∧ (s.inst r.graph r.inst).released = true ∧
    s.baseOf r + r.release ≤ s.dieNow r.die ∧ r.die < 8 ∧ r.window < 64 ∧ s.engUsable r = false) ∧
    -- 3
    (∃ (s : State) (r : TaskRun), s.run? r.key = some r ∧ r.st ≠ .waiting) :=
  ⟨⟨wHold [] 0, wHold [] 0, wWaiting 0, { wWaiting 0 with due := true, relAt := 999000000 }, by decide +kernel⟩,
    ⟨(wHold [] 32).fset (Reg.WDG_WIN_en 0 0) 1, ((wHold [] 32).fset (Reg.WDG_WIN_en 0 0) 1).fset (Reg.WDG_STATUS_armed 0) 1, wWaiting 32,
    { wWaiting 32 with due := true, relAt := 999000000, close := some (min (999000000 + 5000000 + (wHold [] 32).fget (Reg.WDG_WIN_grace_us 0 0) * 1000) (999000000 + 10000000)), minRun := (1000 - 23) * min 100 ((wHold [] 32).fget (Reg.WDG_WIN_early_pct 0 0)) / 230 },
    by decide +kernel⟩,
    ⟨(wHold [{ task := 1, graph := 1, ext := false, inst := 0 }] 0).setRun { wWaiting 1 with task := 1 },
    (wHold [{ task := 1, graph := 1, ext := false, inst := 0 }] 0).setRun { wWaiting 1 with task := 1 }, wWaiting 0,
    { wWaiting 0 with due := true, relAt := 999000000 }, by decide +kernel⟩,
    ⟨(wGo []).fset (Reg.WDG_WIN_en 0 63) 0, { wRunT 0 with window := 63 }, by decide +kernel⟩,
    ⟨(wGo []).fset (Reg.WDG_WIN_en 0 63) 1, { wRunT 0 with window := 63 }, by decide +kernel⟩,
    ⟨(wHold [] 0).setRun { wWaiting 0 with due := true }, { wWaiting 0 with due := true }, by decide +kernel⟩,
    ⟨(wHold [] 32).setRun { wWaiting 32 with due := true }, { wWaiting 32 with due := true }, by decide +kernel⟩,
    ⟨(wHold [] 0).setRun { wWaiting 0 with release := 1000001 }, { wWaiting 0 with release := 1000001 }, by decide +kernel⟩,
    ⟨(wHold [] 0).fset (Reg.ENG_STATUS_state 0 0) 4, wWaiting 0, by decide +kernel⟩,
    ⟨wBusy 1 0, wRunT 0, by decide +kernel⟩⟩

theorem wit_BarriersAndRequests :
    -- 1
    (∃ (s : State) (r : TaskRun), s.run? r.key = some r ∧ r.live = true ∧ r.due = true ∧ s.isBarrier r = true ∧ s.stepGraph r.graph = true ∧ r.relAt + max
    1 (s.fget Reg.ADM_WAIT_barrier_us) * 1000 ≤ s.now) ∧
    -- 2.1
    (∃ (s : State) (g : Nat), g < 256 ∧ s.stepGraph g = true ∧ g ∉ s.plan.preempted ∧ s.stepInProgress g = false ∧ g ∉ s.plan.resumePend) ∧
    -- 2.2
    (∃ (s : State) (g : Nat), g < 256 ∧ s.stepGraph g = true ∧ g ∉ s.plan.preempted ∧ s.stepInProgress g = true) ∧
    -- 3
    (∃ (s : State) (g : Nat) (c : Instr), g < 256 ∧ s.stepGraph g = false ∧ g ∉ s.plan.preempted ∧ g ∉ s.plan.preemptPend ∧ g ∉ s.plan.resumePend ∧ c ∈
    [Instr.preemptRequest g, Instr.resumeRequest g]) ∧
    -- 3 (b)
    (∃ (s : State) (g : Nat) (c : Instr), g < 256 ∧ s.stepGraph g = false ∧ g ∉ s.plan.preempted ∧ g ∉ s.plan.preemptPend ∧ g ∉ s.plan.resumePend ∧ c ∈
    [Instr.preemptRequest g, Instr.resumeRequest g]) ∧
    -- 4
    (∃ (s : State) (g : Nat), g < 256 ∧ s.stepGraph g = true ∧ g ∈ s.plan.preempted) ∧
    -- 5
    (∃ (s : State) (x : KvStep), (s.kv.steps.find? fun y => y.graph == x.graph && y.inst == x.inst && !y.walked) = some x ∧ x.bad = []) ∧
    -- 6.1
    (∃ (p : Nat) (v : Nat), p < 64 ∧ v < 65536) ∧
    -- 6.1 (b)
    (∃ (p : Nat) (v : Nat), p < 64 ∧ v < 65536) ∧
    -- 6.2
    (∃ (s : State) (p : Nat) (v : Nat) (r : KvRec), p < 64 ∧ v < 65536 ∧ s.kvRec p = some r) ∧
    -- 6.2 (b)
    (∃ (s : State) (p : Nat) (v : Nat) (r : KvRec), p < 64 ∧ v < 65536 ∧ s.kvRec p = some r) :=
  ⟨⟨wStepRun, wBarrierRun, by decide +kernel⟩,
    ⟨wStepGo, 2, by decide +kernel⟩,
    ⟨wStepRun, 2, by decide +kernel⟩,
    ⟨wStepGo, 1, Instr.resumeRequest 1, by decide +kernel⟩,
    ⟨wStepGo, 255, Instr.preemptRequest 255, by decide +kernel⟩,
    ⟨{ wStepGo with plan := { wStepGo.plan with preempted := [2] } }, 2, by decide +kernel⟩,
    ⟨wKv, { graph := 2, inst := 0, part := 0, epoch := 5, slots := [], moves := [] }, by decide +kernel⟩,
    ⟨63, 5, by decide +kernel⟩,
    ⟨63, 65535, by decide +kernel⟩,
    ⟨wServe, 63, 16, wRec, by decide +kernel⟩,
    ⟨wServe, 63, 17, wRec, by decide +kernel⟩⟩

theorem wIntColumn (as_ : List Int) (h : ∀ a ∈ as_, a = 0) (ws : List (Option Int)) : intColumn as_ ws = 0 := by
  have key : ∀ (as_ : List Int) (_ : ∀ a ∈ as_, a = 0) (ws : List (Option Int)) (c : Int),
      (as_.zip ws).foldl (fun c x => match x.2 with | some w => c + x.1 * w | none => c) c = c := by
    intro as_
    induction as_ with
    | nil => intros; rfl
    | cons a as_ ih =>
      intro h ws c
      cases ws with
      | nil => rfl
      | cons w ws =>
        have ha := h a (List.mem_cons_self ..)
        subst ha
        simp only [List.zip_cons_cons, List.foldl_cons]
        rw [ih (fun a ha => h a (List.mem_cons_of_mem _ ha))]
        cases w <;> simp
  exact (congrArg (unsx 32) (key as_ h ws 0)).trans rfl

theorem wNth (l : List Nat) (h : ∀ a ∈ l, a = 0) (j : Nat) : nth 0 l j = 0 := by
  unfold nth
  cases hj : l[j]? with
  | none => rfl
  | some a => exact h a (List.mem_of_getElem? hj)

theorem wRow (b : Block) (p : Pass) (row : StreamRow) (nan : Nat → Nat) (hi : p.int = true) (hz : ∀ a ∈ row.elems, a = 0) :
    (∀ a ∈ (b.rowResult p row nan).1, a = 0) ∧ (b.rowResult p row nan).2 = 0 := by
  have h : ∀ a ∈ row.elems.map (sx (elemBits p.fa)), a = 0 := by
    intro a ha
    obtain ⟨x, hx, rfl⟩ := List.mem_map.mp ha
    rw [hz x hx]
    simp [sx]
  unfold Block.rowResult
  simp only [hi, if_true]
  exact ⟨fun a ha => by obtain ⟨x, -, rfl⟩ := List.mem_map.mp ha; exact wIntColumn _ h _, wIntColumn _ h _⟩

/-- A pass of one row of zeros: what its check compares. -/
theorem wPass (p : Pass) (x : PassIn) (eps tau seed pos n : Nat) (hi : p.int = true) (hr : p.rows = 1)
    (hz : ∀ a ∈ (nth ⟨[], []⟩ x.rows 0).elems, a = 0) :
    (p.compute x eps tau seed pos n []).map (·.ok) = [p.rowOk eps tau
      (if p.mode == 1 || p.mode == 3 then (List.range p.n).map fun j => (u x.acc ((0 * p.n + j) * 4) 4) % 2 ^ 32 else (List.range p.n).map fun _ => 0)
      (if p.mode == 1 || p.mode == 3 then (u x.acc (roundUp (1 * p.n * 4) 256 + 0 * 4) 4) % 2 ^ 32 else 0)] := by
  unfold Pass.compute
  rw [hr, show List.range 1 = [0] from rfl]
  simp only [List.map_cons, List.map_nil, List.foldl_nil, Pass.accumulate, hi, if_true]
  have h := wRow x.block p (nth ⟨[], []⟩ x.rows 0) (fun j => Config.nanCode n (0 * 256 + j) 0xD) hi hz
  have h1 := wNth _ h.1
  rw [h.2]
  simp only [h1, Nat.add_zero]
  have h2 : ∀ j, nth 0 (List.map (fun _ : Nat => 0) (List.range p.n)) j = 0 :=
    wNth _ (fun a ha => by obtain ⟨_, _, rfl⟩ := List.mem_map.mp ha; rfl)
  simp only [h2, Nat.add_zero]

theorem wZeros (s : State) (n e off k : Nat) (h1 : s.hazy = [])
    (h2 : s.store.all (fun p => decide (p.1 < stKey n e off) || decide (stKey n e off + k ≤ p.1)) = true) : s.stGet n e off k = List.replicate k 0 := by
  have key : ∀ (m : SMap Byte) (a : Nat), (∀ p ∈ m, p.1 ≠ a) → smGet 0 m a = 0 := by
    intro m a
    induction m with
    | nil => intro _; rfl
    | cons p m ih =>
      intro h
      have hp := h p (List.mem_cons_self ..)
      rw [smGet, if_neg (fun hc => hp hc.symm)]
      exact ih fun q hq => h q (List.mem_cons_of_mem _ hq)
  induction k generalizing off with
  | zero => rfl
  | succ k ih =>
    rw [State.stGet, List.replicate_succ, ih (off + 1)]
    · congr 1
      rw [State.stByte, State.hazyAt, h1]
      apply key
      intro p hp hc
      have := List.all_eq_true.mp h2 p hp
      rcases (Bool.or_eq_true _ _).mp this with h | h <;> have := of_decide_eq_true h <;> omega
    · apply List.all_eq_true.mpr
      intro p hp
      have := List.all_eq_true.mp h2 p hp
      refine (Bool.or_eq_true _ _).mpr ?_
      have h3 : stKey n e (off + 1) = stKey n e off + 1 := by unfold stKey; omega
      rw [h3]
      rcases (Bool.or_eq_true _ _).mp this with h | h
      · have := of_decide_eq_true h
        exact .inl (decide_eq_true (by omega))
      · have := of_decide_eq_true h
        exact .inr (decide_eq_true (by omega))

theorem wElems (s : State) (r : TaskRun) (p : Pass) (hr : p.rows = 1) (hf : p.fa = 0) (hk : p.k = 128)
    (hz : s.stGet r.die r.phys p.stream 128 = List.replicate 128 0) :
    ∀ a ∈ (nth ⟨[], []⟩ (s.passIn r p none).rows 0).elems, a = 0 := by
  have h0 : (nth ⟨[], []⟩ (s.passIn r p none).rows 0).elems = (List.range 128).map fun k => elemAt 0 (List.replicate 128 0) k := by
    unfold State.passIn
    simp only [hr, show List.range 1 = [0] from rfl, List.map_cons, List.map_nil, nth, List.getElem?_cons_zero, Option.getD_some, Pass.rowAt, hf, hk]
    rw [show p.stream + elemBytes 0 (0 * 128) = p.stream from rfl, show elemBytes 0 128 = 128 from rfl, hz]
  rw [h0]
  decide +kernel

theorem wRows {s : State} {r : TaskRun} {p : Pass} {eps tau seed pos n : Nat} {v : Bool} (hi : p.int = true) (hr : p.rows = 1) (hf : p.fa = 0)
    (hk : p.k = 128) (h1 : s.hazy = [])
    (h2 : s.store.all (fun q => decide (q.1 < stKey r.die r.phys p.stream) || decide (stKey r.die r.phys p.stream + 128 ≤ q.1)) = true)
    (h : p.rowOk eps tau
      (if p.mode == 1 || p.mode == 3 then (List.range p.n).map fun j => (u (s.passIn r p none).acc ((0 * p.n + j) * 4) 4) % 2 ^ 32 else (List.range p.n).map fun _ => 0)
      (if p.mode == 1 || p.mode == 3 then (u (s.passIn r p none).acc (roundUp (1 * p.n * 4) 256 + 0 * 4) 4) % 2 ^ 32 else 0) = v) :
    (p.compute (s.passIn r p none) eps tau seed pos n []).map (·.ok) = [v] := by
  rw [wPass p _ eps tau seed pos n hi hr (wElems s r p hr hf hk (wZeros s _ _ _ _ h1 h2)), h]

theorem wAll {l : List OutRow} (h : l.map (·.ok) = [true]) : ∀ x ∈ l, x.ok = true := by
  intro x hx
  have := List.mem_map_of_mem (f := (·.ok)) hx
  rw [h] at this
  simpa using this

theorem wBadEntry {l : List OutRow} (h : l.map (·.ok) = [false]) : ∃ x ∈ l, x.ok = false := by
  have : false ∈ l.map (·.ok) := by rw [h]; simp
  obtain ⟨x, hx, e⟩ := List.mem_map.mp this
  exact ⟨x, hx, e⟩

/-- An INT8 pass of one row of zeros in an accumulation mode; its tiles at blocks 16, 300, 400 and 500. -/
def wPassW (mode last : Nat) : List Nat := [16 + 300 * 2 ^ 16 + 400 * 2 ^ 32 + 500 * 2 ^ 48, 1 + mode * 2 ^ 28 + (if mode < 2 then 0 else 12 * 2 ^ 24) + last * 2 ^ 35]
def wPassS (mode : Nat) : State := (wEntry 1 (wPassW mode 0)).fset Reg.CHK_CTRL_audit_en 0
/-- Its accumulator tile holds 5 in the first data column and 0 in the checksum. -/
def wPassBad : State := (wPassS 1).stPut 0 0 (400 * 256) [5]
def wVec (op fmt count : Nat) : List Nat := [op + fmt * 2 ^ 8 + 16 * 2 ^ 16 + 32 * 2 ^ 32 + 48 * 2 ^ 48, 64 * 2 ^ 32 + count * 2 ^ 48]
def wVecS (op fmt count : Nat) : State := (((wEntry 2 (wVec op fmt count)).stPut 0 0 4096 [1, 2, 3, 0x40, 0, 0, 0x80, 0x3F, 255, 255, 255, 255]).stPut 0 0 8192
  [255, 0, 0, 0x41, 0, 0, 0x80, 0xBF, 7, 0, 0, 0])
def wCvt : List Nat := [0x20 + 0xD * 2 ^ 8 + 16 * 2 ^ 16, 4 + 64 * 2 ^ 32 + 1 * 2 ^ 48]
def wCvtS : State := (wEntry 2 wCvt).stPut 0 0 4096 [1, 2, 3, 0x40, 0, 0, 0x80, 0x3F, 255, 255, 255, 0x3F]
/-- Index entries: operation, sub-operation, count, rows, width, source and destination blocks, segments less 1. -/
def wIdxW (op sub fmt flags count rows src w dst segM1 : Nat) : List Nat :=
  [op + fmt * 2 ^ 8 + sub * 2 ^ 12 + flags + 16 * 2 ^ 16 + 32 * 2 ^ 32 * (if op = 3 ∨ op = 5 then 1 else 0), count + rows * 2 ^ 32,
   src * 256 + w * 2 ^ 48, dst * 256 + segM1 * 2 ^ 48]
/-- The index list at block 16 is 1, 0, 1, 9. -/
def wIdxS (ws : List Nat) : State := (((wEntry 3 ws).stPut 0 0 4096 [1, 0, 0, 0, 0, 0, 0, 0, 1, 0, 0, 0, 9, 0, 0, 0]).stPut 0 0 8192
  [0, 0, 0, 0, 2, 0, 0, 0, 4, 0, 0, 0]).stPut 0 0 (64 * 256) [1, 2, 3, 0x40, 5, 6, 7, 0x3F]
def wGather : List Nat := wIdxW 1 0 0 0 3 2 (64) 2 128 0
def wGatherBad : List Nat := wIdxW 1 0 0 0 4 2 64 2 128 0
def wHist : List Nat := wIdxW 4 0 0 (2 ^ 31) 4 2 0 0 128 0
def wSegred : List Nat := wIdxW 3 0 0xD (2 ^ 15) 4 2 64 2 128 1
def wSort (op n aux : Nat) (pay : Nat) : List Nat := [op + pay * 2 ^ 11 + 16 * 2 ^ 16 + pay * 32 * 2 ^ 32 + 48 * 2 ^ 48, n + aux * 2 ^ 32, (if op = 2 then 0 else 64) + pay * 80 * 2 ^ 16, 0]
def wSortS (ws : List Nat) : State := ((wEntry 4 ws).stPut 0 0 4096 ([9, 200, 7, 300].flatMap (leBytes 8))).stPut 0 0 8192 ([1, 2, 3, 4].flatMap (leBytes 4))
def wSortX (ws : List Nat) : SortEntry := readSort ((wSortS ws).entryBytes (wRunT 0) (wTask 4))
def wSeekW (op n capK gx : Nat) : List Nat :=
  [op + (if op = 1 then 0 else 64 * 2 ^ 16 + 80 * 2 ^ 32 + 96 * 2 ^ 48), n + capK * 2 ^ 32, 16 + 33 * 2 ^ 16 + 48 * 2 ^ 32 + 56 * 2 ^ 48,
   gx + 2 ^ 11 + 2 ^ 22 + (if op = 1 then 0 else 0x3F800000 / 2 * 2 ^ 33)]
/-- Three points on the x axis at 0, 1 and 0.5, cells of edge 1; its index header and cells as BIN leaves them for two cells. -/
def wSeekS (ws : List Nat) : State :=
  let f (xs : List Nat) : List Byte := xs.flatMap (leBytes 4)
  ((((((wEntry 5 ws).stPut 0 0 (56 * 256) (f [0, 0, 0, 0x3F800000, 0x3F800000, 0x3F800000])).stPut 0 0 4096 (f [0, 0, 0, 0, 0x3F800000, 0, 0, 0, 0x3F000000, 0, 0, 0])).stPut
    0 0 (32 * 256) (f [2, 2, 3, 0])).stPut 0 0 (33 * 256) (f [0, 2, 3])).stPut 0 0 (48 * 256) (f [0, 2, 1])).stPut 0 0 (64 * 256) (f [0, 0, 0, 0])
def wSeekX (ws : List Nat) : SeekEntry := readSeek ((wSeekS ws).entryBytes (wRunT 0) (wTask 5))
def wSeekG (ws : List Nat) : Grid := { o := vec3 ((wSeekS ws).stGet 0 0 (wSeekX ws).grid 32) 0, v := vec3 ((wSeekS ws).stGet 0 0 (wSeekX ws).grid 32) 12 }
def wSeekH (ws : List Nat) : SeekHead := readHead ((wSeekS ws).stGet 0 0 ((wSeekX ws).cell - 256) 256)
/-- A MOVE task of die 0 whose list, at block 8 of the shared store, holds one entry of 2 blocks of the bulk tier. -/
def wMoveS (ws : List Nat) : State :=
  let s := (wGo [wGraph 1 0 [wTask 7]]).setRun (wRunT 16)
  let s := s.fset (Reg.BWR_BUD_bulk 0 0) 10
  match s.locate (.shared 0 2048) with
  | some l => s.locWrite l 0 (ws.flatMap (leBytes 8))
  | none => s
def wMoveW (drain blocks : Nat) : List Nat := [0x004000000000, 16 + drain * 2 ^ 15 + blocks * 2 ^ 16]
def wMoveM (ws : List Nat) : MoveEntry := readMove (ws.flatMap (leBytes 8))
def wFus : FusSec := { planId := 7, nx := 32, ny := 32, c := 16, fmt := 0xD, cell := 0x3F800000, gx0 := 0, gy0 := 0, zmin := 0, zmax := 0x3F800000, owner := [0], slab := [0] }
/-- The warp unit of die 0 at an entry of its list at block 8 of the shared store; the current calibration of sensor 0 has model 1. -/
def wWarpS (ws : List Nat) (model : Nat) : State :=
  let g := wGo [wGraph 1 0 [wTask 6]]
  let s := { g.setRun (wRunT 32) with plan := { g.plan with plans := [{ wPlan [wGraph 1 0 [wTask 6]] with fusion := some wFus }] } }
  let s1 := s.fset ⟨Reg.FUS_CAL_ACT 0 8, 7, 0⟩ model
  match s1.locate (.shared 0 2048) with
  | some l => s1.locWrite l 0 (ws.flatMap (leBytes 8))
  | none => s1
def wWarpW (op : Nat) : List Nat := [op + 0xD * 2 ^ 16 + 1 * 2 ^ 32 + 1 * 2 ^ 48, 0x004000000000, if op = 1 then 0x004000010000 else 0, 0x3F800000, 0x3F800000, 0, 1, 0]
/-- What an empty pass input gives. -/
def wNoIn : PassIn := { block := ⟨[], [], []⟩, rows := [], acc := [], qp := [] }

theorem wit_ArrayChecksums_1 :
    ∃ (p : Pass) (x : PassIn) (y : OutRow), p.int = true ∧ (p.mode = 0 ∨ p.mode = 2) ∧ y ∈ p.compute x 0 0 0 0 0 [] :=
  ⟨readPass ((wPassW 0 0).flatMap (leBytes 8)), wNoIn, _, by decide +kernel, by decide +kernel, List.mem_map.mpr ⟨0, by decide +kernel, rfl⟩⟩

theorem wit_ArrayChecksums_2 :
    ∃ (p : Pass) (x : PassIn) (m j f i : Nat) (y : OutRow), p.int = true ∧ (p.mode = 0 ∨ p.mode = 2) ∧ m < p.rows ∧ j < p.n ∧ f % 2 ^ 32 ≠ 0 ∧
      (p.compute x 0 0 0 0 0 [(m, j, f)])[i]? = some y :=
  ⟨readPass ((wPassW 2 0).flatMap (leBytes 8)), wNoIn, 0, 63, 0x80000000, 0, _, by decide +kernel, by decide +kernel, by decide +kernel, by decide +kernel,
    by decide +kernel, rfl⟩

theorem wit_ArrayPasses :
    -- 1
    (∃ (s : State) (n : Nat) (e : Nat) (mode : Nat) (o : UnitObs) (c : Instr) (r : TaskRun) (d : TaskDesc) (p : Pass), (c, mode) ∈ [(Instr.passStart n e o,
    0), (Instr.passAdd n e o, 1), (Instr.passSingle n e o, 2), (Instr.passAddNarrow n e o, 3)] ∧ s.AtEntry n e 1 r d ∧ CleanObs o ∧ d.chained = false
    ∧ readPass (s.entryBytes r d) = p ∧ p.mode = mode ∧ p.valid d r.pos false = false) ∧
    -- 2.1
    (∃ (s : State) (n : Nat) (e : Nat) (mode : Nat) (o : UnitObs) (c : Instr) (r : TaskRun) (d : TaskDesc) (p : Pass), (c, mode) ∈ [(Instr.passStart n e o,
    0), (Instr.passAdd n e o, 1), (Instr.passSingle n e o, 2), (Instr.passAddNarrow n e o, 3)] ∧ s.AtEntry n e 1 r d ∧ CleanObs o ∧ d.chained = false
    ∧ readPass (s.entryBytes r d) = p ∧ p.mode = mode ∧ p.valid d r.pos false = true ∧ s.Verified n e ∧ Block.metaOk ⟨[], [], s.stGet n e (p.stat +
    p.statElems + p.statScales) p.statMeta⟩ p = true ∧ (p.mode ≠ 2 → ∀ x ∈ p.reads none, overlap x p.accTile = false ∨ x = p.accTile) ∧ (2 ≤ p.mode →
    ∀ x ∈ p.reads none, overlap x p.outTile = false ∨ x = p.outTile) ∧ s.fget Reg.CHK_CTRL_audit_en = 0 ∧ (∀ x ∈ (p.compute (s.passIn r p none)
    (s.fget (Reg.ENG_CHK_TOL_eps_exp n)) (s.fget (Reg.ENG_CHK_TOL_tau_exp n)) d.seed r.pos s.free []), x.ok = true)) ∧
    -- 2.1 (b)
    (∃ (s : State) (n : Nat) (e : Nat) (mode : Nat) (o : UnitObs) (c : Instr) (r : TaskRun) (d : TaskDesc) (p : Pass), (c, mode) ∈ [(Instr.passStart n e o,
    0), (Instr.passAdd n e o, 1), (Instr.passSingle n e o, 2), (Instr.passAddNarrow n e o, 3)] ∧ s.AtEntry n e 1 r d ∧ CleanObs o ∧ d.chained = false
    ∧ readPass (s.entryBytes r d) = p ∧ p.mode = mode ∧ p.valid d r.pos false = true ∧ s.Verified n e ∧ Block.metaOk ⟨[], [], s.stGet n e (p.stat +
    p.statElems + p.statScales) p.statMeta⟩ p = true ∧ (p.mode ≠ 2 → ∀ x ∈ p.reads none, overlap x p.accTile = false ∨ x = p.accTile) ∧ (2 ≤ p.mode →
    ∀ x ∈ p.reads none, overlap x p.outTile = false ∨ x = p.outTile) ∧ s.fget Reg.CHK_CTRL_audit_en = 0 ∧ (∀ x ∈ (p.compute (s.passIn r p none)
    (s.fget (Reg.ENG_CHK_TOL_eps_exp n)) (s.fget (Reg.ENG_CHK_TOL_tau_exp n)) d.seed r.pos s.free []), x.ok = true)) ∧
    -- 2.2
    (∃ (s : State) (n : Nat) (e : Nat) (mode : Nat) (o : UnitObs) (c : Instr) (r : TaskRun) (d : TaskDesc) (p : Pass), (c, mode) ∈ [(Instr.passStart n e o,
    0), (Instr.passAdd n e o, 1), (Instr.passSingle n e o, 2), (Instr.passAddNarrow n e o, 3)] ∧ s.AtEntry n e 1 r d ∧ CleanObs o ∧ d.chained = false
    ∧ readPass (s.entryBytes r d) = p ∧ p.mode = mode ∧ p.valid d r.pos false = true ∧ s.Verified n e ∧ Block.metaOk ⟨[], [], s.stGet n e (p.stat +
    p.statElems + p.statScales) p.statMeta⟩ p = true ∧ (p.mode ≠ 2 → ∀ x ∈ p.reads none, overlap x p.accTile = false ∨ x = p.accTile) ∧ (2 ≤ p.mode →
    ∀ x ∈ p.reads none, overlap x p.outTile = false ∨ x = p.outTile) ∧ s.fget Reg.CHK_CTRL_audit_en = 0 ∧ (∃ x ∈ (p.compute (s.passIn r p none)
    (s.fget (Reg.ENG_CHK_TOL_eps_exp n)) (s.fget (Reg.ENG_CHK_TOL_tau_exp n)) d.seed r.pos s.free []), x.ok = false)) :=
  ⟨⟨wEntry 1 [0, 0], 0, 0, 0, {}, Instr.passStart 0 0 {}, wRunT 0, wTask 1, readPass (List.replicate 16 0), by decide +kernel, wAt (by decide +kernel),
    wClean, by decide +kernel⟩,
    ⟨wPassS 0, 0, 0, 0, {}, Instr.passStart 0 0 {}, wRunT 0, wTask 1, readPass ((wPassW 0 0).flatMap (leBytes 8)), by decide +kernel, wAt
    (by decide +kernel), wClean, by decide +kernel, by decide +kernel, by decide +kernel, by decide +kernel, wVer (by decide +kernel), by
    decide +kernel, by decide +kernel, by decide +kernel, by decide +kernel, wAll
    (wRows (by decide +kernel) (by decide +kernel) (by decide +kernel) (by decide +kernel) (by decide +kernel) (by decide +kernel) (by decide +kernel))⟩,
    ⟨wPassS 3, 0, 0, 3, {}, Instr.passAddNarrow 0 0 {}, wRunT 0, wTask 1, readPass ((wPassW 3 0).flatMap (leBytes 8)), by decide +kernel, wAt
    (by decide +kernel), wClean, by decide +kernel, by decide +kernel, by decide +kernel, by decide +kernel, wVer (by decide +kernel), by
    decide +kernel, by decide +kernel, by decide +kernel, by decide +kernel, wAll
    (wRows (by decide +kernel) (by decide +kernel) (by decide +kernel) (by decide +kernel) (by decide +kernel) (by decide +kernel) (by decide +kernel))⟩,
    ⟨wPassBad, 0, 0, 1, {}, Instr.passAdd 0 0 {}, wRunT 0, wTask 1, readPass ((wPassW 1 0).flatMap (leBytes 8)), by decide +kernel, wAt
    (by decide +kernel), wClean, by decide +kernel, by decide +kernel, by decide +kernel, by decide +kernel, wVer (by decide +kernel), by
    decide +kernel, by decide +kernel, by decide +kernel, by decide +kernel, wBadEntry
    (wRows (by decide +kernel) (by decide +kernel) (by decide +kernel) (by decide +kernel) (by decide +kernel) (by decide +kernel) (by decide +kernel))⟩⟩

theorem wit_VectorEntries :
    -- 1
    (∃ (s : State) (n : Nat) (e : Nat) (op : Nat) (o : UnitObs) (c : Instr) (r : TaskRun) (d : TaskDesc) (v : VecEntry), (c, op) ∈ [(Instr.vecAdd n e o,
    0x01), (Instr.vecSub n e o, 0x02), (Instr.vecMul n e o, 0x03), (Instr.vecFma n e o, 0x04), (Instr.vecMin n e o, 0x05), (Instr.vecMax n e o, 0x06),
    (Instr.vecAbs n e o, 0x07), (Instr.vecNeg n e o, 0x08), (Instr.vecLess n e o, 0x09), (Instr.vecSelect n e o, 0x0A), (Instr.vecExp2 n e o, 0x10),
    (Instr.vecLog2 n e o, 0x11), (Instr.vecRecip n e o, 0x12), (Instr.vecRsqrt n e o, 0x13), (Instr.cvt n e o, 0x20), (Instr.vecIadd n e o, 0x40),
    (Instr.vecImul n e o, 0x41), (Instr.vecShl n e o, 0x42), (Instr.vecShr n e o, 0x43), (Instr.vecAnd n e o, 0x44), (Instr.vecOr n e o, 0x45),
    (Instr.vecXor n e o, 0x46)] ∧ s.AtEntry n e 2 r d ∧ CleanObs o ∧ readVec (s.entryBytes r d) = v ∧ v.valid = false ∧ (vecListed v.op = true → v.op
    = op)) ∧
    -- 1 (b)
    (∃ (s : State) (n : Nat) (e : Nat) (op : Nat) (o : UnitObs) (c : Instr) (r : TaskRun) (d : TaskDesc) (v : VecEntry), (c, op) ∈ [(Instr.vecAdd n e o,
    0x01), (Instr.vecSub n e o, 0x02), (Instr.vecMul n e o, 0x03), (Instr.vecFma n e o, 0x04), (Instr.vecMin n e o, 0x05), (Instr.vecMax n e o, 0x06),
    (Instr.vecAbs n e o, 0x07), (Instr.vecNeg n e o, 0x08), (Instr.vecLess n e o, 0x09), (Instr.vecSelect n e o, 0x0A), (Instr.vecExp2 n e o, 0x10),
    (Instr.vecLog2 n e o, 0x11), (Instr.vecRecip n e o, 0x12), (Instr.vecRsqrt n e o, 0x13), (Instr.cvt n e o, 0x20), (Instr.vecIadd n e o, 0x40),
    (Instr.vecImul n e o, 0x41), (Instr.vecShl n e o, 0x42), (Instr.vecShr n e o, 0x43), (Instr.vecAnd n e o, 0x44), (Instr.vecOr n e o, 0x45),
    (Instr.vecXor n e o, 0x46)] ∧ s.AtEntry n e 2 r d ∧ CleanObs o ∧ readVec (s.entryBytes r d) = v ∧ v.valid = false ∧ (vecListed v.op = true → v.op
    = op)) ∧
    -- 2
    (∃ (s : State) (n : Nat) (e : Nat) (op : Nat) (o : UnitObs) (c : Instr) (r : TaskRun) (d : TaskDesc) (v : VecEntry), (c, op) ∈ [(Instr.vecAdd n e o,
    0x01), (Instr.vecSub n e o, 0x02), (Instr.vecMul n e o, 0x03), (Instr.vecFma n e o, 0x04), (Instr.vecMin n e o, 0x05), (Instr.vecMax n e o, 0x06),
    (Instr.vecAbs n e o, 0x07), (Instr.vecNeg n e o, 0x08), (Instr.vecLess n e o, 0x09), (Instr.vecSelect n e o, 0x0A), (Instr.vecExp2 n e o, 0x10),
    (Instr.vecLog2 n e o, 0x11), (Instr.vecRecip n e o, 0x12), (Instr.vecRsqrt n e o, 0x13), (Instr.cvt n e o, 0x20), (Instr.vecIadd n e o, 0x40),
    (Instr.vecImul n e o, 0x41), (Instr.vecShl n e o, 0x42), (Instr.vecShr n e o, 0x43), (Instr.vecAnd n e o, 0x44), (Instr.vecOr n e o, 0x45),
    (Instr.vecXor n e o, 0x46)] ∧ s.AtEntry n e 2 r d ∧ CleanObs o ∧ readVec (s.entryBytes r d) = v ∧ v.valid = true ∧ v.op = op ∧ s.Verified n e ∧ (∀
    x ∈ v.reads, overlap x v.dst = false ∨ x = v.dst)) ∧
    -- 2 (b)
    (∃ (s : State) (n : Nat) (e : Nat) (op : Nat) (o : UnitObs) (c : Instr) (r : TaskRun) (d : TaskDesc) (v : VecEntry), (c, op) ∈ [(Instr.vecAdd n e o,
    0x01), (Instr.vecSub n e o, 0x02), (Instr.vecMul n e o, 0x03), (Instr.vecFma n e o, 0x04), (Instr.vecMin n e o, 0x05), (Instr.vecMax n e o, 0x06),
    (Instr.vecAbs n e o, 0x07), (Instr.vecNeg n e o, 0x08), (Instr.vecLess n e o, 0x09), (Instr.vecSelect n e o, 0x0A), (Instr.vecExp2 n e o, 0x10),
    (Instr.vecLog2 n e o, 0x11), (Instr.vecRecip n e o, 0x12), (Instr.vecRsqrt n e o, 0x13), (Instr.cvt n e o, 0x20), (Instr.vecIadd n e o, 0x40),
    (Instr.vecImul n e o, 0x41), (Instr.vecShl n e o, 0x42), (Instr.vecShr n e o, 0x43), (Instr.vecAnd n e o, 0x44), (Instr.vecOr n e o, 0x45),
    (Instr.vecXor n e o, 0x46)] ∧ s.AtEntry n e 2 r d ∧ CleanObs o ∧ readVec (s.entryBytes r d) = v ∧ v.valid = true ∧ v.op = op ∧ s.Verified n e ∧ (∀
    x ∈ v.reads, overlap x v.dst = false ∨ x = v.dst)) ∧
    -- 2 (c)
    (∃ (s : State) (n : Nat) (e : Nat) (op : Nat) (o : UnitObs) (c : Instr) (r : TaskRun) (d : TaskDesc) (v : VecEntry), (c, op) ∈ [(Instr.vecAdd n e o,
    0x01), (Instr.vecSub n e o, 0x02), (Instr.vecMul n e o, 0x03), (Instr.vecFma n e o, 0x04), (Instr.vecMin n e o, 0x05), (Instr.vecMax n e o, 0x06),
    (Instr.vecAbs n e o, 0x07), (Instr.vecNeg n e o, 0x08), (Instr.vecLess n e o, 0x09), (Instr.vecSelect n e o, 0x0A), (Instr.vecExp2 n e o, 0x10),
    (Instr.vecLog2 n e o, 0x11), (Instr.vecRecip n e o, 0x12), (Instr.vecRsqrt n e o, 0x13), (Instr.cvt n e o, 0x20), (Instr.vecIadd n e o, 0x40),
    (Instr.vecImul n e o, 0x41), (Instr.vecShl n e o, 0x42), (Instr.vecShr n e o, 0x43), (Instr.vecAnd n e o, 0x44), (Instr.vecOr n e o, 0x45),
    (Instr.vecXor n e o, 0x46)] ∧ s.AtEntry n e 2 r d ∧ CleanObs o ∧ readVec (s.entryBytes r d) = v ∧ v.valid = true ∧ v.op = op ∧ s.Verified n e ∧ (∀
    x ∈ v.reads, overlap x v.dst = false ∨ x = v.dst)) ∧
    -- 2 (d)
    (∃ (s : State) (n : Nat) (e : Nat) (op : Nat) (o : UnitObs) (c : Instr) (r : TaskRun) (d : TaskDesc) (v : VecEntry), (c, op) ∈ [(Instr.vecAdd n e o,
    0x01), (Instr.vecSub n e o, 0x02), (Instr.vecMul n e o, 0x03), (Instr.vecFma n e o, 0x04), (Instr.vecMin n e o, 0x05), (Instr.vecMax n e o, 0x06),
    (Instr.vecAbs n e o, 0x07), (Instr.vecNeg n e o, 0x08), (Instr.vecLess n e o, 0x09), (Instr.vecSelect n e o, 0x0A), (Instr.vecExp2 n e o, 0x10),
    (Instr.vecLog2 n e o, 0x11), (Instr.vecRecip n e o, 0x12), (Instr.vecRsqrt n e o, 0x13), (Instr.cvt n e o, 0x20), (Instr.vecIadd n e o, 0x40),
    (Instr.vecImul n e o, 0x41), (Instr.vecShl n e o, 0x42), (Instr.vecShr n e o, 0x43), (Instr.vecAnd n e o, 0x44), (Instr.vecOr n e o, 0x45),
    (Instr.vecXor n e o, 0x46)] ∧ s.AtEntry n e 2 r d ∧ CleanObs o ∧ readVec (s.entryBytes r d) = v ∧ v.valid = true ∧ v.op = op ∧ s.Verified n e ∧ (∀
    x ∈ v.reads, overlap x v.dst = false ∨ x = v.dst)) :=
  ⟨⟨wEntry 2 [1, 0], 0, 0, 1, {}, Instr.vecAdd 0 0 {}, wRunT 0, wTask 2, readVec ([1, 0].flatMap (leBytes 8)), by decide +kernel, wAt
    (by decide +kernel), wClean, by decide +kernel⟩,
    ⟨wEntry 2 [0xFF, 0], 0, 0, 0x46, {}, Instr.vecXor 0 0 {}, wRunT 0, wTask 2, readVec ([0xFF, 0].flatMap (leBytes 8)), by decide +kernel, wAt
    (by decide +kernel), wClean, by decide +kernel⟩,
    ⟨wVecS 1 0xD 1, 0, 0, 1, {}, Instr.vecAdd 0 0 {}, wRunT 0, wTask 2, readVec ((wVec 1 0xD 1).flatMap (leBytes 8)), by decide +kernel, wAt
    (by decide +kernel), wClean, by decide +kernel, by decide +kernel, by decide +kernel, wVer (by decide +kernel), by decide +kernel⟩,
    ⟨wVecS 0x41 0xC 1, 0, 0, 0x41, {}, Instr.vecImul 0 0 {}, wRunT 0, wTask 2, readVec ((wVec 0x41 0xC 1).flatMap (leBytes 8)), by decide +kernel, wAt
    (by decide +kernel), wClean, by decide +kernel, by decide +kernel, by decide +kernel, wVer (by decide +kernel), by decide +kernel⟩,
    ⟨wVecS 0x43 0xC 1, 0, 0, 0x43, {}, Instr.vecShr 0 0 {}, wRunT 0, wTask 2, readVec ((wVec 0x43 0xC 1).flatMap (leBytes 8)), by decide +kernel, wAt
    (by decide +kernel), wClean, by decide +kernel, by decide +kernel, by decide +kernel, wVer (by decide +kernel), by decide +kernel⟩,
    ⟨wCvtS, 0, 0, 0x20, {}, Instr.cvt 0 0 {}, wRunT 0, wTask 2, readVec (wCvt.flatMap (leBytes 8)), by decide +kernel, wAt (by decide +kernel), wClean, by
    decide +kernel, by decide +kernel, by decide +kernel, wVer (by decide +kernel), by decide +kernel⟩⟩

theorem wit_IndexEntries :
    -- 1
    (∃ (s : State) (n : Nat) (e : Nat) (op : Nat) (sub : Nat) (o : UnitObs) (c : Instr) (r : TaskRun) (d : TaskDesc) (x : IdxEntry), (c, op, sub) ∈
    [(Instr.gather n e o, 1, 0), (Instr.scatterStore n e o, 2, 0), (Instr.scatterAdd n e o, 2, 1), (Instr.scatterMax n e o, 2, 2), (Instr.scatterMin n
    e o, 2, 3), (Instr.segredSum n e o, 3, 0), (Instr.segredMax n e o, 3, 1), (Instr.segredMin n e o, 3, 2), (Instr.segredMean n e o, 3, 3),
    (Instr.segredNormExp n e o, 3, 4), (Instr.hist n e o, 4, 0), (Instr.dedup n e o, 5, 0)] ∧ s.AtEntry n e 3 r d ∧ CleanObs o ∧ s.Verified n e ∧
    readIdx (s.entryBytes r d) = x ∧ x.valid n ((if x.op = 3 then words32 (s.stGet n e x.off ((x.segs + 1) * 4)) (x.segs + 1) else [])) = false ∧
    (x.listed = true → x.op = op ∧ x.sub = sub)) ∧
    -- 2
    (∃ (s : State) (n : Nat) (e : Nat) (op : Nat) (sub : Nat) (o : UnitObs) (c : Instr) (r : TaskRun) (d : TaskDesc) (x : IdxEntry), (c, op, sub) ∈
    [(Instr.gather n e o, 1, 0), (Instr.scatterStore n e o, 2, 0), (Instr.scatterAdd n e o, 2, 1), (Instr.scatterMax n e o, 2, 2), (Instr.scatterMin n
    e o, 2, 3), (Instr.segredSum n e o, 3, 0), (Instr.segredMax n e o, 3, 1), (Instr.segredMin n e o, 3, 2), (Instr.segredMean n e o, 3, 3),
    (Instr.segredNormExp n e o, 3, 4), (Instr.hist n e o, 4, 0), (Instr.dedup n e o, 5, 0)] ∧ s.AtEntry n e 3 r d ∧ CleanObs o ∧ s.Verified n e ∧
    readIdx (s.entryBytes r d) = x ∧ x.valid n ((if x.op = 3 then words32 (s.stGet n e x.off ((x.segs + 1) * 4)) (x.segs + 1) else [])) = true ∧ x.op
    = op ∧ x.sub = sub ∧ x.srcSs = false ∧ x.dstSs = false ∧ x.oob = false ∧ (∃ i < x.count, x.rows ≤ ((fun i => if x.hasIdx then leNat (s.stGet n e
    (x.idx + 4 * i) 4) else i)) i)) ∧
    -- 3.1
    (∃ (s : State) (n : Nat) (e : Nat) (op : Nat) (sub : Nat) (o : UnitObs) (c : Instr) (r : TaskRun) (d : TaskDesc) (x : IdxEntry), (c, op, sub) ∈
    [(Instr.gather n e o, 1, 0), (Instr.scatterStore n e o, 2, 0), (Instr.scatterAdd n e o, 2, 1), (Instr.scatterMax n e o, 2, 2), (Instr.scatterMin n
    e o, 2, 3), (Instr.segredSum n e o, 3, 0), (Instr.segredMax n e o, 3, 1), (Instr.segredMin n e o, 3, 2), (Instr.segredMean n e o, 3, 3),
    (Instr.segredNormExp n e o, 3, 4), (Instr.hist n e o, 4, 0), (Instr.dedup n e o, 5, 0)] ∧ s.AtEntry n e 3 r d ∧ CleanObs o ∧ s.Verified n e ∧
    readIdx (s.entryBytes r d) = x ∧ x.valid n ((if x.op = 3 then words32 (s.stGet n e x.off ((x.segs + 1) * 4)) (x.segs + 1) else [])) = true ∧ x.op
    = op ∧ x.sub = sub ∧ (∀ i < x.count, x.oob = true ∨ ((fun i => if x.hasIdx then leNat (s.stGet n e (x.idx + 4 * i) 4) else i)) i < x.rows)) ∧
    -- 3.2
    (∃ (s : State) (n : Nat) (e : Nat) (op : Nat) (sub : Nat) (o : UnitObs) (c : Instr) (r : TaskRun) (d : TaskDesc) (x : IdxEntry), (c, op, sub) ∈
    [(Instr.gather n e o, 1, 0), (Instr.scatterStore n e o, 2, 0), (Instr.scatterAdd n e o, 2, 1), (Instr.scatterMax n e o, 2, 2), (Instr.scatterMin n
    e o, 2, 3), (Instr.segredSum n e o, 3, 0), (Instr.segredMax n e o, 3, 1), (Instr.segredMin n e o, 3, 2), (Instr.segredMean n e o, 3, 3),
    (Instr.segredNormExp n e o, 3, 4), (Instr.hist n e o, 4, 0), (Instr.dedup n e o, 5, 0)] ∧ s.AtEntry n e 3 r d ∧ CleanObs o ∧ s.Verified n e ∧
    readIdx (s.entryBytes r d) = x ∧ x.valid n ((if x.op = 3 then words32 (s.stGet n e x.off ((x.segs + 1) * 4)) (x.segs + 1) else [])) = true ∧ x.op
    = op ∧ x.sub = sub ∧ (∀ i < x.count, x.oob = true ∨ ((fun i => if x.hasIdx then leNat (s.stGet n e (x.idx + 4 * i) 4) else i)) i < x.rows) ∧
    x.srcSs = false ∧ x.dstSs = false) ∧
    -- 3.1 (b)
    (∃ (s : State) (n : Nat) (e : Nat) (op : Nat) (sub : Nat) (o : UnitObs) (c : Instr) (r : TaskRun) (d : TaskDesc) (x : IdxEntry), (c, op, sub) ∈
    [(Instr.gather n e o, 1, 0), (Instr.scatterStore n e o, 2, 0), (Instr.scatterAdd n e o, 2, 1), (Instr.scatterMax n e o, 2, 2), (Instr.scatterMin n
    e o, 2, 3), (Instr.segredSum n e o, 3, 0), (Instr.segredMax n e o, 3, 1), (Instr.segredMin n e o, 3, 2), (Instr.segredMean n e o, 3, 3),
    (Instr.segredNormExp n e o, 3, 4), (Instr.hist n e o, 4, 0), (Instr.dedup n e o, 5, 0)] ∧ s.AtEntry n e 3 r d ∧ CleanObs o ∧ s.Verified n e ∧
    readIdx (s.entryBytes r d) = x ∧ x.valid n ((if x.op = 3 then words32 (s.stGet n e x.off ((x.segs + 1) * 4)) (x.segs + 1) else [])) = true ∧ x.op
    = op ∧ x.sub = sub ∧ (∀ i < x.count, x.oob = true ∨ ((fun i => if x.hasIdx then leNat (s.stGet n e (x.idx + 4 * i) 4) else i)) i < x.rows)) ∧
    -- 3.2 (b)
    (∃ (s : State) (n : Nat) (e : Nat) (op : Nat) (sub : Nat) (o : UnitObs) (c : Instr) (r : TaskRun) (d : TaskDesc) (x : IdxEntry), (c, op, sub) ∈
    [(Instr.gather n e o, 1, 0), (Instr.scatterStore n e o, 2, 0), (Instr.scatterAdd n e o, 2, 1), (Instr.scatterMax n e o, 2, 2), (Instr.scatterMin n
    e o, 2, 3), (Instr.segredSum n e o, 3, 0), (Instr.segredMax n e o, 3, 1), (Instr.segredMin n e o, 3, 2), (Instr.segredMean n e o, 3, 3),
    (Instr.segredNormExp n e o, 3, 4), (Instr.hist n e o, 4, 0), (Instr.dedup n e o, 5, 0)] ∧ s.AtEntry n e 3 r d ∧ CleanObs o ∧ s.Verified n e ∧
    readIdx (s.entryBytes r d) = x ∧ x.valid n ((if x.op = 3 then words32 (s.stGet n e x.off ((x.segs + 1) * 4)) (x.segs + 1) else [])) = true ∧ x.op
    = op ∧ x.sub = sub ∧ (∀ i < x.count, x.oob = true ∨ ((fun i => if x.hasIdx then leNat (s.stGet n e (x.idx + 4 * i) 4) else i)) i < x.rows) ∧
    x.srcSs = false ∧ x.dstSs = false) ∧
    -- 3.2 (c)
    (∃ (s : State) (n : Nat) (e : Nat) (op : Nat) (sub : Nat) (o : UnitObs) (c : Instr) (r : TaskRun) (d : TaskDesc) (x : IdxEntry), (c, op, sub) ∈
    [(Instr.gather n e o, 1, 0), (Instr.scatterStore n e o, 2, 0), (Instr.scatterAdd n e o, 2, 1), (Instr.scatterMax n e o, 2, 2), (Instr.scatterMin n
    e o, 2, 3), (Instr.segredSum n e o, 3, 0), (Instr.segredMax n e o, 3, 1), (Instr.segredMin n e o, 3, 2), (Instr.segredMean n e o, 3, 3),
    (Instr.segredNormExp n e o, 3, 4), (Instr.hist n e o, 4, 0), (Instr.dedup n e o, 5, 0)] ∧ s.AtEntry n e 3 r d ∧ CleanObs o ∧ s.Verified n e ∧
    readIdx (s.entryBytes r d) = x ∧ x.valid n ((if x.op = 3 then words32 (s.stGet n e x.off ((x.segs + 1) * 4)) (x.segs + 1) else [])) = true ∧ x.op
    = op ∧ x.sub = sub ∧ (∀ i < x.count, x.oob = true ∨ ((fun i => if x.hasIdx then leNat (s.stGet n e (x.idx + 4 * i) 4) else i)) i < x.rows) ∧
    x.srcSs = false ∧ x.dstSs = false) :=
  ⟨⟨wIdxS [0xFF, 0, 0, 0], 0, 0, 1, 0, {}, Instr.gather 0 0 {}, wRunT 0, wTask 3, readIdx ([0xFF, 0, 0, 0].flatMap (leBytes 8)), by decide +kernel, wAt
    (by decide +kernel), wClean, wVer (by decide +kernel), by decide +kernel⟩,
    ⟨wIdxS wGatherBad, 0, 0, 1, 0, {}, Instr.gather 0 0 {}, wRunT 0, wTask 3, readIdx (wGatherBad.flatMap (leBytes 8)), by decide +kernel, wAt
    (by decide +kernel), wClean, wVer (by decide +kernel), by decide +kernel⟩,
    ⟨wIdxS wGather, 0, 0, 1, 0, {}, Instr.gather 0 0 {}, wRunT 0, wTask 3, readIdx (wGather.flatMap (leBytes 8)), by decide +kernel, wAt
    (by decide +kernel), wClean, wVer (by decide +kernel), by decide +kernel⟩,
    ⟨wIdxS wGather, 0, 0, 1, 0, {}, Instr.gather 0 0 {}, wRunT 0, wTask 3, readIdx (wGather.flatMap (leBytes 8)), by decide +kernel, wAt
    (by decide +kernel), wClean, wVer (by decide +kernel), by decide +kernel⟩,
    ⟨wIdxS wHist, 0, 0, 4, 0, {}, Instr.hist 0 0 {}, wRunT 0, wTask 3, readIdx (wHist.flatMap (leBytes 8)), by decide +kernel, wAt (by decide +kernel),
    wClean, wVer (by decide +kernel), by decide +kernel⟩,
    ⟨wIdxS wHist, 0, 0, 4, 0, {}, Instr.hist 0 0 {}, wRunT 0, wTask 3, readIdx (wHist.flatMap (leBytes 8)), by decide +kernel, wAt (by decide +kernel),
    wClean, wVer (by decide +kernel), by decide +kernel⟩,
    ⟨(wIdxS wSegred).stPut 0 0 4108 [1], 0, 0, 3, 0, {}, Instr.segredSum 0 0 {}, wRunT 0, wTask 3, readIdx (wSegred.flatMap (leBytes 8)), by
    decide +kernel, wAt (by decide +kernel), wClean, wVer (by decide +kernel), by decide +kernel⟩⟩

theorem wit_SortIsRight :
    -- 1
    (∃ (x : SortEntry) (ks : List (Nat × Nat)), ks.length = x.n ∧ x.n ≤ 2 ^ 18 ∧ x.op = 1) ∧
    -- 2
    (∃ (x : SortEntry) (ks : List (Nat × Nat)), ks.length = x.n ∧ x.n ≤ 2 ^ 18 ∧ x.op = 3 ∧ x.aux ≤ x.n) ∧
    -- 3
    (∃ (x : SortEntry) (ks : List (Nat × Nat)), ks.length = x.n ∧ x.n ≤ 2 ^ 18 ∧ x.op = 2 ∧ x.ordered (ks.take x.aux) = true ∧ x.ordered (ks.drop x.aux) =
    true) :=
  ⟨⟨{ (wSortX (wSort 1 3 0 0)) with op := 1 }, [(5, 1), (3, 2), (5, 0)], by decide +kernel⟩,
    ⟨wSortX (wSort 3 3 2 0), [(5, 1), (3, 2), (5, 0)], by decide +kernel⟩,
    ⟨wSortX (wSort 2 3 1 0), [(5, 1), (3, 2), (5, 0)], by decide +kernel⟩⟩

theorem wit_SortAndSeekEntries :
    -- 1.1
    (∃ (s : State) (n : Nat) (e : Nat) (op : Nat) (o : UnitObs) (c : Instr) (r : TaskRun) (d : TaskDesc) (x : SortEntry), (c, op) ∈ [(Instr.sort n e o, 1),
    (Instr.merge n e o, 2), (Instr.topk n e o, 3)] ∧ s.AtEntry n e 4 r d ∧ CleanObs o ∧ readSort (s.entryBytes r d) = x ∧ x.valid = false ∧ (1 ≤ x.op
    → x.op ≤ 3 → x.op = op)) ∧
    -- 1.2
    (∃ (s : State) (n : Nat) (e : Nat) (op : Nat) (o : UnitObs) (c : Instr) (r : TaskRun) (d : TaskDesc) (x : SortEntry), (c, op) ∈ [(Instr.sort n e o, 1),
    (Instr.merge n e o, 2), (Instr.topk n e o, 3)] ∧ s.AtEntry n e 4 r d ∧ CleanObs o ∧ readSort (s.entryBytes r d) = x ∧ x.valid = true ∧ x.op = op ∧
    s.Verified n e ∧ x.checks ((words64 (s.stGet n e x.key (x.n * 8)) x.n).zip (if x.payload then words32 (s.stGet n e x.pay (x.n * 4)) x.n else
    List.replicate x.n 0)) (x.result ((words64 (s.stGet n e x.key (x.n * 8)) x.n).zip (if x.payload then words32 (s.stGet n e x.pay (x.n * 4)) x.n
    else List.replicate x.n 0))) = true) ∧
    -- 1.2 (b)
    (∃ (s : State) (n : Nat) (e : Nat) (op : Nat) (o : UnitObs) (c : Instr) (r : TaskRun) (d : TaskDesc) (x : SortEntry), (c, op) ∈ [(Instr.sort n e o, 1),
    (Instr.merge n e o, 2), (Instr.topk n e o, 3)] ∧ s.AtEntry n e 4 r d ∧ CleanObs o ∧ readSort (s.entryBytes r d) = x ∧ x.valid = true ∧ x.op = op ∧
    s.Verified n e ∧ x.checks ((words64 (s.stGet n e x.key (x.n * 8)) x.n).zip (if x.payload then words32 (s.stGet n e x.pay (x.n * 4)) x.n else
    List.replicate x.n 0)) (x.result ((words64 (s.stGet n e x.key (x.n * 8)) x.n).zip (if x.payload then words32 (s.stGet n e x.pay (x.n * 4)) x.n
    else List.replicate x.n 0))) = true) ∧
    -- 1.2 (c)
    (∃ (s : State) (n : Nat) (e : Nat) (op : Nat) (o : UnitObs) (c : Instr) (r : TaskRun) (d : TaskDesc) (x : SortEntry), (c, op) ∈ [(Instr.sort n e o, 1),
    (Instr.merge n e o, 2), (Instr.topk n e o, 3)] ∧ s.AtEntry n e 4 r d ∧ CleanObs o ∧ readSort (s.entryBytes r d) = x ∧ x.valid = true ∧ x.op = op ∧
    s.Verified n e ∧ x.checks ((words64 (s.stGet n e x.key (x.n * 8)) x.n).zip (if x.payload then words32 (s.stGet n e x.pay (x.n * 4)) x.n else
    List.replicate x.n 0)) (x.result ((words64 (s.stGet n e x.key (x.n * 8)) x.n).zip (if x.payload then words32 (s.stGet n e x.pay (x.n * 4)) x.n
    else List.replicate x.n 0))) = true) ∧
    -- 2.1
    (∃ (s : State) (n : Nat) (e : Nat) (op : Nat) (o : UnitObs) (c : Instr) (r : TaskRun) (d : TaskDesc) (x : SeekEntry), (c, op) ∈ [(Instr.bin n e o, 1),
    (Instr.radius n e o, 2), (Instr.knn n e o, 3)] ∧ s.AtEntry n e 5 r d ∧ CleanObs o ∧ readSeek (s.entryBytes r d) = x ∧ x.valid (wSeekG [1, 0, 0,
    0]) (wSeekH [1, 0, 0, 0]) = false ∧ (1 ≤ x.op → x.op ≤ 3 → x.op = op)) ∧
    -- 2.2.1
    (∃ (s : State) (n : Nat) (e : Nat) (op : Nat) (o : UnitObs) (c : Instr) (r : TaskRun) (d : TaskDesc) (x : SeekEntry), (c, op) ∈ [(Instr.bin n e o, 1),
    (Instr.radius n e o, 2), (Instr.knn n e o, 3)] ∧ s.AtEntry n e 5 r d ∧ CleanObs o ∧ readSeek (s.entryBytes r d) = x ∧ x.valid (wSeekG (wSeekW 1 3
    2 2)) (wSeekH (wSeekW 1 3 2 2)) = true ∧ x.op = op ∧ s.Verified n e ∧ op = 1) ∧
    -- 2.2.2
    (∃ (s : State) (n : Nat) (e : Nat) (op : Nat) (o : UnitObs) (c : Instr) (r : TaskRun) (d : TaskDesc) (x : SeekEntry), (c, op) ∈ [(Instr.bin n e o, 1),
    (Instr.radius n e o, 2), (Instr.knn n e o, 3)] ∧ s.AtEntry n e 5 r d ∧ CleanObs o ∧ readSeek (s.entryBytes r d) = x ∧ x.valid (wSeekG (wSeekW 2 1
    2 2)) (wSeekH (wSeekW 2 1 2 2)) = true ∧ x.op = op ∧ s.Verified n e ∧ op ≠ 1) ∧
    -- 2.2.2 (b)
    (∃ (s : State) (n : Nat) (e : Nat) (op : Nat) (o : UnitObs) (c : Instr) (r : TaskRun) (d : TaskDesc) (x : SeekEntry), (c, op) ∈ [(Instr.bin n e o, 1),
    (Instr.radius n e o, 2), (Instr.knn n e o, 3)] ∧ s.AtEntry n e 5 r d ∧ CleanObs o ∧ readSeek (s.entryBytes r d) = x ∧ x.valid (wSeekG (wSeekW 3 1
    4 2)) (wSeekH (wSeekW 3 1 4 2)) = true ∧ x.op = op ∧ s.Verified n e ∧ op ≠ 1) :=
  ⟨⟨wSortS [0xFF, 0, 0, 0], 0, 0, 3, {}, Instr.topk 0 0 {}, wRunT 0, wTask 4, wSortX [0xFF, 0, 0, 0], by decide +kernel, wAt (by decide +kernel), wClean,
    by decide +kernel⟩,
    ⟨wSortS (wSort 1 4 0 1), 0, 0, 1, {}, Instr.sort 0 0 {}, wRunT 0, wTask 4, wSortX (wSort 1 4 0 1), by decide +kernel, wAt (by decide +kernel), wClean,
    by decide +kernel, by decide +kernel, by decide +kernel, wVer (by decide +kernel), by decide +kernel⟩,
    ⟨wSortS (wSort 2 4 2 0), 0, 0, 2, {}, Instr.merge 0 0 {}, wRunT 0, wTask 4, wSortX (wSort 2 4 2 0), by decide +kernel, wAt (by decide +kernel),
    wClean, by decide +kernel, by decide +kernel, by decide +kernel, wVer (by decide +kernel), by decide +kernel⟩,
    ⟨wSortS (wSort 3 4 4 1), 0, 0, 3, {}, Instr.topk 0 0 {}, wRunT 0, wTask 4, wSortX (wSort 3 4 4 1), by decide +kernel, wAt (by decide +kernel), wClean,
    by decide +kernel, by decide +kernel, by decide +kernel, wVer (by decide +kernel), by decide +kernel⟩,
    ⟨wSeekS [1, 0, 0, 0], 0, 0, 1, {}, Instr.bin 0 0 {}, wRunT 0, wTask 5, wSeekX [1, 0, 0, 0], by decide +kernel, wAt (by decide +kernel), wClean, by
    decide +kernel⟩,
    ⟨wSeekS (wSeekW 1 3 2 2), 0, 0, 1, {}, Instr.bin 0 0 {}, wRunT 0, wTask 5, wSeekX (wSeekW 1 3 2 2), by decide +kernel, wAt (by decide +kernel),
    wClean, by decide +kernel, by decide +kernel, by decide +kernel, wVer (by decide +kernel), by decide +kernel⟩,
    ⟨wSeekS (wSeekW 2 1 2 2), 0, 0, 2, {}, Instr.radius 0 0 {}, wRunT 0, wTask 5, wSeekX (wSeekW 2 1 2 2), by decide +kernel, wAt (by decide +kernel),
    wClean, by decide +kernel, by decide +kernel, by decide +kernel, wVer (by decide +kernel), by decide +kernel⟩,
    ⟨wSeekS (wSeekW 3 1 4 2), 0, 0, 3, {}, Instr.knn 0 0 {}, wRunT 0, wTask 5, wSeekX (wSeekW 3 1 4 2), by decide +kernel, wAt (by decide +kernel),
    wClean, by decide +kernel, by decide +kernel, by decide +kernel, wVer (by decide +kernel), by decide +kernel⟩⟩

theorem wit_MoveAndWarpEntries :
    -- 1.1
    (∃ (s : State) (n : Nat) (e : Nat) (o : UnitObs) (r : TaskRun) (c : Instr) (drain : Bool), n < 8 ∧ e < 18 ∧ CleanObs o ∧ s.moveAt n e = some (r,
    (wMoveM (wMoveW 1 0))) ∧ s.run? r.key = some r ∧ r.withheld = false ∧ (wMoveM (wMoveW 1 0)).ok = false ∧ (c, drain) ∈ [(Instr.moveFill n e o,
    false), (Instr.moveDrain n e o, true)] ∧ (wMoveM (wMoveW 1 0)).drain = drain) ∧
    -- 1.4
    (∃ (s : State) (n : Nat) (e : Nat) (o : UnitObs) (r : TaskRun), n < 8 ∧ e < 18 ∧ CleanObs o ∧ s.moveAt n e = some (r, (wMoveM (wMoveW 0 2))) ∧ s.run?
    r.key = some r ∧ r.withheld = false ∧ (wMoveM (wMoveW 0 2)).ok = true ∧ (wMoveM (wMoveW 0 2)).drain = false) ∧
    -- 1.3
    (∃ (s : State) (n : Nat) (e : Nat) (o : UnitObs) (r : TaskRun), n < 8 ∧ e < 18 ∧ CleanObs o ∧ s.moveAt n e = some (r, (wMoveM (wMoveW 0 2))) ∧ s.run?
    r.key = some r ∧ r.withheld = false ∧ (wMoveM (wMoveW 0 2)).drain = false) ∧
    -- 1.5
    (∃ (s : State) (n : Nat) (e : Nat) (o : UnitObs) (r : TaskRun), n < 8 ∧ e < 18 ∧ CleanObs o ∧ s.moveAt n e = some (r, (wMoveM (wMoveW 1 2))) ∧ s.run?
    r.key = some r ∧ r.withheld = false ∧ (wMoveM (wMoveW 1 2)).ok = true ∧ (wMoveM (wMoveW 1 2)).drain = true) ∧
    -- 1.2
    (∃ (s : State) (n : Nat) (e : Nat) (o : UnitObs) (r : TaskRun), n < 8 ∧ e < 18 ∧ CleanObs o ∧ s.moveAt n e = some (r, (wMoveM (wMoveW 1 2))) ∧ s.run?
    r.key = some r ∧ r.withheld = false ∧ (wMoveM (wMoveW 1 2)).drain = true) ∧
    -- 2
    (∃ (s : State) (s1 : State) (r : TaskRun) (i : Nat) (bs : List Byte), s.portRead r.key r.phys ((wMoveM (wMoveW 0 2)).addr + 256 * i) 0 = (s1, some (bs,
    0)) ∧ s1.isWithheld r.key = false ∧ r.phys < 18 ∧ bs.length = 256 ∧ ((wMoveM (wMoveW 0 2)).loc + i) * 256 + 256 ≤ storeSize) ∧
    -- 3.1
    (∃ (s : State) (s1 : State) (n : Nat) (op : Nat) (o : UnitObs) (c : Instr) (r : TaskRun) (d : TaskDesc) (b : List Byte) (f : FusSec), (c, op) ∈
    [(Instr.splat n o, 1), (Instr.sample n o, 2)] ∧ n < 8 ∧ CleanObs o ∧ s.warpTask n = some (r, d) ∧ s.run? r.key = some r ∧ r.pos < d.listLen ∧
    s.warpEntry r d = (s1, b) ∧ (readWarp b).op = op ∧ s.fusion = some f ∧ (readWarp b).ok f (readCal (s.calBytes r.bank (readWarp b).sensor)) = true) ∧
    -- 3.1 (b)
    (∃ (s : State) (s1 : State) (n : Nat) (op : Nat) (o : UnitObs) (c : Instr) (r : TaskRun) (d : TaskDesc) (b : List Byte) (f : FusSec), (c, op) ∈
    [(Instr.splat n o, 1), (Instr.sample n o, 2)] ∧ n < 8 ∧ CleanObs o ∧ s.warpTask n = some (r, d) ∧ s.run? r.key = some r ∧ r.pos < d.listLen ∧
    s.warpEntry r d = (s1, b) ∧ (readWarp b).op = op ∧ s.fusion = some f ∧ (readWarp b).ok f (readCal (s.calBytes r.bank (readWarp b).sensor)) = true) ∧
    -- 3.2
    (∃ (s : State) (s1 : State) (n : Nat) (op : Nat) (o : UnitObs) (c : Instr) (r : TaskRun) (d : TaskDesc) (b : List Byte), (c, op) ∈ [(Instr.splat n o,
    1), (Instr.sample n o, 2)] ∧ n < 8 ∧ CleanObs o ∧ s.warpTask n = some (r, d) ∧ s.run? r.key = some r ∧ r.pos < d.listLen ∧ s.warpEntry r d = (s1,
    b) ∧ (readWarp b).op = op ∧ (∀ f, s.fusion = some f → (readWarp b).ok f (readCal (s.calBytes r.bank (readWarp b).sensor)) = false)) :=
  ⟨⟨wMoveS (wMoveW 1 0), 0, 0, {}, wRunT 16, Instr.moveDrain 0 0 {}, true, by decide +kernel, by decide +kernel, wClean, by decide +kernel⟩,
    ⟨wMoveS (wMoveW 0 2), 0, 0, {}, wRunT 16, by decide +kernel, by decide +kernel, wClean, by decide +kernel⟩,
    ⟨wMoveS (wMoveW 0 2), 0, 0, {}, wRunT 16, by decide +kernel, by decide +kernel, wClean, by decide +kernel⟩,
    ⟨wMoveS (wMoveW 1 2), 0, 0, {}, wRunT 16, by decide +kernel, by decide +kernel, wClean, by decide +kernel⟩,
    ⟨wMoveS (wMoveW 1 2), 0, 0, {}, wRunT 16, by decide +kernel, by decide +kernel, wClean, by decide +kernel⟩,
    ⟨wMoveS (wMoveW 0 2), ((wMoveS (wMoveW 0 2)).portRead (wRunT 16).key 0 (0x004000000000 + 256) 0).1, wRunT 16, 1, List.replicate 256 0, by
    decide +kernel⟩,
    ⟨wWarpS (wWarpW 1) 1, ((wWarpS (wWarpW 1) 1).warpEntry (wRunT 32) (wTask 6)).1, 0, 1, {}, Instr.splat 0 {}, wRunT 32, wTask 6, (wWarpW 1).flatMap
    (leBytes 8), wFus, by decide +kernel, by decide +kernel, wClean, by decide +kernel⟩,
    ⟨wWarpS (wWarpW 2) 1, ((wWarpS (wWarpW 2) 1).warpEntry (wRunT 32) (wTask 6)).1, 0, 2, {}, Instr.sample 0 {}, wRunT 32, wTask 6, (wWarpW 2).flatMap
    (leBytes 8), wFus, by decide +kernel, by decide +kernel, wClean, by decide +kernel⟩,
    ⟨wWarpS (wWarpW 2) 0, ((wWarpS (wWarpW 2) 0).warpEntry (wRunT 32) (wTask 6)).1, 0, 2, {}, Instr.sample 0 {}, wRunT 32, wTask 6, (wWarpW 2).flatMap
    (leBytes 8), by decide +kernel, by decide +kernel, wClean, by decide +kernel, by decide +kernel, by decide +kernel, by decide +kernel, by
    decide +kernel, wSome wFus (by decide +kernel) (by decide +kernel)⟩⟩

def wReqIn : OhpIn := { port := 5, mac := 1, vlan := 0, typ := 0x10, flags := 0, seq := 9, dstPart := 0, srcPart := 3, unit := 0, status := 0, role := 0, txTime := 0, payload := [] }
/-- A graph of one zero-cost SYNC task submitted to a plan. -/
def wSubG (id : Nat) : GraphRec := { wGraph id 0 [{ wTask 8 with listLen := 0, cost := 0, deadline := 9000 }] with interval := 10000 }
def wSub (id : Nat) : Submitted := { graph := wSubG id, req := wReqIn }
def wSubS (id en : Nat) : State := { (wGo [wGraph 1 0 [wTask 1]]).fset Reg.ADM_CTRL_submit_en en with
  plan := { (wGo [wGraph 1 0 [wTask 1]]).plan with queued := [wSub id, wSub 9] } }
def wAdmitted : Submitted := match admitGraph (wSubS 2 1).admCfg (wSubS 2 1).tblUsed (wPlan [wGraph 1 0 [wTask 1]]) [] (wSub 2) with
  | .ok y => y
  | .error _ => wSub 0
def wSubBad : Submitted := { wSub 2 with graph := wGraph 2 0 [{ wTask 8 with listLen := 0, stage := 64 }] }
def wRefused : Verdict := match admitGraph (wSubS 2 1).admCfg (wSubS 2 1).tblUsed (wPlan [wGraph 1 0 [wTask 1]]) []
    wSubBad with
  | .ok _ => { code := 0 }
  | .error v => v
def wBankBusy : State := (wGo []).setRun { wRunT 32 with bank := 1 }
def wInst (n : Nat) : State := { wOn (wGo []) [(⟨Reg.FUS_INSTANT, 63, 0⟩, n)] with fus := { started := true } }
def wSens (k : Nat) (x : Sensor) : State :=
  (wOn (wInst 3) [(Reg.ING_SENSOR00_en k, 1), (Reg.ING_SENSOR00_port k, 2), (Reg.ING_SENSOR00_vc k, 1), (Reg.ING_STAT0_state k, 2),
    (Reg.ING_SENSOR08_dt k, 0x2A), (Reg.ING_SENSOR00_period_ns k, 33000000)]).setSensor k x
def wSync (off st : Nat) (l : List (Fld × Nat)) : State := wOn (wGo []) ([(Reg.ING_DT_CTRL_ptp_en, 1), (Reg.ING_DT_STATUS_state, st), (⟨Reg.ING_DT_OFFSET, 63, 0⟩, off)] ++ l)
def wTrig (x : TrigState) : State := (wOn (wGo []) [(Reg.ING_TRIG0_period_ns 15, 1000000), (Reg.ING_TRIG8_width_us 15, 10), (Reg.ING_TRIG8_en 15, 1)]).setTrig 15 x

theorem wit_AdmissionAndCalibration :
    -- 1.1
    (∃ (s : State) (r : PlanRec) (x : Submitted) (rest : List Submitted) (code : Nat), s.planRec = some r ∧ s.plan.queued = x :: rest ∧ x.req.port < 6 ∧
    s.submitRefused r x.graph = some code) ∧
    -- 1.1 (b)
    (∃ (s : State) (r : PlanRec) (x : Submitted) (rest : List Submitted) (code : Nat), s.planRec = some r ∧ s.plan.queued = x :: rest ∧ x.req.port < 6 ∧
    s.submitRefused r x.graph = some code) ∧
    -- 1.1 (c)
    (∃ (s : State) (r : PlanRec) (x : Submitted) (rest : List Submitted) (code : Nat), s.planRec = some r ∧ s.plan.queued = x :: rest ∧ x.req.port < 6 ∧
    s.submitRefused r x.graph = some code) ∧
    -- 1.2.1
    (∃ (s : State) (r : PlanRec) (x : Submitted) (rest : List Submitted) (y : Submitted), s.planRec = some r ∧ s.plan.queued = x :: rest ∧ x.req.port < 6 ∧
    s.submitRefused r x.graph = none ∧ (admitGraph s.admCfg
    ({ s with plan := { s.plan with entered := ((s.plan.entered).filter fun y => y.graph.id != x.graph.id), accepted := ((s.plan.accepted).filter fun y => y.graph.id != x.graph.id) } }).tblUsed
    r (((((s.plan.entered.filter fun y => !(s.plan.accepted.any fun z => z.graph.id == y.graph.id)) ++ s.plan.accepted)).filter fun y => y.graph.id !=
    x.graph.id)) x = .ok y)) ∧
    -- 1.2.2
    (∃ (s : State) (r : PlanRec) (x : Submitted) (rest : List Submitted) (v : Verdict), s.planRec = some r ∧ s.plan.queued = x :: rest ∧ x.req.port < 6 ∧
    s.submitRefused r x.graph = none ∧ (admitGraph s.admCfg
    ({ s with plan := { s.plan with entered := ((s.plan.entered).filter fun y => y.graph.id != x.graph.id), accepted := ((s.plan.accepted).filter fun y => y.graph.id != x.graph.id) } }).tblUsed
    r (((((s.plan.entered.filter fun y => !(s.plan.accepted.any fun z => z.graph.id == y.graph.id)) ++ s.plan.accepted)).filter fun y => y.graph.id !=
    x.graph.id)) x = .error v) ∧ v.code ≠ 0) ∧
    -- 2
    (∃ (s : State), s.plan.queued = []) ∧
    -- 4.1
    (∃ (s : State) (n : Nat) (w : Nat) (v : Nat), n < 64 ∧ w < 32 ∧ v < 2 ^ 32 ∧ s.nextBusy = false ∧ s.fus.held = []) ∧
    -- 4.3
    (∃ (n : Nat) (w : Nat) (v : Nat), n < 64 ∧ w < 32 ∧ v < 2 ^ 32) ∧
    -- 4.1 (b)
    (∃ (s : State) (n : Nat) (w : Nat) (v : Nat), n < 64 ∧ w < 32 ∧ v < 2 ^ 32 ∧ s.nextBusy = false ∧ s.fus.held = []) ∧
    -- 4.2
    (∃ (s : State) (n : Nat) (w : Nat) (v : Nat), n < 64 ∧ w < 32 ∧ v < 2 ^ 32 ∧ (s.nextBusy = true ∨ s.fus.held ≠ [])) ∧
    -- 4.2 (b)
    (∃ (s : State) (n : Nat) (w : Nat) (v : Nat), n < 64 ∧ w < 32 ∧ v < 2 ^ 32 ∧ (s.nextBusy = true ∨ s.fus.held ≠ [])) ∧
    -- 5
    (∃ (s : State), s.fus.held = [] ∨ s.nextBusy = true) ∧
    -- 5 (b)
    (∃ (s : State), s.fus.held = [] ∨ s.nextBusy = true) ∧
    -- 6
    (∃ (s : State), s.fus.held ≠ [] ∧ s.nextBusy = false) ∧
    -- 7.1
    (∃ (s : State) (n : Nat) (j : Nat), s.fget Reg.FUS_CAL_STATUS_swap_pending = 1 ∧ s.badNext = none ∧ n < 64 ∧ j < 16) ∧
    -- 7.2
    (∃ (s : State), s.fget Reg.FUS_CAL_STATUS_swap_pending = 1 ∧ s.badNext = none) :=
  ⟨⟨wSubS 2 0, wPlan [wGraph 1 0 [wTask 1]], wSub 2, [wSub 9], 0x11, by decide +kernel⟩,
    ⟨(wSubS 2 1).fset Reg.PACE_ALARM_SUM_alarm 1, wPlan [wGraph 1 0 [wTask 1]], wSub 2, [wSub 9], 0x12, by decide +kernel⟩,
    ⟨wSubS 1 1, wPlan [wGraph 1 0 [wTask 1]], wSub 1, [wSub 9], 0x11, by decide +kernel⟩,
    ⟨wSubS 2 1, wPlan [wGraph 1 0 [wTask 1]], wSub 2, [wSub 9], wAdmitted, by decide +kernel, by decide +kernel, by decide +kernel, by decide +kernel,
    rfl⟩,
    ⟨{ wSubS 2 1 with plan := { (wSubS 2 1).plan with queued := [wSubBad] } }, wPlan [wGraph 1 0 [wTask 1]], wSubBad, [], wRefused, by decide +kernel, by
    decide +kernel, by decide +kernel, by decide +kernel, rfl, by decide +kernel⟩,
    ⟨wGo [], by decide +kernel⟩,
    ⟨wGo [], 63, 31, 0xFFFFFFFF, by decide +kernel⟩,
    ⟨63, 31, 0xFFFFFFFF, by decide +kernel⟩,
    ⟨wGo [], 0, 0, 7, by decide +kernel⟩,
    ⟨wBankBusy, 63, 31, 0xFFFFFFFF, by decide +kernel⟩,
    ⟨{ wGo [] with fus := { held := [(1, 2, 3)] } }, 0, 0, 0, by decide +kernel⟩,
    ⟨wGo [], by decide +kernel⟩,
    ⟨{ wBankBusy with fus := { held := [(1, 2, 3)] } }, by decide +kernel⟩,
    ⟨{ wGo [] with fus := { held := [(1, 2, 3), (63, 31, 0xFFFFFFFF), (1, 2, 4)] } }, by decide +kernel⟩,
    ⟨wOn (wGo [])
    [(Reg.FUS_CAL_STATUS_swap_pending, 1), (⟨Reg.FUS_CAL_NEXT 63 15, 63, 32⟩, 0), (⟨Reg.FUS_CAL_NEXT 5 0, 63, 0⟩, 77), (Reg.FUS_CAL_STATUS_bank, 1)],
    5, 0, by decide +kernel⟩,
    ⟨wOn (wGo [])
    [(Reg.FUS_CAL_STATUS_swap_pending, 1), (⟨Reg.FUS_CAL_NEXT 63 15, 63, 32⟩, 0), (⟨Reg.FUS_CAL_NEXT 5 0, 63, 0⟩, 77), (Reg.FUS_CAL_STATUS_bank, 1)],
    by decide +kernel⟩⟩

theorem wit_PickAndTracks :
    -- 1.1
    (∃ (s : State) (n : Nat), s.pow.phase = .running ∧ s.planRec.isSome = true ∧ s.fus.started = true ∧ (s.rd Reg.FUS_INSTANT).toNat = n ∧ s.ing.picked ≠ n
    + 1 ∧ s.tref ≤ s.now) ∧
    -- 1.2
    (∃ (s : State) (n : Nat), s.pow.phase = .running ∧ s.planRec.isSome = true ∧ s.fus.started = true ∧ (s.rd Reg.FUS_INSTANT).toNat = n ∧ (s.ing.picked =
    n + 1 ∨ s.now < s.tref)) ∧
    -- 2.1
    (∃ (s : State) (n : Nat), s.pow.phase = .running ∧ s.planRec.isSome = true ∧ s.fus.started = true ∧ (s.rd Reg.FUS_INSTANT).toNat = n ∧ s.trk.done ≠ n +
    1 ∧ s.fus.start + s.fget Reg.TRK_CTRL_trk_at_us * 1000 ≤ s.now) ∧
    -- 2.2
    (∃ (s : State) (n : Nat), s.pow.phase = .running ∧ s.planRec.isSome = true ∧ s.fus.started = true ∧ (s.rd Reg.FUS_INSTANT).toNat = n ∧ (s.trk.done = n
    + 1 ∨ s.now < s.fus.start + s.fget Reg.TRK_CTRL_trk_at_us * 1000)) :=
  ⟨⟨wSens 63 { done := [{ stamp := 999000000, counter := 3, d := 0, roiSrc := 15, buf := 2, done := 999500000 }] }, 3, by decide +kernel⟩,
    ⟨{ wInst 3 with ing := { picked := 4 } }, 3, by decide +kernel⟩,
    ⟨wInst 3, 3, by decide +kernel⟩,
    ⟨{ wInst 3 with trk := { done := 4 } }, 3, by decide +kernel⟩⟩

theorem wit_TimeAndSync :
    -- 1.1
    (∃ (s : State) (port : Nat) (domain : Nat) (interval : Nat), s.fget Reg.ING_DT_CTRL_ptp_en = 0 ∨ port ≠ s.ptpPort ∨ domain ≠ (if 127 < (s.fget
    Reg.ING_DT_CTRL_domain) then 0 else (s.fget Reg.ING_DT_CTRL_domain)) ∨ interval ∉ syncIntervals) ∧
    -- 1.1 (b)
    (∃ (s : State) (port : Nat) (domain : Nat) (interval : Nat), s.fget Reg.ING_DT_CTRL_ptp_en = 0 ∨ port ≠ s.ptpPort ∨ domain ≠ (if 127 < (s.fget
    Reg.ING_DT_CTRL_domain) then 0 else (s.fget Reg.ING_DT_CTRL_domain)) ∨ interval ∉ syncIntervals) ∧
    -- 1.2.1
    (∃ (s : State) (port : Nat) (domain : Nat) (gm : Nat) (interval : Nat) (raw : Int) (offset : _), s.fget Reg.ING_DT_CTRL_ptp_en = 1 ∧ port = s.ptpPort ∧
    domain = (if 127 < (s.fget Reg.ING_DT_CTRL_domain) then 0 else (s.fget Reg.ING_DT_CTRL_domain)) ∧ interval ∈ syncIntervals ∧ gm < 2 ^ 64 ∧ offset
    = raw + (s.fget Reg.ING_PTP_LAT_rx_lat : Int) ∧ s.tim.gm ≠ 0 ∧ s.tim.gm ≠ gm) ∧
    -- 1.2.1 (b)
    (∃ (s : State) (port : Nat) (domain : Nat) (gm : Nat) (interval : Nat) (raw : Int) (offset : _), s.fget Reg.ING_DT_CTRL_ptp_en = 1 ∧ port = s.ptpPort ∧
    domain = (if 127 < (s.fget Reg.ING_DT_CTRL_domain) then 0 else (s.fget Reg.ING_DT_CTRL_domain)) ∧ interval ∈ syncIntervals ∧ gm < 2 ^ 64 ∧ offset
    = raw + (s.fget Reg.ING_PTP_LAT_rx_lat : Int) ∧ s.tim.gm ≠ 0 ∧ s.tim.gm ≠ gm) ∧
    -- 1.2.2.1
    (∃ (s : State) (port : Nat) (domain : Nat) (gm : Nat) (interval : Nat) (raw : Int) (offset : _) (phase : Int), s.fget Reg.ING_DT_CTRL_ptp_en = 1 ∧ port
    = s.ptpPort ∧ domain = (if 127 < (s.fget Reg.ING_DT_CTRL_domain) then 0 else (s.fget Reg.ING_DT_CTRL_domain)) ∧ interval ∈ syncIntervals ∧ gm < 2
    ^ 64 ∧ offset = raw + (s.fget Reg.ING_PTP_LAT_rx_lat : Int) ∧ (s.tim.gm = 0 ∨ s.tim.gm = gm) ∧ phase = offset - i64Of (s.rd Reg.ING_DT_OFFSET) ∧
    s.dtState = 2) ∧
    -- 1.2.2.1 (b)
    (∃ (s : State) (port : Nat) (domain : Nat) (gm : Nat) (interval : Nat) (raw : Int) (offset : _) (phase : Int), s.fget Reg.ING_DT_CTRL_ptp_en = 1 ∧ port
    = s.ptpPort ∧ domain = (if 127 < (s.fget Reg.ING_DT_CTRL_domain) then 0 else (s.fget Reg.ING_DT_CTRL_domain)) ∧ interval ∈ syncIntervals ∧ gm < 2
    ^ 64 ∧ offset = raw + (s.fget Reg.ING_PTP_LAT_rx_lat : Int) ∧ (s.tim.gm = 0 ∨ s.tim.gm = gm) ∧ phase = offset - i64Of (s.rd Reg.ING_DT_OFFSET) ∧
    s.dtState = 2) ∧
    -- 1.2.2.2
    (∃ (s : State) (port : Nat) (domain : Nat) (gm : Nat) (interval : Nat) (raw : Int) (offset : _) (phase : Int), s.fget Reg.ING_DT_CTRL_ptp_en = 1 ∧ port
    = s.ptpPort ∧ domain = (if 127 < (s.fget Reg.ING_DT_CTRL_domain) then 0 else (s.fget Reg.ING_DT_CTRL_domain)) ∧ interval ∈ syncIntervals ∧ gm < 2
    ^ 64 ∧ offset = raw + (s.fget Reg.ING_PTP_LAT_rx_lat : Int) ∧ (s.tim.gm = 0 ∨ s.tim.gm = gm) ∧ phase = offset - i64Of (s.rd Reg.ING_DT_OFFSET) ∧
    s.dtState ≠ 2 ∧ ((s.dtState = 1 ∧ 1000 < phase.natAbs) ∨ (s.dtState = 1 ∧ s.tim.near < 7) ∨ s.dtState ≠ 1)) ∧
    -- 1.2.2.3
    (∃ (s : State) (port : Nat) (domain : Nat) (gm : Nat) (interval : Nat) (raw : Int) (offset : _) (phase : Int), s.fget Reg.ING_DT_CTRL_ptp_en = 1 ∧ port
    = s.ptpPort ∧ domain = (if 127 < (s.fget Reg.ING_DT_CTRL_domain) then 0 else (s.fget Reg.ING_DT_CTRL_domain)) ∧ interval ∈ syncIntervals ∧ gm < 2
    ^ 64 ∧ offset = raw + (s.fget Reg.ING_PTP_LAT_rx_lat : Int) ∧ (s.tim.gm = 0 ∨ s.tim.gm = gm) ∧ phase = offset - i64Of (s.rd Reg.ING_DT_OFFSET) ∧
    s.dtState = 1 ∧ 7 ≤ s.tim.near ∧ phase.natAbs ≤ 1000) ∧
    -- 1.2.2.3 (b)
    (∃ (s : State) (port : Nat) (domain : Nat) (gm : Nat) (interval : Nat) (raw : Int) (offset : _) (phase : Int), s.fget Reg.ING_DT_CTRL_ptp_en = 1 ∧ port
    = s.ptpPort ∧ domain = (if 127 < (s.fget Reg.ING_DT_CTRL_domain) then 0 else (s.fget Reg.ING_DT_CTRL_domain)) ∧ interval ∈ syncIntervals ∧ gm < 2
    ^ 64 ∧ offset = raw + (s.fget Reg.ING_PTP_LAT_rx_lat : Int) ∧ (s.tim.gm = 0 ∨ s.tim.gm = gm) ∧ phase = offset - i64Of (s.rd Reg.ING_DT_OFFSET) ∧
    s.dtState = 1 ∧ 7 ≤ s.tim.near ∧ phase.natAbs ≤ 1000) ∧
    -- 1.2.2.3 (c)
    (∃ (s : State) (port : Nat) (domain : Nat) (gm : Nat) (interval : Nat) (raw : Int) (offset : _) (phase : Int), s.fget Reg.ING_DT_CTRL_ptp_en = 1 ∧ port
    = s.ptpPort ∧ domain = (if 127 < (s.fget Reg.ING_DT_CTRL_domain) then 0 else (s.fget Reg.ING_DT_CTRL_domain)) ∧ interval ∈ syncIntervals ∧ gm < 2
    ^ 64 ∧ offset = raw + (s.fget Reg.ING_PTP_LAT_rx_lat : Int) ∧ (s.tim.gm = 0 ∨ s.tim.gm = gm) ∧ phase = offset - i64Of (s.rd Reg.ING_DT_OFFSET) ∧
    s.dtState = 1 ∧ 7 ≤ s.tim.near ∧ phase.natAbs ≤ 1000) ∧
    -- 2.1
    (∃ (s : State) (lost : Bool), (s.dtState = 1 ∨ s.dtState = 2) ∧ s.fget Reg.ING_DT_STATUS_is_gm = 0 ∧ (lost = true ∨ s.tim.syncAt + 3 * s.tim.syncNs ≤
    s.now)) ∧
    -- 2.1 (b)
    (∃ (s : State) (lost : Bool), (s.dtState = 1 ∨ s.dtState = 2) ∧ s.fget Reg.ING_DT_STATUS_is_gm = 0 ∧ (lost = true ∨ s.tim.syncAt + 3 * s.tim.syncNs ≤
    s.now)) ∧
    -- 2.2
    (∃ (s : State) (lost : Bool), (lost = false ∧ s.now < s.tim.syncAt + 3 * s.tim.syncNs) ∨ s.dtState = 0 ∨ s.dtState = 3 ∨ s.fget Reg.ING_DT_STATUS_is_gm
    = 1) ∧
    -- 3.1
    (∃ (s : State), s.fget Reg.ING_DT_CTRL_ptp_en = 1) ∧
    -- 3.2
    (∃ (s : State), s.fget Reg.ING_DT_CTRL_ptp_en = 1 ∧ s.fget Reg.ING_DT_CTRL_gm_capable = 1 ∧ s.fget Reg.ING_DT_CTRL_ext_port = 0 ∧ (∀ a, s.tim.sentAt =
    some a → a + 10 ^ 9 / 2 ^ min 7 (s.fget Reg.ING_DT_CTRL_sync_lg) ≤ s.now)) ∧
    -- 3.2 (b)
    (∃ (s : State), s.fget Reg.ING_DT_CTRL_ptp_en = 1 ∧ s.fget Reg.ING_DT_CTRL_gm_capable = 1 ∧ s.fget Reg.ING_DT_CTRL_ext_port = 0 ∧ (∀ a, s.tim.sentAt =
    some a → a + 10 ^ 9 / 2 ^ min 7 (s.fget Reg.ING_DT_CTRL_sync_lg) ≤ s.now)) ∧
    -- 3.3
    (∃ (s : State), s.fget Reg.ING_DT_CTRL_ptp_en = 0) ∧
    -- 3.4
    (∃ (s : State), s.fget Reg.ING_DT_CTRL_gm_capable = 0 ∨ s.fget Reg.ING_DT_CTRL_ext_port = 1 ∨ ¬ (∀ a, s.tim.sentAt = some a → a + 10 ^ 9 / 2 ^ min 7
    (s.fget Reg.ING_DT_CTRL_sync_lg) ≤ s.now)) ∧
    -- 3.4 (b)
    (∃ (s : State), s.fget Reg.ING_DT_CTRL_gm_capable = 0 ∨ s.fget Reg.ING_DT_CTRL_ext_port = 1 ∨ ¬ (∀ a, s.tim.sentAt = some a → a + 10 ^ 9 / 2 ^ min 7
    (s.fget Reg.ING_DT_CTRL_sync_lg) ≤ s.now)) ∧
    -- 4.1
    (∃ (s : State) (n : Nat), n < 8 ∧ s.beaconsTo n = false ∧ s.dieUp n = true ∧ n ∉ s.tim.stepDue) ∧
    -- 4.1 (b)
    (∃ (s : State) (n : Nat), n < 8 ∧ s.beaconsTo n = false ∧ s.dieUp n = true ∧ n ∉ s.tim.stepDue) ∧
    -- 4.2
    (∃ (s : State) (n : Nat), n < 8 ∧ s.beaconsTo n = false ∧ s.dieUp n = true ∧ n ∈ s.tim.stepDue) ∧
    -- 4.3
    (∃ (s : State) (n : Nat), n < 8 ∧ s.beaconsTo n = true) ∧
    -- 4.4
    (∃ (s : State) (n : Nat), n < 8 ∧ s.beaconsTo n = false ∧ s.dieUp n = false) ∧
    -- 4.5
    (∃ (s : State) (n : Nat), n < 8 ∧ s.dieUp n = true ∧ s.pow.phase = .running ∧ smGet 0 s.tim.beaconAt n + 10000 ≤ s.now) ∧
    -- 4.6
    (∃ (s : State) (n : Nat), n < 8 ∧ s.now < smGet 0 s.tim.beaconAt n + 10000) :=
  ⟨⟨(wGo []).fset Reg.ING_DT_CTRL_ptp_en 0, 0, 0, 125000000, by decide +kernel⟩,
    ⟨wSync 0 1 [], 5, 0, 125000000, by decide +kernel⟩,
    ⟨{ wSync 5 2 [(⟨Reg.ING_GM_ID, 63, 0⟩, 4)] with tim := { gm := 4 } }, 0, (wSync 5 2 []).fget Reg.ING_DT_CTRL_domain, 5, 125000000, -8, -8, by
    decide +kernel⟩,
    ⟨{ wSync 5 1 [] with tim := { gm := 2 ^ 64 } }, 0, (wSync 5 2 []).fget Reg.ING_DT_CTRL_domain, 5, 125000000, -8, -8, by decide +kernel⟩,
    ⟨{ wSync 5 2 [(⟨Reg.ING_GM_ID, 63, 0⟩, 5)] with tim := { gm := 5 } }, 0, (wSync 5 2 []).fget Reg.ING_DT_CTRL_domain, 5, 125000000, 8, 8, 3, by
    decide +kernel⟩,
    ⟨{ wSync 5 2 [(⟨Reg.ING_GM_ID, 63, 0⟩, 5)] with tim := { gm := 5 } }, 0, (wSync 5 2 []).fget Reg.ING_DT_CTRL_domain, 5, 125000000, -200000, -200000,
    -200005, by decide +kernel⟩,
    ⟨{ wSync 0 1 [] with tim := { near := 6 } }, 0, (wSync 5 2 []).fget Reg.ING_DT_CTRL_domain, 5, 125000000, -1000, -1000, -1000, by decide +kernel⟩,
    ⟨{ wSync 5000 1 [(Reg.ING_DT_CTRL_step_en, 1)] with tim := { near := 7 } }, 0, (wSync 5 2 []).fget Reg.ING_DT_CTRL_domain, 5, 125000000, 6000, 6000,
    1000, by decide +kernel⟩,
    ⟨{ wSync 5000 1 [(Reg.ING_DT_CTRL_step_en, 1)] with tim := { near := 7, everLocked := true, gm := 5 } }, 0, (wSync 5 2 []).fget
    Reg.ING_DT_CTRL_domain, 5, 125000000, 6000, 6000, 1000, by decide +kernel⟩,
    ⟨{ wSync (2 ^ 64 - 5000) 1 [(Reg.ING_DT_CTRL_step_en, 1)] with tim := { near := 7 } }, 0, (wSync 5 2 []).fget Reg.ING_DT_CTRL_domain, 5, 125000000,
    -5000, -5000, 0, by decide +kernel⟩,
    ⟨{ wSync 0 1 [] with tim := { syncAt := 625000000, syncNs := 125000000 } }, false, by decide +kernel⟩,
    ⟨{ wSync 0 2 [] with tim := { syncAt := 1000000000, syncNs := 125000000 } }, true, by decide +kernel⟩,
    ⟨{ wSync 0 2 [] with tim := { syncAt := 625000001, syncNs := 125000000 } }, false, by decide +kernel⟩,
    ⟨wSync 0 2 [], by decide +kernel⟩,
    ⟨{ wSync 0 2 [(Reg.ING_DT_CTRL_gm_capable, 1), (Reg.ING_DT_CTRL_ext_port, 0), (Reg.ING_DT_CTRL_sync_lg, 7)] with tim := { sentAt := some (1000000000 - 7812500) } },
    by decide +kernel, by decide +kernel, by decide +kernel, wSome (1000000000 - 7812500) (by decide +kernel) (by decide +kernel)⟩,
    ⟨wSync 0 2 [(Reg.ING_DT_CTRL_gm_capable, 1), (Reg.ING_DT_CTRL_ext_port, 0)], by decide +kernel, by decide +kernel, by decide +kernel, wNone
    (by decide +kernel)⟩,
    ⟨(wSync 0 2 []).fset Reg.ING_DT_CTRL_ptp_en 0, by decide +kernel⟩,
    ⟨wSync 0 2 [(Reg.ING_DT_CTRL_gm_capable, 0)], by decide +kernel⟩,
    ⟨{ wSync 0 2 [(Reg.ING_DT_CTRL_gm_capable, 1), (Reg.ING_DT_CTRL_ext_port, 0), (Reg.ING_DT_CTRL_sync_lg, 7)] with tim := { sentAt := some (1000000000 - 7812499) } },
    by decide +kernel⟩,
    ⟨wGo [], 1, by decide +kernel⟩,
    ⟨wGo [], 0, by decide +kernel⟩,
    ⟨{ wGo [] with tim := { stepDue := [1] } }, 1, by decide +kernel⟩,
    ⟨wOn (wGo []) [(Reg.PKG_DIE_STATE_die 1, 3), (Reg.RST_DIE_state 1, 5)], 1, by decide +kernel⟩,
    ⟨(wGo []).fset (Reg.PKG_DIE_STATE_die 1) 2, 1, by decide +kernel⟩,
    ⟨{ wGo [] with tim := { beaconAt := [(1, 1000000000 - 10000)] } }, 1, by decide +kernel⟩,
    ⟨{ wGo [] with tim := { beaconAt := [(1, 1000000000 - 9999)] } }, 1, by decide +kernel⟩⟩

theorem wit_TriggersAndFrames :
    -- 1.1
    (∃ (s : State) (n : Nat) (e : Nat), n < 16 ∧ s.fget (Reg.ING_TRIG8_en n) = 1 ∧ s.trigOk n = true ∧ s.edgeBefore n s.now = e ∧ s.now ≤ e + 10 ∧ (∀ l,
    (s.trigAt n).seen = some l → l < e) ∧ (∀ l, (s.trigAt n).edges.head? = some l → (s.trigAt n).changed = true → l + s.fget (Reg.ING_TRIG8_width_us
    n) * 1000 + 1000 ≤ e)) ∧
    -- 1.1 (b)
    (∃ (s : State) (n : Nat) (e : Nat), n < 16 ∧ s.fget (Reg.ING_TRIG8_en n) = 1 ∧ s.trigOk n = true ∧ s.edgeBefore n s.now = e ∧ s.now ≤ e + 10 ∧ (∀ l,
    (s.trigAt n).seen = some l → l < e) ∧ (∀ l, (s.trigAt n).edges.head? = some l → (s.trigAt n).changed = true → l + s.fget (Reg.ING_TRIG8_width_us
    n) * 1000 + 1000 ≤ e)) ∧
    -- 1.2
    (∃ (s : State) (n : Nat) (e : Nat) (l : Nat), n < 16 ∧ s.fget (Reg.ING_TRIG8_en n) = 1 ∧ s.trigOk n = true ∧ s.edgeBefore n s.now = e ∧ s.now ≤ e + 10
    ∧ (∀ l, (s.trigAt n).seen = some l → l < e) ∧ (s.trigAt n).edges.head? = some l ∧ (s.trigAt n).changed = true ∧ e < l + s.fget
    (Reg.ING_TRIG8_width_us n) * 1000 + 1000) ∧
    -- 2
    (∃ (s : State) (n : Nat), s.fget (Reg.ING_TRIG8_en n) = 0 ∨ s.trigOk n = false ∨ (∃ l, (s.trigAt n).seen = some l ∧ s.now ≤ l)) ∧
    -- 2 (b)
    (∃ (s : State) (n : Nat), s.fget (Reg.ING_TRIG8_en n) = 0 ∨ s.trigOk n = false ∨ (∃ l, (s.trigAt n).seen = some l ∧ s.now ≤ l)) ∧
    -- 3
    (∃ (s : State) (n : Nat) (off : Nat), (s.trigAt n).off = some off ∧ off ≤ s.now) ∧
    -- 4
    (∃ (s : State) (port : Nat) (vc : Nat) (n : Nat), s.csiSensor port vc = some n ∧ n < 64) ∧
    -- 4 (b)
    (∃ (s : State) (port : Nat) (vc : Nat) (n : Nat), s.csiSensor port vc = some n ∧ n < 64) ∧
    -- 5.1
    (∃ (s : State) (port : Nat) (vc : Nat) (n : Nat) (dt : Nat) (fill : Nat) (crc : Bool) (f : Frame), s.csiSensor port vc = some n ∧ n < 64 ∧ (s.sensor
    n).cur = some f ∧ f.corrupt = false ∧ crc = false ∧ fill ≤ 262144 ∧ dt = (s.fget (Reg.ING_SENSOR08_dt n))) ∧
    -- 5.2
    (∃ (s : State) (port : Nat) (vc : Nat) (n : Nat) (dt : Nat) (fill : Nat) (crc : Bool) (f : Frame), s.csiSensor port vc = some n ∧ n < 64 ∧ (s.sensor
    n).cur = some f ∧ f.corrupt = false ∧ crc = false ∧ fill ≤ 262144 ∧ dt ≠ (s.fget (Reg.ING_SENSOR08_dt n)) ∧ dt = 0x12) ∧
    -- 5.3
    (∃ (s : State) (port : Nat) (vc : Nat) (n : Nat) (dt : Nat) (fill : Nat) (crc : Bool) (f : Frame), s.csiSensor port vc = some n ∧ n < 64 ∧ (s.sensor
    n).cur = some f ∧ f.corrupt = false ∧ (crc = true ∨ 262144 < fill ∨ (dt ≠ (s.fget (Reg.ING_SENSOR08_dt n)) ∧ dt ≠ 0x12))) ∧
    -- 5.3 (b)
    (∃ (s : State) (port : Nat) (vc : Nat) (n : Nat) (dt : Nat) (fill : Nat) (crc : Bool) (f : Frame), s.csiSensor port vc = some n ∧ n < 64 ∧ (s.sensor
    n).cur = some f ∧ f.corrupt = false ∧ (crc = true ∨ 262144 < fill ∨ (dt ≠ (s.fget (Reg.ING_SENSOR08_dt n)) ∧ dt ≠ 0x12))) ∧
    -- 6.1
    (∃ (s : State) (port : Nat) (vc : Nat) (n : Nat) (f : Frame), s.csiSensor port vc = some n ∧ n < 64 ∧ (s.sensor n).cur = some f ∧ f.corrupt = true) ∧
    -- 6.2
    (∃ (s : State) (port : Nat) (vc : Nat) (n : Nat) (f : Frame), s.csiSensor port vc = some n ∧ n < 64 ∧ (s.sensor n).cur = some f ∧ f.corrupt = false ∧
    f.dropped = false ∧ s.fget Reg.SAF_FF_CTRL_ff_en = 0 ∧ s.fget (Reg.ING_SENSOR00_src n) = 0 ∧ lineBytes (s.fget (Reg.ING_SENSOR08_dt n))
    (readProfile f.prof).inW * (readProfile f.prof).inH ≤ f.data.length) ∧
    -- 6.3
    (∃ (s : State) (port : Nat) (vc : Nat) (n : Nat) (f : Frame), s.csiSensor port vc = some n ∧ n < 64 ∧ (s.sensor n).cur = some f ∧ f.corrupt = false ∧
    s.fget Reg.SAF_FF_CTRL_ff_en = 1 ∧ bit (s.fget Reg.SAF_FF_EN_en) n = true ∧ s.fget (Reg.ING_SENSOR00_emb_en n) = 1 ∧ (s.sensor n).prevCnt = some
    f.counter ∧ n ∉ s.ing.frozen) ∧
    -- 7
    (∃ (s : State) (n : Nat), n < 64 ∧ (s.snState n = 1 ∨ s.snState n = 2 ∨ s.snState n = 3) ∧ (s.sensor n).since + 3 * s.fget (Reg.ING_SENSOR00_period_ns
    n) ≤ s.now) ∧
    -- 7 (b)
    (∃ (s : State) (n : Nat), n < 64 ∧ (s.snState n = 1 ∨ s.snState n = 2 ∨ s.snState n = 3) ∧ (s.sensor n).since + 3 * s.fget (Reg.ING_SENSOR00_period_ns
    n) ≤ s.now) ∧
    -- 8
    (∃ (s : State) (port : Nat) (vc : Nat), s.csiSensor port vc = none) :=
  ⟨⟨wTrig {}, 15, 1000000000, by decide +kernel, by decide +kernel, by decide +kernel, by decide +kernel, by decide +kernel, wNone (by decide +kernel),
    wNone (by decide +kernel)⟩,
    ⟨wTrig { edges := [999000000], seen := some 999000000, changed := true }, 15, 1000000000, by decide +kernel, by decide +kernel, by decide +kernel, by
    decide +kernel, by decide +kernel, wSome 999000000 (by decide +kernel) (by decide +kernel), wSome 999000000 (by decide +kernel)
    (by decide +kernel)⟩,
    ⟨wTrig { edges := [999990000], seen := some 999990000, changed := true }, 15, 1000000000, 999990000, by decide +kernel, by decide +kernel, by
    decide +kernel, by decide +kernel, by decide +kernel, wSome 999990000 (by decide +kernel) (by decide +kernel), by decide +kernel⟩,
    ⟨(wTrig {}).fset (Reg.ING_TRIG8_en 15) 0, 15, by decide +kernel⟩,
    ⟨wTrig { seen := some 1000000000 }, 15, by decide +kernel⟩,
    ⟨wTrig { off := some 1000000000 }, 15, 1000000000, by decide +kernel⟩,
    ⟨wSens 63 {}, 2, 1, 63, by decide +kernel⟩,
    ⟨wSens 0 {}, 2, 1, 0, by decide +kernel⟩,
    ⟨wSens 0 { cur := some { stamp := 5 } }, 2, 1, 0, 0x2A, 262144, false, { stamp := 5 }, by decide +kernel⟩,
    ⟨wSens 0 { cur := some { stamp := 5 } }, 2, 1, 0, 0x12, 0, false, { stamp := 5 }, by decide +kernel⟩,
    ⟨wSens 0 { cur := some { stamp := 5 } }, 2, 1, 0, 0x2A, 0, true, { stamp := 5 }, by decide +kernel⟩,
    ⟨wSens 63 { cur := some { stamp := 5 } }, 2, 1, 63, 0x2A, 262145, false, { stamp := 5 }, by decide +kernel⟩,
    ⟨wSens 63 { cur := some { stamp := 5, corrupt := true } }, 2, 1, 63, { stamp := 5, corrupt := true }, by decide +kernel⟩,
    ⟨(wSens 0 { cur := some { stamp := 5 } }).fset Reg.SAF_FF_CTRL_ff_en 0, 2, 1, 0, { stamp := 5 }, by decide +kernel⟩,
    ⟨wOn (wSens 63 { cur := some { stamp := 5, counter := 8 }, prevCnt := some 8 })
    [(Reg.SAF_FF_CTRL_ff_en, 1), (Reg.SAF_FF_EN_en, 2 ^ 63), (Reg.ING_SENSOR00_emb_en 63, 1)], 2, 1, 63, { stamp := 5, counter := 8 }, by
    decide +kernel⟩,
    ⟨(wSens 0 { since := 1000000000 - 99000000 }).fset (Reg.ING_STAT0_state 0) 1, 0, by decide +kernel⟩,
    ⟨(wSens 63 { since := 0 }).fset (Reg.ING_STAT0_state 63) 3, 63, by decide +kernel⟩,
    ⟨wSens 63 {}, 2, 0, by decide +kernel⟩⟩

def wMod (m st : Nat) (x : LinkMod) : State := (wOn (wGo []) [(Reg.LNK_MOD_state (modReg m).1 (modReg m).2, st)]).setLmod m x
def wFlit : List Byte := let b := leBytes 8 (2 ^ 26 + 7) ++ List.replicate 240 0; b ++ leBytes 8 (crc64 b)
def wPartner (p : PartnerState) (l : List (Fld × Nat)) : State :=
  { wOn (wGo []) l with part := { partReset with partner := true }, lnk := { State.reset.lnk with partner := p } }
def wOffer : Nat := 1 + 2 ^ 8 + 4096 * 2 ^ 16 + 1500 * 2 ^ 32
def wLQ (write : Bool) (len : Nat) : MemReq := { src := 8, agent := 0, addr := 0x008010000000, len := len, write := write, data := if write then List.replicate len 5 else [] }
def wLR (write : Bool) (len dest : Nat) : LinkReq := { id := 4, die := 8, dest := dest, req := wLQ write len }
def wLS (r : LinkReq) (l : List (Fld × Nat)) : State := { wOn (wGo []) l with lnk := { State.reset.lnk with reqs := [r], nextId := 5 } }
def wFw : State := wPartner {} [(Reg.LNK_PARTNER_STATUS_state, 3), (Reg.LNK_PARTNER_STATUS_credits, 1), (Reg.LNK_FW_base 7, 0x004000000000), (Reg.LNK_FW_SIZE_size_mib 7, 1),
  (Reg.LNK_FW_en 7, 1), (Reg.LNK_FW_rd 7, 1)]
def wMarkFlit : List Byte := let b := leBytes 8 (2 * 2 ^ 26) ++ List.replicate 240 0; b ++ leBytes 8 (crc64 b)

set_option maxRecDepth 100000 in
theorem wit_LinkModules :
    -- 1.1
    (∃ (s : State) (m : Nat) (flit : List Byte), s.hasMod m = true ∧ m < 48 ∧ (s.modState m = 2 ∨ s.modState m = 3) ∧ flit.length = 256) ∧
    -- 1.1 (b)
    (∃ (s : State) (m : Nat) (flit : List Byte), s.hasMod m = true ∧ m < 48 ∧ (s.modState m = 2 ∨ s.modState m = 3) ∧ flit.length = 256) ∧
    -- 1.2
    (∃ (s : State) (m : Nat) (flit : List Byte), s.hasMod m = true ∧ m < 48 ∧ (s.modState m = 2 ∨ s.modState m = 3) ∧ flit.length = 256 ∧ ¬ (crc64
    (flit.take 248) = u flit 248 8)) ∧
    -- 1.3
    (∃ (s : State) (m : Nat) (flit : List Byte), s.hasMod m = true ∧ m < 48 ∧ (s.modState m = 2 ∨ s.modState m = 3) ∧ flit.length = 256 ∧ (crc64 (flit.take
    248) = u flit 248 8) ∧ bits (u flit 0 8) 27 26 = 1 ∧ bits (u flit 0 8) 11 0 = (s.lmod m).next ∧ (s.lmod m).discard = false) ∧
    -- 1.2 (b)
    (∃ (s : State) (m : Nat) (flit : List Byte), s.hasMod m = true ∧ m < 48 ∧ (s.modState m = 2 ∨ s.modState m = 3) ∧ flit.length = 256 ∧ ¬ (crc64
    (flit.take 248) = u flit 248 8)) ∧
    -- 1.4
    (∃ (s : State) (m : Nat) (flit : List Byte) (rs : _), s.hasMod m = true ∧ m < 48 ∧ (s.modState m = 2 ∨ s.modState m = 3) ∧ flit.length = 256 ∧ (crc64
    (flit.take 248) = u flit 248 8) ∧ bits (u flit 0 8) 27 26 = 2 ∧ (s.lmod m).discard = true ∧ rs = ((s.now, (s.lmod m).lost) :: (s.lmod
    m).replays).filter (fun r => decide (s.now < r.1 + 10000 * flitNs m)) ∧ sumBy Prod.snd rs ≤ 100) ∧
    -- 2.1
    (∃ (s : State) (m : Nat), (s.modState m = 2 ∨ s.modState m = 3) ∧ (s.lmod m).marker = true) ∧
    -- 2.2
    (∃ (s : State) (m : Nat) (f : TxFlit) (rest : List TxFlit), (s.modState m = 2 ∨ s.modState m = 3) ∧ (s.lmod m).marker = false ∧ (s.lmod m).redo = f ::
    rest) ∧
    -- 2.3
    (∃ (s : State) (m : Nat), (s.modState m = 2 ∨ s.modState m = 3) ∧ (s.lmod m).marker = false ∧ (s.lmod m).redo = [] ∧ (s.lmod m).txQueue = []) ∧
    -- 2.4
    (∃ (s : State) (m : Nat) (f : TxFlit), (s.modState m = 2 ∨ s.modState m = 3) ∧ (s.lmod m).marker = false ∧ (s.lmod m).redo = [] ∧ (s.lmod m).txQueue ≠
    [] ∧ (s.lmod m).sent.length ≤ 63 ∧ (f =
    { seq := (s.lmod m).txNext, first := firstOf ((s.lmod m).txQueue.take 15), slots := ((s.lmod m).txQueue.take 15).flatMap Prod.fst })) ∧
    -- 3.1
    (∃ (s : State) (m : Nat), s.hasMod m = true ∧ m < 48 ∧ m ≠ 8 ∧ s.hasMod (s.farEnd m) = true ∧ s.farEnd m ≠ m) ∧
    -- 3.2
    (∃ (s : State) (m : Nat), s.hasMod m = true ∧ m < 48 ∧ m ≠ 8 ∧ s.hasMod (s.farEnd m) = true ∧ s.farEnd m ≠ m) ∧
    -- 4.1
    (∃ (s : State) (m : Nat) (lanes : Nat) (w : Win) (k : Nat) (fw : _) (fk : _), s.hasMod m = true ∧ m < 48 ∧ s.modState m = 4 ∧ (m = 8 ∨ (s.hasMod
    (s.farEnd m) = true ∧ s.farEnd m ≠ m)) ∧ modReg m = (w, k) ∧ modReg (s.farEnd m) = (fw, fk) ∧ s.fget (Reg.LNK_MOD_rx_repaired w k) + lanes ≤ 4 ∧
    (m ≠ 8 ∨ lanes = 0)) ∧
    -- 4.1 (b)
    (∃ (s : State) (m : Nat) (lanes : Nat) (w : Win) (k : Nat) (fw : _) (fk : _), s.hasMod m = true ∧ m < 48 ∧ s.modState m = 4 ∧ (m = 8 ∨ (s.hasMod
    (s.farEnd m) = true ∧ s.farEnd m ≠ m)) ∧ modReg m = (w, k) ∧ modReg (s.farEnd m) = (fw, fk) ∧ s.fget (Reg.LNK_MOD_rx_repaired w k) + lanes ≤ 4 ∧
    (m ≠ 8 ∨ lanes = 0)) ∧
    -- 4.2
    (∃ (s : State) (m : Nat) (lanes : Nat) (w : Win) (k : Nat) (fw : _) (fk : _) (ok : _), s.hasMod m = true ∧ m < 48 ∧ s.modState m = 4 ∧ (m = 8 ∨
    (s.hasMod (s.farEnd m) = true ∧ s.farEnd m ≠ m)) ∧ modReg m = (w, k) ∧ modReg (s.farEnd m) = (fw, fk) ∧ (ok = false ∨ 4 < s.fget
    (Reg.LNK_MOD_rx_repaired w k) + lanes ∨ (m = 8 ∧ lanes ≠ 0))) ∧
    -- 4.2 (b)
    (∃ (s : State) (m : Nat) (lanes : Nat) (w : Win) (k : Nat) (fw : _) (fk : _) (ok : _), s.hasMod m = true ∧ m < 48 ∧ s.modState m = 4 ∧ (m = 8 ∨
    (s.hasMod (s.farEnd m) = true ∧ s.farEnd m ≠ m)) ∧ modReg m = (w, k) ∧ modReg (s.farEnd m) = (fw, fk) ∧ (ok = false ∨ 4 < s.fget
    (Reg.LNK_MOD_rx_repaired w k) + lanes ∨ (m = 8 ∧ lanes ≠ 0))) ∧
    -- 5.1
    (∃ (s : State) (m : Nat), s.modState m ≠ 2 ∧ s.modState m ≠ 3) ∧
    -- 5.2
    (∃ (s : State) (m : Nat), s.modState m ≠ 4) ∧
    -- 5.3
    (∃ (s : State) (m : Nat), s.modState m ≠ 2) ∧
    -- 5.4
    (∃ (s : State) (m : Nat), s.modState m ≠ 1 ∧ s.modState m ≠ 2) ∧
    -- 5.5
    (∃ (s : State) (m : Nat), (s.lmod m).copying = false) ∧
    -- 6.1
    (∃ (s : State) (m : Nat), s.hasMod m = true ∧ (s.modState m = 2 ∨ s.modState m = 3) ∧ (s.lmod m).goodAt + 256 ≤ s.now) ∧
    -- 6.1 (b)
    (∃ (s : State) (m : Nat), s.hasMod m = true ∧ (s.modState m = 2 ∨ s.modState m = 3) ∧ (s.lmod m).goodAt + 256 ≤ s.now) ∧
    -- 6.2
    (∃ (s : State) (m : Nat), s.hasMod m = true ∧ (s.modState m = 2 ∨ s.modState m = 3) ∧ s.now < (s.lmod m).goodAt + 256) ∧
    -- 7
    (∃ (s : State) (n : Nat) (m : Nat), (m = 17 + 4 * n ∨ m = 18 + 4 * n) ∧ s.part.tzCount ∈ [2, 4, 8] ∧ s.dieUp n = true ∧ s.dieUp (s.faces m) = true ∧
    bit (s.fget Reg.LNK_FENCE_ring) (s.ringOf m) = false) ∧
    -- 7 (b)
    (∃ (s : State) (n : Nat) (m : Nat), (m = 17 + 4 * n ∨ m = 18 + 4 * n) ∧ s.part.tzCount ∈ [2, 4, 8] ∧ s.dieUp n = true ∧ s.dieUp (s.faces m) = true ∧
    bit (s.fget Reg.LNK_FENCE_ring) (s.ringOf m) = false) ∧
    -- 8
    (∃ (s : State) (m : Nat), s.hasMod m = true ∧ (s.modState m = 1 ∨ s.modState m = 2)) ∧
    -- 8 (b)
    (∃ (s : State) (m : Nat), s.hasMod m = true ∧ (s.modState m = 1 ∨ s.modState m = 2)) ∧
    -- 9.1
    (∃ (s : State) (m : Nat) (margin : Nat) (w : Win) (k : Nat), s.hasMod m = true ∧ s.modState m = 2 ∧ (s.lmod m).sweepAt + 1000000 ≤ s.now ∧ modReg m =
    (w, k) ∧ s.fget Reg.LNK_CTRL_eye_warn ≤ min 63 margin) ∧
    -- 9.2
    (∃ (s : State) (m : Nat) (margin : Nat) (w : Win) (k : Nat), s.hasMod m = true ∧ s.modState m = 2 ∧ (s.lmod m).sweepAt + 1000000 ≤ s.now ∧ modReg m =
    (w, k) ∧ min 63 margin < s.fget Reg.LNK_CTRL_eye_warn ∧ (s.lmod m).eyeAt = none) ∧
    -- 10
    (∃ (s : State) (m : Nat) (w : Win) (k : Nat) (fw : _) (fk : _), s.hasMod m = true ∧ m < 48 ∧ m ≠ 8 ∧ s.hasMod (s.farEnd m) = true ∧ s.farEnd m ≠ m ∧
    (s.lmod m).copying = true ∧ modReg m = (w, k) ∧ modReg (s.farEnd m) = (fw, fk)) ∧
    -- 10 (b)
    (∃ (s : State) (m : Nat) (w : Win) (k : Nat) (fw : _) (fk : _), s.hasMod m = true ∧ m < 48 ∧ m ≠ 8 ∧ s.hasMod (s.farEnd m) = true ∧ s.farEnd m ≠ m ∧
    (s.lmod m).copying = true ∧ modReg m = (w, k) ∧ modReg (s.farEnd m) = (fw, fk)) :=
  ⟨⟨wMod 0 2 {}, 0, List.replicate 256 0, by decide +kernel⟩,
    ⟨wMod 22 3 { fails := 2 }, 22, List.replicate 256 0, by decide +kernel⟩,
    ⟨wMod 17 2 {}, 17, List.replicate 256 1, by decide +kernel⟩,
    ⟨wMod 16 2 { next := 7, fails := 1 }, 16, wFlit, by decide +kernel⟩,
    ⟨wMod 17 2 { fails := 3 }, 17, List.replicate 256 1, by decide +kernel⟩,
    ⟨wMod 17 3 { discard := true, lost := 2 }, 17, wMarkFlit, [(1000000000, 2)], by decide +kernel⟩,
    ⟨wMod 17 2 { marker := true, redo := [{ seq := 9, first := 0, slots := [] }] }, 17, by decide +kernel⟩,
    ⟨wMod 8 2 { redo := [{ seq := 9, first := 0, slots := [5] }] }, 8, { seq := 9, first := 0, slots := [5] }, [], by decide +kernel⟩,
    ⟨wMod 0 3 { txNext := 4095 }, 0, by decide +kernel⟩,
    ⟨wMod 0 2 { txNext := 4095, txQueue := List.replicate 17 ([1], true) }, 0, { seq := 4095, first := 0, slots := List.replicate 15 1 }, by
    decide +kernel⟩,
    ⟨wMod 17 2 { fails := 3 }, 17, by decide +kernel⟩,
    ⟨wOn (wMod 17 2 { fails := 3 }) [(modField 22, 2)], 17, by decide +kernel⟩,
    ⟨wOn
    (wMod 1 4 { discard := true, samplers := [1], peerAck := some 3, sent := [{ seq := 3, first := 0, slots := [] }, { seq := 4, first := 0, slots := [] }] })
    [], 1, 4, Win.hub, 1, Win.die 1, 0, by decide +kernel⟩,
    ⟨wMod 21 4 {}, 21, 0, Win.die 1, 1, (modReg ((wGo []).farEnd 21)).1, (modReg ((wGo []).farEnd 21)).2, by decide +kernel⟩,
    ⟨wMod 21 4 {}, 21, 0, Win.die 1, 1, (modReg ((wGo []).farEnd 21)).1, (modReg ((wGo []).farEnd 21)).2, false, by decide +kernel⟩,
    ⟨wMod 0 4 {}, 0, 5, Win.hub, 0, Win.die 0, 0, true, by decide +kernel⟩,
    ⟨wMod 17 5 {}, 17, by decide +kernel⟩,
    ⟨wMod 17 5 {}, 17, by decide +kernel⟩,
    ⟨wMod 17 5 {}, 17, by decide +kernel⟩,
    ⟨wMod 17 5 {}, 17, by decide +kernel⟩,
    ⟨wMod 17 5 {}, 17, by decide +kernel⟩,
    ⟨wMod 0 2 { goodAt := 1000000000 - 256 }, 0, by decide +kernel⟩,
    ⟨wMod 18 3 {}, 18, by decide +kernel⟩,
    ⟨wMod 0 2 { goodAt := 1000000000 - 255 }, 0, by decide +kernel⟩,
    ⟨wGo [], 0, 17, by decide +kernel⟩,
    ⟨wGo [], 1, 22, by decide +kernel⟩,
    ⟨wMod 22 2 {}, 22, by decide +kernel⟩,
    ⟨wMod 0 1 {}, 0, by decide +kernel⟩,
    ⟨wMod 17 2 { samplers := [3, -4] }, 17, 63, Win.die 0, 1, by decide +kernel⟩,
    ⟨(wMod 17 2 { samplers := [3, -4] }).fset Reg.LNK_CTRL_eye_warn 8, 17, 7, Win.die 0, 1, by decide +kernel⟩,
    ⟨wMod 17 2 { copying := true }, 17, Win.die 0, 1, Win.die 1, 2, by decide +kernel⟩,
    ⟨wMod 17 3 { copying := true }, 17, Win.die 0, 1, Win.die 1, 2, by decide +kernel⟩⟩

theorem wit_FencesAndTraining :
    -- 1.1
    (∃ (s : State) (n : Nat) (die : Nat), n < 8 ∧ s.dieUp n = true ∧ s.hasDie die = true ∧ s.dieState die = 2) ∧
    -- 1.2
    (∃ (s : State) (n : Nat) (die : Nat), n < 8 ∧ s.dieUp n = true ∧ s.dieState die ≠ 2) ∧
    -- 1.3
    (∃ (s : State) (n : Nat) (die : Nat), n < 8 ∧ s.dieUp n = true ∧ s.dieUp die = true) ∧
    -- 2.1
    (∃ (s : State) (n : Nat), n < 8 ∧ s.part.tzCount ∈ [2, 4, 8] ∧ s.dieUp n = true ∧ s.dieUp (s.faces (17 + 4 * n)) = true ∧ bit (s.fget
    Reg.LNK_FENCE_ring) n = true ∧ n ∉ s.lnk.ringBack ∧ s.now < smGet 0 s.lnk.ringTry n + 10 ^ 9) ∧
    -- 2.2.1
    (∃ (s : State) (n : Nat) (ok : Bool) (east : Nat) (west : Nat), n < 8 ∧ s.part.tzCount ∈ [2, 4, 8] ∧ s.dieUp n = true ∧ s.dieUp (s.faces (17 + 4 * n))
    = true ∧ bit (s.fget Reg.LNK_FENCE_ring) n = true ∧ n ∉ s.lnk.ringBack ∧ smGet 0 s.lnk.ringTry n + 10 ^ 9 ≤ s.now ∧ ok = true ∧ (s.fget
    (Reg.LNK_MOD_rx_repaired (.die (n)) (1))) + east ≤ 4 ∧ (s.fget (Reg.LNK_MOD_rx_repaired (.die ((s.faces (17 + 4 * n)))) (2))) + west ≤ 4) ∧
    -- 2.2.1 (b)
    (∃ (s : State) (n : Nat) (ok : Bool) (east : Nat) (west : Nat), n < 8 ∧ s.part.tzCount ∈ [2, 4, 8] ∧ s.dieUp n = true ∧ s.dieUp (s.faces (17 + 4 * n))
    = true ∧ bit (s.fget Reg.LNK_FENCE_ring) n = true ∧ n ∉ s.lnk.ringBack ∧ smGet 0 s.lnk.ringTry n + 10 ^ 9 ≤ s.now ∧ ok = true ∧ (s.fget
    (Reg.LNK_MOD_rx_repaired (.die (n)) (1))) + east ≤ 4 ∧ (s.fget (Reg.LNK_MOD_rx_repaired (.die ((s.faces (17 + 4 * n)))) (2))) + west ≤ 4) ∧
    -- 2.2.2
    (∃ (s : State) (n : Nat) (ok : Bool) (east : Nat) (west : Nat), n < 8 ∧ s.part.tzCount ∈ [2, 4, 8] ∧ s.dieUp n = true ∧ s.dieUp (s.faces (17 + 4 * n))
    = true ∧ bit (s.fget Reg.LNK_FENCE_ring) n = true ∧ n ∉ s.lnk.ringBack ∧ smGet 0 s.lnk.ringTry n + 10 ^ 9 ≤ s.now ∧ (ok = false ∨ 4 < (s.fget
    (Reg.LNK_MOD_rx_repaired (.die (n)) (1))) + east ∨ 4 < (s.fget (Reg.LNK_MOD_rx_repaired (.die ((s.faces (17 + 4 * n)))) (2))) + west)) ∧
    -- 2.2.2 (b)
    (∃ (s : State) (n : Nat) (ok : Bool) (east : Nat) (west : Nat), n < 8 ∧ s.part.tzCount ∈ [2, 4, 8] ∧ s.dieUp n = true ∧ s.dieUp (s.faces (17 + 4 * n))
    = true ∧ bit (s.fget Reg.LNK_FENCE_ring) n = true ∧ n ∉ s.lnk.ringBack ∧ smGet 0 s.lnk.ringTry n + 10 ^ 9 ≤ s.now ∧ (ok = false ∨ 4 < (s.fget
    (Reg.LNK_MOD_rx_repaired (.die (n)) (1))) + east ∨ 4 < (s.fget (Reg.LNK_MOD_rx_repaired (.die ((s.faces (17 + 4 * n)))) (2))) + west)) ∧
    -- 3.1
    (∃ (s : State) (n : Nat), n < 8 ∧ s.dieUp n = true ∧ s.pow.phase = .booting ∧ s.modState n = 1 ∧ s.fget (Reg.RST_DIE_state n) ≠ 4) ∧
    -- 4
    (∃ (s : State) (w : Nat), s.part.partner = true ∧ s.fget Reg.LNK_PARTNER_STATUS_state = 2 ∧ s.lnk.partner.step = 4 ∧ s.lnk.partner.offer = w) ∧
    -- 5.1
    (∃ (s : State) (ok : Bool), s.part.partner = true ∧ s.lnk.partner.step = 1 ∧ ok = true) ∧
    -- 5.2
    (∃ (s : State) (ok : Bool), s.part.partner = true ∧ s.lnk.partner.step = 1 ∧ ok = false) ∧
    -- 5.3
    (∃ (s : State) (ok : Bool) (tx : Nat) (rx : Nat), s.part.partner = true ∧ s.lnk.partner.step = 4 ∧ s.fget Reg.LNK_PARTNER_STATUS_state = 2 ∧ (ok =
    false ∨ tx + rx ≠ 0)) ∧
    -- 6
    (∃ (s : State), s.lnk.partner.step ≠ 2) ∧
    -- 7.1
    (∃ (s : State) (w : Nat), w < 2 ^ 64 ∧ s.lnk.partner.step = 2 ∧ offerOk w = true) ∧
    -- 7.2
    (∃ (s : State) (w : Nat), w < 2 ^ 64 ∧ s.lnk.partner.step = 2 ∧ offerOk w = false) ∧
    -- 8.1
    (∃ (s : State), s.lnk.partner.step ≠ 0 ∧ s.lnk.partner.since + 10000000 ≤ s.now) ∧
    -- 8.2
    (∃ (s : State), s.lnk.partner.step = 0 ∨ s.now < s.lnk.partner.since + 10000000) ∧
    -- 9
    (∃ (s : State) (st : Nat), st < 8 ∧ (∀ r ∈ s.lnk.reqs, r.dest ≠ 9)) ∧
    -- 10
    (∃ (s : State) (at_ : Nat), s.lnk.partner.retryAt = some at_ ∧ at_ ≤ s.now ∧ s.fget Reg.LNK_PARTNER_STATUS_state = 4 ∧ s.fget Reg.LNK_CTRL_auto_retry =
    1 ∧ s.fget Reg.LNK_CTRL_partner_en = 1 ∧ s.part.partner = true ∧ s.saf.partnerOff = false) ∧
    -- 11
    (∃ (s : State), s.lnk.partner.retryAt = none ∨ s.fget Reg.LNK_CTRL_auto_retry = 0 ∨ s.fget Reg.LNK_PARTNER_STATUS_state ≠ 4) :=
  ⟨⟨(wGo []).fset (Reg.PKG_DIE_STATE_die 1) 2, 0, 1, by decide +kernel⟩,
    ⟨wGo [], 0, 1, by decide +kernel⟩,
    ⟨{ wGo [] with lnk := { State.reset.lnk with barred := [17, 22] } }, 0, 1, by decide +kernel⟩,
    ⟨{ (wGo []).fset Reg.LNK_FENCE_ring 3 with lnk := { State.reset.lnk with ringTry := [(1, 1)] } }, 1, by decide +kernel⟩,
    ⟨(wGo []).fset Reg.LNK_FENCE_ring 3, 1, true, 4, 1, by decide +kernel⟩,
    ⟨(wGo []).fset Reg.LNK_FENCE_ring 3, 0, true, 0, 0, by decide +kernel⟩,
    ⟨(wGo []).fset Reg.LNK_FENCE_ring 3, 0, false, 0, 0, by decide +kernel⟩,
    ⟨(wGo []).fset Reg.LNK_FENCE_ring 3, 0, true, 5, 0, by decide +kernel⟩,
    ⟨{ wMod 0 1 {} with pow := { wUp.pow with phase := .booting } }, 0, by decide +kernel⟩,
    ⟨wPartner { step := 4, offer := wOffer } [(Reg.LNK_PARTNER_STATUS_state, 2)], wOffer, by decide +kernel⟩,
    ⟨wPartner { step := 1 } [], true, by decide +kernel⟩,
    ⟨wPartner { step := 1 } [], false, by decide +kernel⟩,
    ⟨wPartner { step := 4, offer := wOffer } [(Reg.LNK_PARTNER_STATUS_state, 2)], true, 1, 0, by decide +kernel⟩,
    ⟨wPartner { step := 1 } [], by decide +kernel⟩,
    ⟨wPartner { step := 2 } [], wOffer, by decide +kernel⟩,
    ⟨wPartner { step := 2 } [], wOffer + 2 ^ 16, by decide +kernel⟩,
    ⟨wPartner { step := 1, since := 990000000 } [], by decide +kernel⟩,
    ⟨wPartner { step := 2, since := 990000001 } [], by decide +kernel⟩,
    ⟨wPartner { step := 4 } [], 7, by decide +kernel⟩,
    ⟨wPartner { retryAt := some 1000000000 } [(Reg.LNK_PARTNER_STATUS_state, 4), (Reg.LNK_CTRL_auto_retry, 1), (Reg.LNK_CTRL_partner_en, 1)], 1000000000,
    by decide +kernel⟩,
    ⟨wPartner {} [], by decide +kernel⟩⟩

theorem wit_RequestsAndResponses :
    -- 1.1
    (∃ (s : State) (id : Nat) (ecc : Nat) (c : Instr) (ok : MemReq → Bool) (r : LinkReq), (c, ok) ∈ [(Instr.read id ecc, fun (q : MemReq) => !q.write),
    (Instr.write id ecc, fun (q : MemReq) => q.write && q.len == 256 && q.comb.isNone), (Instr.writePart id ecc, fun (q : MemReq) => q.write &&
    !(q.len == 256 && q.comb.isNone))] ∧ s.req? id = some r ∧ (r.reached = true ∨ ok r.req = false ∨ s.nextReq r = false ∨ s.stalled r.die r.dest
    r.req.addr = true)) ∧
    -- 1.1 (b)
    (∃ (s : State) (id : Nat) (ecc : Nat) (c : Instr) (ok : MemReq → Bool) (r : LinkReq), (c, ok) ∈ [(Instr.read id ecc, fun (q : MemReq) => !q.write),
    (Instr.write id ecc, fun (q : MemReq) => q.write && q.len == 256 && q.comb.isNone), (Instr.writePart id ecc, fun (q : MemReq) => q.write &&
    !(q.len == 256 && q.comb.isNone))] ∧ s.req? id = some r ∧ (r.reached = true ∨ ok r.req = false ∨ s.nextReq r = false ∨ s.stalled r.die r.dest
    r.req.addr = true)) ∧
    -- 1.2.1
    (∃ (s : State) (id : Nat) (ecc : Nat) (c : Instr) (ok : MemReq → Bool) (r : LinkReq), (c, ok) ∈ [(Instr.read id ecc, fun (q : MemReq) => !q.write),
    (Instr.write id ecc, fun (q : MemReq) => q.write && q.len == 256 && q.comb.isNone), (Instr.writePart id ecc, fun (q : MemReq) => q.write &&
    !(q.len == 256 && q.comb.isNone))] ∧ s.req? id = some r ∧ r.reached = false ∧ ok r.req = true ∧ s.nextReq r = true ∧ s.stalled r.die r.dest
    r.req.addr = false ∧ r.dest = 9 ∧ s.atPartner < s.fget Reg.LNK_PARTNER_STATUS_max_out) ∧
    -- 1.2.2
    (∃ (s : State) (id : Nat) (ecc : Nat) (c : Instr) (ok : MemReq → Bool) (r : LinkReq), (c, ok) ∈ [(Instr.read id ecc, fun (q : MemReq) => !q.write),
    (Instr.write id ecc, fun (q : MemReq) => q.write && q.len == 256 && q.comb.isNone), (Instr.writePart id ecc, fun (q : MemReq) => q.write &&
    !(q.len == 256 && q.comb.isNone))] ∧ s.req? id = some r ∧ r.reached = false ∧ ok r.req = true ∧ s.nextReq r = true ∧ s.stalled r.die r.dest
    r.req.addr = false ∧ r.dest = 9 ∧ s.fget Reg.LNK_PARTNER_STATUS_max_out ≤ s.atPartner) ∧
    -- 1.2.3
    (∃ (s : State) (id : Nat) (ecc : Nat) (c : Instr) (ok : MemReq → Bool) (r : LinkReq), (c, ok) ∈ [(Instr.read id ecc, fun (q : MemReq) => !q.write),
    (Instr.write id ecc, fun (q : MemReq) => q.write && q.len == 256 && q.comb.isNone), (Instr.writePart id ecc, fun (q : MemReq) => q.write &&
    !(q.len == 256 && q.comb.isNone))] ∧ s.req? id = some r ∧ r.reached = false ∧ ok r.req = true ∧ s.nextReq r = true ∧ s.stalled r.die r.dest
    r.req.addr = false ∧ r.dest ≠ 9) ∧
    -- 1.2.3 (b)
    (∃ (s : State) (id : Nat) (ecc : Nat) (c : Instr) (ok : MemReq → Bool) (r : LinkReq), (c, ok) ∈ [(Instr.read id ecc, fun (q : MemReq) => !q.write),
    (Instr.write id ecc, fun (q : MemReq) => q.write && q.len == 256 && q.comb.isNone), (Instr.writePart id ecc, fun (q : MemReq) => q.write &&
    !(q.len == 256 && q.comb.isNone))] ∧ s.req? id = some r ∧ r.reached = false ∧ ok r.req = true ∧ s.nextReq r = true ∧ s.stalled r.die r.dest
    r.req.addr = false ∧ r.dest ≠ 9) ∧
    -- 2.1
    (∃ (s : State) (id : Nat) (kind : Nat) (r : LinkReq) (data : List Byte) (d : List Byte) (chk : Nat) (e : Nat) (gen : Bool) (c : Instr), s.req? id =
    some r ∧ s.stalled r.dest r.die r.req.addr = false ∧ r.dest ≠ 9 ∧ r.resp = some (d, chk, e) ∧ (c, r.req.write, decide (e = 0)) ∈ [(Instr.rdResp id
    ⟨data, gen⟩, false, true), (Instr.wrResp id, true, true), (Instr.errResp id kind, r.req.write, false)] ∧ ((e = 0 ∧ r.req.write = false) ∨ chk = 0)
    ∧ (e = 0 → r.req.write = true → d = []) ∧ r.late = false ∧ r.gone = false) ∧
    -- 2.1 (b)
    (∃ (s : State) (id : Nat) (kind : Nat) (r : LinkReq) (data : List Byte) (d : List Byte) (chk : Nat) (e : Nat) (gen : Bool) (c : Instr), s.req? id =
    some r ∧ s.stalled r.dest r.die r.req.addr = false ∧ r.dest ≠ 9 ∧ r.resp = some (d, chk, e) ∧ (c, r.req.write, decide (e = 0)) ∈ [(Instr.rdResp id
    ⟨data, gen⟩, false, true), (Instr.wrResp id, true, true), (Instr.errResp id kind, r.req.write, false)] ∧ ((e = 0 ∧ r.req.write = false) ∨ chk = 0)
    ∧ (e = 0 → r.req.write = true → d = []) ∧ r.late = false ∧ r.gone = false) ∧
    -- 2.1 (c)
    (∃ (s : State) (id : Nat) (kind : Nat) (r : LinkReq) (data : List Byte) (d : List Byte) (chk : Nat) (e : Nat) (gen : Bool) (c : Instr), s.req? id =
    some r ∧ s.stalled r.dest r.die r.req.addr = false ∧ r.dest ≠ 9 ∧ r.resp = some (d, chk, e) ∧ (c, r.req.write, decide (e = 0)) ∈ [(Instr.rdResp id
    ⟨data, gen⟩, false, true), (Instr.wrResp id, true, true), (Instr.errResp id kind, r.req.write, false)] ∧ ((e = 0 ∧ r.req.write = false) ∨ chk = 0)
    ∧ (e = 0 → r.req.write = true → d = []) ∧ r.late = false ∧ r.gone = false) ∧
    -- 2.2
    (∃ (s : State) (id : Nat) (kind : Nat) (r : LinkReq) (data : List Byte) (d : List Byte) (chk : Nat) (e : Nat) (gen : Bool) (c : Instr), s.req? id =
    some r ∧ s.stalled r.dest r.die r.req.addr = false ∧ r.dest ≠ 9 ∧ r.resp = some (d, chk, e) ∧ (c, r.req.write, decide (e = 0)) ∈ [(Instr.rdResp id
    ⟨data, gen⟩, false, true), (Instr.wrResp id, true, true), (Instr.errResp id kind, r.req.write, false)] ∧ ((e = 0 ∧ r.req.write = false) ∨ chk = 0)
    ∧ (e = 0 → r.req.write = true → d = []) ∧ r.late = false ∧ r.gone = true) ∧
    -- 2.3
    (∃ (s : State) (id : Nat) (kind : Nat) (r : LinkReq) (data : List Byte) (d : List Byte) (chk : Nat) (e : Nat) (gen : Bool) (c : Instr), s.req? id =
    some r ∧ s.stalled r.dest r.die r.req.addr = false ∧ r.dest ≠ 9 ∧ r.resp = some (d, chk, e) ∧ (c, r.req.write, decide (e = 0)) ∈ [(Instr.rdResp id
    ⟨data, gen⟩, false, true), (Instr.wrResp id, true, true), (Instr.errResp id kind, r.req.write, false)] ∧ ((e = 0 ∧ r.req.write = false) ∨ chk = 0)
    ∧ (e = 0 → r.req.write = true → d = []) ∧ r.late = true) ∧
    -- 3.1
    (∃ (s : State) (id : Nat) (r : LinkReq), s.req? id = some r ∧ s.stalled 9 r.die r.req.addr = false ∧ r.dest = 9 ∧ r.reached = true ∧ r.late = false ∧
    r.gone = false ∧ r.req.write = false) ∧
    -- 3.2
    (∃ (s : State) (id : Nat) (r : LinkReq), s.req? id = some r ∧ s.stalled 9 r.die r.req.addr = false ∧ r.dest = 9 ∧ r.reached = true ∧ r.late = false ∧
    r.gone = false ∧ r.req.write = true) ∧
    -- 3.3
    (∃ (s : State) (id : Nat) (r : LinkReq), s.req? id = some r ∧ s.stalled 9 r.die r.req.addr = false ∧ r.dest = 9 ∧ r.reached = true ∧ r.late = false ∧
    r.gone = false) ∧
    -- 4
    (∃ (s : State) (id : Nat) (r : LinkReq), s.req? id = some r ∧ s.stalled r.dest r.die r.req.addr = true) ∧
    -- 5.1
    (∃ (s : State) (id : Nat) (r : LinkReq), s.req? id = some r ∧ r.late = false ∧ r.gone = false ∧ s.now ≤ r.start + 2000) ∧
    -- 5.2
    (∃ (s : State) (id : Nat) (r : LinkReq), s.req? id = some r ∧ r.late = false ∧ r.gone = false ∧ r.start + 2000 < s.now) ∧
    -- 5.3
    (∃ (s : State) (id : Nat) (r : LinkReq), s.req? id = some r ∧ r.late = false ∧ r.gone = false ∧ r.sent = none) ∧
    -- 5.4.1
    (∃ (s : State) (id : Nat) (r : LinkReq) (sent : Nat), s.req? id = some r ∧ r.late = false ∧ r.gone = false ∧ r.sent = some sent ∧ s.now ≤ sent + 1500) ∧
    -- 5.4.2
    (∃ (s : State) (id : Nat) (r : LinkReq) (sent : Nat), s.req? id = some r ∧ r.late = false ∧ r.gone = false ∧ r.sent = some sent ∧ sent + 1500 < s.now) ∧
    -- 6.1
    (∃ (s : State) (addr : Nat) (len : Nat) (data : Option (List Byte)) (n : Nat), s.fget Reg.LNK_PARTNER_STATUS_state = 3 ∧ s.partnerOut < s.fget
      Reg.LNK_PARTNER_STATUS_credits ∧ n = (match data with
    | some d => d.length
    | none => len) ∧ n ≠ 0 ∧ addr % 256 + n ≤ 256 ∧ s.fwAllows addr n data.isSome = true) ∧
    -- 6.1 (b)
    (∃ (s : State) (addr : Nat) (len : Nat) (data : Option (List Byte)) (n : Nat), s.fget Reg.LNK_PARTNER_STATUS_state = 3 ∧ s.partnerOut < s.fget
      Reg.LNK_PARTNER_STATUS_credits ∧ n = (match data with
    | some d => d.length
    | none => len) ∧ n ≠ 0 ∧ addr % 256 + n ≤ 256 ∧ s.fwAllows addr n data.isSome = true) ∧
    -- 6.2
    (∃ (s : State) (addr : Nat) (len : Nat) (data : Option (List Byte)) (n : Nat), s.fget Reg.LNK_PARTNER_STATUS_state = 3 ∧ s.partnerOut < s.fget
      Reg.LNK_PARTNER_STATUS_credits ∧ n = (match data with
    | some d => d.length
    | none => len) ∧ n ≠ 0 ∧ addr % 256 + n ≤ 256 ∧ s.fwAllows addr n data.isSome = false) ∧
    -- 6.2 (b)
    (∃ (s : State) (addr : Nat) (len : Nat) (data : Option (List Byte)) (n : Nat), s.fget Reg.LNK_PARTNER_STATUS_state = 3 ∧ s.partnerOut < s.fget
      Reg.LNK_PARTNER_STATUS_credits ∧ n = (match data with
    | some d => d.length
    | none => len) ∧ n ≠ 0 ∧ addr % 256 + n ≤ 256 ∧ s.fwAllows addr n data.isSome = false) ∧
    -- 7
    (∃ (s : State), s.fget Reg.LNK_PARTNER_STATUS_state ≠ 3 ∨ s.fget Reg.LNK_PARTNER_STATUS_credits ≤ s.partnerOut) ∧
    -- 8
    (∃ (s : State), s.lnk.partner.queue = []) ∧
    -- 9.1
    (∃ (s : State) (q : MemReq) (rest : List MemReq), s.lnk.partner.queue = q :: rest ∧ s.sysPort 0xA 0 (s.target 0xA q.addr) = none) ∧
    -- 9.2.1
    (∃ (s : State) (q : MemReq) (rest : List MemReq) (a : Nat) (b : Nat) (share : Nat), s.lnk.partner.queue = q :: rest ∧ s.sysPort 0xA 0 (s.target 0xA
    q.addr) = some (a, b, share) ∧ (share = 0 ∨ s.now < s.lnk.partner.next)) ∧
    -- 9.2.2
    (∃ (s : State) (q : MemReq) (rest : List MemReq) (a : Nat) (b : Nat) (share : Nat), s.lnk.partner.queue = q :: rest ∧ s.sysPort 0xA 0 (s.target 0xA
    q.addr) = some (a, b, share) ∧ share ≠ 0 ∧ s.lnk.partner.next ≤ s.now) :=
  ⟨⟨wLS { wLR false 256 9 with reached := true } [(Reg.LNK_PARTNER_STATUS_max_out, 1)], 4, 0, Instr.read 4 0, fun (q : MemReq) => !q.write,
    { wLR false 256 9 with reached := true }, by simp, by decide +kernel⟩,
    ⟨wLS (wLR false 256 1) [(modField 1, 4)], 4, 0, Instr.read 4 0, fun (q : MemReq) => !q.write, wLR false 256 1, by simp, by decide +kernel⟩,
    ⟨wLS (wLR false 256 9) [(Reg.LNK_PARTNER_STATUS_max_out, 1)], 4, 0, Instr.read 4 0, fun (q : MemReq) => !q.write, wLR false 256 9, by simp, by
    decide +kernel⟩,
    ⟨wLS (wLR false 256 9) [], 4, 0, Instr.read 4 0, fun (q : MemReq) => !q.write, wLR false 256 9, by simp, by decide +kernel⟩,
    ⟨wLS (wLR true 256 1) [], 4, 0, Instr.write 4 0, fun (q : MemReq) => q.write && q.len == 256 && q.comb.isNone, wLR true 256 1, by simp, by
    decide +kernel⟩,
    ⟨wLS (wLR true 4 1) [], 4, 0, Instr.writePart 4 0, fun (q : MemReq) => q.write && !(q.len == 256 && q.comb.isNone), wLR true 4 1, by simp, by
    decide +kernel⟩,
    ⟨wLS { wLR false 4 1 with reached := true, resp := some ([1, 2, 3, 4], 7, 0) } [], 4, 0,
    { wLR false 4 1 with reached := true, resp := some ([1, 2, 3, 4], 7, 0) }, [1, 2, 3, 4], [1, 2, 3, 4], 7, 0, false, Instr.rdResp 4 ⟨[1, 2, 3, 4],
    false⟩, by decide +kernel⟩,
    ⟨wLS { wLR true 4 1 with reached := true, resp := some ([], 0, 0) } [], 4, 0, { wLR true 4 1 with reached := true, resp := some ([], 0, 0) }, [], [],
    0, 0, false, Instr.wrResp 4, by decide +kernel⟩,
    ⟨wLS { wLR false 4 1 with reached := true, resp := some ([], 0, 3) } [], 4, 2, { wLR false 4 1 with reached := true, resp := some ([], 0, 3) }, [],
    [], 0, 3, false, Instr.errResp 4 2, by decide +kernel⟩,
    ⟨wLS { wLR true 4 1 with reached := true, resp := some ([], 0, 3), gone := true } [], 4, 2,
    { wLR true 4 1 with reached := true, resp := some ([], 0, 3), gone := true }, [], [], 0, 3, false, Instr.errResp 4 2, by decide +kernel⟩,
    ⟨wLS { wLR true 4 1 with reached := true, resp := some ([], 0, 3), late := true } [], 4, 2,
    { wLR true 4 1 with reached := true, resp := some ([], 0, 3), late := true }, [], [], 0, 3, false, Instr.errResp 4 2, by decide +kernel⟩,
    ⟨wLS { wLR false 4 9 with reached := true } [], 4, { wLR false 4 9 with reached := true }, by decide +kernel⟩,
    ⟨wLS { wLR true 4 9 with reached := true } [], 4, { wLR true 4 9 with reached := true }, by decide +kernel⟩,
    ⟨wLS { wLR true 4 9 with reached := true } [], 4, { wLR true 4 9 with reached := true }, by decide +kernel⟩,
    ⟨wLS { wLR true 4 1 with reached := true } [(modField 1, 4)], 4, { wLR true 4 1 with reached := true }, by decide +kernel⟩,
    ⟨wLS { wLR false 4 1 with start := 1000000000 - 2000 } [], 4, { wLR false 4 1 with start := 1000000000 - 2000 }, by decide +kernel⟩,
    ⟨wLS { wLR false 4 1 with start := 1000000000 - 2001 } [], 4, { wLR false 4 1 with start := 1000000000 - 2001 }, by decide +kernel⟩,
    ⟨wLS { wLR false 4 1 with start := 1000000000 - 2001 } [], 4, { wLR false 4 1 with start := 1000000000 - 2001 }, by decide +kernel⟩,
    ⟨wLS { wLR false 4 9 with start := 1000000000 - 1600, sent := some (1000000000 - 1500), reached := true } [], 4,
    { wLR false 4 9 with start := 1000000000 - 1600, sent := some (1000000000 - 1500), reached := true }, 1000000000 - 1500, by decide +kernel⟩,
    ⟨wLS { wLR false 4 9 with start := 1000000000 - 1600, sent := some (1000000000 - 1501), reached := true } [], 4,
    { wLR false 4 9 with start := 1000000000 - 1600, sent := some (1000000000 - 1501), reached := true }, 1000000000 - 1501, by decide +kernel⟩,
    ⟨wFw, 0x0040000FFFFF, 1, none, 1, by decide +kernel⟩,
    ⟨wFw.fset (Reg.LNK_FW_wr 7) 1, 0x004000000000, 1, some (List.replicate 256 1), 256, by decide +kernel⟩,
    ⟨wFw, 0x004000000000, 0, some [1, 2], 2, by decide +kernel⟩,
    ⟨wFw, 0x004000100000, 256, none, 256, by decide +kernel⟩,
    ⟨wFw.fset Reg.LNK_PARTNER_STATUS_state 4, by decide +kernel⟩,
    ⟨wFw, by decide +kernel⟩,
    ⟨wPartner { queue := [{ src := 0xA, agent := 0, addr := 0x00F000000000, len := 8 }], next := 2000000000 } [],
    { src := 0xA, agent := 0, addr := 0x00F000000000, len := 8 }, [], by decide +kernel⟩,
    ⟨wPartner { queue := [{ src := 0xA, agent := 0, addr := 0x004000000000, len := 256 }], next := 1000000001 } [],
    { src := 0xA, agent := 0, addr := 0x004000000000, len := 256 }, [], 517, 5, (wGo []).fget Reg.BWR_HUB_BUD_partner, by decide +kernel⟩,
    ⟨wPartner { queue := [{ src := 0xA, agent := 0, addr := 0x004000000000, len := 256 }], next := 1000000000 } [],
    { src := 0xA, agent := 0, addr := 0x004000000000, len := 256 }, [], 517, 5, (wGo []).fget Reg.BWR_HUB_BUD_partner, by decide +kernel⟩⟩

def wBrown : State := { wGo [] with pow := { wUp.pow with wdKick := some 1000000, refLost := some 999900000 } }

theorem wit_ResetsClear :
    -- 1.1
    (∃ (s : State) (causes : Nat) (cs : Nat) (a : Nat), s.part.tzCount ∈ [2, 4, 8] ∧ cs = causes ||| (if s.fget Reg.PWR_STBY_in_standby = 1 then 2 ^ 9 else
    0) ∧ keptByApp a = true ∧ a ≠ Reg.RST_CAUSE ∧ a ≠ Reg.SAF_STATUS) ∧
    -- 1.2
    (∃ (s : State) (causes : Nat) (cs : Nat) (i : Nat), s.part.tzCount ∈ [2, 4, 8] ∧ cs = causes ||| (if s.fget Reg.PWR_STBY_in_standby = 1 then 2 ^ 9 else
    0) ∧ i ≠ Reg.SAF_STATUS_start_done.lo) ∧
    -- 1.3
    (∃ (s : State) (causes : Nat) (cs : Nat), s.part.tzCount ∈ [2, 4, 8] ∧ cs = causes ||| (if s.fget Reg.PWR_STBY_in_standby = 1 then 2 ^ 9 else 0)) ∧
    -- 1.4
    (∃ (s : State) (causes : Nat) (cs : Nat) (a : Nat), s.part.tzCount ∈ [2, 4, 8] ∧ cs = causes ||| (if s.fget Reg.PWR_STBY_in_standby = 1 then 2 ^ 9 else
    0) ∧ keptByApp a = false ∧ (a < 0x00F100000000 ∨ 0x00F200000000 ≤ a) ∧ a ∉ [Reg.HLT_SCORE, Reg.SEC_STATUS, Reg.MEM_STATUS .hub, Reg.CHK_ISL .hub,
    Reg.HLT_SPARES] ∧ (∀ d, d < 8 → a ≠ Reg.RST_DIE d)) ∧
    -- 1.10
    (∃ (s : State) (causes : Nat) (cs : Nat) (d : Nat), s.part.tzCount ∈ [2, 4, 8] ∧ cs = causes ||| (if s.fget Reg.PWR_STBY_in_standby = 1 then 2 ^ 9 else
    0) ∧ d < 8) ∧
    -- 3
    (∃ (s : State), s.part.tzCount ∈ [2, 4, 8]) :=
  ⟨⟨wOn (wGo []) [(Reg.RST_CAUSE_app_count, 3), (Reg.HLT_SCORE_withdraw, 3)], 8, 8, Reg.RST_BACKUP 63, by decide +kernel⟩,
    ⟨wOn (wGo []) [(Reg.RST_CAUSE_app_count, 3), (Reg.SAF_STATUS_deimos_ok, 1)], 8, 8, 3, by decide +kernel⟩,
    ⟨wOn (wGo []) [(Reg.RST_CAUSE_app_count, 3), (Reg.SAF_STATUS_start_done, 1), (Reg.PWR_STBY_in_standby, 1)], 8, 520, by decide +kernel⟩,
    ⟨wGo [], 32, 32, Reg.PLN_PERIOD, by decide +kernel⟩,
    ⟨wOn (wGo []) [(Reg.RST_DIE_rejoins 1, 3), (Reg.RST_DIE_state 1, 2)], 32, 32, 1, by decide +kernel⟩,
    ⟨wGo [], by decide +kernel⟩⟩

theorem wit_ResetSources :
    -- 1.1
    (∃ (s : State) (c : Instr) (also : Nat) (low : Nat) (m : Nat) (due : Bool), s.pow.phase ≠ .stopped ∧ ((c, m, due) ∈ [(Instr.safetyReset low also, 2,
      decide (10000 ≤ low)), (Instr.resetPin low also, 8, decide (1000 ≤ low)), (Instr.syswdExpiry also, 16, match s.pow.wdKick with
    | some k => decide (k + max 1 (s.fget Reg.RST_SYSWD_timeout_ms) * 1000000 ≤ s.now)
    | none => false), (Instr.lockup also, 256, decide (s.pow.phase = .booting ∨ s.pow.phase = .running)), (Instr.clockFailure also, 128, (match
      s.pow.refLost with
    | some f => decide (f + 100000 ≤ s.now)
    | none => false) || (match s.pow.lockLost with
    | some f => decide (f + 100000 ≤ s.now)
    | none => false))]) ∧ due = false) ∧
    -- 1.1 (b)
    (∃ (s : State) (c : Instr) (also : Nat) (low : Nat) (m : Nat) (due : Bool), s.pow.phase ≠ .stopped ∧ ((c, m, due) ∈ [(Instr.safetyReset low also, 2,
      decide (10000 ≤ low)), (Instr.resetPin low also, 8, decide (1000 ≤ low)), (Instr.syswdExpiry also, 16, match s.pow.wdKick with
    | some k => decide (k + max 1 (s.fget Reg.RST_SYSWD_timeout_ms) * 1000000 ≤ s.now)
    | none => false), (Instr.lockup also, 256, decide (s.pow.phase = .booting ∨ s.pow.phase = .running)), (Instr.clockFailure also, 128, (match
      s.pow.refLost with
    | some f => decide (f + 100000 ≤ s.now)
    | none => false) || (match s.pow.lockLost with
    | some f => decide (f + 100000 ≤ s.now)
    | none => false))]) ∧ due = false) ∧
    -- 1.2
    (∃ (s : State) (c : Instr) (also : Nat) (low : Nat) (m : Nat) (due : Bool), s.pow.phase ≠ .stopped ∧ ((c, m, due) ∈ [(Instr.safetyReset low also, 2,
      decide (10000 ≤ low)), (Instr.resetPin low also, 8, decide (1000 ≤ low)), (Instr.syswdExpiry also, 16, match s.pow.wdKick with
    | some k => decide (k + max 1 (s.fget Reg.RST_SYSWD_timeout_ms) * 1000000 ≤ s.now)
    | none => false), (Instr.lockup also, 256, decide (s.pow.phase = .booting ∨ s.pow.phase = .running)), (Instr.clockFailure also, 128, (match
      s.pow.refLost with
    | some f => decide (f + 100000 ≤ s.now)
    | none => false) || (match s.pow.lockLost with
    | some f => decide (f + 100000 ≤ s.now)
    | none => false))]) ∧ due = true) ∧
    -- 1.2 (b)
    (∃ (s : State) (c : Instr) (also : Nat) (low : Nat) (m : Nat) (due : Bool), s.pow.phase ≠ .stopped ∧ ((c, m, due) ∈ [(Instr.safetyReset low also, 2,
      decide (10000 ≤ low)), (Instr.resetPin low also, 8, decide (1000 ≤ low)), (Instr.syswdExpiry also, 16, match s.pow.wdKick with
    | some k => decide (k + max 1 (s.fget Reg.RST_SYSWD_timeout_ms) * 1000000 ≤ s.now)
    | none => false), (Instr.lockup also, 256, decide (s.pow.phase = .booting ∨ s.pow.phase = .running)), (Instr.clockFailure also, 128, (match
      s.pow.refLost with
    | some f => decide (f + 100000 ≤ s.now)
    | none => false) || (match s.pow.lockLost with
    | some f => decide (f + 100000 ≤ s.now)
    | none => false))]) ∧ due = true) ∧
    -- 1.2 (c)
    (∃ (s : State) (c : Instr) (also : Nat) (low : Nat) (m : Nat) (due : Bool), s.pow.phase ≠ .stopped ∧ ((c, m, due) ∈ [(Instr.safetyReset low also, 2,
      decide (10000 ≤ low)), (Instr.resetPin low also, 8, decide (1000 ≤ low)), (Instr.syswdExpiry also, 16, match s.pow.wdKick with
    | some k => decide (k + max 1 (s.fget Reg.RST_SYSWD_timeout_ms) * 1000000 ≤ s.now)
    | none => false), (Instr.lockup also, 256, decide (s.pow.phase = .booting ∨ s.pow.phase = .running)), (Instr.clockFailure also, 128, (match
      s.pow.refLost with
    | some f => decide (f + 100000 ≤ s.now)
    | none => false) || (match s.pow.lockLost with
    | some f => decide (f + 100000 ≤ s.now)
    | none => false))]) ∧ due = true) ∧
    -- 1.2 (d)
    (∃ (s : State) (c : Instr) (also : Nat) (low : Nat) (m : Nat) (due : Bool), s.pow.phase ≠ .stopped ∧ ((c, m, due) ∈ [(Instr.safetyReset low also, 2,
      decide (10000 ≤ low)), (Instr.resetPin low also, 8, decide (1000 ≤ low)), (Instr.syswdExpiry also, 16, match s.pow.wdKick with
    | some k => decide (k + max 1 (s.fget Reg.RST_SYSWD_timeout_ms) * 1000000 ≤ s.now)
    | none => false), (Instr.lockup also, 256, decide (s.pow.phase = .booting ∨ s.pow.phase = .running)), (Instr.clockFailure also, 128, (match
      s.pow.refLost with
    | some f => decide (f + 100000 ≤ s.now)
    | none => false) || (match s.pow.lockLost with
    | some f => decide (f + 100000 ≤ s.now)
    | none => false))]) ∧ due = true) ∧
    -- 1.2 (e)
    (∃ (s : State) (c : Instr) (also : Nat) (low : Nat) (m : Nat) (due : Bool), s.pow.phase ≠ .stopped ∧ ((c, m, due) ∈ [(Instr.safetyReset low also, 2,
      decide (10000 ≤ low)), (Instr.resetPin low also, 8, decide (1000 ≤ low)), (Instr.syswdExpiry also, 16, match s.pow.wdKick with
    | some k => decide (k + max 1 (s.fget Reg.RST_SYSWD_timeout_ms) * 1000000 ≤ s.now)
    | none => false), (Instr.lockup also, 256, decide (s.pow.phase = .booting ∨ s.pow.phase = .running)), (Instr.clockFailure also, 128, (match
      s.pow.refLost with
    | some f => decide (f + 100000 ≤ s.now)
    | none => false) || (match s.pow.lockLost with
    | some f => decide (f + 100000 ≤ s.now)
    | none => false))]) ∧ due = true) ∧
    -- 2.1
    (∃ (s : State) (also : Nat) (low : Nat), s.pow.phase ≠ .stopped ∧ bit also 0 = false ∧ bit also 1 = false ∧ 2000 ≤ low) ∧
    -- 2.2
    (∃ (s : State) (also : Nat) (low : Nat), s.pow.phase ≠ .stopped ∧ bit also 0 = false ∧ bit also 1 = false ∧ low < 2000) ∧
    -- 2.3
    (∃ (s : State) (also : Nat) (good : Nat), s.pow.phase ≠ .stopped ∧ bit also 0 = false ∧ bit also 1 = false ∧ 1000000 ≤ good) ∧
    -- 3.1
    (∃ (s : State) (c : Instr) (src : Nat) (v : Nat), (s.pow.phase = .booting ∨ s.pow.phase = .running) ∧ c ∈ [Instr.applicationResetRequest src v,
    Instr.dieResetRequest src v] ∧ (src ∈ [0, 1] ∨ (src = 3 ∧ s.fget Reg.SEC_STATUS_debug_level ≠ 0)) ∧ bits v 7 0 = 0xA5 ∧ bits v 9 8 = 1) ∧
    -- 3.1 (b)
    (∃ (s : State) (c : Instr) (src : Nat) (v : Nat), (s.pow.phase = .booting ∨ s.pow.phase = .running) ∧ c ∈ [Instr.applicationResetRequest src v,
    Instr.dieResetRequest src v] ∧ (src ∈ [0, 1] ∨ (src = 3 ∧ s.fget Reg.SEC_STATUS_debug_level ≠ 0)) ∧ bits v 7 0 = 0xA5 ∧ bits v 9 8 = 1) ∧
    -- 3.2
    (∃ (s : State) (c : Instr) (src : Nat) (v : Nat), (s.pow.phase = .booting ∨ s.pow.phase = .running) ∧ c ∈ [Instr.applicationResetRequest src v,
    Instr.dieResetRequest src v] ∧ (src ∈ [0, 1] ∨ (src = 3 ∧ s.fget Reg.SEC_STATUS_debug_level ≠ 0)) ∧ (bits v 7 0 ≠ 0xA5 ∨ bits v 9 8 = 0 ∨ bits v 9
    8 = 3)) ∧
    -- 3.3.1
    (∃ (s : State) (c : Instr) (src : Nat) (v : Nat) (d : Nat), (s.pow.phase = .booting ∨ s.pow.phase = .running) ∧ c ∈ [Instr.applicationResetRequest src
    v, Instr.dieResetRequest src v] ∧ (src ∈ [0, 1] ∨ (src = 3 ∧ s.fget Reg.SEC_STATUS_debug_level ≠ 0)) ∧ bits v 7 0 = 0xA5 ∧ bits v 9 8 = 2 ∧ bits v
    12 10 = d ∧ s.hasDie d = true ∧ s.fget (Reg.RST_DIE_state d) < 2) ∧
    -- 3.3.2
    (∃ (s : State) (c : Instr) (src : Nat) (v : Nat) (d : Nat), (s.pow.phase = .booting ∨ s.pow.phase = .running) ∧ c ∈ [Instr.applicationResetRequest src
    v, Instr.dieResetRequest src v] ∧ (src ∈ [0, 1] ∨ (src = 3 ∧ s.fget Reg.SEC_STATUS_debug_level ≠ 0)) ∧ bits v 7 0 = 0xA5 ∧ bits v 9 8 = 2 ∧ bits v
    12 10 = d ∧ (s.hasDie d = false ∨ 2 ≤ s.fget (Reg.RST_DIE_state d))) ∧
    -- 3.3.2 (b)
    (∃ (s : State) (c : Instr) (src : Nat) (v : Nat) (d : Nat), (s.pow.phase = .booting ∨ s.pow.phase = .running) ∧ c ∈ [Instr.applicationResetRequest src
    v, Instr.dieResetRequest src v] ∧ (src ∈ [0, 1] ∨ (src = 3 ∧ s.fget Reg.SEC_STATUS_debug_level ≠ 0)) ∧ bits v 7 0 = 0xA5 ∧ bits v 9 8 = 2 ∧ bits v
    12 10 = d ∧ (s.hasDie d = false ∨ 2 ≤ s.fget (Reg.RST_DIE_state d))) ∧
    -- 5.1
    (∃ (s : State) (v : Nat) (k : Nat), s.pow.wdKick = some k ∧ bits v 7 0 = 0x5A) ∧
    -- 5.2
    (∃ (s : State) (v : Nat) (k : Nat), s.pow.wdKick = some k ∧ bits v 7 0 ≠ 0x5A) ∧
    -- 7.1
    (∃ (s : State), s.pow.phase ≠ .stopped ∧ s.pow.kyDown = false) ∧
    -- 7.2
    (∃ (s : State), s.pow.phase ≠ .stopped ∧ s.pow.kyDown = true) ∧
    -- 8
    (∃ (s : State), s.pow.phase ≠ .stopped) ∧
    -- 4
    (∃ (s : State) (src : Nat), s.pow.phase = .standby ∨ src = 2 ∨ 3 < src ∨ (src = 3 ∧ s.fget Reg.SEC_STATUS_debug_level = 0)) ∧
    -- 6
    (∃ (s : State), s.pow.wdKick = none) :=
  ⟨⟨wBrown, Instr.safetyReset 9999 0, 0, 9999, 2, false, by decide +kernel⟩,
    ⟨{ wBrown with pow := { wBrown.pow with wdKick := some 999000000 } }, Instr.syswdExpiry 0, 0, 9999, 16, false, by decide +kernel⟩,
    ⟨wBrown, Instr.safetyReset 10000 0, 0, 10000, 2, true, by decide +kernel⟩,
    ⟨wBrown, Instr.resetPin 1000 1, 1, 1000, 8, true, by decide +kernel⟩,
    ⟨wBrown, Instr.syswdExpiry 4, 4, 0, 16, true, by decide +kernel⟩,
    ⟨wBrown, Instr.lockup 0, 0, 0, 256, true, by decide +kernel⟩,
    ⟨wBrown, Instr.clockFailure 0, 0, 0, 128, true, by decide +kernel⟩,
    ⟨wBrown, 0, 2000, by decide +kernel⟩,
    ⟨wBrown, 4, 1999, by decide +kernel⟩,
    ⟨{ wBrown with pow := { wBrown.pow with brownHeld := true } }, 4, 1000000, by decide +kernel⟩,
    ⟨wBrown, Instr.applicationResetRequest 1 0x1A5, 1, 0x1A5, by decide +kernel⟩,
    ⟨wBrown.fset Reg.SEC_STATUS_debug_level 1, Instr.dieResetRequest 3 0x1A5, 3, 0x1A5, by decide +kernel⟩,
    ⟨wBrown, Instr.dieResetRequest 0 0x2A4, 0, 0x2A4, by decide +kernel⟩,
    ⟨wBrown, Instr.dieResetRequest 0 0x6A5, 0, 0x6A5, 1, by decide +kernel⟩,
    ⟨wBrown, Instr.dieResetRequest 0 0x1EA5, 0, 0x1EA5, 7, by decide +kernel⟩,
    ⟨wBrown.fset (Reg.RST_DIE_state 1) 2, Instr.applicationResetRequest 0 0x6A5, 0, 0x6A5, 1, by decide +kernel⟩,
    ⟨wBrown, 0x15A, 1000000, by decide +kernel⟩,
    ⟨wBrown, 0x5B, 1000000, by decide +kernel⟩,
    ⟨wBrown, by decide +kernel⟩,
    ⟨{ wBrown with pow := { wBrown.pow with kyDown := true } }, by decide +kernel⟩,
    ⟨{ wBrown with pow := { wBrown.pow with burns := [.arb 3 7] } }, by decide +kernel⟩,
    ⟨wBrown, 3, by decide +kernel⟩,
    ⟨wGo [], by decide +kernel⟩⟩

def wClk : State := wOn (wGo []) [(Reg.CLK_STATUS_ref_ok, 1), (Reg.CLK_STATUS_locked, 1), (⟨Reg.CLK_STATUS, 9, 9⟩, 1)]
def wDie (st : Nat) (x : DieTimer) : State :=
  { wOn (wGo []) [(Reg.RST_DIE_state 1, st), (⟨Reg.SAF_MON, 1, 1⟩, 1), (⟨Reg.SAF_MON, 17, 17⟩, 1)] with
    pow := { (wGo []).pow with dieTimers := [(1, x)] } }
def wWake (n x : Nat) (off : Bool) : State := { wGo [] with pow := { (wGo []).pow with wakes := [(engKey n x, { since := 999980000, fromOff := off, running := true })] } }
def wReload : State := { wDie 5 {} with pow := { (wDie 5 {}).pow with ufsDie := some 1 } }
/-- An image of one empty section whose digest is a number. -/
def wImg (digest : Byte) : State :=
  wReload.poke 8 0 wReload.part.imgBase (sliceB (List.replicate 6 0 ++ [1, 0, 0x50, 1] ++ List.replicate 246 0 ++ [0x10] ++ List.replicate 15 0 ++ [digest]) 0 512)
/-- An image of one empty section whose digest is wrong, whatever the digest function. -/
def wBadImg : State := if Config.sha3_512 [] = 0 then wImg 1 else wImg 0
theorem wImg_ok : ∀ b ∈ [(0 : Byte), 1], (wImg b).hasDie 1 = true ∧ (wImg b).fget (Reg.RST_DIE_state 1) = 5 ∧ (wImg b).pow.ufsDie = some 1 ∧
    directory (wImg b).image = [{ idx := 0, typ := 0x10, off := 0, len := 0, digest := b.toNat, resv := false }] := by decide +kernel
theorem wBadImg_ok : wBadImg.hasDie 1 = true ∧ wBadImg.fget (Reg.RST_DIE_state 1) = 5 ∧ wBadImg.pow.ufsDie = some 1 ∧ sectsSound wBadImg.image = false := by
  unfold wBadImg
  split
  · next h =>
    obtain ⟨h1, h2, h3, h4⟩ := wImg_ok 1 (by simp)
    refine ⟨h1, h2, h3, ?_⟩
    rw [sectsSound, h4]
    simp [Sect.bytes, sliceB, h]
  · next h =>
    obtain ⟨h1, h2, h3, h4⟩ := wImg_ok 0 (by simp)
    refine ⟨h1, h2, h3, ?_⟩
    rw [sectsSound, h4]
    simp [Sect.bytes, sliceB, h]
theorem wBadImg_r : (wBadImg.reloadDie 1 255 [] [] []).2 = false := by simp [State.reloadDie, wBadImg_ok.2.2.2]
def wWave (l : List Nat) : SMap Wake := l.map fun x => (engKey 1 x, { since := 999990000, fromOff := true, running := true })

theorem wit_ClocksAndLocks :
    -- 1
    (∃ (s : State), s.pow.phase ≠ .stopped ∧ s.pow.refLost = none ∧ s.fget Reg.CLK_STATUS_ref_ok = 1) ∧
    -- 2.1
    (∃ (s : State), s.pow.refLost.isSome = true ∨ s.fget Reg.CLK_STATUS_ref_ok = 0) ∧
    -- 2.2
    (∃ (s : State), s.fget Reg.CLK_STATUS_ref_ok = 0 ∨ s.fget Reg.CLK_STATUS_locked = 0) ∧
    -- 2.3
    (∃ (s : State) (d : Nat), s.fget ⟨Reg.CLK_STATUS, 8 + d, 8 + d⟩ = 0) ∧
    -- 3
    (∃ (s : State), s.fget Reg.CLK_STATUS_ref_ok = 1 ∧ s.fget Reg.CLK_STATUS_locked = 1) ∧
    -- 4.1
    (∃ (s : State) (f : Nat), (s.pow.refLost = some f ∨ (s.pow.refLost = none ∧ s.pow.lockLost = some f)) ∧ s.now ≤ f + 100000) ∧
    -- 4.1 (b)
    (∃ (s : State) (f : Nat), (s.pow.refLost = some f ∨ (s.pow.refLost = none ∧ s.pow.lockLost = some f)) ∧ s.now ≤ f + 100000) ∧
    -- 4.2
    (∃ (s : State) (f : Nat), (s.pow.refLost = some f ∨ (s.pow.refLost = none ∧ s.pow.lockLost = some f)) ∧ f + 100000 < s.now) ∧
    -- 5
    (∃ (s : State), s.pow.phase ≠ .stopped ∧ s.pow.refLost = none ∧ s.pow.lockLost = none) ∧
    -- 6
    (∃ (s : State) (d : Nat), d < 8 ∧ s.hasDie d = true ∧ s.fget ⟨Reg.CLK_STATUS, 8 + d, 8 + d⟩ = 1) :=
  ⟨⟨wClk, by decide +kernel⟩,
    ⟨{ wClk with pow := { wClk.pow with refLost := some 999900000 } }, by decide +kernel⟩,
    ⟨wUp, by decide +kernel⟩,
    ⟨wUp, 1, by decide +kernel⟩,
    ⟨wClk, by decide +kernel⟩,
    ⟨{ wClk with pow := { wClk.pow with refLost := some 999900000, lockLost := some 5 } }, 999900000, by decide +kernel⟩,
    ⟨{ wClk with pow := { wClk.pow with lockLost := some 999900000 } }, 999900000, by decide +kernel⟩,
    ⟨{ wClk with pow := { wClk.pow with refLost := some 999899999 } }, 999899999, by decide +kernel⟩,
    ⟨wUp, by decide +kernel⟩,
    ⟨wClk, 1, by decide +kernel⟩⟩

theorem wit_RejoinOfADie :
    -- 1.1
    (∃ (s : State) (d : Nat), d < 8 ∧ s.part.tzCount ∈ [2, 4, 8] ∧ s.hasDie d = true ∧ s.dieState d ≠ 2) ∧
    -- 1.9
    (∃ (s : State) (d : Nat) (n : _), d < 8 ∧ s.part.tzCount ∈ [2, 4, 8] ∧ s.hasDie d = true ∧ s.dieState d ≠ 2 ∧ n < 8 ∧ n ≠ d) ∧
    -- 2.1
    (∃ (d : Nat), d < 8) ∧
    -- 2.8
    (∃ (d : Nat) (e : _) (off : _), d < 8 ∧ e < 32 ∧ off < storeSize) ∧
    -- 2.9
    (∃ (d : Nat) (n : _) (e : _) (off : _), d < 8 ∧ n ≠ d ∧ e < 32 ∧ off < storeSize) ∧
    -- 2.10
    (∃ (d : Nat) (x : _), d < 8 ∧ x < 22) ∧
    -- 2.12
    (∃ (d : Nat) (a : Nat), d < 8 ∧ inDieWin d a = false ∧ a ≠ Reg.RST_DIE d ∧ a ≠ Reg.CLK_STATUS ∧ a ≠ Reg.HLT_SPARES) ∧
    -- 3
    (∃ (d : Nat), d < 8) ∧
    -- 4.1
    (∃ (s : State) (d : Nat), d < 8 ∧ s.hasDie d = true ∧ s.fget (Reg.RST_DIE_state d) = 2 ∧ (s.dieTimer d).retryAt = none ∧ (s.dieTimer d).holdEnd ≠ 0 ∧
    (s.dieTimer d).holdEnd ≤ s.now ∧ s.dieMonOk d = true) ∧
    -- 4.2
    (∃ (s : State) (d : Nat), d < 8 ∧ s.hasDie d = true ∧ s.fget (Reg.RST_DIE_state d) = 2 ∧ (s.dieTimer d).retryAt = none ∧ (s.dieTimer d).holdEnd ≠ 0 ∧
    s.dieMonOk d = false) ∧
    -- 4.3
    (∃ (s : State) (d : Nat), d < 8 ∧ s.hasDie d = true ∧ s.fget (Reg.RST_DIE_state d) = 2 ∧ (s.dieTimer d).retryAt = none ∧ (s.dieTimer d).holdEnd ≠ 0 ∧
    (s.dieTimer d).holdEnd + 100000000 ≤ s.now) ∧
    -- 4.4
    (∃ (s : State) (d : Nat), d < 8 ∧ s.hasDie d = true ∧ s.fget (Reg.RST_DIE_state d) = 2 ∧ (s.dieTimer d).retryAt = none ∧ (s.dieTimer d).holdEnd ≠ 0 ∧
    s.now < (s.dieTimer d).holdEnd) ∧
    -- 5.1
    (∃ (s : State) (d : Nat), s.fget (Reg.RST_DIE_state d) ≠ 5 ∨ s.pow.ufsDie ≠ some d) ∧
    -- 5.2.1
    (∃ (s : State) (d : Nat) (chans : Nat) (data : List (List Byte)) (failed : List Nat) (gen : List Nat) (r : _), s.hasDie d = true ∧ s.fget
    (Reg.RST_DIE_state d) = 5 ∧ s.pow.ufsDie = some d ∧ r = s.reloadDie d chans data failed gen ∧ r.2 = true) ∧
    -- 5.2.2
    (∃ (s : State) (d : Nat) (chans : Nat) (data : List (List Byte)) (failed : List Nat) (gen : List Nat) (r : _), s.hasDie d = true ∧ s.fget
    (Reg.RST_DIE_state d) = 5 ∧ s.pow.ufsDie = some d ∧ r = s.reloadDie d chans data failed gen ∧ r.2 = false) ∧
    -- 5.2.3
    (∃ (s : State) (d : Nat) (chans : Nat) (data : List (List Byte)) (failed : List Nat) (gen : List Nat) (r : _), s.hasDie d = true ∧ s.fget
    (Reg.RST_DIE_state d) = 5 ∧ s.pow.ufsDie = some d ∧ r = s.reloadDie d chans data failed gen ∧ sectsSound s.image = false) ∧
    -- 6.1
    (∃ (s : State) (d : Nat), d < 8 ∧ s.hasDie d = true ∧ s.fget (Reg.RST_DIE_state d) = 6) ∧
    -- 6.2
    (∃ (s : State) (d : Nat) (m : _), d < 8 ∧ s.hasDie d = true ∧ s.fget (Reg.RST_DIE_state d) = 6 ∧ m < 38) ∧
    -- 7
    (∃ (s : State) (d : Nat), s.fget (Reg.RST_DIE_state d) ≠ 6) ∧
    -- 9
    (∃ (s : State) (d : Nat), (s.dieTimer d).retryAt = none) ∧
    -- 10.1
    (∃ (s : State) (d : Nat) (at_ : Nat), d < 8 ∧ (s.dieTimer d).retryAt = some at_ ∧ s.now < at_) ∧
    -- 10.2
    (∃ (s : State) (d : Nat) (at_ : Nat), d < 8 ∧ (s.dieTimer d).retryAt = some at_ ∧ at_ ≤ s.now ∧ s.fget (Reg.RST_DIE_attempts d) < max 1 (s.fget
    Reg.RST_DIE_CTRL_rejoin_max)) ∧
    -- 10.3
    (∃ (s : State) (d : Nat) (at_ : Nat), d < 8 ∧ (s.dieTimer d).retryAt = some at_ ∧ at_ ≤ s.now ∧ max 1 (s.fget Reg.RST_DIE_CTRL_rejoin_max) ≤ s.fget
    (Reg.RST_DIE_attempts d)) :=
  ⟨⟨wGo [], 1, by decide +kernel⟩,
    ⟨wGo [], 1, 0, by decide +kernel⟩,
    ⟨1, by decide +kernel⟩,
    ⟨1, 2, 100, by decide +kernel⟩,
    ⟨1, 0, 2, 100, by decide +kernel⟩,
    ⟨1, 21, by decide +kernel⟩,
    ⟨1, Reg.PWR_DOM 0, by decide +kernel⟩,
    ⟨7, by decide +kernel⟩,
    ⟨wDie 2 { holdEnd := 1000000000 }, 1, by decide +kernel⟩,
    ⟨(wDie 2 { holdEnd := 999000000 }).fset ⟨Reg.SAF_MON, 1, 1⟩ 0, 1, by decide +kernel⟩,
    ⟨wDie 2 { holdEnd := 900000000 }, 1, by decide +kernel⟩,
    ⟨wDie 2 { holdEnd := 1000000001 }, 1, by decide +kernel⟩,
    ⟨wDie 5 {}, 1, by decide +kernel⟩,
    ⟨wReload, 1, 255, [], [], [], wReload.reloadDie 1 255 [] [] [], by decide +kernel, by decide +kernel, by decide +kernel, rfl, by decide +kernel⟩,
    ⟨wBadImg, 1, 255, [], [], [], wBadImg.reloadDie 1 255 [] [] [], wBadImg_ok.1, wBadImg_ok.2.1, wBadImg_ok.2.2.1, rfl, wBadImg_r⟩,
    ⟨wBadImg, 1, 255, [], [], [], wBadImg.reloadDie 1 255 [] [] [], wBadImg_ok.1, wBadImg_ok.2.1, wBadImg_ok.2.2.1, rfl, wBadImg_ok.2.2.2⟩,
    ⟨(wDie 6 {}).fset (Reg.RST_DIE_rejoins 1) 2, 1, by decide +kernel⟩,
    ⟨wDie 6 {}, 1, 27, by decide +kernel⟩,
    ⟨wDie 5 {}, 1, by decide +kernel⟩,
    ⟨wDie 7 {}, 1, by decide +kernel⟩,
    ⟨wDie 2 { retryAt := some 1000000001 }, 1, 1000000001, by decide +kernel⟩,
    ⟨(wDie 2 { retryAt := some 1000000000 }).fset Reg.RST_DIE_CTRL_rejoin_max 2, 1, 1000000000, by decide +kernel⟩,
    ⟨(wDie 2 { retryAt := some 1000000000 }).fset (Reg.RST_DIE_attempts 1) 15, 1, 1000000000, by decide +kernel⟩⟩

theorem wit_PowerDomains :
    -- 1.1
    (∃ (s : State) (d : Nat) (e : Nat) (i : Nat), s.logicalOf d e = some i ∧ d < 8 ∧ s.dieUp d = true ∧ e < 18 ∧ s.dom d e = 1 ∧ s.pow.phase = .running ∧
    s.nextUse d i ≤ s.now + 12000) ∧
    -- 1.2
    (∃ (s : State) (d : Nat) (e : Nat) (i : Nat), s.logicalOf d e = some i ∧ d < 8 ∧ s.dieUp d = true ∧ e < 18 ∧ s.dom d e = 1 ∧ s.pow.phase = .running ∧
    s.now + 12000 < s.nextUse d i) ∧
    -- 2.1
    (∃ (s : State) (x : Nat), x < 24 ∧ (s.wakeOf 8 x).running = true) ∧
    -- 2.2.1
    (∃ (s : State) (x : Nat) (limit : _), x < 24 ∧ (s.wakeOf 8 x).running = true ∧ limit = (if (s.wakeOf 8 x).fromOff = true then 40000 else 20000) ∧ s.now
    < (s.wakeOf 8 x).since + limit) ∧
    -- 2.2.2
    (∃ (s : State) (x : Nat) (limit : _), x < 24 ∧ (s.wakeOf 8 x).running = true ∧ limit = (if (s.wakeOf 8 x).fromOff = true then 40000 else 20000) ∧
    (s.wakeOf 8 x).since + limit ≤ s.now) ∧
    -- 3
    (∃ (s : State) (d : Nat) (e : Nat) (i : Nat), d < 8 ∧ e < 18 ∧ (s.wakeOf d e).running = true ∧ s.logicalOf d e = some i ∧ engKey d e ∉ s.pow.lateSeen) ∧
    -- 3 (b)
    (∃ (s : State) (d : Nat) (e : Nat) (i : Nat), d < 8 ∧ e < 18 ∧ (s.wakeOf d e).running = true ∧ s.logicalOf d e = some i ∧ engKey d e ∉ s.pow.lateSeen) ∧
    -- 4
    (∃ (s : State) (d : Nat) (e : Nat), d < 8 ∧ e < 18 ∧ (s.wakeOf d e).running = true ∧ s.logicalOf d e = none ∧ d ∉ s.chk.selfPend) ∧
    -- 5.1
    (∃ (s : State) (d : Nat) (x : Nat), d < 8 ∧ 18 ≤ x ∧ x < 22 ∧ (s.wakeOf d x).running = true ∧ s.waveAt d ≠ some x) ∧
    -- 5.2
    (∃ (s : State) (d : Nat) (x : Nat), d < 8 ∧ 18 ≤ x ∧ x < 22 ∧ (s.wakeOf d x).running = true ∧ s.waveAt d = some x) ∧
    -- 5.2 (b)
    (∃ (s : State) (d : Nat) (x : Nat), d < 8 ∧ 18 ≤ x ∧ x < 22 ∧ (s.wakeOf d x).running = true ∧ s.waveAt d = some x) ∧
    -- 6.1
    (∃ (d : Nat) (m : _), d < 8 ∧ m ∈ [d, 16 + 4 * d, 17 + 4 * d, 18 + 4 * d]) ∧
    -- 6.3
    (∃ (s : State) (d : Nat), d < 8 ∧ s.fget (Reg.RST_DIE_state d) = 3) ∧
    -- 6.2
    (∃ (d : Nat) (e : _), d < 8 ∧ e < 18) ∧
    -- 7
    (∃ (s : State) (d : Nat) (x : Nat), (s.wakeOf d x).running = false) ∧
    -- 8.1
    (∃ (s : State) (d : Nat) (x : Nat) (limit : Nat), d < 8 ∧ x < 22 ∧ (s.wakeOf d x).running = true ∧ limit = (if (s.wakeOf d x).fromOff = false then
    20000 else if x < 18 then 36000 else 10000) ∧ s.now < (s.wakeOf d x).since + limit) ∧
    -- 8.2
    (∃ (s : State) (d : Nat) (x : Nat) (limit : Nat), d < 8 ∧ x < 22 ∧ (s.wakeOf d x).running = true ∧ limit = (if (s.wakeOf d x).fromOff = false then
    20000 else if x < 18 then 36000 else 10000) ∧ (s.wakeOf d x).since + limit ≤ s.now ∧ x < 18) ∧
    -- 8.3
    (∃ (s : State) (d : Nat) (x : Nat) (limit : Nat), d < 8 ∧ x < 22 ∧ (s.wakeOf d x).running = true ∧ limit = (if (s.wakeOf d x).fromOff = false then
    20000 else if x < 18 then 36000 else 10000) ∧ (s.wakeOf d x).since + limit ≤ s.now ∧ 18 ≤ x) ∧
    -- 8.3 (b)
    (∃ (s : State) (d : Nat) (x : Nat) (limit : Nat), d < 8 ∧ x < 22 ∧ (s.wakeOf d x).running = true ∧ limit = (if (s.wakeOf d x).fromOff = false then
    20000 else if x < 18 then 36000 else 10000) ∧ (s.wakeOf d x).since + limit ≤ s.now ∧ 18 ≤ x) ∧
    -- 9
    (∃ (s : State) (v : Nat), v < 2 ∧ s.pow.phase = .running) ∧
    -- 10
    (∃ (s : State), s.pow.phase ≠ .running) :=
  ⟨⟨{ (wGo []).fset (Reg.PWR_DOM_dom 0 3) 1 with plan := { (wGo []).plan with start := 1000005000 }, runs := [(2 ^ 19, some { wRunT 3 with due := false, release := 7000, st := .waiting })] },
    0, 3, 3, by decide +kernel⟩,
    ⟨(wGo []).fset (Reg.PWR_DOM_dom 0 3) 1, 0, 3, 3, by decide +kernel⟩,
    ⟨wWake 8 23 false, 23, by decide +kernel⟩,
    ⟨wWake 8 7 true, 7, 40000, by decide +kernel⟩,
    ⟨wWake 8 7 false, 7, 20000, by decide +kernel⟩,
    ⟨wWake 1 3 true, 1, 3, 3, by decide +kernel⟩,
    ⟨wWake 1 3 false, 1, 3, 3, by decide +kernel⟩,
    ⟨wWake 1 17 false, 1, 17, by decide +kernel⟩,
    ⟨{ wGo [] with pow := { (wGo []).pow with wakes := wWave [18, 19, 20, 21] } }, 1, 18, by decide +kernel⟩,
    ⟨{ wGo [] with pow := { (wGo []).pow with wakes := wWave [18, 19, 20, 21] } }, 1, 20, by decide +kernel⟩,
    ⟨{ wOn (wGo []) [(Reg.RST_DIE_state 1, 3), (Reg.PWR_DOM_dom 1 19, 2), (Reg.PWR_DOM_dom 1 20, 2), (Reg.PWR_DOM_dom 1 21, 2)] with pow := { (wGo []).pow with wakes := wWave [18] } },
    1, 18, by decide +kernel⟩,
    ⟨1, 17 + 4 * 1, by decide +kernel⟩,
    ⟨(wGo []).fset (Reg.RST_DIE_state 1) 3, 1, by decide +kernel⟩,
    ⟨1, 17, by decide +kernel⟩,
    ⟨wGo [], 1, 5, by decide +kernel⟩,
    ⟨wWake 1 17 true, 1, 17, 36000, by decide +kernel⟩,
    ⟨wWake 1 17 false, 1, 17, 20000, by decide +kernel⟩,
    ⟨wWake 1 18 true, 1, 18, 10000, by decide +kernel⟩,
    ⟨(wWake 1 18 true).fset (Reg.RST_DIE_state 1) 3, 1, 18, 10000, by decide +kernel⟩,
    ⟨wGo [], 1, by decide +kernel⟩,
    ⟨{ wGo [] with pow := { (wGo []).pow with phase := .standby } }, by decide +kernel⟩⟩

theorem wit_HealthAndRepair :
    -- 1.1
    (∃ (s : State), s.pow.phase = .running ∧ s.now < s.hlt.scoreAt + 10 ^ 9) ∧
    -- 1.2
    (∃ (s : State), s.pow.phase = .running ∧ s.hlt.scoreAt + 10 ^ 9 ≤ s.now) ∧
    -- 1.2 (b)
    (∃ (s : State), s.pow.phase = .running ∧ s.hlt.scoreAt + 10 ^ 9 ≤ s.now) ∧
    -- 2.1
    (∃ (s : State) (d : Nat) (at_ : _), d < 8 ∧ s.pow.phase = .running ∧ s.dieUp d = true ∧ smGet none s.hlt.canaryAt d = some at_ ∧ s.now < at_ + 3600 *
    10 ^ 9) ∧
    -- 2.2
    (∃ (s : State) (d : Nat), d < 8 ∧ s.pow.phase = .running ∧ s.dieUp d = true ∧ (∀ at_, smGet none s.hlt.canaryAt d = some at_ → at_ + 3600 * 10 ^ 9 ≤
    s.now)) ∧
    -- 2.2 (b)
    (∃ (s : State) (d : Nat), d < 8 ∧ s.pow.phase = .running ∧ s.dieUp d = true ∧ (∀ at_, smGet none s.hlt.canaryAt d = some at_ → at_ + 3600 * 10 ^ 9 ≤
    s.now)) ∧
    -- 3.1
    (∃ (s : State) (k : Nat) (col : Nat) (rest : List (Nat × Nat)) (e : Nat), s.chk.burnPend = (k, col) :: rest ∧ e = k / 32 + k % 32 * 2 ^ 3 + (if col =
    0xFF then 0x7F else col) * 2 ^ 8 + 2 ^ 15 ∧ s.fget Reg.HLT_CTRL_burn_en = 0) ∧
    -- 3.2
    (∃ (s : State) (k : Nat) (col : Nat) (rest : List (Nat × Nat)) (e : Nat), s.chk.burnPend = (k, col) :: rest ∧ e = k / 32 + k % 32 * 2 ^ 3 + (if col =
    0xFF then 0x7F else col) * 2 ^ 8 + 2 ^ 15 ∧ s.fget Reg.HLT_CTRL_burn_en = 1 ∧ 64 ≤ s.otp.repair.length) ∧
    -- 3.3
    (∃ (s : State) (k : Nat) (col : Nat) (rest : List (Nat × Nat)) (e : Nat), s.chk.burnPend = (k, col) :: rest ∧ e = k / 32 + k % 32 * 2 ^ 3 + (if col =
    0xFF then 0x7F else col) * 2 ^ 8 + 2 ^ 15 ∧ s.fget Reg.HLT_CTRL_burn_en = 1 ∧ s.otp.repair.length < 64) ∧
    -- 4.1
    (∃ (s : State), s.chk.burnPend = []) ∧
    -- 4.2
    (∃ (s : State), s.pow.phase ≠ .running) ∧
    -- 4.3
    (∃ (s : State) (d : Nat), s.dieUp d = false) :=
  ⟨⟨{ wGo [] with hlt := { State.reset.hlt with scoreAt := 1 } }, by decide +kernel⟩,
    ⟨wOn (wGo []) [(Reg.PACE_DOM_min_pace 0 2, 1700), (Reg.PACE_DOM_slack 0 2, 3)], by decide +kernel⟩,
    ⟨wGo [], by decide +kernel⟩,
    ⟨{ wGo [] with hlt := { State.reset.hlt with canaryAt := [(1, some 5)] } }, 1, 5, by decide +kernel⟩,
    ⟨wGo [], 1, by decide +kernel, by decide +kernel, by decide +kernel, wNone (by decide +kernel)⟩,
    ⟨{ wGo [] with hlt := { State.reset.hlt with canaryAt := [(1, some 0)] } }.fset ⟨Reg.ING_DT_NOW, 63, 0⟩ 3600000000000, 1, by decide +kernel, by
    decide +kernel, by decide +kernel, wSome 0 (by decide +kernel) (by decide +kernel)⟩,
    ⟨{ (wGo []).fset Reg.HLT_CTRL_burn_en 0 with chk := { State.reset.chk with burnPend := [(34, 255)] } }, 34, 255, [], 1 + 2 * 2 ^ 3 + 0x7F * 2 ^ 8 + 2
    ^ 15, by decide +kernel⟩,
    ⟨{ (wGo []).fset Reg.HLT_CTRL_burn_en 1 with chk := { State.reset.chk with burnPend := [(34, 67), (2, 3)] }, otp := { State.reset.otp with repair := List.replicate 64 1 } },
    34, 67, [(2, 3)], 1 + 2 * 2 ^ 3 + 67 * 2 ^ 8 + 2 ^ 15, by decide +kernel⟩,
    ⟨{ (wGo []).fset Reg.HLT_CTRL_burn_en 1 with chk := { State.reset.chk with burnPend := [(34, 67), (2, 3)] }, otp := { State.reset.otp with repair := List.replicate 63 1 } },
    34, 67, [(2, 3)], 1 + 2 * 2 ^ 3 + 67 * 2 ^ 8 + 2 ^ 15, by decide +kernel⟩,
    ⟨{ wGo [] with part := { State.reset.part with tzCount := 2 }, pow := { (wGo []).pow with phase := .standby } }, by decide +kernel⟩,
    ⟨{ wGo [] with part := { State.reset.part with tzCount := 2 }, pow := { (wGo []).pow with phase := .standby } }, by decide +kernel⟩,
    ⟨{ wGo [] with part := { State.reset.part with tzCount := 2 }, pow := { (wGo []).pow with phase := .standby } }, 7, by decide +kernel⟩⟩

def wQ (typ unit : Nat) (p : List Byte) : OhpIn := { port := 2, mac := 0x112233445566, vlan := 5, typ := typ, flags := 0, seq := 9, dstPart := 0, srcPart := 3, unit := unit, status := 0, role := 1, txTime := 0, payload := p }
def wQS (q : OhpIn) (l : List (Fld × Nat)) : State := { wOn (wGo []) ((Reg.OHP_CTRL_en, 1) :: (Reg.OHP_ROLE_PART_epoch, 1) :: l) with ohp := { State.reset.ohp with queue := [q] } }
def wTook (s : State) (q : OhpIn) : State := ({ s with ohp := { s.ohp with queue := s.ohp.queue.tail } }.count Reg.OHP_CNT_RX_count 1).hear q
def wRd (a n : Nat) : List Byte := leBytes 8 a ++ leBytes 4 n
def wBad (q : OhpIn) : State := match (wQS q []).locate ((wQS q []).target 0xB 0x004000000000) with | some l => (wQS q []).locSetChk l 5 | none => wQS q []
def wRing : State := { (wOn (wGo []) [(Reg.OHP_CTRL_en, 1), (Reg.OHP_CTRL_events, 1), (Reg.OHP_EVT_DEST_mac, 0x0A0B0C0D0E0F), (Reg.OHP_EVT_DEST_min_class, 1)]).wr (Reg.SAF_LOG 4 1) 0x1681#64 with saf := { State.reset.saf with ring := [(4, 7)] } }
def wGb : List Byte := leBytes 8 (5 + 1 * 2 ^ 14 + 2 ^ 32) ++ leBytes 8 0 ++ leBytes 8 (32 + 96 * 2 ^ 32) ++ leBytes 8 0 ++ leBytes 8 (1 + 8 * 2 ^ 16 + 4 * 2 ^ 48) ++ leBytes 8 (1000 + 100000 * 2 ^ 32) ++ List.replicate 48 0
def wGs (q : OhpIn) : State := { (wQS q []).poke 8 0 0x004000000000 wGb with ohp := { State.reset.ohp with queue := [q] } }
def wGc : List Byte := leBytes 8 (5 + 3 * 2 ^ 14 + 2 ^ 32) ++ wGb.drop 8
def wGe : VFail := (validateGraph (wPlan []).plan (readGraph wGc 0 0)).getD { code := 0 }
def wGd : List Byte := leBytes 8 (5 + 2 ^ 14 + 2 ^ 16 + 2 ^ 32) ++ wGb.drop 8

theorem wit_OhpMessages :
    -- 1.1
    (∃ (s : State) (s1 : State) (q : OhpIn) (copies : Bool) (gen : Bool) (ecc : List Nat) (ls : List (Nat × List Byte)) (c : Instr) (typ : Nat) (kind :
    Option Nat) (write : Bool) (ok : OhpIn → Bool), (c, typ, kind, write, ok) ∈ [(Instr.roleQuery copies, 1, none, false, fun q => q.payload.length %
    2 == 0 && 2 ≤ q.payload.length && q.payload.length ≤ 128), (Instr.csrRead copies, 2, some 0, false, fun q => csrOk q false), (Instr.csrWrite
    copies, 3, some 0, true, fun q => csrOk q true), (Instr.memRead ecc copies, 4, some 0, false, fun q => memOk q false), (Instr.memWrite ecc gen
    copies, 5, some 0, true, fun q => memOk q true), (Instr.graphSubmit ecc ls copies, 6, some 1, true, fun q => q.payload.length == 12 && 32 ≤ u
    q.payload 8 4), (Instr.modeReq copies, 7, some 0, true, fun q => q.payload.length == 1 && u q.payload 0 1 < 32), (Instr.preempt copies, 8, some 1,
    true, fun q => q.payload.length == 2 && u q.payload 1 1 < 4), (Instr.kvRing copies, 9, some 1, true, fun q => q.payload.length == 5 && u q.payload
    4 1 < 4), (Instr.sampleRing copies, 10, some 2, true, fun q => q.payload.length == 5 && u q.payload 4 1 < 4)] ∧ s.Request typ q s1 ∧ (ok q = false
    ∨ (∃ k, kind = some k ∧ unitKind q.unit ≠ k ∧ unitKind q.unit ≠ 4))) ∧
    -- 1.1 (b)
    (∃ (s : State) (s1 : State) (q : OhpIn) (copies : Bool) (gen : Bool) (ecc : List Nat) (ls : List (Nat × List Byte)) (c : Instr) (typ : Nat) (kind :
    Option Nat) (write : Bool) (ok : OhpIn → Bool), (c, typ, kind, write, ok) ∈ [(Instr.roleQuery copies, 1, none, false, fun q => q.payload.length %
    2 == 0 && 2 ≤ q.payload.length && q.payload.length ≤ 128), (Instr.csrRead copies, 2, some 0, false, fun q => csrOk q false), (Instr.csrWrite
    copies, 3, some 0, true, fun q => csrOk q true), (Instr.memRead ecc copies, 4, some 0, false, fun q => memOk q false), (Instr.memWrite ecc gen
    copies, 5, some 0, true, fun q => memOk q true), (Instr.graphSubmit ecc ls copies, 6, some 1, true, fun q => q.payload.length == 12 && 32 ≤ u
    q.payload 8 4), (Instr.modeReq copies, 7, some 0, true, fun q => q.payload.length == 1 && u q.payload 0 1 < 32), (Instr.preempt copies, 8, some 1,
    true, fun q => q.payload.length == 2 && u q.payload 1 1 < 4), (Instr.kvRing copies, 9, some 1, true, fun q => q.payload.length == 5 && u q.payload
    4 1 < 4), (Instr.sampleRing copies, 10, some 2, true, fun q => q.payload.length == 5 && u q.payload 4 1 < 4)] ∧ s.Request typ q s1 ∧ (ok q = false
    ∨ (∃ k, kind = some k ∧ unitKind q.unit ≠ k ∧ unitKind q.unit ≠ 4))) ∧
    -- 1.2
    (∃ (s : State) (s1 : State) (q : OhpIn) (copies : Bool) (gen : Bool) (ecc : List Nat) (ls : List (Nat × List Byte)) (c : Instr) (typ : Nat) (kind :
    Option Nat) (write : Bool) (ok : OhpIn → Bool), (c, typ, kind, write, ok) ∈ [(Instr.roleQuery copies, 1, none, false, fun q => q.payload.length %
    2 == 0 && 2 ≤ q.payload.length && q.payload.length ≤ 128), (Instr.csrRead copies, 2, some 0, false, fun q => csrOk q false), (Instr.csrWrite
    copies, 3, some 0, true, fun q => csrOk q true), (Instr.memRead ecc copies, 4, some 0, false, fun q => memOk q false), (Instr.memWrite ecc gen
    copies, 5, some 0, true, fun q => memOk q true), (Instr.graphSubmit ecc ls copies, 6, some 1, true, fun q => q.payload.length == 12 && 32 ≤ u
    q.payload 8 4), (Instr.modeReq copies, 7, some 0, true, fun q => q.payload.length == 1 && u q.payload 0 1 < 32), (Instr.preempt copies, 8, some 1,
    true, fun q => q.payload.length == 2 && u q.payload 1 1 < 4), (Instr.kvRing copies, 9, some 1, true, fun q => q.payload.length == 5 && u q.payload
    4 1 < 4), (Instr.sampleRing copies, 10, some 2, true, fun q => q.payload.length == 5 && u q.payload 4 1 < 4)] ∧ s.Request typ q s1 ∧ ok q = true ∧
    kind.isSome = true ∧ (unitKind q.unit = 4 ∨ kind = some (unitKind q.unit)) ∧ s.unitEpoch q.unit = none) ∧
    -- 1.2 (b)
    (∃ (s : State) (s1 : State) (q : OhpIn) (copies : Bool) (gen : Bool) (ecc : List Nat) (ls : List (Nat × List Byte)) (c : Instr) (typ : Nat) (kind :
    Option Nat) (write : Bool) (ok : OhpIn → Bool), (c, typ, kind, write, ok) ∈ [(Instr.roleQuery copies, 1, none, false, fun q => q.payload.length %
    2 == 0 && 2 ≤ q.payload.length && q.payload.length ≤ 128), (Instr.csrRead copies, 2, some 0, false, fun q => csrOk q false), (Instr.csrWrite
    copies, 3, some 0, true, fun q => csrOk q true), (Instr.memRead ecc copies, 4, some 0, false, fun q => memOk q false), (Instr.memWrite ecc gen
    copies, 5, some 0, true, fun q => memOk q true), (Instr.graphSubmit ecc ls copies, 6, some 1, true, fun q => q.payload.length == 12 && 32 ≤ u
    q.payload 8 4), (Instr.modeReq copies, 7, some 0, true, fun q => q.payload.length == 1 && u q.payload 0 1 < 32), (Instr.preempt copies, 8, some 1,
    true, fun q => q.payload.length == 2 && u q.payload 1 1 < 4), (Instr.kvRing copies, 9, some 1, true, fun q => q.payload.length == 5 && u q.payload
    4 1 < 4), (Instr.sampleRing copies, 10, some 2, true, fun q => q.payload.length == 5 && u q.payload 4 1 < 4)] ∧ s.Request typ q s1 ∧ ok q = true ∧
    kind.isSome = true ∧ (unitKind q.unit = 4 ∨ kind = some (unitKind q.unit)) ∧ s.unitEpoch q.unit = none) ∧
    -- 1.3
    (∃ (s : State) (s1 : State) (q : OhpIn) (copies : Bool) (gen : Bool) (ecc : List Nat) (ls : List (Nat × List Byte)) (c : Instr) (typ : Nat) (kind :
    Option Nat) (write : Bool) (ok : OhpIn → Bool) (e : _), (c, typ, kind, write, ok) ∈ [(Instr.roleQuery copies, 1, none, false, fun q =>
    q.payload.length % 2 == 0 && 2 ≤ q.payload.length && q.payload.length ≤ 128), (Instr.csrRead copies, 2, some 0, false, fun q => csrOk q false),
    (Instr.csrWrite copies, 3, some 0, true, fun q => csrOk q true), (Instr.memRead ecc copies, 4, some 0, false, fun q => memOk q false),
    (Instr.memWrite ecc gen copies, 5, some 0, true, fun q => memOk q true), (Instr.graphSubmit ecc ls copies, 6, some 1, true, fun q =>
    q.payload.length == 12 && 32 ≤ u q.payload 8 4), (Instr.modeReq copies, 7, some 0, true, fun q => q.payload.length == 1 && u q.payload 0 1 < 32),
    (Instr.preempt copies, 8, some 1, true, fun q => q.payload.length == 2 && u q.payload 1 1 < 4), (Instr.kvRing copies, 9, some 1, true, fun q =>
    q.payload.length == 5 && u q.payload 4 1 < 4), (Instr.sampleRing copies, 10, some 2, true, fun q => q.payload.length == 5 && u q.payload 4 1 < 4)]
    ∧ s.Request typ q s1 ∧ ok q = true ∧ kind = some (unitKind q.unit) ∧ s.unitEpoch q.unit = some e ∧ q.role ≠ e ∧ q.port < 6 ∧ copies = true ∧ bit
    (smGet {} s.eth.gate q.port).gates 7 = true) ∧
    -- 1.3 (b)
    (∃ (s : State) (s1 : State) (q : OhpIn) (copies : Bool) (gen : Bool) (ecc : List Nat) (ls : List (Nat × List Byte)) (c : Instr) (typ : Nat) (kind :
    Option Nat) (write : Bool) (ok : OhpIn → Bool) (e : _), (c, typ, kind, write, ok) ∈ [(Instr.roleQuery copies, 1, none, false, fun q =>
    q.payload.length % 2 == 0 && 2 ≤ q.payload.length && q.payload.length ≤ 128), (Instr.csrRead copies, 2, some 0, false, fun q => csrOk q false),
    (Instr.csrWrite copies, 3, some 0, true, fun q => csrOk q true), (Instr.memRead ecc copies, 4, some 0, false, fun q => memOk q false),
    (Instr.memWrite ecc gen copies, 5, some 0, true, fun q => memOk q true), (Instr.graphSubmit ecc ls copies, 6, some 1, true, fun q =>
    q.payload.length == 12 && 32 ≤ u q.payload 8 4), (Instr.modeReq copies, 7, some 0, true, fun q => q.payload.length == 1 && u q.payload 0 1 < 32),
    (Instr.preempt copies, 8, some 1, true, fun q => q.payload.length == 2 && u q.payload 1 1 < 4), (Instr.kvRing copies, 9, some 1, true, fun q =>
    q.payload.length == 5 && u q.payload 4 1 < 4), (Instr.sampleRing copies, 10, some 2, true, fun q => q.payload.length == 5 && u q.payload 4 1 < 4)]
    ∧ s.Request typ q s1 ∧ ok q = true ∧ kind = some (unitKind q.unit) ∧ s.unitEpoch q.unit = some e ∧ q.role ≠ e ∧ q.port < 6 ∧ copies = true ∧ bit
    (smGet {} s.eth.gate q.port).gates 7 = true) ∧
    -- 1.4.1
    (∃ (s : State) (s1 : State) (q : OhpIn) (copies : Bool) (gen : Bool) (ecc : List Nat) (ls : List (Nat × List Byte)) (c : Instr) (typ : Nat) (kind :
    Option Nat) (write : Bool) (ok : OhpIn → Bool) (x : _) (m : _), (c, typ, kind, write, ok) ∈ [(Instr.roleQuery copies, 1, none, false, fun q =>
    q.payload.length % 2 == 0 && 2 ≤ q.payload.length && q.payload.length ≤ 128), (Instr.csrRead copies, 2, some 0, false, fun q => csrOk q false),
    (Instr.csrWrite copies, 3, some 0, true, fun q => csrOk q true), (Instr.memRead ecc copies, 4, some 0, false, fun q => memOk q false),
    (Instr.memWrite ecc gen copies, 5, some 0, true, fun q => memOk q true), (Instr.graphSubmit ecc ls copies, 6, some 1, true, fun q =>
    q.payload.length == 12 && 32 ≤ u q.payload 8 4), (Instr.modeReq copies, 7, some 0, true, fun q => q.payload.length == 1 && u q.payload 0 1 < 32),
    (Instr.preempt copies, 8, some 1, true, fun q => q.payload.length == 2 && u q.payload 1 1 < 4), (Instr.kvRing copies, 9, some 1, true, fun q =>
    q.payload.length == 5 && u q.payload 4 1 < 4), (Instr.sampleRing copies, 10, some 2, true, fun q => q.payload.length == 5 && u q.payload 4 1 < 4)]
    ∧ s.Request typ q s1 ∧ ok q = true ∧ kind = some (unitKind q.unit) ∧ s.Current q ∧ s.ohp.senders.find? q.sentBy = some x ∧ x.seq = q.seq ∧ x.resp
    = some m) ∧
    -- 1.4.2
    (∃ (s : State) (s1 : State) (q : OhpIn) (copies : Bool) (gen : Bool) (ecc : List Nat) (ls : List (Nat × List Byte)) (c : Instr) (typ : Nat) (kind :
    Option Nat) (write : Bool) (ok : OhpIn → Bool), (c, typ, kind, write, ok) ∈ [(Instr.roleQuery copies, 1, none, false, fun q => q.payload.length %
    2 == 0 && 2 ≤ q.payload.length && q.payload.length ≤ 128), (Instr.csrRead copies, 2, some 0, false, fun q => csrOk q false), (Instr.csrWrite
    copies, 3, some 0, true, fun q => csrOk q true), (Instr.memRead ecc copies, 4, some 0, false, fun q => memOk q false), (Instr.memWrite ecc gen
    copies, 5, some 0, true, fun q => memOk q true), (Instr.graphSubmit ecc ls copies, 6, some 1, true, fun q => q.payload.length == 12 && 32 ≤ u
    q.payload 8 4), (Instr.modeReq copies, 7, some 0, true, fun q => q.payload.length == 1 && u q.payload 0 1 < 32), (Instr.preempt copies, 8, some 1,
    true, fun q => q.payload.length == 2 && u q.payload 1 1 < 4), (Instr.kvRing copies, 9, some 1, true, fun q => q.payload.length == 5 && u q.payload
    4 1 < 4), (Instr.sampleRing copies, 10, some 2, true, fun q => q.payload.length == 5 && u q.payload 4 1 < 4)] ∧ s.Request typ q s1 ∧ ok q = true ∧
    kind = some (unitKind q.unit) ∧ s.Current q ∧ s.Fresh q ∧ write = true ∧ s.safe = true) ∧
    -- 2.1
    (∃ (s : State) (q : OhpIn) (payload : List Byte), s.pow.phase = .running ∧ q.port < 6 ∧ payload.length ≤ s.ohpRoom q.port (q.ip != 0 || q.udp != 0)) ∧
    -- 2.15.1
    (∃ (s : State) (q : OhpIn) (copies : Bool) (status : Nat) (payload : List Byte), s.pow.phase = .running ∧ q.port < 6 ∧ payload.length ≤ s.ohpRoom
    q.port (q.ip != 0 || q.udp != 0) ∧ copies = true ∧ s.gateOpen q.port (.ohp ((s.stamped (q.reply status (s.roleOf q.unit) payload)))) = true) ∧
    -- 2.15.2
    (∃ (s : State) (q : OhpIn) (copies : Bool) (status : Nat) (payload : List Byte), s.pow.phase = .running ∧ q.port < 6 ∧ payload.length ≤ s.ohpRoom
    q.port (q.ip != 0 || q.udp != 0) ∧ copies = true ∧ s.gateOpen q.port (.ohp ((s.stamped (q.reply status (s.roleOf q.unit) payload)))) = false) ∧
    -- 2.15.3
    (∃ (s : State) (q : OhpIn) (copies : Bool) (payload : List Byte), s.pow.phase = .running ∧ q.port < 6 ∧ payload.length ≤ s.ohpRoom q.port (q.ip != 0 ||
    q.udp != 0) ∧ copies = false) ∧
    -- 3
    (∃ (s : State), s.pow.phase ≠ .running) ∧
    -- 4.1
    (∃ (s : State) (bs : List Byte) (pos : Nat), s.fget Reg.OHP_CTRL_events = 1 ∧ s.fget Reg.OHP_CTRL_en = 1 ∧ s.saf.ohpOff = false ∧ s.pow.phase =
    .running ∧ s.streamRecs (s.fget Reg.OHP_EVT_DEST_min_class) 64 s.ohp.evtPos s.saf.ring = (bs, pos)) ∧
    -- 4.4
    (∃ (s : State) (bs : List Byte) (pos : Nat), s.fget Reg.OHP_CTRL_events = 1 ∧ s.fget Reg.OHP_CTRL_en = 1 ∧ s.saf.ohpOff = false ∧ s.pow.phase =
    .running ∧ s.streamRecs (s.fget Reg.OHP_EVT_DEST_min_class) 64 s.ohp.evtPos s.saf.ring = (bs, pos) ∧ bs ≠ [] ∧ bit (smGet {} s.eth.gate 0).gates 7
    = true) ∧
    -- 4.4 (b)
    (∃ (s : State) (bs : List Byte) (pos : Nat), s.fget Reg.OHP_CTRL_events = 1 ∧ s.fget Reg.OHP_CTRL_en = 1 ∧ s.saf.ohpOff = false ∧ s.pow.phase =
    .running ∧ s.streamRecs (s.fget Reg.OHP_EVT_DEST_min_class) 64 s.ohp.evtPos s.saf.ring = (bs, pos) ∧ bs ≠ [] ∧ bit (smGet {} s.eth.gate 0).gates 7
    = true) ∧
    -- 4.3
    (∃ (s : State) (bs : List Byte) (pos : Nat), s.fget Reg.OHP_CTRL_events = 1 ∧ s.fget Reg.OHP_CTRL_en = 1 ∧ s.saf.ohpOff = false ∧ s.pow.phase =
    .running ∧ s.streamRecs (s.fget Reg.OHP_EVT_DEST_min_class) 64 s.ohp.evtPos s.saf.ring = (bs, pos) ∧ bs = []) :=
  ⟨⟨wQS (wQ 7 0 [32]) [], wTook (wQS (wQ 7 0 [32]) []) (wQ 7 0 [32]), wQ 7 0 [32], true, true, [], [], Instr.modeReq true, 7, some 0, true, fun q =>
    q.payload.length == 1 && u q.payload 0 1 < 32, by simp, wReq (by decide +kernel), by decide +kernel⟩,
    ⟨wQS (wQ 9 0 [0, 0, 0, 0, 1]) [], wTook (wQS (wQ 9 0 [0, 0, 0, 0, 1]) []) (wQ 9 0 [0, 0, 0, 0, 1]), wQ 9 0 [0, 0, 0, 0, 1], true, true, [], [],
    Instr.kvRing true, 9, some 1, true, fun q => q.payload.length == 5 && u q.payload 4 1 < 4, by simp, wReq (by decide +kernel), Or.inr ⟨1, rfl, by
    decide +kernel⟩⟩,
    ⟨wQS (wQ 8 0x13F [1, 3]) [], wTook (wQS (wQ 8 0x13F [1, 3]) []) (wQ 8 0x13F [1, 3]), wQ 8 0x13F [1, 3], true, true, [], [], Instr.preempt true, 8,
    some 1, true, fun q => q.payload.length == 2 && u q.payload 1 1 < 4, by simp, wReq (by decide +kernel), by decide +kernel⟩,
    ⟨wQS (wQ 2 0x140 (wRd 0x00F000000000 1)) [], wTook (wQS (wQ 2 0x140 (wRd 0x00F000000000 1)) []) (wQ 2 0x140 (wRd 0x00F000000000 1)), wQ 2 0x140
    (wRd 0x00F000000000 1), true, true, [], [], Instr.csrRead true, 2, some 0, false, fun q => csrOk q false, by simp, wReq (by decide +kernel), by
    decide +kernel⟩,
    ⟨wQS (wQ 7 0 [31]) [(Reg.OHP_ROLE_PART_epoch, 2)], wTook (wQS (wQ 7 0 [31]) [(Reg.OHP_ROLE_PART_epoch, 2)]) (wQ 7 0 [31]), wQ 7 0 [31], true, true,
    [], [], Instr.modeReq true, 7, some 0, true, fun q => q.payload.length == 1 && u q.payload 0 1 < 32, 2, by simp, wReq (by decide +kernel), by
    decide +kernel⟩,
    ⟨wQS (wQ 10 0x20F [0, 0, 0, 0, 3]) [(Reg.OHP_ROLE_Q_epoch 15, 7)], wTook (wQS (wQ 10 0x20F [0, 0, 0, 0, 3]) [(Reg.OHP_ROLE_Q_epoch 15, 7)])
    (wQ 10 0x20F [0, 0, 0, 0, 3]), wQ 10 0x20F [0, 0, 0, 0, 3], true, true, [], [], Instr.sampleRing true, 10, some 2, true, fun q => q.payload.length
    == 5 && u q.payload 4 1 < 4, 7, by simp, wReq (by decide +kernel), by decide +kernel⟩,
    ⟨{ wQS (wQ 7 0 [31]) [] with ohp := { State.reset.ohp with queue := [wQ 7 0 [31]], senders := [({ mac := 0x112233445566, part := 3, seq := 9, resp := some (.frame 2 [1]) } : OhpSender)] } },
    wTook
    ({ wQS (wQ 7 0 [31]) [] with ohp := { State.reset.ohp with queue := [wQ 7 0 [31]], senders := [({ mac := 0x112233445566, part := 3, seq := 9, resp := some (.frame 2 [1]) } : OhpSender)] } })
    (wQ 7 0 [31]), wQ 7 0 [31], true, true, [], [], Instr.modeReq true, 7, some 0, true, fun q => q.payload.length == 1 && u q.payload 0 1 < 32,
    ({ mac := 0x112233445566, part := 3, seq := 9, resp := some (.frame 2 [1]) } : OhpSender), Msg.frame 2 [1], by simp, wReq (by decide +kernel), by
    decide +kernel, by decide +kernel, wCur (by decide +kernel), by decide +kernel⟩,
    ⟨wQS (wQ 3 0 (wRd 0x00F000000000 1 ++ [1, 2, 3, 4])) [(Reg.SAF_STATUS_safe, 1)], wTook
    (wQS (wQ 3 0 (wRd 0x00F000000000 1 ++ [1, 2, 3, 4])) [(Reg.SAF_STATUS_safe, 1)]) (wQ 3 0 (wRd 0x00F000000000 1 ++ [1, 2, 3, 4])), wQ 3 0
    (wRd 0x00F000000000 1 ++ [1, 2, 3, 4]), true, true, [], [], Instr.csrWrite true, 3, some 0, true, fun q => csrOk q true, by simp, wReq
    (by decide +kernel), by decide +kernel, by decide +kernel, wCur (by decide +kernel), wFresh (by decide +kernel), by decide +kernel⟩,
    ⟨{ wGo [] with ohp := { State.reset.ohp with senders := [{ mac := 0x112233445566, part := 3, seq := 8, resp := none }, { mac := 1, part := 3, seq := 8, resp := none }] } },
    wQ 2 0 [], List.replicate 64 7, by decide +kernel⟩,
    ⟨{ wGo [] with ohp := { State.reset.ohp with senders := [{ mac := 0x112233445566, part := 3, seq := 8, resp := none }, { mac := 1, part := 3, seq := 8, resp := none }] } },
    wQ 2 0 [], true, 0, List.replicate 64 7, by decide +kernel⟩,
    ⟨{ wGo [] with eth := { State.reset.eth with gate := [(2, { gates := 0x7F })] }, ohp := { State.reset.ohp with senders := [{ mac := 0x112233445566, part := 3, seq := 8, resp := none }, { mac := 1, part := 3, seq := 8, resp := none }] } },
    wQ 2 0 [], true, 0, List.replicate 64 7, by decide +kernel⟩,
    ⟨{ wGo [] with ohp := { State.reset.ohp with senders := [{ mac := 0x112233445566, part := 3, seq := 8, resp := none }, { mac := 1, part := 3, seq := 8, resp := none }] } },
    wQ 2 0 [], false, List.replicate 64 7, by decide +kernel⟩,
    ⟨{ wGo [] with pow := { (wGo []).pow with phase := .standby } }, by decide +kernel⟩,
    ⟨{ wRing with ohp := { State.reset.ohp with evtPos := 7 } }, wRing.logRecord 4, 8, by decide +kernel⟩,
    ⟨{ wRing with ohp := { State.reset.ohp with evtPos := 7 } }, wRing.logRecord 4, 8, by decide +kernel⟩,
    ⟨{ wRing with ohp := { State.reset.ohp with evtPos := 5 } },
    ({ time := wRing.now, code := 0, origin := oHub, unit := uNone, detail := 2 } : Event).bytes ++ wRing.logRecord 4, 8, by decide +kernel⟩,
    ⟨{ wRing with ohp := { State.reset.ohp with evtPos := 8 } }, [], 8, by decide +kernel⟩⟩

theorem wit_OhpRequests :
    -- 1
    (∃ (s : State) (s1 : State) (q : OhpIn), s.Request 1 q s1 ∧ s.Fresh q ∧ q.payload.length % 2 = 0 ∧ 2 ≤ q.payload.length ∧ q.payload.length ≤ 128) ∧
    -- 2.1
    (∃ (s : State) (s1 : State) (q : OhpIn) (copies : Bool) (c : Instr) (typ : Nat) (write : Bool), (c, typ, write) ∈ [(Instr.csrRead copies, 2, false),
    (Instr.csrWrite copies, 3, true)] ∧ s.Request typ q s1 ∧ q.unit = 0 ∧ s.Current q ∧ s.Fresh q ∧ csrOk q write = true ∧ (write = true → s.safe =
    false) ∧ (∃ a ∈ csrWords q, csrWindow a = false ∨ (write = true ∧ hostBarred a = true))) ∧
    -- 2.1 (b)
    (∃ (s : State) (s1 : State) (q : OhpIn) (copies : Bool) (c : Instr) (typ : Nat) (write : Bool), (c, typ, write) ∈ [(Instr.csrRead copies, 2, false),
    (Instr.csrWrite copies, 3, true)] ∧ s.Request typ q s1 ∧ q.unit = 0 ∧ s.Current q ∧ s.Fresh q ∧ csrOk q write = true ∧ (write = true → s.safe =
    false) ∧ (∃ a ∈ csrWords q, csrWindow a = false ∨ (write = true ∧ hostBarred a = true))) ∧
    -- 2.2.1
    (∃ (s : State) (s1 : State) (q : OhpIn) (copies : Bool) (c : Instr) (typ : Nat) (write : Bool) (a : Nat) (k : Nat), (c, typ, write) ∈ [(Instr.csrRead
    copies, 2, false), (Instr.csrWrite copies, 3, true)] ∧ s.Request typ q s1 ∧ q.unit = 0 ∧ s.Current q ∧ s.Fresh q ∧ csrOk q write = true ∧ (write =
    true → s.safe = false) ∧ (∀ a ∈ csrWords q, csrWindow a = true ∧ (write = true → hostBarred a = false)) ∧ s1.csrHole (csrWords q) = some (a, k)) ∧
    -- 2.2.2
    (∃ (s : State) (s1 : State) (q : OhpIn) (copies : Bool) (c : Instr) (typ : Nat) (write : Bool), (c, typ, write) ∈ [(Instr.csrRead copies, 2, false),
    (Instr.csrWrite copies, 3, true)] ∧ s.Request typ q s1 ∧ q.unit = 0 ∧ s.Current q ∧ s.Fresh q ∧ csrOk q write = true ∧ (write = true → s.safe =
    false) ∧ (∀ a ∈ csrWords q, csrWindow a = true ∧ (write = true → hostBarred a = false)) ∧ s1.csrHole (csrWords q) = none ∧ write = false) ∧
    -- 2.2.3
    (∃ (s : State) (s1 : State) (q : OhpIn) (copies : Bool) (c : Instr) (typ : Nat) (write : Bool), (c, typ, write) ∈ [(Instr.csrRead copies, 2, false),
    (Instr.csrWrite copies, 3, true)] ∧ s.Request typ q s1 ∧ q.unit = 0 ∧ s.Current q ∧ s.Fresh q ∧ csrOk q write = true ∧ (write = true → s.safe =
    false) ∧ (∀ a ∈ csrWords q, csrWindow a = true ∧ (write = true → hostBarred a = false)) ∧ s1.csrHole (csrWords q) = none ∧ write = true ∧ u
    q.payload 8 4 = 1) ∧
    -- 3.1
    (∃ (s : State) (s1 : State) (q : OhpIn) (copies : Bool) (gen : Bool) (ecc : List Nat) (c : Instr) (typ : Nat) (write : Bool), (c, typ, write) ∈
    [(Instr.memRead ecc copies, 4, false), (Instr.memWrite ecc gen copies, 5, true)] ∧ s.Request typ q s1 ∧ q.unit = 0 ∧ s.Current q ∧ s.Fresh q ∧
    memOk q write = true ∧ (write = true → s.safe = false) ∧ bulkWindow (u q.payload 0 8) (256 * u q.payload 8 4) = false) ∧
    -- 3.1 (b)
    (∃ (s : State) (s1 : State) (q : OhpIn) (copies : Bool) (gen : Bool) (ecc : List Nat) (c : Instr) (typ : Nat) (write : Bool), (c, typ, write) ∈
    [(Instr.memRead ecc copies, 4, false), (Instr.memWrite ecc gen copies, 5, true)] ∧ s.Request typ q s1 ∧ q.unit = 0 ∧ s.Current q ∧ s.Fresh q ∧
    memOk q write = true ∧ (write = true → s.safe = false) ∧ bulkWindow (u q.payload 0 8) (256 * u q.payload 8 4) = false) ∧
    -- 3.2
    (∃ (s : State) (s1 : State) (q : OhpIn) (copies : Bool) (gen : Bool) (ecc : List Nat) (c : Instr) (typ : Nat) (write : Bool) (a : Nat) (k : Nat), (c,
    typ, write) ∈ [(Instr.memRead ecc copies, 4, false), (Instr.memWrite ecc gen copies, 5, true)] ∧ s.Request typ q s1 ∧ q.unit = 0 ∧ s.Current q ∧
    s.Fresh q ∧ memOk q write = true ∧ (write = true → s.safe = false) ∧ bulkWindow (u q.payload 0 8) (256 * u q.payload 8 4) = true ∧ s1.csrHole
    (memBlocks q) = some (a, k)) ∧
    -- 4.1
    (∃ (s : State) (s1 : State) (q : OhpIn), s.Request 4 q s1 ∧ q.unit = 0 ∧ s.Current q ∧ s.Fresh q ∧ memOk q false = true ∧ bulkWindow (u q.payload 0 8)
    (256 * u q.payload 8 4) = true ∧ s1.csrHole (memBlocks q) = none ∧ s1.ohpRoom q.port (q.ip != 0 || q.udp != 0) < 256 * u q.payload 8 4) ∧
    -- 4.2.1
    (∃ (s : State) (s1 : State) (q : OhpIn) (ecc : List Nat) (v : State) (r : _), s.Request 4 q s1 ∧ q.unit = 0 ∧ s.Current q ∧ s.Fresh q ∧ memOk q false =
    true ∧ bulkWindow (u q.payload 0 8) (256 * u q.payload 8 4) = true ∧ s1.csrHole (memBlocks q) = none ∧ 256 * u q.payload 8 4 ≤ s1.ohpRoom q.port
    (q.ip != 0 || q.udp != 0) ∧ s1.readBlocks (memBlocks q) ecc = (v, r) ∧ r = none) ∧
    -- 4.2.2
    (∃ (s : State) (s1 : State) (q : OhpIn) (ecc : List Nat) (v : State) (r : _) (bs : _), s.Request 4 q s1 ∧ q.unit = 0 ∧ s.Current q ∧ s.Fresh q ∧ memOk
    q false = true ∧ bulkWindow (u q.payload 0 8) (256 * u q.payload 8 4) = true ∧ s1.csrHole (memBlocks q) = none ∧ 256 * u q.payload 8 4 ≤
    s1.ohpRoom q.port (q.ip != 0 || q.udp != 0) ∧ s1.readBlocks (memBlocks q) ecc = (v, r) ∧ r = some (bs, false)) ∧
    -- 4.2.3
    (∃ (s : State) (s1 : State) (q : OhpIn) (ecc : List Nat) (v : State) (r : _) (bs : _), s.Request 4 q s1 ∧ q.unit = 0 ∧ s.Current q ∧ s.Fresh q ∧ memOk
    q false = true ∧ bulkWindow (u q.payload 0 8) (256 * u q.payload 8 4) = true ∧ s1.csrHole (memBlocks q) = none ∧ 256 * u q.payload 8 4 ≤
    s1.ohpRoom q.port (q.ip != 0 || q.udp != 0) ∧ s1.readBlocks (memBlocks q) ecc = (v, r) ∧ r = some (bs, true)) ∧
    -- 5
    (∃ (s : State) (s1 : State) (q : OhpIn) (gen : Bool) (ecc : List Nat) (w : State) (v : State) (ok : _), s.Request 5 q s1 ∧ q.unit = 0 ∧ s.Current q ∧
    s.Fresh q ∧ memOk q true = true ∧ s.safe = false ∧ bulkWindow (u q.payload 0 8) (256 * u q.payload 8 4) = true ∧ s1.csrHole (memBlocks q) = none ∧
    w = (if gen then s1.raise 0x25C4 8 255 0 else s1) ∧ w.writeBlocks gen (memBlocks q) ecc (q.payload.drop 12) = (v, ok)) ∧
    -- 5 (b)
    (∃ (s : State) (s1 : State) (q : OhpIn) (gen : Bool) (ecc : List Nat) (w : State) (v : State) (ok : _), s.Request 5 q s1 ∧ q.unit = 0 ∧ s.Current q ∧
    s.Fresh q ∧ memOk q true = true ∧ s.safe = false ∧ bulkWindow (u q.payload 0 8) (256 * u q.payload 8 4) = true ∧ s1.csrHole (memBlocks q) = none ∧
    w = (if gen then s1.raise 0x25C4 8 255 0 else s1) ∧ w.writeBlocks gen (memBlocks q) ecc (q.payload.drop 12) = (v, ok)) ∧
    -- 6.1
    (∃ (s : State) (s1 : State) (q : OhpIn), s.Current q ∧ s.Fresh q ∧ s.safe = false ∧ s.Request 7 q s1 ∧ q.unit = 0 ∧ q.payload.length = 1 ∧ u q.payload
    0 1 < 32) ∧
    -- 6.2
    (∃ (s : State) (s1 : State) (q : OhpIn), s.Current q ∧ s.Fresh q ∧ s.safe = false ∧ s.Request 8 q s1 ∧ unitKind q.unit = 1 ∧ q.payload.length = 2 ∧ u
    q.payload 1 1 < 4) ∧
    -- 6.3
    (∃ (s : State) (s1 : State) (q : OhpIn), s.Current q ∧ s.Fresh q ∧ s.safe = false ∧ s.Request 9 q s1 ∧ unitKind q.unit = 1 ∧ q.payload.length = 5 ∧ u
    q.payload 4 1 < 4) ∧
    -- 6.4
    (∃ (s : State) (s1 : State) (q : OhpIn), s.Current q ∧ s.Fresh q ∧ s.safe = false ∧ s.Request 10 q s1 ∧ unitKind q.unit = 2 ∧ q.payload.length = 5 ∧ u
    q.payload 4 1 < 4) ∧
    -- 7.1
    (∃ (s : State) (s1 : State) (q : OhpIn) (a : Nat) (n : Nat) (as_ : List Addr), s.Current q ∧ s.Fresh q ∧ s.safe = false ∧ s.Request 6 q s1 ∧ unitKind
    q.unit = 1 ∧ q.payload.length = 12 ∧ u q.payload 0 8 = a ∧ u q.payload 8 4 = n ∧ 32 ≤ n ∧ as_ = ((List.range (ceilDiv (a % 256 + n) 256)).map fun
    i => a / 256 * 256 + 256 * i) ∧ bulkWindow a n = false) ∧
    -- 7.2
    (∃ (s : State) (s1 : State) (q : OhpIn) (a : Nat) (n : Nat) (as_ : List Addr) (b : Nat) (k : Nat), s.Current q ∧ s.Fresh q ∧ s.safe = false ∧ s.Request
    6 q s1 ∧ unitKind q.unit = 1 ∧ q.payload.length = 12 ∧ u q.payload 0 8 = a ∧ u q.payload 8 4 = n ∧ 32 ≤ n ∧ as_ = ((List.range (ceilDiv (a % 256 +
    n) 256)).map fun i => a / 256 * 256 + 256 * i) ∧ bulkWindow a n = true ∧ s1.csrHole as_ = some (b, k)) ∧
    -- 7.3.1
    (∃ (s : State) (s1 : State) (q : OhpIn) (ecc : List Nat) (a : Nat) (n : Nat) (as_ : List Addr) (v : State) (res : _), s.Current q ∧ s.Fresh q ∧ s.safe
    = false ∧ s.Request 6 q s1 ∧ unitKind q.unit = 1 ∧ q.payload.length = 12 ∧ u q.payload 0 8 = a ∧ u q.payload 8 4 = n ∧ 32 ≤ n ∧ as_ = ((List.range
    (ceilDiv (a % 256 + n) 256)).map fun i => a / 256 * 256 + 256 * i) ∧ bulkWindow a n = true ∧ s1.csrHole as_ = none ∧ s1.readBlocks as_ ecc = (v,
    res) ∧ (res = none ∨ (∃ bs, res = some (bs, true)))) ∧
    -- 7.3.2.1
    (∃ (s : State) (s1 : State) (q : OhpIn) (ecc : List Nat) (a : Nat) (n : Nat) (as_ : List Addr) (v : State) (res : _) (bs : _) (r : _) (g : _),
    s.Current q ∧ s.Fresh q ∧ s.safe = false ∧ s.Request 6 q s1 ∧ unitKind q.unit = 1 ∧ q.payload.length = 12 ∧ u q.payload 0 8 = a ∧ u q.payload 8 4
    = n ∧ 32 ≤ n ∧ as_ = ((List.range (ceilDiv (a % 256 + n) 256)).map fun i => a / 256 * 256 + 256 * i) ∧ bulkWindow a n = true ∧ s1.csrHole as_ =
    none ∧ s1.readBlocks as_ ecc = (v, res) ∧ res = some (bs, false) ∧ s1.planRec = some r ∧ g = readGraph (sliceB bs (a % 256) n) 0 0 ∧ g.part ≠
    q.unit - 0x100) ∧
    -- 7.3.2.2
    (∃ (s : State) (s1 : State) (q : OhpIn) (ecc : List Nat) (a : Nat) (n : Nat) (as_ : List Addr) (v : State) (res : _) (bs : _) (r : _) (g : _) (e :
    VFail), s.Current q ∧ s.Fresh q ∧ s.safe = false ∧ s.Request 6 q s1 ∧ unitKind q.unit = 1 ∧ q.payload.length = 12 ∧ u q.payload 0 8 = a ∧ u
    q.payload 8 4 = n ∧ 32 ≤ n ∧ as_ = ((List.range (ceilDiv (a % 256 + n) 256)).map fun i => a / 256 * 256 + 256 * i) ∧ bulkWindow a n = true ∧
    s1.csrHole as_ = none ∧ s1.readBlocks as_ ecc = (v, res) ∧ res = some (bs, false) ∧ s1.planRec = some r ∧ g = readGraph (sliceB bs (a % 256) n) 0
    0 ∧ g.part = q.unit - 0x100 ∧ validateGraph r.plan g = some e) ∧
    -- 7.3.2.3
    (∃ (s : State) (s1 : State) (q : OhpIn) (ecc : List Nat) (a : Nat) (n : Nat) (as_ : List Addr) (v : State) (res : _) (bs : _) (r : _) (g : _),
    s.Current q ∧ s.Fresh q ∧ s.safe = false ∧ s.Request 6 q s1 ∧ unitKind q.unit = 1 ∧ q.payload.length = 12 ∧ u q.payload 0 8 = a ∧ u q.payload 8 4
    = n ∧ 32 ≤ n ∧ as_ = ((List.range (ceilDiv (a % 256 + n) 256)).map fun i => a / 256 * 256 + 256 * i) ∧ bulkWindow a n = true ∧ s1.csrHole as_ =
    none ∧ s1.readBlocks as_ ecc = (v, res) ∧ res = some (bs, false) ∧ s1.planRec = some r ∧ g = readGraph (sliceB bs (a % 256) n) 0 0 ∧ g.part =
    q.unit - 0x100 ∧ validateGraph r.plan g = none) :=
  ⟨⟨wQS (wQ 1 0x7777 [0, 0, 0x0F, 2]) [(Reg.OHP_ROLE_Q_epoch 15, 7)], wTook (wQS (wQ 1 0x7777 [0, 0, 0x0F, 2]) [(Reg.OHP_ROLE_Q_epoch 15, 7)])
    (wQ 1 0x7777 [0, 0, 0x0F, 2]), wQ 1 0x7777 [0, 0, 0x0F, 2], wReq (by decide +kernel), wFresh (by decide +kernel), by decide +kernel⟩,
    ⟨wQS (wQ 2 0 (wRd 0x004000000000 1)) [], wTook (wQS (wQ 2 0 (wRd 0x004000000000 1)) []) (wQ 2 0 (wRd 0x004000000000 1)), wQ 2 0
    (wRd 0x004000000000 1), true, Instr.csrRead true, 2, false, by simp, wReq (by decide +kernel), by decide +kernel, wCur (by decide +kernel), wFresh
    (by decide +kernel), by decide +kernel⟩,
    ⟨wQS (wQ 3 0 (wRd 0x00F000180000 1 ++ [1, 2, 3, 4])) [], wTook (wQS (wQ 3 0 (wRd 0x00F000180000 1 ++ [1, 2, 3, 4])) [])
    (wQ 3 0 (wRd 0x00F000180000 1 ++ [1, 2, 3, 4])), wQ 3 0 (wRd 0x00F000180000 1 ++ [1, 2, 3, 4]), true, Instr.csrWrite true, 3, true, by simp, wReq
    (by decide +kernel), by decide +kernel, wCur (by decide +kernel), wFresh (by decide +kernel), by decide +kernel⟩,
    ⟨wQS (wQ 2 0 (wRd 0x00F000000030 1)) [], wTook (wQS (wQ 2 0 (wRd 0x00F000000030 1)) []) (wQ 2 0 (wRd 0x00F000000030 1)), wQ 2 0
    (wRd 0x00F000000030 1), true, Instr.csrRead true, 2, false, 0x00F000000030, 0, by simp, wReq (by decide +kernel), by decide +kernel, wCur
    (by decide +kernel), wFresh (by decide +kernel), by decide +kernel⟩,
    ⟨wQS (wQ 2 0 (wRd 0x00F000000010 2)) [], wTook (wQS (wQ 2 0 (wRd 0x00F000000010 2)) []) (wQ 2 0 (wRd 0x00F000000010 2)), wQ 2 0
    (wRd 0x00F000000010 2), true, Instr.csrRead true, 2, false, by simp, wReq (by decide +kernel), by decide +kernel, wCur (by decide +kernel), wFresh
    (by decide +kernel), by decide +kernel⟩,
    ⟨wQS (wQ 3 0 (wRd Reg.HLT_CTRL 1 ++ [1, 2, 3, 4])) [], wTook (wQS (wQ 3 0 (wRd Reg.HLT_CTRL 1 ++ [1, 2, 3, 4])) [])
    (wQ 3 0 (wRd Reg.HLT_CTRL 1 ++ [1, 2, 3, 4])), wQ 3 0 (wRd Reg.HLT_CTRL 1 ++ [1, 2, 3, 4]), true, Instr.csrWrite true, 3, true, by simp, wReq
    (by decide +kernel), by decide +kernel, wCur (by decide +kernel), wFresh (by decide +kernel), by decide +kernel⟩,
    ⟨wQS (wQ 4 0 (wRd 0x004FFFFFFF00 2)) [], wTook (wQS (wQ 4 0 (wRd 0x004FFFFFFF00 2)) []) (wQ 4 0 (wRd 0x004FFFFFFF00 2)), wQ 4 0
    (wRd 0x004FFFFFFF00 2), true, false, [], Instr.memRead [] true, 4, false, by simp, wReq (by decide +kernel), by decide +kernel, wCur
    (by decide +kernel), wFresh (by decide +kernel), by decide +kernel⟩,
    ⟨wQS (wQ 5 0 (wRd 0x005000000000 1 ++ List.replicate 256 0)) [], wTook (wQS (wQ 5 0 (wRd 0x005000000000 1 ++ List.replicate 256 0)) [])
    (wQ 5 0 (wRd 0x005000000000 1 ++ List.replicate 256 0)), wQ 5 0 (wRd 0x005000000000 1 ++ List.replicate 256 0), true, true, [], Instr.memWrite []
    true true, 5, true, by simp, wReq (by decide +kernel), by decide +kernel, wCur (by decide +kernel), wFresh (by decide +kernel), by decide +kernel⟩,
    ⟨wQS (wQ 4 0 (wRd 0x004FFFFFFE00 1)) [], wTook (wQS (wQ 4 0 (wRd 0x004FFFFFFE00 1)) []) (wQ 4 0 (wRd 0x004FFFFFFE00 1)), wQ 4 0
    (wRd 0x004FFFFFFE00 1), true, false, [], Instr.memRead [] true, 4, false, 0x004FFFFFFE00, 3, by simp, wReq (by decide +kernel), by decide +kernel,
    wCur (by decide +kernel), wFresh (by decide +kernel), by decide +kernel⟩,
    ⟨wQS (wQ 4 0 (wRd 0x004000000100 6)) [(Reg.ETH_PORT_CTRL_mtu 2, 1518)], wTook (wQS (wQ 4 0 (wRd 0x004000000100 6)) [(Reg.ETH_PORT_CTRL_mtu 2, 1518)])
    (wQ 4 0 (wRd 0x004000000100 6)), wQ 4 0 (wRd 0x004000000100 6), wReq (by decide +kernel), by decide +kernel, wCur (by decide +kernel), wFresh
    (by decide +kernel), by decide +kernel⟩,
    ⟨wQS (wQ 4 0 (wRd 0x004000000100 1)) [], wTook (wQS (wQ 4 0 (wRd 0x004000000100 1)) []) (wQ 4 0 (wRd 0x004000000100 1)), wQ 4 0
    (wRd 0x004000000100 1), [3],
    ((wTook (wQS (wQ 4 0 (wRd 0x004000000100 1)) []) (wQ 4 0 (wRd 0x004000000100 1))).readBlocks (memBlocks (wQ 4 0 (wRd 0x004000000100 1))) [3]).1,
    none, wReq (by decide +kernel), by decide +kernel, wCur (by decide +kernel), wFresh (by decide +kernel), by decide +kernel⟩,
    ⟨wQS (wQ 4 0 (wRd 0x004000000100 1)) [], wTook (wQS (wQ 4 0 (wRd 0x004000000100 1)) []) (wQ 4 0 (wRd 0x004000000100 1)), wQ 4 0
    (wRd 0x004000000100 1), [1],
    ((wTook (wQS (wQ 4 0 (wRd 0x004000000100 1)) []) (wQ 4 0 (wRd 0x004000000100 1))).readBlocks (memBlocks (wQ 4 0 (wRd 0x004000000100 1))) [1]).1,
    some ((List.replicate 256 0 : List Byte), false), (List.replicate 256 0 : List Byte), wReq (by decide +kernel), by decide +kernel, wCur
    (by decide +kernel), wFresh (by decide +kernel), by decide +kernel⟩,
    ⟨wBad (wQ 4 0 (wRd 0x004000000000 1)), wTook (wBad (wQ 4 0 (wRd 0x004000000000 1))) (wQ 4 0 (wRd 0x004000000000 1)), wQ 4 0 (wRd 0x004000000000 1),
    [], ((wTook (wBad (wQ 4 0 (wRd 0x004000000000 1))) (wQ 4 0 (wRd 0x004000000000 1))).readBlocks (memBlocks (wQ 4 0 (wRd 0x004000000000 1))) []).1,
    some ((List.replicate 256 0 : List Byte), true), (List.replicate 256 0 : List Byte), wReq (by decide +kernel), by decide +kernel, wCur
    (by decide +kernel), wFresh (by decide +kernel), by decide +kernel⟩,
    ⟨wQS (wQ 5 0 (wRd 0x004000000000 1 ++ List.replicate 256 0)) [], wTook (wQS (wQ 5 0 (wRd 0x004000000000 1 ++ List.replicate 256 0)) [])
    (wQ 5 0 (wRd 0x004000000000 1 ++ List.replicate 256 0)), wQ 5 0 (wRd 0x004000000000 1 ++ List.replicate 256 0), false, [], wTook
    (wQS (wQ 5 0 (wRd 0x004000000000 1 ++ List.replicate 256 0)) []) (wQ 5 0 (wRd 0x004000000000 1 ++ List.replicate 256 0)),
    ((wTook (wQS (wQ 5 0 (wRd 0x004000000000 1 ++ List.replicate 256 0)) []) (wQ 5 0 (wRd 0x004000000000 1 ++ List.replicate 256 0))).writeBlocks false (memBlocks (wQ 5 0 (wRd 0x004000000000 1 ++ List.replicate 256 0))) [] ((wQ 5 0 (wRd 0x004000000000 1 ++ List.replicate 256 0)).payload.drop 12)).1,
    true, wReq (by decide +kernel), by decide +kernel, wCur (by decide +kernel), wFresh (by decide +kernel), by decide +kernel⟩,
    ⟨wQS (wQ 5 0 (wRd 0x004000000000 1 ++ List.replicate 256 0)) [(⟨Reg.MEM_STATUS .hub, 15, 8⟩, 0xF)], wTook
    (wQS (wQ 5 0 (wRd 0x004000000000 1 ++ List.replicate 256 0)) [(⟨Reg.MEM_STATUS .hub, 15, 8⟩, 0xF)])
    (wQ 5 0 (wRd 0x004000000000 1 ++ List.replicate 256 0)), wQ 5 0 (wRd 0x004000000000 1 ++ List.replicate 256 0), true, [],
    (wTook (wQS (wQ 5 0 (wRd 0x004000000000 1 ++ List.replicate 256 0)) [(⟨Reg.MEM_STATUS .hub, 15, 8⟩, 0xF)]) (wQ 5 0 (wRd 0x004000000000 1 ++ List.replicate 256 0))).raise
    0x25C4 8 255 0,
    (((wTook (wQS (wQ 5 0 (wRd 0x004000000000 1 ++ List.replicate 256 0)) [(⟨Reg.MEM_STATUS .hub, 15, 8⟩, 0xF)]) (wQ 5 0 (wRd 0x004000000000 1 ++ List.replicate 256 0))).raise 0x25C4 8 255 0).writeBlocks true (memBlocks (wQ 5 0 (wRd 0x004000000000 1 ++ List.replicate 256 0))) [] ((wQ 5 0 (wRd 0x004000000000 1 ++ List.replicate 256 0)).payload.drop 12)).1,
    false, wReq (by decide +kernel), by decide +kernel, wCur (by decide +kernel), wFresh (by decide +kernel), by decide +kernel⟩,
    ⟨wQS (wQ 7 0 [31]) [], wTook (wQS (wQ 7 0 [31]) []) (wQ 7 0 [31]), wQ 7 0 [31], wCur (by decide +kernel), wFresh (by decide +kernel), by
    decide +kernel, wReq (by decide +kernel), by decide +kernel⟩,
    ⟨wQS (wQ 8 0x100 [1, 3]) [(Reg.OHP_ROLE_P_epoch 0, 1)], wTook (wQS (wQ 8 0x100 [1, 3]) [(Reg.OHP_ROLE_P_epoch 0, 1)]) (wQ 8 0x100 [1, 3]), wQ 8 0x100
    [1, 3], wCur (by decide +kernel), wFresh (by decide +kernel), by decide +kernel, wReq (by decide +kernel), by decide +kernel⟩,
    ⟨wQS (wQ 9 0x100 [1, 0, 0, 0, 1]) [(Reg.OHP_ROLE_P_epoch 0, 1)], wTook (wQS (wQ 9 0x100 [1, 0, 0, 0, 1]) [(Reg.OHP_ROLE_P_epoch 0, 1)])
    (wQ 9 0x100 [1, 0, 0, 0, 1]), wQ 9 0x100 [1, 0, 0, 0, 1], wCur (by decide +kernel), wFresh (by decide +kernel), by decide +kernel, wReq
    (by decide +kernel), by decide +kernel⟩,
    ⟨wQS (wQ 10 0x20F [1, 0, 0, 0, 3]) [(Reg.OHP_ROLE_Q_epoch 15, 1)], wTook (wQS (wQ 10 0x20F [1, 0, 0, 0, 3]) [(Reg.OHP_ROLE_Q_epoch 15, 1)])
    (wQ 10 0x20F [1, 0, 0, 0, 3]), wQ 10 0x20F [1, 0, 0, 0, 3], wCur (by decide +kernel), wFresh (by decide +kernel), by decide +kernel, wReq
    (by decide +kernel), by decide +kernel⟩,
    ⟨wQS (wQ 6 0x100 (wRd 0x003FFFFFFFF0 96)) [(Reg.OHP_ROLE_P_epoch 0, 1)], wTook
    (wQS (wQ 6 0x100 (wRd 0x003FFFFFFFF0 96)) [(Reg.OHP_ROLE_P_epoch 0, 1)]) (wQ 6 0x100 (wRd 0x003FFFFFFFF0 96)), wQ 6 0x100 (wRd 0x003FFFFFFFF0 96),
    0x003FFFFFFFF0, 96, [0x003FFFFFFF00, 0x004000000000], wCur (by decide +kernel), wFresh (by decide +kernel), by decide +kernel, wReq
    (by decide +kernel), by decide +kernel⟩,
    ⟨wQS (wQ 6 0x100 (wRd 0x004FFFFFFE00 96)) [(Reg.OHP_ROLE_P_epoch 0, 1)], wTook
    (wQS (wQ 6 0x100 (wRd 0x004FFFFFFE00 96)) [(Reg.OHP_ROLE_P_epoch 0, 1)]) (wQ 6 0x100 (wRd 0x004FFFFFFE00 96)), wQ 6 0x100 (wRd 0x004FFFFFFE00 96),
    0x004FFFFFFE00, 96, [0x004FFFFFFE00], 0x004FFFFFFE00, 3, wCur (by decide +kernel), wFresh (by decide +kernel), by decide +kernel, wReq
    (by decide +kernel), by decide +kernel⟩,
    ⟨wQS (wQ 6 0x100 (wRd 0x004000000000 96)) [(Reg.OHP_ROLE_P_epoch 0, 1)], wTook
    (wQS (wQ 6 0x100 (wRd 0x004000000000 96)) [(Reg.OHP_ROLE_P_epoch 0, 1)]) (wQ 6 0x100 (wRd 0x004000000000 96)), wQ 6 0x100 (wRd 0x004000000000 96),
    [3], 0x004000000000, 96, [0x004000000000],
    ((wTook (wQS (wQ 6 0x100 (wRd 0x004000000000 96)) [(Reg.OHP_ROLE_P_epoch 0, 1)]) (wQ 6 0x100 (wRd 0x004000000000 96))).readBlocks [0x004000000000] [3]).1,
    none, wCur (by decide +kernel), wFresh (by decide +kernel), by decide +kernel, wReq (by decide +kernel), by decide +kernel, by decide +kernel, by
    decide +kernel, by decide +kernel, by decide +kernel, by decide +kernel, by decide +kernel, by decide +kernel, by decide +kernel, Or.inl rfl⟩,
    ⟨{ (wOn (wQS (wQ 6 0x100 (wRd 0x004000000000 96)) []) [(Reg.OHP_ROLE_P_epoch 0, 1)]).poke 8 0 0x004000000000 wGd with ohp := { State.reset.ohp with queue := [wQ 6 0x100 (wRd 0x004000000000 96)] } },
    wTook
    ({ (wOn (wQS (wQ 6 0x100 (wRd 0x004000000000 96)) []) [(Reg.OHP_ROLE_P_epoch 0, 1)]).poke 8 0 0x004000000000 wGd with ohp := { State.reset.ohp with queue := [wQ 6 0x100 (wRd 0x004000000000 96)] } })
    (wQ 6 0x100 (wRd 0x004000000000 96)), wQ 6 0x100 (wRd 0x004000000000 96), [], 0x004000000000, 96, [0x004000000000],
    ((wTook ({ (wOn (wQS (wQ 6 0x100 (wRd 0x004000000000 96)) []) [(Reg.OHP_ROLE_P_epoch 0, 1)]).poke 8 0 0x004000000000 wGd with ohp := { State.reset.ohp with queue := [wQ 6 0x100 (wRd 0x004000000000 96)] } }) (wQ 6 0x100 (wRd 0x004000000000 96))).readBlocks [0x004000000000] []).1,
    some ((wGd ++ List.replicate 160 0 : List Byte), false), wGd ++ List.replicate 160 0, wPlan [], readGraph wGd 0 0, wCur (by decide +kernel),
    wFresh (by decide +kernel), by decide +kernel, wReq (by decide +kernel), by decide +kernel⟩,
    ⟨{ (wOn (wQS (wQ 6 0x100 (wRd 0x004000000000 96)) []) [(Reg.OHP_ROLE_P_epoch 0, 1)]).poke 8 0 0x004000000000 wGc with ohp := { State.reset.ohp with queue := [wQ 6 0x100 (wRd 0x004000000000 96)] } },
    wTook
    ({ (wOn (wQS (wQ 6 0x100 (wRd 0x004000000000 96)) []) [(Reg.OHP_ROLE_P_epoch 0, 1)]).poke 8 0 0x004000000000 wGc with ohp := { State.reset.ohp with queue := [wQ 6 0x100 (wRd 0x004000000000 96)] } })
    (wQ 6 0x100 (wRd 0x004000000000 96)), wQ 6 0x100 (wRd 0x004000000000 96), [], 0x004000000000, 96, [0x004000000000],
    ((wTook ({ (wOn (wQS (wQ 6 0x100 (wRd 0x004000000000 96)) []) [(Reg.OHP_ROLE_P_epoch 0, 1)]).poke 8 0 0x004000000000 wGc with ohp := { State.reset.ohp with queue := [wQ 6 0x100 (wRd 0x004000000000 96)] } }) (wQ 6 0x100 (wRd 0x004000000000 96))).readBlocks [0x004000000000] []).1,
    some ((wGc ++ List.replicate 160 0 : List Byte), false), wGc ++ List.replicate 160 0, wPlan [], readGraph wGc 0 0, wGe, wCur (by decide +kernel),
    wFresh (by decide +kernel), by decide +kernel, wReq (by decide +kernel), by decide +kernel⟩,
    ⟨{ (wOn (wQS (wQ 6 0x100 (wRd 0x004000000000 96)) []) [(Reg.OHP_ROLE_P_epoch 0, 1)]).poke 8 0 0x004000000000 wGb with ohp := { State.reset.ohp with queue := [wQ 6 0x100 (wRd 0x004000000000 96)] } },
    wTook
    ({ (wOn (wQS (wQ 6 0x100 (wRd 0x004000000000 96)) []) [(Reg.OHP_ROLE_P_epoch 0, 1)]).poke 8 0 0x004000000000 wGb with ohp := { State.reset.ohp with queue := [wQ 6 0x100 (wRd 0x004000000000 96)] } })
    (wQ 6 0x100 (wRd 0x004000000000 96)), wQ 6 0x100 (wRd 0x004000000000 96), [], 0x004000000000, 96, [0x004000000000],
    ((wTook ({ (wOn (wQS (wQ 6 0x100 (wRd 0x004000000000 96)) []) [(Reg.OHP_ROLE_P_epoch 0, 1)]).poke 8 0 0x004000000000 wGb with ohp := { State.reset.ohp with queue := [wQ 6 0x100 (wRd 0x004000000000 96)] } }) (wQ 6 0x100 (wRd 0x004000000000 96))).readBlocks [0x004000000000] []).1,
    some ((wGb ++ List.replicate 160 0 : List Byte), false), wGb ++ List.replicate 160 0, wPlan [], readGraph wGb 0 0, wCur (by decide +kernel),
    wFresh (by decide +kernel), by decide +kernel, wReq (by decide +kernel), by decide +kernel⟩⟩

def wQj (typ flags status src : Nat) (p : List Byte) : OhpIn := { port := 2, mac := 0x112233445566, vlan := 5, typ := typ, flags := flags, seq := 9, dstPart := 0, srcPart := src, unit := 0, status := status, role := 1, txTime := 0, payload := p }
def wJ (l : List (Fld × Nat)) (j : JsyState) (q : List OhpIn) : State :=
  { (wOn (wGo []) ((Reg.OHP_CTRL_en, 1) :: (Reg.OHP_ROLE_PART_epoch, 1) :: (Reg.JSY_MEMBERS_base, 0x004000000000) :: l)).poke 8 0 0x004000000000 [3] with
    ohp := { State.reset.ohp with queue := q }, jsy := j }
def wJTook (s : State) (q : OhpIn) : State := ({ s with ohp := { s.ohp with queue := s.ohp.queue.tail } }.count Reg.OHP_CNT_RX_count 1).hear q
def wBar (step first : Nat) (here : List Nat) : Barrier := { step := step, graph := 1, task := 0, here := here, first := first, latest := 77, allowed := 1000 }

theorem wit_GroupBarriers :
    -- 1.1
    (∃ (s : State) (s1 : State) (q : OhpIn), s.Request 0x20 q s1 ∧ q.unit = 0 ∧ s.Current q ∧ q.payload.length = 20 ∧ u q.payload 11 1 = 0 ∧ s.isMaster =
    true) ∧
    -- 1.2
    (∃ (s : State) (s1 : State) (q : OhpIn), s.Request 0x20 q s1 ∧ q.unit = 0 ∧ s.Current q ∧ q.payload.length = 20 ∧ u q.payload 11 1 = 0 ∧ s.isMaster =
    false) ∧
    -- 2.1
    (∃ (s : State) (p : Nat) (step : Nat) (g : Nat) (i : Nat), s.member p = false ∨ (step, g, i, true) ∈ s.jsy.closed) ∧
    -- 2.1 (b)
    (∃ (s : State) (p : Nat) (step : Nat) (g : Nat) (i : Nat), s.member p = false ∨ (step, g, i, true) ∈ s.jsy.closed) ∧
    -- 2.1 (c)
    (∃ (s : State) (p : Nat) (step : Nat) (g : Nat) (i : Nat), s.member p = false ∨ (step, g, i, true) ∈ s.jsy.closed) ∧
    -- 2.2.1.1
    (∃ (s : State) (p : Nat) (step : Nat) (g : Nat) (i : Nat), s.member p = true ∧ (step, g, i, true) ∉ s.jsy.closed ∧ (step, g, i, false) ∉ s.jsy.closed ∧
    (∀ b ∈ s.jsy.barriers, ¬ (b.step = step ∧ b.graph = g ∧ b.task = i)) ∧ 64 ≤ s.jsy.barriers.length) ∧
    -- 2.2.1.2
    (∃ (s : State) (p : Nat) (step : Nat) (g : Nat) (i : Nat) (at_ : Nat) (b : Barrier), s.member p = true ∧ (step, g, i, true) ∉ s.jsy.closed ∧ (step, g,
    i, false) ∉ s.jsy.closed ∧ (∀ b ∈ s.jsy.barriers, ¬ (b.step = step ∧ b.graph = g ∧ b.task = i)) ∧ s.jsy.barriers.length < 64 ∧ (b =
    { step := step, graph := g, task := i, here := [p], first := s.now, latest := at_, allowed := max 1 (s.fget Reg.ADM_WAIT_barrier_us) * 1000 })) ∧
    -- 2.2.2
    (∃ (s : State) (p : Nat) (step : Nat) (g : Nat) (i : Nat) (at_ : Nat) (b : Barrier) (v : Barrier), s.member p = true ∧ (step, g, i, true) ∉
    s.jsy.closed ∧ (step, g, i, false) ∉ s.jsy.closed ∧ s.jsy.barriers.find? (fun (x : Barrier) => x.step == step && x.graph == g && x.task == i) =
    some b ∧ (v = { b with here := if p ∈ b.here then b.here else b.here ++ [p], latest := if p ∈ b.here then b.latest else max b.latest at_ })) ∧
    -- 2.2.2 (b)
    (∃ (s : State) (p : Nat) (step : Nat) (g : Nat) (i : Nat) (at_ : Nat) (b : Barrier) (v : Barrier), s.member p = true ∧ (step, g, i, true) ∉
    s.jsy.closed ∧ (step, g, i, false) ∉ s.jsy.closed ∧ s.jsy.barriers.find? (fun (x : Barrier) => x.step == step && x.graph == g && x.task == i) =
    some b ∧ (v = { b with here := if p ∈ b.here then b.here else b.here ++ [p], latest := if p ∈ b.here then b.latest else max b.latest at_ })) ∧
    -- 2.3
    (∃ (s : State) (p : Nat) (step : Nat) (g : Nat) (i : Nat), s.member p = true ∧ (step, g, i, true) ∉ s.jsy.closed ∧ (step, g, i, false) ∈ s.jsy.closed) ∧
    -- 3.1
    (∃ (s : State) (b : Barrier), s.fget Reg.JSY_CKPT_port < 6 ∧ (∃ p ∈ s.members, p ∉ b.here)) ∧
    -- 3.2
    (∃ (s : State) (b : Barrier), s.fget Reg.JSY_CKPT_port < 6 ∧ (∀ p ∈ s.members, p ∈ b.here) ∧ bit (smGet {} s.eth.gate (s.fget Reg.JSY_CKPT_port)).gates
    7 = true) ∧
    -- 4.1
    (∃ (s : State) (s1 : State) (q : OhpIn), q.unit = 0 ∧ s.Current q ∧ s.Request 0x21 q s1 ∧ q.payload.length = 24 ∧ u q.payload 11 1 = 0 ∧ u q.payload 14
    2 = 0) ∧
    -- 4.2.1
    (∃ (s : State) (s1 : State) (q : OhpIn), q.unit = 0 ∧ s.Current q ∧ s.Request 0x27 q s1 ∧ q.payload.length = 8 ∧ s.isMaster = false) ∧
    -- 4.2.2
    (∃ (s : State) (s1 : State) (q : OhpIn), q.unit = 0 ∧ s.Current q ∧ s.Request 0x27 q s1 ∧ q.payload.length = 8 ∧ s.isMaster = true) ∧
    -- 5
    (∃ (s : State) (step : Nat) (g : Nat) (i : Nat) (r : TaskRun), s.allRuns = [r] ∧ r.graph = g ∧ r.task = i ∧ r.st = .running ∧ s.isBarrier r = true ∧
    (s.inst g r.inst).step = step) ∧
    -- 6
    (∃ (s : State) (step : Nat) (g : Nat) (i : Nat), (∀ r ∈ s.allRuns, r.graph = g → r.task = i → r.st = .running → s.isBarrier r = true → (s.inst g
    r.inst).step ≠ step)) ∧
    -- 7.1
    (∃ (s : State) (step : Nat) (g : Nat) (i : Nat), (∀ b ∈ s.jsy.barriers, b.step = step → b.graph = g → b.task = i → s.now < b.first + b.allowed)) ∧
    -- 7.2
    (∃ (s : State) (step : Nat) (g : Nat) (i : Nat) (b : Barrier), b ∈ s.jsy.barriers ∧ b.step = step ∧ b.graph = g ∧ b.task = i ∧ b.first + b.allowed ≤
    s.now) :=
  ⟨⟨wJ [] {} [wQj 0x20 0 0 1 (leBytes 8 4 ++ leBytes 2 0 ++ leBytes 1 1 ++ leBytes 1 0 ++ leBytes 8 500)], wJTook
    (wJ [] {} [wQj 0x20 0 0 1 (leBytes 8 4 ++ leBytes 2 0 ++ leBytes 1 1 ++ leBytes 1 0 ++ leBytes 8 500)])
    (wQj 0x20 0 0 1 (leBytes 8 4 ++ leBytes 2 0 ++ leBytes 1 1 ++ leBytes 1 0 ++ leBytes 8 500)), wQj 0x20 0 0 1
    (leBytes 8 4 ++ leBytes 2 0 ++ leBytes 1 1 ++ leBytes 1 0 ++ leBytes 8 500), wReq (by decide +kernel), by decide +kernel, wCur
    (by decide +kernel), by decide +kernel⟩,
    ⟨wJ [(Reg.JSY_GROUP_master, 5)] {} [wQj 0x20 0 0 1 (leBytes 8 4 ++ leBytes 2 0 ++ leBytes 1 1 ++ leBytes 1 0 ++ leBytes 8 500)], wJTook
    (wJ [(Reg.JSY_GROUP_master, 5)] {} [wQj 0x20 0 0 1 (leBytes 8 4 ++ leBytes 2 0 ++ leBytes 1 1 ++ leBytes 1 0 ++ leBytes 8 500)])
    (wQj 0x20 0 0 1 (leBytes 8 4 ++ leBytes 2 0 ++ leBytes 1 1 ++ leBytes 1 0 ++ leBytes 8 500)), wQj 0x20 0 0 1
    (leBytes 8 4 ++ leBytes 2 0 ++ leBytes 1 1 ++ leBytes 1 0 ++ leBytes 8 500), wReq (by decide +kernel), by decide +kernel, wCur
    (by decide +kernel), by decide +kernel⟩,
    ⟨wJ [] {} [], 2, 4, 1, 0, by decide +kernel⟩,
    ⟨wJ [] { closed := [(4, 1, 0, true)] } [], 1, 4, 1, 0, by decide +kernel⟩,
    ⟨wJ [] { withdrawn := [1] } [], 1, 4, 1, 0, by decide +kernel⟩,
    ⟨wJ [] { barriers := (List.range 64).map fun i => wBar (i + 10) 5 [0] } [], 1, 4, 1, 0, by decide +kernel⟩,
    ⟨wJ [] { barriers := (List.range 63).map fun i => wBar (i + 10) 5 [0] } [], 1, 4, 1, 0, 500,
    ({ step := 4, graph := 1, task := 0, here := [1], first := 1000000000, latest := 500, allowed := max 1 ((wJ [] {} []).fget Reg.ADM_WAIT_barrier_us) * 1000 } : Barrier),
    by decide +kernel⟩,
    ⟨wJ [] { barriers := [wBar 4 5 [0]] } [], 1, 4, 1, 0, 500, wBar 4 5 [0], { wBar 4 5 [0, 1] with latest := 500 }, by decide +kernel⟩,
    ⟨wJ [] { barriers := [wBar 4 5 [1]] } [], 1, 4, 1, 0, 500, wBar 4 5 [1], wBar 4 5 [1], by decide +kernel⟩,
    ⟨wJ [] { closed := [(4, 1, 0, false)] } [], 1, 4, 1, 0, by decide +kernel⟩,
    ⟨wJ [(Reg.JSY_CKPT_port, 5)] { barriers := [wBar 4 5 [1]] } [], wBar 4 5 [1], by decide +kernel, ⟨0, by decide +kernel⟩⟩,
    ⟨wJ [(Reg.JSY_CKPT_port, 5)] { barriers := [wBar 4 5 [1, 0]] } [], wBar 4 5 [1, 0], by decide +kernel⟩,
    ⟨wJ [] {} [wQj 0x21 0 0 1 (leBytes 8 4 ++ leBytes 2 0 ++ leBytes 1 1 ++ leBytes 1 0 ++ leBytes 2 2 ++ leBytes 2 0 ++ leBytes 8 500)], wJTook
    (wJ [] {} [wQj 0x21 0 0 1 (leBytes 8 4 ++ leBytes 2 0 ++ leBytes 1 1 ++ leBytes 1 0 ++ leBytes 2 2 ++ leBytes 2 0 ++ leBytes 8 500)])
    (wQj 0x21 0 0 1 (leBytes 8 4 ++ leBytes 2 0 ++ leBytes 1 1 ++ leBytes 1 0 ++ leBytes 2 2 ++ leBytes 2 0 ++ leBytes 8 500)), wQj 0x21 0 0 1
    (leBytes 8 4 ++ leBytes 2 0 ++ leBytes 1 1 ++ leBytes 1 0 ++ leBytes 2 2 ++ leBytes 2 0 ++ leBytes 8 500), by decide +kernel, wCur
    (by decide +kernel), wReq (by decide +kernel), by decide +kernel⟩,
    ⟨wJ [(Reg.JSY_GROUP_master, 5)] {} [wQj 0x27 0 0 1 (leBytes 8 4)], wJTook (wJ [(Reg.JSY_GROUP_master, 5)] {} [wQj 0x27 0 0 1 (leBytes 8 4)])
    (wQj 0x27 0 0 1 (leBytes 8 4)), wQj 0x27 0 0 1 (leBytes 8 4), by decide +kernel, wCur (by decide +kernel), wReq (by decide +kernel), by
    decide +kernel⟩,
    ⟨wJ [] {} [wQj 0x27 0 0 1 (leBytes 8 4)], wJTook (wJ [] {} [wQj 0x27 0 0 1 (leBytes 8 4)]) (wQj 0x27 0 0 1 (leBytes 8 4)), wQj 0x27 0 0 1
    (leBytes 8 4), by decide +kernel, wCur (by decide +kernel), wReq (by decide +kernel), by decide +kernel⟩,
    ⟨{ (wGo [wGraph 1 1 [{ wTask 8 with syncKind := 1 }]]).setRun (wRunT 63) with insts := [(128, { released := true, step := 4 })] }, 4, 1, 0, wRunT 63,
    by decide +kernel⟩,
    ⟨{ (wGo [wGraph 1 1 [{ wTask 8 with syncKind := 1 }]]).setRun (wRunT 63) with insts := [(128, { released := true, step := 4 })] }, 5, 1, 0, by
    decide +kernel⟩,
    ⟨wJ [] { barriers := [wBar 4 (1000000000 - 999) [1]] } [], 4, 1, 0, by decide +kernel⟩,
    ⟨wJ [] { barriers := [wBar 4 (1000000000 - 1000) [1]] } [], 4, 1, 0, wBar 4 (1000000000 - 1000) [1], by decide +kernel⟩⟩

theorem wit_CheckpointsAndTwins :
    -- 1
    (∃ (s : State), (∀ x, s.jsy.send = some x → s.ethShare = 0 ∨ s.now < x.next ∨ s.pow.phase ≠ .running)) ∧
    -- 2
    (∃ (s : State) (v : State) (x : RegionSend) (ecc : List Nat) (n : Nat) (left : Nat) (base : Nat) (port : Nat) (udp : Bool) (bs : List Byte) (bad :
      Bool) (last : Bool) (res : Option (List Byte × Bool)), s.jsy.send = some x ∧ s.ethShare ≠ 0 ∧ x.next ≤ s.now ∧ s.pow.phase = .running ∧ port =
      (match x.twin with
    | some q => q.port
    | none => s.fget Reg.JSY_CKPT_port) ∧ port < 6 ∧ udp = (match x.twin with
    | some q => q.ip != 0 || q.udp != 0
    | none => false) ∧ left = s.regionBlocks x.region - x.block ∧ n = min left (min 32 ((s.ohpRoom port udp - 16) / 256)) ∧ base = s.fget
      (Reg.JSY_REGION_base x.region) + x.block * 256 ∧ s.readBlocks ((List.range n).map fun i => base + 256 * i) ecc = (v, res) ∧ (bs, bad) = res.getD
      (List.replicate (256 * n) 0, true) ∧ last = (decide (left ≤ n) && (s.regions.filter fun r => x.region < r).isEmpty)) ∧
    -- 2 (b)
    (∃ (s : State) (v : State) (x : RegionSend) (ecc : List Nat) (n : Nat) (left : Nat) (base : Nat) (port : Nat) (udp : Bool) (bs : List Byte) (bad :
      Bool) (last : Bool) (res : Option (List Byte × Bool)), s.jsy.send = some x ∧ s.ethShare ≠ 0 ∧ x.next ≤ s.now ∧ s.pow.phase = .running ∧ port =
      (match x.twin with
    | some q => q.port
    | none => s.fget Reg.JSY_CKPT_port) ∧ port < 6 ∧ udp = (match x.twin with
    | some q => q.ip != 0 || q.udp != 0
    | none => false) ∧ left = s.regionBlocks x.region - x.block ∧ n = min left (min 32 ((s.ohpRoom port udp - 16) / 256)) ∧ base = s.fget
      (Reg.JSY_REGION_base x.region) + x.block * 256 ∧ s.readBlocks ((List.range n).map fun i => base + 256 * i) ecc = (v, res) ∧ (bs, bad) = res.getD
      (List.replicate (256 * n) 0, true) ∧ last = (decide (left ≤ n) && (s.regions.filter fun r => x.region < r).isEmpty)) ∧
    -- 2 (c)
    (∃ (s : State) (v : State) (x : RegionSend) (ecc : List Nat) (n : Nat) (left : Nat) (base : Nat) (port : Nat) (udp : Bool) (bs : List Byte) (bad :
      Bool) (last : Bool) (res : Option (List Byte × Bool)), s.jsy.send = some x ∧ s.ethShare ≠ 0 ∧ x.next ≤ s.now ∧ s.pow.phase = .running ∧ port =
      (match x.twin with
    | some q => q.port
    | none => s.fget Reg.JSY_CKPT_port) ∧ port < 6 ∧ udp = (match x.twin with
    | some q => q.ip != 0 || q.udp != 0
    | none => false) ∧ left = s.regionBlocks x.region - x.block ∧ n = min left (min 32 ((s.ohpRoom port udp - 16) / 256)) ∧ base = s.fget
      (Reg.JSY_REGION_base x.region) + x.block * 256 ∧ s.readBlocks ((List.range n).map fun i => base + 256 * i) ecc = (v, res) ∧ (bs, bad) = res.getD
      (List.replicate (256 * n) 0, true) ∧ last = (decide (left ≤ n) && (s.regions.filter fun r => x.region < r).isEmpty)) ∧
    -- 3
    (∃ (s : State), s.jsy.twinWait = none) ∧
    -- 4.1
    (∃ (s : State) (s1 : State) (q : OhpIn), s.Request 0x23 q s1 ∧ q.unit = 0 ∧ s.Current q ∧ q.payload.length = 8 ∧ s.jsy.send = none ∧ s.jsy.ckpt = some
    (u q.payload 0 8)) ∧
    -- 4.2
    (∃ (s : State) (s1 : State) (q : OhpIn), s.Request 0x23 q s1 ∧ q.unit = 0 ∧ s.Current q ∧ q.payload.length = 8 ∧ s.jsy.send = none ∧ s.jsy.ckpt ≠ some
    (u q.payload 0 8)) ∧
    -- 5.1
    (∃ (s : State) (s1 : State) (q : OhpIn) (step : _), s.Request 0x24 q s1 ∧ q.unit = 0 ∧ s.Current q ∧ q.payload.length = 12 ∧ u q.payload 0 8 = step ∧
    (u q.payload 8 4 ≠ s.fget Reg.BOOT_STATUS_image_id ∨ s.fget Reg.HLT_SCORE_withdraw = 1 ∨ (∃ c, s.jsy.ckpt = some c ∧ step < c) ∨ s.jsy.twinWait ≠
    none ∨ (∃ x, s.jsy.send = some x ∧ x.twin ≠ none))) ∧
    -- 5.2.2
    (∃ (s : State) (s1 : State) (q : OhpIn) (step : _), s.Request 0x24 q s1 ∧ q.unit = 0 ∧ s.Current q ∧ q.payload.length = 12 ∧ u q.payload 0 8 = step ∧ u
    q.payload 8 4 = s.fget Reg.BOOT_STATUS_image_id ∧ s.fget Reg.HLT_SCORE_withdraw = 0 ∧ s.jsy.twinWait = none ∧ ((∃ x, s.jsy.send = some x ∧ x.twin
    = none) ∨ (s.jsy.send = none ∧ s.jsy.ckpt ≠ some step)) ∧ (∀ c, s.jsy.ckpt = some c → c ≤ step)) ∧
    -- 5.1 (b)
    (∃ (s : State) (s1 : State) (q : OhpIn) (step : _), s.Request 0x24 q s1 ∧ q.unit = 0 ∧ s.Current q ∧ q.payload.length = 12 ∧ u q.payload 0 8 = step ∧
    (u q.payload 8 4 ≠ s.fget Reg.BOOT_STATUS_image_id ∨ s.fget Reg.HLT_SCORE_withdraw = 1 ∨ (∃ c, s.jsy.ckpt = some c ∧ step < c) ∨ s.jsy.twinWait ≠
    none ∨ (∃ x, s.jsy.send = some x ∧ x.twin ≠ none))) ∧
    -- 5.2.1
    (∃ (s : State) (s1 : State) (q : OhpIn) (step : _), s.Request 0x24 q s1 ∧ q.unit = 0 ∧ s.Current q ∧ q.payload.length = 12 ∧ u q.payload 0 8 = step ∧ u
    q.payload 8 4 = s.fget Reg.BOOT_STATUS_image_id ∧ s.fget Reg.HLT_SCORE_withdraw = 0 ∧ s.jsy.twinWait = none ∧ s.jsy.send = none ∧ s.jsy.ckpt =
    some step) ∧
    -- 6.1
    (∃ (s : State) (s1 : State) (q : OhpIn) (r : Nat) (o : Nat) (n : Nat), s.Request 0x25 q s1 ∧ q.unit = 0 ∧ s.Current q ∧ r = u q.payload 8 1 ∧ r < 16 ∧
    o = u q.payload 12 4 ∧ 1 ≤ n ∧ n ≤ 32 ∧ q.payload.length = 16 + 256 * n ∧ u q.payload 9 1 ≤ 1 ∧ u q.payload 10 2 = 0 ∧ (s.fget Reg.JSY_ROLE_role ≠
    2 ∨ s.jsy.joinAt = none ∨ s.jsy.ready = true ∨ s.safe = true ∨ s.regionBlocks r < o + n ∨ u q.payload 0 8 + 1 ≠ s.fget Reg.JSY_JOIN_step)) ∧
    -- 6.2
    (∃ (s : State) (s1 : State) (q : OhpIn) (ecc : List Nat) (gen : Bool) (r : Nat) (o : Nat) (n : Nat) (s0 : _) (v : State) (ok : _), s.Request 0x25 q s1
    ∧ q.unit = 0 ∧ s.Current q ∧ r = u q.payload 8 1 ∧ r < 16 ∧ o = u q.payload 12 4 ∧ 1 ≤ n ∧ n ≤ 32 ∧ q.payload.length = 16 + 256 * n ∧ u q.payload
    9 1 ≤ 1 ∧ u q.payload 10 2 = 0 ∧ s.fget Reg.JSY_ROLE_role = 2 ∧ s.jsy.joinAt ≠ none ∧ s.jsy.ready = false ∧ s.safe = false ∧ o + n ≤
    s.regionBlocks r ∧ u q.payload 0 8 + 1 = s.fget Reg.JSY_JOIN_step ∧ s0 = (if gen then s1.raise 0x25C4 8 255 0 else s1) ∧ s0.writeBlocks gen
    ((List.range n).map fun i => s1.fget (Reg.JSY_REGION_base r) + (o + i) * 256) ecc (q.payload.drop 16) = (v, ok)) ∧
    -- 6.2 (b)
    (∃ (s : State) (s1 : State) (q : OhpIn) (ecc : List Nat) (gen : Bool) (r : Nat) (o : Nat) (n : Nat) (s0 : _) (v : State) (ok : _), s.Request 0x25 q s1
    ∧ q.unit = 0 ∧ s.Current q ∧ r = u q.payload 8 1 ∧ r < 16 ∧ o = u q.payload 12 4 ∧ 1 ≤ n ∧ n ≤ 32 ∧ q.payload.length = 16 + 256 * n ∧ u q.payload
    9 1 ≤ 1 ∧ u q.payload 10 2 = 0 ∧ s.fget Reg.JSY_ROLE_role = 2 ∧ s.jsy.joinAt ≠ none ∧ s.jsy.ready = false ∧ s.safe = false ∧ o + n ≤
    s.regionBlocks r ∧ u q.payload 0 8 + 1 = s.fget Reg.JSY_JOIN_step ∧ s0 = (if gen then s1.raise 0x25C4 8 255 0 else s1) ∧ s0.writeBlocks gen
    ((List.range n).map fun i => s1.fget (Reg.JSY_REGION_base r) + (o + i) * 256) ecc (q.payload.drop 16) = (v, ok)) ∧
    -- 7
    (∃ (s : State) (q : OhpIn) (rest : List OhpIn) (c : Instr) (typ : Nat), (c, typ) ∈ [(Instr.twinRefusal, 0x24), (Instr.joinReadyResponse, 0x26)] ∧
    s.ohp.queue = q :: rest ∧ q.typ = typ ∧ q.flags = 1 ∧ s.pow.phase = .running ∧ q.status = 3 ∧ ((c = .twinRefusal ∧ s.jsy.joinAt.isSome = true) ∨
    (c = .joinReadyResponse ∧ s.jsy.ready = true))) ∧
    -- 7 (b)
    (∃ (s : State) (q : OhpIn) (rest : List OhpIn) (c : Instr) (typ : Nat), (c, typ) ∈ [(Instr.twinRefusal, 0x24), (Instr.joinReadyResponse, 0x26)] ∧
    s.ohp.queue = q :: rest ∧ q.typ = typ ∧ q.flags = 1 ∧ s.pow.phase = .running ∧ q.status = 3 ∧ ((c = .twinRefusal ∧ s.jsy.joinAt.isSome = true) ∨
    (c = .joinReadyResponse ∧ s.jsy.ready = true))) ∧
    -- 8
    (∃ (s : State) (q : OhpIn) (rest : List OhpIn), s.ohp.queue = q :: rest ∧ q.typ = 0x26 ∧ q.flags = 1 ∧ s.pow.phase = .running ∧ q.status = 0 ∧
    s.jsy.ready = true) ∧
    -- 9.1
    (∃ (s : State) (at_ : Nat), s.jsy.joinAt = some at_ ∧ s.jsy.ready = false ∧ s.jsy.got ≠ [] ∧ s.jsy.send = none ∧ at_ + 100000000 ≤ s.now) ∧
    -- 9.2
    (∃ (s : State) (at_ : Nat), s.jsy.joinAt = some at_ ∧ s.jsy.ready = false ∧ s.jsy.got ≠ [] ∧ s.jsy.send = none ∧ s.now < at_ + 100000000) ∧
    -- 10.1
    (∃ (s : State) (x : RegionSend), s.jsy.joinAt = none ∧ s.jsy.send = some x ∧ x.twin ≠ none ∧ x.at_ + 100000000 ≤ s.now) ∧
    -- 10.2
    (∃ (s : State) (x : RegionSend), s.jsy.joinAt = none ∧ s.jsy.send = some x ∧ x.twin ≠ none ∧ s.now < x.at_ + 100000000) ∧
    -- 11.1
    (∃ (s : State) (s1 : State) (q : OhpIn), s.Request 0x26 q s1 ∧ q.unit = 0 ∧ s.Current q ∧ q.payload.length = 8 ∧ s.jsy.joins = [] ∧ s.isMaster = false) ∧
    -- 11.2
    (∃ (s : State) (s1 : State) (q : OhpIn), s.Request 0x26 q s1 ∧ q.unit = 0 ∧ s.Current q ∧ q.payload.length = 8 ∧ s.jsy.joins = [] ∧ s.isMaster = true ∧
    s.lowestStep < u q.payload 0 8) ∧
    -- 11.3
    (∃ (s : State) (s1 : State) (q : OhpIn), s.Request 0x26 q s1 ∧ q.unit = 0 ∧ s.Current q ∧ q.payload.length = 8 ∧ s.jsy.joins = [] ∧ s.isMaster = true ∧
    u q.payload 0 8 < s.lowestStep) ∧
    -- 11.4
    (∃ (s : State) (s1 : State) (q : OhpIn), s.Request 0x26 q s1 ∧ q.unit = 0 ∧ s.Current q ∧ q.payload.length = 8 ∧ s.jsy.joins = [] ∧ s.isMaster = true ∧
    u q.payload 0 8 = s.lowestStep) :=
  ⟨⟨wJ [(Reg.JSY_CKPT_port, 5)] { send := some ({ step := 4, region := 1, block := 254, at_ := 5, next := 1000000001 } : RegionSend) } [], wSome
    ({ step := 4, region := 1, block := 254, at_ := 5, next := 1000000001 } : RegionSend) (by decide +kernel) (by decide +kernel)⟩,
    ⟨wJ
    [(Reg.ETH_PORT_CTRL_mtu 5, 1518), (Reg.JSY_CKPT_port, 5), (Reg.JSY_REGION_base 1, 0x004000010000), (Reg.JSY_REGION_size_64k 1, 1), (Reg.JSY_CKPT_every, 2)]
    { send := some ({ step := 4, region := 1, block := 254, at_ := 5, next := 1000000000 } : RegionSend) } [],
    ((wJ [(Reg.ETH_PORT_CTRL_mtu 5, 1518), (Reg.JSY_CKPT_port, 5), (Reg.JSY_REGION_base 1, 0x004000010000), (Reg.JSY_REGION_size_64k 1, 1), (Reg.JSY_CKPT_every, 2)] { send := some ({ step := 4, region := 1, block := 254, at_ := 5, next := 1000000000 } : RegionSend) } []).readBlocks ((List.range 2).map fun i => 0x00400001FE00 + 256 * i) []).1,
    ({ step := 4, region := 1, block := 254, at_ := 5, next := 1000000000 } : RegionSend), [], 2, 2, 0x00400001FE00, 5, false, List.replicate 512 0,
    false, true, some (List.replicate 512 0, false), by decide +kernel⟩,
    ⟨wJ
    [(Reg.ETH_PORT_CTRL_mtu 5, 1518), (Reg.JSY_CKPT_port, 5), (Reg.JSY_REGION_base 1, 0x004000010000), (Reg.JSY_REGION_size_64k 1, 1), (Reg.JSY_CKPT_every, 2)]
    { send := some ({ step := 4, region := 1, block := 250, at_ := 5, next := 1000000000 } : RegionSend) } [],
    ((wJ [(Reg.ETH_PORT_CTRL_mtu 5, 1518), (Reg.JSY_CKPT_port, 5), (Reg.JSY_REGION_base 1, 0x004000010000), (Reg.JSY_REGION_size_64k 1, 1), (Reg.JSY_CKPT_every, 2)] { send := some ({ step := 4, region := 1, block := 250, at_ := 5, next := 1000000000 } : RegionSend) } []).readBlocks ((List.range 5).map fun i => 0x00400001FA00 + 256 * i) []).1,
    ({ step := 4, region := 1, block := 250, at_ := 5, next := 1000000000 } : RegionSend), [], 5, 6, 0x00400001FA00, 5, false, List.replicate 1280 0,
    false, false, some (List.replicate 1280 0, false), by decide +kernel⟩,
    ⟨wJ
    [(Reg.ETH_PORT_CTRL_mtu 5, 1518), (Reg.JSY_CKPT_port, 5), (Reg.JSY_REGION_base 1, 0x004000010000), (Reg.JSY_REGION_size_64k 1, 1), (Reg.JSY_CKPT_every, 2)]
    { send := some ({ step := 4, region := 1, block := 250, at_ := 5, next := 1000000000 } : RegionSend) } [],
    ((wJ [(Reg.ETH_PORT_CTRL_mtu 5, 1518), (Reg.JSY_CKPT_port, 5), (Reg.JSY_REGION_base 1, 0x004000010000), (Reg.JSY_REGION_size_64k 1, 1), (Reg.JSY_CKPT_every, 2)] { send := some ({ step := 4, region := 1, block := 250, at_ := 5, next := 1000000000 } : RegionSend) } []).readBlocks ((List.range 5).map fun i => 0x00400001FA00 + 256 * i) [3]).1,
    ({ step := 4, region := 1, block := 250, at_ := 5, next := 1000000000 } : RegionSend), [3], 5, 6, 0x00400001FA00, 5, false, List.replicate 1280 0,
    true, false, none, by decide +kernel⟩,
    ⟨wJ [] { ckpt := some 4 } [], by decide +kernel⟩,
    ⟨wJ [] { ckpt := some (2 ^ 31 + 4) } [wQj 0x23 0 0 1 (leBytes 8 (2 ^ 31 + 4))], wJTook
    (wJ [] { ckpt := some (2 ^ 31 + 4) } [wQj 0x23 0 0 1 (leBytes 8 (2 ^ 31 + 4))]) (wQj 0x23 0 0 1 (leBytes 8 (2 ^ 31 + 4))), wQj 0x23 0 0 1
    (leBytes 8 (2 ^ 31 + 4)), wReq (by decide +kernel), by decide +kernel, wCur (by decide +kernel), by decide +kernel⟩,
    ⟨wJ [] { ckpt := some 4 } [wQj 0x23 0 0 1 (leBytes 8 3)], wJTook (wJ [] { ckpt := some 4 } [wQj 0x23 0 0 1 (leBytes 8 3)])
    (wQj 0x23 0 0 1 (leBytes 8 3)), wQj 0x23 0 0 1 (leBytes 8 3), wReq (by decide +kernel), by decide +kernel, wCur (by decide +kernel), by
    decide +kernel⟩,
    ⟨wJ [] { ckpt := some 4 } [wQj 0x24 0 0 1 (leBytes 8 3 ++ leBytes 4 0)], wJTook
    (wJ [] { ckpt := some 4 } [wQj 0x24 0 0 1 (leBytes 8 3 ++ leBytes 4 0)]) (wQj 0x24 0 0 1 (leBytes 8 3 ++ leBytes 4 0)), wQj 0x24 0 0 1
    (leBytes 8 3 ++ leBytes 4 0), 3, wReq (by decide +kernel), by decide +kernel, wCur (by decide +kernel), by decide +kernel⟩,
    ⟨wJ [] { ckpt := some 3 } [wQj 0x24 0 0 1 (leBytes 8 4 ++ leBytes 4 0)], wJTook
    (wJ [] { ckpt := some 3 } [wQj 0x24 0 0 1 (leBytes 8 4 ++ leBytes 4 0)]) (wQj 0x24 0 0 1 (leBytes 8 4 ++ leBytes 4 0)), wQj 0x24 0 0 1
    (leBytes 8 4 ++ leBytes 4 0), 4, wReq (by decide +kernel), by decide +kernel, wCur (by decide +kernel), by decide +kernel, by decide +kernel, by
    decide +kernel, by decide +kernel, by decide +kernel, Or.inr ⟨by decide +kernel, by decide +kernel⟩, wSome 3 (by decide +kernel)
    (by decide +kernel)⟩,
    ⟨wJ [] { ckpt := some 3, twinWait := some (wQj 0x24 0 0 2 []) } [wQj 0x24 0 0 1 (leBytes 8 4 ++ leBytes 4 0)], wJTook
    (wJ [] { ckpt := some 3, twinWait := some (wQj 0x24 0 0 2 []) } [wQj 0x24 0 0 1 (leBytes 8 4 ++ leBytes 4 0)])
    (wQj 0x24 0 0 1 (leBytes 8 4 ++ leBytes 4 0)), wQj 0x24 0 0 1 (leBytes 8 4 ++ leBytes 4 0), 4, wReq (by decide +kernel), by decide +kernel, wCur
    (by decide +kernel), by decide +kernel⟩,
    ⟨wJ [] { ckpt := some 4 } [wQj 0x24 0 0 1 (leBytes 8 4 ++ leBytes 4 0)], wJTook
    (wJ [] { ckpt := some 4 } [wQj 0x24 0 0 1 (leBytes 8 4 ++ leBytes 4 0)]) (wQj 0x24 0 0 1 (leBytes 8 4 ++ leBytes 4 0)), wQj 0x24 0 0 1
    (leBytes 8 4 ++ leBytes 4 0), 4, wReq (by decide +kernel), by decide +kernel, wCur (by decide +kernel), by decide +kernel⟩,
    ⟨wJ [(Reg.JSY_ROLE_role, 2), (Reg.JSY_REGION_base 15, 0x004000010000), (Reg.JSY_REGION_size_64k 15, 1), (Reg.JSY_JOIN_step, 9)]
    { joinAt := some 5, got := [] }
    [wQj 0x25 0 0 1 (leBytes 8 8 ++ leBytes 1 15 ++ leBytes 1 1 ++ leBytes 2 0 ++ leBytes 4 255 ++ List.replicate 512 0)], wJTook
    (wJ [(Reg.JSY_ROLE_role, 2), (Reg.JSY_REGION_base 15, 0x004000010000), (Reg.JSY_REGION_size_64k 15, 1), (Reg.JSY_JOIN_step, 9)] { joinAt := some 5, got := [] } [wQj 0x25 0 0 1 (leBytes 8 8 ++ leBytes 1 15 ++ leBytes 1 1 ++ leBytes 2 0 ++ leBytes 4 255 ++ List.replicate 512 0)])
    (wQj 0x25 0 0 1 (leBytes 8 8 ++ leBytes 1 15 ++ leBytes 1 1 ++ leBytes 2 0 ++ leBytes 4 255 ++ List.replicate 512 0)), wQj 0x25 0 0 1
    (leBytes 8 8 ++ leBytes 1 15 ++ leBytes 1 1 ++ leBytes 2 0 ++ leBytes 4 255 ++ List.replicate 512 0), 15, 255, 2, wReq (by decide +kernel), by
    decide +kernel, wCur (by decide +kernel), by decide +kernel⟩,
    ⟨wJ [(Reg.JSY_ROLE_role, 2), (Reg.JSY_REGION_base 15, 0x004000010000), (Reg.JSY_REGION_size_64k 15, 1), (Reg.JSY_JOIN_step, 9)]
    { joinAt := some 5, got := [] }
    [wQj 0x25 0 0 1 (leBytes 8 8 ++ leBytes 1 15 ++ leBytes 1 1 ++ leBytes 2 0 ++ leBytes 4 255 ++ List.replicate 256 0)], wJTook
    (wJ [(Reg.JSY_ROLE_role, 2), (Reg.JSY_REGION_base 15, 0x004000010000), (Reg.JSY_REGION_size_64k 15, 1), (Reg.JSY_JOIN_step, 9)] { joinAt := some 5, got := [] } [wQj 0x25 0 0 1 (leBytes 8 8 ++ leBytes 1 15 ++ leBytes 1 1 ++ leBytes 2 0 ++ leBytes 4 255 ++ List.replicate 256 0)])
    (wQj 0x25 0 0 1 (leBytes 8 8 ++ leBytes 1 15 ++ leBytes 1 1 ++ leBytes 2 0 ++ leBytes 4 255 ++ List.replicate 256 0)), wQj 0x25 0 0 1
    (leBytes 8 8 ++ leBytes 1 15 ++ leBytes 1 1 ++ leBytes 2 0 ++ leBytes 4 255 ++ List.replicate 256 0), [], false, 15, 255, 1, wJTook
    (wJ [(Reg.JSY_ROLE_role, 2), (Reg.JSY_REGION_base 15, 0x004000010000), (Reg.JSY_REGION_size_64k 15, 1), (Reg.JSY_JOIN_step, 9)] { joinAt := some 5, got := [] } [wQj 0x25 0 0 1 (leBytes 8 8 ++ leBytes 1 15 ++ leBytes 1 1 ++ leBytes 2 0 ++ leBytes 4 255 ++ List.replicate 256 0)])
    (wQj 0x25 0 0 1 (leBytes 8 8 ++ leBytes 1 15 ++ leBytes 1 1 ++ leBytes 2 0 ++ leBytes 4 255 ++ List.replicate 256 0)),
    ((wJTook (wJ [(Reg.JSY_ROLE_role, 2), (Reg.JSY_REGION_base 15, 0x004000010000), (Reg.JSY_REGION_size_64k 15, 1), (Reg.JSY_JOIN_step, 9)] { joinAt := some 5, got := [] } [wQj 0x25 0 0 1 (leBytes 8 8 ++ leBytes 1 15 ++ leBytes 1 1 ++ leBytes 2 0 ++ leBytes 4 255 ++ List.replicate 256 0)]) (wQj 0x25 0 0 1 (leBytes 8 8 ++ leBytes 1 15 ++ leBytes 1 1 ++ leBytes 2 0 ++ leBytes 4 255 ++ List.replicate 256 0))).writeBlocks false ((List.range 1).map fun i => (wJTook (wJ [(Reg.JSY_ROLE_role, 2), (Reg.JSY_REGION_base 15, 0x004000010000), (Reg.JSY_REGION_size_64k 15, 1), (Reg.JSY_JOIN_step, 9)] { joinAt := some 5, got := [] } [wQj 0x25 0 0 1 (leBytes 8 8 ++ leBytes 1 15 ++ leBytes 1 1 ++ leBytes 2 0 ++ leBytes 4 255 ++ List.replicate 256 0)]) (wQj 0x25 0 0 1 (leBytes 8 8 ++ leBytes 1 15 ++ leBytes 1 1 ++ leBytes 2 0 ++ leBytes 4 255 ++ List.replicate 256 0))).fget (Reg.JSY_REGION_base 15) + (255 + i) * 256) [] ((wQj 0x25 0 0 1 (leBytes 8 8 ++ leBytes 1 15 ++ leBytes 1 1 ++ leBytes 2 0 ++ leBytes 4 255 ++ List.replicate 256 0)).payload.drop 16)).1,
    true, wReq (by decide +kernel), by decide +kernel, wCur (by decide +kernel), by decide +kernel⟩,
    ⟨wJ [(Reg.JSY_ROLE_role, 2), (Reg.JSY_REGION_base 15, 0x004000010000), (Reg.JSY_REGION_size_64k 15, 1), (Reg.JSY_JOIN_step, 9)]
    { joinAt := some 5, got := [] }
    [wQj 0x25 0 0 1 (leBytes 8 8 ++ leBytes 1 15 ++ leBytes 1 1 ++ leBytes 2 0 ++ leBytes 4 0 ++ List.replicate 512 0)], wJTook
    (wJ [(Reg.JSY_ROLE_role, 2), (Reg.JSY_REGION_base 15, 0x004000010000), (Reg.JSY_REGION_size_64k 15, 1), (Reg.JSY_JOIN_step, 9)] { joinAt := some 5, got := [] } [wQj 0x25 0 0 1 (leBytes 8 8 ++ leBytes 1 15 ++ leBytes 1 1 ++ leBytes 2 0 ++ leBytes 4 0 ++ List.replicate 512 0)])
    (wQj 0x25 0 0 1 (leBytes 8 8 ++ leBytes 1 15 ++ leBytes 1 1 ++ leBytes 2 0 ++ leBytes 4 0 ++ List.replicate 512 0)), wQj 0x25 0 0 1
    (leBytes 8 8 ++ leBytes 1 15 ++ leBytes 1 1 ++ leBytes 2 0 ++ leBytes 4 0 ++ List.replicate 512 0), [], false, 15, 0, 2, wJTook
    (wJ [(Reg.JSY_ROLE_role, 2), (Reg.JSY_REGION_base 15, 0x004000010000), (Reg.JSY_REGION_size_64k 15, 1), (Reg.JSY_JOIN_step, 9)] { joinAt := some 5, got := [] } [wQj 0x25 0 0 1 (leBytes 8 8 ++ leBytes 1 15 ++ leBytes 1 1 ++ leBytes 2 0 ++ leBytes 4 0 ++ List.replicate 512 0)])
    (wQj 0x25 0 0 1 (leBytes 8 8 ++ leBytes 1 15 ++ leBytes 1 1 ++ leBytes 2 0 ++ leBytes 4 0 ++ List.replicate 512 0)),
    ((wJTook (wJ [(Reg.JSY_ROLE_role, 2), (Reg.JSY_REGION_base 15, 0x004000010000), (Reg.JSY_REGION_size_64k 15, 1), (Reg.JSY_JOIN_step, 9)] { joinAt := some 5, got := [] } [wQj 0x25 0 0 1 (leBytes 8 8 ++ leBytes 1 15 ++ leBytes 1 1 ++ leBytes 2 0 ++ leBytes 4 0 ++ List.replicate 512 0)]) (wQj 0x25 0 0 1 (leBytes 8 8 ++ leBytes 1 15 ++ leBytes 1 1 ++ leBytes 2 0 ++ leBytes 4 0 ++ List.replicate 512 0))).writeBlocks false ((List.range 2).map fun i => (wJTook (wJ [(Reg.JSY_ROLE_role, 2), (Reg.JSY_REGION_base 15, 0x004000010000), (Reg.JSY_REGION_size_64k 15, 1), (Reg.JSY_JOIN_step, 9)] { joinAt := some 5, got := [] } [wQj 0x25 0 0 1 (leBytes 8 8 ++ leBytes 1 15 ++ leBytes 1 1 ++ leBytes 2 0 ++ leBytes 4 0 ++ List.replicate 512 0)]) (wQj 0x25 0 0 1 (leBytes 8 8 ++ leBytes 1 15 ++ leBytes 1 1 ++ leBytes 2 0 ++ leBytes 4 0 ++ List.replicate 512 0))).fget (Reg.JSY_REGION_base 15) + (0 + i) * 256) [] ((wQj 0x25 0 0 1 (leBytes 8 8 ++ leBytes 1 15 ++ leBytes 1 1 ++ leBytes 2 0 ++ leBytes 4 0 ++ List.replicate 512 0)).payload.drop 16)).1,
    true, wReq (by decide +kernel), by decide +kernel, wCur (by decide +kernel), by decide +kernel⟩,
    ⟨wJ [] { joinAt := some 5 } [wQj 0x24 1 3 1 []], wQj 0x24 1 3 1 [], [], Instr.twinRefusal, 0x24, by simp, by decide +kernel⟩,
    ⟨wJ [] { joinAt := some 5, ready := true } [wQj 0x26 1 3 1 []], wQj 0x26 1 3 1 [], [], Instr.joinReadyResponse, 0x26, by simp, by decide +kernel⟩,
    ⟨wJ [(Reg.OHP_ROLE_PART_epoch, 0xFFFFFFFF), (Reg.JSY_JOIN_step, 9), (Reg.JSY_ROLE_role, 2)] { joinAt := some 5, ready := true, got := [1] }
    [wQj 0x26 1 0 1 []], wQj 0x26 1 0 1 [], [], by decide +kernel⟩,
    ⟨wJ [] { joinAt := some 900000000, got := [1] } [], 900000000, by decide +kernel⟩,
    ⟨wJ [] { joinAt := some 900000001, got := [1] } [], 900000001, by decide +kernel⟩,
    ⟨wJ [] { send := some ({ twin := some (wQj 0x24 0 0 2 []), step := 4, at_ := 900000000 } : RegionSend) } [],
    { twin := some (wQj 0x24 0 0 2 []), step := 4, at_ := 900000000 }, by decide +kernel⟩,
    ⟨wJ [] { send := some ({ twin := some (wQj 0x24 0 0 2 []), step := 4, at_ := 900000001 } : RegionSend) } [],
    { twin := some (wQj 0x24 0 0 2 []), step := 4, at_ := 900000001 }, by decide +kernel⟩,
    ⟨wJ [(Reg.JSY_GROUP_master, 5)] {} [wQj 0x26 0 0 1 (leBytes 8 9)], wJTook (wJ [(Reg.JSY_GROUP_master, 5)] {} [wQj 0x26 0 0 1 (leBytes 8 9)])
    (wQj 0x26 0 0 1 (leBytes 8 9)), wQj 0x26 0 0 1 (leBytes 8 9), wReq (by decide +kernel), by decide +kernel, wCur (by decide +kernel), by
    decide +kernel⟩,
    ⟨wJ [(Reg.JSY_STEP_step, 7)] {} [wQj 0x26 0 0 1 (leBytes 8 9)], wJTook (wJ [(Reg.JSY_STEP_step, 7)] {} [wQj 0x26 0 0 1 (leBytes 8 9)])
    (wQj 0x26 0 0 1 (leBytes 8 9)), wQj 0x26 0 0 1 (leBytes 8 9), wReq (by decide +kernel), by decide +kernel, wCur (by decide +kernel), by
    decide +kernel⟩,
    ⟨wJ [(Reg.JSY_STEP_step, 7)] {} [wQj 0x26 0 0 1 (leBytes 8 7)], wJTook (wJ [(Reg.JSY_STEP_step, 7)] {} [wQj 0x26 0 0 1 (leBytes 8 7)])
    (wQj 0x26 0 0 1 (leBytes 8 7)), wQj 0x26 0 0 1 (leBytes 8 7), wReq (by decide +kernel), by decide +kernel, wCur (by decide +kernel), by
    decide +kernel⟩,
    ⟨wJ [(Reg.JSY_STEP_step, 7)] {} [wQj 0x26 0 0 9 (leBytes 8 8)], wJTook (wJ [(Reg.JSY_STEP_step, 7)] {} [wQj 0x26 0 0 9 (leBytes 8 8)])
    (wQj 0x26 0 0 9 (leBytes 8 8)), wQj 0x26 0 0 9 (leBytes 8 8), wReq (by decide +kernel), by decide +kernel, wCur (by decide +kernel), by
    decide +kernel⟩⟩

def wStr (l : List (Fld × Nat)) (x : Stream) : State :=
  { wOn (wGo []) ([(Reg.SMPL_CFG_en 15, 1), (Reg.SMPL_CFG_views_m1 15, 1), (Reg.DEC_CTRL_core_en, 0xFFFF), (Reg.SMPL_CFG_nslots 15, 8), (Reg.SMPL_VIEW_ceil_us 15 1, 100), (Reg.SMPL_STAGE_base 15, 0x004000000000),
      (Reg.SMPL_STAGE_slot_kib 15, 4)] ++ l) with
    smpl := { State.reset.smpl with streams := [(15, { x with cfg := [1] })] } }
def wSl (vs : List ViewSt) : SmplSlot := { pos := 5, issued := some 3, stage := some 2, views := vs }
def wBatch (vs : List ViewSt) : Stream := { batch := some { partialB := false, slots := [wSl vs] } }
def wCr (start : Nat) : CoreRun := { q := 15, slot := 0, view := 1, start := start, prof := [] }
def wCore (r : CoreRun) : State := { wStr [] {} with smpl := { streams := [(15, { wBatch [.todo, .busy] with cfg := [1] })], cores := [(4, some r)] } }
def wPic (w : Nat) : Picture := { w := w, h := 0, depth := 8, y := [] }
def wFr (dst typ : Nat) (p : List Byte) : List Byte := beBytes 6 dst ++ beBytes 6 0x112233445566 ++ beBytes 2 0x8100 ++ beBytes 2 7 ++ beBytes 2 typ ++ p
def wEth (l : List (Fld × Nat)) : State :=
  wOn (wGo []) ([(Reg.ETH_PORT_CTRL_en 5, 1), (Reg.ETH_VID_valid 5 63, 1), (Reg.ETH_VID_vid 5 63, 7), (Reg.OHP_CTRL_en, 1), (Reg.OHP_MAC_mac, 0xAABBCCDDEEFF)] ++ l)
def wSen : State :=
  wEth [(Reg.ING_SENSOR00_en 63, 1), (Reg.ING_SENSOR00_src 63, 1), (Reg.ING_SENSOR00_port 63, 5), (Reg.ING_SENSOR10_vlan 63, 7), (Reg.ING_SENSOR18_ethertype 63, 0x1234), (Reg.ING_STAT0_state 63, 1)]
def wOhpB (typ len : Nat) : List Byte := leBytes 1 1 ++ leBytes 1 typ ++ leBytes 2 0 ++ leBytes 2 9 ++ leBytes 2 len ++ leBytes 2 0xFFFF ++ leBytes 2 3 ++ leBytes 2 0x100 ++ leBytes 2 0 ++ leBytes 4 1 ++ leBytes 4 0 ++ leBytes 8 0 ++ List.replicate len 7
def wArp : List Byte := beBytes 2 1 ++ beBytes 2 0x0800 ++ beBytes 1 6 ++ beBytes 1 4 ++ beBytes 2 1 ++ beBytes 6 0x112233445566 ++ beBytes 4 9 ++ beBytes 6 0 ++ beBytes 4 0x0A000001
def wGl (base : Nat) (taken : Int) : GateList := { entries := [(1, 300), (2, 700), (3, 0)], cycle := 1000, base := base, taken := taken }
def wGt (g : GatePort) : State := (wGo []).setGate 5 g
def wCoreD : State := wCore { wCr 5 with dropped := true }
def wCoreC : State := wCore (wCr 5)
def wCoreV : State := (wCore (wCr 5)).fset (Reg.SMPL_VIEW_codec 15 1) 1
/-- The core's state with the work of one part's end begun. -/
def wMet (s : State) : State := s.meet 8 0x13 (s.stageAt 15 2 + (s.viewRec 15 2 1).1) (s.viewRec 15 2 1).2.1
def wKept (s : State) (npics hold : Nat) (pic : Picture) : State := (((wMet s).keepPicture 4 pic).count Reg.DEC_CNT_PICS_count npics).addDecHold hold
def wLive (fill : Nat) : State :=
  { ((wOn (wGo []) [(Reg.ING_SENSOR00_port 63, 2), (Reg.ING_SENSOR00_port 0, 3)]).setSensor 63 { queue := [{ stamp := 5 }, { stamp := 6 }] }).setSensor 0
      { queue := [{ stamp := 7 }] } with ing := { (((wGo []).setSensor 63 { queue := [{ stamp := 5 }, { stamp := 6 }] }).setSensor 0
      { queue := [{ stamp := 7 }] }).ing with fill := [(2, 4), (3, fill)] } }
def wBf (l : List (Fld × Nat)) (x : Stream) : State :=
  wStr ([(Reg.SMPL_CFG_b_m1 15, 3), (Reg.SMPL_POS_f 15, 6), (Reg.SMPL_RSV_r_next 15, 10), (Reg.SMPL_FETCH_batch_ready 15, 2), (Reg.SMPL_FETCH_batch_done 15, 1),
    (Reg.SMPL_CFG_nbatch_m1 15, 1), (Reg.SMPL_N_n 15, 10)] ++ l) x
def wOhpD (dst flags typ len more : Nat) : List Byte := leBytes 1 1 ++ leBytes 1 typ ++ leBytes 2 flags ++ leBytes 2 9 ++ leBytes 2 (len + more) ++ leBytes 2 dst ++
  leBytes 2 3 ++ leBytes 2 0x100 ++ leBytes 2 0 ++ leBytes 4 1 ++ leBytes 4 0 ++ leBytes 8 0 ++ List.replicate len 7
theorem wCoreD_stage : (wCoreD.slot? 15 0).bind (·.stage) = some 2 := by decide +kernel
theorem wCoreC_stage : (wCoreC.slot? 15 0).bind (·.stage) = some 2 := by decide +kernel
theorem wCoreV_stage : (wCoreV.slot? 15 0).bind (·.stage) = some 2 := by decide +kernel
theorem wOnly {α : Type} {a : α} {P : Nat → α → Prop} (h : P 0 a) : ∀ i y, [a][i]? = some y → P i y := by
  intro i y hi
  cases i with
  | zero => cases hi; exact h
  | succ i => cases hi

theorem wit_DecodeAndBatches :
    -- 1.1
    (∃ (s : State) (k : Nat) (q : Nat) (i : Nat) (v : Nat) (n : Nat) (st : Nat) (y : SmplSlot), k < 16 ∧ q < 16 ∧ v < 8 ∧ s.slot? q i = some y ∧ y.issued =
    some n ∧ y.stage = some st ∧ (s.streamOn q = false ∨ s.coreReady k = false ∨ y.bad = true ∨ y.empty = true ∨ s.nViews q ≤ v ∨ (∃ f ∈ (s.stream
    q).fetches, f.n = n))) ∧
    -- 1.2.1
    (∃ (s : State) (k : Nat) (q : Nat) (i : Nat) (v : Nat) (n : Nat) (st : Nat) (y : SmplSlot), k < 16 ∧ q < 16 ∧ v < 8 ∧ s.slot? q i = some y ∧ y.issued =
    some n ∧ y.stage = some st ∧ s.streamOn q = true ∧ s.coreReady k = true ∧ y.bad = false ∧ y.empty = false ∧ v < s.nViews q ∧ (∀ f ∈ (s.stream
    q).fetches, f.n ≠ n) ∧ y.views = [] ∧ (∃ x, x < s.nViews q ∧ (s.viewRec q st x).2.2.2 = false)) ∧
    -- 1.2.2.2
    (∃ (s : State) (k : Nat) (q : Nat) (i : Nat) (v : Nat) (n : Nat) (st : Nat) (y : SmplSlot) (vs : List ViewSt) (r : CoreRun) (w : State), k < 16 ∧ q <
    16 ∧ v < 8 ∧ s.slot? q i = some y ∧ y.issued = some n ∧ y.stage = some st ∧ s.streamOn q = true ∧ s.coreReady k = true ∧ y.bad = false ∧ y.empty =
    false ∧ v < s.nViews q ∧ (∀ f ∈ (s.stream q).fetches, f.n ≠ n) ∧ (y.views = [] → ∀ x, x < s.nViews q → (s.viewRec q st x).2.2.2 = true) ∧ vs = (if
    y.views = [] then List.replicate (s.nViews q) ViewSt.todo else y.views) ∧ (r =
    { q := q, slot := i, view := v, start := s.now, prof := s.profWords (s.fget (Reg.SMPL_VIEW_profile q v)) }) ∧ w = (if y.views = [] then s.meet 8
    0x1A (s.stageAt q st) (16 * s.nViews q) else s) ∧ nth .done vs v = .todo) ∧
    -- 1.2.2.2 (b)
    (∃ (s : State) (k : Nat) (q : Nat) (i : Nat) (v : Nat) (n : Nat) (st : Nat) (y : SmplSlot) (vs : List ViewSt) (r : CoreRun) (w : State), k < 16 ∧ q <
    16 ∧ v < 8 ∧ s.slot? q i = some y ∧ y.issued = some n ∧ y.stage = some st ∧ s.streamOn q = true ∧ s.coreReady k = true ∧ y.bad = false ∧ y.empty =
    false ∧ v < s.nViews q ∧ (∀ f ∈ (s.stream q).fetches, f.n ≠ n) ∧ (y.views = [] → ∀ x, x < s.nViews q → (s.viewRec q st x).2.2.2 = true) ∧ vs = (if
    y.views = [] then List.replicate (s.nViews q) ViewSt.todo else y.views) ∧ (r =
    { q := q, slot := i, view := v, start := s.now, prof := s.profWords (s.fget (Reg.SMPL_VIEW_profile q v)) }) ∧ w = (if y.views = [] then s.meet 8
    0x1A (s.stageAt q st) (16 * s.nViews q) else s) ∧ nth .done vs v = .todo) ∧
    -- 1.2.2.1
    (∃ (s : State) (k : Nat) (q : Nat) (i : Nat) (v : Nat) (n : Nat) (st : Nat) (y : SmplSlot) (vs : List ViewSt) (r : CoreRun) (w : State), k < 16 ∧ q <
    16 ∧ v < 8 ∧ s.slot? q i = some y ∧ y.issued = some n ∧ y.stage = some st ∧ s.streamOn q = true ∧ s.coreReady k = true ∧ y.bad = false ∧ y.empty =
    false ∧ v < s.nViews q ∧ (∀ f ∈ (s.stream q).fetches, f.n ≠ n) ∧ (y.views = [] → ∀ x, x < s.nViews q → (s.viewRec q st x).2.2.2 = true) ∧ vs = (if
    y.views = [] then List.replicate (s.nViews q) ViewSt.todo else y.views) ∧ (r =
    { q := q, slot := i, view := v, start := s.now, prof := s.profWords (s.fget (Reg.SMPL_VIEW_profile q v)) }) ∧ w = (if y.views = [] then s.meet 8
    0x1A (s.stageAt q st) (16 * s.nViews q) else s) ∧ nth .done vs v ≠ .todo) ∧
    -- 2.1
    (∃ (s : State) (k : Nat) (r : CoreRun), k < 16 ∧ s.core k = some r ∧ r.q < 16 ∧ r.view < 8 ∧ r.stop = false ∧ r.dropped = false ∧ s.elapsed r <
    s.partBudget r) ∧
    -- 2.2
    (∃ (s : State) (k : Nat) (r : CoreRun), k < 16 ∧ s.core k = some r ∧ r.q < 16 ∧ r.view < 8 ∧ r.stop = false ∧ r.dropped = false ∧ s.partBudget r ≤
    s.elapsed r) ∧
    -- 2.3
    (∃ (s : State) (k : Nat) (r : CoreRun), k < 16 ∧ s.core k = some r ∧ r.q < 16 ∧ r.view < 8 ∧ r.stop = false ∧ r.dropped = false ∧ s.elapsed r < 2 *
    s.fget (Reg.SMPL_VIEW_ceil_us r.q r.view)) ∧
    -- 2.4
    (∃ (s : State) (k : Nat) (r : CoreRun), k < 16 ∧ s.core k = some r ∧ r.q < 16 ∧ r.view < 8 ∧ r.stop = false ∧ r.dropped = false ∧ 2 * s.fget
    (Reg.SMPL_VIEW_ceil_us r.q r.view) ≤ s.elapsed r) ∧
    -- 2.5.1
    (∃ (s : State) (k : Nat) (r : CoreRun), k < 16 ∧ s.core k = some r ∧ r.q < 16 ∧ r.view < 8 ∧ r.stop = false ∧ r.dropped = false) ∧
    -- 2.5.5
    (∃ (s : State) (k : Nat) (r : CoreRun) (reason : _) (y : SmplSlot), k < 16 ∧ s.core k = some r ∧ r.q < 16 ∧ r.view < 8 ∧ r.stop = false ∧ r.dropped =
    false ∧ (s.abandon k reason r).slot? r.q r.slot = some y) ∧
    -- 3
    (∃ (s : State) (k : Nat), s.core k = none) ∧
    -- 4
    (∃ (s : State) (k : Nat) (r : CoreRun), s.core k = some r ∧ r.stop = true) ∧
    -- 5.2
    (∃ (s : State) (s0 : State) (w : State) (s1 : State) (k : Nat) (npics : Nat) (hold : Nat) (r : CoreRun) (pic : Picture), k < 16 ∧ s.core k = some r ∧
      r.q < 16 ∧ r.view < 8 ∧ s0 = (match (s.slot? r.q r.slot).bind (·.stage) with
    | some st => s.meet 8 0x13 (s.stageAt r.q st + (s.viewRec r.q st r.view).1) (s.viewRec r.q st r.view).2.1
    | none => s) ∧ w = s0.keepPicture k pic ∧ s1 = (w.count Reg.DEC_CNT_PICS_count npics).addDecHold hold ∧ r.dropped = true) ∧
    -- 5.1
    (∃ (s : State) (s0 : State) (w : State) (s1 : State) (k : Nat) (npics : Nat) (hold : Nat) (r : CoreRun) (pic : Picture), k < 16 ∧ s.core k = some r ∧
      r.q < 16 ∧ r.view < 8 ∧ s0 = (match (s.slot? r.q r.slot).bind (·.stage) with
    | some st => s.meet 8 0x13 (s.stageAt r.q st + (s.viewRec r.q st r.view).1) (s.viewRec r.q st r.view).2.1
    | none => s) ∧ w = s0.keepPicture k pic ∧ s1 = (w.count Reg.DEC_CNT_PICS_count npics).addDecHold hold) ∧
    -- 5.3.1
    (∃ (s : State) (s0 : State) (w : State) (s1 : State) (k : Nat) (npics : Nat) (hold : Nat) (r : CoreRun) (err : Option Nat) (pic : Picture) (c : Nat), k
      < 16 ∧ s.core k = some r ∧ r.q < 16 ∧ r.view < 8 ∧ s0 = (match (s.slot? r.q r.slot).bind (·.stage) with
    | some st => s.meet 8 0x13 (s.stageAt r.q st + (s.viewRec r.q st r.view).1) (s.viewRec r.q st r.view).2.1
    | none => s) ∧ w = s0.keepPicture k pic ∧ s1 = (w.count Reg.DEC_CNT_PICS_count npics).addDecHold hold ∧ r.dropped = false ∧ s1.corruptCause r err pic
      npics = some c) ∧
    -- 5.3.1 (b)
    (∃ (s : State) (s0 : State) (w : State) (s1 : State) (k : Nat) (npics : Nat) (hold : Nat) (r : CoreRun) (err : Option Nat) (pic : Picture) (c : Nat), k
      < 16 ∧ s.core k = some r ∧ r.q < 16 ∧ r.view < 8 ∧ s0 = (match (s.slot? r.q r.slot).bind (·.stage) with
    | some st => s.meet 8 0x13 (s.stageAt r.q st + (s.viewRec r.q st r.view).1) (s.viewRec r.q st r.view).2.1
    | none => s) ∧ w = s0.keepPicture k pic ∧ s1 = (w.count Reg.DEC_CNT_PICS_count npics).addDecHold hold ∧ r.dropped = false ∧ s1.corruptCause r err pic
      npics = some c) ∧
    -- 5.3.2
    (∃ (s : State) (s0 : State) (w : State) (s1 : State) (k : Nat) (npics : Nat) (hold : Nat) (r : CoreRun) (err : Option Nat) (pic : Picture), k < 16 ∧
      s.core k = some r ∧ r.q < 16 ∧ r.view < 8 ∧ s0 = (match (s.slot? r.q r.slot).bind (·.stage) with
    | some st => s.meet 8 0x13 (s.stageAt r.q st + (s.viewRec r.q st r.view).1) (s.viewRec r.q st r.view).2.1
    | none => s) ∧ w = s0.keepPicture k pic ∧ s1 = (w.count Reg.DEC_CNT_PICS_count npics).addDecHold hold ∧ r.dropped = false ∧ s1.corruptCause r err pic
      npics = none) ∧
    -- 6.1
    (∃ (s : State), s.liveWaits ≠ []) ∧
    -- 6.2
    (∃ (s : State) (x : PicWait) (q : Nat) (i : Nat) (v : Nat), s.liveWaits = [] ∧ s.smpl.pics.find? (fun x => x.run.q == q && x.run.slot == i &&
    x.run.view == v) = some x) ∧
    -- 6.2 (b)
    (∃ (s : State) (x : PicWait) (q : Nat) (i : Nat) (v : Nat), s.liveWaits = [] ∧ s.smpl.pics.find? (fun x => x.run.q == q && x.run.slot == i &&
    x.run.view == v) = some x) ∧
    -- 7.1
    (∃ (s : State) (n : Nat) (f : Frame) (rest : List Frame), (s.sensor n).queue = f :: rest ∧ (∃ m ∈ s.liveWaits, s.fillOf n < s.fillOf m)) ∧
    -- 7.2
    (∃ (s : State) (n : Nat) (f : Frame) (rest : List Frame), (s.sensor n).queue = f :: rest ∧ (∀ m ∈ s.liveWaits, s.fillOf m ≤ s.fillOf n)) ∧
    -- 8.1
    (∃ (s : State) (q : Nat) (f : Nat) (r1 : Nat) (b : Nat) (ahead : Nat), q < 16 ∧ s.streamOn q = true ∧ (s.stream q).batch = none ∧ s.cursors q = (f, r1)
    ∧ b = s.fget (Reg.SMPL_CFG_b_m1 q) + 1 ∧ ahead = (s.fget (Reg.SMPL_FETCH_batch_ready q) + 65536 - s.fget (Reg.SMPL_FETCH_batch_done q)) % 65536 ∧
    ((s.stream q).ended = true ∨ s.fget (Reg.SMPL_CFG_nbatch_m1 q) < ahead)) ∧
    -- 8.2.1
    (∃ (s : State) (q : Nat) (f : Nat) (r1 : Nat) (b : Nat) (ahead : Nat), q < 16 ∧ s.streamOn q = true ∧ (s.stream q).batch = none ∧ s.cursors q = (f, r1)
    ∧ b = s.fget (Reg.SMPL_CFG_b_m1 q) + 1 ∧ ahead = (s.fget (Reg.SMPL_FETCH_batch_ready q) + 65536 - s.fget (Reg.SMPL_FETCH_batch_done q)) % 65536 ∧
    (s.stream q).ended = false ∧ ahead ≤ s.fget (Reg.SMPL_CFG_nbatch_m1 q) ∧ (r1 ≤ f ∨ (r1 - f < b ∧ s.fget (Reg.SMPL_CFG_part_last q) = 0))) ∧
    -- 8.2.1 (b)
    (∃ (s : State) (q : Nat) (f : Nat) (r1 : Nat) (b : Nat) (ahead : Nat), q < 16 ∧ s.streamOn q = true ∧ (s.stream q).batch = none ∧ s.cursors q = (f, r1)
    ∧ b = s.fget (Reg.SMPL_CFG_b_m1 q) + 1 ∧ ahead = (s.fget (Reg.SMPL_FETCH_batch_ready q) + 65536 - s.fget (Reg.SMPL_FETCH_batch_done q)) % 65536 ∧
    (s.stream q).ended = false ∧ ahead ≤ s.fget (Reg.SMPL_CFG_nbatch_m1 q) ∧ (r1 ≤ f ∨ (r1 - f < b ∧ s.fget (Reg.SMPL_CFG_part_last q) = 0))) ∧
    -- 8.2.2
    (∃ (s : State) (q : Nat) (f : Nat) (r1 : Nat) (b : Nat) (ahead : Nat), q < 16 ∧ s.streamOn q = true ∧ (s.stream q).batch = none ∧ s.cursors q = (f, r1)
    ∧ b = s.fget (Reg.SMPL_CFG_b_m1 q) + 1 ∧ ahead = (s.fget (Reg.SMPL_FETCH_batch_ready q) + 65536 - s.fget (Reg.SMPL_FETCH_batch_done q)) % 65536 ∧
    (s.stream q).ended = false ∧ ahead ≤ s.fget (Reg.SMPL_CFG_nbatch_m1 q) ∧ f < r1 ∧ (b ≤ r1 - f ∨ s.fget (Reg.SMPL_CFG_part_last q) = 1)) ∧
    -- 8.2.2 (b)
    (∃ (s : State) (q : Nat) (f : Nat) (r1 : Nat) (b : Nat) (ahead : Nat), q < 16 ∧ s.streamOn q = true ∧ (s.stream q).batch = none ∧ s.cursors q = (f, r1)
    ∧ b = s.fget (Reg.SMPL_CFG_b_m1 q) + 1 ∧ ahead = (s.fget (Reg.SMPL_FETCH_batch_ready q) + 65536 - s.fget (Reg.SMPL_FETCH_batch_done q)) % 65536 ∧
    (s.stream q).ended = false ∧ ahead ≤ s.fget (Reg.SMPL_CFG_nbatch_m1 q) ∧ f < r1 ∧ (b ≤ r1 - f ∨ s.fget (Reg.SMPL_CFG_part_last q) = 1)) ∧
    -- 9.1
    (∃ (s : State) (q : Nat) (x : SmplBatch), q < 16 ∧ s.streamOn q = true ∧ (s.stream q).batch = some x ∧ (∃ i y, x.slots[i]? = some y ∧ s.slotSettled q i
    y = false)) ∧
    -- 9.2.1
    (∃ (s : State) (q : Nat) (x : SmplBatch), q < 16 ∧ s.streamOn q = true ∧ (s.stream q).batch = some x ∧ (∀ i y, x.slots[i]? = some y → s.slotSettled q i
    y = true) ∧ (∃ y ∈ x.slots, y.bad = true)) ∧
    -- 9.2.2
    (∃ (s : State) (q : Nat) (x : SmplBatch), q < 16 ∧ s.streamOn q = true ∧ (s.stream q).batch = some x ∧ (∀ i y, x.slots[i]? = some y → s.slotSettled q i
    y = true) ∧ (∀ y ∈ x.slots, y.bad = false)) ∧
    -- 10.1
    (∃ (s : State) (q : Nat) (v : Nat), q < 16 ∧ v < 65536 ∧ within16 (s.fget (Reg.SMPL_FETCH_done q)) v (s.fget (Reg.SMPL_FETCH_issued q)) = true) ∧
    -- 10.2
    (∃ (s : State) (q : Nat) (v : Nat), q < 16 ∧ v < 65536 ∧ within16 (s.fget (Reg.SMPL_FETCH_done q)) v (s.fget (Reg.SMPL_FETCH_issued q)) = false) ∧
    -- 10.3
    (∃ (s : State) (q : Nat) (v : Nat), q < 16 ∧ v < 65536 ∧ within16 (s.fget (Reg.SMPL_FETCH_batch_done q)) v (s.fget (Reg.SMPL_FETCH_batch_ready q)) =
    true) ∧
    -- 10.4
    (∃ (s : State) (q : Nat) (v : Nat), q < 16 ∧ v < 65536 ∧ within16 (s.fget (Reg.SMPL_FETCH_batch_done q)) v (s.fget (Reg.SMPL_FETCH_batch_ready q)) =
    false) :=
  ⟨⟨wStr [(Reg.DEC_CTRL_core_en, 0x7FFF)] (wBatch []), 15, 15, 0, 1, 3, 2, wSl [], by decide +kernel, by decide +kernel, by decide +kernel, by
    decide +kernel, by decide +kernel, by decide +kernel, Or.inr (Or.inl (by decide +kernel))⟩,
    ⟨(wStr [] (wBatch [])).poke 8 0 (0x004000002000 + 10) [1], 15, 15, 0, 1, 3, 2, wSl [], by decide +kernel, by decide +kernel, by decide +kernel, by
    decide +kernel, by decide +kernel, by decide +kernel, by decide +kernel, by decide +kernel, by decide +kernel, by decide +kernel, by
    decide +kernel, by decide +kernel, by decide +kernel, ⟨0, by decide +kernel⟩⟩,
    ⟨wStr [] (wBatch []), 15, 15, 0, 1, 3, 2, wSl [], [.todo, .todo],
    ({ q := 15, slot := 0, view := 1, start := 1000000000, prof := (wStr [] (wBatch [])).profWords ((wStr [] (wBatch [])).fget (Reg.SMPL_VIEW_profile 15 1)) } : CoreRun),
    (wStr [] (wBatch [])).meet 8 0x1A ((wStr [] (wBatch [])).stageAt 15 2) 32, by decide +kernel, by decide +kernel, by decide +kernel, by
    decide +kernel, by decide +kernel, by decide +kernel, by decide +kernel, by decide +kernel, by decide +kernel, by decide +kernel, by
    decide +kernel, by decide +kernel, fun _ => by decide +kernel, by decide +kernel⟩,
    ⟨wStr [] (wBatch [.done, .todo]), 15, 15, 0, 1, 3, 2, wSl [.done, .todo], [.done, .todo],
    ({ q := 15, slot := 0, view := 1, start := 1000000000, prof := (wStr [] (wBatch [.done, .todo])).profWords ((wStr [] (wBatch [.done, .todo])).fget (Reg.SMPL_VIEW_profile 15 1)) } : CoreRun),
    wStr [] (wBatch [.done, .todo]), by decide +kernel, by decide +kernel, by decide +kernel, by decide +kernel, by decide +kernel, by decide +kernel,
    by decide +kernel, by decide +kernel, by decide +kernel, by decide +kernel, by decide +kernel, by decide +kernel, fun h => absurd h
    (by decide +kernel), by decide +kernel⟩,
    ⟨wStr [] (wBatch [.todo, .done]), 15, 15, 0, 1, 3, 2, wSl [.todo, .done], [.todo, .done],
    ({ q := 15, slot := 0, view := 1, start := 1000000000, prof := (wStr [] (wBatch [.todo, .done])).profWords ((wStr [] (wBatch [.todo, .done])).fget (Reg.SMPL_VIEW_profile 15 1)) } : CoreRun),
    wStr [] (wBatch [.todo, .done]), by decide +kernel, by decide +kernel, by decide +kernel, by decide +kernel, by decide +kernel, by decide +kernel,
    by decide +kernel, by decide +kernel, by decide +kernel, by decide +kernel, by decide +kernel, by decide +kernel, fun h => absurd h
    (by decide +kernel), by decide +kernel⟩,
    ⟨wCore (wCr 999901000), 4, wCr 999901000, by decide +kernel⟩,
    ⟨wCore (wCr 999900000), 4, wCr 999900000, by decide +kernel⟩,
    ⟨wCore (wCr 999801000), 4, wCr 999801000, by decide +kernel⟩,
    ⟨wCore (wCr 999800000), 4, wCr 999800000, by decide +kernel⟩,
    ⟨wCore (wCr 5), 4, wCr 5, by decide +kernel⟩,
    ⟨wCore (wCr 5), 4, wCr 5, 7, { wSl [.todo, .busy] with bad := true }, by decide +kernel⟩,
    ⟨wCore (wCr 5), 3, by decide +kernel⟩,
    ⟨wCore { wCr 5 with stop := true }, 4, { wCr 5 with stop := true }, by decide +kernel⟩,
    ⟨wCoreD, wMet wCoreD, (wMet wCoreD).keepPicture 4 (wPic 1), wKept wCoreD 1 1500 (wPic 1), 4, 1, 1500, { wCr 5 with dropped := true }, wPic 1, by
    decide +kernel, by decide +kernel, by decide +kernel, by decide +kernel, by simp only [wCr, wCoreD_stage, wMet], rfl, rfl, by decide +kernel⟩,
    ⟨wCoreC, wMet wCoreC, (wMet wCoreC).keepPicture 4 (wPic 1), wKept wCoreC 1 1500 (wPic 1), 4, 1, 1500, wCr 5, wPic 1, by decide +kernel, by
    decide +kernel, by decide +kernel, by decide +kernel, by simp only [wCr, wCoreC_stage, wMet], rfl, rfl⟩,
    ⟨wCoreC, wMet wCoreC, (wMet wCoreC).keepPicture 4 (wPic 1), wKept wCoreC 1 1500 (wPic 1), 4, 1, 1500, wCr 5, none, wPic 1, 0, by decide +kernel, by
    decide +kernel, by decide +kernel, by decide +kernel, by simp only [wCr, wCoreC_stage, wMet], rfl, rfl, by decide +kernel⟩,
    ⟨wCoreV, wMet wCoreV, (wMet wCoreV).keepPicture 4 (wPic 1), wKept wCoreV 1 1500 (wPic 1), 4, 1, 1500, wCr 5, none, wPic 1, 3, by decide +kernel, by
    decide +kernel, by decide +kernel, by decide +kernel, by simp only [wCr, wCoreV_stage, wMet], rfl, rfl, by decide +kernel⟩,
    ⟨wCoreV, wMet wCoreV, (wMet wCoreV).keepPicture 4 (wPic 0), wKept wCoreV 1 1500 (wPic 0), 4, 1, 1500, wCr 5, none, wPic 0, by decide +kernel, by
    decide +kernel, by decide +kernel, by decide +kernel, by simp only [wCr, wCoreV_stage, wMet], rfl, rfl, by decide +kernel⟩,
    ⟨wLive 4, by decide +kernel⟩,
    ⟨{ wCore (wCr 5) with smpl := { (wCore (wCr 5)).smpl with pics := [({ run := wCr 5, pic := wPic 0, poisoned := false } : PicWait)], cores := [] } },
    ({ run := wCr 5, pic := wPic 0, poisoned := false } : PicWait), 15, 0, 1, by decide +kernel⟩,
    ⟨{ wCore (wCr 5) with smpl := { (wCore (wCr 5)).smpl with pics := [({ run := wCr 5, pic := wPic 0, poisoned := true } : PicWait)], cores := [] } },
    ({ run := wCr 5, pic := wPic 0, poisoned := true } : PicWait), 15, 0, 1, by decide +kernel⟩,
    ⟨wLive 5, 63, { stamp := 5 }, [{ stamp := 6 }], by decide +kernel⟩,
    ⟨wLive 4, 63, { stamp := 5 }, [{ stamp := 6 }], by decide +kernel⟩,
    ⟨wBf [(Reg.SMPL_FETCH_batch_done 15, 0)] {}, 15, 6, 10, 4, 2, by decide +kernel⟩,
    ⟨wBf [(Reg.SMPL_POS_f 15, 10)] {}, 15, 10, 10, 4, 1, by decide +kernel⟩,
    ⟨wBf [(Reg.SMPL_POS_f 15, 7)] {}, 15, 7, 10, 4, 1, by decide +kernel⟩,
    ⟨wBf [] {}, 15, 6, 10, 4, 1, by decide +kernel⟩,
    ⟨wBf [(Reg.SMPL_POS_f 15, 7), (Reg.SMPL_CFG_part_last 15, 1)] {}, 15, 7, 10, 4, 1, by decide +kernel⟩,
    ⟨wStr [] { batch := some { partialB := false, slots := [wSl [.done, .todo]] } }, 15, { partialB := false, slots := [wSl [.done, .todo]] }, by
    decide +kernel, by decide +kernel, by decide +kernel, ⟨0, wSl [.done, .todo], by decide +kernel⟩⟩,
    ⟨wStr [] { batch := some { partialB := false, slots := [{ wSl [.done, .done] with bad := true }] } }, 15,
    { partialB := false, slots := [{ wSl [.done, .done] with bad := true }] }, by decide +kernel, by decide +kernel, by decide +kernel, wOnly
    (by decide +kernel), by decide +kernel⟩,
    ⟨wStr [] { batch := some { partialB := false, slots := [wSl [.done, .done]] } }, 15, { partialB := false, slots := [wSl [.done, .done]] }, by
    decide +kernel, by decide +kernel, by decide +kernel, wOnly (by decide +kernel), by decide +kernel⟩,
    ⟨{ wOn (wGo []) [(Reg.SMPL_FETCH_issued 15, 4), (Reg.SMPL_FETCH_done 15, 65534), (Reg.SMPL_FETCH_batch_ready 15, 2)] with smpl := { State.reset.smpl with streams := [(15, { fetches := [{ n := 65535, stage := 0 }, { n := 4, stage := 1 }], waitFrom := some 5 })] } },
    15, 4, by decide +kernel⟩,
    ⟨{ wOn (wGo []) [(Reg.SMPL_FETCH_issued 15, 4), (Reg.SMPL_FETCH_done 15, 65534), (Reg.SMPL_FETCH_batch_ready 15, 2)] with smpl := { State.reset.smpl with streams := [(15, { fetches := [{ n := 65535, stage := 0 }, { n := 4, stage := 1 }], waitFrom := some 5 })] } },
    15, 5, by decide +kernel⟩,
    ⟨{ wOn (wGo []) [(Reg.SMPL_FETCH_issued 15, 4), (Reg.SMPL_FETCH_done 15, 65534), (Reg.SMPL_FETCH_batch_ready 15, 2)] with smpl := { State.reset.smpl with streams := [(15, { fetches := [{ n := 65535, stage := 0 }, { n := 4, stage := 1 }], waitFrom := some 5 })] } },
    15, 2, by decide +kernel⟩,
    ⟨{ wOn (wGo []) [(Reg.SMPL_FETCH_issued 15, 4), (Reg.SMPL_FETCH_done 15, 65534), (Reg.SMPL_FETCH_batch_ready 15, 2)] with smpl := { State.reset.smpl with streams := [(15, { fetches := [{ n := 65535, stage := 0 }, { n := 4, stage := 1 }], waitFrom := some 5 })] } },
    15, 3, by decide +kernel⟩⟩

theorem wit_EthernetPorts :
    -- 1.1
    (∃ (s : State) (port : Nat) (bad : Bool), s.portOn port = true ∧ bad = true) ∧
    -- 1.1 (b)
    (∃ (s : State) (port : Nat) (bad : Bool), s.portOn port = true ∧ bad = true) ∧
    -- 1.2
    (∃ (s : State) (port : Nat) (frame : List Byte) (bad : Bool) (full : Bool), s.portOn port = true ∧ bad = false ∧ full = true ∧ ((readFrame port
    frame)).typ ≠ 0x88F7) ∧
    -- 1.3.1
    (∃ (s : State) (port : Nat) (sec : Nat) (frame : List Byte) (bad : Bool) (full : Bool), s.portOn port = true ∧ bad = false ∧ (full = false ∨
    ((readFrame port frame)).typ = 0x88F7) ∧ sec = 2) ∧
    -- 1.3.2
    (∃ (s : State) (port : Nat) (sec : Nat) (frame : List Byte) (bad : Bool) (full : Bool), s.portOn port = true ∧ bad = false ∧ (full = false ∨
    ((readFrame port frame)).typ = 0x88F7) ∧ sec ≠ 2 ∧ s.vidOk port ((readFrame port frame)).vlan = false) ∧
    -- 1.3.3.1
    (∃ (s : State) (port : Nat) (sec : Nat) (frame : List Byte) (bad : Bool) (full : Bool) (qci : Bool), s.portOn port = true ∧ bad = false ∧ (full = false
    ∨ ((readFrame port frame)).typ = 0x88F7) ∧ sec ≠ 2 ∧ s.vidOk port ((readFrame port frame)).vlan = true ∧ qci = true) ∧
    -- 1.3.3.2
    (∃ (s : State) (port : Nat) (sec : Nat) (frame : List Byte) (bad : Bool) (full : Bool) (qci : Bool) (dup : Bool), s.portOn port = true ∧ bad = false ∧
    (full = false ∨ ((readFrame port frame)).typ = 0x88F7) ∧ sec ≠ 2 ∧ s.vidOk port ((readFrame port frame)).vlan = true ∧ qci = false ∧ dup = true) ∧
    -- 1.3.3.3
    (∃ (s : State) (port : Nat) (sec : Nat) (frame : List Byte) (bad : Bool) (full : Bool) (qci : Bool) (dup : Bool), s.portOn port = true ∧ bad = false ∧
    (full = false ∨ ((readFrame port frame)).typ = 0x88F7) ∧ sec ≠ 2 ∧ s.vidOk port ((readFrame port frame)).vlan = true ∧ qci = false ∧ dup = false ∧
    ((readFrame port frame)).typ = 0x88F7) ∧
    -- 1.3.3.4.1.1
    (∃ (s : State) (port : Nat) (sec : Nat) (frame : List Byte) (bad : Bool) (full : Bool) (qci : Bool) (dup : Bool) (b : List Byte) (ip : _) (udp : _)
    (whole : _), s.portOn port = true ∧ bad = false ∧ (full = false ∨ ((readFrame port frame)).typ = 0x88F7) ∧ sec ≠ 2 ∧ s.vidOk port ((readFrame port
    frame)).vlan = true ∧ qci = false ∧ dup = false ∧ ((readFrame port frame)).typ ≠ 0x88F7 ∧ s.ohpMatch ((readFrame port frame)) = some (b, ip, udp,
    whole) ∧ s.fget Reg.OHP_CTRL_secure_only = 1 ∧ sec ≠ 1) ∧
    -- 1.3.3.4.1.2
    (∃ (s : State) (port : Nat) (sec : Nat) (frame : List Byte) (bad : Bool) (full : Bool) (qci : Bool) (dup : Bool) (b : List Byte) (ip : _) (udp : _)
    (whole : _), s.portOn port = true ∧ bad = false ∧ (full = false ∨ ((readFrame port frame)).typ = 0x88F7) ∧ sec ≠ 2 ∧ s.vidOk port ((readFrame port
    frame)).vlan = true ∧ qci = false ∧ dup = false ∧ ((readFrame port frame)).typ ≠ 0x88F7 ∧ s.ohpMatch ((readFrame port frame)) = some (b, ip, udp,
    whole) ∧ (s.fget Reg.OHP_CTRL_secure_only = 0 ∨ sec = 1)) ∧
    -- 1.3.3.4.1.2 (b)
    (∃ (s : State) (port : Nat) (sec : Nat) (frame : List Byte) (bad : Bool) (full : Bool) (qci : Bool) (dup : Bool) (b : List Byte) (ip : _) (udp : _)
    (whole : _), s.portOn port = true ∧ bad = false ∧ (full = false ∨ ((readFrame port frame)).typ = 0x88F7) ∧ sec ≠ 2 ∧ s.vidOk port ((readFrame port
    frame)).vlan = true ∧ qci = false ∧ dup = false ∧ ((readFrame port frame)).typ ≠ 0x88F7 ∧ s.ohpMatch ((readFrame port frame)) = some (b, ip, udp,
    whole) ∧ (s.fget Reg.OHP_CTRL_secure_only = 0 ∨ sec = 1)) ∧
    -- 1.3.3.4.2
    (∃ (s : State) (port : Nat) (sec : Nat) (frame : List Byte) (bad : Bool) (full : Bool) (qci : Bool) (dup : Bool) (hw : _) (ip : _), s.portOn port =
    true ∧ bad = false ∧ (full = false ∨ ((readFrame port frame)).typ = 0x88F7) ∧ sec ≠ 2 ∧ s.vidOk port ((readFrame port frame)).vlan = true ∧ qci =
    false ∧ dup = false ∧ ((readFrame port frame)).typ ≠ 0x88F7 ∧ s.ohpMatch ((readFrame port frame)) = none ∧ s.arpFor ((readFrame port frame)) =
    some (hw, ip)) ∧
    -- 1.3.3.4.3
    (∃ (s : State) (port : Nat) (sec : Nat) (frame : List Byte) (bad : Bool) (full : Bool) (qci : Bool) (dup : Bool) (n : _) (payload : _), s.portOn port =
    true ∧ bad = false ∧ (full = false ∨ ((readFrame port frame)).typ = 0x88F7) ∧ sec ≠ 2 ∧ s.vidOk port ((readFrame port frame)).vlan = true ∧ qci =
    false ∧ dup = false ∧ ((readFrame port frame)).typ ≠ 0x88F7 ∧ s.ohpMatch ((readFrame port frame)) = none ∧ s.arpFor ((readFrame port frame)) =
    none ∧ s.ethSensor port ((readFrame port frame)) = some (n, payload)) ∧
    -- 1.3.3.4.4
    (∃ (s : State) (port : Nat) (sec : Nat) (frame : List Byte) (bad : Bool) (full : Bool) (qci : Bool) (dup : Bool), s.portOn port = true ∧ bad = false ∧
    (full = false ∨ ((readFrame port frame)).typ = 0x88F7) ∧ sec ≠ 2 ∧ s.vidOk port ((readFrame port frame)).vlan = true ∧ qci = false ∧ dup = false ∧
    ((readFrame port frame)).typ ≠ 0x88F7 ∧ s.ohpMatch ((readFrame port frame)) = none ∧ s.arpFor ((readFrame port frame)) = none ∧ s.ethSensor port
    ((readFrame port frame)) = none) ∧
    -- 2
    (∃ (s : State) (port : Nat), s.portOn port = false) ∧
    -- 3.1
    (∃ (s : State) (b : List Byte), u b 8 2 ≠ 0xFFFF ∧ u b 8 2 ≠ s.fget Reg.JSY_ROLE_part_index) ∧
    -- 3.2.1
    (∃ (s : State) (b : List Byte) (whole : Bool) (fits : Bool) (good : Bool), (u b 8 2 = 0xFFFF ∨ u b 8 2 = s.fget Reg.JSY_ROLE_part_index) ∧ fits = (if
    whole then b.length == 32 + u b 6 2 else decide (32 + u b 6 2 ≤ b.length)) ∧ good = (u b 0 1 == 1 && u b 0x14 4 == 0 && fits && (u b 2 2 == 1 ||
    (u b 2 2 == 0 && ohpType (u b 1 1) && u b 0x0E 2 == 0))) ∧ good = false) ∧
    -- 3.2.1 (b)
    (∃ (s : State) (b : List Byte) (whole : Bool) (fits : Bool) (good : Bool), (u b 8 2 = 0xFFFF ∨ u b 8 2 = s.fget Reg.JSY_ROLE_part_index) ∧ fits = (if
    whole then b.length == 32 + u b 6 2 else decide (32 + u b 6 2 ≤ b.length)) ∧ good = (u b 0 1 == 1 && u b 0x14 4 == 0 && fits && (u b 2 2 == 1 ||
    (u b 2 2 == 0 && ohpType (u b 1 1) && u b 0x0E 2 == 0))) ∧ good = false) ∧
    -- 3.2.2
    (∃ (s : State) (b : List Byte) (whole : Bool) (fits : Bool) (good : Bool), (u b 8 2 = 0xFFFF ∨ u b 8 2 = s.fget Reg.JSY_ROLE_part_index) ∧ fits = (if
    whole then b.length == 32 + u b 6 2 else decide (32 + u b 6 2 ≤ b.length)) ∧ good = (u b 0 1 == 1 && u b 0x14 4 == 0 && fits && (u b 2 2 == 1 ||
    (u b 2 2 == 0 && ohpType (u b 1 1) && u b 0x0E 2 == 0))) ∧ good = true ∧ ((u b 2 2 = 1 ∧ u b 1 1 ≠ 0x24 ∧ u b 1 1 ≠ 0x26) ∨ (u b 2 2 = 0 ∧ u b 1 1
    = 0x22))) ∧
    -- 3.2.2 (b)
    (∃ (s : State) (b : List Byte) (whole : Bool) (fits : Bool) (good : Bool), (u b 8 2 = 0xFFFF ∨ u b 8 2 = s.fget Reg.JSY_ROLE_part_index) ∧ fits = (if
    whole then b.length == 32 + u b 6 2 else decide (32 + u b 6 2 ≤ b.length)) ∧ good = (u b 0 1 == 1 && u b 0x14 4 == 0 && fits && (u b 2 2 == 1 ||
    (u b 2 2 == 0 && ohpType (u b 1 1) && u b 0x0E 2 == 0))) ∧ good = true ∧ ((u b 2 2 = 1 ∧ u b 1 1 ≠ 0x24 ∧ u b 1 1 ≠ 0x26) ∨ (u b 2 2 = 0 ∧ u b 1 1
    = 0x22))) ∧
    -- 4.1
    (∃ (s : State) (b : List Byte), 32 ≤ b.length ∧ u b 0 1 = 1 ∧ u b 0x14 4 = 0 ∧ b.length = 32 + u b 6 2 ∧ ((u b 2 2 = 0 ∧ ohpType (u b 1 1) = true ∧ u b
    1 1 ≠ 0x22 ∧ u b 0x0E 2 = 0) ∨ (u b 2 2 = 1 ∧ (u b 1 1 = 0x24 ∨ u b 1 1 = 0x26))) ∧ (u b 8 2 = 0xFFFF ∨ u b 8 2 = s.fget Reg.JSY_ROLE_part_index)
    ∧ s.ohp.queue.length < 256) ∧
    -- 4.2
    (∃ (s : State) (b : List Byte), 32 ≤ b.length ∧ u b 0 1 = 1 ∧ u b 0x14 4 = 0 ∧ b.length = 32 + u b 6 2 ∧ ((u b 2 2 = 0 ∧ ohpType (u b 1 1) = true ∧ u b
    1 1 ≠ 0x22 ∧ u b 0x0E 2 = 0) ∨ (u b 2 2 = 1 ∧ (u b 1 1 = 0x24 ∨ u b 1 1 = 0x26))) ∧ (u b 8 2 = 0xFFFF ∨ u b 8 2 = s.fget Reg.JSY_ROLE_part_index)
    ∧ 256 ≤ s.ohp.queue.length) ∧
    -- 5.1
    (∃ (s : State) (port : Nat), port < 6 ∧ s.fget (Reg.ETH_PORT_CTRL_en port) = 1 ∧ s.fget (Reg.ETH_PORT_STATUS_link_up port) = 0) ∧
    -- 5.3.1
    (∃ (s : State) (port : Nat), port < 6 ∧ s.fget (Reg.ETH_PORT_CTRL_en port) = 1 ∧ s.fget (Reg.ETH_PORT_STATUS_link_up port) = 1) ∧
    -- 6.1
    (∃ (s : State) (port : Nat) (l : GateList), (s.gateAt port).next = some l ∧ l.ok = false) ∧
    -- 6.1 (b)
    (∃ (s : State) (port : Nat) (l : GateList), (s.gateAt port).next = some l ∧ l.ok = false) ∧
    -- 6.2
    (∃ (s : State) (port : Nat) (l : GateList), (s.gateAt port).next = some l ∧ l.ok = true ∧ s.gptpNow < l.base) ∧
    -- 6.3
    (∃ (s : State) (port : Nat) (l : GateList), (s.gateAt port).next = some l ∧ l.ok = true ∧ (l.base : Int) ≤ s.gptpNow ∧ port < 6) ∧
    -- 7.1
    (∃ (s : State) (port : Nat) (g : GatePort) (l : GateList), s.gateAt port = g ∧ g.list = some l ∧ l.live ≠ [] ∧ s.gptpNow < g.until_) ∧
    -- 7.2
    (∃ (s : State) (port : Nat) (g : GatePort) (l : GateList) (i : Nat) (e : Nat×Nat), s.gateAt port = g ∧ g.list = some l ∧ l.live ≠ [] ∧ (g.until_ : Int)
    ≤ s.gptpNow ∧ i = (g.idx + 1) % l.live.length ∧ e = nth (0xFF, 0) l.live i) ∧
    -- 8
    (∃ (port : Nat), port < 6) :=
  ⟨⟨wEth [], 5, true, by decide +kernel⟩,
    ⟨wSen, 5, true, by decide +kernel⟩,
    ⟨wEth [], 5, wFr 1 0x1234 (List.replicate 64 9), false, true, by decide +kernel⟩,
    ⟨wEth [], 5, 2, wFr 1 0x1234 (List.replicate 64 9), false, false, by decide +kernel⟩,
    ⟨(wEth []).fset (Reg.ETH_VID_vid 5 63) 8, 5, 0, wFr 1 0x1234 (List.replicate 64 9), false, false, by decide +kernel⟩,
    ⟨wEth [], 5, 0, wFr 1 0x1234 (List.replicate 64 9), false, false, true, by decide +kernel⟩,
    ⟨wEth [], 5, 0, wFr 1 0x1234 (List.replicate 64 9), false, false, false, true, by decide +kernel⟩,
    ⟨wEth [], 5, 0, wFr 1 0x88F7 [0], false, false, false, false, by decide +kernel⟩,
    ⟨wEth [(Reg.OHP_CTRL_ethertype, 0x88B5), (Reg.OHP_CTRL_secure_only, 1)], 5, 0, wFr 0xAABBCCDDEEFF 0x88B5 (wOhpB 9 20), false, false, false, false,
    wOhpB 9 20, 0, 0, true, by decide +kernel⟩,
    ⟨wEth [(Reg.OHP_CTRL_ethertype, 0x88B5), (Reg.OHP_CTRL_secure_only, 1)], 5, 1, wFr 0xAABBCCDDEEFF 0x88B5 (wOhpB 9 20), false, false, false, false,
    wOhpB 9 20, 0, 0, true, by decide +kernel⟩,
    ⟨wEth [(Reg.OHP_CTRL_ethertype, 0x88B5), (Reg.OHP_CTRL_secure_only, 0)], 5, 0, wFr 0xAABBCCDDEEFF 0x88B5 (wOhpB 9 20), false, false, false, false,
    wOhpB 9 20, 0, 0, true, by decide +kernel⟩,
    ⟨wEth [(Reg.OHP_CTRL_udp, 1), (Reg.OHP_UDP_ipv4, 0x0A000001)], 5, 0, wFr (2 ^ 48 - 1) 0x0806 (wArp ++ List.replicate 18 0), false, false, false,
    false, 0x112233445566, 9, by decide +kernel⟩,
    ⟨wSen, 5, 0, wFr 1 0x1234 (List.replicate 64 9), false, false, false, false, 63, (List.replicate 64 9 : List Byte), by decide +kernel⟩,
    ⟨wSen, 5, 0, wFr 1 0x1235 (List.replicate 64 9), false, false, false, false, by decide +kernel⟩,
    ⟨wEth [(Reg.ETH_PORT_CTRL_en 5, 0)], 5, by decide +kernel⟩,
    ⟨wEth [], wOhpD 5 0 9 8 0, by decide +kernel⟩,
    ⟨wEth [], wOhpD 0xFFFF 0 9 8 1, true, false, false, by decide +kernel⟩,
    ⟨wEth [], wOhpD 0 0 0x0B 8 0, true, true, false, by decide +kernel⟩,
    ⟨wEth [], wOhpD 0 0 0x22 8 0, true, true, true, by decide +kernel⟩,
    ⟨wEth [], wOhpD 0 1 0x20 8 0, true, true, true, by decide +kernel⟩,
    ⟨{ wGo [] with ohp := { State.reset.ohp with queue := List.replicate 255 { port := 0, mac := 1, vlan := 0, typ := 7, flags := 0, seq := 1, dstPart := 0, srcPart := 1, unit := 0, status := 0, role := 1, txTime := 0, payload := [] } } },
    wOhpB 0x27 8, by decide +kernel⟩,
    ⟨{ wGo [] with ohp := { State.reset.ohp with queue := List.replicate 256 { port := 0, mac := 1, vlan := 0, typ := 7, flags := 0, seq := 1, dstPart := 0, srcPart := 1, unit := 0, status := 0, role := 1, txTime := 0, payload := [] } } },
    wOhpB 0x27 8, by decide +kernel⟩,
    ⟨wEth [(Reg.ETH_PORT_CTRL_speed 5, 3)], 5, by decide +kernel⟩,
    ⟨wEth [(Reg.ETH_PORT_STATUS_link_up 5, 1)], 5, by decide +kernel⟩,
    ⟨wGt { next := some (wGl 5 6) }, 5, wGl 5 6, by decide +kernel⟩,
    ⟨wGt { next := some { wGl 7 6 with cycle := 999 } }, 5, { wGl 7 6 with cycle := 999 }, by decide +kernel⟩,
    ⟨wGt { next := some (wGl 1000000001 6) }, 5, wGl 1000000001 6, by decide +kernel⟩,
    ⟨wGt { next := some (wGl 1000000000 6) }, 5, wGl 1000000000 6, by decide +kernel⟩,
    ⟨wGt ({ list := some (wGl 5 5), idx := 1, until_ := 1000000001 } : GatePort), 5,
    ({ list := some (wGl 5 5), idx := 1, until_ := 1000000001 } : GatePort), wGl 5 5, by decide +kernel⟩,
    ⟨wGt ({ list := some (wGl 5 5), idx := 1, until_ := 1000000000 } : GatePort), 5,
    ({ list := some (wGl 5 5), idx := 1, until_ := 1000000000 } : GatePort), wGl 5 5, 0, (1, 300), by decide +kernel⟩,
    ⟨5, by decide +kernel⟩⟩

def wSmp (x : SmpState) : State := { wGo [] with smp := x }
def wIs (x : SafState) : State := { wGo [] with saf := x }
def wArm (action arg : Nat) : State := { wOn (wGo []) [(Reg.SMP_CTRL_reset_en, 1), (Reg.SMP_CTRL_mode_en, 1)] with smp := { State.reset.smp with arm := some { addr := action + arg * 256, data := 7, at_ := 999000000 } } }
def wEv (code : Nat) : Event := { time := 1000000000, code := code, origin := 9, unit := 0x20, detail := 0 }
def wWaits : State := (wGo [wGraph 1 0 [wTask 1]]).setRun { wRunT 0 with st := .waiting, due := false }

theorem wit_SideBandPort :
    -- 1.1
    (∃ (s : State), s.pow.phase ≠ .stopped ∧ s.now < s.smp.genAt + 1000) ∧
    -- 1.2
    (∃ (s : State), s.pow.phase ≠ .stopped ∧ s.smp.genAt + 1000 ≤ s.now) ∧
    -- 1.2 (b)
    (∃ (s : State), s.pow.phase ≠ .stopped ∧ s.smp.genAt + 1000 ≤ s.now) ∧
    -- 2.1
    (∃ (s : State) (isl : Nat), isl < 2 ∧ isl ∉ s.smp.stale ∧ s.now < nth 0 s.smp.wroteAt isl + 10000) ∧
    -- 2.2
    (∃ (s : State) (isl : Nat), isl < 2 ∧ isl ∉ s.smp.stale ∧ nth 0 s.smp.wroteAt isl + 10000 ≤ s.now) ∧
    -- 2.2 (b)
    (∃ (s : State) (isl : Nat), isl < 2 ∧ isl ∉ s.smp.stale ∧ nth 0 s.smp.wroteAt isl + 10000 ≤ s.now) ∧
    -- 4
    (∃ (addr : Nat) (data : Nat), addr < 2 ^ 16 ∧ data < 2 ^ 32) ∧
    -- 4 (b)
    (∃ (addr : Nat) (data : Nat), addr < 2 ^ 16 ∧ data < 2 ^ 32) ∧
    -- 5.1
    (∃ (s : State) (a : SmpArm), s.smp.arm = some a ∧ s.now ≤ a.at_ + 1000000) ∧
    -- 5.2
    (∃ (s : State) (a : SmpArm), s.smp.arm = some a ∧ a.at_ + 1000000 < s.now) ∧
    -- 6.2
    (∃ (s : State) (c : Instr) (action : Nat) (arg : Nat) (data : Nat) (en : Bool) (good : Bool), s.pow.phase ≠ .stopped ∧ (c, action, en) ∈
      [(Instr.safeState arg data, 1, true), (Instr.appReset arg data, 2, s.pow.committed && s.flag Reg.SMP_CTRL_reset_en), (Instr.logFreeze arg data,
      3, true), (Instr.smpModeReq arg data, 4, s.pow.committed && s.flag Reg.SMP_CTRL_mode_en)] ∧ (good = (match s.smp.arm with
    | some a => decide (a.addr = action + arg % 256 * 256 ∧ data % 2 ^ 32 = 0xFFFFFFFF - a.data ∧ s.now ≤ a.at_ + 1000000 ∧ (action = 4 ∨ arg % 256 = 0))
    | none => false)) ∧ good = true ∧ en = true) ∧
    -- 6.2 (b)
    (∃ (s : State) (c : Instr) (action : Nat) (arg : Nat) (data : Nat) (en : Bool) (good : Bool), s.pow.phase ≠ .stopped ∧ (c, action, en) ∈
      [(Instr.safeState arg data, 1, true), (Instr.appReset arg data, 2, s.pow.committed && s.flag Reg.SMP_CTRL_reset_en), (Instr.logFreeze arg data,
      3, true), (Instr.smpModeReq arg data, 4, s.pow.committed && s.flag Reg.SMP_CTRL_mode_en)] ∧ (good = (match s.smp.arm with
    | some a => decide (a.addr = action + arg % 256 * 256 ∧ data % 2 ^ 32 = 0xFFFFFFFF - a.data ∧ s.now ≤ a.at_ + 1000000 ∧ (action = 4 ∨ arg % 256 = 0))
    | none => false)) ∧ good = true ∧ en = true) ∧
    -- 6.2 (c)
    (∃ (s : State) (c : Instr) (action : Nat) (arg : Nat) (data : Nat) (en : Bool) (good : Bool), s.pow.phase ≠ .stopped ∧ (c, action, en) ∈
      [(Instr.safeState arg data, 1, true), (Instr.appReset arg data, 2, s.pow.committed && s.flag Reg.SMP_CTRL_reset_en), (Instr.logFreeze arg data,
      3, true), (Instr.smpModeReq arg data, 4, s.pow.committed && s.flag Reg.SMP_CTRL_mode_en)] ∧ (good = (match s.smp.arm with
    | some a => decide (a.addr = action + arg % 256 * 256 ∧ data % 2 ^ 32 = 0xFFFFFFFF - a.data ∧ s.now ≤ a.at_ + 1000000 ∧ (action = 4 ∨ arg % 256 = 0))
    | none => false)) ∧ good = true ∧ en = true) ∧
    -- 6.2 (d)
    (∃ (s : State) (c : Instr) (action : Nat) (arg : Nat) (data : Nat) (en : Bool) (good : Bool), s.pow.phase ≠ .stopped ∧ (c, action, en) ∈
      [(Instr.safeState arg data, 1, true), (Instr.appReset arg data, 2, s.pow.committed && s.flag Reg.SMP_CTRL_reset_en), (Instr.logFreeze arg data,
      3, true), (Instr.smpModeReq arg data, 4, s.pow.committed && s.flag Reg.SMP_CTRL_mode_en)] ∧ (good = (match s.smp.arm with
    | some a => decide (a.addr = action + arg % 256 * 256 ∧ data % 2 ^ 32 = 0xFFFFFFFF - a.data ∧ s.now ≤ a.at_ + 1000000 ∧ (action = 4 ∨ arg % 256 = 0))
    | none => false)) ∧ good = true ∧ en = true) ∧
    -- 6.1
    (∃ (s : State) (c : Instr) (action : Nat) (arg : Nat) (data : Nat) (en : Bool) (good : Bool), s.pow.phase ≠ .stopped ∧ (c, action, en) ∈
      [(Instr.safeState arg data, 1, true), (Instr.appReset arg data, 2, s.pow.committed && s.flag Reg.SMP_CTRL_reset_en), (Instr.logFreeze arg data,
      3, true), (Instr.smpModeReq arg data, 4, s.pow.committed && s.flag Reg.SMP_CTRL_mode_en)] ∧ (good = (match s.smp.arm with
    | some a => decide (a.addr = action + arg % 256 * 256 ∧ data % 2 ^ 32 = 0xFFFFFFFF - a.data ∧ s.now ≤ a.at_ + 1000000 ∧ (action = 4 ∨ arg % 256 = 0))
    | none => false)) ∧ (good = false ∨ en = false)) ∧
    -- 6.1 (b)
    (∃ (s : State) (c : Instr) (action : Nat) (arg : Nat) (data : Nat) (en : Bool) (good : Bool), s.pow.phase ≠ .stopped ∧ (c, action, en) ∈
      [(Instr.safeState arg data, 1, true), (Instr.appReset arg data, 2, s.pow.committed && s.flag Reg.SMP_CTRL_reset_en), (Instr.logFreeze arg data,
      3, true), (Instr.smpModeReq arg data, 4, s.pow.committed && s.flag Reg.SMP_CTRL_mode_en)] ∧ (good = (match s.smp.arm with
    | some a => decide (a.addr = action + arg % 256 * 256 ∧ data % 2 ^ 32 = 0xFFFFFFFF - a.data ∧ s.now ≤ a.at_ + 1000000 ∧ (action = 4 ∨ arg % 256 = 0))
    | none => false)) ∧ (good = false ∨ en = false)) ∧
    -- 6.1 (c)
    (∃ (s : State) (c : Instr) (action : Nat) (arg : Nat) (data : Nat) (en : Bool) (good : Bool), s.pow.phase ≠ .stopped ∧ (c, action, en) ∈
      [(Instr.safeState arg data, 1, true), (Instr.appReset arg data, 2, s.pow.committed && s.flag Reg.SMP_CTRL_reset_en), (Instr.logFreeze arg data,
      3, true), (Instr.smpModeReq arg data, 4, s.pow.committed && s.flag Reg.SMP_CTRL_mode_en)] ∧ (good = (match s.smp.arm with
    | some a => decide (a.addr = action + arg % 256 * 256 ∧ data % 2 ^ 32 = 0xFFFFFFFF - a.data ∧ s.now ≤ a.at_ + 1000000 ∧ (action = 4 ∨ arg % 256 = 0))
    | none => false)) ∧ (good = false ∨ en = false)) :=
  ⟨⟨wSmp { genAt := 1000000000 - 999 }, by decide +kernel⟩,
    ⟨wSmp { genAt := 1000000000 - 1000, gen := 2 ^ 32 - 1, stale := [0] }, by decide +kernel⟩,
    ⟨wSmp { genAt := 1000000000 - 1000, gen := 6, words := [(5, 9)] }, by decide +kernel⟩,
    ⟨wSmp { wroteAt := [5, 1000000000 - 9999], stale := [] }, 1, by decide +kernel⟩,
    ⟨wSmp { wroteAt := [1000000000 - 10000, 5], stale := [1] }, 0, by decide +kernel⟩,
    ⟨wSmp { wroteAt := [1000000000 - 10000, 5], stale := [] }, 1, by decide +kernel⟩,
    ⟨2 ^ 16 - 1, 2 ^ 32 - 1, by decide +kernel⟩,
    ⟨2 ^ 16 - 1, 0, by decide +kernel⟩,
    ⟨wSmp { arm := some ({ addr := 1, data := 7, at_ := 999000000 } : SmpArm) }, ({ addr := 1, data := 7, at_ := 999000000 } : SmpArm), by decide +kernel⟩,
    ⟨wSmp { arm := some ({ addr := 1, data := 7, at_ := 998999999 } : SmpArm) }, ({ addr := 1, data := 7, at_ := 998999999 } : SmpArm), by decide +kernel⟩,
    ⟨wArm 1 0, Instr.safeState 0 (0xFFFFFFFF - 7), 1, 0, 0xFFFFFFFF - 7, true, true, by decide +kernel⟩,
    ⟨wArm 2 0, Instr.appReset 0 (0xFFFFFFFF - 7), 2, 0, 0xFFFFFFFF - 7, true, true, by decide +kernel⟩,
    ⟨wArm 3 0, Instr.logFreeze 0 (0xFFFFFFFF - 7), 3, 0, 0xFFFFFFFF - 7, true, true, by decide +kernel⟩,
    ⟨wArm 4 31, Instr.smpModeReq 31 (0xFFFFFFFF - 7), 4, 31, 0xFFFFFFFF - 7, true, true, by decide +kernel⟩,
    ⟨wArm 3 1, Instr.logFreeze 1 (0xFFFFFFFF - 7), 3, 1, 0xFFFFFFFF - 7, true, false, by decide +kernel⟩,
    ⟨(wArm 2 0).fset Reg.SMP_CTRL_reset_en 0, Instr.appReset 0 (0xFFFFFFFF - 7), 2, 0, 0xFFFFFFFF - 7, false, true, by decide +kernel⟩,
    ⟨wArm 1 0, Instr.safeState 0 7, 1, 0, 7, true, false, by decide +kernel⟩⟩

theorem wit_SafeStateAndLockstep :
    -- 1.1
    (∃ (s : State), s.safe = true) ∧
    -- 1.2.1
    (∃ (s : State), s.safe = false) ∧
    -- 1.2.4
    (∃ (s : State) (code : Nat) (r : TaskRun), s.safe = false ∧ (s.enterSafe code).run? r.key = some r) ∧
    -- 2.1
    (∃ (low : Nat), low < 1000) ∧
    -- 2.2
    (∃ (s : State) (low : Nat), 1000 ≤ low ∧ s.pow.phase ≠ .stopped) ∧
    -- 3.1
    (∃ (s : State) (c : Nat), s.saf.c3At = some c ∧ s.safe = false ∧ c + 10000000 ≤ s.now) ∧
    -- 3.2
    (∃ (s : State) (c : Nat), s.saf.c3At = some c ∧ (s.safe = true ∨ s.now < c + 10000000)) ∧
    -- 4.1
    (∃ (s : State), s.pow.phase ≠ .stopped ∧ s.fget (Reg.CHK_ISL_split .hub) = 0) ∧
    -- 4.2
    (∃ (s : State), s.pow.phase ≠ .stopped ∧ s.fget (Reg.CHK_ISL_split .hub) = 1) ∧
    -- 4.3
    (∃ (s : State), s.pow.phase ≠ .stopped ∧ s.fget (Reg.CHK_ISL_split .kysta) = 0 ∧ s.pow.kyDown = false) ∧
    -- 5.1
    (∃ (s : State) (input : Nat) (agree : List Bool) (n : Nat), s.islandUp 0 = true ∧ s.fget (Reg.CHK_ISL_split .hub) = 0 ∧ input < 256 ∧ n = ((agree.take
    3).takeWhile fun b => !b).length ∧ n < 3) ∧
    -- 5.1 (b)
    (∃ (s : State) (input : Nat) (agree : List Bool) (n : Nat), s.islandUp 0 = true ∧ s.fget (Reg.CHK_ISL_split .hub) = 0 ∧ input < 256 ∧ n = ((agree.take
    3).takeWhile fun b => !b).length ∧ n < 3) ∧
    -- 5.2
    (∃ (s : State) (input : Nat) (agree : List Bool) (n : Nat), s.islandUp 0 = true ∧ s.fget (Reg.CHK_ISL_split .hub) = 0 ∧ input < 256 ∧ n = ((agree.take
    3).takeWhile fun b => !b).length ∧ n = 3) ∧
    -- 9.1
    (∃ (s : State), s.islandUp 0 = true ∧ s.fget Reg.SEC_STATUS_debug_level = 2) ∧
    -- 9.2
    (∃ (s : State), s.islandUp 0 = true ∧ s.fget Reg.SEC_STATUS_debug_level ≠ 2) ∧
    -- 4.4
    (∃ (s : State), s.pow.phase ≠ .stopped ∧ (s.fget (Reg.CHK_ISL_split .kysta) = 1 ∨ s.pow.kyDown = true)) ∧
    -- 6
    (∃ (s : State) (input : Nat) (agree : List Bool) (n : Nat), s.islandUp 1 = true ∧ s.fget (Reg.CHK_ISL_split .kysta) = 0 ∧ input < 256 ∧ n =
    ((agree.take 3).takeWhile fun b => !b).length) ∧
    -- 6 (b)
    (∃ (s : State) (input : Nat) (agree : List Bool) (n : Nat), s.islandUp 1 = true ∧ s.fget (Reg.CHK_ISL_split .kysta) = 0 ∧ input < 256 ∧ n =
    ((agree.take 3).takeWhile fun b => !b).length) ∧
    -- 7
    (∃ (s : State) (isl : Nat), isl < 2 ∧ (s.islandUp isl = false ∨ s.fget (Reg.CHK_ISL_split (if isl = 0 then .hub else .kysta)) = 1)) ∧
    -- 7 (b)
    (∃ (s : State) (isl : Nat), isl < 2 ∧ (s.islandUp isl = false ∨ s.fget (Reg.CHK_ISL_split (if isl = 0 then .hub else .kysta)) = 1)) ∧
    -- 8.1
    (∃ (s : State), s.islandUp 1 = true ∧ s.fget Reg.SEC_STATUS_debug_level = 2) ∧
    -- 8.2
    (∃ (s : State), s.islandUp 1 = true ∧ s.fget Reg.SEC_STATUS_debug_level ≠ 2) :=
  ⟨⟨(wGo []).fset Reg.SAF_STATUS_safe 1, by decide +kernel⟩,
    ⟨wBusy 1 0, by decide +kernel⟩,
    ⟨wWaits, 0x4503, (match (wWaits.enterSafe 0x4503).run? (wRunT 0).key with | some r => r | none => wRunT 0), by decide +kernel⟩,
    ⟨999, by decide +kernel⟩,
    ⟨wBusy 1 0, 1000, by decide +kernel⟩,
    ⟨wIs { c3At := some 990000000 }, 990000000, by decide +kernel⟩,
    ⟨wIs { c3At := some 990000001 }, 990000001, by decide +kernel⟩,
    ⟨wGo [], by decide +kernel⟩,
    ⟨(wGo []).fset (Reg.CHK_ISL_split .hub) 1, by decide +kernel⟩,
    ⟨wGo [], by decide +kernel⟩,
    ⟨wGo [], 255, [false, false, true], 2, by decide +kernel⟩,
    ⟨wGo [], 255, [true], 0, by decide +kernel⟩,
    ⟨wGo [], 255, [false, false, false], 3, by decide +kernel⟩,
    ⟨(wGo []).fset Reg.SEC_STATUS_debug_level 2, by decide +kernel⟩,
    ⟨(wGo []).fset Reg.SEC_STATUS_debug_level 1, by decide +kernel⟩,
    ⟨(wGo []).fset (Reg.CHK_ISL_split .kysta) 1, by decide +kernel⟩,
    ⟨wGo [], 255, [false, false, true], 2, by decide +kernel⟩,
    ⟨wGo [], 255, [false, false, false], 3, by decide +kernel⟩,
    ⟨(wGo []).fset (Reg.CHK_ISL_split .kysta) 1, 1, by decide +kernel⟩,
    ⟨(wGo []).fset (Reg.CHK_ISL_split .hub) 1, 0, by decide +kernel⟩,
    ⟨(wGo []).fset Reg.SEC_STATUS_debug_level 2, by decide +kernel⟩,
    ⟨(wGo []).fset Reg.SEC_STATUS_debug_level 1, by decide +kernel⟩⟩

theorem wit_IslandChannel :
    -- 1
    (∃ (src : Nat) (typ : Nat) (p : Nat), src < 2 ∧ typ < 16 ∧ p < 2 ^ 40) ∧
    -- 1 (b)
    (∃ (src : Nat) (typ : Nat) (p : Nat), src < 2 ∧ typ < 16 ∧ p < 2 ^ 40) ∧
    -- 2
    (∃ (s : State) (src : Nat) (typ : Nat) (p : Nat) (err : Nat), src < 2 ∧ typ < 16 ∧ crc16 (((islandFrame typ (nth 0 s.saf.seqs src) p ^^^ (err % 2 ^
    64))) % 2 ^ 48) = ((islandFrame typ (nth 0 s.saf.seqs src) p ^^^ (err % 2 ^ 64))) / 2 ^ 48 ∧ ((islandFrame typ (nth 0 s.saf.seqs src) p ^^^ (err %
    2 ^ 64))) % 16 ≠ typ) ∧
    -- 3
    (∃ (s : State) (src : Nat) (typ : Nat) (p : Nat) (err : Nat), src < 2 ∧ crc16 (((islandFrame typ (nth 0 s.saf.seqs src) p ^^^ (err % 2 ^ 64))) % 2 ^
    48) ≠ ((islandFrame typ (nth 0 s.saf.seqs src) p ^^^ (err % 2 ^ 64))) / 2 ^ 48) ∧
    -- 3 (b)
    (∃ (s : State) (src : Nat) (typ : Nat) (p : Nat) (err : Nat), src < 2 ∧ crc16 (((islandFrame typ (nth 0 s.saf.seqs src) p ^^^ (err % 2 ^ 64))) % 2 ^
    48) ≠ ((islandFrame typ (nth 0 s.saf.seqs src) p ^^^ (err % 2 ^ 64))) / 2 ^ 48) ∧
    -- 3 (c)
    (∃ (s : State) (src : Nat) (typ : Nat) (p : Nat) (err : Nat), src < 2 ∧ crc16 (((islandFrame typ (nth 0 s.saf.seqs src) p ^^^ (err % 2 ^ 64))) % 2 ^
    48) ≠ ((islandFrame typ (nth 0 s.saf.seqs src) p ^^^ (err % 2 ^ 64))) / 2 ^ 48) ∧
    -- 4
    (∃ (code : Nat), codeClass code ≠ 4) ∧
    -- 5.1
    (∃ (s : State) (isl : Nat), isl < 2 ∧ isl ∈ s.saf.chanFail) ∧
    -- 5.2
    (∃ (s : State) (isl : Nat), isl < 2 ∧ isl ∉ s.saf.chanFail) ∧
    -- 5.2 (b)
    (∃ (s : State) (isl : Nat), isl < 2 ∧ isl ∉ s.saf.chanFail) ∧
    -- 6.1
    (∃ (s : State) (isl : Nat), isl < 2 ∧ s.islandUp isl = true ∧ s.pow.phase ≠ .inReset ∧ nth 0 s.saf.rxAt isl + 10000 ≤ s.now) ∧
    -- 6.2
    (∃ (s : State) (isl : Nat), isl < 2 ∧ s.islandUp isl = true ∧ s.pow.phase ≠ .inReset ∧ s.now < nth 0 s.saf.rxAt isl + 10000) ∧
    -- 7
    (∃ (s : State) (n : Nat), n < 2 ^ 32 ∧ s.islandUp 1 = true) ∧
    -- 8.1
    (∃ (s : State) (v : Nat) (c : Challenge), v < 2 ^ 32 ∧ s.islandUp 0 = true ∧ s.islandUp 1 = true ∧ s.saf.chal = some c ∧ v = expectAnswer c.n ∧ c.at_ +
    250000 ≤ s.now ∧ s.now ≤ c.at_ + 750000) ∧
    -- 8.1 (b)
    (∃ (s : State) (v : Nat) (c : Challenge), v < 2 ^ 32 ∧ s.islandUp 0 = true ∧ s.islandUp 1 = true ∧ s.saf.chal = some c ∧ v = expectAnswer c.n ∧ c.at_ +
    250000 ≤ s.now ∧ s.now ≤ c.at_ + 750000) ∧
    -- 8.2
    (∃ (s : State) (v : Nat) (c : Challenge), v < 2 ^ 32 ∧ s.islandUp 0 = true ∧ s.islandUp 1 = true ∧ s.saf.chal = some c ∧ (v ≠ expectAnswer c.n ∨ s.now
    < c.at_ + 250000 ∨ c.at_ + 750000 < s.now)) ∧
    -- 8.2 (b)
    (∃ (s : State) (v : Nat) (c : Challenge), v < 2 ^ 32 ∧ s.islandUp 0 = true ∧ s.islandUp 1 = true ∧ s.saf.chal = some c ∧ (v ≠ expectAnswer c.n ∨ s.now
    < c.at_ + 250000 ∨ c.at_ + 750000 < s.now)) ∧
    -- 8.2 (c)
    (∃ (s : State) (v : Nat) (c : Challenge), v < 2 ^ 32 ∧ s.islandUp 0 = true ∧ s.islandUp 1 = true ∧ s.saf.chal = some c ∧ (v ≠ expectAnswer c.n ∨ s.now
    < c.at_ + 250000 ∨ c.at_ + 750000 < s.now)) ∧
    -- 8.3
    (∃ (s : State) (v : Nat) (c : Challenge), v < 2 ^ 32 ∧ s.islandUp 0 = true ∧ s.islandUp 1 = true ∧ s.saf.chal = some c ∧ c.at_ + 750000 ≤ s.now) ∧
    -- 8.4
    (∃ (s : State) (v : Nat) (c : Challenge), v < 2 ^ 32 ∧ s.islandUp 0 = true ∧ s.islandUp 1 = true ∧ s.saf.chal = some c ∧ s.now < c.at_ + 750000) ∧
    -- 9.1
    (∃ (s : State) (e : Event), e = { time := s.now, code := 0x0607, origin := 9, unit := 0x20, detail := 0 }) ∧
    -- 9.4
    (∃ (s : State) (e : Event), (e = { time := s.now, code := 0x0607, origin := 9, unit := 0x20, detail := 0 }) ∧ s.fget Reg.SAF_CR_fails ≠ 1) ∧
    -- 9.5
    (∃ (s : State) (e : Event), (e = { time := s.now, code := 0x0607, origin := 9, unit := 0x20, detail := 0 }) ∧ s.fget Reg.SAF_CR_fails = 1) ∧
    -- 10
    (∃ (s : State) (e : Event) (rest : List Event) (fs : List (Nat × Nat × Nat)), e.code < 65536 ∧ s.saf.dfwd = e :: rest ∧ s.saf.frames = (1, 3, e.code)
    :: fs) ∧
    -- 11
    (∃ (s : State) (code : Nat) (fs : List (Nat × Nat × Nat)), code < 65536 ∧ s.saf.frames = (0, 4, code) :: fs) ∧
    -- 11 (b)
    (∃ (s : State) (code : Nat) (fs : List (Nat × Nat × Nat)), code < 65536 ∧ s.saf.frames = (0, 4, code) :: fs) ∧
    -- 12
    (∃ (s : State) (m : Nat), m < 38 ∧ s.islandUp 1 = true ∧ s.pow.phase = .booting) ∧
    -- 12 (b)
    (∃ (s : State) (m : Nat), m < 38 ∧ s.islandUp 1 = true ∧ s.pow.phase = .booting) ∧
    -- 13.1
    (∃ (m : Nat), m < 38) ∧
    -- 13.2
    (∃ (m : Nat), m < 38 ∧ (m < 28 ∨ m = 37)) ∧
    -- 13.2 (b)
    (∃ (m : Nat), m < 38 ∧ (m < 28 ∨ m = 37)) ∧
    -- 13.3
    (∃ (s : State) (m : Nat), m < 38 ∧ 28 ≤ m ∧ m ≤ 36 ∧ s.pow.phase = .booting) ∧
    -- 13.3 (b)
    (∃ (s : State) (m : Nat), m < 38 ∧ 28 ≤ m ∧ m ≤ 36 ∧ s.pow.phase = .booting) :=
  ⟨⟨1, 15, 2 ^ 40 - 1, by decide +kernel⟩,
    ⟨0, 0, 0, by decide +kernel⟩,
    ⟨wIs { crcRun := [1, 0] }, 1, 3, 7, islandFrame 3 0 7 ^^^ islandFrame 4 0 7, by decide +kernel⟩,
    ⟨wIs { crcRun := [1, 0] }, 1, 3, 7, 1, by decide +kernel⟩,
    ⟨wIs { crcRun := [2, 0] }, 1, 3, 7, 1, by decide +kernel⟩,
    ⟨wIs { crcRun := [0, 2] }, 0, 3, 7, 2 ^ 63, by decide +kernel⟩,
    ⟨0x1606, by decide +kernel⟩,
    ⟨wIs { chanFail := [1] }, 1, by decide +kernel⟩,
    ⟨wIs { chanFail := [1] }, 0, by decide +kernel⟩,
    ⟨wIs {}, 1, by decide +kernel⟩,
    ⟨wIs { rxAt := [1000000000 - 10000, 1000000000] }, 0, by decide +kernel⟩,
    ⟨wIs { rxAt := [0, 1000000000 - 9999] }, 1, by decide +kernel⟩,
    ⟨(wGo []).fset Reg.SAF_CR_sent 65535, 2 ^ 32 - 1, by decide +kernel⟩,
    ⟨wIs { chal := some ({ n := 5, at_ := 999750000 } : Challenge) }, expectAnswer 5, ({ n := 5, at_ := 999750000 } : Challenge), by decide +kernel⟩,
    ⟨wIs { chal := some ({ n := 5, at_ := 999250000 } : Challenge) }, expectAnswer 5, ({ n := 5, at_ := 999250000 } : Challenge), by decide +kernel⟩,
    ⟨wIs { chal := some ({ n := 5, at_ := 999750001 } : Challenge) }, expectAnswer 5, ({ n := 5, at_ := 999750001 } : Challenge), by decide +kernel⟩,
    ⟨wIs { chal := some ({ n := 5, at_ := 999249999 } : Challenge) }, expectAnswer 5, ({ n := 5, at_ := 999249999 } : Challenge), by decide +kernel⟩,
    ⟨wIs { chal := some ({ n := 5, at_ := 999500000 } : Challenge) }, expectAnswer 5 + 1, ({ n := 5, at_ := 999500000 } : Challenge), by decide +kernel⟩,
    ⟨wIs { chal := some ({ n := 5, at_ := 999250000 } : Challenge) }, 0, ({ n := 5, at_ := 999250000 } : Challenge), by decide +kernel⟩,
    ⟨wIs { chal := some ({ n := 5, at_ := 999250001 } : Challenge) }, 0, ({ n := 5, at_ := 999250001 } : Challenge), by decide +kernel⟩,
    ⟨(wGo []).fset Reg.SAF_CR_fails 0, wEv 0x0607, by decide +kernel⟩,
    ⟨(wGo []).fset Reg.SAF_CR_fails 2, wEv 0x0607, by decide +kernel⟩,
    ⟨(wGo []).fset Reg.SAF_CR_fails 1, wEv 0x0607, by decide +kernel⟩,
    ⟨wIs { dfwd := [wEv 0x1606, wEv 0x0607], frames := [(1, 3, 0x1606), (1, 3, 0x0607)] }, wEv 0x1606, [wEv 0x0607], [(1, 3, 0x0607)], by decide +kernel⟩,
    ⟨wIs { frames := [(0, 4, 0x4604)], chanFail := [] }, 0x4604, [], by decide +kernel⟩,
    ⟨wIs { frames := [(0, 4, 0x4604)], chanFail := [1] }, 0x4604, [], by decide +kernel⟩,
    ⟨{ wGo [] with pow := { (wGo []).pow with phase := .booting } }, 28, by decide +kernel⟩,
    ⟨{ wGo [] with pow := { (wGo []).pow with phase := .booting } }, 37, by decide +kernel⟩,
    ⟨37, by decide +kernel⟩,
    ⟨37, by decide +kernel⟩,
    ⟨27, by decide +kernel⟩,
    ⟨{ wGo [] with pow := { (wGo []).pow with phase := .booting } }, 28, by decide +kernel⟩,
    ⟨{ wGo [] with pow := { (wGo []).pow with phase := .booting } }, 36, by decide +kernel⟩⟩

theorem wit_DeimosHeartbeat :
    -- 1.1
    (∃ (s : State), s.islandUp 0 = true ∧ s.saf.hbTold = false ∧ s.saf.loopAt + 100000 ≤ s.now) ∧
    -- 1.2
    (∃ (s : State), s.islandUp 0 = true ∧ (s.now < s.saf.loopAt + 100000 ∨ s.saf.hbTold = true)) ∧
    -- 1.2 (b)
    (∃ (s : State), s.islandUp 0 = true ∧ (s.now < s.saf.loopAt + 100000 ∨ s.saf.hbTold = true)) ∧
    -- 2
    (∃ (s : State) (loops : Nat) (n : Nat), s.islandUp 1 = true ∧ n = (nth 0 s.saf.loops 1 + loops) % 65536) ∧
    -- 2 (b)
    (∃ (s : State) (loops : Nat) (n : Nat), s.islandUp 1 = true ∧ n = (nth 0 s.saf.loops 1 + loops) % 65536) :=
  ⟨⟨wIs { loopAt := 999900000 }, by decide +kernel⟩,
    ⟨wIs { loopAt := 999900001 }, by decide +kernel⟩,
    ⟨wIs { hbTold := true }, by decide +kernel⟩,
    ⟨wIs { loops := [0, 65535], loopCnt := 65535, hbTold := true }, 2, 1, by decide +kernel⟩,
    ⟨wIs { loops := [0, 65535], loopCnt := 65535, hbTold := true }, 0, 65535, by decide +kernel⟩⟩

def wLog (r : List Event) (x : SafState) : State := { wGo [] with raised := r, saf := x }
def wE (code origin : Nat) : Event := { time := 1000000000, code := code, origin := origin, unit := 0x20, detail := 3 }
def wP (slot cls : Nat) (started : Bool) : LogPend := { slot := slot, seq := slot, cls := cls, started := started }
def wFull : SafState := { pend := (List.range 64).map fun i => wP i 1 false }
def wHub (at_ openUs closeUs : Nat) (x : SafState) : State :=
  { wOn (wGo []) [(⟨Reg.ING_DT_NOW, 63, 0⟩, 999000000 + at_), (Reg.WDG_HUB_en 5, 1), (Reg.WDG_HUB_open_us 5, openUs),
      (Reg.WDG_HUB_close_us 5, closeUs)] with saf := x }
def wBoot (l : List (Fld × Nat)) : State :=
  { wOn State.reset ((Reg.PWR_HUB_DOM_dom 8, 2) :: l) with pow := { State.reset.pow with phase := .booting } }
def wBootImg : List Byte := [0, 0, 0, 0, 0, 0, 0, 0, 0, 1] ++ List.replicate 246 0
def wTr (x : TrustState) : State := { wGo [] with trust := x }
def wOtp (x : Nat) (y : TrustState) : State := { (wGo []).wr (Reg.SEC_OTP_DATA 0) (BitVec.ofNat 64 x) with trust := y }
def wOne : State :=
  { wOn (wBoot []) [] with part := { State.reset.part with tzCount := 2 } }
def wHub0 (at_ : Nat) (x : SafState) : State :=
  { wOn (wGo []) [(⟨Reg.ING_DT_NOW, 63, 0⟩, 999000000 + at_), (Reg.WDG_HUB_en 0, 1), (Reg.WDG_HUB_open_us 0, 1000), (Reg.WDG_HUB_close_us 0, 2000)] with saf := x }
/-- An image with the sections that a part of two dies needs, and one configuration section whose one record names no register. -/
def wSect (typ off len : Nat) : List Byte := leBytes 4 typ ++ leBytes 4 off ++ leBytes 4 len ++ List.replicate 68 0
def wCfgImg : List Byte :=
  List.replicate 6 0 ++ leBytes 2 8 ++ leBytes 4 928 ++ List.replicate 244 0 ++ ([1, 2, 0x10, 0x10, 0x10, 0x10, 0x13].flatMap fun k => wSect k 0 0) ++
    wSect 0x15 896 32 ++ List.replicate 32 0
def wCfg : State := wOne.poke 8 0 wOne.part.imgBase wCfgImg
theorem wPairEq {a b : Type} {p : a × b} {y : b} (h : p.2 = y) : p = (p.1, y) := by cases p; cases h; rfl

theorem wit_LogAndHandlers :
    -- 1
    (∃ (s : State) (e : Event), s.raised = [e] ∧ codeClass e.code ≤ 2 ∧ e.code ∉ [0x1088, 0x1443, 0x060C, 0x0684, 0x15C9] ∧ s.saf.pend = [] ∧ s.saf.stack =
    [] ∧ s.hlt.unavailFrom = none ∧ s.safe = false ∧ s.plan.lost = [] ∧ ((s.fget Reg.SAF_LOG_HEAD_head)) < 64) ∧
    -- 1 (b)
    (∃ (s : State) (e : Event), s.raised = [e] ∧ codeClass e.code ≤ 2 ∧ e.code ∉ [0x1088, 0x1443, 0x060C, 0x0684, 0x15C9] ∧ s.saf.pend = [] ∧ s.saf.stack =
    [] ∧ s.hlt.unavailFrom = none ∧ s.safe = false ∧ s.plan.lost = [] ∧ ((s.fget Reg.SAF_LOG_HEAD_head)) < 64) ∧
    -- 1 (c)
    (∃ (s : State) (e : Event), s.raised = [e] ∧ codeClass e.code ≤ 2 ∧ e.code ∉ [0x1088, 0x1443, 0x060C, 0x0684, 0x15C9] ∧ s.saf.pend = [] ∧ s.saf.stack =
    [] ∧ s.hlt.unavailFrom = none ∧ s.safe = false ∧ s.plan.lost = [] ∧ ((s.fget Reg.SAF_LOG_HEAD_head)) < 64) ∧
    -- 1 (d)
    (∃ (s : State) (e : Event), s.raised = [e] ∧ codeClass e.code ≤ 2 ∧ e.code ∉ [0x1088, 0x1443, 0x060C, 0x0684, 0x15C9] ∧ s.saf.pend = [] ∧ s.saf.stack =
    [] ∧ s.hlt.unavailFrom = none ∧ s.safe = false ∧ s.plan.lost = [] ∧ ((s.fget Reg.SAF_LOG_HEAD_head)) < 64) ∧
    -- 2
    (∃ (s : State) (e : Event), s.raised = [e] ∧ e.code ∈ [0x3047, 0x32C6, 0x360E, 0x3704] ∧ s.saf.pend.length < 64 ∧ s.safe = false) ∧
    -- 2 (b)
    (∃ (s : State) (e : Event), s.raised = [e] ∧ e.code ∈ [0x3047, 0x32C6, 0x360E, 0x3704] ∧ s.saf.pend.length < 64 ∧ s.safe = false) ∧
    -- 2 (c)
    (∃ (s : State) (e : Event), s.raised = [e] ∧ e.code ∈ [0x3047, 0x32C6, 0x360E, 0x3704] ∧ s.saf.pend.length < 64 ∧ s.safe = false) ∧
    -- 2 (d)
    (∃ (s : State) (e : Event), s.raised = [e] ∧ e.code ∈ [0x3047, 0x32C6, 0x360E, 0x3704] ∧ s.saf.pend.length < 64 ∧ s.safe = false) ∧
    -- 3
    (∃ (s : State) (e : Event), s.raised = [e] ∧ codeClass e.code = 4 ∧ e.code ∉ [0x4209, 0x460B, 0x4503, 0x4504] ∧ s.saf.pend.length < 64 ∧ s.safe = false) ∧
    -- 4
    (∃ (s : State) (e : Event), 64 ≤ s.saf.pend.length ∧ codeClass e.code ≤ 1) ∧
    -- 4 (b)
    (∃ (s : State) (e : Event), 64 ≤ s.saf.pend.length ∧ codeClass e.code ≤ 1) ∧
    -- 5.1
    (∃ (s : State) (a : LogPend) (b : LogPend) (rest : List Nat), s.saf.pend = [a, b] ∧ s.saf.stack = a.slot :: rest ∧ a.slot ≠ b.slot ∧ a.started = true ∧
    b.started = false ∧ a.cls < b.cls) ∧
    -- 5.2
    (∃ (s : State) (a : LogPend) (b : LogPend) (rest : List Nat), s.saf.pend = [a, b] ∧ s.saf.stack = a.slot :: rest ∧ a.slot ≠ b.slot ∧ a.started = true ∧
    b.started = false ∧ b.cls ≤ a.cls) ∧
    -- 5.2 (b)
    (∃ (s : State) (a : LogPend) (b : LogPend) (rest : List Nat), s.saf.pend = [a, b] ∧ s.saf.stack = a.slot :: rest ∧ a.slot ≠ b.slot ∧ a.started = true ∧
    b.started = false ∧ b.cls ≤ a.cls) ∧
    -- 5.1 (b)
    (∃ (s : State) (a : LogPend) (b : LogPend) (rest : List Nat), s.saf.pend = [a, b] ∧ s.saf.stack = a.slot :: rest ∧ a.slot ≠ b.slot ∧ a.started = true ∧
    b.started = false ∧ a.cls < b.cls) ∧
    -- 6
    (∃ (s : State) (a : LogPend) (b : LogPend), s.saf.pend = [a, b] ∧ s.saf.stack = [a.slot] ∧ a.slot ≠ b.slot ∧ b.started = false) ∧
    -- 7
    (∃ (s : State), s.saf.stack = []) ∧
    -- 8.1
    (∃ (s : State) (c : Instr), c ∈ [Instr.handlerGuardExpiry, Instr.handlerTrap, Instr.islandSramEccError false] ∧ (s.saf.stack ≠ [] ∨ c =
    .islandSramEccError false)) ∧
    -- 8.2
    (∃ (s : State) (c : Instr), c ∈ [Instr.handlerGuardExpiry, Instr.handlerTrap, Instr.islandSramEccError false] ∧ s.saf.stack = [] ∧ c ≠
    .islandSramEccError false) ∧
    -- 8.1 (b)
    (∃ (s : State) (c : Instr), c ∈ [Instr.handlerGuardExpiry, Instr.handlerTrap, Instr.islandSramEccError false] ∧ (s.saf.stack ≠ [] ∨ c =
    .islandSramEccError false)) ∧
    -- 8.2 (b)
    (∃ (s : State) (c : Instr), c ∈ [Instr.handlerGuardExpiry, Instr.handlerTrap, Instr.islandSramEccError false] ∧ s.saf.stack = [] ∧ c ≠
    .islandSramEccError false) ∧
    -- 8.1 (c)
    (∃ (s : State) (c : Instr), c ∈ [Instr.handlerGuardExpiry, Instr.handlerTrap, Instr.islandSramEccError false] ∧ (s.saf.stack ≠ [] ∨ c =
    .islandSramEccError false)) ∧
    -- 9.2.1
    (∃ (s : State) (n : Nat), s.hasDie n = true) :=
  ⟨⟨wLog [wE 0x1606 8] {}, wE 0x1606 8, by decide +kernel⟩,
    ⟨wLog [wE 0x0607 9] {}, wE 0x0607 9, by decide +kernel⟩,
    ⟨wLog [wE 0x2645 0] {}, wE 0x2645 0, by decide +kernel⟩,
    ⟨(wLog [wE 0x2645 8] {}).fset Reg.SAF_LOG_HEAD_head 63, wE 0x2645 8, by decide +kernel⟩,
    ⟨wLog [wE 0x3047 0] {}, wE 0x3047 0, by decide +kernel⟩,
    ⟨wLog [wE 0x32C6 8] {}, wE 0x32C6 8, by decide +kernel⟩,
    ⟨wLog [wE 0x360E 1] {}, wE 0x360E 1, by decide +kernel⟩,
    ⟨wLog [wE 0x3704 0] {}, wE 0x3704 0, by decide +kernel⟩,
    ⟨wLog [wE 0x4646 8] {}, wE 0x4646 8, by decide +kernel⟩,
    ⟨wLog [] wFull, wE 0x1606 8, by decide +kernel⟩,
    ⟨wLog [] wFull, wE 0x0607 8, by decide +kernel⟩,
    ⟨wLog [] { pend := [wP 3 1 true, wP 4 2 false], stack := [3] }, wP 3 1 true, wP 4 2 false, [], by decide +kernel⟩,
    ⟨wLog [] { pend := [wP 3 2 true, wP 4 2 false], stack := [3] }, wP 3 2 true, wP 4 2 false, [], by decide +kernel⟩,
    ⟨wLog [] { pend := [wP 3 3 true, wP 4 1 false], stack := [3] }, wP 3 3 true, wP 4 1 false, [], by decide +kernel⟩,
    ⟨wLog [] { pend := [wP 3 1 true, wP 4 2 false], stack := [3, 9] }, wP 3 1 true, wP 4 2 false, [9], by decide +kernel⟩,
    ⟨wLog [] { pend := [wP 3 2 true, wP 63 1 false], stack := [3] }, wP 3 2 true, wP 63 1 false, by decide +kernel⟩,
    ⟨wLog [] {}, by decide +kernel⟩,
    ⟨wLog [] { pend := [wP 3 2 true], stack := [3] }, Instr.handlerGuardExpiry, by decide +kernel⟩,
    ⟨wLog [] {}, Instr.handlerGuardExpiry, by decide +kernel⟩,
    ⟨wLog [] { pend := [wP 3 2 true], stack := [3] }, Instr.handlerTrap, by decide +kernel⟩,
    ⟨wLog [] {}, Instr.handlerTrap, by decide +kernel⟩,
    ⟨wLog [] {}, Instr.islandSramEccError false, by decide +kernel⟩,
    ⟨wLog [] {}, 1, by decide +kernel⟩⟩

theorem wit_WindowsAndMonitors :
    -- 1.1
    (∃ (s : State) (w : Nat), 2 ≤ w ∧ w < 64 ∧ s.hubJudged w = false) ∧
    -- 1.1 (b)
    (∃ (s : State) (w : Nat), 2 ≤ w ∧ w < 64 ∧ s.hubJudged w = false) ∧
    -- 1.2
    (∃ (s : State) (w : Nat), 2 ≤ w ∧ w < 64 ∧ s.hubJudged w = true ∧ w ∉ s.saf.kicked ∧ (s.hubWindow w).1 ≤ s.now ∧ s.now ≤ (s.hubWindow w).2) ∧
    -- 1.2 (b)
    (∃ (s : State) (w : Nat), 2 ≤ w ∧ w < 64 ∧ s.hubJudged w = true ∧ w ∉ s.saf.kicked ∧ (s.hubWindow w).1 ≤ s.now ∧ s.now ≤ (s.hubWindow w).2) ∧
    -- 1.3
    (∃ (s : State) (w : Nat), 2 ≤ w ∧ w < 64 ∧ s.hubJudged w = true ∧ w ∉ s.saf.kicked ∧ (s.now < (s.hubWindow w).1 ∨ (s.hubWindow w).2 < s.now)) ∧
    -- 1.3 (b)
    (∃ (s : State) (w : Nat), 2 ≤ w ∧ w < 64 ∧ s.hubJudged w = true ∧ w ∉ s.saf.kicked ∧ (s.now < (s.hubWindow w).1 ∨ (s.hubWindow w).2 < s.now)) ∧
    -- 1.4
    (∃ (s : State) (w : Nat), 2 ≤ w ∧ w < 64 ∧ s.hubJudged w = true ∧ w ∈ s.saf.kicked) ∧
    -- 2
    (∃ (w : Nat), w < 2) ∧
    -- 3
    (∃ (w : Nat) (why : Nat), w < 64 ∧ why < 3) ∧
    -- 3 (b)
    (∃ (w : Nat) (why : Nat), w < 64 ∧ why < 3) ∧
    -- 4.1
    (∃ (s : State) (w : Nat), s.hubJudged w = true ∧ w ∉ s.saf.closed ∧ s.now ≤ (s.hubWindow w).2) ∧
    -- 4.2
    (∃ (s : State) (w : Nat), s.hubJudged w = true ∧ w ∉ s.saf.closed ∧ (s.hubWindow w).2 < s.now ∧ w ∈ s.saf.kicked) ∧
    -- 4.3
    (∃ (s : State) (w : Nat), s.hubJudged w = true ∧ w ∉ s.saf.closed ∧ (s.hubWindow w).2 < s.now ∧ w ∉ s.saf.kicked ∧ 2 ≤ w) ∧
    -- 4.4
    (∃ (s : State) (w : Nat), s.hubJudged w = true ∧ w ∉ s.saf.closed ∧ (s.hubWindow w).2 < s.now ∧ w ∉ s.saf.kicked ∧ w < 2) ∧
    -- 5
    (∃ (w : Nat), w < 64) ∧
    -- 6
    (∃ (s : State) (w : Nat), w ∈ s.saf.closed ∨ s.hubJudged w = false) ∧
    -- 6 (b)
    (∃ (s : State) (w : Nat), w ∈ s.saf.closed ∨ s.hubJudged w = false) ∧
    -- 7.1
    (∃ (s : State) (rail : Nat) (mv : Nat) (lo : Nat) (hi : Nat) (good : Bool), rail < 16 ∧ s.judged rail = true ∧ (lo, hi) = railLimits rail ∧ good =
    decide (lo ≤ mv ∧ mv ≤ hi) ∧ good = true) ∧
    -- 7.1 (b)
    (∃ (s : State) (rail : Nat) (mv : Nat) (lo : Nat) (hi : Nat) (good : Bool), rail < 16 ∧ s.judged rail = true ∧ (lo, hi) = railLimits rail ∧ good =
    decide (lo ≤ mv ∧ mv ≤ hi) ∧ good = true) ∧
    -- 7.1 (c)
    (∃ (s : State) (rail : Nat) (mv : Nat) (lo : Nat) (hi : Nat) (good : Bool), rail < 16 ∧ s.judged rail = true ∧ (lo, hi) = railLimits rail ∧ good =
    decide (lo ≤ mv ∧ mv ≤ hi) ∧ good = true) ∧
    -- 7.1 (d)
    (∃ (s : State) (rail : Nat) (mv : Nat) (lo : Nat) (hi : Nat) (good : Bool), rail < 16 ∧ s.judged rail = true ∧ (lo, hi) = railLimits rail ∧ good =
    decide (lo ≤ mv ∧ mv ≤ hi) ∧ good = true) ∧
    -- 7.2
    (∃ (s : State) (rail : Nat) (mv : Nat) (lo : Nat) (hi : Nat) (good : Bool), rail < 16 ∧ s.judged rail = true ∧ (lo, hi) = railLimits rail ∧ good =
    decide (lo ≤ mv ∧ mv ≤ hi) ∧ good = false ∧ bit s.saf.monOut rail = true) ∧
    -- 7.3
    (∃ (s : State) (rail : Nat) (mv : Nat) (lo : Nat) (hi : Nat) (good : Bool), rail < 16 ∧ s.judged rail = true ∧ (lo, hi) = railLimits rail ∧ good =
    decide (lo ≤ mv ∧ mv ≤ hi) ∧ good = false ∧ bit s.saf.monOut rail = false) ∧
    -- 7.3 (b)
    (∃ (s : State) (rail : Nat) (mv : Nat) (lo : Nat) (hi : Nat) (good : Bool), rail < 16 ∧ s.judged rail = true ∧ (lo, hi) = railLimits rail ∧ good =
    decide (lo ≤ mv ∧ mv ≤ hi) ∧ good = false ∧ bit s.saf.monOut rail = false) ∧
    -- 7.3 (c)
    (∃ (s : State) (rail : Nat) (mv : Nat) (lo : Nat) (hi : Nat) (good : Bool), rail < 16 ∧ s.judged rail = true ∧ (lo, hi) = railLimits rail ∧ good =
    decide (lo ≤ mv ∧ mv ≤ hi) ∧ good = false ∧ bit s.saf.monOut rail = false) ∧
    -- 7.3 (d)
    (∃ (s : State) (rail : Nat) (mv : Nat) (lo : Nat) (hi : Nat) (good : Bool), rail < 16 ∧ s.judged rail = true ∧ (lo, hi) = railLimits rail ∧ good =
    decide (lo ≤ mv ∧ mv ≤ hi) ∧ good = false ∧ bit s.saf.monOut rail = false) ∧
    -- 7.3 (e)
    (∃ (s : State) (rail : Nat) (mv : Nat) (lo : Nat) (hi : Nat) (good : Bool), rail < 16 ∧ s.judged rail = true ∧ (lo, hi) = railLimits rail ∧ good =
    decide (lo ≤ mv ∧ mv ≤ hi) ∧ good = false ∧ bit s.saf.monOut rail = false) ∧
    -- 8.1
    (∃ (s : State) (f : Nat), s.judged 16 = true ∧ 900000 ≤ f ∧ f ≤ 1100000) ∧
    -- 8.1 (b)
    (∃ (s : State) (f : Nat), s.judged 16 = true ∧ 900000 ≤ f ∧ f ≤ 1100000) ∧
    -- 8.2
    (∃ (s : State) (f : Nat), s.judged 16 = true ∧ (f < 900000 ∨ 1100000 < f) ∧ bit s.saf.monOut 16 = false) ∧
    -- 8.2 (b)
    (∃ (s : State) (f : Nat), s.judged 16 = true ∧ (f < 900000 ∨ 1100000 < f) ∧ bit s.saf.monOut 16 = false) :=
  ⟨⟨wGo [], 2, by decide +kernel⟩,
    ⟨wHub 1000000 2000 1000 {}, 5, by decide +kernel⟩,
    ⟨wHub 1000000 1000 2000 {}, 5, by decide +kernel⟩,
    ⟨wHub 2000000 1000 2000 {}, 5, by decide +kernel⟩,
    ⟨wHub 999999 1000 2000 {}, 5, by decide +kernel⟩,
    ⟨wHub 2000001 1000 2000 {}, 5, by decide +kernel⟩,
    ⟨wHub 1000000 1000 2000 { kicked := [5] }, 5, by decide +kernel⟩,
    ⟨1, by decide +kernel⟩,
    ⟨63, 2, by decide +kernel⟩,
    ⟨0, 0, by decide +kernel⟩,
    ⟨wHub 2000000 1000 2000 {}, 5, by decide +kernel⟩,
    ⟨wHub 2000001 1000 2000 { kicked := [5] }, 5, by decide +kernel⟩,
    ⟨wHub 2000001 1000 2000 {}, 5, by decide +kernel⟩,
    ⟨wHub0 2000001 {}, 0, by decide +kernel⟩,
    ⟨63, by decide +kernel⟩,
    ⟨wGo [], 7, by decide +kernel⟩,
    ⟨wHub 1 1000 2000 { closed := [5] }, 5, by decide +kernel⟩,
    ⟨wLog [] { monOut := 2 ^ 0 }, 0, 500, 500, 900, true, by decide +kernel⟩,
    ⟨wLog [] { monOut := 2 ^ 8 }, 8, 810, 690, 810, true, by decide +kernel⟩,
    ⟨wLog [] { monOut := 2 ^ 10 }, 10, 736, 736, 864, true, by decide +kernel⟩,
    ⟨wLog [] { monOut := 2 ^ 11 }, 11, 1656, 1656, 1944, true, by decide +kernel⟩,
    ⟨wLog [] { monOut := 1 }, 0, 499, 500, 900, false, by decide +kernel⟩,
    ⟨wLog [] {}, 0, 499, 500, 900, false, by decide +kernel⟩,
    ⟨wLog [] {}, 1, 901, 500, 900, false, by decide +kernel⟩,
    ⟨wLog [] {}, 10, 865, 736, 864, false, by decide +kernel⟩,
    ⟨wLog [] {}, 15, 1103, 1104, 1296, false, by decide +kernel⟩,
    ⟨wLog [] {}, 8, 811, 690, 810, false, by decide +kernel⟩,
    ⟨wLog [] { monOut := 2 ^ 16 }, 900000, by decide +kernel⟩,
    ⟨wLog [] { monOut := 2 ^ 16 }, 1100000, by decide +kernel⟩,
    ⟨wLog [] {}, 899999, by decide +kernel⟩,
    ⟨wLog [] {}, 1100001, by decide +kernel⟩⟩

theorem wit_BootSteps :
    -- 1.1
    (∃ (s : State), s.pow.phase = .inReset ∧ s.pow.brownHeld = true) ∧
    -- 1.2
    (∃ (s : State), s.pow.phase = .inReset ∧ s.pow.brownHeld = false) ∧
    -- 2
    (∃ (s : State) (st : BootStep), s.pow.phase ≠ .booting ∧ st ≠ .release ∧ st ≠ .burn) ∧
    -- 2 (b)
    (∃ (s : State) (st : BootStep), s.pow.phase ≠ .booting ∧ st ≠ .release ∧ st ≠ .burn) ∧
    -- 2 (c)
    (∃ (s : State) (st : BootStep), s.pow.phase ≠ .booting ∧ st ≠ .release ∧ st ≠ .burn) ∧
    -- 2 (d)
    (∃ (s : State) (st : BootStep), s.pow.phase ≠ .booting ∧ st ≠ .release ∧ st ≠ .burn) ∧
    -- 2 (e)
    (∃ (s : State) (st : BootStep), s.pow.phase ≠ .booting ∧ st ≠ .release ∧ st ≠ .burn) ∧
    -- 2 (f)
    (∃ (s : State) (st : BootStep), s.pow.phase ≠ .booting ∧ st ≠ .release ∧ st ≠ .burn) ∧
    -- 2 (g)
    (∃ (s : State) (st : BootStep), s.pow.phase ≠ .booting ∧ st ≠ .release ∧ st ≠ .burn) ∧
    -- 3.1
    (∃ (s : State), s.pow.phase = .booting ∧ s.hubDom 8 = 0 ∧ s.fget Reg.CLK_STATUS_ref_ok = 1 ∧ s.part.tzCount ∈ [2, 4, 8]) ∧
    -- 3.2
    (∃ (s : State), s.pow.phase = .booting ∧ s.hubDom 8 = 0 ∧ s.fget Reg.CLK_STATUS_ref_ok = 0) ∧
    -- 4.1
    (∃ (s : State) (d : Nat) (c : Nat), s.pow.phase = .booting ∧ s.hubDom 8 = 2 ∧ d < 9 ∧ s.hasChan d c = true ∧ s.chanUp d c = false ∧ s.chanFailed d c =
    false) ∧
    -- 4.1 (b)
    (∃ (s : State) (d : Nat) (c : Nat), s.pow.phase = .booting ∧ s.hubDom 8 = 2 ∧ d < 9 ∧ s.hasChan d c = true ∧ s.chanUp d c = false ∧ s.chanFailed d c =
    false) ∧
    -- 5.1
    (∃ (s : State) (m : Nat), s.pow.phase = .booting ∧ s.hubDom 8 = 2 ∧ m < 38) ∧
    -- 5.2
    (∃ (s : State) (m : Nat) (fails : List InjPlace), s.pow.phase = .booting ∧ s.hubDom 8 = 2 ∧ m < 38 ∧ fails ≠ []) ∧
    -- 5.2 (b)
    (∃ (s : State) (m : Nat) (fails : List InjPlace), s.pow.phase = .booting ∧ s.hubDom 8 = 2 ∧ m < 38 ∧ fails ≠ []) ∧
    -- 5.2 (c)
    (∃ (s : State) (m : Nat) (fails : List InjPlace), s.pow.phase = .booting ∧ s.hubDom 8 = 2 ∧ m < 38 ∧ fails ≠ []) ∧
    -- 6.2
    (∃ (s : State) (b : List Byte) (gen : List Nat) (code : Nat) (i : Nat), s.pow.phase = .booting ∧ s.hubDom 8 = 2 ∧ s.fget Reg.BOOT_STATUS_stage ≤ 1 ∧
    256 ≤ b.length ∧ b.length ≤ 2 ^ 26 ∧ imgSize b = b.length ∧ (((s.poke 8 0x20 s.part.imgBase b).poisonAt (gen.map fun i => s.part.imgBase + 256 *
    i))).verifyImage b = (code, i) ∧ code < 16 ∧ i < 64 ∧ code ≠ 0 ∧ s.fget Reg.BOOT_STATUS_stage = 0) ∧
    -- 6.3
    (∃ (s : State) (b : List Byte) (gen : List Nat) (code : Nat) (i : Nat), s.pow.phase = .booting ∧ s.hubDom 8 = 2 ∧ s.fget Reg.BOOT_STATUS_stage ≤ 1 ∧
    256 ≤ b.length ∧ b.length ≤ 2 ^ 26 ∧ imgSize b = b.length ∧ (((s.poke 8 0x20 s.part.imgBase b).poisonAt (gen.map fun i => s.part.imgBase + 256 *
    i))).verifyImage b = (code, i) ∧ code < 16 ∧ i < 64 ∧ code ≠ 0 ∧ s.fget Reg.BOOT_STATUS_stage = 1) ∧
    -- 7.1
    (∃ (s : State), s.pow.phase = .booting ∧ s.hubDom 8 = 2 ∧ s.fget Reg.BOOT_STATUS_stage = 2) ∧
    -- 7.2
    (∃ (s : State), s.pow.phase = .booting ∧ s.hubDom 8 = 2 ∧ s.fget Reg.BOOT_STATUS_stage = 3) ∧
    -- 7.3.1
    (∃ (s : State), s.pow.phase = .booting ∧ s.hubDom 8 = 2 ∧ s.fget Reg.BOOT_STATUS_stage = 4 ∧ s.startUpOk = false) ∧
    -- 7.3.2
    (∃ (s : State), s.pow.phase = .booting ∧ s.hubDom 8 = 2 ∧ s.fget Reg.BOOT_STATUS_stage = 4 ∧ s.startUpOk = true ∧ s.part.tzCount ∈ [2, 4, 8]) ∧
    -- 7.3.2 (b)
    (∃ (s : State), s.pow.phase = .booting ∧ s.hubDom 8 = 2 ∧ s.fget Reg.BOOT_STATUS_stage = 4 ∧ s.startUpOk = true ∧ s.part.tzCount ∈ [2, 4, 8]) ∧
    -- 8.1
    (∃ (s : State), s.part.countsOk s.image = false) ∧
    -- 8.2
    (∃ (s : State) (v : State) (i : Nat), s.part.countsOk s.image = true ∧ s.applyRecords s.image (fun _ => true) = (v, some i)) ∧
    -- 9
    (∃ (s : State) (b : OtpBurn) (bs : List OtpBurn), s.pow.burns = b :: bs) ∧
    -- 9 (b)
    (∃ (s : State) (b : OtpBurn) (bs : List OtpBurn), s.pow.burns = b :: bs) ∧
    -- 9 (c)
    (∃ (s : State) (b : OtpBurn) (bs : List OtpBurn), s.pow.burns = b :: bs) ∧
    -- 10
    (∃ (s : State), s.pow.burns = []) :=
  ⟨⟨{ State.reset with pow := { State.reset.pow with phase := .inReset, brownHeld := true } }, by decide +kernel⟩,
    ⟨{ State.reset with pow := { State.reset.pow with phase := .inReset } }, by decide +kernel⟩,
    ⟨wGo [], BootStep.clocks, by decide +kernel⟩,
    ⟨wGo [], BootStep.configure, by decide +kernel⟩,
    ⟨wGo [], BootStep.commit, by decide +kernel⟩,
    ⟨wGo [], BootStep.memory 0 0 true, by decide +kernel⟩,
    ⟨wGo [], BootStep.inject 0 [], by decide +kernel⟩,
    ⟨wGo [], BootStep.check [] true [], by decide +kernel⟩,
    ⟨wGo [], BootStep.load [] [] [] [], by decide +kernel⟩,
    ⟨wOn (wBoot []) [(Reg.PWR_HUB_DOM_dom 8, 0), (Reg.CLK_STATUS_ref_ok, 1)], by decide +kernel⟩,
    ⟨wOn (wBoot []) [(Reg.PWR_HUB_DOM_dom 8, 0), (Reg.CLK_STATUS_ref_ok, 0)], by decide +kernel⟩,
    ⟨wBoot [], 0, 7, by decide +kernel⟩,
    ⟨wBoot [], 8, 0, by decide +kernel⟩,
    ⟨wBoot [], 37, by decide +kernel⟩,
    ⟨wBoot [], 0, [.engine 0 3], by decide +kernel⟩,
    ⟨wBoot [], 28, [.hub], by decide +kernel⟩,
    ⟨wBoot [], 37, [.die 1], by decide +kernel⟩,
    ⟨wBoot [(Reg.BOOT_STATUS_stage, 0)], wBootImg, [0], 1, 0, by decide +kernel⟩,
    ⟨wBoot [(Reg.BOOT_STATUS_stage, 1)], wBootImg, [0], 1, 0, by decide +kernel⟩,
    ⟨wBoot [(Reg.BOOT_STATUS_stage, 2)], by decide +kernel⟩,
    ⟨wBoot [(Reg.BOOT_STATUS_stage, 3)], by decide +kernel⟩,
    ⟨wBoot [(Reg.BOOT_STATUS_stage, 4), (Reg.SAF_INJ_DONE_done, 2 ^ 38 - 2)], by decide +kernel⟩,
    ⟨wBoot [(Reg.BOOT_STATUS_stage, 4), (Reg.SAF_INJ_DONE_done, 2 ^ 38 - 1), (Reg.RST_SYSWD_en, 0)], by decide +kernel⟩,
    ⟨wBoot [(Reg.BOOT_STATUS_stage, 4), (Reg.SAF_INJ_DONE_done, 2 ^ 38 - 1), (Reg.RST_SYSWD_en, 1)], by decide +kernel⟩,
    ⟨wBoot [], by decide +kernel⟩,
    ⟨wCfg, (wCfg.applyRecords wCfg.image (fun _ => true)).1, 7, by decide +kernel, wPairEq (by decide +kernel)⟩,
    ⟨{ wGo [] with pow := { (wGo []).pow with burns := [.arb 63 5, .arb 1 1] } }, .arb 63 5, [.arb 1 1], by decide +kernel⟩,
    ⟨{ wGo [] with pow := { (wGo []).pow with burns := [.revokeEd 3, .arb 1 1] } }, .revokeEd 3, [.arb 1 1], by decide +kernel⟩,
    ⟨{ wGo [] with pow := { (wGo []).pow with burns := [.revokeMl 0, .arb 1 1] } }, .revokeMl 0, [.arb 1 1], by decide +kernel⟩,
    ⟨wGo [], by decide +kernel⟩⟩

theorem wit_TrustBlock :
    -- 1.1
    (∃ (s : State), s.regBytes Reg.SEC_SAK_LOAD 10 = ((s.regBytes Reg.SEC_SAK_LOAD 10)) ∧ (sakOk ((s.regBytes Reg.SEC_SAK_LOAD 10)) = false ∨ s.otp.kWrap =
    0 ∨ Config.keyUnwrap s.otp.kWrap (sliceB ((s.regBytes Reg.SEC_SAK_LOAD 10)) 0x20 40) = none)) ∧
    -- 1.1 (b)
    (∃ (s : State), s.regBytes Reg.SEC_SAK_LOAD 10 = ((s.regBytes Reg.SEC_SAK_LOAD 10)) ∧ (sakOk ((s.regBytes Reg.SEC_SAK_LOAD 10)) = false ∨ s.otp.kWrap =
    0 ∨ Config.keyUnwrap s.otp.kWrap (sliceB ((s.regBytes Reg.SEC_SAK_LOAD 10)) 0x20 40) = none)) ∧
    -- 2.1
    (∃ (s : State) (f : Nat) (i : Nat) (core : Bool), f < 256 ∧ i < 256 ∧ core = true ∧ 1 ≤ f ∧ f ≤ 7 ∧ (f ≤ 3 → i ≤ 3) ∧ ((leNat (s.regBytes
    Reg.SEC_OTP_DATA 8) % 2 ^ otpBits f)) ≠ 0 ∧ s.otp.field f (if f ≤ 3 then i else 0) = 0 ∧ s.trust.prog = none) ∧
    -- 2.1 (b)
    (∃ (s : State) (f : Nat) (i : Nat) (core : Bool), f < 256 ∧ i < 256 ∧ core = true ∧ 1 ≤ f ∧ f ≤ 7 ∧ (f ≤ 3 → i ≤ 3) ∧ ((leNat (s.regBytes
    Reg.SEC_OTP_DATA 8) % 2 ^ otpBits f)) ≠ 0 ∧ s.otp.field f (if f ≤ 3 then i else 0) = 0 ∧ s.trust.prog = none) ∧
    -- 2.1 (c)
    (∃ (s : State) (f : Nat) (i : Nat) (core : Bool), f < 256 ∧ i < 256 ∧ core = true ∧ 1 ≤ f ∧ f ≤ 7 ∧ (f ≤ 3 → i ≤ 3) ∧ ((leNat (s.regBytes
    Reg.SEC_OTP_DATA 8) % 2 ^ otpBits f)) ≠ 0 ∧ s.otp.field f (if f ≤ 3 then i else 0) = 0 ∧ s.trust.prog = none) ∧
    -- 2.2
    (∃ (s : State) (f : Nat) (i : Nat) (core : Bool), f < 256 ∧ i < 256 ∧ (core = false ∨ f = 0 ∨ 7 < f ∨ (f ≤ 3 ∧ 3 < i) ∨ ((leNat (s.regBytes
    Reg.SEC_OTP_DATA 8) % 2 ^ otpBits f)) = 0 ∨ s.otp.field f (if f ≤ 3 then i else 0) ≠ 0 ∨ s.trust.prog ≠ none)) ∧
    -- 2.2 (b)
    (∃ (s : State) (f : Nat) (i : Nat) (core : Bool), f < 256 ∧ i < 256 ∧ (core = false ∨ f = 0 ∨ 7 < f ∨ (f ≤ 3 ∧ 3 < i) ∨ ((leNat (s.regBytes
    Reg.SEC_OTP_DATA 8) % 2 ^ otpBits f)) = 0 ∨ s.otp.field f (if f ≤ 3 then i else 0) ≠ 0 ∨ s.trust.prog ≠ none)) ∧
    -- 2.2 (c)
    (∃ (s : State) (f : Nat) (i : Nat) (core : Bool), f < 256 ∧ i < 256 ∧ (core = false ∨ f = 0 ∨ 7 < f ∨ (f ≤ 3 ∧ 3 < i) ∨ ((leNat (s.regBytes
    Reg.SEC_OTP_DATA 8) % 2 ^ otpBits f)) = 0 ∨ s.otp.field f (if f ≤ 3 then i else 0) ≠ 0 ∨ s.trust.prog ≠ none)) ∧
    -- 2.2 (d)
    (∃ (s : State) (f : Nat) (i : Nat) (core : Bool), f < 256 ∧ i < 256 ∧ (core = false ∨ f = 0 ∨ 7 < f ∨ (f ≤ 3 ∧ 3 < i) ∨ ((leNat (s.regBytes
    Reg.SEC_OTP_DATA 8) % 2 ^ otpBits f)) = 0 ∨ s.otp.field f (if f ≤ 3 then i else 0) ≠ 0 ∨ s.trust.prog ≠ none)) ∧
    -- 2.2 (e)
    (∃ (s : State) (f : Nat) (i : Nat) (core : Bool), f < 256 ∧ i < 256 ∧ (core = false ∨ f = 0 ∨ 7 < f ∨ (f ≤ 3 ∧ 3 < i) ∨ ((leNat (s.regBytes
    Reg.SEC_OTP_DATA 8) % 2 ^ otpBits f)) = 0 ∨ s.otp.field f (if f ≤ 3 then i else 0) ≠ 0 ∨ s.trust.prog ≠ none)) ∧
    -- 2.2 (f)
    (∃ (s : State) (f : Nat) (i : Nat) (core : Bool), f < 256 ∧ i < 256 ∧ (core = false ∨ f = 0 ∨ 7 < f ∨ (f ≤ 3 ∧ 3 < i) ∨ ((leNat (s.regBytes
    Reg.SEC_OTP_DATA 8) % 2 ^ otpBits f)) = 0 ∨ s.otp.field f (if f ≤ 3 then i else 0) ≠ 0 ∨ s.trust.prog ≠ none)) ∧
    -- 2.2 (g)
    (∃ (s : State) (f : Nat) (i : Nat) (core : Bool), f < 256 ∧ i < 256 ∧ (core = false ∨ f = 0 ∨ 7 < f ∨ (f ≤ 3 ∧ 3 < i) ∨ ((leNat (s.regBytes
    Reg.SEC_OTP_DATA 8) % 2 ^ otpBits f)) = 0 ∨ s.otp.field f (if f ≤ 3 then i else 0) ≠ 0 ∨ s.trust.prog ≠ none)) ∧
    -- 3
    (∃ (s : State) (f : Nat) (i : Nat) (v : Nat), s.trust.prog = some (f, i, v)) ∧
    -- 3 (b)
    (∃ (s : State) (f : Nat) (i : Nat) (v : Nat), s.trust.prog = some (f, i, v)) ∧
    -- 3 (c)
    (∃ (s : State) (f : Nat) (i : Nat) (v : Nat), s.trust.prog = some (f, i, v)) ∧
    -- 4.1
    (∃ (s : State) (dest : Nat), s.trust.attest = none ∧ dest % 256 = 0 ∧ dest < 2 ^ 48 ∧ s.identity = true ∧ 0x004000000000 ≤ dest ∧ dest + 0x8000 ≤
    s.bulkEnd) ∧
    -- 4.1 (b)
    (∃ (s : State) (dest : Nat), s.trust.attest = none ∧ dest % 256 = 0 ∧ dest < 2 ^ 48 ∧ s.identity = true ∧ 0x004000000000 ≤ dest ∧ dest + 0x8000 ≤
    s.bulkEnd) ∧
    -- 4.2
    (∃ (s : State) (dest : Nat), s.trust.attest = none ∧ dest % 256 = 0 ∧ dest < 2 ^ 48 ∧ (s.identity = false ∨ dest < 0x004000000000 ∨ s.bulkEnd < dest +
    0x8000)) ∧
    -- 4.2 (b)
    (∃ (s : State) (dest : Nat), s.trust.attest = none ∧ dest % 256 = 0 ∧ dest < 2 ^ 48 ∧ (s.identity = false ∨ dest < 0x004000000000 ∨ s.bulkEnd < dest +
    0x8000)) ∧
    -- 4.2 (c)
    (∃ (s : State) (dest : Nat), s.trust.attest = none ∧ dest % 256 = 0 ∧ dest < 2 ^ 48 ∧ (s.identity = false ∨ dest < 0x004000000000 ∨ s.bulkEnd < dest +
    0x8000)) ∧
    -- 5
    (∃ (s : State) (dest : Nat), s.trust.attest = some dest) ∧
    -- 6.1
    (∃ (s : State), s.trust.attest = none) ∧
    -- 6.2
    (∃ (s : State), s.trust.prog = none) ∧
    -- 6.3
    (∃ (s : State), s.trust.verify = none) ∧
    -- 6.4
    (∃ (s : State), s.trust.blocked = none) ∧
    -- 7.2
    (∃ (s : State) (level : Nat), level < 4 ∧ (∀ b, s.trust.blocked = some b → b + 10 ^ 9 ≤ s.now)) ∧
    -- 7.1
    (∃ (s : State) (level : Nat), level < 4 ∧ (∃ b, s.trust.blocked = some b ∧ s.now < b + 10 ^ 9)) ∧
    -- 7.2 (b)
    (∃ (s : State) (level : Nat), level < 4 ∧ (∀ b, s.trust.blocked = some b → b + 10 ^ 9 ≤ s.now)) ∧
    -- 7.2 (c)
    (∃ (s : State) (level : Nat), level < 4 ∧ (∀ b, s.trust.blocked = some b → b + 10 ^ 9 ≤ s.now)) ∧
    -- 8 (b)
    (∃ (s : State), s.trust.verify = none) ∧
    -- 9
    (∃ (s : State), s.trust.verify ≠ none) ∧
    -- 10.1
    (∃ (s : State) (pass : Bool) (level : Nat), s.trust.verify = some (pass, level) ∧ level < 4 ∧ pass = true) ∧
    -- 10.2
    (∃ (s : State) (pass : Bool) (level : Nat), s.trust.verify = some (pass, level) ∧ level < 4 ∧ pass = false) ∧
    -- 11.1
    (∃ (s : State) (b : Nat), s.trust.blocked = some b ∧ s.now < b + 10 ^ 9) ∧
    -- 11.2
    (∃ (s : State) (b : Nat), s.trust.blocked = some b ∧ b + 10 ^ 9 ≤ s.now) :=
  ⟨⟨wGo [], by decide +kernel⟩,
    ⟨(wGo []).wr (Reg.SEC_SAK_LOAD 0) 6, by decide +kernel⟩,
    ⟨wOtp 1 {}, 1, 3, true, by decide +kernel⟩,
    ⟨wOtp 1 {}, 3, 0, true, by decide +kernel⟩,
    ⟨wOtp 1 {}, 7, 255, true, by decide +kernel⟩,
    ⟨wOtp 1 {}, 1, 0, false, by decide +kernel⟩,
    ⟨wOtp 1 {}, 0, 0, true, by decide +kernel⟩,
    ⟨wOtp 1 {}, 8, 0, true, by decide +kernel⟩,
    ⟨wOtp 1 {}, 255, 255, true, by decide +kernel⟩,
    ⟨wOtp 1 {}, 3, 4, true, by decide +kernel⟩,
    ⟨wOtp 0 {}, 1, 0, true, by decide +kernel⟩,
    ⟨wOtp 1 { prog := some (1, 0, 1) }, 1, 0, true, by decide +kernel⟩,
    ⟨wTr { prog := some (1, 3, 9) }, 1, 3, 9, by decide +kernel⟩,
    ⟨wTr { prog := some (7, 0, 5) }, 7, 0, 5, by decide +kernel⟩,
    ⟨wTr { prog := some (5, 0, 1) }, 5, 0, 1, by decide +kernel⟩,
    ⟨wOn (wGo []) [(Reg.SEC_STATUS_puf_ok, 1), (Reg.SEC_STATUS_id_ready, 1)], 0x004000000000, by decide +kernel⟩,
    ⟨wOn (wGo []) [(Reg.SEC_STATUS_puf_ok, 1), (Reg.SEC_STATUS_id_ready, 1)], 0x004000000000 + 16 * 63 * 2 ^ 24 - 0x8000, by decide +kernel⟩,
    ⟨wGo [], 0x004000000000, by decide +kernel⟩,
    ⟨wOn (wGo []) [(Reg.SEC_STATUS_puf_ok, 1), (Reg.SEC_STATUS_id_ready, 1)], 0x004000000000 - 256, by decide +kernel⟩,
    ⟨wOn (wGo []) [(Reg.SEC_STATUS_puf_ok, 1), (Reg.SEC_STATUS_id_ready, 1)], 0x004000000000 + 16 * 63 * 2 ^ 24 - 0x8000 + 256, by decide +kernel⟩,
    ⟨wTr { attest := some 0x004000000000 }, 0x004000000000, by decide +kernel⟩,
    ⟨wGo [], by decide +kernel⟩,
    ⟨wGo [], by decide +kernel⟩,
    ⟨wGo [], by decide +kernel⟩,
    ⟨wGo [], by decide +kernel⟩,
    ⟨wTr { blocked := some 0 }, 3, by decide +kernel, wSome 0 (by decide +kernel) (by decide +kernel)⟩,
    ⟨wTr { blocked := some 5 }, 3, by decide +kernel, ⟨5, by decide +kernel⟩⟩,
    ⟨wGo [], 0, by decide +kernel, wNone (by decide +kernel)⟩,
    ⟨wGo [], 3, by decide +kernel, wNone (by decide +kernel)⟩,
    ⟨wTr { chal := some { level := 1, at_ := 5 } }, by decide +kernel⟩,
    ⟨wTr { verify := some (true, 2) }, by decide +kernel⟩,
    ⟨wTr { verify := some (true, 2) }, true, 2, by decide +kernel⟩,
    ⟨wTr { verify := some (false, 3) }, false, 3, by decide +kernel⟩,
    ⟨wTr { blocked := some 1 }, 1, by decide +kernel⟩,
    ⟨wTr { blocked := some 0 }, 0, by decide +kernel⟩⟩

theorem wit_TheWorseReactionWins :
    -- 1
    (∃ (s : State) (a : Event) (b : Event), (s.raised = [a, b] ∨ s.raised = [b, a]) ∧ a.code ∈ [0x3047, 0x32C6, 0x360E, 0x3704] ∧ codeClass b.code = 4 ∧
    b.code ∉ [0x4209, 0x460B, 0x4503, 0x4504] ∧ s.saf.pend.length < 63 ∧ s.safe = false ∧ s.fget Reg.SAF_LOG_HEAD_head < 64) ∧
    -- 1 (b)
    (∃ (s : State) (a : Event) (b : Event), (s.raised = [a, b] ∨ s.raised = [b, a]) ∧ a.code ∈ [0x3047, 0x32C6, 0x360E, 0x3704] ∧ codeClass b.code = 4 ∧
    b.code ∉ [0x4209, 0x460B, 0x4503, 0x4504] ∧ s.saf.pend.length < 63 ∧ s.safe = false ∧ s.fget Reg.SAF_LOG_HEAD_head < 64) ∧
    -- 2
    (∃ (s : State) (e : Event), s.raised = [e] ∧ e.code ∈ [0x3047, 0x32C6, 0x360E, 0x3704, 0x4503, 0x4504] ∧ s.safe = true ∧ s.saf.pend.length < 64) ∧
    -- 2 (b)
    (∃ (s : State) (e : Event), s.raised = [e] ∧ e.code ∈ [0x3047, 0x32C6, 0x360E, 0x3704, 0x4503, 0x4504] ∧ s.safe = true ∧ s.saf.pend.length < 64) :=
  ⟨⟨(wLog [wE 0x3047 0, wE 0x4646 8] {}).fset Reg.SAF_LOG_HEAD_head 63, wE 0x3047 0, wE 0x4646 8, by decide +kernel⟩,
    ⟨(wLog [wE 0x4646 8, wE 0x3704 1] {}).fset Reg.SAF_LOG_HEAD_head 63, wE 0x3704 1, wE 0x4646 8, by decide +kernel⟩,
    ⟨{ (wLog [wE 0x3047 0] {}).fset Reg.SAF_STATUS_safe 1 with hlt := { (wGo []).hlt with unavailFrom := some 1000000000 } }, wE 0x3047 0, by
    decide +kernel⟩,
    ⟨{ (wLog [wE 0x4503 0] {}).fset Reg.SAF_STATUS_safe 1 with hlt := { (wGo []).hlt with unavailFrom := some 1000000000 } }, wE 0x4503 0, by
    decide +kernel⟩⟩

/-! ### Witnesses that meet hypotheses about the free functions -/

/-- A key entry whose wrapped key is zero, and a part whose wrap key is programmed. -/
def wWrap : State := { wGo [] with otp := { State.reset.otp with kWrap := 1 } }

/-- The free function `Config.keyUnwrap` decides whether any key unwraps: where the zero entry does, the hypotheses are met. -/
theorem wit_TrustBlock_1_2 (k : Nat) (hk : Config.keyUnwrap 1 (List.replicate 40 0) = some k) :
    ∃ (s : State) (e : List Byte) (k : Nat), s.regBytes Reg.SEC_SAK_LOAD 10 = e ∧ sakOk e = true ∧ s.otp.kWrap ≠ 0 ∧
      Config.keyUnwrap s.otp.kWrap (sliceB e 0x20 40) = some k := by
  refine ⟨wWrap, wWrap.regBytes Reg.SEC_SAK_LOAD 10, k, rfl, by decide +kernel, by decide +kernel, ?_⟩
  have h : sliceB (wWrap.regBytes Reg.SEC_SAK_LOAD 10) 0x20 40 = List.replicate 40 0 := by decide +kernel
  have h1 : wWrap.otp.kWrap = 1 := by decide +kernel
  rw [h, h1, hk]

/-- An image of one empty section, with a signature block at 512 that names slots 0. -/
def wGood : List Byte :=
  [0x4F, 0x56, 0x49, 0x4D, 1, 0, 1, 0, 0, 0x17, 0, 0, 5, 0, 0, 0, 7, 0, 0] ++ List.replicate 6 0 ++ [2] ++ List.replicate 230 0 ++
    0x10 :: List.replicate 15 0 ++ 1 :: List.replicate 239 0 ++ [0x4F, 0x56, 0x53, 0x47] ++ List.replicate 5372 0

/-- A part that boots, with image keys in slots 0 and 1 of both kinds, whose digests are 1. -/
def wKeys : State :=
  let s := wBoot []
  { s with otp := { s.otp with edDigest := [1, 1, 0, 0], mlDigest := [1, 1, 0, 0], edRole := [1, 1, 0, 0], mlRole := [1, 1, 0, 0] } }

theorem wGood_facts : wGood.length = 5888 ∧ imgSize wGood = 5888 ∧ headerOk wGood = true ∧
    directory wGood = [{ idx := 0, typ := 0x10, off := 0, len := 0, digest := 1, resv := false }] ∧ u wGood 0x18 4 = 512 ∧
    u wGood 0x12 1 = 0 := by decide +kernel

theorem wGood_sig : u (sliceB wGood 512 5376) 4 1 = 0 ∧ u (sliceB wGood 512 5376) 5 1 = 0 ∧ u wGood 0x15 1 = 0 ∧ u wGood 0x13 1 = 0 ∧
    u wGood 0x16 1 = 0 ∧ u wGood 0x17 1 = 0 ∧ u wGood 0x14 1 = 0 ∧ wKeys.part.accepts wGood = true := by decide +kernel

/-- The state after the image `wGood` has been written into the image area. -/
def wStored : State := (wKeys.poke 8 0x20 wKeys.part.imgBase wGood).poisonAt (([] : List Nat).map fun i => wKeys.part.imgBase + 256 * i)

theorem wKeys_otp : wKeys.otp =
    { State.reset.otp with edDigest := [1, 1, 0, 0], mlDigest := [1, 1, 0, 0], edRole := [1, 1, 0, 0], mlRole := [1, 1, 0, 0] } := rfl

theorem wStored_otp : wStored.otp = wKeys.otp ∧ wStored.part = wKeys.part := by decide +kernel

/-- The free functions decide whether an image verifies: where each digest is 1 and each signature verifies, this one does. -/
theorem wGood_verifies (hs : ∀ b, Config.sha3_512 b = 1) (he : ∀ p q m, Config.edVerify p q m = true)
    (hm : ∀ p q m, Config.mlVerify p q m = true) : wStored.verifyImage wGood = (0, 0) := by
  obtain ⟨ho, hp⟩ := wStored_otp
  obtain ⟨h1, h2, h3, h4, h5, h6⟩ := wGood_facts
  obtain ⟨g1, g2, g3, g4, g5, g6, g7, g8⟩ := wGood_sig
  have hc : wKeys.otp.checkSigs (sliceB wGood 512 5376) 0 (leBytes 64 1) = 0 := by
    simp only [Otp.checkSigs, hs, he, hm, g1, g2, wKeys_otp]
    decide
  have hb : badSect wGood = none := by
    simp only [badSect, h4, h2, hs]
    decide
  have ha : smGet 0 wKeys.otp.arb 0 = 0 := by decide +kernel
  have hr : revokeOk wKeys.otp.edDigest wKeys.otp.edRole wKeys.otp.edRevoked 0 0 = true ∧
      revokeOk wKeys.otp.mlDigest wKeys.otp.mlRole wKeys.otp.mlRevoked 0 0 = true := by decide +kernel
  simp only [State.verifyImage, ho, hp, h3, h5, hs, hc, g8, g3, g7, ha, g4, g5, g6, g1, g2, hr.1, hr.2, hb]
  decide

theorem wit_BootSteps_6_1 (hs : ∀ b, Config.sha3_512 b = 1) (he : ∀ p q m, Config.edVerify p q m = true)
    (hm : ∀ p q m, Config.mlVerify p q m = true) :
    ∃ (s v : State) (b : List Byte) (gen : List Nat) (code i : Nat), s.pow.phase = .booting ∧ s.hubDom 8 = 2 ∧
      s.fget Reg.BOOT_STATUS_stage ≤ 1 ∧ 256 ≤ b.length ∧ b.length ≤ 2 ^ 26 ∧ imgSize b = b.length ∧
      v = (s.poke 8 0x20 s.part.imgBase b).poisonAt (gen.map fun i => s.part.imgBase + 256 * i) ∧ v.verifyImage b = (code, i) ∧ code < 16 ∧
      i < 64 ∧ code = 0 :=
  ⟨wKeys, wStored, wGood, [], 0, 0, by decide +kernel, by decide +kernel, by decide +kernel, wGood_facts.1 ▸ by decide,
    wGood_facts.1 ▸ by decide, wGood_facts.2.1.trans wGood_facts.1.symm, rfl, wGood_verifies hs he hm, by decide, by decide, rfl⟩

end Sys2Proof.Machine
end

section
/-! The statements of the scope chapter: the state after reset is in canonical form, and no register bit has two access codes. -/

namespace Sys2Proof.Machine

/-- Settles O4: no map of `State.reset` lists an entry, and the empty map is in canonical form. -/
theorem resetIsCanonical : Obligations.ResetIsCanonical where
  regs := smWf_nil _
  staged := smWf_nil _
  csr := smWf_nil _
  csrErr := smWf_nil _
  dram := smWf_nil _
  dramErr := smWf_nil _
  shared := smWf_nil _
  sharedErr := smWf_nil _
  store := smWf_nil _
  storeErr := smWf_nil _
  region := smWf_nil _

/-- R9 for one register: its RW, STG, LCK and W1C masks share no bit pairwise and lie within its width. -/
abbrev RegDef.OneCode (d : RegDef) : Prop :=
  d.rw &&& d.stg = 0 ∧ d.rw &&& d.lck = 0 ∧ d.rw &&& d.w1c = 0 ∧ d.stg &&& d.lck = 0 ∧ d.stg &&& d.w1c = 0 ∧ d.lck &&& d.w1c = 0 ∧
    d.rw ||| d.stg ||| d.lck ||| d.w1c < 2 ^ (if d.wide = true then 64 else 32)

/-- The block numbers of Table 20.1 end at 0x1E: beyond them no window has a register. -/
theorem winRegs_eq_nil_of_ge (w : Win) {src : Nat} (h : 0x1F ≤ src) : winRegs w src = [] := by
  obtain ⟨n, rfl⟩ := Nat.exists_eq_add_of_le' h
  cases w <;> rfl

/-- The blocks of each window, looked through register by register; every compute die has the same map. -/
theorem winRegs_oneCode_of_lt (w : Win) : ∀ src < 0x1F, ∀ d ∈ winRegs w src, d.OneCode := by
  cases w with
  | hub => decide
  | die t =>
    show ∀ src < 0x1F, ∀ d ∈ dieRegs src, d.OneCode
    decide
  | kysta => decide

/-- Settles O7: the blocks of Table 20.1 keep to one access code per bit, and no other block holds a register. -/
theorem oneAccessCode : Obligations.OneAccessCode := by
  unfold Obligations.OneAccessCode
  intro w src d hd
  obtain hlt | hge := Nat.lt_or_ge src 0x1F
  · exact winRegs_oneCode_of_lt w src hlt d hd
  · rw [winRegs_eq_nil_of_ge w hge] at hd
    exact absurd hd List.not_mem_nil

end Sys2Proof.Machine
end

section
/-! The package architecture: every die that a well-formed command names is one that a part can have (R14, R15). -/

namespace Sys2Proof.Laws.Dies

/-- The lemmas about the single commands, put together. -/
theorem statement_of_command : ∀ i : Instr, Statement i
  | .registerWrite .. => registerWrite _ _ _ _
  | .captureClear .. => captureClear _ _ _
  | .packageAccess .. => packageAccess _ _ _ _ _ _ _ _ _
  | .heldBlockIssue .. => heldBlockIssue _
  | .channelServe .. => channelServe _ _ _ _
  | .sliceServe .. => sliceServe _ _ _
  | .refresh .. => refresh _ _
  | .patrolScrub .. => patrolScrub _ _ _
  | .rowMissWindow .. => rowMissWindow _ _
  | .wck2dqCheck .. => wck2dqCheck _ _ _ _
  | .mr4Poll .. => mr4Poll _ _ _
  | .eyeMeasurement .. => eyeMeasurement _ _ _ _
  | .paceSample .. => paceSample _ _
  | .paceAlarmClear .. => paceAlarmClear _
  | .slowLayerUpdate .. => slowLayerUpdate _
  | .avsTransactionDone .. => avsTransactionDone _ _ _
  | .railRaiseDone .. => railRaiseDone _
  | .engLmapWrite .. => engLmapWrite _ _ _ _
  | .engColFailWrite .. => engColFailWrite _ _ _ _
  | .planPeriodBoundary .. => planPeriodBoundary _
  | .modeReqWrite .. => modeReqWrite _ _ _
  | .instanceRelease .. => instanceRelease _ _
  | .walkDone .. => walkDone _ _ _ _
  | .taskRelease .. => taskRelease _ _ _
  | .taskLateStart .. => taskLateStart _ _ _
  | .taskEnd .. => taskEnd _ _ _ _ _
  | .instanceRetire .. => instanceRetire _ _ _ _
  | .barrierTimeout .. => barrierTimeout _ _ _
  | .passStart .. => passStart _ _ _
  | .passAdd .. => passAdd _ _ _
  | .passSingle .. => passSingle _ _ _
  | .passAddNarrow .. => passAddNarrow _ _ _
  | .vecAdd .. => vecAdd _ _ _
  | .vecSub .. => vecSub _ _ _
  | .vecMul .. => vecMul _ _ _
  | .vecFma .. => vecFma _ _ _
  | .vecMin .. => vecMin _ _ _
  | .vecMax .. => vecMax _ _ _
  | .vecAbs .. => vecAbs _ _ _
  | .vecNeg .. => vecNeg _ _ _
  | .vecLess .. => vecLess _ _ _
  | .vecSelect .. => vecSelect _ _ _
  | .vecExp2 .. => vecExp2 _ _ _
  | .vecLog2 .. => vecLog2 _ _ _
  | .vecRecip .. => vecRecip _ _ _
  | .vecRsqrt .. => vecRsqrt _ _ _
  | .cvt .. => cvt _ _ _
  | .vecIadd .. => vecIadd _ _ _
  | .vecImul .. => vecImul _ _ _
  | .vecShl .. => vecShl _ _ _
  | .vecShr .. => vecShr _ _ _
  | .vecAnd .. => vecAnd _ _ _
  | .vecOr .. => vecOr _ _ _
  | .vecXor .. => vecXor _ _ _
  | .gather .. => gather _ _ _
  | .scatterStore .. => scatterStore _ _ _
  | .scatterAdd .. => scatterAdd _ _ _
  | .scatterMax .. => scatterMax _ _ _
  | .scatterMin .. => scatterMin _ _ _
  | .segredSum .. => segredSum _ _ _
  | .segredMax .. => segredMax _ _ _
  | .segredMin .. => segredMin _ _ _
  | .segredMean .. => segredMean _ _ _
  | .segredNormExp .. => segredNormExp _ _ _
  | .hist .. => hist _ _ _
  | .dedup .. => dedup _ _ _
  | .sort .. => sort _ _ _
  | .merge .. => merge _ _ _
  | .topk .. => topk _ _ _
  | .bin .. => bin _ _ _
  | .radius .. => radius _ _ _
  | .knn .. => knn _ _ _
  | .moveFill .. => moveFill _ _ _
  | .moveDrain .. => moveDrain _ _ _
  | .splat .. => splat _ _
  | .sample .. => sample _ _
  | .testRun .. => testRun _ _ _
  | .listCopyDone .. => listCopyDone _ _
  | .beaconSlotStart .. => beaconSlotStart _ _
  | .beaconDone .. => beaconDone _ _ _
  | .beaconSlotEnd .. => beaconSlotEnd _ _
  | .auditVerdict .. => auditVerdict _ _
  | .auditTimeout .. => auditTimeout _ _
  | .quarantineTestDone .. => quarantineTestDone _ _ _ _
  | .cleanRunsDone .. => cleanRunsDone _ _ _ _
  | .graphSubmit .. => graphSubmit _ _ _
  | .admissionVerdict .. => admissionVerdict _
  | .preemptRequest .. => preemptRequest _
  | .resumeRequest .. => resumeRequest _
  | .kvRingIndexWrite .. => kvRingIndexWrite _ _ _
  | .instantBoundary => instantBoundary
  | .calSwapRequest => calSwapRequest
  | .calNextWrite .. => calNextWrite _ _ _
  | .calNextWriteApply => calNextWriteApply
  | .pick .. => pick _ _
  | .trackUpdate .. => trackUpdate _
  | .gptpSync .. => gptpSync _ _ _ _ _ _
  | .syncTimeout .. => syncTimeout _
  | .gmSyncTransmit => gmSyncTransmit
  | .time .. => time _ _
  | .timeBeaconLoss .. => timeBeaconLoss _
  | .triggerEdge .. => triggerEdge _
  | .triggerWidthEnd .. => triggerWidthEnd _
  | .frameStart .. => frameStart _ _ _ _ _
  | .csi2LongPacket .. => csi2LongPacket _ _ _ _ _ _ _ _
  | .frameEnd .. => frameEnd _ _ _
  | .sensorAbsent .. => sensorAbsent _
  | .pictureDone .. => pictureDone _ _ _ _ _
  | .decodePartStart .. => decodePartStart _ _ _ _
  | .sliceBoundary .. => sliceBoundary _
  | .decodeHardStop .. => decodeHardStop _
  | .decodePartEnd .. => decodePartEnd _ _ _ _ _ _
  | .batchForm .. => batchForm _
  | .smplFetchWrite .. => smplFetchWrite _ _ _
  | .flitReceive .. => flitReceive _ _ _
  | .retrainDone .. => retrainDone _ _ _ _
  | .linkSilence .. => linkSilence _
  | .read .. => read _ _
  | .write .. => write _ _
  | .writePart .. => writePart _ _
  | .rdResp .. => rdResp _ _
  | .wrResp .. => wrResp _
  | .errResp .. => errResp _ _
  | .fenceNotice .. => fenceNotice _ _
  | .unfenceNotice .. => unfenceNotice _ _
  | .latencyEcho .. => latencyEcho _ _
  | .requestTimeout .. => requestTimeout _
  | .eyeSweep .. => eyeSweep _ _ _
  | .laneSwapDone .. => laneSwapDone _ _
  | .ringRetrain .. => ringRetrain _ _
  | .linkTrainingDone .. => linkTrainingDone _ _ _ _
  | .paramOffer .. => paramOffer _
  | .partnerStepTimeout => partnerStepTimeout
  | .partnerRetry => partnerRetry
  | .partnerRequest .. => partnerRequest _ _ _ _ _
  | .partnerIssue => partnerIssue
  | .partnerResponseTimeout .. => partnerResponseTimeout _
  | .ethFrameReceive .. => ethFrameReceive _ _ _ _ _ _ _ _ _
  | .ethLinkChange .. => ethLinkChange _ _ _
  | .gclSwitch .. => gclSwitch _
  | .gateIntervalEnd .. => gateIntervalEnd _
  | .roleQuery .. => roleQuery _
  | .csrRead .. => csrRead _
  | .csrWrite .. => csrWrite _
  | .memRead .. => memRead _ _
  | .memWrite .. => memWrite _ _ _
  | .modeReq .. => modeReq _
  | .preempt .. => preempt _
  | .kvRing .. => kvRing _
  | .sampleRing .. => sampleRing _
  | .eventStream .. => eventStream _
  | .shadowRefresh .. => shadowRefresh _
  | .shadowStale .. => shadowStale _
  | .statusRead .. => statusRead _ _
  | .logRead .. => logRead _ _
  | .actionArm .. => actionArm _ _
  | .actionArmExpiry => actionArmExpiry
  | .safeState .. => safeState _ _
  | .appReset .. => appReset _ _
  | .logFreeze .. => logFreeze _ _
  | .smpModeReq .. => smpModeReq _ _
  | .safeReq .. => safeReq _
  | .faultNRelease => faultNRelease
  | .bootSequence .. => bootSequence _
  | .attestationStart .. => attestationStart _
  | .attestationDone => attestationDone
  | .debugNewChallenge .. => debugNewChallenge _
  | .debugSubmit => debugSubmit
  | .debugVerdict => debugVerdict
  | .debugBlockEnd => debugBlockEnd
  | .sakInstall => sakInstall
  | .otpProgram .. => otpProgram _ _ _
  | .otpProgramDone => otpProgramDone
  | .lockstepMismatch .. => lockstepMismatch _
  | .asyncInput .. => asyncInput _ _ _
  | .debugHalt .. => debugHalt _
  | .islandStatus .. => islandStatus _ _ _
  | .challenge .. => challenge _ _
  | .answer .. => answer _ _
  | .answerTimeout => answerTimeout
  | .islandEvent .. => islandEvent _
  | .safeFrame .. => safeFrame _ _
  | .inject .. => inject _ _ _ _
  | .heartbeatLoss => heartbeatLoss
  | .channelSilence .. => channelSilence _
  | .eventLogEntry .. => eventLogEntry _
  | .handlerEnd => handlerEnd
  | .handlerGuardExpiry => handlerGuardExpiry
  | .watchClose .. => watchClose _ _ _
  | .wdgKick .. => wdgKick _
  | .hubWindowClose .. => hubWindowClose _
  | .clockMonitorWindow .. => clockMonitorWindow _
  | .railExcursion .. => railExcursion _ _
  | .powerOnReset .. => powerOnReset _
  | .kystaPowerReset => kystaPowerReset
  | .safetyReset .. => safetyReset _ _
  | .resetPin .. => resetPin _ _
  | .brownOut .. => brownOut _ _
  | .brownOutRelease .. => brownOutRelease _
  | .applicationResetRequest .. => applicationResetRequest _ _
  | .dieResetRequest .. => dieResetRequest _ _
  | .syswdKick .. => syswdKick _
  | .syswdExpiry .. => syswdExpiry _
  | .lockup .. => lockup _
  | .referenceLost => referenceLost
  | .referenceRestored => referenceRestored
  | .clockFailure .. => clockFailure _
  | .synthUnlock => synthUnlock
  | .diePllUnlock .. => diePllUnlock _
  | .dieHoldEnd .. => dieHoldEnd _
  | .dieReloadDone .. => dieReloadDone _ _ _ _
  | .dieInjectionDone .. => dieInjectionDone _ _
  | .rejoinAttemptTimeout .. => rejoinAttemptTimeout _
  | .rejoinRetry .. => rejoinRetry _
  | .domainWakeStart .. => domainWakeStart _ _
  | .domainWakeDone .. => domainWakeDone _ _
  | .domainWakeFailed .. => domainWakeFailed _ _
  | .standbyRequest .. => standbyRequest _
  | .healthUpdate => healthUpdate
  | .canaryMeasure .. => canaryMeasure _ _
  | .repairBurn => repairBurn
  | .arrive .. => arrive _
  | .release => release
  | .barrierDrop .. => barrierDrop _ _ _
  | .regionSendBlock .. => regionSendBlock _ _
  | .ckptAck => ckptAck
  | .twinReq .. => twinReq _
  | .twinData .. => twinData _ _ _
  | .twinRefusal => twinRefusal
  | .twinTimeout => twinTimeout
  | .joinReady .. => joinReady _
  | .joinReadyResponse => joinReadyResponse
  | .withdraw => withdraw
  | .handlerTrap => handlerTrap
  | .islandSramEccError .. => islandSramEccError _
  | .stewardSramEccError .. => stewardSramEccError _ _
  | .kystaPowerReturn => kystaPowerReturn
  | .powerLoss .. => powerLoss _
  | .peerDelayRequest => peerDelayRequest

/-- Settles O60: a well-formed command names no die but the compute dies 0 to 7 and the hub side 8. -/
theorem wellFormedDies : Obligations.WellFormedDies := statement_of_command

end Sys2Proof.Laws.Dies
end

section
/-! The package architecture: a register without a rule of its own is written by its access codes alone, and so a capture is cleared (R35). -/

namespace Sys2Proof.Machine

/-! ### Registers without a rule of their own -/

/-- A hub register outside `ownRule` is none of those that `State.hubWrite` tells apart. -/
theorem State.hubWrite_eq_swWrite (s : State) (w : Who) {a : Addr} (v src : Nat) (ho : ownRule a = false) :
    s.hubWrite w a v src = s.swWrite a v src := by
  simp only [ownRule, Bool.or_eq_false_iff, List.contains_cons, List.contains_nil, beq_eq_false_iff_ne, List.any_eq_false, List.mem_range,
    Bool.or_eq_true, beq_iff_eq, not_or, Option.isSome_eq_false_iff, Option.isNone_iff_eq_none] at ho
  obtain ⟨⟨⟨⟨⟨⟨hreq, hsak⟩, hotp⟩, hring⟩, hcal⟩, hfetch⟩, -⟩ := ho
  have hsec : s.secWrite w a v src = s.swWrite a v src := by
    simp [State.secWrite, hreq, hsak, hotp]
  have hfetch' : ¬ (Reg.SMPL_FETCH 0 ≤ a ∧ (a - Reg.SMPL_FETCH 0) / 0x100 < 16 ∧
      (a == Reg.SMPL_FETCH ((a - Reg.SMPL_FETCH 0) / 0x100) || a == Reg.SMPL_FETCH ((a - Reg.SMPL_FETCH 0) / 0x100) + 4) = true) := by
    rintro ⟨-, hq, hm⟩
    have hfree := hfetch _ hq
    simp_all
  simp only [State.hubWrite, hring, hcal, hsec, if_neg hfetch']
  simp [hreq]

/-- In block ENG of a die, the engine map and the failed columns are the registers with a rule of their own (R63, R99). -/
theorem State.dieWrite_eq_swWrite (s : State) {t off : Nat} {a : Addr} (v src : Nat) (hp : csrPlace a = some (.die t, 0x02, off))
    (ho : ownRule a = false) : s.dieWrite t off v src a = s.swWrite a v src := by
  have hoff : ¬ off < 0x10 ∧ (0x1000 ≤ off → ¬ off % 0x100 = 8 ∧ ¬ off % 0x100 = 0xC ∧ ¬ off % 0x100 = 0x10) := by
    simp only [ownRule, hp, Bool.or_eq_false_iff] at ho
    simpa using ho.2
  obtain ⟨hlow, hcol⟩ := hoff
  rw [State.dieWrite, if_neg hlow, if_neg, if_neg]
  · rintro ⟨hge, -, hr⟩
    simp_all
  · rintro ⟨hge, -, hr⟩
    simp_all

theorem csrPlace_isSome_of_regAt {a key : Addr} {d : RegDef} {up : Bool} (h : regAt a = some (d, key, up)) : ∃ p, csrPlace a = some p := by
  cases hp : csrPlace a with
  | none => simp [regAt, hp] at h
  | some p => exact ⟨p, rfl⟩

/-- A write that reaches a register without a rule of its own is the write by access codes of R406, recorded as from
the hub where the debug port makes it. -/
theorem State.regWrite_eq_swWrite (s : State) (w : Who) {a key : Addr} {d : RegDef} {up : Bool} (v : Nat) (hr : s.reaches w a = true)
    (hd : regAt a = some (d, key, up)) (ho : ownRule a = false) :
    s.regWrite w a v = s.swWrite a v (if w.src == 0xD then 8 else w.src) := by
  obtain ⟨⟨win, src, off⟩, hp⟩ := csrPlace_isSome_of_regAt hd
  simp only [State.regWrite, hr, hd, hp, Bool.not_true, Bool.false_eq_true, if_false]
  split
  · exact s.hubWrite_eq_swWrite w v _ ho
  · next he _ =>
    cases he
    exact s.dieWrite_eq_swWrite v _ hp ho
  · next he _ =>
    cases he
    simp [ownRule, hp] at ho
  · rfl
  · next h => exact absurd rfl (h _ _ rfl)

/-! ### The valid bit of a capture register -/

theorem wput_valid_zero (w : Word) : wput w 63 63 0 = BitVec.ofNat 64 (w.toNat % 2 ^ 63) := by
  have := w.isLt
  simp only [wput, putBits, bits]
  congr 1
  omega

theorem State.flag_valid (s : State) (a : Addr) : s.flag ⟨a, 63, 63⟩ = bit (s.rd a).toNat 63 := rfl

theorem and_valid_mask (w : Word) : w &&& 0x7FFFFFFFFFFFFFFF#64 = BitVec.ofNat 64 (w.toNat % 2 ^ 63) := by
  apply BitVec.eq_of_toNat_eq
  rw [← Nat.and_two_pow_sub_one_eq_mod w.toNat 63]
  simp [BitVec.toNat_and]

/-- R35: where bit 63 is W1C and no bit is RW, STG or LCK, writing 1 to bit 31 of the upper half clears `valid` and nothing else. -/
theorem State.swWrite_clears_valid (s : State) {a key : Addr} {d : RegDef} (src : Nat) (hd : regAt a = some (d, key, true))
    (hw1c : d.w1c = 2 ^ 63) (hrw : d.rw = 0) (hstg : d.stg = 0) (hlck : d.lck = 0) :
    s.swWrite a (2 ^ 31) src = s.fset ⟨key, 63, 63⟩ 0 := by
  have hall (w : Word) : w &&& 18446744073709551615#64 = w := BitVec.and_allOnes
  simp [State.swWrite, hd, State.writeReg, RegDef.hitsLck, hw1c, hrw, hstg, hlck, State.fset, wput_valid_zero, hall, and_valid_mask]

/-- R31, R35: a free capture register takes what comes, and is valid then. -/
theorem State.rd_capture_of_free (s : State) (a : Addr) (v : Nat) (hf : bit (s.rd a).toNat 63 = false) :
    ((s.capture a v).rd a).toNat = v % 2 ^ 63 + 2 ^ 63 := by
  simp only [State.capture, hf, Bool.false_eq_true, if_false, State.rd_wr_self, BitVec.toNat_ofNat]
  omega

theorem exec_captureClear_eq_regWrite (s : State) (src agent : Nat) {addr : Addr} {d : RegDef}
    (hlow : regAt (addr / 8 * 8) = some (d, addr / 8 * 8, false)) (hw1c : d.w1c = 2 ^ 63) :
    exec (.captureClear src agent addr) s = .next (s.regWrite ⟨src, agent⟩ (addr / 8 * 8 + 4) (2 ^ 31)) := by
  have hbit : bit (2 ^ 63) 63 = true := by decide
  show execCaptureClear src agent addr s = _
  simp only [execCaptureClear, hlow, hw1c, hbit, beq_self_eq_true, Bool.and_self, if_true]

theorem State.bit_fset_valid_zero (s : State) (a : Addr) : bit ((s.fset ⟨a, 63, 63⟩ 0).rd a).toNat 63 = false := by
  rw [bit_eq_testBit, s.rd_fset_self ⟨a, 63, 63⟩ 0, testBit_wput _ _ _ _ _ (Nat.le_refl 63) (Nat.lt_succ_self 63)]
  rfl

theorem State.becomes_fset_valid_zero (s : State) (a : Addr) : Becomes s (s.fset ⟨a, 63, 63⟩ 0) [(⟨a, 63, 63⟩, 0)] [] :=
  (Becomes.refl s).fset _ 0 ⟨Nat.le_refl 63, Nat.lt_succ_self 63⟩ (Nat.two_pow_pos _) (fun _ h => nomatch h)

/-- Settles O9: the write of CAPTURE_CLEAR reaches a register without a rule of its own, and sets its `valid` field to 0. -/
theorem captureClearClears : Obligations.CaptureClearClears := by
  unfold Obligations.CaptureClearClears
  intro s src agent addr v d hreach hlow hup hown hw1c hrw hstg hlck
  refine ⟨s.fset ⟨addr / 8 * 8, 63, 63⟩ 0, ?_, s.becomes_fset_valid_zero _, State.rd_capture_of_free _ _ _ (s.bit_fset_valid_zero _)⟩
  rw [exec_captureClear_eq_regWrite s src agent hlow hw1c, s.regWrite_eq_swWrite _ _ hreach hup hown,
    s.swWrite_clears_valid _ hup hw1c hrw hstg hlck]

end Sys2Proof.Machine
end

section
/-! The package architecture: an access that does not decode raises its event, is counted and captured, and ends with an error response (R29–R31). -/

namespace Sys2Proof.Machine

/-! ### The error of an access that does not decode -/

/-- The source that an access is recorded with: the debug port, 0xD, is source 8 (log entry 61). -/
def sourceCode (src : Nat) : Nat := if src = 0xD then 8 else src

/-- R29, R30: an access by no task that does not decode raises its event. -/
def State.raiseUndecoded (s : State) (src agent : Nat) : State :=
  s.raise (if src < 8 ∧ (agent < 18 ∨ agent = 0x21 ∨ agent = 0x22) then 0x2002 else 0x0001)
    (if src < 8 then src else if src = 9 then 9 else 8) (if src < 0xA then agent else 0xFF) 0

/-- R31: PKG_DECODE_ERR keeps what it holds, against an access of source `src`. -/
abbrev State.DecodeHeld (s : State) (src : Nat) : Prop :=
  bit (s.rd Reg.PKG_DECODE_ERR).toNat 63 = true ∧ ¬ (s.mem.decodeAt = some s.now ∧ src < s.fget Reg.PKG_DECODE_ERR_source)

/-- What PKG_DECODE_ERR takes (Table 1.10). -/
def decodeWord (src agent a kind : Nat) : Nat :=
  a % 2 ^ 48 + agent / 16 % 16 * 2 ^ 48 + agent % 16 * 2 ^ 52 + src * 2 ^ 56 + kind % 8 * 2 ^ 60 + 2 ^ 63

theorem bits_addr (a : Nat) : bits a 47 0 = a % 2 ^ 48 := by simp [bits]

/-- What the event and the count of R29 to R31 leave: the capture is still to come. -/
def State.undecodedCounted (s : State) (src agent : Nat) : State := (s.raiseUndecoded src agent).count Reg.PKG_DECODE_CNT_count 1

/-- PKG_DECODE_ERR takes a word at a Device Time. -/
def State.captureUndecoded (s : State) (at_ : Time) (w : Nat) : State :=
  { s.wr Reg.PKG_DECODE_ERR (BitVec.ofNat 64 w) with mem := { s.mem with decodeAt := some at_ } }

/-- What an access by no task does where it does not decode: the event and the count, and the capture where PKG_DECODE_ERR is free for it. -/
theorem State.decodeError_eq (s : State) {src0 : Nat} (agent : Nat) (a : Addr) (kind : Nat) (hlt : sourceCode src0 < 16) :
    s.decodeError src0 agent a kind none =
      if s.DecodeHeld (sourceCode src0) then s.undecodedCounted (sourceCode src0) agent
      else (s.undecodedCounted (sourceCode src0) agent).captureUndecoded s.now (decodeWord (sourceCode src0) agent a kind) := by
  generalize hsrc : sourceCode src0 = src at hlt ⊢
  unfold State.decodeError
  extract_lets +onlyGivenNames src' unit origin det s1 s2 v
  have hs : src' = src := by simpa [src', sourceCode] using hsrc
  have hmod : src % 16 = src := Nat.mod_eq_of_lt hlt
  have horigin : origin = if src < 8 then src else if src = 9 then 9 else 8 := by simp only [origin, hs, beq_iff_eq]
  have hunit : unit = true ↔ src < 8 ∧ (agent < 18 ∨ agent = 0x21 ∨ agent = 0x22) := by simp [unit, hs, or_assoc]
  have hs1 : s1 = s.raiseUndecoded src agent := by
    simp only [s1, hunit, horigin, hs, State.raiseUndecoded]
    split
    · next h =>
      have hlow : src < 0xA := by omega
      rw [if_pos hlow]
      rfl
    · rfl
  have hs2 : s2 = s.undecodedCounted src agent := congrArg (State.count · _ 1) hs1
  have hv : v + 2 ^ 63 = decodeWord src agent a kind := by simp only [v, hs, hmod, bits_addr, decodeWord]
  have hheld : (s.flag Reg.PKG_DECODE_ERR_valid &&
      !(s.mem.decodeAt == some s.now && decide (src' % 16 < s.fget Reg.PKG_DECODE_ERR_source))) = true ↔ s.DecodeHeld src := by
    simp only [State.DecodeHeld, State.flag_valid, hs, hmod, Bool.and_eq_true, Bool.not_eq_true', ← Bool.not_eq_true, beq_iff_eq,
      decide_eq_true_eq]
  rw [← hv, ← hs2]
  exact ite_congr (propext hheld) (fun _ => rfl) (fun _ => rfl)

theorem decodeWord_lt {src : Nat} (agent a kind : Nat) (hlt : src < 16) : decodeWord src agent a kind < 2 ^ 64 := by
  simp only [decodeWord]
  omega

theorem State.fget_undecodedCounted (s : State) (src agent : Nat) :
    (s.undecodedCounted src agent).fget Reg.PKG_DECODE_CNT_count = min (s.fget Reg.PKG_DECODE_CNT_count + 1) (2 ^ 32 - 1) := by
  have h := (s.raiseUndecoded src agent).fget_fset_self Reg.PKG_DECODE_CNT_count (min (s.fget Reg.PKG_DECODE_CNT_count + 1) (2 ^ 32 - 1))
    (by decide) (by decide)
  refine h.trans (Nat.mod_eq_of_lt ?_)
  exact Nat.lt_of_le_of_lt (Nat.min_le_right _ _) (by decide)

theorem State.rd_undecodedCounted_ne (s : State) (src agent : Nat) {b : Addr} (hb : b ≠ Reg.PKG_DECODE_CNT) :
    (s.undecodedCounted src agent).rd b = s.rd b :=
  State.rd_fset_ne _ Reg.PKG_DECODE_CNT_count _ _ hb

theorem State.rd_captureUndecoded_self (s : State) (at_ : Time) {w : Nat} (hw : w < 2 ^ 64) :
    ((s.captureUndecoded at_ w).rd Reg.PKG_DECODE_ERR).toNat = w :=
  (congrArg BitVec.toNat (s.rd_wr_self _ _)).trans ((BitVec.toNat_ofNat w 64).trans (Nat.mod_eq_of_lt hw))

theorem State.rd_captureUndecoded_ne (s : State) (at_ : Time) (w : Nat) {b : Addr} (hb : b ≠ Reg.PKG_DECODE_ERR) :
    (s.captureUndecoded at_ w).rd b = s.rd b := s.rd_wr_ne _ _ _ hb

theorem State.fget_captureUndecoded_ne (s : State) (at_ : Time) (w : Nat) {f : Fld} (hf : f.addr ≠ Reg.PKG_DECODE_ERR) :
    (s.captureUndecoded at_ w).fget f = s.fget f := congrArg (wbits · f.hi f.lo) (s.rd_captureUndecoded_ne at_ w hf)

theorem State.captureUndecoded_frame (s : State) (at_ : Time) (w : Nat) :
    s.captureUndecoded at_ w = { s with regs := (s.captureUndecoded at_ w).regs, mem := { s.mem with decodeAt := some at_ } } := rfl

theorem State.undecodedCounted_frame (s : State) (src agent : Nat) :
    s.undecodedCounted src agent =
      { s with regs := (s.undecodedCounted src agent).regs, raised := (s.undecodedCounted src agent).raised } := rfl

theorem State.undecodedCounted_raised (s : State) (src agent : Nat) :
    (s.undecodedCounted src agent).raised = (s.raiseUndecoded src agent).raised := rfl

/-- R31: an access that finds PKG_DECODE_ERR held is counted and not captured. -/
theorem State.undecoded_of_held (s : State) {src0 : Nat} (agent : Nat) (a : Addr) (kind : Nat) (hheld : s.DecodeHeld (sourceCode src0)) :
    Undecoded s (s.undecodedCounted (sourceCode src0) agent) src0 agent a kind [] := by
  refine ⟨rfl, s.fget_undecodedCounted _ agent, ?_, fun b hb _ => s.rd_undecodedCounted_ne _ _ hb, ?_, ?_⟩
  · exact (congrArg BitVec.toNat (s.rd_undecodedCounted_ne _ _ (by decide))).trans (if_pos hheld).symm
  · exact congrArg (fun d => { s.mem with decodeAt := d }) (if_pos hheld).symm
  · rw [List.append_nil]
    exact s.undecodedCounted_frame _ agent

/-- R31: an access that finds PKG_DECODE_ERR free is captured. -/
theorem State.undecoded_of_free (s : State) {src0 : Nat} (agent : Nat) (a : Addr) (kind : Nat)
    (hlt : sourceCode src0 < 16) (hfree : ¬ s.DecodeHeld (sourceCode src0)) :
    Undecoded s ((s.undecodedCounted (sourceCode src0) agent).captureUndecoded s.now (decodeWord (sourceCode src0) agent a kind))
      src0 agent a kind [] := by
  generalize hw : decodeWord (sourceCode src0) agent a kind = w
  have hlt' : w < 2 ^ 64 := hw ▸ decodeWord_lt agent a kind hlt
  have hcnt := s.fget_undecodedCounted (sourceCode src0) agent
  have hrd := fun b hb => s.rd_undecodedCounted_ne (sourceCode src0) agent (b := b) hb
  have hraised : (s.undecodedCounted (sourceCode src0) agent).raised = _ := s.undecodedCounted_raised _ agent
  obtain ⟨r, e, hs2⟩ : ∃ r e, s.undecodedCounted (sourceCode src0) agent = { s with regs := r, raised := e } :=
    ⟨_, _, s.undecodedCounted_frame _ _⟩
  rw [hs2] at hcnt hrd hraised ⊢
  unfold State.DecodeHeld sourceCode at hfree
  unfold decodeWord sourceCode at hw
  refine ⟨hraised, (State.fget_captureUndecoded_ne _ _ _ (by decide)).trans hcnt, ?_, ?_, ?_, ?_⟩
  · rw [if_neg hfree, hw]
    exact State.rd_captureUndecoded_self _ s.now hlt'
  · exact fun b hb hb' => (State.rd_captureUndecoded_ne _ _ _ hb').trans (hrd b hb)
  · rw [if_neg hfree]
    rfl
  · rw [List.append_nil]
    exact State.captureUndecoded_frame _ _ _

/-- What leaves the part afterwards comes on top. -/
theorem Undecoded.append_out {s t : State} {src0 agent kind : Nat} {a : Addr} (h : Undecoded s t src0 agent a kind []) (out : List Msg) :
    Undecoded s { t with out := t.out ++ out } src0 agent a kind out := by
  obtain ⟨hraised, hcnt, herr, hrd, hmem, hframe⟩ := h
  have hout : t.out = s.out := (congrArg State.out hframe).trans (List.append_nil _)
  refine ⟨hraised, hcnt, herr, hrd, hmem, ?_⟩
  rw [hout]
  exact congrArg (fun u : State => { u with out := s.out ++ out }) hframe

theorem State.undecoded_decodeError (s : State) {src0 : Nat} (agent : Nat) (a : Addr) (kind : Nat) (out : List Msg) (hlt : src0 < 16) :
    Undecoded s { s.decodeError src0 agent a kind none with out := (s.decodeError src0 agent a kind none).out ++ out } src0 agent a kind out := by
  have hsrc : sourceCode src0 < 16 := by
    unfold sourceCode
    split <;> omega
  refine Undecoded.append_out ?_ out
  rw [s.decodeError_eq agent a kind hsrc]
  split
  · next hheld => exact s.undecoded_of_held agent a kind hheld
  · next hfree => exact s.undecoded_of_free agent a kind hsrc hfree

/-! ### Accesses that do not decode -/

/-- R23: the partner has no path to registers. -/
theorem exec_registerWrite_partner (s : State) (agent addr v : Nat) : exec (.registerWrite 10 agent addr v) s = .next s := rfl

theorem exec_registerWrite_undecodable (s : State) {src addr kind : Nat} (agent v : Nat) (hsrc : src ≠ 10)
    (ht : s.target src (addr / 4 * 4) = .undecodable kind) :
    exec (.registerWrite src agent addr v) s =
      let s1 := s.decodeError src agent (addr / 4 * 4) kind none
      .next { s1 with out := s1.out ++ [.done src agent (addr / 4 * 4) [] 0 (kind + 1)] } := by
  show execRegisterWrite src agent addr v s = _
  simp only [execRegisterWrite, ht, beq_eq_false_iff_ne.mpr hsrc, Bool.false_eq_true, if_false]

/-- A request as `PACKAGE_ACCESS` forms it. -/
def accessReq (src agent addr len : Nat) (data : Option (List Byte)) (comb : Option (Nat × Nat)) (chk : Nat) : MemReq :=
  { src := src, agent := agent, addr := addr, len := match data with | some d => d.length | none => len, write := data.isSome,
    data := data.getD [], comb := comb, chk := chk }

/-- A requester that names no task takes its access, within one block, to its system port. -/
theorem exec_packageAccess_eq_sysAccess (s : State) {src addr : Nat} (agent len : Nat) (data : Option (List Byte)) (comb : Option (Nat × Nat))
    (chk ecc : Nat) (hle : src ≤ 13) (hpart : src ≠ 10) (hdbg : src = 13 → s.fget Reg.SEC_STATUS_debug_level ≠ 0)
    (hpos : 0 < (accessReq src agent addr len data comb chk).len)
    (hblk : addr % 256 + (accessReq src agent addr len data comb chk).len ≤ 256) :
    exec (.packageAccess src agent addr len data none comb chk ecc) s =
      .next (s.sysAccess (accessReq src agent addr len data comb chk) ecc) := by
  show execPackageAccess src agent addr len data none comb chk ecc s = _
  unfold execPackageAccess
  extract_lets n q reg
  refine if_neg ?_
  have hn : n = (accessReq src agent addr len data comb chk).len := rfl
  simp only [Bool.or_eq_true, Bool.and_eq_true, beq_iff_eq, decide_eq_true_eq, not_or, hn]
  refine ⟨⟨⟨⟨by omega, by omega⟩, hpart⟩, by omega⟩, fun h => ?_⟩
  exact hdbg h.1.1 h.2

/-- R29: an access at no partition's port ends at the requester with the error response. -/
theorem State.sysAccess_undecodable (s : State) {q : MemReq} {kind : Nat} (ecc : Nat) (hpart : q.src ≠ 10) (hlink : q.link = none)
    (ht : s.target q.src q.addr = .undecodable kind) :
    s.sysAccess q ecc =
      let s1 := s.decodeError q.src q.agent q.addr kind none
      { s1 with out := s1.out ++ [.done q.src q.agent q.addr q.zeros 0 (kind + 1)] } := by
  simp only [State.sysAccess, ht, State.endAccess, beq_eq_false_iff_ne.mpr hpart, Bool.false_eq_true, if_false, hlink]

theorem packageAccess_undecodable (s : State) {src addr kind : Nat} (agent len : Nat) (data : Option (List Byte)) (hle : src ≤ 13)
    (hpart : src ≠ 10) (hdbg : src = 13 → s.fget Reg.SEC_STATUS_debug_level ≠ 0) (hpos : 0 < (accessReq src agent addr len data none 0).len)
    (hblk : addr % 256 + (accessReq src agent addr len data none 0).len ≤ 256) (ht : s.target src addr = .undecodable kind) :
    ∃ t, exec (.packageAccess src agent addr len data none none 0 0) s = .next t ∧
      Undecoded s t src agent addr kind [.done src agent addr (accessReq src agent addr len data none 0).zeros 0 (kind + 1)] := by
  rw [exec_packageAccess_eq_sysAccess s agent len data none 0 0 hle hpart hdbg hpos hblk, State.sysAccess_undecodable s 0 hpart rfl ht]
  exact ⟨_, rfl, s.undecoded_decodeError agent addr kind _ (Nat.lt_of_le_of_lt hle (by decide))⟩

/-- Settles O10: a register write and both kinds of package access come down to `State.decodeError` by no task. -/
theorem undecodableAccess : Obligations.UndecodableAccess := by
  unfold Obligations.UndecodableAccess
  refine ⟨?_, exec_registerWrite_partner, ?_, ?_⟩
  · intro s src agent addr v kind hlt hpart ht
    rw [exec_registerWrite_undecodable s agent v hpart ht]
    exact ⟨_, rfl, s.undecoded_decodeError agent _ kind _ hlt⟩
  · intro s src agent addr n kind hle hpart hdbg hpos hblk ht
    exact packageAccess_undecodable s agent n none hle hpart hdbg hpos hblk ht
  · intro s src agent addr kind data hle hpart hdbg hdata hblk ht
    exact packageAccess_undecodable s agent 0 (some data) hle hpart hdbg (List.length_pos_iff.mpr hdata) hblk ht

end Sys2Proof.Machine
end

section
/-! The package architecture: a request of a hub requester to the bulk tier passes its system port in its time and waits at its channel (R25, R218, R221,
R223). -/

namespace Sys2Proof.Machine

/-- A request for the bulk tier waits at its channel from its arrival. -/
theorem State.arrive_bulk (s : State) {q : MemReq} {off : Nat} (ecc : Nat) (hlink : q.link = none) (ht : s.target q.src q.addr = .bulk off) :
    s.arrive q ecc = { s with mem := { s.mem with waiting := s.mem.waiting ++ [{ q with home := 8, arr := s.now }] } } := by
  simp [State.arrive, hlink, ht, Target.home]

/-- Where an address decodes to does not depend on what waits, is held or was paced. -/
theorem State.target_mem (s : State) (m : MemState) (src : Nat) (a : Addr) : ({ s with mem := m } : State).target src a = s.target src a := rfl

/-- The regulation state after a system port with its next block due at `due` has issued one (R223). -/
def MemState.charge (m : MemState) (due now : Time) (key : Nat) : MemState :=
  if due < now then { m with sysFrom := smPut 0 m.sysFrom key now, sysCnt := smPut 0 m.sysCnt key 1 }
  else { m with sysCnt := smPut 0 m.sysCnt key (smGet 0 m.sysCnt key + 1) }

theorem State.sysCharge_eq (s : State) (key share : Nat) :
    s.sysCharge key share = { s with mem := s.mem.charge (s.sysDue key share) s.now key } := by
  unfold State.sysCharge MemState.charge
  split
  · rfl
  · rfl

/-- A request waits at its channel of the bulk tier from `now` on. -/
def MemState.waits (m : MemState) (q : MemReq) (now : Time) : MemState :=
  { m with waiting := m.waiting ++ [{ q with issue := now, home := 8, arr := now }] }

/-- The pacing of a port and the requests that wait are apart. -/
theorem MemState.charge_waits (m : MemState) (due now : Time) (key : Nat) (q : MemReq) :
    (m.charge due now key).waits q now = (m.waits q now).charge due now key := by
  unfold MemState.charge
  split
  · rfl
  · rfl

/-- A hub requester is on the bulk tier's side of the links: its request arrives as it issues. -/
theorem State.send_issued_bulk (s : State) {q : MemReq} {off : Nat} (ecc : Nat) (hsrc : 8 ≤ q.src) (hlink : q.link = none)
    (ht : s.target q.src q.addr = .bulk off) : s.send { q with issue := s.now } ecc = { s with mem := s.mem.waits q s.now } := by
  have hfrom : ¬ q.src < 8 := Nat.not_lt.mpr hsrc
  simp only [State.send, ht, hfrom, if_false, Target.home, beq_self_eq_true, if_true]
  exact s.arrive_bulk (q := { q with issue := s.now }) ecc hlink ht

theorem State.sysIssue_bulk (s : State) {q : MemReq} {off : Nat} (key share ecc : Nat) (hsrc : 8 ≤ q.src) (hlink : q.link = none)
    (ht : s.target q.src q.addr = .bulk off) :
    s.sysIssue q key share ecc = { s with mem := (s.mem.charge (s.sysDue key share) s.now key).waits q s.now } := by
  rw [State.sysIssue, State.sysCharge_eq]
  exact State.send_issued_bulk { s with mem := s.mem.charge (s.sysDue key share) s.now key } ecc hsrc hlink ((s.target_mem _ _ _).trans ht)

theorem State.sysAccess_bulk (s : State) {q : MemReq} {off key p share : Nat} (ecc : Nat) (hsrc : 8 ≤ q.src) (hlink : q.link = none)
    (ht : s.target q.src q.addr = .bulk off) (hport : s.sysPort q.src q.agent (.bulk off) = some (key, p, share)) :
    s.sysAccess q ecc =
      let q1 := { q with sys := p, ready := s.now }
      { s with mem := if s.pow.committed = false then s.mem.waits q1 s.now
        else if s.heldOf none 4 key = [] ∧ share ≠ 0 ∧ s.sysDue key share ≤ s.now then
          (s.mem.charge (s.sysDue key share) s.now key).waits q1 s.now
        else { s.mem with held := s.mem.held ++ [q1] } } := by
  simp only [State.sysAccess, ht, hport, Bool.not_eq_true', Bool.and_eq_true, List.isEmpty_iff, bne_iff_ne, decide_eq_true_eq, and_assoc]
  split
  · exact s.send_issued_bulk (q := { q with sys := p, ready := s.now }) ecc hsrc hlink ht
  · split
    · exact s.sysIssue_bulk (q := { q with sys := p, ready := s.now }) key share ecc hsrc hlink ht
    · rfl

theorem exec_heldBlockIssue_bulk (s : State) {i : Nat} {q : MemReq} {off key p share : Nat} (hq : s.mem.held[i]? = some q)
    (hrun : q.run = none) (hlink : q.link = none) (hsrc : 8 ≤ q.src) (ht : s.target q.src q.addr = .bulk off)
    (hport : s.sysPort q.src q.agent (.bulk off) = some (key, p, share)) :
    exec (.heldBlockIssue i) s =
      if ({ s with mem := { s.mem with held := s.mem.held.take i } } : State).heldOf none 4 key = [] ∧ share ≠ 0 ∧
          s.sysDue key share ≤ s.now then
        let m : MemState := { s.mem with held := s.mem.held.take i ++ s.mem.held.drop (i + 1) }
        .next { s with mem := (m.waits q s.now).charge (s.sysDue key share) s.now key }
      else .next s := by
  show execHeldBlockIssue i s = _
  simp only [execHeldBlockIssue, hq, hrun, ht, hport, dropAt, List.eraseIdx_eq_take_drop_succ, Bool.and_eq_true, List.isEmpty_iff, bne_iff_ne,
    decide_eq_true_eq, and_assoc]
  refine ite_congr rfl (fun _ => ?_) (fun _ => rfl)
  rw [← MemState.charge_waits]
  exact congrArg Host.Outcome.next (State.sysIssue_bulk _ key share 0 hsrc hlink ((s.target_mem _ _ _).trans ht))

/-- Settles O11: what issues at its system port is charged to it and sent to the bulk tier on the hub's own side. -/
theorem accessWaitsAtItsChannel : Obligations.AccessWaitsAtItsChannel := by
  unfold Obligations.AccessWaitsAtItsChannel
  constructor
  · intro s src agent addr len off key p share chk ecc data comb n hsrc hle hpart hdbg hpos hblk ht hport
    rw [exec_packageAccess_eq_sysAccess s agent len data comb chk ecc hle hpart hdbg hpos hblk,
      s.sysAccess_bulk (q := accessReq src agent addr len data comb chk) ecc hsrc rfl ht hport]
    exact ⟨_, rfl, rfl⟩
  · intro s i q off key p share hq hrun hlink hsrc ht hport due first m
    rw [exec_heldBlockIssue_bulk s hq hrun hlink hsrc ht hport]
    constructor
    · intro hfirst hshare hdue
      rw [if_pos ⟨hfirst, hshare, hdue⟩]
      exact ⟨_, rfl, rfl⟩
    · intro hwait
      rw [if_neg]
      rintro ⟨hfirst, hshare, hdue⟩
      rcases hwait with h | h | h
      · exact h hfirst
      · exact hshare h
      · exact Nat.not_lt.mpr hdue h

end Sys2Proof.Machine
end
